-- ==== Sys2Proof/Word.lean ====
section
/-! DEFINITION. Word types of the Biral slice: bytes, lines, addresses, fabric time, and the sparse store. -/

namespace Sys2Proof

/-- One byte. -/
abbrev Byte := BitVec 8

/-- A 128 B line: byte `o` is bits `8 o + 7` to `8 o` (R5, R29). -/
abbrev Line := BitVec 1024

/-- One bit for each byte of a line. -/
abbrev Mask := BitVec 128

/-- A line address PA[43:7] (R7). -/
abbrev LAddr := BitVec 37

/-- A fabric time value: 64 bits of 1 ns ticks (R8, R26). -/
abbrev FT := BitVec 64

/-- A 32-byte record (event queue, error log, trace, samples). -/
abbrev Rec := BitVec 256

/-- A sparse map from keys to values: keys strictly rising, and no entry that equals what an
unlisted key reads as. The operations are in Machine/Store.lean. -/
abbrev Store (α : Type) := List (Nat × α)

end Sys2Proof
end

