-- ==== Sys2Proof/Syntax.lean ====
section
/-! DEFINITION. The commands of the slice: one constructor for each row of spec/opcode_table.json, with its operands. -/

namespace Sys2Proof

/-- A dynamic-plane port (Table 1.3). -/
inductive DPort where
  | d0 | d1
deriving DecidableEq, Repr

/-- A data port: D0, D1 or the scheduled plane. -/
inductive Port where
  | d0 | d1 | s
deriving DecidableEq, Repr

/-- A message: a 256-bit header and 0 to 3 beats of 64 B, each with its byte enables (R28). -/
structure Msg where
  hdr   : BitVec 256
  beats : List (BitVec 512)
  be    : List (BitVec 64)
deriving DecidableEq, Repr

/-- What an M-port tag names (Table 16.2): a Mire entry, the miss entry of a write-around, a
clean-write slot of DRAIN CLEAN, or the write of a WTHRU write hit, for which the table gives no form. -/
inductive MTag where
  | mire (i : Fin 64) | around (e : Fin 1024) | clean (k : Fin 64) | wthru
deriving DecidableEq, Repr

/-- Where a REG-space request waits: the REG queue of a port, or the register hardware (R19). -/
inductive RegLoc where
  | d0 | d1 | hw
deriving DecidableEq, Repr

/-- A sample of the FT bus: FT_SYNC, and FT_COUNT in reflected binary Gray code (R339). -/
structure FtSample where
  sync  : Bool
  count : BitVec 64
deriving DecidableEq, Repr

/-- The commands, one for each row of the table, in the table's order. -/
inductive Instr where
  -- ingress
  | requestIngress (p : DPort) (m : Msg) (qc : BitVec 4)
  | sPortRequest (m : Msg)
  | creditLend (p : DPort) (qwant : BitVec 16)
  -- requests at their tag-pipe step
  | rd (p : Port)
  | wr (p : Port)
  | red (p : DPort)
  | atom (p : DPort)
  | twait (p : DPort)
  | tread (p : DPort)
  | chainRd
  | maceSub (p : DPort)
  | rdShr (p : DPort)
  | rdUnq (p : DPort)
  | upgrade (p : DPort)
  | wb (p : DPort)
  | evict (p : DPort)
  | atomC (p : DPort)
  | rdOnce (p : DPort)
  | regAccess (p : DPort)
  | regTimeout (l : RegLoc) (k : Nat)
  -- answers to the home and other messages
  | snpAck (p : DPort) (m : Msg)
  | compAck (p : DPort) (m : Msg)
  | dataHome (p : DPort) (m : Msg)
  | wbData (p : DPort) (m : Msg)
  | hteDeferredWrite (h : Fin 256)
  | hteRelookup (k : Nat)
  | homeTimeout (h : Fin 256)
  | unmatchedAnswer (p : DPort) (m : Msg)
  | unexpectedMessage (p : DPort) (m : Msg)
  | tempRpt (p : DPort) (m : Msg)
  | heldRequestRepresent (p : DPort) (k : Nat)
  -- memory port and fills
  | mCommandIssue
  | mCreditReturn (write : Bool)
  | mReadData (e : Fin 1024) (d : Line) (poi : BitVec 2)
  | fillInstall (e : Fin 1024)
  | mWriteAck (t : MTag) (err : Bool)
  | sealMacReadData (e : Fin 1024) (status : BitVec 3) (mac : BitVec 64)
  | macWriteComp (txid : BitVec 16) (status : BitVec 3)
  | prefetchFill
  | exactStep
  -- tallies
  | twaitRelease (k : Nat)
  | tallyDeadline (k : Nat)
  -- sweeps and generations
  | rehashSweepStep
  | sedgeSweepStep
  | conversionSweepStep
  | commitApply
  -- Fen and exact regions
  | fenAllocZeroed (k : Nat)
  | fenFreeReclaim (k : Nat)
  | transferLineIssue (seg : Fin 64)
  | transferLineResponse (txid : BitVec 16) (status : BitVec 3) (d : Line)
  | flipReady (seg : Fin 64)
  | flipEffect (seg : Fin 64)
  | regionOpen (rid : Fin 16)
  | resolveReady (rid : Fin 16)
  | resolveStart (rid : Fin 16)
  | resolveLineWrite (rid : Fin 16)
  | resolveDeadline (rid : Fin 16)
  -- Mace
  | maceIndexRead (slot : Fin 8)
  | maceIndexResponse (txid : BitVec 16) (status : BitVec 3) (d : Line)
  | maceElementIssue
  | maceElement (slot : Fin 8) (id : Nat)
  | maceEnd (slot : Fin 8)
  | maceRecordComp (txid : BitVec 16) (status : BitVec 3)
  -- mailbox commands and the steps of their work
  | getInfo
  | setTable
  | getTable
  | commit
  | commitCancel
  | fenAlloc
  | fenFree
  | fenLoad
  | fenFlush
  | fenFlip
  | accOpen
  | accResolve
  | bankOffline
  | bankOnline
  | bankTrim
  | bankSweepStep (b : Fin 64)
  | bankTrimCalibrationDone (b : Fin 64) (setting : Option (BitVec 8))
  | ctrRead
  | ctrLoad
  | ctrZero
  | ctrStop
  | ctrStart
  | nativeSampleSubject (n : Fin 64)
  | nativeSampleExpiry (n : Fin 64)
  | dumpNow
  | dumpRingReset
  | dump
  | periodicSample (n : Fin 64)
  | sampleWrite
  | dmaWriteComp (txid : BitVec 16) (status : BitVec 3)
  | tierTempGauge (readings : BitVec 64)
  | traceDmaWrite (b : Fin 4)
  | traceIdleFlush (b : Fin 4)
  | traceDmaComp (txid : BitVec 16) (status : BitVec 3)
  | traceTriggerCmd
  | traceRestart
  | traceFlush
  | traceStop
  | watchRead
  | watchClear
  | watchArm
  | watchDisarm
  | watchScan
  | watchScanStep
  | drainHalt
  | drainHaltDone
  | drainClean
  | drainCleanSweepStep
  | drainEmpty
  | drainEmptySweepStep
  | resume
  | inspectLine
  | wfgSnapshot
  | snapshotWriteComp (txid : BitVec 16) (status : BitVec 3)
  | fwLoad
  | fwActivate
  | fwReady
  | activationRevert
  | watchdogExpiry
  | stewardTrap
  | tenantSwitch
  | tenantSweepStep
  | sealKeyLoad
  | sealKeyErase
  | invalidCommand
  | cmdWhileBusy (k : Nat)
  | mailboxDataWrite (k : Nat)
  | mailboxDataRead (k : Nat)
  | dresetAbort (k : Nat)
  | mailboxStreamTimeout (t : Fin 16)
  | evqPop (k : Nat)
  | errPop (k : Nat)
  | fatalClr (k : Nat)
  | alertClear (k : Nat)
  | registerWrite (k : Nat)
  -- time, power, reset and presence
  | regulationWindowEnd (c : Fin 16)
  | patrolScrubStep
  | leakDecay
  | live
  | ftValid (run : List FtSample)
  | ftInvalid
  | pmGrant
  | powerTransitionDone
  | porstAssert
  | porstRelease (chip : BitVec 14) (sreqid : BitVec 12)
  | bootWord (data : BitVec 32)
  | drstAssert
  | drstRelease
  | supplyFail
  | egressHeaderTransfer (p : DPort) (ordy : BitVec 5)
  | eventNotice
  | inspectLineRecord
deriving DecidableEq, Repr

end Sys2Proof
end

