-- ==== Sys2Proof/Decode.lean ====
section
/-! DEFINITION. Commands that a word spells: the table gives no row any bits, so no word spells a command (log 21). -/

namespace Sys2Proof

/-- The command that the low `nbits` bits of `w` spell: none, since the table gives no row an encoding. -/
def decodeTableWord (_nbits _w : Nat) : Option Instr := none

end Sys2Proof
end

