-- ==== Sys2Proof/Machine/Bits.lean ====
section
/-! DEFINITION. Bit fields, packing of records, and the bytes and words of a line. -/

namespace Sys2Proof.Machine

/-- Bits `lo + w - 1` to `lo` of a natural number. -/
def fld (x lo w : Nat) : Nat := (x >>> lo) % 2 ^ w

/-- Bit `i`. -/
def nbit (x i : Nat) : Bool := x.testBit i

/-- The value of the fields (low bit, width, value), each cut to its width. -/
def packNat (fs : List (Nat × Nat × Nat)) : Nat := fs.foldl (fun a f => a ||| ((f.2.2 % 2 ^ f.2.1) <<< f.1)) 0

/-- A record of `n` bits from its fields (low bit, width, value). -/
def pack (n : Nat) (fs : List (Nat × Nat × Nat)) : BitVec n := BitVec.ofNat n (packNat fs)

/-- 1 for true. -/
def b2n (b : Bool) : Nat := if b then 1 else 0

def parityNat : Nat → Nat → Bool
  | 0, _ => false
  | k + 1, x => xor (x % 2 = 1) (parityNat k (x / 2))

/-- The parity of a bit vector. -/
def parity {n : Nat} (x : BitVec n) : Bool := parityNat n x.toNat

/-- The number of ones among the low `k` bits. -/
def popNat : Nat → Nat → Nat
  | 0, _ => 0
  | k + 1, x => x % 2 + popNat k (x / 2)

/-- Byte `o` of a line (R29). -/
def lineByte (d : Line) (o : Nat) : Byte := d.extractLsb' (8 * o) 8

/-- The 8 B word `w` of a line. -/
def lineWord (d : Line) (w : Nat) : BitVec 64 := d.extractLsb' (64 * w) 64

/-- `n` bytes of a line from offset `o`, as a number. -/
def lineNat (d : Line) (o n : Nat) : Nat := fld d.toNat (8 * o) (8 * n)

/-- The line with `n` bytes at offset `o` set to `v`. -/
def linePut (d : Line) (o n v : Nat) : Line :=
  let m : Nat := (2 ^ (8 * n) - 1) <<< (8 * o)
  BitVec.ofNat 1024 ((d.toNat &&& (2 ^ 1024 - 1 - m)) ||| (((v % 2 ^ (8 * n)) <<< (8 * o)) &&& m))

/-- Spreads bit `o` of a byte mask over the eight bits of byte `o`. -/
def spreadMask : Nat → Nat → Nat
  | 0, _ => 0
  | k + 1, m => spreadMask k m ||| (if nbit m k then 0xFF <<< (8 * k) else 0)

/-- The bytes of `m` from `src`, the others from `d` (R41). -/
def lineMerge (d src : Line) (m : Mask) : Line :=
  let x : Line := BitVec.ofNat 1024 (spreadMask 128 m.toNat)
  (src &&& x) ||| (d &&& ~~~x)

/-- Bytes `o` to `o + n - 1` as a mask. -/
def spanMask (o n : Nat) : Mask := BitVec.ofNat 128 ((2 ^ n - 1) <<< o)

def fullMask : Mask := BitVec.allOnes 128

def maskCount (m : Mask) : Nat := popNat 128 m.toNat

/-- The line of two beats (R29). -/
def beatsLine (b0 b1 : BitVec 512) : Line := b1 ++ b0

def lineBeat (d : Line) (i : Nat) : BitVec 512 := d.extractLsb' (512 * i) 512

/-- Bytes outside the span read as 0 (R41). -/
def lineSpan (d : Line) (o n : Nat) : Line := lineMerge 0 d (spanMask o n)

/-- PA[43:7] of an address. -/
def lineAddr (a : Nat) : LAddr := BitVec.ofNat 37 (a / 128)

/-- The number that a reflected binary Gray code stands for (R339). -/
def grayDecode (g : BitVec 64) : Nat :=
  ([1, 2, 4, 8, 16, 32].foldl (fun x k => x ^^^ (x >>> k)) g).toNat

/-- Ceiling division. -/
def cdiv (a b : Nat) : Nat := (a + b - 1) / b

end Sys2Proof.Machine
end

