-- ==== Sys2Proof/Machine/Crypto.lean ====
section
/-! DEFINITION. AES-256, XTS, CMAC and CRC-32, from the standards that R249, R250 and R281 name (log 16). Blocks and keys are lists of bytes. -/

namespace Sys2Proof.Machine

namespace Aes

/-- The S-box of FIPS 197, byte `i` of each 64-byte part in bits `8 i + 7` to `8 i`. -/
def sbox (x : Nat) : Nat :=
  fld (match x / 64 with
    | 0 => 0x75b227ebe28012079a059618c323c7041531d871f1e5a534ccf73f362693fdb7c072a49cafa2d4adf04759fa7dc982ca76abd7fe2b670130c56f6bf27b777c63
    | 1 => 0xd2f3ff1021dab6bcf5389d928f40a351a89f3c507f02f94585334d43fbaaefd0cf584c4a39becb6a5bb1fc20ed00d153842fe329b3d63b52a05a6e1b1a2c8309
    | 2 => 0x08ae7a65eaf4566ca94ed58d6d37c8e779e4959162acd3c25c2406490a3a32e0db0b5ede14b8ee4688902a22dc4f816073195d643d7ea7c41744975fec130ccd
    | _ => 0x16bb54b00f2d99416842e6bf0d89a18cdf2855cee9871e9b948ed9691198f8e19e1dc186b95735610ef6034866b53e708a8bbd4b1f74dde8c6b4a61c2e2578ba) (8 * (x % 64)) 8

/-- The inverse S-box of FIPS 197. -/
def isbox (x : Nat) : Nat :=
  fld (match x / 64 with
    | 0 => 0x25d18b6d49a25b76b224d92866a12e084ec3fa420b954cee3d23c2a632947b54cbe9dec444438e3487ff2f9b8239e37cfbd7f3819ea340bf38a53630d56a0952
    | 1 => 0x6b8a130103bdafc1020f3fca8f1e2cd00645b3b80558e4f70ad3bc8c00abd890849d8da75746155edab9edfd5048706c92b6655dcc5ca4d41698688664f6f872
    | 2 => 0xf45acd78fec0db9a2079d2c64b3e56fc1bbe18aa0e62b76f89c5291d711af1476edf751ce837f9e28535ade72274ac9673e6b4f0cecff297eadc674f4111913a
    | _ => 0x7d0c2155631469e126d677ba7e042b17619953833cbbebc8b0f52aae4d3be0a0ef9cc9939f7ae52d0d4ab519a97f51605fec8027591012b131c7078833a8dd1f) (8 * (x % 64)) 8

/-- Multiplication by x in GF(2^8). -/
def xt (a : Nat) : Nat := if 128 ≤ a then ((2 * a) % 256) ^^^ 0x1B else 2 * a

/-- Product in GF(2^8) by the low four bits of `k`. -/
def mul (k a : Nat) : Nat :=
  (if nbit k 0 then a else 0) ^^^ (if nbit k 1 then xt a else 0) ^^^ (if nbit k 2 then xt (xt a) else 0) ^^^
    (if nbit k 3 then xt (xt (xt a)) else 0)

def xorL (a b : List Nat) : List Nat := List.zipWith (· ^^^ ·) a b

def byte (l : List Nat) (i : Nat) : Nat := l.getD i 0

/-- One word of the key schedule of AES-256: `w` holds the words so far, newest first. -/
def nextWord (i : Nat) (w : List (List Nat)) : List Nat :=
  let t := w.getD 0 []
  let t := if i % 8 = 0 then xorL [sbox (byte t 1), sbox (byte t 2), sbox (byte t 3), sbox (byte t 0)] [2 ^ (i / 8 - 1), 0, 0, 0]
    else if i % 8 = 4 then t.map sbox else t
  xorL (w.getD 7 []) t

def words : Nat → Nat → List (List Nat) → List (List Nat)
  | 0, _, w => w
  | n + 1, i, w => words n (i + 1) (nextWord i w :: w)

/-- The fifteen round keys of a 32-byte key. -/
def roundKeys (key : List Nat) : List (List Nat) :=
  let first := (List.range 8).map fun i => (key.drop (4 * i)).take 4
  let w := (words 52 8 first.reverse).reverse
  (List.range 15).map fun r => ((w.drop (4 * r)).take 4).flatten

/-- SHIFTROWS, and its inverse. -/
def shiftRows (b : List Nat) : List Nat := (List.range 16).map fun i => byte b ((i + 4 * (i % 4)) % 16)
def unshiftRows (b : List Nat) : List Nat := (List.range 16).map fun i => byte b ((i + 16 - 4 * (i % 4)) % 16)

/-- A column product with the circulant of `m`. -/
def mixWith (m : List Nat) (b : List Nat) : List Nat :=
  (List.range 16).map fun i =>
    let c := 4 * (i / 4)
    (List.range 4).foldl (fun a j => a ^^^ mul (byte m ((j + 4 - i % 4) % 4)) (byte b (c + j))) 0

def encrypt (rk : List (List Nat)) (b : List Nat) : List Nat :=
  let b := xorL b (rk.getD 0 [])
  let b := (List.range 13).foldl (fun b r => xorL (mixWith [2, 3, 1, 1] (shiftRows (b.map sbox))) (rk.getD (r + 1) [])) b
  xorL (shiftRows (b.map sbox)) (rk.getD 14 [])

def decrypt (rk : List (List Nat)) (b : List Nat) : List Nat :=
  let b := (unshiftRows (xorL b (rk.getD 14 []))).map isbox
  let b := (List.range 13).foldl (fun b r => (unshiftRows (mixWith [14, 11, 13, 9] (xorL b (rk.getD (13 - r) [])))).map isbox) b
  xorL b (rk.getD 0 [])

/-- `n` bytes of a number, lowest first. -/
def bytesOf (n x : Nat) : List Nat := (List.range n).map fun i => fld x (8 * i) 8

def ofBytes (l : List Nat) : Nat := l.foldr (fun b a => b + 256 * a) 0

end Aes

/-- The key bits of a context's key, as bytes. -/
def keyBytes (k : BitVec 256) : List Nat := Aes.bytesOf 32 k.toNat

/-- The tweaks of the eight blocks of a data unit (IEEE Std 1619): doubling in the little-endian field. -/
def xtsTweaks (k2 : BitVec 256) (tweak : Nat) : List (List Nat) :=
  let t0 := Aes.ofBytes (Aes.encrypt (Aes.roundKeys (keyBytes k2)) (Aes.bytesOf 16 tweak))
  let step := fun (t : Nat) => (2 * t) % 2 ^ 128 ^^^ (if nbit t 127 then 0x87 else 0)
  ((List.range 8).foldl (fun (x : Nat × List (List Nat)) _ => (step x.1, x.2 ++ [Aes.bytesOf 16 x.1])) (t0, [])).2

def xtsMap (f : List Nat → List Nat) (ts : List (List Nat)) (d : BitVec 1024) : BitVec 1024 :=
  let blocks := (List.range 8).map fun i => Aes.bytesOf 16 (fld d.toNat (128 * i) 128)
  let out := List.zipWith (fun b t => Aes.xorL (f (Aes.xorL b t)) t) blocks ts
  BitVec.ofNat 1024 (Aes.ofBytes out.flatten)

/-- AES-256-XTS of a 128 B data unit. -/
def xtsSeal (k1 k2 : BitVec 256) (tweak : Nat) (d : BitVec 1024) : BitVec 1024 :=
  let rk := Aes.roundKeys (keyBytes k1)
  xtsMap (Aes.encrypt rk) (xtsTweaks k2 tweak) d

def xtsOpen (k1 k2 : BitVec 256) (tweak : Nat) (d : BitVec 1024) : BitVec 1024 :=
  let rk := Aes.roundKeys (keyBytes k1)
  xtsMap (Aes.decrypt rk) (xtsTweaks k2 tweak) d

/-- AES-256-CMAC of a message of whole blocks (SP 800-38B): the first 8 bytes of the output, the first in bits 7:0. -/
def cmac64 (km : BitVec 256) (blocks : List (List Nat)) : BitVec 64 :=
  let rk := Aes.roundKeys (keyBytes km)
  let l := Aes.ofBytes (Aes.encrypt rk (List.replicate 16 0)).reverse
  let k1 := (2 * l) % 2 ^ 128 ^^^ (if nbit l 127 then 0x87 else 0)
  let k1b := (Aes.bytesOf 16 k1).reverse
  let n := blocks.length
  let out := (blocks.zipIdx).foldl (fun c b => Aes.encrypt rk (Aes.xorL c (if b.2 + 1 = n then Aes.xorL b.1 k1b else b.1))) (List.replicate 16 0)
  BitVec.ofNat 64 (Aes.ofBytes (out.take 8))

/-- The tweak of R249. -/
def sealTweak (tc chip line : Nat) : Nat := tc * 2 ^ 51 + chip * 2 ^ 37 + line

/-- The MAC of R250 over the tweak and the ciphertext. -/
def sealMac (km : BitVec 256) (tweak : Nat) (c : BitVec 1024) : BitVec 64 :=
  cmac64 km (Aes.bytesOf 16 tweak :: (List.range 8).map fun i => Aes.bytesOf 16 (fld c.toNat (128 * i) 128))

/-- The first 4 bytes of the encryption of the zero block (KCV, Table 12.5), the first in bits 7:0. -/
def keyCheck (km : BitVec 256) : Nat := Aes.ofBytes ((Aes.encrypt (Aes.roundKeys (keyBytes km)) (List.replicate 16 0)).take 4)

/-- CRC-32 of IEEE 802.3 over one more byte. -/
def crcByte (c b : Nat) : Nat :=
  (List.range 8).foldl (fun c _ => if c % 2 = 1 then (c / 2) ^^^ 0xEDB88320 else c / 2) (c ^^^ b)

/-- CRC-32 of IEEE 802.3 over the bytes of 32-bit words, low byte first. -/
def crc32 (ws : List (BitVec 32)) : Nat :=
  (ws.foldl (fun c w => (List.range 4).foldl (fun c i => crcByte c (fld w.toNat (8 * i) 8)) c) 0xFFFFFFFF) ^^^ 0xFFFFFFFF

end Sys2Proof.Machine
end

