-- ==== Sys2Proof/Machine/Operands.lean ====
section
/-! DEFINITION. Message headers (Tables 2.1 and 2.2), formats, and the checks of step 1 of Table 2.9 that need the message alone. -/

namespace Sys2Proof.Machine

/-! ### Header fields -/

def hOpcode (m : Msg) : Nat := fld m.hdr.toNat 250 6
def hAspace (m : Msg) : Nat := fld m.hdr.toNat 248 2
def hVc (m : Msg) : Nat := fld m.hdr.toNat 245 3
def hReqid (m : Msg) : Nat := fld m.hdr.toNat 233 12
def hSrc (m : Msg) : Nat := fld m.hdr.toNat 219 14
def hDst (m : Msg) : Nat := fld m.hdr.toNat 205 14
def hTc (m : Msg) : Nat := fld m.hdr.toNat 201 4
def hTxid (m : Msg) : Nat := fld m.hdr.toNat 185 16
def hWtag (m : Msg) : Nat := fld m.hdr.toNat 165 20
def hTally (m : Msg) : Nat := fld m.hdr.toNat 153 12
def hTen (m : Msg) : Bool := nbit m.hdr.toNat 152
def hEpoch (m : Msg) : Nat := fld m.hdr.toNat 150 2
def hFmt (m : Msg) : Nat := fld m.hdr.toNat 146 4
def hOp (m : Msg) : Nat := fld m.hdr.toNat 142 4
def hLen (m : Msg) : Nat := fld m.hdr.toNat 134 8
def hRet (m : Msg) : Bool := nbit m.hdr.toNat 133
def hCnt (m : Msg) : Nat := fld m.hdr.toNat 128 5
def hCagent (m : Msg) : Nat := fld m.hdr.toNat 120 8
def hRsv (m : Msg) : Nat := fld m.hdr.toNat 44 76
def hAddr (m : Msg) : Nat := fld m.hdr.toNat 0 44
def hOff (m : Msg) : Nat := hAddr m % 128
def hLine (m : Msg) : LAddr := lineAddr (hAddr m)
/-- STATUS of a response (Table 2.2). -/
def hStatus (m : Msg) : Nat := fld m.hdr.toNat 162 3
/-- RESULT of a response or CTL message. -/
def hResult (m : Msg) : Nat := fld m.hdr.toNat 44 64

/-! ### Codes -/

namespace Op
def rd : Nat := 0x01
def wr : Nat := 0x02
def red : Nat := 0x03
def atom : Nat := 0x04
def twait : Nat := 0x05
def tread : Nat := 0x06
def chainRd : Nat := 0x07
def maceSub : Nat := 0x08
def rdShr : Nat := 0x10
def rdUnq : Nat := 0x11
def upgrade : Nat := 0x12
def wb : Nat := 0x13
def evict : Nat := 0x14
def atomC : Nat := 0x15
def rdOnce : Nat := 0x16
def fwdShr : Nat := 0x20
def fwdUnq : Nat := 0x21
def inv : Nat := 0x22
def backInv : Nat := 0x23
def pull : Nat := 0x24
def comp : Nat := 0x28
def grant : Nat := 0x29
def snpAck : Nat := 0x2A
def wbPull : Nat := 0x2B
def compAck : Nat := 0x2C
def data : Nat := 0x30
def dataHome : Nat := 0x32
def wbData : Nat := 0x33
def chainData : Nat := 0x34
def tempRpt : Nat := 0x3C
def intr : Nat := 0x3D
def live : Nat := 0x3E
end Op

/-! Table 2.3. -/
namespace Vc
def dat : Nat := 0
def rsp : Nat := 1
def fwd : Nat := 2
def req : Nat := 3
def ctl : Nat := 4
end Vc

/-! Table 2.4. -/
namespace St
def ok : Nat := 0
def poison : Nat := 1
def denied : Nat := 2
def stale : Nat := 3
def timeout : Nat := 5
def unsupported : Nat := 6
def retry : Nat := 7
end St

/-- The opcodes of Table 2.7. -/
def isReqOp (o : Nat) : Bool := (1 ≤ o && o ≤ 8) || (0x10 ≤ o && o ≤ 0x16)

def isCohOp (o : Nat) : Bool := 0x10 ≤ o && o ≤ 0x16

/-- TWAIT, TREAD and MACE_SUB: no tag-pipe step (R33). -/
def isTallyOp (o : Nat) : Bool := o == Op.twait || o == Op.tread

/-! ### Formats (Tables 2.5, 5.3) -/

/-- Element storage unit in bytes (Table 5.3). -/
def fmtUnit (f : Nat) : Nat :=
  match f with
  | 0 => 8 | 1 => 4 | 2 => 2 | 3 => 2 | 4 => 1 | 5 => 1 | 6 => 3 | 7 => 3 | 8 => 1
  | 9 => 128 | 10 => 128 | 11 => 128 | 12 => 1 | 13 => 2 | 14 => 4 | _ => 8

/-- Element width in bits; MX formats give that of their elements. -/
def fmtBits (f : Nat) : Nat :=
  match f with
  | 0 => 64 | 1 => 32 | 2 => 16 | 3 => 16 | 4 => 8 | 5 => 8 | 6 => 6 | 7 => 6 | 8 => 4
  | 9 => 8 | 10 => 6 | 11 => 4 | 12 => 8 | 13 => 16 | 14 => 32 | _ => 64

def fmtIsMx (f : Nat) : Bool := 9 ≤ f && f ≤ 11

def fmtIsInt (f : Nat) : Bool := 12 ≤ f

/-- Elements in a storage unit of a format that is not MX. -/
def fmtPerUnit (f : Nat) : Nat := if f == 6 || f == 7 then 4 else if f == 8 then 2 else 1

/-- MX blocks in a line, and bytes of a block's data (Table 5.4). -/
def mxBlocks (f : Nat) : Nat := match f with | 9 => 3 | 10 => 5 | _ => 7
def mxData (f : Nat) : Nat := match f with | 9 => 32 | 10 => 24 | _ => 16

/-- Element size of an ATOM (R44). -/
def atomSize (f : Nat) : Nat :=
  match f with
  | 0 => 8 | 15 => 8 | 1 => 4 | 14 => 4 | 2 => 2 | 3 => 2 | 13 => 2 | _ => 1

/-- R39 for RED. -/
def redComboOk (f op : Nat) : Bool :=
  op ≤ 5 || ((op == 8 || op == 9) && fmtIsInt f)

/-- R39 for ATOM and ATOM_C. -/
def atomComboOk (f op : Nat) : Bool :=
  op ≤ 9 && (f ≤ 5 || fmtIsInt f) && (!(op == 8 || op == 9) || fmtIsInt f)

/-! ### Spans and byte enables -/

/-- The beats the span touches (R29). -/
def spanBeats (off len : Nat) : Nat :=
  if len = 0 then 0 else (off + len - 1) / 64 - off / 64 + 1

/-- The payload beats Table 2.7 gives. -/
def beatsWanted (m : Msg) : Nat :=
  let o := hOpcode m
  if o == Op.wr || o == Op.red then spanBeats (hOff m) (hLen m)
  else if o == Op.atom || o == Op.twait || o == Op.chainRd || o == Op.atomC then 1
  else if o == Op.maceSub then 2 else 0

/-- The line that a span payload carries (R29): its beats start with the beat of ADDR. -/
def msgLine (m : Msg) : Line :=
  let b := fun i => m.beats.getD i 0
  if 64 ≤ hOff m then beatsLine 0 (b 0) else beatsLine (b 0) (b 1)

/-- A message's two beats as a line (beats 0 and 1). -/
def msgTwo (m : Msg) : Line := beatsLine (m.beats.getD 0 0) (m.beats.getD 1 0)

/-- Enabled bytes of a span payload, at their line offsets. -/
def msgEnabled (m : Msg) : Mask :=
  let b := fun i => m.be.getD i 0
  if 64 ≤ hOff m then b 0 ++ (0 : BitVec 64) else b 1 ++ b 0

/-- Bytes a WR writes: inside its span and enabled (R41). -/
def wrMask (m : Msg) : Mask := spanMask (hOff m) (hLen m) &&& msgEnabled m

/-- A write that covers the whole line (R72). -/
def wrWhole (m : Msg) : Bool := hLen m == 128 && wrMask m == fullMask

/-- Every byte of `o` to `o + n - 1` is in `k`. -/
def allIn (k : Mask) (o n : Nat) : Bool := spanMask o n &&& k == spanMask o n

/-- No byte of `o` to `o + n - 1` is in `k`. -/
def noneIn (k : Mask) (o n : Nat) : Bool := spanMask o n &&& k == 0

/-- Bytes of MX block `b`: its scale byte and its data (Table 5.4). -/
def mxBlockMask (f b : Nat) : Mask := spanMask b 1 ||| spanMask (8 + mxData f * b) (mxData f)

/-- Bytes that belong to elements taking part in a RED (R43, R107, R109). -/
def redMask (m : Msg) : Mask :=
  let f := hFmt m
  let k := wrMask m
  if fmtIsMx f then
    (List.range (mxBlocks f)).foldl (fun a b => if mxBlockMask f b &&& k == mxBlockMask f b then a ||| mxBlockMask f b else a) 0
  else
    let u := fmtUnit f
    (List.range (hLen m / u)).foldl (fun a i => if allIn k (hOff m + u * i) u then a ||| spanMask (hOff m + u * i) u else a) 0

/-- R43 and R109: the span is of whole units and no element is partly enabled. -/
def redShapeOk (m : Msg) : Bool :=
  let f := hFmt m
  let k := wrMask m
  if fmtIsMx f then
    hOff m == 0 && hLen m == 128 &&
      (List.range (mxBlocks f)).all fun b => mxBlockMask f b &&& k == mxBlockMask f b || mxBlockMask f b &&& k == 0
  else
    let u := fmtUnit f
    hOff m % u == 0 && hLen m % u == 0 &&
      (List.range (hLen m / u)).all fun i => allIn k (hOff m + u * i) u || noneIn k (hOff m + u * i) u

/-! ### Payload fields (Table 2.8) -/

def payNat (m : Msg) (byte n : Nat) : Nat := fld (m.beats.getD 0 0).toNat (8 * byte) (8 * n)
def atomA (m : Msg) : Nat := payNat m 0 8
def atomB (m : Msg) : Nat := payNat m 8 8
def twThresh (m : Msg) : Nat := payNat m 0 6
def twDeadline (m : Msg) : Nat := payNat m 8 8
/-- Entry `i` of a chain beat. -/
def chainEntry (m : Msg) (i : Nat) : Nat := fld (m.beats.getD 0 0).toNat (16 * i) 12

/-- Reserved payload bytes are 0 (R11, R30; the descriptor of MACE_SUB is checked in Mace.lean). -/
def payloadOk (m : Msg) : Bool :=
  let o := hOpcode m
  if o == Op.atom || o == Op.atomC then payNat m 16 48 == 0
  else if o == Op.twait then payNat m 6 2 == 0 && payNat m 16 48 == 0
  else if o == Op.chainRd then
    payNat m 32 32 == 0 && (List.range (min (hCnt m) 16)).all fun i => fld (m.beats.getD 0 0).toNat (16 * i + 12) 4 == 0
  else true

/-! ### Step 1 of Table 2.9 -/

/-- Ports and address spaces of Table 2.7. -/
def spaceOk (p : Port) (m : Msg) : Bool :=
  let o := hOpcode m
  let a := hAspace m
  match p with
  | .s => a == 1 && (o == Op.rd || o == Op.wr || o == Op.chainRd)
  | _ =>
    if o == Op.rd || o == Op.wr then a ≤ 2
    else if o == Op.red || o == Op.atom then a ≤ 1
    else o != Op.chainRd && isReqOp o && a == 0

/-- Length, span, alignment, element and combination (R17, R19, R39, R41 to R44, R47). -/
def shapeOk (m : Msg) : Bool :=
  let o := hOpcode m
  let a := hAddr m
  let l := hLen m
  (hAspace m != 1 || a < 2 ^ 32) &&
  (if hAspace m == 2 then
     (l == 4 || l == 8) && a % l == 0 && a < 2 ^ 16 && (o != Op.wr || allIn (msgEnabled m) (hOff m) l)
   else if o == Op.rd || o == Op.wr || o == Op.rdOnce then l ≤ 128 && hOff m + l ≤ 128
   else if o == Op.red then l ≤ 128 && hOff m + l ≤ 128 && redComboOk (hFmt m) (hOp m) && redShapeOk m
   else if o == Op.atom || o == Op.atomC then atomComboOk (hFmt m) (hOp m) && a % atomSize (hFmt m) == 0
   else if o == Op.chainRd then hOff m == 0 && hCnt m ≤ 16
   else true)

/-- Step 1, but for the chip IDs, PD68 and the Mace descriptor, which the state gives. -/
def step1Ok (p : Port) (m : Msg) : Bool :=
  hRsv m == 0 && spaceOk p m && (p == .s || hVc m == Vc.req) && shapeOk m &&
    m.beats.length == beatsWanted m && payloadOk m

/-- Nothing to do: the zero rows of Table 2.10. -/
def isZeroLen (m : Msg) : Bool :=
  let o := hOpcode m
  if o == Op.rd || o == Op.rdOnce then hLen m == 0
  else if o == Op.wr || o == Op.red then wrMask m == 0
  else if o == Op.chainRd then hCnt m == 0
  else false

/-! ### Building headers -/

/-- A response header in the layout of Table 2.2. -/
def rspHdr (op vc asp reqid src dst tc txid wtag status beatmap len epoch cnt cagent result addr : Nat) (b128 : Bool) : BitVec 256 :=
  pack 256 [(250, 6, op), (248, 2, asp), (245, 3, vc), (233, 12, reqid), (219, 14, src), (205, 14, dst), (201, 4, tc),
    (185, 16, txid), (165, 20, wtag), (162, 3, status), (160, 2, beatmap), (152, 8, len), (150, 2, epoch), (145, 5, cnt),
    (128, 1, b2n b128), (120, 8, cagent), (44, 64, result), (0, 44, addr)]

/-- A request header in the layout of Table 2.1, with the fields the slice's own requests and FWD messages use. -/
def reqHdr (op asp vc reqid src dst tc txid wtag len cagent addr : Nat) (keep ownr : Bool) : BitVec 256 :=
  pack 256 [(250, 6, op), (248, 2, asp), (245, 3, vc), (233, 12, reqid), (219, 14, src), (205, 14, dst), (201, 4, tc),
    (185, 16, txid), (165, 20, wtag), (134, 8, len), (120, 8, cagent), (119, 1, b2n keep), (118, 1, b2n ownr), (0, 44, addr)]

end Sys2Proof.Machine
end

