-- ==== Sys2Proof/Machine/Float.lean ====
section
/-! DEFINITION. Element values and rounding: the formats of Table 5.2, addition, minimum, maximum and conversion (R105 to R113). -/

namespace Sys2Proof.Machine

/-- The value of an element: NaN, an infinity, or (-1)^s × m × 2^e. -/
inductive FVal where
  | nan
  | inf (s : Bool)
  | fin (s : Bool) (m : Nat) (e : Int)
deriving DecidableEq, Repr

/-- What the largest exponent field means: IEEE, the E4M3 rule, or finite values only (Table 5.2). -/
inductive FKind where
  | ieee | e4m3 | finite
deriving DecidableEq, Repr

structure FFmt where
  eb   : Nat
  mb   : Nat
  bias : Nat
  kind : FKind
deriving DecidableEq, Repr

/-- Table 5.2; the MX formats give that of their elements (R108). -/
def ffmt (f : Nat) : FFmt :=
  match f with
  | 0 => ⟨11, 52, 1023, .ieee⟩
  | 1 => ⟨8, 23, 127, .ieee⟩
  | 2 => ⟨8, 7, 127, .ieee⟩
  | 3 => ⟨5, 10, 15, .ieee⟩
  | 4 => ⟨4, 3, 7, .e4m3⟩
  | 5 => ⟨5, 2, 15, .ieee⟩
  | 6 => ⟨3, 2, 3, .finite⟩
  | 7 => ⟨2, 3, 1, .finite⟩
  | 8 => ⟨2, 1, 1, .finite⟩
  | 9 => ⟨4, 3, 7, .e4m3⟩
  | 10 => ⟨3, 2, 3, .finite⟩
  | _ => ⟨2, 1, 1, .finite⟩

def f32 : FFmt := ffmt 1

/-- Reads an element (R105). -/
def FFmt.decode (f : FFmt) (x : Nat) : FVal :=
  let s := nbit x (f.eb + f.mb)
  let e := fld x f.mb f.eb
  let m := fld x 0 f.mb
  let top := 2 ^ f.eb - 1
  if f.kind = .ieee ∧ e = top then (if m = 0 then .inf s else .nan)
  else if f.kind = .e4m3 ∧ e = top ∧ m = 2 ^ f.mb - 1 then .nan
  else if e = 0 then .fin s m (1 - (f.bias : Int) - f.mb)
  else .fin s (2 ^ f.mb + m) ((e : Int) - f.bias - f.mb)

/-- The canonical NaN of Table 5.2. -/
def FFmt.cnan (f : FFmt) : Nat :=
  match f.kind with
  | .ieee => (2 ^ f.eb - 1) * 2 ^ f.mb + 2 ^ (f.mb - 1)
  | .e4m3 => 2 ^ (f.eb + f.mb) - 1
  | .finite => 0

def FFmt.signBit (f : FFmt) (s : Bool) : Nat := if s then 2 ^ (f.eb + f.mb) else 0

/-- The largest finite magnitude. -/
def FFmt.maxFin (f : FFmt) : Nat :=
  match f.kind with
  | .ieee => (2 ^ f.eb - 1) * 2 ^ f.mb - 1
  | .e4m3 => 2 ^ (f.eb + f.mb) - 2
  | .finite => 2 ^ (f.eb + f.mb) - 1

/-- `m × 2^e` in units of `2^l`, rounded to nearest, ties to even. -/
def rne (m : Nat) (e l : Int) : Nat :=
  if l ≤ e then m * 2 ^ (e - l).toNat
  else
    let d := (l - e).toNat
    let q := m / 2 ^ d
    let r := m % 2 ^ d
    let h := 2 ^ (d - 1)
    if h < r ∨ (r = h ∧ q % 2 = 1) then q + 1 else q

/-- Rounds a finite value to the format, to nearest, ties to even; overflow under R112. -/
def FFmt.round (f : FFmt) (s : Bool) (m : Nat) (e : Int) : Nat :=
  if m = 0 then f.signBit s
  else
    let emin : Int := 1 - (f.bias : Int)
    let lo := emin - f.mb
    let l := max ((Nat.log2 m : Int) + e - f.mb) lo
    let q := rne m e l
    let carry := 2 ^ (f.mb + 1) ≤ q
    let q' := if carry then q / 2 else q
    let l' := if carry then l + 1 else l
    let mag := if q' < 2 ^ f.mb then q' else ((l' - lo + 1).toNat) * 2 ^ f.mb + (q' - 2 ^ f.mb)
    f.signBit s + (if mag ≤ f.maxFin then mag else if f.kind = .ieee then (2 ^ f.eb - 1) * 2 ^ f.mb else f.maxFin)

/-- Writes a value in the format (R112). -/
def FFmt.encode (f : FFmt) : FVal → Nat
  | .nan => f.cnan
  | .inf s => f.signBit s + (if f.kind = .ieee then (2 ^ f.eb - 1) * 2 ^ f.mb else f.maxFin)
  | .fin s m e => f.round s m e

/-- A signed numerator in units of `2^e`. -/
def sgnInt (s : Bool) (m : Nat) (d : Nat) : Int := if s then -((m * 2 ^ d : Nat) : Int) else ((m * 2 ^ d : Nat) : Int)

/-- The exact sum; zero sums take the sign of Table 5.5. -/
def FVal.add : FVal → FVal → FVal
  | .nan, _ => .nan
  | _, .nan => .nan
  | .inf a, .inf b => if a = b then .inf a else .nan
  | .inf a, .fin _ _ _ => .inf a
  | .fin _ _ _, .inf b => .inf b
  | .fin s m e, .fin t n g =>
    let l := min e g
    let x := sgnInt s m (e - l).toNat + sgnInt t n (g - l).toNat
    if x = 0 then .fin (s && t && m == 0 && n == 0) 0 l else .fin (decide (x < 0)) x.natAbs l

/-- Same value: NaN with NaN, zeros of either sign. -/
def FVal.same : FVal → FVal → Bool
  | .nan, .nan => true
  | .inf a, .inf b => a == b
  | .fin s m e, .fin t n g =>
    let l := min e g
    sgnInt s m (e - l).toNat == sgnInt t n (g - l).toNat
  | _, _ => false

/-- Order with −0 below +0 (R113); neither is NaN. -/
def FVal.lt : FVal → FVal → Bool
  | .inf a, .inf b => a && !b
  | .inf a, .fin _ _ _ => a
  | .fin _ _ _, .inf b => !b
  | .fin s m e, .fin t n g =>
    let l := min e g
    let x := sgnInt s m (e - l).toNat
    let y := sgnInt t n (g - l).toNat
    if x = 0 ∧ y = 0 then s && !t else decide (x < y)
  | _, _ => false

def FVal.isNan : FVal → Bool | .nan => true | _ => false
def FVal.isInf : FVal → Bool | .inf _ => true | _ => false
def FVal.isZero : FVal → Bool | .fin _ 0 _ => true | _ => false
def FVal.isFin : FVal → Bool | .fin _ _ _ => true | _ => false

/-- Rounds a value to binary32. -/
def FVal.to32 (v : FVal) : FVal := f32.decode (f32.encode v)

/-- Scales by 2^k. -/
def FVal.scale (k : Int) : FVal → FVal
  | .fin s m e => .fin s m (e + k)
  | v => v

end Sys2Proof.Machine
end

