-- ==== Sys2Proof/Config.lean ====
section
/-! DEFINITION. What the spec leaves to an implementation: free values (opaque, no body) and the fixed sizes of the slice. -/

namespace Sys2Proof

/-- A place that stores protected bits (Table 17.1). Data sites name an 8 B word. -/
inductive Site where
  | data (line : Nat) (word : Fin 16)      -- array line 32 * set + way
  | mireBuf (i : Nat) (word : Fin 16)
  | missBuf (e : Nat) (word : Fin 16)
  | tagSingle (line : Nat)
  | tagDouble (line : Nat)
  | sedgeSingle (e : Nat)                  -- Sedge entry 8 * set + way
  | sedgeDouble (e : Nat)
  | tally (t : Nat)
  | parked (slot : Nat)
  | hte (h : Nat)
  | missCtl (e : Nat)
  | mireCtl (i : Nat)
  | mace (slot : Nat)
  | exact (i : Nat)
  | table (key : Nat)
  | key (tc : Nat)
  | plist (i : Nat)
  | stream (i : Nat)
  | predictor (i : Nat)
  | plru (set : Nat)
  | splru (set : Nat)
deriving DecidableEq, Repr

namespace Config

/-- FREE VALUE (log 3): how many ticks the datapath FT value advances in a given SCLK (R26: 0, 1 or 2). -/
opaque ftStep : Nat → Fin 3

/-- FREE VALUE (log 3): how many ticks the value on the FT bus advances in a given SCLK (R339: 1 ns a tick, against 0.5 to 1.25 ns). -/
opaque busStep : Nat → Fin 3

/-- FREE VALUE (log 8): how many requests that were ready wait for a bank slot on a tag pipe in a given SCLK (Table 14.4, BANK_WAIT). -/
opaque bankWait : Nat → Nat → Nat

/-- FREE VALUE (log 4): the storage bits that are upset in a given SCLK (R352). -/
opaque upset : Nat → List Site

/-- FREE VALUE (log 5): the SECDED check bits of a tag entry's bits 36:0 (R61). -/
opaque tagEcc : BitVec 37 → BitVec 7

/-- FREE VALUE (log 5): the SECDED check bits of a Sedge entry's bits 95:55 and 35:0 (R163). -/
opaque sedgeEcc : BitVec 41 → BitVec 36 → BitVec 8

/-- FREE VALUE (log 6): the M tag of the write that a WTHRU write hit sends (Table 16.2 gives none). -/
opaque wthruTag : BitVec 11

/-- FREE VALUE (log 7): BRL_FT as read, plus 2, less the datapath FT value (Table 13.2: within 2 ticks). -/
opaque ftReadSkew : Nat → Fin 5

/-- FREE VALUE (log 22): the bytes of a line in memory that the slice does not read when a masked write-around
of the line leaves a watched word partly written (R321). -/
opaque unseen : BitVec 37 → Nat → BitVec 1024

/-- FREE VALUE (log 24): FKIND of a Mace element whose table access ended in a home timeout (Table 7.4 names no kind). -/
opaque timeoutFkind : BitVec 4

/-- FREE VALUE (log 25): REASON of the REG_HOLD record of a step that found a clean line's parity error (R356; Table 15.3 names no reason). -/
opaque refetchReason : BitVec 4

/-- FREE VALUE (log 28): the 8 B word that the named site holds with a parity error, in a given SCLK (R352, R353). -/
opaque heldWord : Nat → Site → BitVec 64

/-- FREE VALUE (log 28): bits 36:0 of the tag entry of a cache way after a double-bit error, found in a given SCLK, and the line
address bits that its set then stands for (R365). -/
opaque heldTag : Nat → Nat → BitVec 37 × BitVec 14

/-- FREE VALUE (log 28): bits 95:55 and 35:0 of a Sedge entry after a double-bit error, found in a given SCLK (R365). -/
opaque heldSedge : Nat → Nat → BitVec 41 × BitVec 36

/-- FREE VALUE (log 28): the value of a tally after a parity error, found in a given SCLK (R365). -/
opaque heldTally : Nat → Nat → BitVec 48

/-- Ticks after which a REG-space request or a home transaction times out (R38, R185). -/
def timeoutTicks : Nat := 10000000

/-- Ticks a command waits on its stream (R262). -/
def streamTicks : Nat := 1000000000

/-- Ticks a new image may take to report ready (R283). -/
def activateTicks : Nat := 50000000

end Config
end Sys2Proof
end

