-- ==== Sys2Proof/Machine/State.lean ====
section
/-! DEFINITION. The state of one slice as plain data, the reasons a step stops, and the state right after reset. -/

namespace Sys2Proof.Machine

/-! ### Requests and messages in flight -/

/-- T_RAT attributes of a request's region (R71). -/
structure Attr where
  wpol   : BitVec 2
  ralloc : BitVec 2
  pfen   : Bool
  sealed   : Bool
  ro     : Bool
deriving DecidableEq, Repr

/-- The Fen line a request was classified to (R84, R87, R91): segment, copy, epoch served, frame. -/
structure FenLoc where
  seg   : Nat
  copyB : Bool
  epoch : BitVec 2
  frame : Nat
  line  : Nat
  off   : Nat
deriving DecidableEq, Repr

/-- Who made a request: a port; element `id` of Mace slot `slot`, at its table line or at a partner line; or the slice's own sweep. -/
inductive Src where
  | port | mace (slot : Nat) (id : Nat) | part (slot : Nat) (id : Nat) | own
deriving DecidableEq, Repr

/-- T_PREFETCH settings of a request's class (R79): trains, installs as a demand fill, degree, block. -/
structure PfSet where
  en     : Bool
  ins    : Bool
  degree : Nat
  hblk   : Nat
deriving DecidableEq, Repr

/-- A classified request with what its classification fixed (R25). `poi`: its source data is poisoned (Mace only). -/
structure Req where
  port  : Port
  src   : Src
  msg   : Msg
  qc    : BitVec 4
  tc    : BitVec 4
  attr  : Attr
  set   : BitVec 14
  hbank : BitVec 12
  cap   : Nat
  pf    : PfSet
  fen   : Option FenLoc
  exact : Option Nat
  poi   : Bool
  at_   : Nat
deriving DecidableEq, Repr

/-- Why a request is held (R230, R356). -/
inductive Hold where
  | bankCap | missFull | attach | hte | exactQ | around | refetch
deriving DecidableEq, Repr

/-- An ingress entry of a D port: the request, the class whose credit it took, its hold. -/
structure Ing where
  req     : Req
  credit  : BitVec 4
  hold    : Option Hold
  held    : Bool
  trained : Bool
deriving DecidableEq, Repr

/-- What goes on when a queued message has left. `reed`: an answer of the S port, with the SCLK in which its request arrived and
the SCLK it may take (R96). -/
inductive Post where
  | none | maceData (slot : Nat) (k : Nat) (line : Nat) | reed (at_ : Nat) (bound : Nat)
deriving DecidableEq, Repr

/-- Who an occurrence is about. -/
structure Subj where
  reqid  : BitVec 12
  qc     : BitVec 4
  tc     : BitVec 4
  wtag   : BitVec 20
  laddr  : LAddr
  aspace : BitVec 2
  opcode : BitVec 6
  chip   : BitVec 14
deriving DecidableEq, Repr

/-- A queued egress message; a response names the subject of its request. -/
structure Out where
  msg  : Msg
  subj : Option Subj
  post : Post
deriving DecidableEq, Repr

/-- A REG-space access: port, message, context, and the elapsed-tick count of its arrival (R38). -/
structure RegReq where
  port : DPort
  msg  : Msg
  tc   : BitVec 4
  at_  : Nat
deriving DecidableEq, Repr

/-- A D port (R227 to R231, R331 to R333). -/
structure PortSt where
  ing   : List Ing
  skid  : Option Ing
  regq  : List RegReq
  q     : Store Nat
  owed  : Store Nat
  rrPick : BitVec 4
  rrLend : BitVec 4
  out   : List Out
deriving DecidableEq, Repr

/-! ### Time, pins, power -/

/-- Time: SCLK count, elapsed valid FT ticks (R374), the datapath FT value and its validity; `bus` is the value on the FT bus while FT
is valid (R26), `rel` the SCLK in which the datapath reset was last released (R20), `ftIn` the samples that FT capture took last, the
newest last (R340, log 3). -/
structure Clock where
  sclk : Nat
  run  : Nat
  ft   : FT
  ftv  : Bool
  seen : Bool
  bus  : FT
  rel  : Nat
  ftIn : List FtSample
deriving DecidableEq, Repr

/-- The M command last driven (Table 16.2). -/
structure MCmd where
  word : BitVec 64
  data : Option (Line × Mask)
deriving DecidableEq, Repr

/-- Pins (Table 16.1). `downAt` is the earliest SCLK at which PRESENT may rise (R346); `liveAt` and `liveCnt` time LIVE (R347). -/
structure Pins where
  porstN   : Bool
  drstN    : Bool
  vddCore  : Bool
  present  : Bool
  fatalN   : Bool
  alert    : Bool
  chipId   : BitVec 14
  sreqid   : BitVec 12
  pmReq    : Bool
  pmPd     : Nat
  pmTo     : BitVec 2
  pmGnt    : Bool
  bootReq  : Bool
  bootAddr : BitVec 15
  irdy0    : Bool
  irdy1    : Bool
  oh0      : Option Msg
  oh1      : Option Msg
  ohS      : Option Msg
  mCmd     : Option MCmd
  cgnt0    : BitVec 16
  cgnt1    : BitVec 16
  liveAt   : Nat
  liveCnt  : BitVec 16
  downAt   : Nat
deriving DecidableEq, Repr

inductive Power where
  | off | retain | on
deriving DecidableEq, Repr

/-- A transition the slice wants (R342): domain and target. -/
structure Want where
  pd : Nat
  target : Power
deriving DecidableEq, Repr

/-- Domains PD0 to PD77 by number; the transitions wanted and not yet requested; whether the bring-up of Table 16.9 runs. -/
structure PowerSt where
  dom   : Store Power
  wants : List Want
  bring : Bool
deriving DecidableEq, Repr

inductive BankOpKind where
  | offline (toff : Bool) | trim | online (clr : Bool)
deriving DecidableEq, Repr

/-- A bank command under way: its mailbox, sweep position (line of the bank, 0 to 8192) and counts. -/
structure BankOp where
  kind : BankOpKind
  mbx  : Nat
  pos  : Nat
  wb   : Nat
  inv  : Nat
deriving DecidableEq, Repr

/-- A bank: retirement, error counts, read-assist setting, its command, its retirement sweep. -/
structure Bank where
  retired : Bool
  leak    : Nat
  errs    : Nat
  retires : Nat
  trim    : BitVec 8
  op      : Option BankOp
  sweep   : Option Nat
deriving DecidableEq, Repr

/-! ### Tables and generations -/

/-- A table image: entry `4096 * table ID + index`, each up to 256 bits; unlisted entries hold their reset value. -/
abbrev Tables := Store (BitVec 256)

structure Armed where
  target : FT
  cand   : Tables
  gen    : BitVec 32
deriving DecidableEq, Repr

/-- A COMMIT that stays BUSY until its domains are ON (R341). -/
structure CommitWait where
  mbx    : Nat
  target : FT
  cand   : Tables
deriving DecidableEq, Repr

structure Rehash where
  hOld : List (BitVec 23)
  apos : Nat
  spos : Nat
  vics : List (Nat × LAddr) := []   -- victims taken for entries of the set, by entry and line (R59)
deriving DecidableEq, Repr

structure Conv where
  wgs : BitVec 8
  pos : Nat
deriving DecidableEq, Repr

structure GenSt where
  live   : Tables
  shadow : Tables
  gen    : BitVec 32
  last   : BitVec 2
  ftab   : BitVec 8
  fcode  : BitVec 4
  fent   : BitVec 12
  gft    : FT
  armed  : Option Armed
  wait   : Option CommitWait
  rehash : Option Rehash
  hg     : Bool
  conv   : Option Conv
deriving DecidableEq, Repr

/-! ### Array, miss entries, Mire, memory port -/

/-- A tag entry (Table 3.3), less its check bits. `lo` is PA[20:7] of the line, which the slice recovers from
the set index under the matrix that placed the line (R56, R59). -/
structure TagE where
  lo   : BitVec 14
  tc   : BitVec 4
  qc   : BitVec 4
  clv  : Bool
  pf   : Bool
  sealed : Bool
  poi  : Bool
  d    : Bool
  v    : Bool
  tag  : BitVec 23
deriving DecidableEq, Repr

structure ArraySt where
  tags : Store TagE
  data : Store Line
  plru : Store (BitVec 31)
deriving DecidableEq, Repr

/-- What is done in a miss entry's buffer for one attached request, in attachment order (R21, R126). -/
inductive AttOp where
  | read (r : Req)
  | write (r : Req) (d : Line) (m : Mask) (clears : Bool)
  | op (r : Req)
  | coh (r : Req) (gst : BitVec 2) (gpend : Bool)
  | homeWr (d : Line) (poi : Bool) (dirty : Bool) (thru : Bool)
  | poison (dirty : Bool)
deriving DecidableEq, Repr

inductive MissKind where
  | read | partialWr | around | prefetch | whole
deriving DecidableEq, Repr

inductive MissSt where
  | waitIssue | waitData | waitInstall | writeOut
deriving DecidableEq, Repr

/-- Bytes that a line holds for M (R73). -/
structure Piece where
  data : Line
  mask : Mask
  poi  : Bool
deriving DecidableEq, Repr

/-- A miss entry (R21, R73 to R78). `wsn` is the number of M writes caused before it opened (R76). `wrote`: it holds a write's bytes
(R66); `thru`: the bytes of WTHRU writes, oldest first, that leave when the line is installed (R73); `poi`: the line is poisoned, by
the home or by a write's source when `hpoi`, else by M (R357, R359). -/
structure Miss where
  id     : Nat
  line   : LAddr
  kind   : MissKind
  st     : MissSt
  qc     : BitVec 4
  tc     : BitVec 4
  opener : Option Req
  reqid  : BitVec 12
  set    : BitVec 14
  hbank  : BitVec 12
  attr   : Attr
  nAtt   : Nat
  att    : List AttOp
  buf    : Line
  mask   : Mask
  dirty  : Bool
  poi    : Bool
  hpoi   : Bool
  wrote  : Bool
  thru   : List Piece
  pfIns  : Bool
  sealed   : Bool
  mdata  : Option (Line × BitVec 2)
  mac    : Option (BitVec 3 × BitVec 64)
  wsn    : Nat
deriving DecidableEq, Repr

/-- A Mire entry (R77, R251). -/
structure MireE where
  id      : Nat
  line    : LAddr
  data    : Line
  poi     : Bool
  sealed    : Bool
  tc      : BitVec 4
  qc      : BitVec 4
  sent    : Bool
  redirty : Bool
  macOut  : Bool
deriving DecidableEq, Repr

/-- An M write that waits for its turn (R76). -/
inductive MWork where
  | mire (i : Nat) | around (e : Nat) | clean (k : Nat)
  | wthru (l : LAddr) (d : Line) (m : Mask) (poi : Bool) (sealed : Bool) (qc tc : BitVec 4)
deriving DecidableEq, Repr

/-- A write of DRAIN CLEAN in its slot (R273, R251). -/
structure CleanW where
  slot   : Nat
  line   : LAddr
  key    : Nat
  data   : Line
  poi    : Bool
  sealed   : Bool
  tc     : BitVec 4
  qc     : BitVec 4
  ackOut : Bool
  macOut : Bool
deriving DecidableEq, Repr

/-- The M port: `writes` are the writes that wait, each with its number in the order of the steps that caused them (R76). -/
structure MPort where
  miss   : List Miss
  mire   : List MireE
  plist  : List LAddr
  rcr    : Nat
  wcr    : Nat
  wrTurn : Bool
  writes : List (Nat × MWork)
  wseq   : Nat
  clean  : List CleanW
  outW   : List (MTag × LAddr × BitVec 4)
deriving DecidableEq, Repr

/-- A prefetch stream (R79). -/
structure Stream where
  reqid  : BitVec 12
  wtag   : BitVec 20
  last   : LAddr
  stride : Int
  conf   : Nat
deriving DecidableEq, Repr

/-- A queued prefetch candidate with what its trigger fixed (R80). -/
structure Cand where
  line  : LAddr
  trig  : Req
  at_   : Nat
deriving DecidableEq, Repr

structure Prefetch where
  streams : List Stream
  cands   : List Cand
deriving DecidableEq, Repr

/-! ### Fen, exact regions, tallies -/

/-- A pending flip (R92, R93). `readyAt` is the SCLK T. -/
structure Flip where
  rten   : Bool
  rtally : BitVec 12
  thresh : BitVec 48
  nten   : Bool
  ntally : BitVec 12
  readyAt : Option Nat
  armFt  : FT
  armRun : Nat
deriving DecidableEq, Repr

/-- An allocated Fen segment (R84, R91). Copy B is bound to LO when `loB`. -/
structure Seg where
  id     : Nat
  owner  : BitVec 4
  tcmask : BitVec 16
  dual   : Bool
  lo     : BitVec 2
  loB    : Bool
  gran   : Nat
  fa     : List Nat
  fb     : List Nat
  bken   : Bool
  bpa    : BitVec 28
  flip   : Option Flip
deriving DecidableEq, Repr

structure Zeroing where
  seg : Seg
  mbx : Nat
deriving DecidableEq, Repr

/-- A transfer (R88, R89). -/
structure Xfer where
  seg    : Nat
  load   : Bool
  mbx    : Nat
  copyB  : Bool
  ten    : Bool
  tally  : BitVec 12
  off    : Nat
  lines  : Nat
  next   : Nat
  infl   : List Nat
  fail   : Option (Nat × BitVec 3)
deriving DecidableEq, Repr

/-- An armed resolve (R138, R139). `readyAt` is the SCLK T; `start` says that F has passed. -/
structure Resolve where
  discard : Bool
  rten    : Bool
  nten    : Bool
  ntally  : BitVec 12
  rtally  : BitVec 12
  thresh  : BitVec 48
  deadline : FT
  reported : Bool
  due     : Option (FT × BitVec 48)
  readyAt : Option Nat
  start   : Bool
  next    : Nat
  armFt   : FT
  armRun  : Nat
deriving DecidableEq, Repr

/-- An exact region (R131 to R134). -/
structure Region where
  rid    : Nat
  seg    : Nat
  rfmt   : BitVec 4
  n      : Nat
  rbase  : Nat
  doff   : Nat
  frames : List Nat
  opener : BitVec 4
  mbx    : Nat
  nten   : Bool
  ntally : BitVec 12
  opened : Bool
  openFt : FT
  openRun : Nat
  res    : Option Resolve
deriving DecidableEq, Repr

/-- One contribution: element, class (0 finite, 1 +inf, 2 -inf, 3 NaN), sign, significand, exponent plus 149 (R121). -/
structure Contr where
  n   : Nat
  cls : BitVec 2
  neg : Bool
  m   : Nat
  sh  : Nat
deriving DecidableEq, Repr

/-- A place in Clove's exact queue (R137). `poi`: the source is poisoned; `met`: a poisoned group was reached. -/
structure ExactReq where
  req    : Req
  rid    : Nat
  todo   : List Contr
  poi    : Bool
  met    : Bool
  bytes  : Nat
deriving DecidableEq, Repr

structure FenSt where
  segs     : List Seg
  zeroing  : List Zeroing
  reclaims : List (List Nat)
  xfers    : List Xfer
  regions  : List Region
  exactQ   : List ExactReq
deriving DecidableEq, Repr

/-- A parked TWAIT (R207); `by_` is the requester and chip of the addition that carried its tally past, of the SCLK in which it did (R308);
`val` is its tally's value at the end of that SCLK, or of the last one since (R208); `due` holds the FT value and the tally's value of the SCLK
that reached its deadline, until the report is raised (R210, R211). -/
structure Parked where
  slot     : Nat
  req      : Req
  tally    : BitVec 12
  thresh   : BitVec 48
  deadline : FT
  reported : Bool
  parkFt   : FT
  parkRun  : Nat
  by_      : Option (BitVec 12 × BitVec 14)
  val      : BitVec 48
  due      : Option (FT × BitVec 48)
deriving DecidableEq, Repr

/-- An addition of this SCLK: its tally, its place in the order of R308, its requester and chip. -/
structure TAdd where
  tally : Nat
  ord   : Nat
  who   : BitVec 12 × BitVec 14
deriving DecidableEq, Repr

structure TallySt where
  val    : Store (BitVec 48)
  parked : List Parked
  adds   : List TAdd
deriving DecidableEq, Repr

/-! ### Home -/

/-- A Sedge entry (Table 8.2), less its check bits. -/
structure SedgeE where
  st    : BitVec 3
  cv    : Bool
  hg    : Bool
  shi   : BitVec 2
  tag   : BitVec 23
  ov    : Bool
  owner : BitVec 8
  shr   : BitVec 36
deriving DecidableEq, Repr

/-- A contention predictor entry (R180). -/
structure PredE where
  v    : Bool
  tag  : BitVec 10
  last : BitVec 9
  c    : BitVec 3
deriving DecidableEq, Repr

/-- What an HTE was opened for (Table 9.2). -/
inductive HKind where
  | rdShr | rdUnq | upgrade | rdOnce | wb | evict | atomNear | reclaim | backInv
deriving DecidableEq, Repr

/-- Data an HTE has received: line, DIRTY, poison, agent, and the REQID its message carried. -/
structure HData where
  d     : Line
  dirty : Bool
  poi   : Bool
  agent : BitVec 8
  reqid : BitVec 12
deriving DecidableEq, Repr

/-- A home transaction entry (R168, R189). `done` marks one that only waits for its response to leave (Table 8.3);
`grantOnly` one whose GRANT completes an UPGRADE alone (DATAF 0). -/
structure Hte where
  id      : Nat
  line    : LAddr
  kind    : HKind
  req     : Req
  h       : Bool
  stOpen  : BitVec 3
  a       : Bool
  k       : List (BitVec 8)
  d       : Option (BitVec 8)
  w       : Option (BitVec 8)
  q       : List Nat
  qWait   : Bool
  biOwner : Option (BitVec 8)
  grant   : Bool
  grantOnly : Bool
  fwdTo   : Option (BitVec 8)
  after   : Option SedgeE
  got     : Option HData
  held    : List Req
  done    : Bool
  openFt  : FT
  openRun : Nat
deriving DecidableEq, Repr

structure HomeSt where
  sedge  : Store SedgeE
  splru  : Store (BitVec 7)
  pred   : Store PredE
  htes   : List Hte
  relook : List Req
deriving DecidableEq, Repr

/-! ### Regulation, Mace, seal keys -/

/-- A class's present window (R234, R235, Table 11.5). -/
structure Win where
  served : Nat
  demand : Nat
  start  : FT
  eflo   : Nat
  scaled : Bool
  maxlvl : BitVec 3
deriving DecidableEq, Repr

structure RegulSt where
  on     : Bool
  win    : Store Win
  levels : Store (BitVec 3)
  rpts   : List (DPort × Msg)
deriving DecidableEq, Repr

/-- A partner line of an element still to be written, sent or read: its address over 128; `busy` while Clove or egress holds it. -/
structure PLine where
  line  : Nat
  loc   : Option FenLoc
  exact : Option Nat
  busy  : Bool
deriving DecidableEq, Repr

/-- An element request in flight (R148): row `k`, offset in the row, table address, partner address, length. `taken`: its
table step was made; `stepped`: it is performed. `fail` is the fault kind and status of an access refused after issue. -/
structure Elem where
  id    : Nat
  k     : Nat
  off   : Nat
  taddr : Nat
  paddr : Nat
  len   : Nat
  pad   : Bool
  src   : Option (Line × Bool)
  todo  : List PLine
  req   : Req
  taken   : Bool
  stepped : Bool
  poi     : Bool
  fail    : Option (BitVec 4 × BitVec 3)
deriving DecidableEq, Repr

/-- A row not yet finished: index, whether every line was issued, whether it faulted. -/
structure Row where
  k       : Nat
  issued  : Bool
  faulted : Bool
  pad     : Bool
deriving DecidableEq, Repr

/-- An index line read ahead (R148): awaited, held, or refused with a status. -/
inductive IdxSt where
  | wait | held (d : Line) | bad (st : BitVec 3)
deriving DecidableEq, Repr

/-- An active Mace descriptor (R145 to R156). -/
structure Desc where
  slot    : Nat
  req     : Req
  d       : BitVec 1024
  idx     : List (Nat × IdxSt)
  k       : Nat
  rowOff  : Nat
  infl    : List Elem
  nextId  : Nat
  rows    : List Row
  faults  : Nat
  done    : Nat
  pads    : Nat
  firstK  : Option Nat
  fkind   : BitVec 4
  fstat   : BitVec 3
  stopped : Bool
  ending  : Bool
  endFt   : FT
deriving DecidableEq, Repr

structure MaceSt where
  descs : List Desc
  rr    : Nat
deriving DecidableEq, Repr

/-- A context's seal key (R253): loaded, K1, K2, KM, count of loads. -/
structure Key where
  loaded : Bool
  k1     : BitVec 256
  k2     : BitVec 256
  km     : BitVec 256
  kgen   : BitVec 16
deriving DecidableEq, Repr

/-! ### Counters, trace, watch -/

/-- Attribution kind of an occurrence (Chapter 14). -/
inductive OccKind where
  | r | p | q | u
deriving DecidableEq, Repr

/-- An occurrence of an event in this SCLK: code, kind, subject, increment, and its place in the order of R305: tag
pipes 0 to 3, S, D0, D1, then the rest (R287, R288). -/
structure Occ where
  ev   : BitVec 8
  kind : OccKind
  subj : Subj
  n    : Nat
  ord  : Nat
deriving DecidableEq, Repr

/-- A step's use of a lookup slot (R296). -/
structure Slot where
  pipe    : Nat
  retired : Bool
  subj    : Option Subj
deriving DecidableEq, Repr

structure Ctr where
  val  : BitVec 48
  ovf  : Bool
  run  : Bool
  load : BitVec 48
  tag  : Option (BitVec 20)
  p0   : FT
  pk   : Nat
deriving DecidableEq, Repr

/-- A native sample that waits for its subject (R304). -/
structure NatPend where
  n    : Nat
  sclk : Nat
  ft   : FT
  val  : BitVec 48
  ovf  : Bool
  rc   : Bool
  subj : Option (Subj × Nat)
deriving DecidableEq, Repr

/-- A reset of counter `n` that takes effect after this SCLK (R299): the value it then takes. `zl` marks a ZERO or
LOAD, `commit` one under R291. -/
structure CRst where
  n      : Nat
  val    : BitVec 48
  zl     : Bool
  commit : Bool
deriving DecidableEq, Repr

/-- A line of a dump record that waits to leave: address, SEQ, bytes (R302). -/
structure DLine where
  addr : Nat
  seq  : BitVec 32
  data : Line
deriving DecidableEq, Repr

/-- Dump state (R301). -/
structure DumpSt where
  next : Nat
  seq  : BitVec 32
  lost : BitVec 32
  k    : Nat
  q    : List DLine
deriving DecidableEq, Repr

/-- A capture that a command of this SCLK takes at its end (R287): a CTR_CONFIG READ of a mailbox, a dump, or a read of the counter window. -/
inductive CapReq where
  | read (mbx : Nat) | dump | win (r : RegReq)
deriving DecidableEq, Repr

/-- Counters and samples. Of this SCLK: `occ` the occurrences, `cls` the requests classified with their port's place,
`rst` the resets, `caps` the captures to take, `ovl` overflows already applied with their subject and its status, `snew` sample records taken (counter, place of
their cause; `none` for a periodic one). -/
structure CtrSt where
  ctr    : Store Ctr
  f      : Store (BitVec 64)
  occ    : List Occ
  cls    : List (Nat × Subj)
  slots  : List Slot
  rst    : List CRst
  caps   : List CapReq
  ovl    : List (Nat × Option (Subj × Nat))
  snew   : List (Nat × Nat × Option Rec)
  samp   : List Rec
  sseq   : BitVec 32
  snext  : Nat
  slost  : BitVec 32
  native : List NatPend
  dump   : DumpSt
  gaugeK : Nat
deriving DecidableEq, Repr

/-- A trace event of this SCLK (R309, R313): type, fields below the header, filters' subject, tally. -/
structure TEv where
  type  : BitVec 8
  body  : BitVec 152
  subj  : Option Subj
  tally : Option (BitVec 12)
  qc    : Option (BitVec 4)
  ord   : Nat
deriving DecidableEq, Repr

/-- A trigger source of this SCLK (R316): code and watch window. -/
structure Trig where
  src  : BitVec 3
  win  : BitVec 4
  bufs : BitVec 4
deriving DecidableEq, Repr

/-- A Peat buffer (R312 to R317, Table 15.6). Local records carry their ring index. -/
structure TBuf where
  st    : BitVec 2
  err   : Bool
  seq   : BitVec 32
  next  : Nat
  tidx  : Nat
  start : Nat
  lost  : BitVec 32
  loc   : List (Nat × Rec)
  sft   : FT
  pend  : Option (BitVec 32 × BitVec 32 × FT)
  acc   : Nat
  after : Option Nat
  lastRun : Nat
  flush : Bool
  stopping : Bool
deriving DecidableEq, Repr

/-- A watch window's registers (Table 15.9). -/
structure Wat where
  armed  : Bool
  fired  : Bool
  acc    : BitVec 48
  wbytes : BitVec 48
  digest : BitVec 64
  nan    : BitVec 32
  inf    : BitVec 32
  maxabs : BitVec 32
  tft    : FT
deriving DecidableEq, Repr

/-- A SCAN under way, with the window's entry as it was at the start. -/
structure Scan where
  ent   : BitVec 256
  mbx   : Nat
  seg   : Nat
  copyB : Bool
  pos   : Nat
  dig   : BitVec 64
  lines : Nat
  pois  : Nat
deriving DecidableEq, Repr

structure PeatSt where
  bufs : Store TBuf
  tev  : List TEv
  trg  : List Trig
  wat  : Store Wat
  scan : Option Scan
deriving DecidableEq, Repr

/-! ### Steward -/

/-- What a mailbox's command waits for (R261 to R264). -/
inductive MPhase where
  | idle | queued | input (n : Nat) | output | work
deriving DecidableEq, Repr

/-- A mailbox (Table 13.5), with the latched command and the words its stream has moved. -/
structure Mbx where
  busy  : Bool
  ovr   : Bool
  seqL  : BitVec 16
  code  : BitVec 4
  cmd   : BitVec 8
  seq   : BitVec 16
  arg   : List (BitVec 32)
  res   : List (BitVec 32)
  inF   : List (BitVec 32)
  outF  : List (BitVec 32)
  op    : BitVec 8
  larg  : List (BitVec 32)
  phase : MPhase
  got   : List (BitVec 32)
  pend  : List (BitVec 32)
  wait  : Nat
deriving DecidableEq, Repr

/-- An activation under way (R282, R283). -/
structure Act where
  mbx : Nat
  at_ : Nat
  reverted : Bool
deriving DecidableEq, Repr

/-- The steward core and its firmware slots (R281 to R284). -/
structure Core where
  sup  : Bool
  slot : Bool
  vala : Bool
  valb : Bool
  fwA  : List (BitVec 32)
  fwB  : List (BitVec 32)
  run  : Bool
  wdAt : Nat
  act  : Option Act
  boot : Option (List (BitVec 32))
deriving DecidableEq, Repr

/-- Interrupt and alert registers (Table 13.3). -/
structure Ints where
  stat  : BitVec 32
  en    : BitVec 32
  mbx   : BitVec 16
  mbxEn : BitVec 16
  tgt   : BitVec 32
  addr  : BitVec 64
  data  : BitVec 32
  alert : BitVec 3
  rst   : BitVec 8
  sent  : Bool
deriving DecidableEq, Repr

/-- A notice queued by the datapath (R14): an event record of a kind, or an error record. -/
inductive Notice where
  | event (kind : BitVec 8) (r : Rec)
  | error (r : Rec)
deriving DecidableEq, Repr

/-- Event queue, error log, fatal record (R258, R365, R367). `fatalEff` follows `fatalSeen` from the next SCLK. -/
structure LogSt where
  notices : List Notice
  evq     : List (BitVec 8 × Rec)
  evLost  : BitVec 32
  errs    : List Rec
  errLost : BitVec 16
  errSeq  : BitVec 16
  fatal   : Option Rec
  fatalSeen : Bool
  fatalEff  : Bool
deriving DecidableEq, Repr

/-! ### Live service -/

inductive DrainMode where
  | halt | clean | empty
deriving DecidableEq, Repr

/-- A DRAIN command under way: its mode, mailbox, sweep position (way of the array) and counts. -/
structure Drain where
  mode : DrainMode
  mbx  : Nat
  pos  : Nat
  wb   : Nat
  inv  : Nat
deriving DecidableEq, Repr

/-- A TENANT_SWITCH under way (R246). -/
structure Tsw where
  t       : BitVec 4
  mbx     : Nat
  discard : Bool
  fenfree : Bool
  clrkey  : Bool
  stage   : Nat
  pos     : Nat
  wb      : Nat
  inv     : Nat
  regs    : Nat
  segs    : Nat
deriving DecidableEq, Repr

/-- A WFG_SNAPSHOT under way: the lines still to write, the first of them at `addr`, and what its results report. -/
structure Snap where
  mbx   : Nat
  addr  : Nat
  todo  : List Line
  bytes : Nat
  trunc : Bool
  cft   : FT
deriving DecidableEq, Repr

structure Insp where
  mbx   : Nat
  kind  : BitVec 2
  loc   : Nat
  epoch : BitVec 2
  count : Nat
  done  : Nat
deriving DecidableEq, Repr

/-- What a request of the slice's own was sent for. -/
inductive OwnKind where
  | xfer (seg : Nat) (off : Nat)
  | trace (b : Nat) (addr : Nat) (n : Nat)
  | dump (addr : Nat) (seq : BitVec 32)
  | sample (addr : Nat) (seq : BitVec 32)
  | snap
  | macMire (i : Nat)
  | macClean (k : Nat)
  | macWrite (l : LAddr) (tc : BitVec 4)
  | macRead (e : Nat)
  | maceIdx (slot : Nat) (line : Nat)
  | maceRec (slot : Nat)
deriving DecidableEq, Repr

/-- A request of the slice's own that awaits its answer (R52, R88, R150, R250). -/
structure Own where
  txid : BitVec 16
  kind : OwnKind
deriving DecidableEq, Repr

structure LiveSt where
  halt     : Bool
  allocOff : Bool
  drain    : Option Drain
  tsw      : Option Tsw
  snap     : Option Snap
  insp     : List Insp
  scrubPos : Nat
  scrubG   : FT
  scrubK   : Nat
  leakK    : Nat
  own      : List Own
  ownTx    : BitVec 16
deriving DecidableEq, Repr

/-- The state of one slice. `pending` is the model's queue of commands. -/
structure State where
  pending : List Instr
  clk     : Clock
  pins    : Pins
  pw      : PowerSt
  banks   : Store Bank
  gen     : GenSt
  arr     : ArraySt
  mp      : MPort
  pf      : Prefetch
  d0      : PortSt
  d1      : PortSt
  sq      : List Req
  sout    : List Out
  regHw   : List RegReq
  fen     : FenSt
  tal     : TallySt
  home    : HomeSt
  regul   : RegulSt
  mace    : MaceSt
  keys    : Store Key
  ctr     : CtrSt
  peat    : PeatSt
  mbx     : Store Mbx
  startQ  : List Nat
  core    : Core
  ints    : Ints
  log     : LogSt
  srv     : LiveSt
  bad     : List Site
deriving DecidableEq, Repr

/-! ### Reset -/

def Attr.default : Attr := { wpol := 0, ralloc := 0, pfen := true, sealed := false, ro := false }

def PortSt.reset : PortSt :=
  { ing := [], skid := none, regq := [], q := [], owed := [], rrPick := 15, rrLend := 15, out := [] }

def Clock.reset : Clock := { sclk := 0, run := 0, ft := 0, ftv := false, seen := false, bus := 0, rel := 0, ftIn := [] }

def Pins.reset : Pins :=
  { porstN := false, drstN := true, vddCore := true, present := false, fatalN := true, alert := false, chipId := 0, sreqid := 0,
    pmReq := false, pmPd := 0, pmTo := 0, pmGnt := false, bootReq := false, bootAddr := 0,
    irdy0 := false, irdy1 := false, oh0 := none, oh1 := none, ohS := none, mCmd := none,
    cgnt0 := 0, cgnt1 := 0, liveAt := 0, liveCnt := 0, downAt := 0 }

def Bank.reset : Bank :=
  { retired := false, leak := 0, errs := 0, retires := 0, trim := 0, op := none, sweep := none }

def GenSt.reset : GenSt :=
  { live := [], shadow := [], gen := 0, last := 0, ftab := 0, fcode := 0, fent := 0, gft := 0,
    armed := none, wait := none, rehash := none, hg := false, conv := none }

def MPort.reset : MPort :=
  { miss := [], mire := [], plist := [], rcr := 0, wcr := 0, wrTurn := false, writes := [], wseq := 0, clean := [], outW := [] }

def FenSt.reset : FenSt :=
  { segs := [], zeroing := [], reclaims := [], xfers := [], regions := [], exactQ := [] }

def TagE.zero : TagE :=
  { lo := 0, tc := 0, qc := 0, clv := false, pf := false, sealed := false, poi := false, d := false, v := false, tag := 0 }

def SedgeE.zero : SedgeE :=
  { st := 0, cv := false, hg := false, shi := 0, tag := 0, ov := false, owner := 0, shr := 0 }

def PredE.zero : PredE := { v := false, tag := 0, last := 0, c := 0 }

def Win.zero : Win := { served := 0, demand := 0, start := 0, eflo := 0, scaled := false, maxlvl := 0 }

def Key.zero : Key := { loaded := false, k1 := 0, k2 := 0, km := 0, kgen := 0 }

def Ctr.reset : Ctr := { val := 0, ovf := false, run := true, load := 0, tag := none, p0 := 0, pk := 0 }

def CtrSt.reset : CtrSt :=
  { ctr := [], f := [], occ := [], cls := [], slots := [], rst := [], caps := [], ovl := [], snew := [], samp := [], sseq := 0, snext := 0, slost := 0, native := [],
    dump := { next := 0, seq := 0, lost := 0, k := 0, q := [] }, gaugeK := 0 }

def TBuf.reset : TBuf :=
  { st := 0, err := false, seq := 0, next := 0, tidx := 0, start := 0, lost := 0, loc := [], sft := 0,
    pend := none, acc := 0, after := none, lastRun := 0, flush := false, stopping := false }

def Wat.zero : Wat :=
  { armed := false, fired := false, acc := 0, wbytes := 0, digest := 0, nan := 0, inf := 0, maxabs := 0, tft := 0 }

def Mbx.reset : Mbx :=
  { busy := false, ovr := false, seqL := 0, code := 0, cmd := 0, seq := 0, arg := List.replicate 16 0,
    res := List.replicate 16 0, inF := [], outF := [], op := 0, larg := List.replicate 16 0, phase := .idle,
    got := [], pend := [], wait := 0 }

def Core.reset : Core :=
  { sup := false, slot := false, vala := true, valb := false, fwA := [], fwB := [], run := false,
    wdAt := 0, act := none, boot := none }

def Ints.reset : Ints :=
  { stat := 0, en := 0, mbx := 0, mbxEn := 0, tgt := 0, addr := 0, data := 0, alert := 0, rst := 0, sent := false }

def LogSt.reset : LogSt :=
  { notices := [], evq := [], evLost := 0, errs := [], errLost := 0, errSeq := 0, fatal := none, fatalSeen := false, fatalEff := false }

def LiveSt.reset : LiveSt :=
  { halt := false, allocOff := false, drain := none, tsw := none, snap := none, insp := [], scrubPos := 0,
    scrubG := 0, scrubK := 0, leakK := 0, own := [], ownTx := 0 }

/-- The slice while PORST_N is 0 (R343): every domain but PD78 and PD79 OFF, every register at its reset value. -/
def State.reset : State :=
  { pending := [], clk := .reset, pins := .reset, pw := { dom := [], wants := [], bring := false }, banks := [],
    gen := .reset, arr := { tags := [], data := [], plru := [] }, mp := .reset,
    pf := { streams := [], cands := [] }, d0 := .reset, d1 := .reset, sq := [], sout := [], regHw := [],
    fen := .reset, tal := { val := [], parked := [], adds := [] },
    home := { sedge := [], splru := [], pred := [], htes := [], relook := [] },
    regul := { on := false, win := [], levels := [], rpts := [] }, mace := { descs := [], rr := 7 }, keys := [],
    ctr := .reset, peat := { bufs := [], tev := [], trg := [], wat := [], scan := none },
    mbx := [], startQ := [], core := .reset, ints := .reset, log := .reset, srv := .reset, bad := [] }

/-! ### Stops -/

/-- Why a step stops with a fault. -/
inductive Fault where
  /-- Raised by M_READ_DATA and M_WRITE_ACK when the memory channel controller answers a command that
  the slice has not outstanding: R336 binds the integrator and the spec gives no effect. Safe. -/
  | mAnswerUnmatched
deriving DecidableEq, Repr

/-- Why a step is refused. -/
inductive Refusal where
  /-- Raised by exec for a command that has no meaning yet, by its mnemonic. Safe. -/
  | notModelled (mnemonic : String)
deriving DecidableEq, Repr

end Sys2Proof.Machine
end

