-- ==== Sys2Proof/Machine/Clove.lean ====
section
/-! DEFINITION. Clove: fast-mode results (R110 to R118), contributions and accumulators (R119 to R124), resolve (R125). -/

namespace Sys2Proof.Machine

/-- What a fast-mode operation counts (events 0x60 and 0x63 to 0x68 of Table 14.4). -/
structure FpEv where
  elems : Nat
  nan   : Nat
  inf   : Nat
  sat   : Nat
  zero  : Nat
  inex  : Nat
  casf  : Nat
deriving DecidableEq, Repr

def FpEv.none : FpEv := ⟨0, 0, 0, 0, 0, 0, 0⟩

def FpEv.add (a b : FpEv) : FpEv :=
  ⟨a.elems + b.elems, a.nan + b.nan, a.inf + b.inf, a.sat + b.sat, a.zero + b.zero, a.inex + b.inex, a.casf + b.casf⟩

/-- The counts of one element written as `w` where the exact result is `x` and `fin` says that both operands are finite. -/
def fpCount (f : FFmt) (fin : Bool) (x : FVal) (w : Nat) : FpEv :=
  let v := f.decode w
  { elems := 1, nan := b2n v.isNan, inf := b2n (fin && v.isInf),
    sat := b2n (v.isFin && !v.same x && (w % 2 ^ (f.eb + f.mb)) == f.maxFin && f.kind != .ieee && overMax f x),
    zero := b2n (v.isZero && x.isFin && !x.isZero), inex := b2n (!v.isNan && !v.same x), casf := 0 }
where
  /-- The value lies beyond the largest finite value. -/
  overMax (f : FFmt) (x : FVal) : Bool :=
    match x, f.decode f.maxFin with
    | .fin _ m e, .fin _ n g => FVal.lt (.fin false n g) (.fin false m e)
    | .inf _, _ => true
    | _, _ => false

/-- Fast-mode ADD of one element (R111, R112). -/
def fpAdd (fmt a b : Nat) : Nat × FpEv :=
  let f := ffmt fmt
  let x := f.decode a
  let y := f.decode b
  let exact := x.add y
  let w := if fmt = 0 then f.encode exact else f.encode exact.to32
  (w, fpCount f (x.isFin && y.isFin) exact w)

/-- Fast-mode MIN or MAX of one element (R113). -/
def fpMinMax (fmt : Nat) (isMax : Bool) (a b : Nat) : Nat × FpEv :=
  let f := ffmt fmt
  let x := f.decode a
  let y := f.decode b
  if x.isNan || y.isNan then (f.cnan, { FpEv.none with elems := 1, nan := 1 })
  else
    let takeB := if isMax then FVal.lt x y else FVal.lt y x
    (if takeB then b else a, { FpEv.none with elems := 1 })

/-- Signed value of `n` bits. -/
def toSigned (n x : Nat) : Int := if x < 2 ^ (n - 1) then x else (x : Int) - 2 ^ n

def intOp (n op a b : Nat) : Nat :=
  match op with
  | 0 => (a + b) % 2 ^ n
  | 1 => if toSigned n b < toSigned n a then b else a
  | 2 => if toSigned n a < toSigned n b then b else a
  | 8 => min a b
  | _ => max a b

/-- One element under RED's and ATOM's ADD, MIN, MAX, AND, OR, XOR, MINU and MAXU (R111 to R115). -/
def elemOp (fmt op a b : Nat) : Nat × FpEv :=
  let one := { FpEv.none with elems := 1 }
  match op with
  | 3 => (a &&& b, one)
  | 4 => (a ||| b, one)
  | 5 => (a ^^^ b, one)
  | _ =>
    if fmtIsInt fmt then (intOp (fmtBits fmt) op a b, one)
    else if op = 0 then fpAdd fmt a b
    else fpMinMax fmt (op == 2) a b

/-- Combines a storage unit element by element (Table 5.3). -/
def unitOp (fmt op a b : Nat) : Nat × FpEv :=
  let w := fmtBits fmt
  (List.range (fmtPerUnit fmt)).foldl (fun r i =>
    let x := elemOp fmt op (fld a (w * i) w) (fld b (w * i) w)
    (r.1 ||| (x.1 <<< (w * i)), r.2.add x.2)) (0, FpEv.none)

/-! ### MX blocks (R108, R116) -/

/-- Bit offset of element `j` in a block's data. -/
def mxBit (f j : Nat) : Nat := if f = 10 then 24 * (j / 4) + 6 * (j % 4) else fmtBits f * j

def mxElem (f : Nat) (blk j : Nat) : Nat := fld blk (mxBit f j) (fmtBits f)

def mxEmax (f : Nat) : Int := match f with | 9 => 8 | 10 => 4 | _ => 2

/-- The block holds a NaN: scale 0xFF or an E4M3 NaN element. -/
def mxNan (f sc blk : Nat) : Bool :=
  sc == 0xFF || (List.range 32).any fun j => ((ffmt f).decode (mxElem f blk j)).isNan

/-- The exponent floor(log2 m) + e of a magnitude; `none` for zero. -/
def magExp : FVal → Option Int
  | .fin _ m e => if m = 0 then none else some ((Nat.log2 m : Int) + e)
  | _ => none

def maxOpt : Option Int → Option Int → Option Int
  | none, b => b
  | a, none => a
  | some a, some b => some (max a b)

/-- A block under ADD, MIN and MAX: new scale byte, new data, counts (R116). -/
def mxArith (f op sa a sb b : Nat) : Nat × Nat × FpEv :=
  if mxNan f sa a || mxNan f sb b then (0xFF, 0, { FpEv.none with elems := 32, nan := 32 })
  else
    let fm := ffmt f
    let smax := max sa sb
    let val := fun (s blk j : Nat) => (fm.decode (mxElem f blk j)).scale ((s : Int) - smax)
    let comb := fun (x y : FVal) =>
      if op = 0 then x.add y else if op = 2 then (if x.lt y then y else x) else (if y.lt x then y else x)
    let res := (List.range 32).map fun j => (comb (val sa a j).to32 (val sb b j).to32).to32
    let big := res.foldl (fun m v => maxOpt m (magExp v)) none
    let e : Int := match big with
      | none => 0
      | some k => max (-127) (min 127 ((smax : Int) - 127 + k - mxEmax f))
    let sh : Int := (smax : Int) - 127 - e
    let sc := (e + 127).toNat
    let out := (List.range 32).foldl (fun r j =>
      let v := (res.getD j .nan).scale sh
      let w := fm.encode v
      let exact := (comb (val sa a j) (val sb b j)).scale sh
      (r.1 ||| (w <<< mxBit f j), r.2.add (fpCount fm true exact w))) (0, FpEv.none)
    (sc, out.1, out.2)

/-- A block under any operation of RED: AND, OR and XOR take the scale byte too (R114). -/
def mxOp (f op sa a sb b : Nat) : Nat × Nat × FpEv :=
  match op with
  | 3 => (sa &&& sb, a &&& b, { FpEv.none with elems := 32 })
  | 4 => (sa ||| sb, a ||| b, { FpEv.none with elems := 32 })
  | 5 => (sa ^^^ sb, a ^^^ b, { FpEv.none with elems := 32 })
  | _ => mxArith f op sa a sb b

/-! ### Operations on a line -/

/-- A RED with format `f`, operation `op`, span `off`, `len` and enabled bytes `k` on a line (R101, R107, R109). -/
def redLine (f op off len : Nat) (k : Mask) (old src : Line) : Line × FpEv :=
  if fmtIsMx f then
    let n := mxData f
    (List.range (mxBlocks f)).foldl (fun r i =>
      if mxBlockMask f i &&& k == mxBlockMask f i then
        let o := 8 + n * i
        let x := mxOp f op (lineNat old i 1) (lineNat old o n) (lineNat src i 1) (lineNat src o n)
        (linePut (linePut r.1 i 1 x.1) o n x.2.1, r.2.add x.2.2)
      else r) (old, FpEv.none)
  else
    let u := fmtUnit f
    (List.range (len / u)).foldl (fun r i =>
      let o := off + u * i
      if allIn k o u then
        let x := unitOp f op (lineNat old o u) (lineNat src o u)
        (linePut r.1 o u x.1, r.2.add x.2)
      else r) (old, FpEv.none)

/-- An ATOM on the element at `off`: new line, old value, counts (R114, R117). -/
def atomLine (f op off a b : Nat) (old : Line) : Line × Nat × FpEv :=
  let n := atomSize f
  let x := lineNat old off n
  let va := a % 2 ^ (8 * n)
  let vb := b % 2 ^ (8 * n)
  let one := { FpEv.none with elems := 1 }
  let r : Nat × FpEv :=
    if op = 6 then (va, one)
    else if op = 7 then (if x = va then (vb, one) else (x, { one with casf := 1 }))
    else elemOp f op x va
  (linePut old off n r.1, x, r.2)

/-! ### Exact mode -/

/-- Elements per window line (Table 6.2). -/
def eplOf (f : Nat) : Nat :=
  match f with
  | 1 => 32 | 2 => 64 | 3 => 64 | 4 => 128 | 5 => 128 | 6 => 168 | 7 => 168 | 8 => 256 | 9 => 96 | 10 => 160 | _ => 224

/-- The contribution an element makes to region element `n` (R121, R122); `x` is the MX scale byte. -/
def contrOf (f n bits : Nat) (x : Option Nat) : Contr :=
  let nan : Contr := { n := n, cls := 3, neg := false, m := 0, sh := 0 }
  if x == some 0xFF then nan
  else match (ffmt f).decode bits with
    | .nan => nan
    | .inf s => { n := n, cls := if s then 2 else 1, neg := s, m := 0, sh := 0 }
    | .fin s m e =>
      let k : Int := match x with | some b => (b : Int) - 127 | none => 0
      { n := n, cls := 0, neg := s, m := m, sh := (e + k + 149).toNat }

/-- The contributing elements of a RED on window line `l`, in ascending position (R131, R132). -/
def redContrs (f off len : Nat) (k : Mask) (l : Nat) (src : Line) : List Contr :=
  if fmtIsMx f then
    (List.range (mxBlocks f)).flatMap fun i =>
      if mxBlockMask f i &&& k == mxBlockMask f i then
        let d := lineNat src (8 + mxData f * i) (mxData f)
        let s := lineNat src i 1
        (List.range 32).map fun j => contrOf f (l * eplOf f + 32 * i + j) (mxElem f d j) (some s)
      else []
  else
    let u := fmtUnit f
    let w := fmtBits f
    let per := fmtPerUnit f
    (List.range (len / u)).flatMap fun i =>
      let o := off + u * i
      if allIn k o u then
        (List.range per).map fun j => contrOf f (l * eplOf f + per * (o / u) + j) (fld (lineNat src o u) (w * j) w) none
      else []

/-- Table 5.8. -/
def clsJoin (a b : Nat) : Nat :=
  if a = 3 ∨ b = 3 then 3 else if a = 0 then b else if b = 0 then a else if a = b then a else 3

/-- Adds a contribution to an accumulator entry (Table 5.6, R121, R122). -/
def accAdd (acc : Nat) (c : Contr) : Nat :=
  let cls := clsJoin (fld acc 318 2) c.cls.toNat
  let sum := fld acc 0 318
  let t := (c.m * 2 ^ c.sh) % 2 ^ 318
  let sum' := if c.cls = 0 then (if c.neg then (sum + (2 ^ 318 - t)) % 2 ^ 318 else (sum + t) % 2 ^ 318) else sum
  cls * 2 ^ 318 + sum'

/-- Resolves an accumulator entry to format `f` (R125): result bits. -/
def accResolve (f acc : Nat) : Nat :=
  let fm := ffmt f
  match fld acc 318 2 with
  | 1 => fm.encode (.inf false)
  | 2 => fm.encode (.inf true)
  | 3 => fm.cnan
  | _ =>
    let sum := fld acc 0 318
    let neg := nbit acc 317
    let mag := if neg then 2 ^ 318 - sum else sum
    if mag = 0 then 0 else fm.round neg mag (-149)

/-- Bytes of a result element (RFMT). -/
def rfmtSize (f : Nat) : Nat := match f with | 0 => 8 | 1 => 4 | _ => 2

end Sys2Proof.Machine
end

