-- ==== Sys2Proof/Machine/Store.lean ====
section
/-! DEFINITION. Operations on sparse stores: read, write and the canonical form. -/

namespace Sys2Proof.Machine

/-- What key `k` reads as: its entry, or the default. -/
def sget {α : Type} (d : Nat → α) : Store α → Nat → α
  | [], k => d k
  | (j, v) :: r, k => if k = j then v else sget d r k

/-- Writes key `k`; writing the default removes the entry. -/
def sset {α : Type} [DecidableEq α] (d : Nat → α) : Store α → Nat → α → Store α
  | [], k, v => if v = d k then [] else [(k, v)]
  | (j, w) :: r, k, v =>
    if k < j then (if v = d k then (j, w) :: r else (k, v) :: (j, w) :: r)
    else if k = j then (if v = d k then r else (k, v) :: r)
    else (j, w) :: sset d r k v

/-- Every key is above `lo`, keys rise strictly, and no entry equals its default. -/
def swfFrom {α : Type} [DecidableEq α] (d : Nat → α) : Option Nat → Store α → Bool
  | _, [] => true
  | lo, (k, v) :: r =>
    (match lo with | none => true | some l => decide (l < k)) && decide (v ≠ d k) && swfFrom d (some k) r

/-- The canonical form of a store. -/
def swf {α : Type} [DecidableEq α] (d : Nat → α) (st : Store α) : Bool := swfFrom d none st

/-- Keys listed in a store. -/
def skeys {α : Type} (st : Store α) : List Nat := st.map Prod.fst

/-- Replaces the elements of a list that satisfy `p`. -/
def lmod {α : Type} (p : α → Bool) (f : α → α) (l : List α) : List α := l.map fun x => if p x then f x else x

/-- The lowest natural number below `n` that satisfies `p`. -/
def lowest (n : Nat) (p : Nat → Bool) : Option Nat := (List.range n).find? p

end Sys2Proof.Machine
end

