-- ==== Sys2Proof/Machine/Tables.lean ====
section
/-! DEFINITION. The configuration tables T_RAT to T_PREFETCH (Table 13.7): reset values and fields. -/

namespace Sys2Proof.Machine

namespace Tid
def rat : Nat := 1
def class_ : Nat := 2
def reqmap : Nat := 3
def hash : Nat := 4
def part : Nat := 5
def mcbank : Nat := 6
def ctr : Nat := 7
def dump : Nat := 8
def trace : Nat := 9
def watch : Nat := 10
def tenant : Nat := 11
def prefetch : Nat := 12
end Tid

/-- Entries of a table; 0 for an ID that is not in Table 13.7. -/
def tblEntries (t : Nat) : Nat :=
  match t with
  | 1 => 64 | 2 => 18 | 3 => 4096 | 4 => 14 | 5 => 1 | 6 => 13 | 7 => 64 | 8 => 1 | 9 => 4 | 10 => 16 | 11 => 16 | 12 => 17
  | _ => 0

/-- Words of an entry (Table 13.7). -/
def tblWords (t : Nat) : Nat :=
  match t with
  | 1 => 4 | 2 => 4 | 3 => 1 | 4 => 1 | 5 => 1 | 6 => 2 | 7 => 4 | 8 => 8 | 9 => 8 | 10 => 8 | 11 => 4 | 12 => 1
  | _ => 0

/-- Table 3.2. -/
def hashReset (i : Nat) : Nat := if i ≤ 8 then 2 ^ i + 2 ^ (i + 14) else 2 ^ i

/-- The reset value of an entry. -/
def tblReset (t i : Nat) : Nat :=
  match t with
  | 2 =>
    if i < 16 then packNat [(124, 4, i), (112, 9, 256), (72, 16, 1024), (32, 8, 8)]
    else if i = 16 then packNat [(48, 6, 7), (32, 13, 0x1000), (16, 13, 0x0800), (0, 13, 0x0800)]
    else packNat [(48, 8, 32), (40, 8, 64), (32, 8, 96), (24, 8, 128), (16, 8, 160), (8, 8, 192), (0, 8, 224)]
  | 3 => 0x80000000
  | 4 => hashReset i
  | 5 => 0x00400280
  | 6 => if i < 12 then 2 ^ i else 32
  | 7 => 0xFFFF0000
  | 9 => packNat [(118, 16, 0xFFFF), (30, 12, 0xFFF)]
  | 11 => 0xFF
  | 12 => if i < 16 then 0xC2 else 7
  | _ => 0

/-- Reserved bits of an entry, which SET_TABLE requires to be 0 (R266). -/
def tblRsv (t i : Nat) : Nat :=
  let m : List (Nat × Nat) → Nat := fun l => l.foldl (fun a f => a ||| ((2 ^ f.2 - 1) <<< f.1)) 0
  match t with
  | 1 => m [(108, 4), (104, 1), (93, 7), (0, 36)]
  | 2 =>
    if i < 16 then m [(121, 3), (70, 2), (59, 5), (40, 8), (0, 32)]
    else if i = 16 then m [(64, 64), (54, 10), (45, 3), (29, 3), (13, 3)] else m [(64, 64), (56, 8)]
  | 3 => m [(21, 10), (8, 4)]
  | 4 => m [(23, 9)]
  | 5 => m [(12, 4)]
  | 6 => if i < 12 then m [(37, 27)] else m [(9, 55)]
  | 8 => m [(0, 10)]
  | 9 => m [(0, 6)]
  | 10 => m [(0, 105)]
  | 11 => m [(93, 7), (8, 28)]
  | 12 => if i < 16 then m [(8, 24), (4, 2)] else m [(5, 27)]
  | _ => 0

/-- Key of entry `i` of table `t`. -/
def tkey (t i : Nat) : Nat := 4096 * t + i

/-- The default of a table image by key. -/
def tblDflt (k : Nat) : BitVec 256 := BitVec.ofNat 256 (tblReset (k / 4096) (k % 4096))

/-- Entry `i` of table `t` as a number. -/
def tbl (g : Tables) (t i : Nat) : Nat := (sget tblDflt g (tkey t i)).toNat

def tblSet (g : Tables) (t i v : Nat) : Tables := sset tblDflt g (tkey t i) (BitVec.ofNat 256 v)

/-! ### T_RAT (Table 3.5) -/

def ratTcmask (e : Nat) : Nat := fld e 112 16
def ratRo (e : Nat) : Bool := nbit e 107
def ratSeal (e : Nat) : Bool := nbit e 106
def ratPfen (e : Nat) : Bool := nbit e 105
def ratRalloc (e : Nat) : Nat := fld e 102 2
def ratWpol (e : Nat) : Nat := fld e 100 2
def ratSize (e : Nat) : Nat := fld e 64 29
def ratBase (e : Nat) : Nat := fld e 36 28
/-- First byte and byte after the range. -/
def ratLo (e : Nat) : Nat := ratBase e * 65536
def ratHi (e : Nat) : Nat := (ratBase e + ratSize e) * 65536

/-- The lowest-numbered entry whose range holds the address (R71). -/
def ratFind (g : Tables) (a : Nat) : Option Nat :=
  (List.range 64).find? fun i => let e := tbl g Tid.rat i; ratLo e ≤ a && a < ratHi e

def ratAttr (g : Tables) (a : Nat) : Attr :=
  match ratFind g a with
  | none => .default
  | some i =>
    let e := tbl g Tid.rat i
    { wpol := BitVec.ofNat 2 (ratWpol e), ralloc := BitVec.ofNat 2 (ratRalloc e), pfen := ratPfen e, sealed := ratSeal e, ro := ratRo e }

/-- TCMASK of the address's region; every context for an address that no entry holds. -/
def ratPermits (g : Tables) (a tc : Nat) : Bool :=
  match ratFind g a with
  | none => true
  | some i => nbit (ratTcmask (tbl g Tid.rat i)) tc

/-! ### T_CLASS (Tables 11.2, 11.3) -/

def clsE (g : Tables) (c : Nat) : Nat := tbl g Tid.class_ c
def clsPrio (g : Tables) (c : Nat) : Nat := fld (clsE g c) 124 4
def clsMfrac (g : Tables) (c : Nat) : Nat := fld (clsE g c) 112 9
def clsFloor (g : Tables) (c : Nat) : Nat := fld (clsE g c) 88 24
def clsWin (g : Tables) (c : Nat) : Nat := fld (clsE g c) 72 16
def clsWres (g : Tables) (c : Nat) : Nat := fld (clsE g c) 64 6
def clsMres (g : Tables) (c : Nat) : Nat := fld (clsE g c) 48 11
def clsQres (g : Tables) (c : Nat) : Nat := fld (clsE g c) 32 8
def capNstkm1 (g : Tables) : Nat := fld (clsE g 16) 48 6
def capPcap (g : Tables) : Nat := fld (clsE g 16) 32 13
def capMcap (g : Tables) : Nat := fld (clsE g 16) 16 13
def capMfull (g : Tables) : Nat := fld (clsE g 16) 0 13
/-- frac(L) of R238. -/
def capFrac (g : Tables) (l : Nat) : Nat := if l = 0 then 256 else fld (clsE g 17) (8 * (l - 1)) 8

/-! ### T_REQMAP (Table 11.1) -/

def rmE (g : Tables) (r : Nat) : Nat := tbl g Tid.reqmap r
def rmV (g : Tables) (r : Nat) : Bool := nbit (rmE g r) 31
def rmCv (g : Tables) (r : Nat) : Bool := nbit (rmE g r) 20
def rmCagent (g : Tables) (r : Nat) : Nat := fld (rmE g r) 12 8
def rmTc (g : Tables) (r : Nat) : Nat := fld (rmE g r) 4 4
def rmQc (g : Tables) (r : Nat) : Nat := fld (rmE g r) 0 4
/-- REQIDs whose entry is written otherwise than its reset value. -/
def rmListed (g : Tables) : List Nat := (skeys g).filterMap fun k => if k / 4096 = Tid.reqmap then some (k % 4096) else none
/-- Some entry binds the CAGENT (R157): the reset entry binds none. -/
def rmBinds (g : Tables) (c : Nat) : Bool := (rmListed g).any fun r => rmV g r && rmCv g r && rmCagent g r == c
/-- Some entry has V = 1 and CV = 1 (Table 16.5, PD68). -/
def rmAnyCv (g : Tables) : Bool := (rmListed g).any fun r => rmV g r && rmCv g r
/-- Some entry has V = 1 and TC = t (R246). Unlisted entries have V = 1 and TC 0. -/
def rmAnyTc (g : Tables) (t : Nat) : Bool :=
  (rmListed g).any (fun r => rmV g r && rmTc g r == t) || (t == 0 && (rmListed g).length < 4096)

/-! ### T_HASH, T_PART, T_MCBANK, T_TENANT, T_PREFETCH -/

def hashRow (g : Tables) (i : Nat) : BitVec 23 := BitVec.ofNat 23 (fld (tbl g Tid.hash i) 0 23)
def hashRows (g : Tables) : List (BitVec 23) := (List.range 14).map (hashRow g)
def partE (g : Tables) : Nat := tbl g Tid.part 0
def partScrub (g : Tables) : Nat := fld (partE g) 16 16
def partFloor (g : Tables) : Nat := fld (partE g) 8 4
def partRetlim (g : Tables) : Nat := fld (partE g) 4 4
def partFencnt (g : Tables) : Nat := fld (partE g) 0 4
def mcMask (g : Tables) (i : Nat) : Nat := fld (tbl g Tid.mcbank i) 0 37
def mcCap (g : Tables) : Nat := fld (tbl g Tid.mcbank 12) 0 9
/-- HBM bank ID (R74). -/
def hbankOf (g : Tables) (l : LAddr) : BitVec 12 :=
  BitVec.ofNat 12 ((List.range 12).foldl (fun a i => a + (if parityNat 37 (mcMask g i &&& l.toNat) then 2 ^ i else 0)) 0)
def tenE (g : Tables) (t : Nat) : Nat := tbl g Tid.tenant t
def tenMacbase (g : Tables) (t : Nat) : Nat := fld (tenE g t) 100 28
def tenMacsize (g : Tables) (t : Nat) : Nat := fld (tenE g t) 64 29
def tenSealbase (g : Tables) (t : Nat) : Nat := fld (tenE g t) 36 28
def tenWgmask (g : Tables) (t : Nat) : Nat := fld (tenE g t) 0 8
def pfEn (g : Tables) (c : Nat) : Bool := nbit (tbl g Tid.prefetch c) 7
def pfIns (g : Tables) (c : Nat) : Bool := nbit (tbl g Tid.prefetch c) 6
def pfDegree (g : Tables) (c : Nat) : Nat := fld (tbl g Tid.prefetch c) 0 4
def pfHblk (g : Tables) : Nat := fld (tbl g Tid.prefetch 16) 0 5

/-! ### T_CTR (Table 14.2), T_DUMP (Table 14.7) -/

def ctE (g : Tables) (n : Nat) : Nat := tbl g Tid.ctr n
def ctPeriod (e : Nat) : Nat := fld e 104 24
def ctEn (e : Nat) : Bool := nbit e 103
def ctSeg (e : Nat) : Bool := nbit e 102
def ctOvfint (e : Nat) : Bool := nbit e 101
def ctSmode (e : Nat) : Nat := fld e 99 2
def ctChain (e : Nat) : Bool := nbit e 98
def ctTcen (e : Nat) : Bool := nbit e 97
def ctRld (e : Nat) : Bool := nbit e 96
def ctWmask (e : Nat) : Nat := fld e 76 20
def ctWtag (e : Nat) : Nat := fld e 56 20
def ctRmask (e : Nat) : Nat := fld e 44 12
def ctReqid (e : Nat) : Nat := fld e 32 12
def ctQcmask (e : Nat) : Nat := fld e 16 16
def ctEvent (e : Nat) : Nat := fld e 8 8
def ctOwner (e : Nat) : Nat := fld e 4 4
def ctTcf (e : Nat) : Nat := fld e 0 4
def dpE (g : Tables) : Nat := tbl g Tid.dump 0
def dpFirst (g : Tables) : Nat := fld (dpE g) 192 64
def dpInterval (g : Tables) : Nat := fld (dpE g) 160 32
def dpCmask (g : Tables) : Nat := fld (dpE g) 96 64
def dpBase (g : Tables) : Nat := fld (dpE g) 59 37
def dpLog2 (g : Tables) : Nat := fld (dpE g) 54 5
def dpSbase (g : Tables) : Nat := fld (dpE g) 17 37
def dpSlog2 (g : Tables) : Nat := fld (dpE g) 12 5
def dpSen (g : Tables) : Bool := nbit (dpE g) 11
def dpDint (g : Tables) : Bool := nbit (dpE g) 10

/-! ### T_TRACE (Table 15.4), T_WATCH (Table 15.8) -/

def tcE (g : Tables) (b : Nat) : Nat := tbl g Tid.trace b
def tcRbase (e : Nat) : Nat := fld e 219 37
def tcRsize (e : Nat) : Nat := fld e 198 21
def tcWbefore (e : Nat) : Nat := fld e 182 16
def tcWafter (e : Nat) : Nat := fld e 166 16
def tcTypemask (e : Nat) : Nat := fld e 134 32
def tcQcmask (e : Nat) : Nat := fld e 118 16
def tcRmask (e : Nat) : Nat := fld e 106 12
def tcReqid (e : Nat) : Nat := fld e 94 12
def tcWmask (e : Nat) : Nat := fld e 74 20
def tcWtag (e : Nat) : Nat := fld e 54 20
def tcTlo (e : Nat) : Nat := fld e 42 12
def tcThi (e : Nat) : Nat := fld e 30 12
def tcTrigwin (e : Nat) : Nat := fld e 14 16
def tcTrigovf (e : Nat) : Bool := nbit e 13
def tcTriggm (e : Nat) : Bool := nbit e 12
def tcTrigdr (e : Nat) : Bool := nbit e 11
def tcHalttrig (e : Nat) : Bool := nbit e 10
def tcStopint (e : Nat) : Bool := nbit e 9
def tcMode (e : Nat) : Nat := fld e 7 2
def tcEn (e : Nat) : Bool := nbit e 6
def waE (g : Tables) (w : Nat) : Nat := tbl g Tid.watch w
def waBase (e : Nat) : Nat := fld e 215 41
def waLength (e : Nat) : Nat := fld e 174 41
def waAspace (e : Nat) : Nat := fld e 172 2
def waFmt (e : Nat) : Nat := fld e 168 4
def waTmode (e : Nat) : Nat := fld e 165 3
def waLimit (e : Nat) : Nat := fld e 133 32
def waReqid (e : Nat) : Nat := fld e 121 12
def waRmask (e : Nat) : Nat := fld e 109 12
def waOwner (e : Nat) : Nat := fld e 105 4

end Sys2Proof.Machine
end

