-- ==== Sys2Proof/Machine/Base.lean ====
section
/-! DEFINITION. Accessors of the state: power, ports, banks, subjects, occurrences, messages to egress. -/

namespace Sys2Proof.Machine

def State.t (s : State) : Tables := s.gen.live

def chipN (s : State) : Nat := s.pins.chipId.toNat
def sreqN (s : State) : Nat := s.pins.sreqid.toNat
def ftN (s : State) : Nat := s.clk.ft.toNat

/-! ### Power and banks -/

/-- State of domain `n`; PD78 and PD79 are always on (Table 16.5). -/
def pdState (s : State) (n : Nat) : Power := if 78 ≤ n then .on else sget (fun _ => .off) s.pw.dom n

def pdOn (s : State) (n : Nat) : Bool := pdState s n == .on

def setPd (n : Nat) (p : Power) (s : State) : State :=
  { s with pw := { s.pw with dom := sset (fun _ => .off) s.pw.dom n p } }

/-- A transition of domain `pd` is under way (R342). -/
def moving (s : State) (pd : Nat) : Bool := s.pins.pmReq && s.pins.pmPd == pd

/-- The domain is ON and is not being switched away. -/
def pdHeld (s : State) (n : Nat) : Bool := pdOn s n && !moving s n

/-- Domains that the bring-up switches ON, in order (Table 16.9 step 3). -/
def bringOrder : List Nat := [74, 72, 73, 71, 64, 65, 66, 67, 69, 70, 76] ++ List.range 64

/-- Both datapath reset and supply allow service (R346). -/
def powered (s : State) : Bool := s.pins.porstN && s.pins.drstN && s.pins.vddCore

def bankGet (s : State) (b : Nat) : Bank := sget (fun _ => Bank.reset) s.banks b

def bankSet (b : Nat) (k : Bank) (s : State) : State := { s with banks := sset (fun _ => Bank.reset) s.banks b k }

/-- Bank of a set and way (R55). -/
def bankOf (set way : Nat) : Nat := 32 * (set % 2) + way

/-- The bank is ON, not retired, and under no bank command (R233, R278). -/
def bankUsable (s : State) (b : Nat) : Bool := pdOn s b && !(bankGet s b).retired && (bankGet s b).op.isNone

/-! ### Ports -/

/-- A D port as a data port. -/
def dport : DPort → Port | .d0 => .d0 | .d1 => .d1

def portGet (s : State) (p : DPort) : PortSt := match p with | .d0 => s.d0 | .d1 => s.d1

def portSet (p : DPort) (x : PortSt) (s : State) : State :=
  match p with | .d0 => { s with d0 := x } | .d1 => { s with d1 := x }

def irdy (s : State) (p : DPort) : Bool := match p with | .d0 => s.pins.irdy0 | .d1 => s.pins.irdy1

/-- Queues a message for egress. -/
def emit (p : Port) (o : Out) (s : State) : State :=
  match p with
  | .d0 => { s with d0 := { s.d0 with out := s.d0.out ++ [o] } }
  | .d1 => { s with d1 := { s.d1 with out := s.d1.out ++ [o] } }
  | .s => { s with sout := s.sout ++ [o] }

/-- Place of a port in the orders of R306 and R309, after the four pipes. -/
def portOrd : Port → Nat | .s => 4 | .d0 => 5 | .d1 => 6

/-! ### Subjects and occurrences -/

/-- The subject of a message as T_REQMAP classifies its REQID (R288). -/
def subjMsg (s : State) (m : Msg) : Subj :=
  { reqid := BitVec.ofNat 12 (hReqid m), qc := BitVec.ofNat 4 (rmQc s.t (hReqid m)), tc := BitVec.ofNat 4 (rmTc s.t (hReqid m)),
    wtag := BitVec.ofNat 20 (hWtag m), laddr := hLine m, aspace := BitVec.ofNat 2 (hAspace m),
    opcode := BitVec.ofNat 6 (hOpcode m), chip := BitVec.ofNat 14 (hSrc m) }

def subjReq (r : Req) : Subj :=
  { reqid := BitVec.ofNat 12 (hReqid r.msg), qc := r.qc, tc := r.tc, wtag := BitVec.ofNat 20 (hWtag r.msg), laddr := hLine r.msg,
    aspace := BitVec.ofNat 2 (hAspace r.msg), opcode := BitVec.ofNat 6 (hOpcode r.msg), chip := BitVec.ofNat 14 (hSrc r.msg) }

def subjNone : Subj := { reqid := 0, qc := 0, tc := 0, wtag := 0, laddr := 0, aspace := 0, opcode := 0, chip := 0 }

/-- A subject that carries a class and a context only (kinds P and Q). -/
def subjLine (qc tc : BitVec 4) : Subj := { subjNone with qc := qc, tc := tc }

/-- An occurrence of an event that adds `n` (R287), at place `ord` of the order of R305; nothing is counted while PD76
is not ON (R286). -/
def occAt (ord ev : Nat) (k : OccKind) (j : Subj) (n : Nat) (s : State) : State :=
  if n = 0 || !pdOn s 76 then s
  else { s with ctr := { s.ctr with occ := s.ctr.occ ++ [{ ev := BitVec.ofNat 8 ev, kind := k, subj := j, n := n, ord := ord }] } }

/-- The SCLK in which a demand access waits for a bank (Table 14.4, event 0x54): a free count (log 8). -/
def bankWaits (r : Subj) (pipe : Nat) (s : State) : State :=
  if pdOn s 76 then
    { s with ctr := { s.ctr with occ := s.ctr.occ ++ [{ ev := 0x54, kind := .r, subj := r, n := Config.bankWait s.clk.sclk pipe, ord := pipe % 4 }] } }
  else s

/-- An occurrence that no tag pipe and no port makes. -/
def occ (ev : Nat) (k : OccKind) (j : Subj) (n : Nat) (s : State) : State := occAt 7 ev k j n s

/-- An occurrence that a port makes about a request. -/
def occP (p : Port) (ev : Nat) (j : Subj) (n : Nat) (s : State) : State := occAt (portOrd p) ev .r j n s

/-- Tag pipe of a classified request: of its set, or of its Fen line's set (R20, R55, R60). -/
def pipeOfReq (r : Req) : Nat :=
  match r.fen with
  | some l => l.line / 4 % 4
  | none => r.set.toNat % 4

/-- Events that a request meets at its port and not in a tag pipe. -/
def portEvent (ev : Nat) : Bool := (0x10 ≤ ev && ev ≤ 0x14) || ev == 0x18 || ev == 0x19 || ev == 0x40 || (0x70 ≤ ev && ev ≤ 0x72) || (0x91 ≤ ev && ev ≤ 0x93)

/-- An occurrence about a request; of kind U for the slice's own work (R295). -/
def occR (ev : Nat) (r : Req) (n : Nat) (s : State) : State :=
  if r.src = .own then occ ev .u subjNone n s
  else occAt (if portEvent ev then portOrd r.port else pipeOfReq r) ev .r (subjReq r) n s

/-- An occurrence about nothing. -/
def occU (ev n : Nat) (s : State) : State := occ ev .u subjNone n s

/-- Adds to fixed counter Fk (Table 14.3). -/
def fctr (k n : Nat) (s : State) : State :=
  if !pdOn s 76 then s
  else { s with ctr := { s.ctr with f := sset (fun _ => 0) s.ctr.f k (sget (fun _ => 0) s.ctr.f k + BitVec.ofNat 64 n) } }

/-- The filters of a counter's entry (R288). -/
def ctPasses (e : Nat) (k : OccKind) (j : Subj) : Bool :=
  let opn := ctRmask e == 0 && ctWmask e == 0 && ctQcmask e == 0xFFFF && !ctTcen e
  match k with
  | .u => opn && ctOwner e == 0
  | _ =>
    (k == .r || (ctRmask e == 0 && ctWmask e == 0)) && !(k == .q && (ctTcen e || ctOwner e != 0)) &&
    (ctOwner e == 0 || j.tc.toNat == ctOwner e) && nbit (ctQcmask e) j.qc.toNat && (!ctTcen e || j.tc.toNat == ctTcf e) &&
    (k != .r || ((j.reqid.toNat ^^^ ctReqid e) &&& ctRmask e == 0 && (ctSeg e || (j.wtag.toNat ^^^ ctWtag e) &&& ctWmask e == 0)))

/-- A native sample that waits takes as subject the first request whose step passes its counter's filters in a later SCLK (R304). -/
def natSubject (s : State) (j : Subj) (x : NatPend) : NatPend :=
  if x.subj.isNone && x.sclk < s.clk.sclk && s.clk.sclk ≤ x.sclk + 256 && ctPasses (ctE s.t x.n) .r j then
    { x with subj := some (j, min 63 (s.clk.sclk - x.sclk)) } else x

/-- A tag-pipe step takes a lookup slot of its pipe (R296). -/
def useSlot (pipe : Nat) (retired : Bool) (j : Option Subj) (s : State) : State :=
  { s with ctr := { s.ctr with slots := s.ctr.slots ++ [{ pipe := pipe % 4, retired := retired, subj := j }] } }

/-- A request's own tag-pipe step: its slot, and the native samples that waited for such a step (R304). -/
def reqSlot (pipe : Nat) (retired : Bool) (j : Subj) (s : State) : State :=
  useSlot pipe retired (some j) { s with ctr := { s.ctr with native := s.ctr.native.map (natSubject s j) } }

end Sys2Proof.Machine
end

