-- ==== Sys2Proof/Machine/Flags.lean ====
section
/-! DEFINITION. Interrupt causes, event and error records, the fatal state (R257, R258, R365 to R367). -/

namespace Sys2Proof.Machine

/-! Bits of BRL_INT_STAT (Table 13.3). -/
namespace Cause
def fatal : Nat := 0
def err : Nat := 1
def derate : Nat := 2
def guaranteeMiss : Nat := 3
def tallyDeadline : Nat := 4
def genDone : Nat := 5
def genFail : Nat := 6
def eventLost : Nat := 7
def alert : Nat := 8
def bank : Nat := 9
def ctr : Nat := 10
def dump : Nat := 11
def trace : Nat := 12
def watch : Nat := 13
end Cause

/-- The INTR message (R51, R257). -/
def intrMsg (s : State) : Msg :=
  { hdr := rspHdr Op.intr Vc.ctl 0 (fld s.ints.tgt.toNat 0 12) (chipN s) (fld s.ints.tgt.toNat 16 14) 0 0 0 0 0 0 0 0 0
      s.ints.data.toNat (fld s.ints.addr.toNat 0 44) false, beats := [], be := [] }

/-- Sends an INTR, at most one in an SCLK, and none while PRESENT is 0 (R257, R350). -/
def sendIntr (s : State) : State :=
  if s.pins.present && !s.ints.sent then
    emit .d0 { msg := intrMsg s, subj := none, post := .none } { s with ints := { s.ints with sent := true } }
  else s

/-- Replaces the interrupt registers; an enabled bit that becomes 1 sends an INTR (R257). -/
def setInts (i : Ints) (s : State) : State :=
  let a := s.ints
  let s' := { s with ints := { i with sent := a.sent } }
  if (i.stat &&& i.en) &&& ~~~(a.stat &&& a.en) ≠ 0 ∨ (i.mbx &&& i.mbxEn) &&& ~~~(a.mbx &&& a.mbxEn) ≠ 0 then sendIntr s' else s'

/-- Sets a cause of BRL_INT_STAT. -/
def raise (c : Nat) (s : State) : State := setInts { s.ints with stat := s.ints.stat ||| BitVec.ofNat 32 (2 ^ c) } s

/-- Sets bit `t` of BRL_INT_MBX (R259). -/
def raiseMbx (t : Nat) (s : State) : State := setInts { s.ints with mbx := s.ints.mbx ||| BitVec.ofNat 16 (2 ^ t) } s

/-- Sets a bit of BRL_ALERT and its cause (R285). -/
def raiseAlert (b : Nat) (s : State) : State :=
  raise Cause.alert { s with pins := { s.pins with alert := true }, ints := { s.ints with alert := s.ints.alert ||| BitVec.ofNat 3 (2 ^ b) } }

/-- A notice or record lost (R14, R258). -/
def eventLost (s : State) : State :=
  raise Cause.eventLost { s with log := { s.log with evLost := s.log.evLost + 1 } }

/-- A record enters the event queue (R258). -/
def evqPush (kind : Nat) (r : Rec) (s : State) : State :=
  if s.log.evq.length < 256 then { s with log := { s.log with evq := s.log.evq ++ [(BitVec.ofNat 8 kind, r)] } }
  else eventLost s

/-- The datapath queues a notice for the steward (R14). -/
def notice (n : Notice) (s : State) : State :=
  if s.log.notices.length < 64 then { s with log := { s.log with notices := s.log.notices ++ [n] } } else eventLost s

/-- What an error record is about (Table 17.5); `reqid` absent stands for BRL_CHIP.SREQID and the slice's chip. -/
structure ErrInfo where
  cause  : Nat
  sev    : Nat
  page   : Bool := false
  aspace : Nat := 2
  laddr  : Nat := 0
  set    : Nat := 0
  way    : Nat := 0
  bank   : Nat := 0
  tc     : Nat := 0
  who    : Option (Nat × Nat) := none
  cagent : Nat := 0
  hte    : Nat := 0
  status : Nat := 0
  rid    : Nat := 0
deriving DecidableEq, Repr

def errRec (i : ErrInfo) (s : State) : Rec :=
  let w := i.who.getD (sreqN s, chipN s)
  pack 256 [(192, 64, ftN s), (168, 8, i.cause), (166, 2, i.sev), (165, 1, b2n i.page), (163, 2, i.aspace), (126, 37, i.laddr),
    (112, 14, i.set), (107, 5, i.way), (101, 6, i.bank), (97, 4, i.tc), (85, 12, w.1), (71, 14, w.2), (63, 8, i.cagent),
    (55, 8, i.hte), (52, 3, i.status), (48, 4, i.rid), (32, 16, 1)]

/-- CAUSE, ASPACE and LADDR agree (R367). -/
def errMerges (a b : Rec) : Bool :=
  fld a.toNat 168 8 == fld b.toNat 168 8 && fld a.toNat 163 2 == fld b.toNat 163 2 && fld a.toNat 126 37 == fld b.toNat 126 37

/-- A record arrives at the error log (R367). -/
def errArrive (r : Rec) (s : State) : State :=
  let l := s.log
  match l.errs.getLast? with
  | some n =>
    if errMerges n r then
      let c := fld n.toNat 32 16
      let n' := BitVec.ofNat 256 (n.toNat - c * 2 ^ 32 + (min (c + 1) 0xFFFF) * 2 ^ 32)
      raise Cause.err { s with log := { l with errs := l.errs.dropLast ++ [n'] } }
    else if l.errs.length < 64 then
      let r' := r ||| (BitVec.ofNat 256 (l.errSeq.toNat * 2 ^ 176))
      raise Cause.err (evqPush 8 r' { s with log := { l with errs := l.errs ++ [r'], errSeq := l.errSeq + 1 } })
    else raise Cause.err { s with log := { l with errLost := l.errLost + 1 } }
  | none =>
    let r' := r ||| (BitVec.ofNat 256 (l.errSeq.toNat * 2 ^ 176))
    raise Cause.err (evqPush 8 r' { s with log := { l with errs := [r'], errSeq := l.errSeq + 1 } })

/-- A fatal error (R365): the first since datapath reset drives FATAL_N low and captures the fatal record,
which crosses the link at once; later ones are logged only. -/
def fatalErr (i : ErrInfo) (s : State) : State :=
  let r := errRec { i with sev := 2 } s
  if s.log.fatalSeen then notice (.error r) s
  else
    errArrive r (raise Cause.fatal
      { s with pins := { s.pins with fatalN := false }, log := { s.log with fatal := some r, fatalSeen := true } })

/-- Logs an error that is not fatal. -/
def logErr (i : ErrInfo) (s : State) : State := notice (.error (errRec i s)) s

/-- REQID and SRC_CHIP of the request that found an error; absent for scrub, sweeps and the slice's own work (Table 17.5). -/
def subjWho (j : Option Subj) : Option (Nat × Nat) := j.map fun x => (x.reqid.toNat, x.chip.toNat)

/-- TC of the request that found an error, where the line's tag gives none (Table 17.5). -/
def subjTc (j : Option Subj) : Nat := match j with | some x => x.tc.toNat | none => 0

/-- A parity error in a control structure (Table 17.1): the site is used for `j`, its error is fatal. -/
def ctlUse (x : Site) (j : Option Subj) (s : State) : State :=
  if x ∈ s.bad then fatalErr { cause := 0x03, sev := 2, tc := subjTc j, who := subjWho j } { s with bad := s.bad.filter (· ≠ x) } else s

end Sys2Proof.Machine
end

