-- ==== Sys2Proof/Machine/Ops.lean ====
section
/-! DEFINITION. Shared operations: responses, tallies, trace events, served bytes, the poison list, the slice's own requests. -/

namespace Sys2Proof.Machine

/-! ### Responses -/

/-- A response to message `m` on port `p` (R34), with what the opcode adds. -/
structure Rsp where
  op     : Nat
  vc     : Nat
  status : Nat
  map    : Nat := 0
  epoch  : Nat := 0
  result : Nat := 0
  b128   : Bool := false
  beats  : List (BitVec 512) := []
deriving DecidableEq, Repr

/-- The message of a response. -/
def rspMsg (s : State) (p : Port) (m : Msg) (x : Rsp) : Msg :=
  { hdr := rspHdr x.op (if p == .s then 0 else x.vc) (hAspace m) (hReqid m) (chipN s) (hSrc m) (hTc m) (hTxid m) (hWtag m)
      x.status x.map (hLen m) x.epoch 0 (if isCohOp (hOpcode m) then hCagent m else 0) x.result (hAddr m) x.b128,
    beats := x.beats, be := x.beats.map fun _ => BitVec.allOnes 64 }

/-- Queues a response for egress. -/
def respond (p : Port) (m : Msg) (j : Subj) (x : Rsp) (s : State) : State :=
  emit p { msg := rspMsg s p m x, subj := some j, post := .none } s

/-- A COMP with a status and BEATMAP 0 (R50). -/
def compTo (p : Port) (m : Msg) (j : Subj) (st result : Nat) (s : State) : State :=
  respond p m j { op := Op.comp, vc := Vc.rsp, status := st, result := result } s

/-- BEATMAP of a span. -/
def beatMap (off len : Nat) : Nat :=
  if len = 0 then 0 else (if off < 64 then 1 else 0) + (if 64 < off + len then 2 else 0)

/-- The beats of a span, bytes outside the span 0 (R29, R41). -/
def spanData (off len : Nat) (d : Line) : List (BitVec 512) :=
  let x := lineSpan d off len
  (if off < 64 then [lineBeat x 0] else []) ++ (if 64 < off + len then [lineBeat x 1] else [])

/-- DATA for the span of a RD or RD_ONCE. -/
def dataTo (p : Port) (m : Msg) (j : Subj) (st epoch result : Nat) (d : Line) (s : State) : State :=
  respond p m j { op := Op.data, vc := Vc.dat, status := st, map := beatMap (hOff m) (hLen m), epoch := epoch, result := result,
                  beats := spanData (hOff m) (hLen m) d } s

/-- DATA for a whole line, with the coherence fields of Table 8.4 in RESULT. -/
def cohData (p : Port) (m : Msg) (j : Subj) (st gst : Nat) (gpend : Bool) (d : Line) (s : State) : State :=
  respond p m j { op := Op.data, vc := Vc.dat, status := st, map := 3, result := gst + 4 * b2n gpend,
                  beats := [lineBeat d 0, lineBeat d 1] } s

/-- OK, or POISON for a poisoned line. -/
def poiSt (poi : Bool) : Nat := if poi then St.poison else St.ok

/-! ### Served and demand bytes (R235) -/

def winGet (s : State) (c : Nat) : Win := sget (fun _ => Win.zero) s.regul.win c

def winSet (c : Nat) (w : Win) (s : State) : State :=
  { s with regul := { s.regul with win := sset (fun _ => Win.zero) s.regul.win c w } }

def addDemand (r : Req) (n : Nat) (s : State) : State :=
  let w := winGet s r.qc.toNat
  winSet r.qc.toNat { w with demand := w.demand + n } s

def addServed (r : Req) (n : Nat) (s : State) : State :=
  match r.src with
  | .part _ _ | .own => s
  | _ =>
    let w := winGet s r.qc.toNat
    occR 0xA0 r n (winSet r.qc.toNat { w with served := w.served + n } s)

/-- Table 11.4, at arrival. A partner line of a Mace element counts nothing. -/
def demandBytes (m : Msg) : Nat :=
  let o := hOpcode m
  if o == Op.rd || o == Op.rdOnce || o == Op.wr || o == Op.red then hLen m
  else if o == Op.atom || o == Op.atomC then atomSize (hFmt m)
  else if o == Op.rdShr || o == Op.rdUnq || o == Op.wb then 128 else 0

/-! ### Trace events (R309, R313, R318) -/

def bufGet (s : State) (b : Nat) : TBuf := sget (fun _ => TBuf.reset) s.peat.bufs b

def bufSet (b : Nat) (x : TBuf) (s : State) : State :=
  { s with peat := { s.peat with bufs := sset (fun _ => TBuf.reset) s.peat.bufs b x } }

/-- The record passes the filters of the buffer's entry (R313). -/
def tevPasses (e : Nat) (v : TEv) : Bool :=
  nbit (tcTypemask e) v.type.toNat &&
  (match v.subj with
   | some j => nbit (tcQcmask e) j.qc.toNat && (tcReqid e ^^^ j.reqid.toNat) &&& tcRmask e == 0 &&
       (tcWtag e ^^^ j.wtag.toNat) &&& tcWmask e == 0
   | none => true) &&
  (match v.qc with | some c => nbit (tcQcmask e) c.toNat | none => true) &&
  (match v.tally with | some t => tcTlo e ≤ t.toNat && t.toNat ≤ tcThi e | none => true)

/-- The buffer records: running or in its after-phase, and not stopped. -/
def bufRuns (x : TBuf) : Bool := (x.st == 1 || x.st == 2) && !x.stopping

/-- Every LOSSLESS buffer that records the event has room for it (R318). -/
def losslessRoom (v : TEv) (s : State) : Bool :=
  !pdOn s 75 || (List.range 4).all fun b =>
    let e := tcE s.t b
    let x := bufGet s b
    !(tcMode e == 3 && bufRuns x && tevPasses e v) ||
      x.loc.length + (s.peat.tev.filter (tevPasses e)).length < 256

/-- A trace event of this SCLK; the tick writes its records (R307, R314). -/
def traceEv (v : TEv) (s : State) : State :=
  if pdOn s 75 then { s with peat := { s.peat with tev := s.peat.tev ++ [v] } } else s

/-- A trace event of a type, with its body fields, subject, tally, class and place in the order of R309. -/
def tev (ty : Nat) (body : List (Nat × Nat × Nat)) (j : Option Subj) (t : Option Nat) (qc : Option (BitVec 4)) (ord : Nat) : TEv :=
  { type := BitVec.ofNat 8 ty, body := pack 152 body, subj := j, tally := t.map (BitVec.ofNat 12), qc := qc, ord := ord }

/-- A trigger source fires (R316). -/
def trigger (src win bufs : Nat) (s : State) : State :=
  if pdOn s 75 then
    { s with peat := { s.peat with trg := s.peat.trg ++ [{ src := BitVec.ofNat 3 src, win := BitVec.ofNat 4 win, bufs := BitVec.ofNat 4 bufs }] } }
  else s

/-- The mask of buffers whose entry meets a condition. -/
def bufMask (s : State) (p : Nat → Bool) : Nat :=
  (List.range 4).foldl (fun a b => if p (tcE s.t b) then a + 2 ^ b else a) 0

def sat24 (n : Nat) : Nat := min n 0xFFFFFF

/-! ### Tallies (R203, R204) -/

def tallyVal (s : State) (t : Nat) : Nat := (sget (fun _ => 0) s.tal.val t).toNat

/-- The comparison of R204. -/
def passed (v t : Nat) : Bool := (v + 2 ^ 48 - t % 2 ^ 48) % 2 ^ 48 < 2 ^ 47

/-- A tally is used for `j`: a parity error is fatal, and leaves it a free value (Table 17.1, R365, log 28). -/
def tallyUse (t : Nat) (j : Option Subj) (s : State) : State :=
  if Site.tally t ∈ s.bad then
    ctlUse (.tally t) j { s with tal := { s.tal with val := sset (fun _ => 0) s.tal.val t (Config.heldTally s.clk.sclk t) } }
  else s

/-- Adds `n` to tally `t` (R203); the SCLK remembers who added, and at which place of the order of R308. -/
def tallyAdd (t n : Nat) (j : Option Subj) (ord : Nat) (s : State) : State :=
  let s := tallyUse t j s
  let who : BitVec 12 × BitVec 14 := match j with
    | some x => (x.reqid, x.chip)
    | none => (s.pins.sreqid, s.pins.chipId)
  let tal := { s.tal with val := sset (fun _ => 0) s.tal.val t (BitVec.ofNat 48 ((tallyVal s t + n) % 2 ^ 48)),
                          adds := s.tal.adds ++ [{ tally := t, ord := ord, who := who }] }
  match j with
  | some x => occAt ord 0x90 .r x 1 { s with tal := tal }
  | none => occAt ord 0x90 .u subjNone 1 { s with tal := tal }

/-- The requests on which TEN counts (R45). -/
def countsTally (m : Msg) : Bool := hOpcode m == Op.wr || hOpcode m == Op.red || hOpcode m == Op.atom

/-- The addition that a request with TEN = 1 makes in its tag pipe (R45). -/
def reqTally (r : Req) (n : Nat) (s : State) : State :=
  if hTen r.msg && countsTally r.msg && n ≠ 0 then tallyAdd (hTally r.msg) n (some (subjReq r)) (pipeOfReq r) s else s

/-! ### Poison list (R358) -/

def listed (s : State) (l : LAddr) : Bool := s.mp.plist.contains l

/-- The line enters the poison list with its page report; a full list is fatal. A line already listed enters no more, but a failed write is reported each time. -/
def plistAdd (l : LAddr) (i : ErrInfo) (s : State) : State :=
  if listed s l then (if i.cause = 0x11 then logErr i s else s)
  else if s.mp.plist.length < 256 then logErr i { s with mp := { s.mp with plist := s.mp.plist ++ [l] } }
  else fatalErr { cause := 0x04, sev := 2, aspace := 0, laddr := l.toNat } (logErr i s)

/-- A clearing write takes the line off the list. -/
def plistDrop (l : LAddr) (s : State) : State :=
  if listed s l then { s with mp := { s.mp with plist := s.mp.plist.filter (· ≠ l) } } else s

/-! ### The slice's own requests (R52, R88, R150, R250) -/

/-- Sends a request of the slice's own on D0 with the next TXID (log 18) and WTAG 0 (log 34), and records what its answer is for. -/
def ownSend (op addr len : Nat) (beats : List (BitVec 512)) (be : List (BitVec 64)) (k : OwnKind) (s : State) : State :=
  let tx := s.srv.ownTx
  let h := reqHdr op 0 Vc.req (sreqN s) (chipN s) (chipN s) (rmTc s.t (sreqN s)) tx.toNat 0 len 0 addr false false
  emit .d0 { msg := { hdr := h, beats := beats, be := be }, subj := none, post := .none }
    { s with srv := { s.srv with own := s.srv.own ++ [{ txid := tx, kind := k }], ownTx := tx + 1 } }

/-- A RD of a whole line. -/
def ownRead (l : LAddr) (k : OwnKind) (s : State) : State := ownSend Op.rd (l.toNat * 128) 128 [] [] k s

/-- A whole-line WR. -/
def ownWriteLine (l : LAddr) (d : Line) (k : OwnKind) (s : State) : State :=
  ownSend Op.wr (l.toNat * 128) 128 [lineBeat d 0, lineBeat d 1] [BitVec.allOnes 64, BitVec.allOnes 64] k s

/-- A WR of `n` bytes at `addr` from their places in a line. -/
def ownWritePart (addr n : Nat) (d : Line) (k : OwnKind) (s : State) : State :=
  let o := addr % 128
  let m := spanMask o n
  let bt := (if o < 64 then [lineBeat d 0] else []) ++ (if 64 < o + n then [lineBeat d 1] else [])
  let be := (if o < 64 then [m.extractLsb' 0 64] else []) ++ (if 64 < o + n then [m.extractLsb' 64 64] else [])
  ownSend Op.wr addr n bt be k s

/-- The outstanding request of the slice's own with a TXID. -/
def ownFind (s : State) (tx : BitVec 16) : Option OwnKind := (s.srv.own.find? (·.txid = tx)).map Own.kind

def ownDrop (tx : BitVec 16) (s : State) : State :=
  { s with srv := { s.srv with own := s.srv.own.filter (·.txid ≠ tx) } }

end Sys2Proof.Machine
end

