-- ==== Sys2Proof/Machine/Mailbox.lean ====
section
/-! DEFINITION. Mailboxes: their registers, completion, and the words a command moves (Table 13.5, R259 to R263). -/

namespace Sys2Proof.Machine

/-! Mailbox status codes (Table 13.20). -/
namespace Mc
def ok : Nat := 0
def busy : Nat := 1
def einval : Nat := 2
def eperm : Nat := 3
def enospc : Nat := 4
def zeroNop : Nat := 5
def eagain : Nat := 6
def estate : Nat := 7
def efault : Nat := 8
def eversion : Nat := 9
end Mc

def mbxGet (s : State) (t : Nat) : Mbx := sget (fun _ => Mbx.reset) s.mbx t

def mbxSet (t : Nat) (m : Mbx) (s : State) : State := { s with mbx := sset (fun _ => Mbx.reset) s.mbx t m }

/-- Latched argument `i` of mailbox `t`. -/
def mArg (s : State) (t i : Nat) : Nat := ((mbxGet s t).larg.getD i 0).toNat

/-- The steward core runs an image that has reported ready (R263, R264). -/
def coreRuns (s : State) : Bool := s.core.run && s.core.sup

/-- RES0 to RES15 from the words given, the others 0. -/
def resWords (l : List Nat) : List (BitVec 32) := (List.range 16).map fun i => BitVec.ofNat 32 (l.getD i 0)

/-- A command completes (R259): RES, CODE, BUSY, its DONE bit; the input FIFO empties (R261). -/
def mbxDone (t code : Nat) (res : List Nat) (s : State) : State :=
  let m := mbxGet s t
  raiseMbx t (mbxSet t { m with res := resWords res, code := BitVec.ofNat 4 code, busy := false, phase := .idle, inF := [], got := [],
                                pend := [], wait := 0 } s)

/-- The command leaves the start queue and its work proceeds in the datapath (R263). -/
def mbxWork (t : Nat) (s : State) : State := mbxSet t { mbxGet s t with phase := .work } s

/-- Output words move to the output FIFO as it has room; the command completes when the last has been read
(`output` phase), having ended already with the words listed in `pend` (R261). -/
def mbxFill (t : Nat) (s : State) : State :=
  let m := mbxGet s t
  let n := 64 - m.outF.length
  mbxSet t { m with outF := m.outF ++ m.pend.take n, pend := m.pend.drop n } s

/-- The output of a command has ended: every word is in the FIFO, or for GET_TABLE read; INSPECT_LINE has no record left. -/
def outEnded (s : State) (t : Nat) : Bool :=
  let m := mbxGet s t
  m.phase == .output && m.pend.isEmpty && (m.op != 3 || m.outF.isEmpty) && !s.srv.insp.any (·.mbx == t)

/-- Output words move as room allows, and a command whose output has ended completes with the results it holds; the firmware does both. -/
def mbxOutTry (t : Nat) (s : State) : State :=
  if !coreRuns s then s
  else
  let s := mbxFill t s
  if outEnded s t then mbxDone t Mc.ok ((mbxGet s t).got.map BitVec.toNat) s else s

/-- A command delivers output words, and will complete with results `res` (R261). -/
def mbxOut (t : Nat) (words res : List Nat) (s : State) : State :=
  let m := mbxGet s t
  mbxOutTry t (mbxSet t { m with phase := .output, pend := words.map (BitVec.ofNat 32), got := res.map (BitVec.ofNat 32), wait := s.clk.run } s)

/-- The FT value as two result words. -/
def ftWords (x : FT) : List Nat := [x.toNat % 2 ^ 32, x.toNat / 2 ^ 32]

/-- A COMMIT is armed (R269), or waits for its domains before it is (R341). -/
def commitArmed (s : State) : Bool := s.gen.armed.isSome || s.gen.wait.isSome

end Sys2Proof.Machine
end

