-- ==== Sys2Proof/Machine/Watch.lean ====
section
/-! DEFINITION. Tensor watch: matching accesses, statistics, digest and firing (R321, R322). -/

namespace Sys2Proof.Machine

def watGet (s : State) (w : Nat) : Wat := sget (fun _ => Wat.zero) s.peat.wat w

def watSet (w : Nat) (x : Wat) (s : State) : State :=
  { s with peat := { s.peat with wat := sset (fun _ => Wat.zero) s.peat.wat w x } }

/-- The mixing function of R321. -/
def mix (x : BitVec 64) : BitVec 64 :=
  let x := (x ^^^ (x >>> 33)) * 0xFF51AFD7ED558CCD
  let x := (x ^^^ (x >>> 33)) * 0xC4CEB9FE1A85EC53
  x ^^^ (x >>> 33)

/-- What a word adds to a digest: `a` holds ASPACE in bits 63:62 and the byte address of the word. -/
def digestOf (asp addr : Nat) (w : BitVec 64) : BitVec 64 := mix (w ^^^ mix (BitVec.ofNat 64 (asp * 2 ^ 62 + addr)))

/-- The elements of a line in a format: the 8 B word that holds the element's lowest byte, and its value (R107, R108). -/
def lineElems (f : Nat) (d : Line) : List (Nat × FVal) :=
  if fmtIsInt f then []
  else if fmtIsMx f then
    (List.range (mxBlocks f)).flatMap fun b =>
      let o := 8 + mxData f * b
      let blk := lineNat d o (mxData f)
      let sc := lineNat d b 1
      (List.range 32).map fun j =>
        ((o + mxBit f j / 8) / 8,
         if sc = 0xFF then .nan else ((ffmt f).decode (mxElem f blk j)).scale ((sc : Int) - 127))
  else
    let u := fmtUnit f
    let w := fmtBits f
    (List.range (if u = 3 then 42 else 128 / u)).flatMap fun i =>
      (List.range (fmtPerUnit f)).map fun j =>
        ((u * i + w * j / 8) / 8, (ffmt f).decode (fld (lineNat d (u * i) u) (w * j) w))

/-- The magnitude of a finite value as a binary32, rounded toward zero, saturating (R321). -/
def abs32 (v : FVal) : Nat :=
  match v with
  | .fin _ m e =>
    if m = 0 then 0
    else
      let l := max ((Nat.log2 m : Int) + e - 23) (-149)
      let q := if l ≤ e then m * 2 ^ (e - l).toNat else m / 2 ^ (l - e).toNat
      let mag := if q < 2 ^ 23 then q else (l + 150).toNat * 2 ^ 23 + (q - 2 ^ 23)
      min mag 0x7F7FFFFF
  | _ => 0

/-- The magnitude exceeds a binary32 magnitude (TMODE 4). -/
def overLimit (lim : Nat) (v : FVal) : Bool :=
  match v with
  | .fin _ m e => FVal.lt ((f32).decode (lim % 2 ^ 31)) (.fin false m e)
  | _ => false

/-- An access for watching: address space, first byte, length, who made it, bytes written at line offsets, the line after, and its tag
pipe. An access that attaches to an unfilled miss entry does its update in two parts, since words that it does not cover have a value only with
the fill (log 22): `now` counts the access, `bytes` its written bytes, `judge` names the words whose values this part sees. -/
structure Acc where
  asp   : Nat
  addr  : Nat
  len   : Nat
  reqid : Nat
  src   : Nat
  tc    : Nat
  slice : Bool
  op    : Nat
  wtag  : Nat
  qc    : BitVec 4
  wm    : Mask
  after : Line
  pipe  : Nat := 7
  now   : Bool := true
  bytes : Bool := true
  judge : BitVec 16 := BitVec.allOnes 16
deriving DecidableEq, Repr

/-- The access matches the window's entry (R321). -/
def watMatch (e : Nat) (a : Acc) : Bool :=
  let lo := waBase e * 8
  let hi := lo + waLength e * 8
  waLength e != 0 && !(a.slice && a.op == Op.rd) && waAspace e == a.asp && a.addr < hi && lo < a.addr + a.len &&
    (waReqid e ^^^ a.reqid) &&& waRmask e == 0 && (waOwner e == 0 || (!a.slice && waOwner e == a.tc))

/-- The words of the window's range that the access writes, with the bytes written of each. -/
def watWords (e : Nat) (a : Acc) : List (Nat × Nat) :=
  let base := a.addr / 128 * 128
  (List.range 16).filterMap fun w =>
    let x := base + 8 * w
    let n := popNat 8 (fld a.wm.toNat (8 * w) 8)
    if n ≠ 0 ∧ waBase e * 8 ≤ x ∧ x < waBase e * 8 + waLength e * 8 then some (w, n) else none

/-- The first word of the window's range in the access's span. -/
def watFirst (e : Nat) (a : Acc) : Nat := max a.addr (waBase e * 8) % 128 / 8

/-- The words that the access writes and whose values this part of its update sees. -/
def watJudged (e : Nat) (a : Acc) : List (Nat × Nat) := (watWords e a).filter fun w => a.judge.getLsbD w.1

/-- The lowest-numbered word that meets the trigger mode; `none` when the access does not meet it (R322). -/
def watTrig (e : Nat) (a : Acc) : Option Nat :=
  let first := ((watWords e a).head?.map Prod.fst).getD (watFirst e a)
  let ws := watJudged e a
  let el := lineElems (waFmt e) a.after
  match waTmode e with
  | 1 => if a.now then some first else none
  | 2 => if a.bytes && a.wm != 0 then some first else none
  | 3 => (ws.find? fun w => el.any fun x => x.1 == w.1 && (x.2.isNan || x.2.isInf)).map Prod.fst
  | 4 => (ws.find? fun w => el.any fun x => x.1 == w.1 && overLimit (waLimit e) x.2).map Prod.fst
  | _ => none

/-- A window fires (R322). -/
def watFire (w word : Nat) (a : Acc) (s : State) : State :=
  let e := waE s.t w
  let x := watGet s w
  let s := watSet w { x with armed := false, fired := true, tft := s.clk.ft } s
  let l := a.addr / 128
  let s := raise Cause.watch s
  let s := notice (.event 7 (pack 256 [(192, 64, ftN s), (188, 4, w), (185, 3, waTmode e), (173, 12, a.reqid), (159, 14, a.src),
    (122, 37, l), (118, 4, word)])) s
  let j : Subj := { reqid := BitVec.ofNat 12 a.reqid, qc := a.qc, tc := BitVec.ofNat 4 a.tc, wtag := BitVec.ofNat 20 a.wtag,
                    laddr := BitVec.ofNat 37 l, aspace := BitVec.ofNat 2 a.asp, opcode := BitVec.ofNat 6 a.op,
                    chip := BitVec.ofNat 14 a.src }
  let s := traceEv (tev 0x18 [(148, 4, w), (145, 3, waTmode e), (133, 12, a.reqid), (119, 14, a.src), (99, 20, a.wtag), (93, 6, a.op),
    (56, 37, l), (54, 2, a.asp), (50, 4, word)] (some j) none none a.pipe) s
  trigger 1 w (bufMask s fun b => nbit (tcTrigwin b) w) s

/-- One window's update by a matching access (R321). -/
def watUpdate (w : Nat) (a : Acc) (s : State) : State :=
  let e := waE s.t w
  if !watMatch e a then s
  else
    let x := watGet s w
    let ws := watJudged e a
    let base := a.addr / 128 * 128
    let el := (lineElems (waFmt e) a.after).filter fun v => ws.any fun k => k.1 == v.1
    let x' : Wat := { x with
      acc := if a.now then x.acc + 1 else x.acc
      wbytes := if a.bytes then x.wbytes + BitVec.ofNat 48 ((watWords e a).foldl (fun n k => n + k.2) 0) else x.wbytes
      digest := ws.foldl (fun d k => d + digestOf a.asp (base + 8 * k.1) (lineWord a.after k.1)) x.digest
      nan := x.nan + BitVec.ofNat 32 (el.filter fun v => v.2.isNan).length
      inf := x.inf + BitVec.ofNat 32 (el.filter fun v => v.2.isInf).length
      maxabs := BitVec.ofNat 32 (el.foldl (fun m v => max m (abs32 v.2)) x.maxabs.toNat) }
    let s := watSet w x' s
    match (if x.armed then watTrig e a else none) with
    | some word => watFire w word a s
    | none => s

/-- An access updates every window it matches; none while PD75 is not ON (R307). -/
def watchAcc (a : Acc) (s : State) : State :=
  if pdOn s 75 then (List.range 16).foldl (fun s w => if waLength (waE s.t w) = 0 then s else watUpdate w a s) s else s

/-- The access of a request: its span, the bytes it writes and the line after its step. -/
def accReq (r : Req) (len : Nat) (wm : Mask) (after : Line) : Acc :=
  { asp := hAspace r.msg, addr := hAddr r.msg, len := len, reqid := hReqid r.msg, src := hSrc r.msg, tc := r.tc.toNat, slice := r.src != .port,
    op := hOpcode r.msg, wtag := hWtag r.msg, qc := r.qc, wm := wm, after := after, pipe := pipeOfReq r }

/-- The words that a mask covers whole. -/
def fullWords (m : Mask) : BitVec 16 := BitVec.ofNat 16 ((List.range 16).foldl (fun a w => if fld m.toNat (8 * w) 8 = 0xFF then a + 2 ^ w else a) 0)

/-- A whole write that the slice makes itself in a tag pipe (R321): BRL_CHIP.SREQID, windows with OWNER 0 only. -/
def accOwn (s : State) (pipe asp line : Nat) (wm : Mask) (after : Line) : Acc :=
  { asp := asp, addr := line * 128, len := 128, reqid := sreqN s, src := chipN s, tc := 0, slice := true, op := 0, wtag := 0, qc := 0,
    wm := wm, after := after, pipe := pipe }

end Sys2Proof.Machine
end

