-- ==== Sys2Proof/Machine/Array.lean ====
section
/-! DEFINITION. The array: sets, tags, parity, replacement, Mire and miss entries (Chapters 3 and 17). -/

namespace Sys2Proof.Machine

/-! ### Sets (R55, R56, R59) -/

def setIdx (rows : List (BitVec 23)) (l : LAddr) : Nat :=
  let tag : BitVec 23 := l.extractLsb' 14 23
  (List.range 14).foldl (fun a i => a + (if xor (l.getLsbD i) (parity (rows.getD i 0 &&& tag)) then 2 ^ i else 0)) 0

def liveSet (s : State) (l : LAddr) : Nat := setIdx (hashRows s.t) l

/-- The sets a lookup probes: under the live matrix, and under H_old while a rehash runs. -/
def candSets (s : State) (l : LAddr) : List Nat :=
  liveSet s l :: (match s.gen.rehash with | some r => [setIdx r.hOld l] | none => [])

/-- Tag pipe of a line (R20). Entries 0 and 1 of T_HASH do not change while lines are cached (R58). -/
def pipeOf (s : State) (l : LAddr) : Nat := liveSet s l % 4

/-! ### Tag entries and lines -/

def wkey (set way : Nat) : Nat := 32 * set + way

def tagGet (s : State) (k : Nat) : TagE := sget (fun _ => TagE.zero) s.arr.tags k

def tagSet (k : Nat) (e : TagE) (s : State) : State :=
  { s with arr := { s.arr with tags := sset (fun _ => TagE.zero) s.arr.tags k e } }

/-- Line address of a cache way's entry. -/
def TagE.line (e : TagE) : LAddr := e.tag ++ e.lo

def dataGet (s : State) (k : Nat) : Line := sget (fun _ => 0) s.arr.data k

/-- The words of a 16-word buffer that hold a parity error. -/
def badWords (s : State) (f : Fin 16 → Site) : List (Fin 16) := (List.finRange 16).filter fun w => f w ∈ s.bad

/-- The bytes of the line `d` as the buffer of sites `f` holds them: a word with a parity error is free (log 28). -/
def heldLine (s : State) (f : Fin 16 → Site) (d : Line) : Line :=
  (badWords s f).foldl (fun d w => linePut d (8 * w.val) 8 (Config.heldWord s.clk.sclk (f w)).toNat) d

/-- Writes the bytes of `m`; a word wholly written loses its parity error. -/
def dataPut (k : Nat) (d : Line) (m : Mask) (s : State) : State :=
  let bad := s.bad.filter fun x => match x with
    | .data j w => !(j == k && allIn m (8 * w.val) 8)
    | _ => true
  { s with arr := { s.arr with data := sset (fun _ => 0) s.arr.data k (lineMerge (dataGet s k) d m) }, bad := bad }

def bankOfKey (k : Nat) : Nat := bankOf (k / 32) (k % 32)

/-- Way group `g` is cache under the live T_PART (R68). -/
def groupIsCache (s : State) (g : Nat) : Bool := g < 8 - partFencnt s.t

def groupConverts (s : State) (g : Nat) : Bool := match s.gen.conv with | some c => nbit c.wgs.toNat g | none => false

/-- The way may hold a MEM line: its group is cache, or converts. -/
def holdsCache (s : State) (way : Nat) : Bool := groupIsCache s (way / 4) || groupConverts s (way / 4)

def findIn (s : State) (l : LAddr) (set : Nat) : Option Nat :=
  ((List.range 32).find? fun w => let e := tagGet s (wkey set w); e.v && holdsCache s w && e.line == l).map (wkey set)

/-- The way that holds a MEM line. -/
def findWay (s : State) (l : LAddr) : Option Nat := (candSets s l).findSome? (findIn s l)

/-! ### Frames (R60, R83, R133) -/

def frameKey (f l : Nat) : Nat := wkey (128 * (f % 128) + l / 4) (4 * (f / 128) + l % 4)

/-- Frame and line of a way in a Fen group. -/
def keyFrame (k : Nat) : Nat := 128 * (k % 32 / 4) + k / 32 / 128

def keyFline (k : Nat) : Nat := 4 * (k / 32 % 128) + k % 4

def segFrames (g : Seg) : List Nat := g.fa ++ g.fb

/-- Allocated frames: of segments, of allocations under way, of regions, and freed frames that still wait. -/
def usedFrames (s : State) : List Nat :=
  s.fen.segs.flatMap segFrames ++ s.fen.zeroing.flatMap (fun z => segFrames z.seg) ++ s.fen.regions.flatMap Region.frames ++
    s.fen.reclaims.flatMap id

/-- What a frame line is: its Fen line address and owner, or the region whose accumulators it holds. -/
def fenWho (s : State) (k : Nat) : Nat × Nat × Option Nat :=
  let f := keyFrame k
  let l := keyFline k
  match s.fen.segs.find? fun g => (segFrames g).contains f with
  | some g =>
    let i := if g.fa.contains f then g.fa.idxOf f else g.fb.idxOf f
    ((g.id * 2 ^ 26 + i * 65536 + l * 128) / 128, g.owner.toNat, none)
  | none =>
    match s.fen.regions.find? fun r => r.frames.contains f with
    | some r => (0, r.opener.toNat, some r.rid)
    | none => (0, 0, none)

/-! ### Errors of banks (R361, R362) -/

/-- A BANK_TRIM that a retirement ends completes with EFAULT (R363), which raises BANK too (Table 13.3). -/
def endTrim (b : Nat) (s : State) : State :=
  match (bankGet s b).op with
  | some o =>
    let k := bankGet s b
    if o.kind = .trim then mbxDone o.mbx Mc.efault [257 * k.trim.toNat, o.wb] (raise Cause.bank (bankSet b { k with op := none } s)) else s
  | none => s

/-- Lines of the allocated frames in `fs` that lie in bank `b`. -/
def bankFrameKeys (b : Nat) (fs : List Nat) : List Nat :=
  (fs.filter fun f => f / 128 == b % 32 / 4).flatMap fun f =>
    ((List.range 512).map (frameKey f)).filter fun k => bankOfKey k == b

/-- Bank retirement (R362): step 1, and the start of the sweep. -/
def retireBank (b : Nat) (s : State) : State :=
  let k := bankGet s b
  if k.retired then s
  else
    let s := bankSet b { k with retired := true, retires := min 15 (k.retires + 1), sweep := some 0 } s
    let s := (bankFrameKeys b (usedFrames s)).foldl (fun s k => tagSet k { tagGet s k with poi := true } s) s
    endTrim b s

/-- Step 5 of R362, once the sweep has ended. -/
def retireReport (b : Nat) (s : State) : State := raise Cause.bank (logErr { cause := 0x20, sev := 0, bank := b } s)

/-- `n` data parity errors found in bank `b` (R361). -/
def bankErr (b n : Nat) (s : State) : State :=
  let k := bankGet s b
  let s1 := bankSet b { k with errs := min 0xFFFF (k.errs + n), leak := if k.retired then k.leak else min 15 (k.leak + n) } s
  if !k.retired && partRetlim s.t ≠ 0 && partRetlim s.t ≤ min 15 (k.leak + n) then retireBank b s1 else s1

/-! ### Tag checks (R61, R352) -/

/-- A tag entry of which only free bits are left (R365, log 28). -/
def tagHeld (x : BitVec 37 × BitVec 14) : TagE :=
  { lo := x.2, tc := x.1.extractLsb' 33 4, qc := x.1.extractLsb' 29 4, clv := x.1.getLsbD 28, pf := x.1.getLsbD 27, sealed := x.1.getLsbD 26,
    poi := x.1.getLsbD 25, d := x.1.getLsbD 24, v := x.1.getLsbD 23, tag := x.1.extractLsb' 0 23 }

/-- One way's tag check at a lookup of its set for `j`. The record of a lost tag names no line (R365). -/
def tagCheck (j : Option Subj) (k : Nat) (s : State) : State :=
  let s := if Site.tagSingle k ∈ s.bad then occU 0xC0 1 { s with bad := s.bad.filter (· ≠ .tagSingle k) } else s
  if Site.tagDouble k ∈ s.bad then
    let s := { s with bad := s.bad.filter (· ≠ .tagDouble k) }
    if holdsCache s (k % 32) then
      fatalErr { cause := 0x01, sev := 2, set := k / 32, way := k % 32, bank := bankOfKey k, tc := subjTc j, who := subjWho j }
        (tagSet k (tagHeld (Config.heldTag s.clk.sclk k)) s)
    else
      let w := fenWho s k
      let al := (usedFrames s).contains (keyFrame k)
      let s := tagSet k (if al then { TagE.zero with v := true, poi := true, tc := BitVec.ofNat 4 w.2.1 } else TagE.zero) s
      logErr { cause := 0x01, sev := 1, aspace := if w.2.2.isSome then 2 else 1, laddr := w.1, set := k / 32, way := k % 32,
               bank := bankOfKey k, tc := w.2.1, who := subjWho j, rid := w.2.2.getD 0 } s
  else s

/-- Every tag of a set is checked; the PLRU field with a parity error becomes 0 (Table 17.1). -/
def setCheck (j : Option Subj) (set : Nat) (s : State) : State :=
  if s.bad = [] then s
  else
    let s := (List.range 32).foldl (fun s w => tagCheck j (wkey set w) s) s
    if Site.plru set ∈ s.bad then
      { s with bad := s.bad.filter (· ≠ .plru set), arr := { s.arr with plru := sset (fun _ => 0) s.arr.plru set 0 } }
    else s

/-- The checks of a MEM lookup: every set it probes. -/
def lookCheck (j : Option Subj) (l : LAddr) (s : State) : State := (candSets s l).foldl (fun s x => setCheck j x s) s

/-! ### Reading a way (R353, R356, Table 17.2) -/

/-- Words of the line at `k` that hold a parity error. -/
def dataErrs (s : State) (k : Nat) : Nat := (badWords s (.data k)).length

/-- The line at `k` as its bank holds it. -/
def dataHeld (s : State) (k : Nat) : Line := heldLine s (.data k) (dataGet s k)

def dropData (k : Nat) (s : State) : State :=
  { s with bad := s.bad.filter fun x => match x with | .data j _ => j != k | _ => true }

/-- A line that leaves the array counts an unused prefetch (event 0x34). -/
def countLeave (e : TagE) (s : State) : State := if e.pf then occ 0x34 .p (subjLine e.qc e.tc) 1 s else s

/-- Marks all ten lines of an accumulator group poisoned (R120, Table 17.2). -/
def poisonGroup (r : Region) (g : Nat) (s : State) : State :=
  (List.range 10).foldl (fun s j =>
    let a := 10 * g + j
    let k := frameKey (r.frames.getD (a / 512) 0) (a % 512)
    tagSet k { tagGet s k with poi := true } s) s

/-- Table 17.2 on the line of the way at `k`. Answers whether a clean MEM line was invalidated (R356). -/
def wayFound (j : Option Subj) (k : Nat) (s : State) : Bool × State :=
    let e := tagGet s k
    let info : ErrInfo := { cause := 0x08, sev := 1, aspace := 0, laddr := e.line.toNat, set := k / 32, way := k % 32,
                            bank := bankOfKey k, tc := e.tc.toNat, who := subjWho j }
    if e.poi then (false, s)
    else if holdsCache s (k % 32) then
      if e.d then (false, logErr info (tagSet k { e with poi := true } s))
      else (true, countLeave e (tagSet k TagE.zero s))
    else
      let w := fenWho s k
      match w.2.2 with
      | some rid =>
        let r := s.fen.regions.find? (·.rid = rid)
        let a := match r with | some r => 512 * r.frames.idxOf (keyFrame k) + keyFline k | none => 0
        let s := match r with | some r => poisonGroup r (a / 10) s | none => s
        (false, logErr { info with aspace := 2, laddr := 0, tc := w.2.1, rid := rid } s)
      | none => (false, logErr { info with aspace := 1, laddr := w.1, tc := w.2.1 } (tagSet k { e with poi := true } s))

/-- Checks the data of the way at `k` as a read for `j` does: Table 17.2 on the line as found, then the bank's counts (R361). Answers
whether a clean MEM line was invalidated. -/
def wayCheck (j : Option Subj) (k : Nat) (s : State) : Bool × State :=
  let n := dataErrs s k
  if n = 0 then (false, s)
  else
    let x := wayFound j k (occU 0xC1 n (dropData k (dataPut k (dataHeld s k) fullMask s)))
    (x.1, bankErr (bankOfKey k) n x.2)

/-! ### Replacement (R63 to R65, R233, R245) -/

def plruGet (s : State) (set : Nat) : Nat := (sget (fun _ => 0) s.arr.plru set).toNat

/-- The procedure plru_touch of R63 on `levels` levels. -/
def plruTouchN : Nat → Nat → Nat → Nat → Nat
  | 0, _, _, p => p
  | l + 1, w, n, p =>
    let d := fld w l 1
    let p := if d = 0 then p ||| 2 ^ n else p &&& (2 ^ 31 - 1 - 2 ^ n)
    plruTouchN l w (2 * n + 1 + d) p

def plruTouch (set way : Nat) (s : State) : State :=
  { s with arr := { s.arr with plru := sset (fun _ => 0) s.arr.plru set (BitVec.ofNat 31 (plruTouchN 5 way 0 (plruGet s set))) } }

/-- The procedure plru_victim of R65: `elig` is the mask of ways from `lo`, `levels` halvings remain. -/
def plruVictimN : Nat → Nat → Nat → Nat → Nat → Nat
  | 0, _, lo, _, _ => lo
  | l + 1, n, lo, p, elig =>
    let half := 2 ^ l
    let lower := fld elig lo half
    let upper := fld elig (lo + half) half
    let d := fld p n 1
    let d := if d = 0 ∧ lower = 0 then 1 else d
    let d := if d = 1 ∧ upper = 0 then 0 else d
    plruVictimN l (2 * n + 1 + d) (lo + half * d) p elig

/-- The set's cache ways (R233): of cache groups that do not convert, bank ON and not retired. -/
def cacheWays (s : State) (set : Nat) : List Nat :=
  (List.range 32).filter fun w => groupIsCache s (w / 4) && !groupConverts s (w / 4) && bankUsable s (bankOf set w)

/-- The way mask of class `c` (R233). -/
def classMask (s : State) (c set : Nat) : List Nat :=
  let cw := cacheWays s set
  let held := fun (q : Nat) => (cw.filter fun w => let e := tagGet s (wkey set w); e.v && e.qc.toNat == q).length
  cw.filter fun w =>
    let e := tagGet s (wkey set w)
    !e.v || e.qc.toNat == c || clsWres s.t e.qc.toNat * cw.length / 32 < held e.qc.toNat

/-- A sealed line whose clean write or MAC write awaits acknowledgement (R251). -/
def cleanHolds (s : State) (k : Nat) : Bool := s.mp.clean.any fun c => c.key == k && c.sealed && (c.ackOut || c.macOut)

/-- The ways eligible for a fill of class `c` and context `t` (R64, R245); none while allocation is off (R273). -/
def eligible (s : State) (c t set : Nat) : List Nat :=
  if s.srv.allocOff then [] else (classMask s c set).filter fun w =>
    !(tagGet s (wkey set w)).clv && !cleanHolds s (wkey set w) && nbit (tenWgmask s.t t) (w / 4)

/-- The victim of a fill (R65). -/
def victim (s : State) (c t set : Nat) : Option Nat :=
  let el := eligible s c t set
  if el = [] then none
  else match el.find? fun w => !(tagGet s (wkey set w)).v with
    | some w => some w
    | none => some (plruVictimN 5 0 0 (plruGet s set) (el.foldl (fun a w => a + 2 ^ w) 0))

/-! ### Mire (R77, R78) -/

def mireFind (s : State) (l : LAddr) : Option MireE := s.mp.mire.find? (·.line = l)

def mireFull (s : State) : Bool := 64 ≤ s.mp.mire.length

def mireMod (i : Nat) (f : MireE → MireE) (s : State) : State :=
  { s with mp := { s.mp with mire := lmod (·.id = i) f s.mp.mire } }

/-- An M write waits for its turn (R76). -/
def mwPush (w : MWork) (s : State) : State :=
  { s with mp := { s.mp with writes := s.mp.writes ++ [(s.mp.wseq, w)], wseq := s.mp.wseq + 1 } }

/-- A dirty line moves into a free Mire entry and its write-back waits for M. -/
def mirePush (e : TagE) (d : Line) (s : State) : State :=
  let i := (lowest 64 fun i => s.mp.mire.all (·.id ≠ i)).getD 0
  let m : MireE := { id := i, line := e.line, data := d, poi := e.poi, sealed := e.sealed, tc := e.tc, qc := e.qc, sent := false,
                     redirty := false, macOut := false }
  mwPush (.mire i) { s with mp := { s.mp with mire := s.mp.mire ++ [m] } }

/-- A read or write of a Mire entry checks its buffer (Table 17.2). -/
def mireCheck (i : Nat) (j : Option Subj) (s : State) : State :=
  let s := ctlUse (.mireCtl i) j s
  let n := (badWords s (.mireBuf i)).length
  if n = 0 then s
  else
    let s := occU 0xC1 n { mireMod i (fun m => { m with data := heldLine s (.mireBuf i) m.data }) s with bad := s.bad.filter fun x => match x with | .mireBuf b _ => b != i | _ => true }
    match s.mp.mire.find? (·.id = i) with
    | some m =>
      if m.poi then s
      else logErr { cause := 0x09, sev := 1, aspace := 0, laddr := m.line.toNat, tc := m.tc.toNat, who := subjWho j } (mireMod i (fun m => { m with poi := true }) s)
    | none => s

/-- Takes the way at `k` out of the array in a victim or sweep step: a clean line is invalidated, a dirty one
moves to Mire, which must have room (R67). Answers whether it was dirty. -/
def evictWay (k : Nat) (s : State) : Bool × State :=
  let e := tagGet s k
  if !e.v then (false, s)
  else if e.d then
    let s := (wayCheck none k s).2
    let e := tagGet s k
    let d := dataGet s k
    (true, occ 0x28 .p (subjLine e.qc e.tc) 1 (countLeave e (mirePush e d (dropData k (tagSet k TagE.zero s)))))
  else (false, occ 0x27 .p (subjLine e.qc e.tc) 1 (countLeave e (dropData k (tagSet k TagE.zero s))))

/-! ### Miss entries (R21, R73 to R78, R232) -/

def missFind (s : State) (l : LAddr) : Option Miss := s.mp.miss.find? (·.line = l)

def missMod (i : Nat) (f : Miss → Miss) (s : State) : State :=
  { s with mp := { s.mp with miss := lmod (·.id = i) f s.mp.miss } }

def missDrop (i : Nat) (s : State) : State := { s with mp := { s.mp with miss := s.mp.miss.filter (·.id ≠ i) } }

/-- Miss entries open for class `c`. -/
def missOf (s : State) (c : Nat) : Nat := (s.mp.miss.filter fun e => e.kind != .prefetch && e.qc.toNat == c).length

/-- Use of the common pool is below its size (R232). -/
def poolFree (s : State) : Bool :=
  let mres := (List.range 16).foldl (fun a c => a + clsMres s.t c) 0
  let use := (List.range 16).foldl (fun a c => a + (missOf s c - clsMres s.t c)) 0
  use + (s.mp.miss.filter (·.kind == .prefetch)).length < 1024 - mres

def hbankOpen (s : State) (h : BitVec 12) : Nat := (s.mp.miss.filter (·.hbank = h)).length

/-- Why a request cannot take a new miss entry, if it cannot (R75, R232). -/
def missRefuse (s : State) (r : Req) : Option Hold :=
  if 1024 ≤ s.mp.miss.length || !(missOf s r.qc.toNat < clsMres s.t r.qc.toNat || poolFree s) then some .missFull
  else if r.cap ≤ hbankOpen s r.hbank then some .bankCap
  else none

/-- A new miss entry for request `r`, with the lowest free number. -/
def missNew (s : State) (r : Req) (kind : MissKind) (st : MissSt) (buf : Line) (mask : Mask) : Miss :=
  { id := (lowest 1024 fun i => s.mp.miss.all (·.id ≠ i)).getD 0, line := hLine r.msg, kind := kind, st := st, qc := r.qc, tc := r.tc,
    opener := if kind = .prefetch then none else some r, reqid := BitVec.ofNat 12 (hReqid r.msg), set := r.set, hbank := r.hbank,
    attr := r.attr, nAtt := if kind = .prefetch then 0 else 1, att := [], buf := buf, mask := mask, dirty := false, poi := false,
    hpoi := false, wrote := false, thru := [], pfIns := r.pf.ins, sealed := r.attr.sealed, mdata := none, mac := none, wsn := s.mp.wseq }

def missAdd (e : Miss) (s : State) : State := { s with mp := { s.mp with miss := s.mp.miss ++ [e] } }

/-- A miss-entry buffer's parity is checked when it is used (Table 17.2). -/
def missCheck (i : Nat) (j : Option Subj) (s : State) : State :=
  let s := ctlUse (.missCtl i) j s
  let n := (badWords s (.missBuf i)).length
  if n = 0 then s
  else
    let s := occU 0xC1 n { missMod i (fun m => { m with buf := heldLine s (.missBuf i) m.buf }) s with bad := s.bad.filter fun x => match x with | .missBuf b _ => b != i | _ => true }
    match s.mp.miss.find? (·.id = i) with
    | some m =>
      if m.poi then s
      else logErr { cause := 0x09, sev := 1, aspace := 0, laddr := m.line.toNat, tc := m.tc.toNat, who := subjWho j } (missMod i (fun m => { m with poi := true, hpoi := true }) s)
    | none => s

/-- Bytes `m` of `d` are written into the entry's buffer (R21, R353, R357): `clears` marks a clearing write, `thru` one of a WTHRU
region, whose bytes wait in the entry to leave on M (R73). -/
def missWrite (d : Line) (m : Mask) (clears thru : Bool) (e : Miss) : Miss :=
  let b := lineMerge e.buf d m
  let hpoi := e.hpoi && !clears
  let poi := hpoi || (e.poi && !e.hpoi && !clears && (e.mask ||| m) != fullMask)
  { e with buf := b, mask := e.mask ||| m, hpoi := hpoi, poi := poi, wrote := true, dirty := e.dirty || !thru,
           thru := if thru then e.thru ++ [{ data := b, mask := m, poi := poi }] else e.thru }

/-- A Clove operation has left `d` in the entry's buffer, having modified bytes `m`; it leaves a poisoned line alone (R126, R354). -/
def missOp (d : Line) (m : Mask) (thru : Bool) (e : Miss) : Miss :=
  if e.poi then e
  else { e with buf := d, wrote := true, dirty := e.dirty || !thru,
                thru := if thru && m != 0 then e.thru ++ [{ data := d, mask := m, poi := false }] else e.thru }

/-- Home data is written whole into the entry's buffer (R73, R170, R359). -/
def missHome (d : Line) (poi dirty thru : Bool) (e : Miss) : Miss :=
  { e with buf := d, mask := fullMask, hpoi := poi, poi := poi, wrote := true, dirty := e.dirty || poi || (!thru && dirty),
           thru := if thru then e.thru ++ [{ data := d, mask := fullMask, poi := poi }] else e.thru }

/-- The entry's line takes POI, and D if asked (R355, R359). -/
def missPoison (dirty : Bool) (e : Miss) : Miss := { e with poi := true, hpoi := true, wrote := true, dirty := e.dirty || dirty }

/-- The line of a miss entry with these accesses attached is marked poisoned before its fill (R353, R359). -/
def attPoi (l : List AttOp) : Bool :=
  l.foldl (fun b a => match a with | .poison _ => true | .homeWr _ p _ _ => p | .write _ _ _ c => b && !c | _ => b) false

/-- D of the line that the entry installs: a line poisoned by its fill is clean (R357). -/
def missDirty (e : Miss) : Bool := e.dirty && !(e.poi && !e.hpoi)

/-- The entry receives the line and takes attachments (R21). -/
def missTakes (e : Miss) : Bool := e.kind != .around && e.st != .writeOut

/-- An attachment slot is free: 16 requests, the opener among them (R21). -/
def missRoom (e : Miss) : Bool := e.nAtt < 16

/-- The entry's buffer holds the whole line already. -/
def missFilled (e : Miss) : Bool := e.st == .waitInstall

/-! ### Where a MEM line is -/

inductive Place where
  | way (k : Nat)
  | mire (m : MireE)
  | miss (e : Miss)
  | absent
deriving DecidableEq, Repr

def placeOf (s : State) (l : LAddr) : Place :=
  match findWay s l with
  | some k => .way k
  | none =>
    match mireFind s l with
    | some m => .mire m
    | none => match missFind s l with | some e => .miss e | none => .absent

/-- A MEM line is sealed in the array, Mire or a miss entry under context `t` (R253). -/
def sealedHeld (s : State) (t : Nat) : Bool :=
  s.arr.tags.any (fun x => x.2.v && x.2.sealed && x.2.tc.toNat == t && holdsCache s (x.1 % 32)) ||
    s.mp.mire.any (fun m => m.sealed && m.tc.toNat == t) || s.mp.miss.any (fun m => m.sealed && m.tc.toNat == t)

end Sys2Proof.Machine
end

