-- ==== Sys2Proof/Machine/Data.lean ====
section
/-! DEFINITION. Accesses to MEM lines where they are found: reads, writes, Clove operations, fills and installs (R21, R22, R63, R72, R73, R77, R78, R126). -/

namespace Sys2Proof.Machine

/-- How a tag-pipe step of a request ends. -/
inductive StepRes where
  | done (s : State)                 -- performed, answered, or taken by a miss entry
  | hold (h : Hold) (s : State)      -- ends in a hold (R230); the state holds what the lookup itself did
  | attached (s : State)             -- attached to the HTE that holds the line in H (R172)

def whoReq (r : Req) : Option (Nat × Nat) := some (hReqid r.msg, hSrc r.msg)

/-! ### Ends of accesses -/

/-- Changes the element of a Mace slot. -/
def elemMod (slot id : Nat) (f : Elem → Elem) (s : State) : State :=
  { s with mace := { s.mace with descs := lmod (·.slot = slot) (fun d => { d with infl := lmod (·.id = id) f d.infl }) s.mace.descs } }

/-- The span of a request's line access. -/
def spanLen (m : Msg) : Nat :=
  let o := hOpcode m
  if o == Op.atom || o == Op.atomC then atomSize (hFmt m)
  else if o == Op.rd || o == Op.rdOnce || o == Op.wr || o == Op.red then hLen m else 128

/-- A read's bytes reach its requester, or its Mace element (R41, R151). -/
def deliverRead (r : Req) (epoch : Nat) (d : Line) (poi : Bool) (s : State) : State :=
  match r.src with
  | .mace slot id => elemMod slot id (fun e => { e with src := some (d, poi), stepped := true }) s
  | .part _ _ | .own => s
  | .port =>
    let s := if hOpcode r.msg == Op.rd then occR 0x16 r (hLen r.msg) s else s
    dataTo r.port r.msg (subjReq r) (poiSt poi) epoch 0 d s

/-- A write or operation completes: COMP, or the Mace element is done. -/
def deliverComp (r : Req) (poi : Bool) (result epoch : Nat) (s : State) : State :=
  match r.src with
  | .mace slot id => elemMod slot id (fun e => { e with stepped := true, poi := poi }) s
  | .part slot id => elemMod slot id (fun e => { e with todo := e.todo.tail }) s
  | .own => s
  | .port => respond r.port r.msg (subjReq r) { op := Op.comp, vc := Vc.rsp, status := poiSt poi, result := result, epoch := epoch } s

/-- A request is refused after its ingress: its port is answered, or its Mace element has failed. -/
def reqFail (r : Req) (st : Nat) (s : State) : State :=
  match r.src with
  | .mace slot id => elemMod slot id (fun e => { e with stepped := true, fail := some (Config.timeoutFkind, BitVec.ofNat 3 st) }) s
  | .part _ _ | .own => s
  | .port => compTo r.port r.msg (subjReq r) st 0 s

/-- The bytes a request writes, and their values at line offsets. -/
def reqWrite (r : Req) : Line × Mask := (msgLine r.msg, wrMask r.msg)

/-- A Clove operation on a line: new line, old value, counts, bytes of the elements that take part (R101, R129). -/
def applyOp (m : Msg) (old : Line) : Line × Nat × FpEv × Mask :=
  if hOpcode m == Op.red then
    let x := redLine (hFmt m) (hOp m) (hOff m) (hLen m) (wrMask m) old (msgLine m)
    (x.1, 0, x.2, redMask m)
  else
    let x := atomLine (hFmt m) (hOp m) (hOff m) (atomA m) (atomB m) old
    (x.1, x.2.1, x.2.2, spanMask (hOff m) (atomSize (hFmt m)))

/-- Events of a fast-mode operation (Table 14.4). -/
def cloveOcc (r : Req) (v : FpEv) (s : State) : State :=
  occR 0x68 r v.casf (occR 0x67 r v.inex (occR 0x66 r v.zero (occR 0x65 r v.sat (occR 0x64 r v.inf (occR 0x63 r v.nan (occR 0x60 r v.elems s))))))

/-- The old value an atomic returns (R117). -/
def retVal (m : Msg) (old : Nat) : Nat := if hRet m && hOpcode m != Op.red then old else 0

/-- The operation of request `r` on a line held with poison `poi`: the line after, whether it changed it, the bytes
modified, and the state with tally, counts and answer (R118, R126, R130, R354). `fresh`: the access is counted here, not where it attached. -/
def opOn (r : Req) (epoch : Nat) (old : Line) (poi fresh : Bool) (s : State) : Line × Mask × State :=
  let x := applyOp r.msg old
  let after := if poi then old else x.1
  let wm : Mask := if poi then 0 else x.2.2.2
  let s := if poi then s else cloveOcc r x.2.2.1 s
  let s := watchAcc { accReq r (spanLen r.msg) wm after with now := fresh } s
  let s := reqTally r (maskCount x.2.2.2) s
  (after, wm, deliverComp r poi (retVal r.msg x.2.1) epoch s)

/-- Bytes of a write-through write wait for M (Table 3.6, R73). A sealed line is sent whole (R249). -/
def sendThru (r : Req) (d : Line) (m : Mask) (poi sealed : Bool) (qc tc : BitVec 4) (s : State) : State :=
  mwPush (.wthru (hLine r.msg) d (if sealed then fullMask else m) poi sealed qc tc) s

/-! ### Install (R62, R63, R66, R67) -/

/-- A line to install; `set` is the one that its request's generation gave (R25). -/
structure Inst where
  line   : LAddr
  data   : Line
  set    : Nat
  qc     : BitVec 4
  tc     : BitVec 4
  pf     : Bool
  sealed : Bool
  poi    : Bool
  d      : Bool
  touch  : Bool
  who    : Option Subj

/-- Puts a line into the way at `k`, whose former line has left. -/
def installAt (k : Nat) (i : Inst) (s : State) : State :=
  let e : TagE := { lo := i.line.extractLsb' 0 14, tc := i.tc, qc := i.qc, clv := false, pf := i.pf, sealed := i.sealed, poi := i.poi,
                    d := i.d, v := true, tag := i.line.extractLsb' 14 23 }
  let s := dataPut k i.data fullMask (tagSet k e s)
  if i.touch then plruTouch (k / 32) (k % 32) s else s

inductive InstRes where
  | ok (s : State)
  | noVictim
  | mireWait

/-- The set that a line installs in: while a rehash sweep has yet to visit the set of its request's classification under H_old, that set, else
its set under the live matrix (R25, R59, log 33). -/
def instSet (s : State) (l : LAddr) (set : Nat) : Nat :=
  match s.gen.rehash with
  | some r => if set = setIdx r.hOld l ∧ r.apos ≤ set then set else liveSet s l
  | none => liveSet s l

/-- Chooses the victim in the line's set and installs (R65 to R67, R78). -/
def tryInstall (i : Inst) (s : State) : InstRes :=
  let set := instSet s i.line i.set
  let s := setCheck i.who set s
  match victim s i.qc.toNat i.tc.toNat set with
  | none => .noVictim
  | some w =>
    let k := wkey set w
    let e := tagGet s k
    if e.v && e.d && mireFull s then .mireWait
    else .ok (installAt k i (evictWay k s).2)

/-! ### Reads -/

/-- For whom a read is made: the request itself, or the home answering a coherent request (Table 8.4). -/
inductive ReadAs where
  | plain
  | coh (gst : Nat) (gpend : Bool)

def readOp (r : Req) : ReadAs → AttOp
  | .plain => .read r
  | .coh g p => .coh r (BitVec.ofNat 2 g) p

def readEnd (r : Req) (as_ : ReadAs) (d : Line) (poi : Bool) (s : State) : State :=
  match as_ with
  | .plain => deliverRead r 0 d poi s
  | .coh g p => cohData r.port r.msg (subjReq r) (poiSt poi) g p d s

/-- The tag changes of a demand hit: PF clears, the PLRU path is touched (R62, R63). -/
def demandHit (r : Req) (k : Nat) (s : State) : State :=
  let e := tagGet s k
  let s := if e.pf then occR 0x33 r 1 (tagSet k { e with pf := false } s) else s
  plruTouch (k / 32) (k % 32) s

/-- A MEM read at its tag-pipe step, coherence settled (R41, R63, R75, R77). -/
def memRead (r : Req) (as_ : ReadAs) (s : State) : StepRes :=
  let l := hLine r.msg
  let s := lookCheck (some (subjReq r)) l s
  let served := fun (s : State) => addServed r (match as_ with | .plain => spanLen r.msg | .coh _ _ => if hOpcode r.msg == Op.upgrade then 0 else 128) s
  let acc := fun (d : Line) (s : State) => watchAcc (accReq r (spanLen r.msg) 0 d) s
  match placeOf s l with
  | .way k =>
    let c := wayCheck (some (subjReq r)) k s
    if c.1 then .hold .refetch c.2
    else
      let s := served (occR 0x20 r 1 (demandHit r k c.2))
      .done (readEnd r as_ (dataGet s k) (tagGet s k).poi (acc (dataGet s k) s))
  | .mire m =>
    let s := mireCheck m.id (some (subjReq r)) s
    let m := (mireFind s l).getD m
    .done (readEnd r as_ m.data m.poi (acc m.data (served (occR 0x20 r 1 (occR 0x24 r 1 s)))))
  | .miss e =>
    if !missTakes e then .hold .around s
    else if !missRoom e then .hold .attach s
    else
      let s := served (occR 0x21 r 1 (occR 0x25 r 1 (missMod e.id (fun e => { e with nAtt := e.nAtt + 1 }) s)))
      if missFilled e then
        let s := missCheck e.id (some (subjReq r)) s
        let e := (missFind s l).getD e
        .done (readEnd r as_ e.buf e.poi (acc e.buf s))
      else .done (acc 0 (missMod e.id (fun e => { e with att := e.att ++ [readOp r as_] }) s))
  | .absent =>
    match missRefuse s r with
    | some h => .hold h s
    | none =>
      let e := { missNew s r .read .waitIssue 0 0 with att := [readOp r as_] }
      .done (acc 0 (served (occR 0x21 r 1 (missAdd e s))))

/-! ### Writes -/

/-- What a write of `m` bytes does to a line held as `old` with poison `poi`: the line and its poison after (R353, R354). -/
def writeOn (old d : Line) (m : Mask) (clears : Bool) (poi : Bool) : Line × Bool := (lineMerge old d m, poi && !clears)

/-- The end of a write: bytes counted, added to the tally, watched with the words of the line after it that are known, COMP (R22, R45). -/
def writeEnd (r : Req) (epoch : Nat) (m : Mask) (after : Line) (known : BitVec 16) (poi : Bool) (s : State) : State :=
  let s := occR 0x17 r (maskCount m) s
  let s := watchAcc { accReq r (spanLen r.msg) m after with judge := known } s
  deliverComp r poi 0 epoch (reqTally r (maskCount m) s)

/-- A write that takes a miss entry for a write-around (Table 3.6, R66). -/
def writeAround (r : Req) (d : Line) (m : Mask) (s : State) : StepRes :=
  match missRefuse s r with
  | some h => .hold h s
  | none =>
    let e := { missNew s r .around .writeOut d m with dirty := true, wrote := true }
    .done (writeEnd r 0 m (lineMerge (Config.unseen e.line s.clk.sclk) d m) (BitVec.allOnes 16) false (mwPush (.around e.id) (missAdd e s)))

/-- A MEM write at its tag-pipe step, coherence settled (R72, Table 3.6). A whole-line write that finds no eligible way becomes a write-around of
the whole line (R66, log 34). -/
def memWrite (r : Req) (s : State) : StepRes :=
  let l := hLine r.msg
  let d := (reqWrite r).1
  let m := (reqWrite r).2
  let whole := m == fullMask
  let clears := whole && !r.poi
  let all := BitVec.allOnes 16
  let s := lookCheck (some (subjReq r)) l s
  let served := fun (s : State) => addServed r (spanLen r.msg) s
  let list := fun (s : State) => if clears then plistDrop l s else s
  match placeOf s l with
  | .way k =>
    let s := list (served (occR 0x22 r 1 (demandHit r k s)))
    let e := tagGet s k
    let x := writeOn (dataGet s k) d m clears e.poi
    let s := dataPut k d m (tagSet k { e with poi := x.2, d := e.d || r.attr.wpol != 2 } s)
    let s := if r.attr.wpol == 2 then sendThru r x.1 m x.2 e.sealed e.qc e.tc s else s
    .done (writeEnd r 0 m x.1 all x.2 s)
  | .mire n =>
    let s := mireCheck n.id (some (subjReq r)) (list (served (occR 0x22 r 1 (occR 0x24 r 1 s))))
    let n := (mireFind s l).getD n
    let x := writeOn n.data d m clears n.poi
    .done (writeEnd r 0 m x.1 all x.2 (mireMod n.id (fun n => { n with data := x.1, poi := x.2, redirty := n.redirty || n.sent || n.macOut }) s))
  | .miss e =>
    if !missTakes e then .hold .around s
    else if !missRoom e then .hold .attach s
    else
      let s := list (served (occR 0x23 r 1 (occR 0x25 r 1 (missMod e.id (fun e => { e with nAtt := e.nAtt + 1 }) s))))
      let thru := r.attr.wpol == 2
      if missFilled e then
        let s := missCheck e.id (some (subjReq r)) s
        let x := missWrite d m clears thru ((missFind s l).getD e)
        .done (writeEnd r 0 m x.buf all x.poi (missMod e.id (missWrite d m clears thru) s))
      else
        let s := missMod e.id (fun e => { missWrite d m clears thru e with att := e.att ++ [.write r d m clears] }) s
        .done (writeEnd r 0 m d (fullWords m) (attPoi e.att && !clears) s)
  | .absent =>
    if r.attr.wpol != 0 then
      match writeAround r d m s with
      | .done s => .done (list (served (occR 0x23 r 1 s)))
      | x => x
    else if whole then
      let i : Inst := { line := l, data := d, set := r.set.toNat, qc := r.qc, tc := r.tc, pf := false, sealed := r.attr.sealed, poi := false, d := true,
                        touch := true, who := some (subjReq r) }
      match tryInstall i s with
      | .ok s => .done (writeEnd r 0 m d all false (list (served (occR 0x23 r 1 s))))
      | .noVictim =>
        match writeAround r d m s with
        | .done s => .done (list (served (occR 0x23 r 1 (occR 0x26 r 1 s))))
        | x => x
      | .mireWait =>
        match missRefuse s r with
        | some h => .hold h s
        | none =>
          let e := { missNew s r .whole .waitInstall d fullMask with dirty := true, wrote := true }
          .done (writeEnd r 0 m d all false (list (served (occR 0x23 r 1 (missAdd e s)))))
    else
      match missRefuse s r with
      | some h => .hold h s
      | none =>
        let e := { missNew s r .partialWr .waitIssue (lineMerge 0 d m) m with att := [.write r d m false], dirty := true, wrote := true }
        .done (writeEnd r 0 m d (fullWords m) false (served (occR 0x23 r 1 (missAdd e s))))

/-! ### Clove operations (Table 6.1) -/

/-- A RED, ATOM or near ATOM_C on a MEM line at its tag-pipe step, coherence settled (R126). -/
def memOp (r : Req) (s : State) : StepRes :=
  let l := hLine r.msg
  let s := lookCheck (some (subjReq r)) l s
  let served := fun (s : State) => addServed r (spanLen r.msg) s
  let thru := r.attr.wpol == 2
  match placeOf s l with
  | .way k =>
    let c := wayCheck (some (subjReq r)) k s
    if c.1 then .hold .refetch c.2
    else
      let s := served (occR 0x22 r 1 (demandHit r k c.2))
      let e := tagGet s k
      let x := opOn r 0 (dataGet s k) e.poi true s
      let s := dataPut k x.1 x.2.1 (tagSet k { e with d := e.d || (!thru && !e.poi) } x.2.2)
      .done (if thru && x.2.1 != 0 then sendThru r x.1 x.2.1 e.poi e.sealed e.qc e.tc s else s)
  | .mire n =>
    let s := mireCheck n.id (some (subjReq r)) (served (occR 0x22 r 1 (occR 0x24 r 1 s)))
    let n := (mireFind s l).getD n
    let x := opOn r 0 n.data n.poi true s
    .done (mireMod n.id (fun n => { n with data := x.1, redirty := n.redirty || ((n.sent || n.macOut) && !n.poi) }) x.2.2)
  | .miss e =>
    if !missTakes e then .hold .around s
    else if !missRoom e then .hold .attach s
    else
      let s := served (occR 0x23 r 1 (occR 0x25 r 1 (missMod e.id (fun e => { e with nAtt := e.nAtt + 1 }) s)))
      if missFilled e then
        let s := missCheck e.id (some (subjReq r)) s
        let e := (missFind s l).getD e
        let x := opOn r 0 e.buf e.poi true s
        .done (missMod e.id (missOp x.1 x.2.1 thru) x.2.2)
      else .done (watchAcc (accReq r (spanLen r.msg) 0 0) (missMod e.id (fun e => { e with att := e.att ++ [.op r] }) s))
  | .absent =>
    match missRefuse s r with
    | some h => .hold h s
    | none =>
      let e := { missNew s r .read .waitIssue 0 0 with att := [.op r] }
      .done (watchAcc (accReq r (spanLen r.msg) 0 0) (served (occR 0x23 r 1 (missAdd e s))))

/-- Data from a poisoned source leaves its target line poisoned (R355). -/
def taintLine (r : Req) (s : State) : State :=
  let l := hLine r.msg
  let d := r.attr.wpol != 2 || hOpcode r.msg != Op.wr
  let s := { s with mp := { s.mp with writes := s.mp.writes.map fun w => match w.2 with
    | .wthru j x m p sl qc tc => (w.1, .wthru j x m (p || j == l) sl qc tc)
    | _ => w } }
  match placeOf s l with
  | .way k => let e := tagGet s k; tagSet k { e with poi := true, d := e.d || d } s
  | .mire m => mireMod m.id (fun m => { m with poi := true, redirty := m.redirty || m.sent || m.macOut }) s
  | .miss e =>
    if !missTakes e || missFilled e then missMod e.id (missPoison d) s
    else missMod e.id (fun e => { e with att := e.att ++ [.poison d] }) s
  | .absent => s

/-- The array path of a MEM access whose coherence is settled (R182, R193 step 2). -/
def memAccess (r : Req) (s : State) : StepRes :=
  let o := hOpcode r.msg
  if o == Op.wr || o == Op.red || o == Op.atom || o == Op.atomC then
    match (if o == Op.wr then memWrite r s else memOp r s) with
    | .done s => .done (if r.poi then taintLine r s else s)
    | x => x
  else memRead r .plain s

/-! ### Fills -/

/-- One attached access, in attachment order, on a filled entry (R21, R126, R357). -/
def replay (x : Miss × State) (a : AttOp) : Miss × State :=
  let e := x.1
  let s := x.2
  match a with
  | .read r => (e, deliverRead r 0 e.buf e.poi s)
  | .coh r g p => (e, cohData r.port r.msg (subjReq r) (poiSt e.poi) g.toNat p e.buf s)
  | .write r d m clears =>
    let e := missWrite d m clears (r.attr.wpol == 2) e
    (e, watchAcc { accReq r (spanLen r.msg) m e.buf with now := false, bytes := false, judge := ~~~(fullWords m) } s)
  | .op r =>
    let y := opOn r 0 e.buf e.poi false s
    (missOp y.1 y.2.1 (r.attr.wpol == 2) e, y.2.2)
  | .homeWr d p dt th => (missHome d p dt th e, s)
  | .poison d => (missPoison d e, s)

/-- Some attached access makes the line stay (R73): RALLOC 1 keeps out reads only. -/
def fillKeeps (e : Miss) : Bool :=
  e.att.any fun a => match a with | .write _ _ _ _ => true | .op _ => true | .poison _ => true | .homeWr _ _ _ _ => true | _ => false

/-- The entry as its fill finds it: the line from M, poisoned or not, and nothing of the attached accesses yet. -/
def fillStart (d : Line) (poi : Bool) (e : Miss) : Miss :=
  { e with buf := d, mask := 0, poi := poi || e.hpoi, wrote := false, dirty := false, thru := [] }

/-- The fill's line arrives, poisoned or not: every attached access is served, and the entry waits to install (R21, R357, R358). -/
def fillServe (i : Nat) (d : Line) (poi : Bool) (s : State) : State :=
  match s.mp.miss.find? (·.id = i) with
  | none => s
  | some e =>
    let x := e.att.foldl replay (fillStart d (poi || listed s e.line) e, s)
    if e.attr.ralloc == 1 && e.kind == .read && !fillKeeps e then missDrop i x.2
    else missMod i (fun _ => { x.1 with st := .waitInstall, att := [] }) x.2

end Sys2Proof.Machine
end

