-- ==== Sys2Proof/Machine/Sedge.lean ====
section
/-! DEFINITION. Sedge entries, sharers, victims, the contention predictor, and messages of the home (R163 to R166, R170, R173, R180, R188). -/

namespace Sys2Proof.Machine

/-! ### Entries -/

def sedgeGet (s : State) (k : Nat) : SedgeE := sget (fun _ => SedgeE.zero) s.home.sedge k

def sedgeSet (k : Nat) (e : SedgeE) (s : State) : State :=
  { s with home := { s.home with sedge := sset (fun _ => SedgeE.zero) s.home.sedge k e } }

/-- Key of entry `w` of the Sedge set of array set `x` (R163). -/
def skey (x w : Nat) : Nat := 8 * (x % 4096) + w

/-- Entry at `k` is that of line `l` placed from array set `x` with hash generation `g` (R59). -/
def sedgeIs (s : State) (l : LAddr) (x : Nat) (g : Bool) (k : Nat) : Bool :=
  let e := sedgeGet s k
  e.st != 0 && e.hg == g && e.shi.toNat == x / 4096 && e.tag == l.extractLsb' 14 23

def sedgeFindIn (s : State) (l : LAddr) (x : Nat) (g : Bool) : Option Nat :=
  ((List.range 8).map (skey x)).find? (sedgeIs s l x g)

/-- The line's entry: under the live matrix, then under H_old while a rehash runs (R59). -/
def sedgeFind (s : State) (l : LAddr) : Option Nat :=
  match sedgeFindIn s l (liveSet s l) s.gen.hg with
  | some k => some k
  | none => match s.gen.rehash with
    | some r => sedgeFindIn s l (setIdx r.hOld l) (!s.gen.hg)
    | none => none

/-- A Sedge entry of which only free bits are left (R365, log 28). -/
def sedgeHeld (x : BitVec 41 × BitVec 36) : SedgeE :=
  { st := x.1.extractLsb' 38 3, cv := x.1.getLsbD 37, hg := x.1.getLsbD 34, shi := x.1.extractLsb' 32 2, tag := x.1.extractLsb' 9 23,
    ov := x.1.getLsbD 8, owner := x.1.extractLsb' 0 8, shr := x.2 }

/-- The SECDED check of a Sedge set for `j`; a PLRU field with a parity error becomes 0 (Table 17.1). -/
def sedgeCheck (j : Option Subj) (x : Nat) (s : State) : State :=
  if s.bad = [] then s
  else
    let s := if Site.splru (x % 4096) ∈ s.bad then
        { s with bad := s.bad.filter (· ≠ .splru (x % 4096)), home := { s.home with splru := sset (fun _ => 0) s.home.splru (x % 4096) 0 } } else s
    (List.range 8).foldl (fun s w =>
    let k := skey x w
    let s := if Site.sedgeSingle k ∈ s.bad then occU 0xC0 1 { s with bad := s.bad.filter (· ≠ .sedgeSingle k) } else s
    if Site.sedgeDouble k ∈ s.bad then
      fatalErr { cause := 0x02, sev := 2, tc := subjTc j, who := subjWho j }
        (sedgeSet k (sedgeHeld (Config.heldSedge s.clk.sclk k)) { s with bad := s.bad.filter (· ≠ .sedgeDouble k) })
    else s) s

/-! ### Sharers (Table 8.2, R165) -/

def slotOk (e : SedgeE) (i : Nat) : Bool := nbit e.shr.toNat (9 * i + 8)
def slotAg (e : SedgeE) (i : Nat) : Nat := fld e.shr.toNat (9 * i) 8

/-- The precise sharers of an entry with CV = 0. -/
def slotSharers (e : SedgeE) : List Nat := (List.range 4).filterMap fun i => if slotOk e i then some (slotAg e i) else none

def isOwner (e : SedgeE) (c : Nat) : Bool := e.ov && e.owner.toNat == c

/-- The agent is recorded as a sharer: in a slot, or in a marked group. -/
def isSharer (e : SedgeE) (c : Nat) : Bool := if e.cv then nbit e.shr.toNat (c / 8) else (slotSharers e).contains c

/-- No sharer is recorded. -/
def noSharers (e : SedgeE) : Bool := e.shr == 0

/-- Agents an invalidation goes to, the owner left out (R165). -/
def invSet (s : State) (e : SedgeE) : List Nat :=
  (if e.cv then (List.range 256).filter fun c => nbit e.shr.toNat (c / 8) && rmBinds s.t c else slotSharers e).filter fun c => !isOwner e c

def withSlots (e : SedgeE) (l : List Nat) : SedgeE :=
  { e with cv := false, shr := BitVec.ofNat 36 ((l.zipIdx).foldl (fun a x => a + (256 + x.1) * 2 ^ (9 * x.2)) 0) }

def withGroups (e : SedgeE) (l : List Nat) : SedgeE :=
  { e with cv := true, shr := l.foldl (fun a c => a ||| BitVec.ofNat 36 (2 ^ (c / 8))) 0 }

/-- A sharer joins (R165). -/
def addSharer (e : SedgeE) (c : Nat) : SedgeE :=
  if isOwner e c then e
  else if e.cv then { e with shr := e.shr ||| BitVec.ofNat 36 (2 ^ (c / 8)) }
  else
    let l := slotSharers e
    if l.contains c then e
    else if l.length < 4 then
      match lowest 4 fun i => !slotOk e i with
      | some i => { e with shr := e.shr ||| BitVec.ofNat 36 ((256 + c) * 2 ^ (9 * i)) }
      | none => e
    else withGroups e (l ++ [c])

/-- A sharer leaves; a coarse vector stays (R165). -/
def dropSharer (e : SedgeE) (c : Nat) : SedgeE :=
  if e.cv then e
  else { e with shr := (List.range 4).foldl (fun a i => if slotOk e i && slotAg e i == c then a &&& ~~~(BitVec.ofNat 36 (0x1FF * 2 ^ (9 * i))) else a) e.shr }

/-- ST S, with the sharers that the entry has and no owner. -/
def noOwner (e : SedgeE) : SedgeE := { e with st := 1, ov := false, owner := 0 }

/-- No owner and no sharers. -/
def clearHolders (e : SedgeE) : SedgeE := { e with cv := false, ov := false, owner := 0, shr := 0 }

/-- ST S with its sharers, or free when it has none. -/
def settleS (e : SedgeE) : SedgeE :=
  let e := { e with ov := false, owner := 0 }
  if noSharers e then SedgeE.zero else { e with st := 1 }

/-- The entry with agent `c` as exclusive owner. -/
def ownE (e : SedgeE) (c : Nat) : SedgeE := { clearHolders e with st := 2, ov := true, owner := BitVec.ofNat 8 c }

/-- Sedge records an agent other than `c` (R180). -/
def otherHolder (e : Option SedgeE) (c : Nat) : Bool :=
  match e with
  | none => false
  | some e => (e.ov && e.owner.toNat != c) || (if e.cv then !noSharers e else (slotSharers e).any (· != c))

/-! ### Replacement in a Sedge set -/

def splruGet (s : State) (x : Nat) : Nat := (sget (fun _ => 0) s.home.splru (x % 4096)).toNat

/-- R63's procedure over 8 entries. -/
def splruTouchN : Nat → Nat → Nat → Nat → Nat
  | 0, _, _, p => p
  | l + 1, w, n, p =>
    let d := fld w l 1
    let p := if d = 0 then p ||| 2 ^ n else p &&& (127 - 2 ^ n)
    splruTouchN l w (2 * n + 1 + d) p

def splruTouch (k : Nat) (s : State) : State :=
  let x := k / 8
  { s with home := { s.home with splru := sset (fun _ => 0) s.home.splru x (BitVec.ofNat 7 (splruTouchN 3 (k % 8) 0 (splruGet s x))) } }

/-- Where a new entry of a line goes: a free entry, a victim to reclaim, or nowhere (R166, R167). -/
inductive SedgeRoom where
  | free (k : Nat)
  | victim (k : Nat)
  | allH
deriving DecidableEq, Repr

def sedgeRoom (s : State) (x : Nat) : SedgeRoom :=
  let st := fun w => (sedgeGet s (skey x w)).st.toNat
  match (List.range 8).find? fun w => st w == 0 with
  | some w => .free (skey x w)
  | none =>
    let pick := fun (p : Nat → Bool) => (List.range 8).foldl (fun a w => if p (st w) then a + 2 ^ w else a) 0
    let m := if pick (· == 1) ≠ 0 then pick (· == 1) else pick (fun x => x == 2 || x == 3)
    if m = 0 then .allH else .victim (skey x (plruVictimN 3 0 0 (splruGet s x) m))

/-- A new entry of a line, under the live matrix (R59). -/
def sedgeNew (s : State) (l : LAddr) : SedgeE :=
  { SedgeE.zero with st := 1, hg := s.gen.hg, shi := BitVec.ofNat 2 (liveSet s l / 4096), tag := l.extractLsb' 14 23 }

/-- Line address of an entry at `k`, from its set index and the matrix of its generation (R163). -/
def sedgeLine (s : State) (k : Nat) : LAddr :=
  let e := sedgeGet s k
  let rows := if e.hg == s.gen.hg then hashRows s.t else match s.gen.rehash with | some r => r.hOld | none => hashRows s.t
  let x : BitVec 14 := BitVec.ofNat 14 (e.shi.toNat * 4096 + k / 8)
  let z : LAddr := e.tag ++ (0 : BitVec 14)
  e.tag ++ (x ^^^ BitVec.ofNat 14 (setIdx rows z))

/-! ### Home transaction entries -/

def hteGet (s : State) (h : Nat) : Option Hte := s.home.htes.find? (·.id = h)

def hteMod (h : Nat) (f : Hte → Hte) (s : State) : State := { s with home := { s.home with htes := lmod (·.id = h) f s.home.htes } }

def hteDrop (h : Nat) (s : State) : State := { s with home := { s.home with htes := s.home.htes.filter (·.id ≠ h) } }

def hteFree (s : State) : Bool := s.home.htes.length < 256

/-- A new HTE, awaiting nothing, at the lowest free number. -/
def hteNew (s : State) (r : Req) (l : LAddr) (k : HKind) (st : BitVec 3) : Hte :=
  { id := (lowest 256 fun i => s.home.htes.all (·.id ≠ i)).getD 0, line := l, kind := k, req := r, h := false, stOpen := st, a := false,
    k := [], d := none, w := none, q := [], qWait := false, biOwner := none, grant := false, grantOnly := false, fwdTo := none,
    after := none, got := none, held := [], done := false, openFt := s.clk.ft, openRun := s.clk.run }

def hteAdd (h : Hte) (s : State) : State := { s with home := { s.home with htes := s.home.htes ++ [h] } }

/-- The HTE that holds a line in H. -/
def hteInH (s : State) (l : LAddr) : Option Hte := s.home.htes.find? fun h => h.line == l && h.h

/-! ### Messages of the home (R173, R188) -/

/-- A FWD-class message to an agent. `own` says that it is the home's own and not a forwarded request. -/
def fwdSend (op target : Nat) (l : LAddr) (h : Hte) (own keep ownr : Bool) (s : State) : State :=
  let m := h.req.msg
  let hd := if own then reqHdr op 0 Vc.fwd (sreqN s) (chipN s) (chipN s) 0 h.id 0 0 target (l.toNat * 128) keep ownr
    else reqHdr op 0 Vc.fwd (hReqid m) (hSrc m) (chipN s) (hTc m) (hTxid m) (hWtag m) 0 target (l.toNat * 128) keep ownr
  let ev := if op == Op.inv then 0x82 else if op == Op.backInv then 0x83 else 0x81
  let s := emit (if target % 2 = 0 then .d0 else .d1) { msg := { hdr := hd, beats := [], be := [] }, subj := none, post := .none } s
  let s := occR ev h.req 1 s
  traceEv (tev 0x08 [(146, 6, op), (138, 8, target), (130, 8, h.id), (118, 12, if own then sreqN s else hReqid m),
    (104, 14, if own then chipN s else hSrc m), (67, 37, l.toNat)] (if own then none else some (subjReq h.req)) none none (pipeOf s l)) s

/-- GRANT to the requester, with DATAF (R188). -/
def grantSend (h : Hte) (s : State) : State :=
  respond h.req.port h.req.msg (subjReq h.req) { op := Op.grant, vc := Vc.rsp, status := St.ok, b128 := !h.grantOnly } s

/-- INVs to a list of agents. -/
def invAll (ts : List Nat) (l : LAddr) (h : Hte) (own : Bool) (s : State) : State :=
  ts.foldl (fun s c => fwdSend Op.inv c l h own false false s) s

/-! ### The contention predictor (R180) -/

def predIdx (l : LAddr) : Nat := (l.extractLsb' 0 9 ^^^ l.extractLsb' 9 9).toNat
def predTag (l : LAddr) : BitVec 10 := l.extractLsb' 18 10

/-- A parity error resets the entry (Table 17.1). -/
def predCheck (i : Nat) (s : State) : State :=
  if Site.predictor i ∈ s.bad then
    { s with bad := s.bad.filter (· ≠ .predictor i), home := { s.home with pred := sset (fun _ => PredE.zero) s.home.pred i PredE.zero } }
  else s

/-- The procedure of R180; `agent` is 256 for a non-coherent requester. Answers the placement of an ATOM_C. -/
def predict (l : LAddr) (agent : Nat) (atomC other : Bool) (s : State) : Bool × State :=
  let i := predIdx l
  let s := predCheck i s
  let e0 := sget (fun _ => PredE.zero) s.home.pred i
  let e := if atomC && (!e0.v || e0.tag != predTag l) then { v := true, tag := predTag l, last := BitVec.ofNat 9 agent, c := if other then 4 else 2 } else e0
  let near := 4 ≤ e.c.toNat
  let e' : PredE := if e.v && e.tag == predTag l then
      { e with c := if e.last.toNat ≠ agent then BitVec.ofNat 3 (min (e.c.toNat + 2) 7) else BitVec.ofNat 3 (e.c.toNat - 1), last := BitVec.ofNat 9 agent }
    else e
  (near, { s with home := { s.home with pred := sset (fun _ => PredE.zero) s.home.pred i e' } })

end Sys2Proof.Machine
end

