-- ==== Sys2Proof/Machine/Home.lean ====
section
/-! DEFINITION. The home: coherent requests (Table 8.5), reclaims (Table 8.6), home transactions and their ends (Chapters 8 and 9). -/

namespace Sys2Proof.Machine

/-! ### Writing what an agent returned (R170, R359) -/

/-- The request under whose class and context home data for line `l` is written (R170). Data of its own line keeps what its classification
gave it (R25); a victim's line takes its attributes, set and cap now. -/
def homeReq (s : State) (r : Req) (l : LAddr) : Req :=
  let a := l.toNat * 128
  let m : Msg := { r.msg with hdr := BitVec.ofNat 256 (r.msg.hdr.toNat / 2 ^ 44 * 2 ^ 44 + a) }
  if hAspace r.msg = 0 ∧ hLine r.msg = l then { r with msg := m }
  else { r with msg := m, attr := ratAttr s.t a, set := BitVec.ofNat 14 (liveSet s l), hbank := hbankOf s.t l, cap := mcCap s.t, fen := none, exact := none }

/-- The watch update of home data, under the REQID it carries (R321). -/
def homeWatch (r : Req) (g : HData) (l : LAddr) (s : State) : State :=
  watchAcc { asp := 0, addr := l.toNat * 128, len := 128, reqid := g.reqid.toNat, src := chipN s, tc := r.tc.toNat, slice := false,
             op := hOpcode r.msg, wtag := hWtag r.msg, qc := r.qc, wm := fullMask, after := g.d, pipe := pipeOf s l } s

/-- Writes home data as a write of the whole line (R73); none while a miss entry or slot that it needs cannot be taken. Under WTHRU the line
leaves on M and DIRTY sets no D (R72, R170; log 37). -/
def homeWrite (r0 : Req) (l : LAddr) (g : HData) (s : State) : Option State :=
  let r := homeReq s r0 l
  let s := lookCheck (some (subjReq r)) l s
  let fin := fun (s : State) => homeWatch r g l (if g.poi then s else plistDrop l s)
  let thru := r.attr.wpol == 2
  let dirty := g.poi || (!thru && g.dirty)
  let around := fun (s : State) =>
    match missRefuse s r with
    | some _ => none
    | none =>
      let e := { missNew s r .around .writeOut g.d fullMask with dirty := true, wrote := true, poi := g.poi, hpoi := g.poi }
      some (fin (mwPush (.around e.id) (missAdd e s)))
  match placeOf s l with
  | .way k =>
    let s := demandHit r k s
    let e := tagGet s k
    let s := dataPut k g.d fullMask (tagSet k { e with poi := g.poi, d := e.d || dirty } s)
    some (fin (if thru then sendThru r g.d fullMask g.poi e.sealed e.qc e.tc s else s))
  | .mire m =>
    some (fin (mireMod m.id (fun m => { m with data := g.d, poi := g.poi, redirty := m.redirty || m.sent || m.macOut }) s))
  | .miss e =>
    if !missTakes e || !missRoom e then none
    else
      let s := missMod e.id (fun e => { e with nAtt := e.nAtt + 1 }) s
      let put := fun (e : Miss) => missHome g.d g.poi g.dirty thru e
      if missFilled e then some (fin (missMod e.id put s))
      else some (fin (missMod e.id (fun e => { put e with att := e.att ++ [.homeWr g.d g.poi g.dirty thru] }) s))
  | .absent =>
    if r.attr.wpol != 0 then around s
    else
      let i : Inst := { line := l, data := g.d, set := r.set.toNat, qc := r.qc, tc := r.tc, pf := false, sealed := r.attr.sealed, poi := g.poi, d := dirty, touch := true,
                        who := some (subjReq r) }
      match tryInstall i s with
      | .ok s => some (fin s)
      | .noVictim => around (occR 0x26 r 1 s)
      | .mireWait =>
        match missRefuse s r with
        | some _ => none
        | none =>
          let e := { missNew s r .whole .waitInstall g.d fullMask with dirty := dirty, wrote := true, poi := g.poi, hpoi := g.poi }
          some (fin (missAdd e s))

/-- The home marks a line poisoned (R359). -/
def homePoison (l : LAddr) (tc : BitVec 4) (who : Option (Nat × Nat)) (s : State) : State :=
  let list := plistAdd l { cause := 0x14, sev := 1, page := true, aspace := 0, laddr := l.toNat, tc := tc.toNat, who := who }
  match placeOf s l with
  | .way k => tagSet k { tagGet s k with poi := true, d := true } s
  | .mire m => mireMod m.id (fun m => { m with poi := true, redirty := m.redirty || m.sent || m.macOut }) s
  | .miss e =>
    if !missTakes e then list s
    else if missFilled e then missMod e.id (missPoison true) s
    else missMod e.id (fun e => { e with att := e.att ++ [.poison true] }) s
  | .absent => list s

/-! ### Ends of H states (R193) -/

/-- Nothing is left to await in an H state. -/
def hReady (h : Hte) : Bool := h.h && h.k.isEmpty && h.d.isNone && h.w.isNone && !h.qWait

/-- Sets a line's entry to what an HTE leaves (Table 9.2); the entry keeps its place. -/
def sedgeLeave (l : LAddr) (after : Option SedgeE) (s : State) : State :=
  match sedgeFind s l with
  | none => s
  | some k =>
    let c := sedgeGet s k
    match after with
    | none => sedgeSet k SedgeE.zero s
    | some a =>
      let a := { a with hg := c.hg, shi := c.shi, tag := c.tag }
      sedgeSet k (if a.st == 1 then settleS a else a) s

/-- Requests to be looked up again, in attachment order, before those of the line that already wait for it (R193). -/
def relookAdd (l : List Req) (s : State) : State := { s with home := { s.home with relook := l ++ s.home.relook } }

/-- The data that an H state received is written; none while it cannot be. -/
def hData (h : Hte) (s : State) : Option State :=
  match h.got with
  | some g => homeWrite h.req h.line g s
  | none => some s

/-- The request's own access at the end of an H state, then the entry, then the requests that waited (R193). The line stays in H while the
access cannot take what it needs: the data is written, and HTE_DEFERRED_WRITE tries the access again (log 37). -/
def hAccess (h : Hte) (s : State) : State :=
  match memAccess h.req s with
  | .hold _ s => hteMod h.id (fun h => { h with got := none }) s
  | .done s | .attached s =>
    let s := sedgeLeave h.line h.after s
    if h.req.src = .port then relookAdd h.held (hteMod h.id (fun h => { h with h := false, held := [], done := true }) s)
    else relookAdd h.held (hteDrop h.id s)

/-- What the end of an H state does once its data is written. -/
def hFinish (h : Hte) (s : State) : State :=
  match h.kind with
  | .wb => relookAdd h.held (hteDrop h.id (sedgeLeave h.line h.after s))
  | .backInv => relookAdd (if h.req.src = .own then h.held else h.req :: h.held) (hteDrop h.id (sedgeLeave h.line h.after s))
  | _ => hAccess h s

/-- The end of an H state whose answers are all in; the HTE keeps H while its data cannot be written. -/
def hEnd (id : Nat) (s : State) : State :=
  match hteGet s id with
  | none => s
  | some h => match hData h s with | none => s | some s => hFinish h s

/-- Ends an H state if nothing is left to await. -/
def hTry (id : Nat) (s : State) : State :=
  match hteGet s id with
  | some h => if hReady h then hEnd id s else s
  | none => s

/-! ### Opening steps -/

/-- A request attaches to the HTE that holds its line in H (R172). -/
def hAttach (r : Req) (h : Hte) (s : State) : StepRes :=
  let s := ctlUse (.hte h.id) (some (subjReq r)) s
  if 16 ≤ h.held.length then .hold .hte s
  else
    let aw := ((h.k ++ h.d.toList ++ h.w.toList).map BitVec.toNat).foldl (fun (a : Option Nat) c => some (match a with | some x => min x c | none => c)) none
    .attached (traceEv (tev 0x09 [(144, 8, h.id), (138, 6, hOpcode r.msg), (126, 12, hReqid r.msg), (112, 14, hSrc r.msg), (96, 16, hTxid r.msg),
        (59, 37, h.line.toNat), (58, 1, b2n aw.isSome), (50, 8, aw.getD 0)] (some (subjReq r)) none none (pipeOf s h.line))
      (hteMod h.id (fun h => { h with held := h.held ++ [r] }) s))

/-- Moves entry `k` to H under a new HTE, sends what the opening sends, and ends H at once when it awaits nothing. -/
def hOpen (h : Hte) (k : Nat) (send : State → State) (s : State) : State :=
  let h := { h with h := true }
  hTry h.id (send (sedgeSet k { sedgeGet s k with st := 4 } (hteAdd h s)))

/-- BACK_INVs to agents `ts`. -/
def backInvs (ts ow : List Nat) (l : LAddr) (h : Hte) (s : State) : State :=
  ts.foldl (fun s c => fwdSend Op.backInv c l h true false (ow.contains c) s) s

/-- BACK_INV of a victim on behalf of request `r` (R166). -/
def backInvalidate (r : Req) (k : Nat) (s : State) : StepRes :=
  if !hteFree s then .hold .hte s
  else
    let e := sedgeGet s k
    let l := sedgeLine s k
    let ow := if e.ov then [e.owner.toNat] else []
    let ts := invSet s e ++ ow
    let h := { hteNew s r l .backInv e.st with k := ts.map (BitVec.ofNat 8), biOwner := if e.ov then some e.owner else none }
    .attached (hOpen h k (backInvs ts ow l h) s)

/-- What the home does for a coherent request that it acts on without H (a row of Table 8.5). -/
structure CohAct where
  kind  : HKind
  key   : Nat
  entry : SedgeE
  read  : Option (Nat × Bool)
  fwd   : Option (Nat × Nat)
  invs  : List Nat
  owner : Option Nat
  grant : Bool
  only  : Bool

/-- The HTE of such a row. -/
def cohHte (r : Req) (a : CohAct) (s : State) : Hte :=
  { hteNew s r (hLine r.msg) a.kind (sedgeGet s a.key).st with
    a := true, k := a.invs.map (BitVec.ofNat 8), grant := a.grant, grantOnly := a.only,
    fwdTo := match a.fwd with | some (o, x) => if o == Op.fwdShr then some (BitVec.ofNat 8 x) else none | none => none }

/-- The row's forward. -/
def cohFwd (r : Req) (a : CohAct) (h : Hte) (s : State) : State :=
  match a.fwd with
  | some (o, x) => fwdSend o x (hLine r.msg) h false false false s
  | none => s

/-- The row's INVs, and its GRANT when no INV is awaited. -/
def cohInvs (r : Req) (a : CohAct) (h : Hte) (s : State) : State :=
  let s := a.invs.foldl (fun s c => fwdSend Op.inv c (hLine r.msg) h false false (a.owner == some c) s) s
  if a.grant && a.invs.isEmpty then grantSend h (hteMod h.id (fun h => { h with grant := false }) s) else s

/-- HTE, entry, forward, INVs and GRANT of such a row (R169, R172). `adj` is what the step does to demand, counts and predictor. -/
def cohFin (r : Req) (a : CohAct) (adj : State → State) (s : State) : State :=
  let h := cohHte r a s
  cohInvs r a h (cohFwd r a h (adj (splruTouch a.key (sedgeSet a.key a.entry (hteAdd h s)))))

/-- Performs such a row: the data it reads, and what `cohFin` does. -/
def cohAct (r : Req) (a : CohAct) (adj : State → State) (s : State) : StepRes :=
  if !hteFree s then .hold .hte s
  else
    match a.read with
    | none => .done (cohFin r a adj (watchAcc (accReq r 128 0 0) (if a.fwd.isSome && hOpcode r.msg != Op.upgrade then addServed r 128 s else s)))
    | some g =>
      match memRead r (.coh g.1 g.2) s with
      | .done s => .done (cohFin r a adj s)
      | x => x

/-- Gives a request a new Sedge entry (R166, R167). -/
def withRoom (r : Req) (k : Nat → StepRes) (s : State) : StepRes :=
  match sedgeRoom s (liveSet s (hLine r.msg)) with
  | .free j => k j
  | .victim j => backInvalidate r j s
  | .allH => .done (compTo r.port r.msg (subjReq r) St.retry 0 (occR 0x14 r 1 s))

/-- RD_SHR (Table 8.5). -/
def homeRdShr (r : Req) (ent : Option Nat) (s : State) : StepRes :=
  let c := hCagent r.msg
  match ent with
  | none =>
    withRoom r (fun j =>
      let n := sedgeNew s (hLine r.msg)
      let act : CohAct := { kind := .rdShr, key := j, entry := if r.attr.ro then addSharer n c else ownE n c, read := some (if r.attr.ro then 0 else 1, false),
                            fwd := none, invs := [], owner := none, grant := false, only := false }
      cohAct r act id s) s
  | some j =>
    let e := sedgeGet s j
    let act : CohAct := { kind := .rdShr, key := j, entry := addSharer (if e.st == 1 then e else { e with st := 3 }) c,
                          read := if e.st == 1 then some (0, false) else none,
                          fwd := if e.st == 1 then none else some (Op.fwdShr, e.owner.toNat), invs := [], owner := none, grant := false, only := false }
    cohAct r act id s

/-- RD_UNQ, an UPGRADE treated as one, and a far ATOM_C (Table 8.5). -/
def homeRdUnq (r : Req) (ent : Option Nat) (adj : State → State) (s : State) : StepRes :=
  let c := hCagent r.msg
  match ent with
  | none =>
    withRoom r (fun j =>
      let act : CohAct := { kind := .rdUnq, key := j, entry := ownE (sedgeNew s (hLine r.msg)) c, read := some (2, false), fwd := none, invs := [],
                            owner := none, grant := false, only := false }
      cohAct r act adj s) s
  | some j =>
    let e := sedgeGet s j
    let invs := (invSet s e).filter (· ≠ c)
    let act : CohAct := { kind := .rdUnq, key := j, entry := ownE e c, read := if e.st == 1 then some (2, !invs.isEmpty) else none,
                          fwd := if e.st == 1 then none else some (Op.fwdUnq, e.owner.toNat), invs := invs, owner := none,
                          grant := e.st != 1 || !invs.isEmpty, only := false }
    cohAct r act adj s

/-- UPGRADE (Table 8.5, R165). -/
def homeUpgrade (r : Req) (ent : Option Nat) (s : State) : StepRes :=
  let c := hCagent r.msg
  match ent with
  | none => homeRdUnq r none id s
  | some j =>
    let e := sedgeGet s j
    if (e.st == 1 || e.st == 3) && !e.cv && isSharer e c then
      let act : CohAct := { kind := .upgrade, key := j, entry := ownE e c, read := none, fwd := none,
                            invs := (invSet s e).filter (· ≠ c) ++ (if e.ov then [e.owner.toNat] else []),
                            owner := if e.ov then some e.owner.toNat else none, grant := true, only := true }
      cohAct r act id s
    else homeRdUnq r ent id s

/-- PULL to the owner, keeping a copy or not, and INVs to agents `ts`. -/
def takeSend (e : SedgeE) (l : LAddr) (h : Hte) (pull : Option Bool) (ts : List Nat) (s : State) : State :=
  let s := match pull with | some keep => fwdSend Op.pull e.owner.toNat l h true keep false s | none => s
  ts.foldl (fun s c => fwdSend Op.inv c l h true false (isOwner e c) s) s

/-- An access for which the home takes charge of the line: PULL to the owner, INVs to others, then R193. -/
def homeTake (r : Req) (kind : HKind) (j : Nat) (pull : Option Bool) (invs : List Nat) (invOwner : Bool) (after : Option SedgeE)
    (adj : State → State) (s : State) : StepRes :=
  if !hteFree s then .hold .hte s
  else
    let e := sedgeGet s j
    let l := hLine r.msg
    let ts := invs ++ (if invOwner && e.ov then [e.owner.toNat] else [])
    let h := { hteNew s r l kind e.st with k := ts.map (BitVec.ofNat 8), d := if pull.isSome then some e.owner else none, after := after }
    .done (hOpen h j (takeSend e l h pull ts) (splruTouch j (adj s)))

/-- ST S with the owner among the sharers (RD_ONCE and reads at E or O). -/
def afterRead (e : SedgeE) : SedgeE := addSharer (noOwner e) e.owner.toNat

/-- An HTE that waits only for its response to leave (Table 8.3). -/
def openDone (r : Req) (kind : HKind) (s : State) : State := hteAdd { hteNew s r (hLine r.msg) kind 0 with done := true } s

def setPred (p : Store PredE) (s : State) : State := { s with home := { s.home with pred := p } }

/-- An ATOM_C performed near: its count, and the predictor after it. -/
def nearAdj (r : Req) (p : Store PredE) (s : State) : State := occR 0x85 r 1 (setPred p s)

/-- An ATOM_C performed far moves the whole line. -/
def farAdj (r : Req) (p : Store PredE) (s : State) : State :=
  occR 0x86 r 1 (addDemand r (128 - atomSize (hFmt r.msg)) (setPred p s))

/-- ATOM_C performed at the home. -/
def atomNear (r : Req) (ent : Option Nat) (p : Store PredE) (s : State) : StepRes :=
  match ent with
  | some j =>
    let e := sedgeGet s j
    homeTake r .atomNear j (if e.st == 1 then none else some false) (invSet s e) false none (nearAdj r p) s
  | none =>
    if !hteFree s then .hold .hte s
    else match memOp r s with
      | .done s => .done (openDone r .atomNear (nearAdj r p s))
      | x => x

/-- ATOM_C (R179, Table 8.5). -/
def homeAtomC (r : Req) (ent : Option Nat) (s : State) : StepRes :=
  let l := hLine r.msg
  let c := hCagent r.msg
  let s' := predCheck (predIdx l) s
  let p := predict l c true (otherHolder (ent.map (sedgeGet s)) c) s'
  if p.1 then atomNear r ent p.2.home.pred s' else homeRdUnq r ent (farAdj r p.2.home.pred) s'

/-- A read that the home serves from its copy while its entry `j` is in S: a use of the entry (R63, R163). -/
def hitRead (j : Nat) (r : Req) (s : State) : StepRes :=
  match memRead r .plain s with
  | .done s => .done (splruTouch j s)
  | x => x

/-- RD_ONCE (Table 8.5). -/
def homeRdOnce (r : Req) (ent : Option Nat) (s : State) : StepRes :=
  match ent with
  | none => memRead r .plain s
  | some j =>
    let e := sedgeGet s j
    if e.st == 1 then hitRead j r s
    else homeTake r .rdOnce j (some true) [] false (some (afterRead e)) id s

/-- COMP of a WB or EVICT, with STALE (R188). -/
def relComp (r : Req) (stale : Bool) (s : State) : State :=
  respond r.port r.msg (subjReq r) { op := Op.comp, vc := Vc.rsp, status := St.ok, b128 := stale } s

def wbPullSend (r : Req) (s : State) : State := respond r.port r.msg (subjReq r) { op := Op.wbPull, vc := Vc.rsp, status := St.ok } s

/-- Open forward HTEs of a departing owner (R190). -/
def fwdHtes (s : State) (l : LAddr) (c : Nat) : List Nat :=
  (s.home.htes.filter fun h => h.line == l && h.a && h.fwdTo == some (BitVec.ofNat 8 c)).map Hte.id

/-- The entry after an agent leaves: an owner makes the home owner (Table 8.5, R192). -/
def afterLeave (e : SedgeE) (c : Nat) : SedgeE :=
  if isOwner e c then settleS { e with st := 1 }
  else
    let e := dropSharer e c
    if e.st == 1 && noSharers e then SedgeE.zero else e

/-- EVICT, and a WB from a sharer (R191). -/
def homeEvict (r : Req) (ent : Option Nat) (s : State) : StepRes :=
  let c := hCagent r.msg
  let l := hLine r.msg
  if !hteFree s then .hold .hte s
  else
    match ent with
    | none => .done (openDone r .evict (relComp r true s))
    | some j =>
      let e := sedgeGet s j
      if isOwner e c || isSharer e c then
        let s := sedgeSet j (afterLeave e c) (splruTouch j s)
        let q := if isOwner e c then fwdHtes s l c else []
        if q.isEmpty then .done (openDone r .evict (relComp r false s))
        else .done (hteAdd { hteNew s r l .evict e.st with q := q, qWait := true } s)
      else .done (openDone r .evict (relComp r true (splruTouch j s)))

/-- WB from the owner: the home takes charge, and pulls the data at once or after the forwards that name the owner (R190). -/
def wbTake (r : Req) (j : Nat) (s : State) : State :=
  let e := sedgeGet s j
  let c := hCagent r.msg
  let q := fwdHtes s (hLine r.msg) c
  let h := { hteNew s r (hLine r.msg) .wb e.st with
             after := some (noOwner e), q := q, qWait := !q.isEmpty,
             w := if q.isEmpty then some (BitVec.ofNat 8 c) else none }
  hOpen h j (if q.isEmpty then wbPullSend r else id) (splruTouch j s)

/-- WB (R175, R190, R191). -/
def homeWb (r : Req) (ent : Option Nat) (s : State) : StepRes :=
  if !hteFree s then .hold .hte s
  else
    match ent with
    | none => .done (relComp r true (addServed r 128 s))
    | some j =>
      let e := sedgeGet s j
      if isOwner e (hCagent r.msg) then .done (wbTake r j (addServed r 128 s))
      else if isSharer e (hCagent r.msg) then homeEvict r ent (addServed r 128 s)
      else .done (relComp r true (splruTouch j (addServed r 128 s)))

/-- The tag-pipe step of a coherent request at the home (R169, Table 8.5). -/
def homeStep (r : Req) (s : State) : StepRes :=
  let l := hLine r.msg
  let o := hOpcode r.msg
  let s := (candSets s l).foldl (fun s x => sedgeCheck (some (subjReq r)) x s) s
  match hteInH s l with
  | some h => hAttach r h s
  | none =>
    let ent := sedgeFind s l
    let res :=
      if o == Op.rdShr then homeRdShr r ent s
      else if o == Op.rdUnq then homeRdUnq r ent id s
      else if o == Op.upgrade then homeUpgrade r ent s
      else if o == Op.atomC then homeAtomC r ent s
      else if o == Op.rdOnce then homeRdOnce r ent s
      else if o == Op.wb then homeWb r ent s
      else homeEvict r ent s
    match res with
    | .done s => .done (occR 0x80 r 1 s)
    | x => x

/-- The predictor update of an engine's RED or ATOM that hits an entry (R180). -/
def enginePredict (r : Req) (s : State) : State :=
  let o := hOpcode r.msg
  if pdOn s 68 && (o == Op.red || o == Op.atom) then (predict (hLine r.msg) 256 false false s).2 else s

/-- The access itself, with the predictor's update. -/
def gateGo (r : Req) (s : State) : StepRes :=
  match memAccess r s with
  | .done s => .done (enginePredict r s)
  | x => x

def reclaimAdj (r : Req) (s : State) : State := occR 0x84 r 1 (enginePredict r s)

/-- A Mace element's access. -/
def ofMace : Src → Bool
  | .mace _ _ => true
  | _ => false

/-- The access finds entry `j` for its line (Table 8.6). Every Mace scatter element is of the partial row, whatever it covers. -/
def gateEntry (r : Req) (j : Nat) (s : State) : StepRes :=
  let e := sedgeGet s j
  if hOpcode r.msg == Op.rd then
    if e.st == 1 then hitRead j r s else homeTake r .reclaim j (some true) [] false (some (afterRead e)) (reclaimAdj r) s
  else if e.st == 1 then homeTake r .reclaim j none (invSet s e) false none (reclaimAdj r) s
  else if hOpcode r.msg == Op.wr && wrWhole r.msg && !ofMace r.src then homeTake r .reclaim j none (invSet s e) true none (reclaimAdj r) s
  else homeTake r .reclaim j (some false) (invSet s e) false none (reclaimAdj r) s

/-- The tag-pipe step of a non-coherent MEM access: the reclaim of Table 8.6, or the access itself. -/
def homeGate (r : Req) (s : State) : StepRes :=
  if !pdOn s 68 then memAccess r s
  else
    let s := (candSets s (hLine r.msg)).foldl (fun s x => sedgeCheck (some (subjReq r)) x s) s
    match hteInH s (hLine r.msg) with
    | some h => hAttach r h s
    | none => match sedgeFind s (hLine r.msg) with | none => gateGo r s | some j => gateEntry r j s

/-! ### Answers to the home (R194, Table 9.3) -/

/-- The FWD-class messages of this HTE are the home's own (R173). -/
def hteOwnMsgs (h : Hte) : Bool := h.h

/-- REQID and TXID of an answer to a FWD-class message of an HTE. -/
def answers (s : State) (h : Hte) (m : Msg) : Bool :=
  if hteOwnMsgs h then hReqid m == sreqN s && hTxid m == h.id else hReqid m == hReqid h.req.msg && hTxid m == hTxid h.req.msg

/-- REQID and TXID of the request that opened an HTE. -/
def ofOpener (h : Hte) (m : Msg) : Bool := hReqid m == hReqid h.req.msg && hTxid m == hTxid h.req.msg

/-- The HTE awaits an answer of this kind from its sender (Table 9.3, R194). -/
def hteAwaits (m : Msg) (h : Hte) : Bool :=
  let o := hOpcode m
  let c := BitVec.ofNat 8 (hCagent m)
  if o == Op.snpAck then h.k.contains c
  else if o == Op.compAck then h.a && !h.h && h.k.isEmpty && !h.grant && hCagent h.req.msg == hCagent m
  else if o == Op.dataHome then h.h && (h.d == some c || (h.biOwner == some c && h.k.contains c))
  else h.h && h.w == some c

/-- The answer names this HTE by the REQID and TXID it copies (R173). -/
def hteNamed (s : State) (m : Msg) (h : Hte) : Bool :=
  if hOpcode m == Op.snpAck || hOpcode m == Op.dataHome then answers s h m else ofOpener h m

/-- The HTE that an answer closes or advances (Table 9.3, R194). An answer copies REQID and TXID
from what it answers (R173), so of several HTEs that await it the one it names takes it; R194 does
not list a wrong TXID, so with none named the oldest that awaits it does (DEDUCED, log 26). -/
def answerHte (s : State) (m : Msg) : Option Hte :=
  if hAspace m ≠ 0 then none
  else
    let l := s.home.htes.filter fun h => h.line == hLine m && !h.done && hteAwaits m h
    match l.find? (hteNamed s m) with
    | some h => some h
    | none => l.head?

/-- An HTE closes: a Q wait that names it may end (R190, Table 9.3). -/
def hteClose (id : Nat) (s : State) : State :=
  let s := hteDrop id s
  s.home.htes.foldl (fun s h =>
    if h.qWait && h.q.contains id then
      let q := h.q.filter (· ≠ id)
      if q.isEmpty then
        if h.kind = .wb then wbPullSend h.req (hteMod h.id (fun x => { x with q := [], qWait := false, w := some (BitVec.ofNat 8 (hCagent x.req.msg)) }) s)
        else relComp h.req false (hteMod h.id (fun x => { x with q := [], qWait := false, done := true }) s)
      else hteMod h.id (fun x => { x with q := q }) s
    else s) s

/-- SNP_ACK from an awaited agent. -/
def snpAckAt (h : Hte) (m : Msg) (s : State) : State :=
  let c := BitVec.ofNat 8 (hCagent m)
  let s := hteMod h.id (fun x => { x with k := x.k.filter (· ≠ c), biOwner := if x.biOwner = some c then none else x.biOwner }) (ctlUse (.hte h.id) (some (subjReq h.req)) s)
  match hteGet s h.id with
  | none => s
  | some x =>
    if x.h then hTry x.id s
    else if x.k.isEmpty && x.grant then grantSend x (hteMod x.id (fun x => { x with grant := false }) s)
    else s

/-- DATA_HOME or WB_DATA from the agent awaited. -/
def homeDataAt (h : Hte) (m : Msg) (s : State) : State :=
  let c := BitVec.ofNat 8 (hCagent m)
  let poi := hStatus m != St.ok
  let g : HData := { d := msgTwo m, dirty := nbit (hResult m) 0, poi := poi, agent := c, reqid := BitVec.ofNat 12 (hReqid m) }
  let s := ctlUse (.hte h.id) (some (subjReq h.req)) s
  let s := if poi then logErr { cause := 0x19, sev := 1, aspace := 0, laddr := h.line.toNat, tc := h.req.tc.toNat, who := whoReq h.req, cagent := hCagent m } s else s
  hTry h.id (hteMod h.id (fun x => { x with got := some g, d := none, w := none, k := x.k.filter (· ≠ c),
                                            biOwner := if x.biOwner = some c then none else x.biOwner }) s)

/-! ### The home timeout (R185, R199, Table 9.7) -/

/-- The HTE has been open for the home timeout. -/
def hteExpired (s : State) (h : Hte) : Bool := Config.timeoutTicks ≤ s.clk.run - h.openRun && !h.done && !h.qWait && !hReady h

/-- The entry that an H state leaves when it times out: one of a PULL that its owner never answered records that owner no longer (R199). -/
def afterTimeout (s : State) (h : Hte) : Option SedgeE :=
  if h.d.isSome then h.after.map fun a => match sedgeFind s h.line with | some k => noOwner (sedgeGet s k) | none => a
  else h.after

/-- HOME_TIMEOUT records: one for each removed agent, or one for the requester (R364). -/
def timeoutRecs (h : Hte) (poi : Bool) (l : List (BitVec 8)) (s : State) : State :=
  let rec1 := fun (c : Nat) (s : State) =>
    logErr { cause := 0x18, sev := b2n poi, aspace := 0, laddr := h.line.toNat, tc := h.req.tc.toNat, who := whoReq h.req, cagent := c, hte := h.id } s
  if l.isEmpty then rec1 (hCagent h.req.msg) s else l.foldl (fun s c => rec1 c.toNat s) s

/-- GST of a request that took no H state. -/
def gstOf (h : Hte) : Nat :=
  match h.kind with
  | .rdShr => if h.stOpen == 0 && !h.req.attr.ro then 1 else 0
  | _ => 2

/-- The home ends an HTE (Table 9.7). Data that an H state has received is written as ever: while it cannot be, the HTE keeps the line in H for
that alone (R170). -/
def homeTimeoutAt (h : Hte) (s : State) : State :=
  let s := occR 0x88 h.req 1 (ctlUse (.hte h.id) (some (subjReq h.req)) s)
  if !h.h then
    let s := timeoutRecs h false h.k s
    let s := respond h.req.port h.req.msg (subjReq h.req) { op := Op.data, vc := Vc.dat, status := St.timeout, result := gstOf h } s
    hteClose h.id s
  else
    let poi := h.d.isSome || h.w.isSome || h.biOwner.isSome
    let gone := h.k ++ h.d.toList ++ h.w.toList
    let s := timeoutRecs h poi gone s
    let s := if poi then homePoison h.line h.req.tc (whoReq h.req) s else s
    let s := if h.kind = .wb then s else reqFail h.req St.timeout s
    let s := h.held.foldl (fun s r => reqFail r St.timeout s) s
    let x := { h with kind := .wb, k := [], d := none, w := none, biOwner := none, held := [], after := afterTimeout s h }
    hEnd h.id (hteMod h.id (fun _ => x) s)

end Sys2Proof.Machine
end

