-- ==== Sys2Proof/Machine/Fen.lean ====
section
/-! DEFINITION. The Fen: frames, segments, FEN-space accesses, exact regions, transfers and flips (Chapters 4 and 6). -/

namespace Sys2Proof.Machine

/-! ### Frames and the pool (R83, R84, R86, R277) -/

/-- Banks of a way group: both parities. -/
def groupBanks (g : Nat) : List Nat := (List.range 4).flatMap fun i => [4 * g + i, 32 + 4 * g + i]

/-- A group whose frames are withheld (R277). -/
def groupWithheld (s : State) (g : Nat) : Bool := (groupBanks g).any fun b => !bankUsable s b

def groupIsFen (s : State) (g : Nat) : Bool := !groupIsCache s g

/-- Free frames in the order in which they are taken, those of the groups in `x` left out. -/
def freeFrames (s : State) (x : Nat) : List Nat :=
  let used := usedFrames s
  ([7, 6, 5, 4, 3, 2, 1, 0].filter fun g => groupIsFen s g && !groupConverts s g && !groupWithheld s g && !nbit x g).flatMap fun g =>
    ((List.range 128).map fun i => 128 * g + i).filter fun f => !used.contains f

/-- Frames in converting way groups. -/
def convFrames (s : State) (x : Nat) : Nat :=
  128 * ((List.range 8).filter fun g => groupConverts s g && !groupWithheld s g && !nbit x g).length

/-- Frames withheld under R277. -/
def heldFrames (s : State) : Nat :=
  let used := usedFrames s
  (((List.range 8).filter fun g => groupWithheld s g).flatMap fun g =>
    ((List.range 128).map fun i => 128 * g + i).filter fun f => !used.contains f).length

def headroom (s : State) : Nat := 128 * (8 - partFloor s.t - partFencnt s.t)

/-- RES1 and RES2 of FEN_ALLOC and ACC_OPEN. -/
def poolRes (s : State) : List Nat := [convFrames s 0 * 65536 + (freeFrames s 0).length, headroom s]

/-- Way keys of a frame's lines. -/
def frameKeys (f : Nat) : List Nat := (List.range 512).map (frameKey f)

/-- Zeroes the lines of frames and gives them to a context (R62, R84, R134). -/
def zeroFrames (fs : List Nat) (tc : BitVec 4) (s : State) : State :=
  let mine := fun (k : Nat) => fs.contains (keyFrame k)
  let s := { s with arr := { s.arr with data := s.arr.data.filter fun x => !mine x.1 },
                    bad := s.bad.filter fun x => match x with | .data k _ => !mine k | _ => true }
  (fs.flatMap frameKeys).foldl (fun s k => tagSet k { TagE.zero with v := true, tc := tc } s) s

/-- Freed frames hold no valid entry. -/
def dropFrames (fs : List Nat) (s : State) : State := (fs.flatMap frameKeys).foldl (fun s k => tagSet k TagE.zero s) s

/-! ### Segments and classification (R17, R85, R91, R131, R132) -/

def segFind (s : State) (i : Nat) : Option Seg := s.fen.segs.find? (·.id = i)

def segMod (i : Nat) (f : Seg → Seg) (s : State) : State := { s with fen := { s.fen with segs := lmod (·.id = i) f s.fen.segs } }

/-- LO is held: no flip has passed the end of its SCLK T (R93). -/
def loHeld (s : State) (g : Seg) : Bool :=
  match g.flip with
  | some f => f.readyAt.isNone || f.readyAt == some s.clk.sclk
  | none => true

/-- The copy that holds an epoch, if the segment holds it. -/
def copyOf (s : State) (g : Seg) (ep : BitVec 2) : Option Bool :=
  if !g.dual then some false
  else if ep == g.lo then (if loHeld s g then some g.loB else none)
  else if ep == g.lo + 1 then some (!g.loB)
  else none

/-- Frame and line of an offset in a copy of a segment. -/
def fenLoc (g : Seg) (copyB : Bool) (off : Nat) : FenLoc :=
  { seg := g.id, copyB := copyB, epoch := if g.dual then (if copyB == g.loB then g.lo else g.lo + 1) else 0,
    frame := (if copyB then g.fb else g.fa).getD (off / 65536) 0, line := off % 65536 / 128, off := off }

/-- SCLK T has ended (R93, R139). -/
def sclkPast (s : State) (t : Option Nat) : Bool := match t with | some t => t < s.clk.sclk | none => false

/-- Lines of a region's window (R131). -/
def windowLines (r : Region) : Nat := cdiv r.n 32

/-- A region accepts contributions: open, and no resolve of it past the end of its SCLK T (R139). -/
def regionTakes (s : State) (r : Region) : Bool :=
  r.opened && (match r.res with | none => true | some x => !x.start && (x.readyAt.isNone || x.readyAt == some s.clk.sclk))

/-- The open region whose window holds an offset. -/
def regionAt (s : State) (seg off : Nat) : Option Region :=
  s.fen.regions.find? fun r => r.seg == seg && r.rbase ≤ off && off < r.rbase + 128 * windowLines r && regionTakes s r

/-- What an access asks of a Fen address. -/
inductive FenAsk where
  | plain
  | arith (accepted : Bool) (elems : Nat → List Nat)

/-- The outcome of classification in FEN space. -/
inductive FenCls where
  | ok (l : FenLoc) (rid : Option Nat)
  | deny | stale | unsup
deriving DecidableEq, Repr

/-- Steps 2 and 3 of Table 2.9 in FEN space (R17, R85, R91, R131, R132). Only what the region accepts is DENIED for an element at or past N:
what it does not accept gives UNSUPPORTED whatever it names (log 35). -/
def fenClass (s : State) (a tc : Nat) (ep : BitVec 2) (ask : FenAsk) : FenCls :=
  let off := a % 2 ^ 26
  match segFind s (a / 2 ^ 26) with
  | none => .deny
  | some g =>
    if !(g.owner.toNat == tc || nbit g.tcmask.toNat tc) || g.gran * 65536 ≤ off then .deny
    else
      let reg := match ask with | .plain => none | .arith _ _ => regionAt s g.id off
      let out := match reg, ask with
        | some r, .arith true el => (el ((off - r.rbase) / 128)).any fun n => r.n ≤ n
        | _, _ => false
      if out then .deny
      else match copyOf s g ep with
        | none => .stale
        | some c =>
          match reg, ask with
          | some r, .arith true _ => .ok (fenLoc g c off) (some r.rid)
          | some _, .arith false _ => .unsup
          | _, _ => .ok (fenLoc g c off) none

/-- What a request's message asks (R131, R132). -/
def msgAsk (m : Msg) : FenAsk :=
  let o := hOpcode m
  let f := hFmt m
  if o == Op.red then
    .arith (hOp m == 0 && 1 ≤ f && f ≤ 11) fun l => (redContrs f (hOff m) (hLen m) (wrMask m) l 0).map Contr.n
  else if o == Op.atom then
    .arith (hOp m == 0 && 1 ≤ f && f ≤ 5 && !hRet m) fun l => [l * eplOf f + hOff m / fmtUnit f]
  else .plain

/-! ### Lines of frames -/

/-- Key of a located line. -/
def locKey (l : FenLoc) : Nat := frameKey l.frame l.line

/-- The line's bank is retired: served without use of the bank (R362). -/
def keyRetired (s : State) (k : Nat) : Bool := (bankGet s (bankOfKey k)).retired

/-- Reads a frame line under the checks of Table 17.2. -/
def frameRead (j : Option Subj) (k : Nat) (s : State) : (Line × Bool) × State :=
  let s := setCheck j (k / 32) s
  if keyRetired s k then ((0, true), s)
  else
    let s := (wayCheck j k s).2
    ((dataGet s k, (tagGet s k).poi), s)

/-- Writes bytes of a frame line; a clearing write clears POI, poisoned source data sets it (R353, R355). -/
def frameWrite (k : Nat) (d : Line) (m : Mask) (clears taint : Bool) (s : State) : State :=
  if keyRetired s k then s
  else
    let e := tagGet s k
    dataPut k d m (tagSet k { e with poi := taint || (e.poi && !clears) } s)

/-! ### Exact mode (R119 to R125, R131 to R137) -/

def regionFind (s : State) (i : Nat) : Option Region := s.fen.regions.find? (·.rid = i)

def regionMod (i : Nat) (f : Region → Region) (s : State) : State :=
  { s with fen := { s.fen with regions := lmod (·.rid = i) f s.fen.regions } }

/-- Key of accumulator line `a` of a region (R133). -/
def accKey (r : Region) (a : Nat) : Nat := frameKey (r.frames.getD (a / 512) 0) (a % 512)

/-- Keys of the ten lines of a group. -/
def groupKeys (r : Region) (g : Nat) : List Nat := (List.range 10).map fun j => accKey r (10 * g + j)

/-- The accumulator of an element (R120). -/
def accRead (s : State) (r : Region) (n : Nat) : Nat :=
  (List.range 10).foldl (fun a j => a + lineNat (dataGet s (accKey r (10 * (n / 32) + j))) (4 * (n % 32)) 4 * 2 ^ (32 * j)) 0

def accWrite (r : Region) (n v : Nat) (s : State) : State :=
  (List.range 10).foldl (fun s j =>
    let k := accKey r (10 * (n / 32) + j)
    dataPut k (linePut 0 (4 * (n % 32)) 4 (fld v (32 * j) 32)) (spanMask (4 * (n % 32)) 4) s) s

/-- Checks the ten lines of a group as a read does, and answers whether the group is poisoned. -/
def groupCheck (j : Option Subj) (r : Region) (g : Nat) (s : State) : Bool × State :=
  (groupKeys r g).foldl (fun x k => let y := frameRead j k x.2; (x.1 || y.1.2, y.2)) (false, s)

/-- One contribution reaches its accumulator (R121, R122, R355). Answers whether its group or its source is poisoned. -/
def contribute (q : ExactReq) (r : Region) (c : Contr) (s : State) : Bool × State :=
  let y := groupCheck (some (subjReq q.req)) r (c.n / 32) s
  if y.1 || q.poi then (true, poisonGroup r (c.n / 32) y.2)
  else
    let s := y.2
    let a := accRead s r c.n
    let b := accAdd a c
    let s := if fld a 318 2 ≠ 3 ∧ fld b 318 2 = 3 then occR 0x63 q.req 1 s else s
    (false, accWrite r c.n b (occR 0x61 q.req 1 s))

/-- A request takes a place in the exact queue (R137). -/
def exactPush (r : Req) (rid : Nat) (taint : Bool) (s : State) : StepRes :=
  if 64 ≤ s.fen.exactQ.length then .hold .exactQ s
  else
    let m := r.msg
    let l := match regionFind s rid with | some g => (hAddr m % 2 ^ 26 - g.rbase) / 128 | none => 0
    let f := hFmt m
    let todo := if hOpcode m == Op.red then redContrs f (hOff m) (hLen m) (wrMask m) l (msgLine m)
      else [contrOf f (l * eplOf f + hOff m / fmtUnit f) (atomA m % 2 ^ (8 * fmtUnit f)) none]
    let bytes := if hOpcode m == Op.red then maskCount (redMask m) else atomSize f
    let s := watchAcc (accReq r (spanLen m) 0 0) (addServed r (spanLen m) s)
    .done { s with fen := { s.fen with exactQ := s.fen.exactQ ++ [{ req := r, rid := rid, todo := todo, poi := taint, met := taint, bytes := bytes }] } }

/-- The oldest request leaves the exact queue; what its entry's parity holds leaves with it, and the others move up. -/
def exactPop (s : State) : State :=
  { s with fen := { s.fen with exactQ := s.fen.exactQ.tail },
           bad := (s.bad.filter (· ≠ .exact 0)).map fun x => match x with | .exact (i + 1) => .exact i | x => x }

/-- Clove adds up to eight elements of the oldest request (R104, R137). -/
def exactOne (s : State) : State :=
  match s.fen.exactQ with
  | [] => s
  | q :: rest =>
    let s := ctlUse (.exact 0) (some (subjReq q.req)) s
    match regionFind s q.rid with
    | none => exactPop s
    | some r =>
      let x := (q.todo.take 8).foldl (fun x c => let y := contribute q r c x.2; (x.1 || y.1, y.2)) (q.met, s)
      let s := x.2
      let left := q.todo.drop 8
      if left.isEmpty then
        deliverComp q.req x.1 0 0 (reqTally q.req q.bytes (exactPop s))
      else { s with fen := { s.fen with exactQ := { q with todo := left, met := x.1 } :: rest } }

/-! ### FEN-space accesses (R20, R91, R94, Table 6.1) -/

/-- CHAIN_DATA to entry 0 of the chain (R47). -/
def chainData (r : Req) (epoch : Nat) (d : Line) (poi : Bool) (s : State) : State :=
  let m := r.msg
  let h := rspHdr Op.chainData 0 (hAspace m) (chainEntry m 0) (chipN s) (hSrc m) (hTc m) (hTxid m) (hWtag m) (poiSt poi) 3 (hLen m) epoch (hCnt m) 0 0 (hAddr m) false
  let x : Msg := { hdr := h, beats := [lineBeat d 0, lineBeat d 1, m.beats.getD 0 0], be := List.replicate 3 (BitVec.allOnes 64) }
  emit .s { msg := x, subj := some (subjReq r), post := .none } s

/-- Events and shares of a FEN-space access. -/
def fenCount (r : Req) (s : State) : State :=
  if r.port == .s && r.src == .port then occR (if hOpcode r.msg == Op.wr then 0x52 else 0x51) r 1 s
  else if r.src == .port then addServed r (spanLen r.msg) (occR 0x50 r 1 s)
  else addServed r (spanLen r.msg) s

/-- The tag-pipe step of a FEN-space request at its line. -/
def fenStep (r : Req) (l : FenLoc) (s : State) : StepRes :=
  let taint := r.poi
  let m := r.msg
  let o := hOpcode m
  let k := locKey l
  let ep := l.epoch.toNat
  match r.exact with
  | some rid =>
    match exactPush r rid taint s with
    | .done s => .done (if r.src = .port then occR 0x50 r 1 s else s)
    | x => x
  | none =>
    let s := fenCount r s
    let dead := keyRetired s k
    if o == Op.wr then
      let s := setCheck (some (subjReq r)) (k / 32) s
      let d := (reqWrite r).1
      let wm := (reqWrite r).2
      let whole := wm == fullMask
      let poi := dead || taint || ((tagGet s k).poi && !whole)
      let s := frameWrite k d wm whole taint s
      .done (writeEnd r ep wm (if dead then 0 else dataGet s k) (BitVec.allOnes 16) poi s)
    else if o == Op.red || o == Op.atom then
      let y := frameRead (some (subjReq r)) k s
      let x := opOn r ep y.1.1 (y.1.2 || taint) true y.2
      .done (frameWrite k x.1 x.2.1 false (taint && !dead) x.2.2)
    else
      let y := frameRead (some (subjReq r)) k s
      let s := watchAcc (accReq r (spanLen m) 0 y.1.1) y.2
      if o == Op.chainRd then .done (chainData r ep y.1.1 y.1.2 s)
      else .done (deliverRead r ep y.1.1 y.1.2 s)

/-! ### Requests classified and short of their step -/

/-- Classified requests of the ports, the home and the exact queue that have not taken their last step. -/
def waitingReqs (s : State) : List Req :=
  s.d0.ing.map Ing.req ++ s.d1.ing.map Ing.req ++ s.d0.skid.toList.map Ing.req ++ s.d1.skid.toList.map Ing.req ++ s.sq ++
    s.home.relook ++ s.home.htes.flatMap Hte.held

/-- Locations that requests and Mace elements still short of their step name. -/
def waitingLocs (s : State) : List FenLoc :=
  (waitingReqs s).filterMap Req.fen ++
    s.mace.descs.flatMap fun d => d.infl.flatMap fun e => (if e.stepped then [] else e.req.fen.toList) ++ e.todo.filterMap PLine.loc

/-- A contribution to a region is classified and has not completed its last step. -/
def contribOpen (s : State) (rid : Nat) : Bool :=
  s.fen.exactQ.any (·.rid == rid) || (waitingReqs s).any (·.exact == some rid) ||
    s.mace.descs.any fun d => d.infl.any fun e => e.req.exact == some rid || e.todo.any (·.exact == some rid)

/-! ### GATE records (Table 15.3) -/

def gateEv (s : State) (op seg rid : Nat) (tally : Option Nat) (val : Nat) (since : FT) : TEv :=
  tev 0x04 [(148, 4, op), (142, 6, seg), (138, 4, rid), (126, 12, tally.getD 0), (78, 48, val), (54, 24, sat24 (s.clk.ft - since).toNat)] none
    tally none 7

/-! ### Transfers (R88 to R90) -/

def xferMod (seg : Nat) (f : Xfer → Xfer) (s : State) : State := { s with fen := { s.fen with xfers := lmod (·.seg = seg) f s.fen.xfers } }

/-- A line of the transfer met a status other than OK: the lowest such offset is kept. -/
def xferFail (x : Xfer) (off st : Nat) : Xfer :=
  match x.fail with
  | some (o, _) => if off < o then { x with fail := some (off, BitVec.ofNat 3 st) } else x
  | none => { x with fail := some (off, BitVec.ofNat 3 st) }

/-- A transfer with nothing left to do completes its command (R89, R90). -/
def xferEnd (seg : Nat) (s : State) : State :=
  match s.fen.xfers.find? (·.seg = seg) with
  | none => s
  | some x =>
    if x.infl ≠ [] ∨ (x.fail.isNone ∧ x.next < x.lines) then s
    else
      let s := { s with fen := { s.fen with xfers := s.fen.xfers.filter (·.seg ≠ seg) } }
      match x.fail with
      | none => mbxDone x.mbx Mc.ok [x.lines] s
      | some (o, st) => mbxDone x.mbx Mc.efault [(o - x.off) / 128, o, st.toNat] s

/-- Backing line of a segment offset; past PA 2^44 it wraps (log 34). -/
def backLine (g : Seg) (off : Nat) : LAddr := lineAddr (g.bpa.toNat * 65536 + off)

def xferIssue (x : Xfer) (g : Seg) (s : State) : State :=
  let off := x.off + 128 * x.next
  let sent := fun (x : Xfer) => { x with next := x.next + 1, infl := x.infl ++ [off] }
  if x.load then ownRead (backLine g off) (.xfer g.id off) (xferMod g.id sent s)
  else
    let k := locKey (fenLoc g x.copyB off)
    let y := frameRead none k (useSlot (k / 32) false none s)
    if y.1.2 then xferEnd g.id (xferMod g.id (fun x => xferFail { x with next := x.next + 1 } off St.poison) y.2)
    else ownWriteLine (backLine g off) y.1.1 (.xfer g.id off) (xferMod g.id sent y.2)

def xferAnswer (x : Xfer) (g : Seg) (off st : Nat) (d : Line) (s : State) : State :=
  let s := xferMod g.id (fun x => { x with infl := x.infl.filter (· ≠ off) }) s
  let bad := fun (s : State) => if st = St.ok then s else xferMod g.id (fun x => xferFail x off st) s
  let add := fun (s : State) => if x.ten then tallyAdd x.tally.toNat 128 none 7 s else s
  let s :=
    if x.load then
      if st = St.ok ∨ st = St.poison then
        let k := locKey (fenLoc g x.copyB off)
        let s := frameWrite k d fullMask (st == St.ok) (st != St.ok) (setCheck none (k / 32) (useSlot (k / 32) true none s))
        add (watchAcc (accOwn s (k / 32 % 4) 1 (g.id * 2 ^ 19 + off / 128) fullMask (if keyRetired s k then 0 else d)) s)
      else s
    else if st = St.ok then add s else s
  xferEnd g.id (bad s)

/-! ### Flips (R92, R93) -/

def flipReadyEv (s : State) (g : Seg) (f : Flip) : TEv := gateEv s 1 g.id 0 (some f.rtally.toNat) (tallyVal s f.rtally.toNat) f.armFt

def flipCanReady (s : State) (g : Seg) (f : Flip) : Bool :=
  f.readyAt.isNone && (!f.rten || passed (tallyVal s f.rtally.toNat) f.thresh.toNat) && losslessRoom (flipReadyEv s g f) s

/-- GATE record of a flip's F or of an open or resolve end, with the notify tally after its addition. -/
def notifyEv (s : State) (op seg rid : Nat) (nten : Bool) (nt : BitVec 12) (since : FT) : TEv :=
  if nten then gateEv s op seg rid (some nt.toNat) ((tallyVal s nt.toNat + 1) % 2 ^ 48) since else gateEv s op seg rid none (tallyVal s 0) since

def flipCanTake (s : State) (g : Seg) (f : Flip) : Bool :=
  sclkPast s f.readyAt && !(waitingLocs s).any (fun l => l.seg == g.id && l.epoch == g.lo && l.copyB == g.loB) &&
    losslessRoom (notifyEv s 2 g.id 0 f.nten f.ntally f.armFt) s

def flipTake (g : Seg) (f : Flip) (s : State) : State :=
  let e := notifyEv s 2 g.id 0 f.nten f.ntally f.armFt
  let s := segMod g.id (fun g => { g with lo := g.lo + 1, loB := !g.loB, flip := none }) s
  traceEv e (if f.nten then tallyAdd f.ntally.toNat 1 none 7 s else s)

/-! ### Regions (R134, R138 to R141) -/

def regionCanOpen (s : State) (r : Region) : Bool := !r.opened && losslessRoom (notifyEv s 3 r.seg r.rid r.nten r.ntally r.openFt) s

/-- SCLK O: the accumulators are zero, the region opens and its command completes. -/
def regionOpenAt (r : Region) (s : State) : State :=
  let e := notifyEv s 3 r.seg r.rid r.nten r.ntally r.openFt
  let s := regionMod r.rid (fun r => { r with opened := true }) (zeroFrames r.frames r.opener s)
  let s := traceEv e (if r.nten then tallyAdd r.ntally.toNat 1 none 7 s else s)
  mbxDone r.mbx Mc.ok ([r.rid] ++ poolRes s ++ [r.frames.length]) s

def resolveReadyEv (s : State) (r : Region) (x : Resolve) : TEv := gateEv s 4 r.seg r.rid (some x.rtally.toNat) (tallyVal s x.rtally.toNat) x.armFt

def resolveCanReady (s : State) (r : Region) (x : Resolve) : Bool :=
  x.readyAt.isNone && (!x.rten || passed (tallyVal s x.rtally.toNat) x.thresh.toNat) && losslessRoom (resolveReadyEv s r x) s

/-- SCLK D: notify tally, frames to the pool, RID free. -/
def resolveEnd (r : Region) (x : Resolve) (s : State) : State :=
  let e := notifyEv s 5 r.seg r.rid x.nten x.ntally x.armFt
  let s := { s with fen := { s.fen with regions := s.fen.regions.filter (·.rid ≠ r.rid) } }
  let s := traceEv e (if x.nten then tallyAdd x.ntally.toNat 1 none 7 s else s)
  dropFrames r.frames s

def resolveCanEnd (s : State) (r : Region) (x : Resolve) : Bool := losslessRoom (notifyEv s 5 r.seg r.rid x.nten x.ntally x.armFt) s

/-- Destination lines of a resolve. -/
def destLines (r : Region) : Nat := cdiv (r.n * rfmtSize r.rfmt.toNat) 128

/-- What an accumulator entry stands for: the exact value of its sum, and its class (R119, R125). -/
def accVal (acc : Nat) : FVal :=
  match fld acc 318 2 with
  | 1 => .inf false
  | 2 => .inf true
  | 3 => .nan
  | _ => .fin (nbit acc 317) (if nbit acc 317 then 2 ^ 318 - fld acc 0 318 else fld acc 0 318) (-149)

/-- Events of an element that a resolve writes, the slice's own work (Table 14.4, R295). -/
def resolveOcc (f acc v : Nat) (poi : Bool) (s : State) : State :=
  let x := if poi then FVal.nan else accVal acc
  let c := fpCount (ffmt f) x.isFin x v
  occU 0x67 (if x.isFin then c.inex else 0) (occU 0x66 c.zero (occU 0x65 c.sat (occU 0x64 c.inf (occU 0x63 c.nan s))))

/-- The bits that a resolve writes for element `n`. -/
def resolveBits (s : State) (r : Region) (n : Nat) (poi : Bool) : Nat :=
  if poi then (ffmt r.rfmt.toNat).cnan else accResolve r.rfmt.toNat (accRead s r n)

/-- Writes destination line `i` (R125, R139, R355). -/
def resolveLine (r : Region) (i : Nat) (s : State) : State :=
  match segFind s r.seg with
  | none => s
  | some g =>
    let f := r.rfmt.toNat
    let sz := rfmtSize f
    let per := 128 / sz
    let ns := (List.range per).filterMap fun j => if per * i + j < r.n then some (per * i + j) else none
    let groups := ((ns.map (· / 32)).eraseDups)
    let y := groups.foldl (fun (x : List Nat × State) gr => let z := groupCheck none r gr x.2; (if z.1 then gr :: x.1 else x.1, z.2)) ([], s)
    let s := y.2
    let bad := fun (n : Nat) => y.1.contains (n / 32)
    let d := ns.foldl (fun d n => linePut d (sz * (n % per)) sz (resolveBits s r n (bad n))) (0 : Line)
    let s := ns.foldl (fun s n => resolveOcc f (accRead s r n) (resolveBits s r n (bad n)) (bad n) s) s
    let m := spanMask 0 (sz * ns.length)
    let k := locKey (fenLoc g false (r.doff + 128 * i))
    let s := frameWrite k d m false (ns.any bad) (setCheck none (k / 32) (useSlot (k / 32) true none s))
    watchAcc (accOwn s (k / 32 % 4) 1 (g.id * 2 ^ 19 + (r.doff + 128 * i) / 128) m (if keyRetired s k then 0 else dataGet s k)) s

/-! ### Tally deadline reports (R210, R211) -/

def deadlineRec (at_ : FT × BitVec 48) (tally thresh reqid chip txid rid src wtag : Nat) : Rec :=
  pack 256 [(192, 64, at_.1.toNat), (144, 48, at_.2.toNat), (96, 48, thresh), (84, 12, tally), (72, 12, reqid), (58, 14, chip), (42, 16, txid),
    (38, 4, rid), (36, 2, src), (16, 20, wtag)]

def deadlineEv (at_ : FT × BitVec 48) (tally reqid chip txid rid src : Nat) (j : Option Subj) : TEv :=
  tev 0x03 [(140, 12, tally), (92, 48, at_.2.toNat), (80, 12, reqid), (66, 14, chip), (50, 16, txid), (46, 4, rid), (44, 2, src)] j (some tally) none 7

end Sys2Proof.Machine
end

