-- ==== Sys2Proof/Machine/Regul.lean ====
section
/-! DEFINITION. Regulation: effective floors, windows, and the choice of the next request of a D port (Chapter 11). -/

namespace Sys2Proof.Machine

/-! ### Capacities and effective floors (R237 to R239) -/

def levelOf (s : State) (k : Nat) : Nat := (sget (fun _ => 0) s.regul.levels k).toNat

def counted (s : State) : Nat := capNstkm1 s.t + 1

/-- The sum of frac(level) over the counted stacks. -/
def fracSum (s : State) : Nat := (List.range (counted s)).foldl (fun a k => a + capFrac s.t (levelOf s k)) 0

/-- MEFF in 1/16 B per FT tick, rounded down (Table 13.4). -/
def meff16 (s : State) : Nat := capMfull s.t * fracSum s / (256 * counted s)

/-- The product of the window lengths: a common denominator. -/
def winProd (g : Tables) : Nat := (List.range 16).foldl (fun a c => a * clsWin g c) 1

/-- m_c and MEFF over the common denominator 4096 * stacks * winProd. -/
def mRate (s : State) (c : Nat) : Nat := clsFloor s.t c * clsMfrac s.t c * 16 * counted s * (winProd s.t / clsWin s.t c)
def meffRate (s : State) : Nat := capMfull s.t * fracSum s * winProd s.t

/-- Classes in priority order: PRIO, then number. -/
def prioOrder (g : Tables) : List Nat :=
  (List.range 16).flatMap fun p => (List.range 16).filter fun c => clsPrio g c == p

/-- The effective floor of every class, in units of 64 B (R239). -/
def effFloors (s : State) : List Nat :=
  let ms := (List.range 16).map (mRate s)
  let total := ms.foldl (· + ·) 0
  let cuts := ((prioOrder s.t).reverse.foldl (fun (x : Nat × List (Nat × Nat)) c =>
    let k := min (ms.getD c 0) x.1
    (x.1 - k, (c, k) :: x.2)) (total - meffRate s, [])).2
  (List.range 16).map fun c =>
    let m := ms.getD c 0
    let k := ((cuts.find? (·.1 == c)).map Prod.snd).getD 0
    if k = 0 then clsFloor s.t c else clsFloor s.t c * (m - k) / m

/-- Classes whose served bytes in the present window are below their effective floor. -/
def belowFloors (s : State) : List Nat :=
  let f := effFloors s
  if !s.regul.on then [] else (List.range 16).filter fun c => (winGet s c).served < 64 * f.getD c 0

/-! ### Windows (R234 to R236) -/

/-- Highest level of a counted stack. -/
def maxLevel (s : State) : Nat := (List.range (counted s)).foldl (fun a k => max a (levelOf s k)) 0

/-- Demand of the requests of a class that still wait at a D port. -/
def waitDemand (s : State) (c : Nat) : Nat :=
  let l := s.d0.ing ++ s.d1.ing ++ s.d0.skid.toList ++ s.d1.skid.toList
  let ports := (l.filter fun i => i.req.qc.toNat == c && hAspace i.req.msg != 2).foldl (fun a i => a + demandBytes i.req.msg) 0
  let els := (s.mace.descs.filter fun d => d.req.qc.toNat == c).flatMap fun d => d.infl.filter fun e => !e.pad && !e.taken
  els.foldl (fun a e => a + e.len) ports

/-- A window of class `c` starts at FT value `t`. -/
def winStart (c : Nat) (t : FT) (s : State) : State :=
  let f := (effFloors s).getD c 0
  winSet c { served := 0, demand := waitDemand s c, start := t, eflo := f, scaled := f < clsFloor s.t c, maxlvl := BitVec.ofNat 3 (maxLevel s) } s

/-- The windows of every class restart (R234). -/
def winRestart (s : State) : State := (List.range 16).foldl (fun s c => winStart c s.clk.ft s) { s with regul := { s.regul with on := true } }

/-- A change of MEFF is noted in every running window (Table 11.5). -/
def winNote (s : State) : State :=
  let f := effFloors s
  (List.range 16).foldl (fun s c =>
    let w := winGet s c
    let e := f.getD c 0
    winSet c { w with eflo := min w.eflo e, scaled := w.scaled || e < clsFloor s.t c, maxlvl := BitVec.ofNat 3 (max w.maxlvl.toNat (maxLevel s)) } s) s

def winDue (s : State) (c : Nat) : Bool :=
  s.regul.on && s.clk.ftv && (winGet s c).start.toNat + clsWin s.t c * 64 ≤ ftN s

/-- The window of class `c` ends: GUARANTEE_MISS, and the next window (R234, R236). -/
def winEnd (c : Nat) (s : State) : State :=
  let w := winGet s c
  let fl := clsFloor s.t c
  let q := BitVec.ofNat 4 c
  let s :=
    if fl ≠ 0 ∧ w.served < min (64 * fl) w.demand then
      let r := pack 256 [(192, 64, ftN s), (152, 40, w.served), (112, 40, w.demand), (88, 24, fl), (64, 24, w.eflo), (60, 4, c), (59, 1, b2n w.scaled),
        (56, 3, w.maxlvl.toNat), (32, 16, clsWin s.t c)]
      let s := notice (.event 2 r) (occ 0xA1 .q (subjLine q 0) 1 s)
      let s := traceEv (tev 0x11 [(148, 4, c), (147, 1, b2n w.scaled), (144, 3, w.maxlvl.toNat), (104, 40, w.served), (64, 40, w.demand), (40, 24, w.eflo)]
        none none (some q) 7) s
      trigger 3 0 (bufMask s tcTriggm) s
    else s
  winStart c (w.start + BitVec.ofNat 64 (clsWin s.t c * 64)) s

/-! ### TEMP_RPT (R51, R238, R240) -/

def tempReport (m : Msg) (ord : Nat) (s : State) : State :=
  let v := hResult m
  let k := fld v 0 6
  let l := fld v 16 3
  let temp := fld v 8 8
  let old := levelOf s k
  let s := { s with regul := { s.regul with levels := sset (fun _ => 0) s.regul.levels k (BitVec.ofNat 3 l) } }
  if l = old then s
  else
    let s := winNote s
    let me := meff16 s
    let s := notice (.event 3 (pack 256 [(192, 64, ftN s), (184, 8, temp), (181, 3, l), (178, 3, old), (172, 6, k), (159, 13, me)])) (occU 0x43 1 s)
    let s := traceEv (tev 0x12 [(146, 6, k), (143, 3, l), (140, 3, old), (132, 8, temp), (119, 13, me)] none none none ord) s
    trigger 4 0 (bufMask s tcTrigdr) s

/-! ### The choice of R231 -/

/-- Two requests are for one line. -/
def sameLine (a b : Req) : Bool :=
  !(isTallyOp (hOpcode a.msg) || isTallyOp (hOpcode b.msg) || hOpcode a.msg == Op.maceSub || hOpcode b.msg == Op.maceSub) &&
    hAspace a.msg == hAspace b.msg && hLine a.msg == hLine b.msg

/-- Waiting requests of a port that may be presented, with their places, in arrival order (R230, R273). Requests of the line that
the home looks up again go first (R193). -/
def presentable (s : State) (x : PortSt) : List (Nat × Ing) :=
  if s.srv.halt then []
  else
    (x.ing.zipIdx.foldl (fun (a : List Req × List (Nat × Ing)) e =>
      let i := e.1
      let ok := i.hold.isNone && hAspace i.req.msg != 2 && !s.home.relook.any (sameLine i.req) && !a.1.any (sameLine i.req)
      (i.req :: a.1, if ok then a.2 ++ [(e.2, i)] else a.2)) ([], [])).2

/-- The request a D port presents: place, entry, and whether step 1 of R231 chose it. -/
def selectReq (s : State) (p : DPort) : Option (Nat × Ing × Bool) :=
  let x := portGet s p
  let l := presentable s x
  let below := belowFloors s
  match (prioOrder s.t).findSome? fun c => if below.contains c then l.find? (·.2.req.qc.toNat == c) else none with
  | some e => some (e.1, e.2, true)
  | none =>
    ((List.range 16).findSome? fun k => l.find? (·.2.req.qc.toNat == (x.rrPick.toNat + 1 + k) % 16)).map fun e => (e.1, e.2, false)

/-- The other D port. -/
def otherPort : DPort → DPort | .d0 => .d1 | .d1 => .d0

/-- The D port that goes first in this SCLK: D0 in the first after the datapath reset releases, and in every second one (R20). -/
def firstPort (s : State) : DPort := if (s.clk.sclk - s.clk.rel) % 2 = 0 then .d0 else .d1

/-- Request `r` of port `p` reaches its tag pipe together with a request of its line that goes before it (R20). -/
def yields (s : State) (p : DPort) (r : Req) : Bool :=
  s.sq.head?.any (sameLine r) || (firstPort s != p && (selectReq s (otherPort p)).any fun x => sameLine r x.2.1.req)

end Sys2Proof.Machine
end

