-- ==== Sys2Proof/Machine/Classify.lean ====
section
/-! DEFINITION. Steps 1 to 4 of Table 2.9: descriptors, address checks, and the classified request. -/

namespace Sys2Proof.Machine

/-! ### Mace descriptors (Table 7.2) -/

namespace Md
def cren (d : Nat) : Bool := nbit d 557
def cspace (d : Nat) : Bool := nbit d 556
def caddr (d : Nat) : Nat := fld d 512 44
def dchip (d : Nat) : Nat := fld d 476 14
def dreqid (d : Nat) : Nat := fld d 464 12
def dtxid (d : Nat) : Nat := fld d 448 16
def xpitch (d : Nat) : Nat := fld d 416 24
def xbase (d : Nat) : Nat := fld d 320 44
def tstride (d : Nat) : Nat := fld d 288 24
def rowlen (d : Nat) : Nat := fld d 256 14
def tbase (d : Nat) : Nat := fld d 192 44
def ilast (d : Nat) : Nat := fld d 128 64
def ibase (d : Nat) : Nat := fld d 64 44
def kind (d : Nat) : Nat := fld d 62 2
def dadd (d : Nat) : Bool := nbit d 61
def fstop (d : Nat) : Bool := nbit d 60
def fmt (d : Nat) : Nat := fld d 56 4
def iw (d : Nat) : Nat := fld d 54 2
def ispace (d : Nat) : Bool := nbit d 53
def tspace (d : Nat) : Bool := nbit d 52
def dkind (d : Nat) : Nat := fld d 50 2
def epoch (d : Nat) : Nat := fld d 48 2
def cten (d : Nat) : Bool := nbit d 47
def ctally (d : Nat) : Nat := fld d 32 12
def count (d : Nat) : Nat := fld d 0 24
/-- Bytes of an index. -/
def iwBytes (d : Nat) : Nat := 2 ^ (iw d + 1)
/-- Reserved bits. -/
def rsv (d : Nat) : Nat :=
  fld d 558 466 + fld d 490 22 + fld d 440 8 + fld d 364 52 + fld d 312 8 + fld d 270 18 + fld d 236 20 + fld d 108 20 + fld d 44 3 + fld d 24 8
end Md

/-- The conditions of R147 on the descriptor alone. -/
def descOk (d : Nat) : Bool :=
  Md.rsv d == 0 && Md.kind d != 3 && Md.iw d != 3 && Md.dkind d < 2 &&
    Md.tbase d % 8 == 0 && Md.tstride d % 8 == 0 && Md.xbase d % 8 == 0 && Md.xpitch d % 8 == 0 &&
    Md.ibase d % Md.iwBytes d == 0 && Md.caddr d % 32 == 0 &&
    Md.rowlen d % 8 == 0 && Md.rowlen d ≤ 8192 &&
    (Md.dkind d == 0 || Md.kind d == 0) &&
    (!Md.dadd d || (Md.dkind d == 0 && Md.kind d == 0)) &&
    (!(Md.kind d == 2 || Md.dadd d) || Md.fmt d ≤ 5 || Md.fmt d == 8 || 12 ≤ Md.fmt d)

def msgDesc (m : Msg) : Nat := (msgTwo m).toNat

/-! ### Address checks -/

/-- What a request does at a MEM address, for the RO rule (Table 3.5). -/
def opWrites (o : Nat) : Bool :=
  o == Op.wr || o == Op.red || o == Op.atom || o == Op.atomC || o == Op.rdUnq || o == Op.upgrade

/-- T_RAT and the Saffron class permit the access (R71, R247). -/
def memPermits (s : State) (a tc : Nat) (writes : Bool) : Bool :=
  let at_ := ratAttr s.t a
  ratPermits s.t a tc && !(at_.ro && writes) &&
    (!at_.sealed || (tenMacsize s.t tc != 0 && (sget (fun _ => Key.zero) s.keys tc).loaded))

/-- Table 12.1. -/
def regPermits (tc off : Nat) (wr : Bool) : Bool :=
  if off < 0x100 then !wr
  else if off < 0x1000 then tc == 0
  else if off < 0x2000 then (off - 0x1000) / 0x100 == tc || (tc == 0 && !wr)
  else if off < 0x3000 then tc == 0 && !wr
  else if off < 0x4000 then !wr
  else if off < 0x5000 then tc == 0 && !wr
  else tc == 0

/-! ### Classification -/

inductive Cls where
  | refuse (st : Nat)
  | zero
  | reg (tc : BitVec 4)
  | req (r : Req)
deriving DecidableEq, Repr

/-- Zero COUNT or ROWLEN of a MACE_SUB (Table 2.10). -/
def maceZero (m : Msg) : Bool := hOpcode m == Op.maceSub && (Md.count (msgDesc m) == 0 || Md.rowlen (msgDesc m) == 0)

/-- Step 1 of Table 2.9 in full. -/
def ingressOk (s : State) (p : Port) (m : Msg) : Bool :=
  step1Ok p m && hDst m == chipN s &&
    (!isCohOp (hOpcode m) || (hSrc m == chipN s && pdOn s 68)) &&
    (hOpcode m != Op.maceSub || (pdOn s 70 && descOk (msgDesc m)))

/-- T_PREFETCH settings of class `c`. -/
def pfSet (g : Tables) (c : Nat) : PfSet := { en := pfEn g c, ins := pfIns g c, degree := pfDegree g c, hblk := pfHblk g }

/-- A request with what its classification fixes (R25). -/
def mkReq (s : State) (p : Port) (src : Src) (m : Msg) (fl : Option FenLoc) (ex : Option Nat) : Req :=
  let l := hLine m
  { port := p, src := src, msg := m, qc := BitVec.ofNat 4 (rmQc s.t (hReqid m)), tc := BitVec.ofNat 4 (rmTc s.t (hReqid m)),
    attr := if hAspace m == 0 then ratAttr s.t (hAddr m) else .default, set := BitVec.ofNat 14 (liveSet s l), hbank := hbankOf s.t l,
    cap := mcCap s.t, pf := pfSet s.t (rmQc s.t (hReqid m)), fen := fl, exact := ex, poi := false, at_ := s.clk.sclk }

/-- Steps 1 to 4 (R50). -/
def classify (s : State) (p : Port) (m : Msg) : Cls :=
  let o := hOpcode m
  let i := hReqid m
  let tc := rmTc s.t i
  let zero := isZeroLen m || maceZero m
  if !ingressOk s p m then .refuse St.unsupported
  else if !rmV s.t i || hTc m != tc then .refuse St.denied
  else if hAspace m == 2 then
    if regPermits tc (hAddr m) (o == Op.wr) then .reg (BitVec.ofNat 4 tc) else .refuse St.denied
  else if isTallyOp o || o == Op.maceSub then
    if zero then .zero else .req (mkReq s p .port m none none)
  else if hAspace m == 0 then
    if isCohOp o && !(rmCv s.t i && rmCagent s.t i == hCagent m) then .refuse St.denied
    else if !memPermits s (hAddr m) tc (opWrites o) then .refuse St.denied
    else if zero then .zero
    else .req (mkReq s p .port m none none)
  else
    match fenClass s (hAddr m) tc (BitVec.ofNat 2 (hEpoch m)) (msgAsk m) with
    | .deny => .refuse St.denied
    | .stale => .refuse St.stale
    | .unsup => .refuse St.unsupported
    | .ok l x => if zero then .zero else .req (mkReq s p .port m (some l) x)

/-- A refusal is answered and counted (events 0x11 to 0x14). -/
def refuseMsg (p : Port) (m : Msg) (st : Nat) (s : State) : State :=
  let ev := if st == St.unsupported then 0x11 else if st == St.denied then 0x12 else if st == St.stale then 0x13 else 0x14
  compTo p m (subjMsg s m) st 0 (occP p ev (subjMsg s m) 1 s)

/-- A request passes step 3 of Table 2.9 on port `p`: it is counted, and counters in SEG mode see it (R298). -/
def passes (p : Port) (j : Subj) (s : State) : State :=
  let s := occP p 0x10 j 1 s
  if pdOn s 76 then { s with ctr := { s.ctr with cls := s.ctr.cls ++ [(portOrd p, j)] } } else s

/-- A zero-length request is answered OK (step 4). -/
def zeroMsg (p : Port) (m : Msg) (s : State) : State := compTo p m (subjMsg s m) St.ok 0 (passes p (subjMsg s m) s)

/-- A classified request passes. -/
def passClass (r : Req) (s : State) : State := passes r.port (subjReq r) s

end Sys2Proof.Machine
end

