-- ==== Sys2Proof/Machine/Prefetch.lean ====
section
/-! DEFINITION. The prefetcher: streams, candidates and fills (R79, R80). -/

namespace Sys2Proof.Machine

/-- The line `a + k * d`, and none where it leaves the address space. -/
def lineOff (a : LAddr) (d : Int) : Option LAddr :=
  let x : Int := a.toNat + d
  if x < 0 ∨ 2 ^ 37 ≤ x then none else some (BitVec.ofNat 37 x.toNat)

/-- Aligned block of 2^HBLK bytes that holds a line. -/
def blockOf (h : Nat) (l : LAddr) : Nat := l.toNat * 128 / 2 ^ h

/-- The procedure of R79 on a stream. -/
def streamStep (st : Stream) (l : LAddr) : Stream :=
  let d : Int := (l.toNat : Int) - st.last.toNat
  if d = 0 then st
  else if d = st.stride then { st with conf := min (st.conf + 1) 3, last := l }
  else { st with stride := d, conf := 0, last := l }

/-- A stream's entry parity is checked when it is used: an error drops it (Table 17.1). -/
def streamCheck (i : Nat) (s : State) : State :=
  if Site.stream i ∈ s.bad then
    { s with bad := s.bad.filter (· ≠ .stream i), pf := { s.pf with streams := s.pf.streams.eraseIdx i } }
  else s

/-- Candidates queued on a tag pipe. One past its 64 SCLK keeps its place until its lookup drops it (log 34). -/
def pipeCands (s : State) (q : Nat) : Nat := (s.pf.cands.filter fun c => pipeOf s c.line == q).length

/-- Queues a candidate, or drops it when its pipe has 16. -/
def candAdd (r : Req) (l : LAddr) (s : State) : State :=
  if 16 ≤ pipeCands s (pipeOf s l) then occR 0x32 r 1 s
  else { s with pf := { s.pf with cands := s.pf.cands ++ [{ line := l, trig := r, at_ := s.clk.sclk }] } }

/-- Candidates `k` to the degree, while they stay in the block. -/
def candRun (r : Req) (l : LAddr) (d : Int) : Nat → Nat → State → State
  | 0, _, s => s
  | n + 1, k, s =>
    match lineOff l (d * k) with
    | some p => if blockOf r.pf.hblk p = blockOf r.pf.hblk l then candRun r l d n (k + 1) (candAdd r p s) else s
    | none => s

/-- Training on a read at its first tag-pipe step (R79, R230), under the T_PREFETCH settings of its classification (R25). The list of
streams is in order of training, oldest first. A new stream starts with the read's line as its last line, stride 0 and confidence 0 (log 34). -/
def train (r : Req) (s : State) : State :=
  let o := hOpcode r.msg
  if !(o == Op.rd || o == Op.rdOnce) || hAspace r.msg != 0 || !r.attr.pfen || !r.pf.en then s
  else
    let id := BitVec.ofNat 12 (hReqid r.msg)
    let wt := BitVec.ofNat 20 (hWtag r.msg)
    let l := hLine r.msg
    let i := s.pf.streams.findIdx fun x => x.reqid == id && x.wtag == wt
    let s := streamCheck i s
    let i := s.pf.streams.findIdx fun x => x.reqid == id && x.wtag == wt
    let s := occR 0x30 r 1 s
    match s.pf.streams[i]? with
    | some x =>
      let y := streamStep x l
      let s := { s with pf := { s.pf with streams := s.pf.streams.eraseIdx i ++ [y] } }
      if 2 ≤ y.conf then candRun r l y.stride r.pf.degree 1 s else s
    | none =>
      let y : Stream := { reqid := id, wtag := wt, last := l, stride := 0, conf := 0 }
      let old := if 256 ≤ s.pf.streams.length then s.pf.streams.drop 1 else s.pf.streams
      { s with pf := { s.pf with streams := old ++ [y] } }

/-- R80 holds for a candidate. -/
def candOk (c : Cand) (s : State) : Bool :=
  let a := c.line.toNat * 128
  let at_ := ratAttr s.t a
  let tc := c.trig.tc.toNat
  at_.pfen && ratPermits s.t a tc &&
    (!at_.sealed || (tenMacsize s.t tc != 0 && (sget (fun _ => Key.zero) s.keys tc).loaded)) &&
    placeOf s c.line == .absent && s.mp.miss.length < 768 && hbankOpen s (hbankOf s.t c.line) < mcCap s.t && poolFree s &&
    s.clk.sclk ≤ c.at_ + 64

end Sys2Proof.Machine
end

