-- ==== Sys2Proof/Machine/Ports.lean ====
section
/-! DEFINITION. Ports: ingress entries, credits, the REG queue, and the end of a request's tag-pipe step (R19, R227 to R230, R331, R332). -/

namespace Sys2Proof.Machine

/-! ### Credits (R227, R229, R331) -/

def qGet (x : PortSt) (c : Nat) : Nat := sget (fun _ => 0) x.q c
def qSet (c n : Nat) (x : PortSt) : PortSt := { x with q := sset (fun _ => 0) x.q c n }
def owedGet (x : PortSt) (c : Nat) : Nat := sget (fun _ => 0) x.owed c
def owedSet (c n : Nat) (x : PortSt) : PortSt := { x with owed := sset (fun _ => 0) x.owed c n }

/-- Grants class `c` a credit; the lane sends it (R332). -/
def grantCredit (c : Nat) (x : PortSt) : PortSt := owedSet c (owedGet x c + 1) (qSet c (qGet x c + 1) x)

/-- The common room is at least 1. -/
def commonRoom (g : Tables) (x : PortSt) : Bool := (List.range 16).foldl (fun a c => a + max (qGet x c) (clsQres g c)) 0 < 128

/-- Entries charged to class `c`. -/
def charged (x : PortSt) (c : Nat) : Nat := (x.ing.filter (·.credit.toNat == c)).length

/-- The mesh holds a credit of class `c`. -/
def creditHeld (x : PortSt) (c : Nat) : Bool := owedGet x c + charged x c < qGet x c

/-- A returned credit: q falls, and a class below QRES is granted one again. -/
def creditBack (g : Tables) (c : Nat) (x : PortSt) : PortSt :=
  let x := qSet c (qGet x c - 1) x
  if qGet x c < clsQres g c then grantCredit c x else x

/-- The skid request takes a freed entry, and a credit of its class with it (R331). -/
def skidIn (x : PortSt) : PortSt :=
  match x.skid with
  | some i => if x.ing.length < 128 then { qSet i.credit.toNat (qGet x i.credit.toNat + 1) x with ing := x.ing ++ [i], skid := none } else x
  | none => x

/-- The oldest REG-space request of the ingress entries moves to the REG queue if that has room (R19). -/
def regMove (p : DPort) (g : Tables) (x : PortSt) : PortSt :=
  let i := x.ing.findIdx fun e => hAspace e.req.msg == 2
  match x.ing[i]? with
  | none => x
  | some e =>
    if 16 ≤ x.regq.length then x
    else creditBack g e.credit.toNat
      { x with ing := x.ing.eraseIdx i, regq := x.regq ++ [{ port := p, msg := e.req.msg, tc := e.req.tc, at_ := e.req.at_ }] }

/-- What a freed entry, or a freed place of the REG queue, lets move: the skid request, and then REG-space requests, up to `n` of them. -/
def portMoves (p : DPort) (g : Tables) : Nat → PortSt → PortSt
  | 0, x => skidIn x
  | n + 1, x => portMoves p g n (regMove p g (skidIn x))

/-- The entry at place `i` frees (R227 step 2). -/
def popIng (p : DPort) (i : Nat) (s : State) : State :=
  let x := portGet s p
  match x.ing[i]? with
  | none => s
  | some e => portSet p (portMoves p s.t 17 (creditBack s.t e.credit.toNat { x with ing := x.ing.eraseIdx i })) s

/-! ### Arrival -/

/-- Beats received (F5). -/
def recvBeats (m : Msg) (s : State) : State := fctr 5 (64 * m.beats.length) s

/-- A request that is answered, or moves to the REG queue, at decode returns its credit in that SCLK. -/
def creditPass (p : DPort) (m : Msg) (c : Nat) (s : State) : State :=
  let x := portGet s p
  if creditHeld x c then portSet p (creditBack s.t c x) s else occP (dport p) 0x19 (subjMsg s m) 1 s

/-- The credit of a request that finds its credit's entry taken by the skid request goes with it to the skid entry (R331, log 33). -/
def skidPays (c : Nat) (x : PortSt) : PortSt := qSet c (qGet x c - 1) x

/-- Places a request in an entry, in the common room, or in the skid entry (R229, R331): a port never holds more than 128 entries. -/
def placeIng (p : DPort) (r : Req) (c : BitVec 4) (s : State) : State :=
  let x := portGet s p
  let e : Ing := { req := r, credit := c, hold := none, held := false, trained := false }
  if creditHeld x c.toNat then
    portSet p (if x.ing.length < 128 then { x with ing := x.ing ++ [e] } else { skidPays c.toNat x with skid := some e }) s
  else
    let s := occR 0x19 r 1 s
    if commonRoom s.t x && x.ing.length < 128 then portSet p { qSet c.toNat (qGet x c.toNat + 1) x with ing := x.ing ++ [e] } s
    else portSet p { x with skid := some e } s

/-- A REG-space request enters the REG queue, or keeps an ingress entry while the queue is full (R19). -/
def regArrive (p : DPort) (m : Msg) (tc qc : BitVec 4) (s : State) : State :=
  let x := portGet s p
  let s := passes (dport p) (subjMsg s m) s
  if x.regq.length < 16 then
    creditPass p m qc.toNat (portSet p { x with regq := x.regq ++ [{ port := p, msg := m, tc := tc, at_ := s.clk.run }] } s)
  else placeIng p { mkReq s (dport p) .port m none none with tc := tc, at_ := s.clk.run } qc s

/-- A REG queue entry has freed: the oldest REG-space request of the ingress entries takes it. -/
def regFill (p : DPort) (s : State) : State := portSet p (portMoves p s.t 17 (portGet s p)) s

/-- The port takes REQ-class headers now: IRDY, and no request in the skid entry (R330, R331). -/
def takesReq (s : State) (p : DPort) : Bool := s.pins.present && irdy s p && (portGet s p).skid.isNone

/-- A REQ-class request arrives on a D port (R227, R229, Table 2.9). -/
def ingressD (p : DPort) (m : Msg) (qc : BitVec 4) (s : State) : State :=
  let s := recvBeats m s
  let s := if BitVec.ofNat 4 (rmQc s.t (hReqid m)) ≠ qc then occP (dport p) 0x18 (subjMsg s m) 1 s else s
  match classify s (dport p) m with
  | .refuse st => creditPass p m qc.toNat (refuseMsg (dport p) m st s)
  | .zero => creditPass p m qc.toNat (zeroMsg (dport p) m s)
  | .reg tc => regArrive p m tc qc s
  | .req r => placeIng p r qc (addDemand r (demandBytes m) (passClass r s))

/-- The bound of an answer to an S request in SCLK: 24 for a WR, else 40 (R95). -/
def reedBound (m : Msg) : Nat := if hOpcode m == Op.wr then 24 else 40

/-- The S answers queued since `n` were there are to a request of message `m` that arrived in SCLK `t` (R96). -/
def reedMark (t : Nat) (m : Msg) (n : Nat) (s : State) : State :=
  { s with sout := s.sout.take n ++ (s.sout.drop n).map fun o => { o with post := .reed t (reedBound m) } }

/-- A request arrives on S (R94, R334). -/
def ingressS (m : Msg) (s : State) : State :=
  let s := recvBeats m s
  let n := s.sout.length
  match classify s .s m with
  | .refuse st => reedMark s.clk.sclk m n (refuseMsg .s m st s)
  | .zero => reedMark s.clk.sclk m n (zeroMsg .s m s)
  | .reg _ => s
  | .req r => let s := passClass r s; { s with sq := s.sq ++ [r] }

/-- The port lends a common credit to a class that the mesh wants one for (R227 step 3). -/
def lendTo (s : State) (x : PortSt) (qwant : BitVec 16) : Option (Nat × Bool) :=
  let below := belowFloors s
  match (prioOrder s.t).find? fun c => below.contains c && nbit qwant.toNat c with
  | some c => some (c, false)
  | none => (((List.range 16).map fun k => (x.rrLend.toNat + 1 + k) % 16).find? fun c => nbit qwant.toNat c).map fun c => (c, true)

/-! ### Tag-pipe steps -/

/-- Tag pipe of a request. -/
def reqPipe (s : State) (r : Req) : Nat :=
  match r.fen with
  | some l => locKey l / 32 % 4
  | none => pipeOf s (hLine r.msg)

/-- The tag-pipe step of a classified request, wherever it came from. -/
def reqStep (r : Req) (s : State) : StepRes :=
  match r.fen with
  | some l => fenStep r l s
  | none => if isCohOp (hOpcode r.msg) then homeStep r s else homeGate r s

/-- REASON of a REG_HOLD record (Table 15.3). -/
def holdReason : Hold → Nat
  | .bankCap => 1 | .missFull => 2 | .around => 2 | .attach => 3 | .hte => 4 | .exactQ => 5
  | .refetch => Config.refetchReason.toNat

/-- The count of a hold (Table 14.4). -/
def holdCount (h : Hold) (r : Req) (s : State) : State :=
  let s := occR 0x15 r 1 s
  match h with
  | .bankCap => occR 0x29 r 1 s
  | .missFull => occR 0x2A r 1 s
  | .around => occR 0x2A r 1 s
  | .exactQ => occR 0x62 r 1 s
  | .hte => occR 0x87 r 1 s
  | .attach => s
  | .refetch => s

/-- The REG_HOLD record of a request's first hold. -/
def holdEv (s : State) (h : Hold) (r : Req) : TEv :=
  let m := r.msg
  tev 0x10 [(148, 4, holdReason h), (144, 4, r.qc.toNat), (140, 4, r.tc.toNat), (128, 12, hReqid m), (114, 14, hSrc m), (94, 20, hWtag m),
    (57, 37, (hLine m).toNat), (45, 12, if h = .bankCap then r.hbank.toNat else 0)] (some (subjReq r)) none none (reqPipe s r)

/-- The step of a request at a D port's place `i`: its entry frees, or it is held (R227, R230, R296). -/
def portEnd (p : DPort) (i : Nat) (g : Ing) (x : StepRes) : State :=
  let r := g.req
  match x with
  | .done s => popIng p i (bankWaits (subjReq r) (reqPipe s r) (reqSlot (reqPipe s r) true (subjReq r) s))
  | .attached s => popIng p i (reqSlot (reqPipe s r) true (subjReq r) s)
  | .hold h s =>
    let s := holdCount h r (reqSlot (reqPipe s r) false (subjReq r) s)
    let s := if g.held then s else traceEv (holdEv s h r) s
    let y := portGet s p
    portSet p { y with ing := (y.ing.zipIdx).map fun e => if e.2 = i then { e.1 with hold := some h, held := true } else e.1 } s

/-- Marks what the choice of R231 leaves: the floor pick, or the round-robin place; and trains the prefetcher once. -/
def portPick (p : DPort) (i : Nat) (g : Ing) (floor : Bool) (s : State) : State :=
  let s := if floor then occR 0xA3 g.req 1 s else portSet p { portGet s p with rrPick := g.req.qc } s
  if g.trained then s
  else
    let y := portGet s p
    train g.req (portSet p { y with ing := (y.ing.zipIdx).map fun e => if e.2 = i then { e.1 with trained := true } else e.1 } s)

/-- The request that R231 selects on a D port takes its tag-pipe step, if it has the opcode and no request of its line goes first (R20). -/
def portStep (p : DPort) (op : Nat) (s : State) : State :=
  match selectReq s p with
  | none => s
  | some (i, g, fl) => if hOpcode g.req.msg ≠ op || yields s p g.req then s else portEnd p i g (reqStep g.req (portPick p i g fl s))

/-- The oldest S request takes its step, if it has the opcode. -/
def sStep (op : Nat) (s : State) : State :=
  match s.sq with
  | [] => s
  | r :: rest =>
    if hOpcode r.msg ≠ op then s
    else match reqStep r { s with sq := rest } with
      | .done s' | .attached s' | .hold _ s' =>
        reedMark r.at_ r.msg s.sout.length (bankWaits (subjReq r) (reqPipe s' r) (reqSlot (reqPipe s' r) true (subjReq r) s'))

/-- A resource of the kind a held request waits for is free (R230). -/
def holdOver (s : State) (r : Req) : Hold → Bool
  | .bankCap => hbankOpen s r.hbank < r.cap
  | .missFull => missRefuse s r != some .missFull
  | .attach => match missFind s (hLine r.msg) with | some e => missRoom e || !missTakes e | none => true
  | .around => match missFind s (hLine r.msg) with | some e => missTakes e | none => true
  | .hte => match hteInH s (hLine r.msg) with | some h => h.held.length < 16 | none => hteFree s
  | .exactQ => s.fen.exactQ.length < 64
  | .refetch => true

end Sys2Proof.Machine
end

