-- ==== Sys2Proof/Machine/Mport.lean ====
section
/-! DEFINITION. The memory port: commands, credits, read data, write acknowledgements, sealing and fills (R66, R73 to R78, R241, R249 to R252, R335 to R337, R357, R358). -/

namespace Sys2Proof.Machine

def keyGet (s : State) (t : Nat) : Key := sget (fun _ => Key.zero) s.keys t
def keySet (t : Nat) (k : Key) (s : State) : State := { s with keys := sset (fun _ => Key.zero) s.keys t k }

/-! ### Sealed lines (R249, R250) -/

/-- Byte address of the MAC of a line of context `t` (R250). -/
def macAddr (s : State) (t : Nat) (l : LAddr) : Nat :=
  (tenMacbase s.t t * 65536 + (l.toNat * 128 + 2 ^ 44 - tenSealbase s.t t * 65536) % 2 ^ 44 / 16) % 2 ^ 44

/-- The ciphertext of a line and its MAC under the key of context `t`. -/
def sealLine (s : State) (t : Nat) (l : LAddr) (d : Line) : Line × BitVec 64 :=
  let k := keyGet s t
  let w := sealTweak t (chipN s) l.toNat
  let c := xtsSeal k.k1 k.k2 w d
  (c, sealMac k.km w c)

/-- The MAC WR of a sealed line. -/
def macSend (t : Nat) (l : LAddr) (mac : BitVec 64) (k : OwnKind) (s : State) : State :=
  let a := macAddr s t l
  ownWritePart a 8 (linePut 0 (a % 128) 8 mac.toNat) k s

/-! ### The choice of the next command (R76, R241) -/

/-- The line an M write is for. -/
def workLine (s : State) : MWork → LAddr
  | .mire i => ((s.mp.mire.find? (·.id = i)).map MireE.line).getD 0
  | .around e => ((s.mp.miss.find? (·.id = e)).map Miss.line).getD 0
  | .clean k => ((s.mp.clean.find? (·.slot = k)).map CleanW.line).getD 0
  | .wthru l _ _ _ _ _ _ => l

/-- Reads that may leave: no write of the line that an earlier step caused still waits. -/
def readsReady (s : State) : List Miss :=
  s.mp.miss.filter fun e => e.st == .waitIssue && !s.mp.writes.any fun w => w.1 < e.wsn && workLine s w.2 == e.line

/-- The first write that may leave: no read of the line that an earlier step caused still waits. -/
def writeReady (s : State) : Option (Nat × MWork) :=
  s.mp.writes.find? fun w => !s.mp.miss.any fun e => e.st == .waitIssue && e.wsn ≤ w.1 && e.line == workLine s w.2

/-- The read that leaves next (R241). -/
def readPick (s : State) : Option Miss :=
  let l := readsReady s
  let below := belowFloors s
  let dem := l.filter (·.kind != .prefetch)
  match (prioOrder s.t).findSome? fun c => if below.contains c then dem.find? (·.qc.toNat == c) else none with
  | some e => some e
  | none => match dem.find? fun e => !below.contains e.qc.toNat with
    | some e => some e
    | none => l.head?

/-- An M command word (Table 16.2). -/
def mWord (tag part op : Nat) (l : LAddr) : BitVec 64 := pack 64 [(45, 11, tag), (44, 1, part), (43, 1, op), (0, 37, l.toNat)]

def setMCmd (w : BitVec 64) (d : Option (Line × Mask)) (s : State) : State :=
  { s with pins := { s.pins with mCmd := some { word := w, data := d } } }

/-- A read leaves, with the MAC RD of a sealed fill (R252). -/
def readIssue (e : Miss) (s : State) : State :=
  let s := setMCmd (mWord e.id 0 0 e.line) none { s with mp := { s.mp with rcr := s.mp.rcr - 1, wrTurn := true } }
  let s := fctr 7 128 (missMod e.id (fun e => { e with st := .waitData }) s)
  let s := match e.opener with | some r => occR 0x40 r 128 s | none => occU 0x40 128 s
  if e.sealed then
    let a := macAddr s e.tc.toNat e.line
    ownSend Op.rd a 8 [] [] (.macRead e.id) s
  else s

/-- What a write carries: tag, M tag bits, line, data, mask, poison, seal, class, context. -/
structure MWr where
  tag    : MTag
  bits   : Nat
  line   : LAddr
  data   : Line
  mask   : Mask
  poi    : Bool
  sealed : Bool
  qc     : BitVec 4
  tc     : BitVec 4

def workInfo (s : State) : MWork → Option MWr
  | .mire i => (s.mp.mire.find? (·.id = i)).map fun m =>
      { tag := .mire (Fin.ofNat 64 i), bits := i % 64, line := m.line, data := m.data, mask := fullMask, poi := m.poi, sealed := m.sealed,
        qc := m.qc, tc := m.tc }
  | .around e => (s.mp.miss.find? (·.id = e)).map fun m =>
      { tag := .around (Fin.ofNat 1024 e), bits := 1024 + e % 1024, line := m.line, data := m.buf, mask := m.mask, poi := m.poi, sealed := m.sealed,
        qc := m.qc, tc := m.tc }
  | .clean k => (s.mp.clean.find? (·.slot = k)).map fun m =>
      { tag := .clean (Fin.ofNat 64 k), bits := 512 + k % 64, line := m.line, data := m.data, mask := fullMask, poi := m.poi, sealed := m.sealed,
        qc := m.qc, tc := m.tc }
  | .wthru l d m p sl qc tc =>
      some { tag := .wthru, bits := Config.wthruTag.toNat, line := l, data := d, mask := m, poi := p, sealed := sl, qc := qc, tc := tc }

/-- What the tables of the port hold once the write has left, and what its MAC WR is for. -/
def workSent (w : MWork) (sl : Bool) (s : State) : State :=
  match w with
  | .mire i => mireMod i (fun m => { m with sent := true, redirty := false, macOut := m.macOut || sl }) s
  | .around _ => s
  | .clean k => { s with mp := { s.mp with clean := lmod (·.slot = k) (fun c : CleanW => { c with macOut := sl }) s.mp.clean } }
  | .wthru _ _ _ _ _ _ _ => s

def macFor (w : MWork) (l : LAddr) (tc : BitVec 4) : OwnKind :=
  match w with
  | .mire i => .macMire i
  | .clean k => .macClean k
  | _ => .macWrite l tc

/-- A write leaves (R249, R250, R358 case 1). -/
def writeIssue (q : Nat × MWork) (s : State) : State :=
  let s := { s with mp := { s.mp with writes := s.mp.writes.filter (·.1 ≠ q.1), wcr := s.mp.wcr - 1, wrTurn := false } }
  let s := match q.2 with
    | .mire i => mireCheck i none s
    | .around e => missCheck e none s
    | _ => s
  match workInfo s q.2 with
  | none => s
  | some w =>
    let x := if w.sealed then sealLine s w.tc.toNat w.line w.data else (w.data, 0)
    let m := if w.sealed then fullMask else w.mask
    let s := setMCmd (mWord w.bits (b2n (m != fullMask)) 1 w.line) (some (x.1, m)) s
    let n := maskCount m
    let s := fctr 7 n (occ 0x41 .p (subjLine w.qc w.tc) n s)
    let s := if w.poi then plistAdd w.line { cause := 0x14, sev := 1, page := true, aspace := 0, laddr := w.line.toNat, tc := w.tc.toNat } s else s
    let s := workSent q.2 w.sealed { s with mp := { s.mp with outW := s.mp.outW ++ [(w.tag, w.line, w.tc)] } }
    if w.sealed then macSend w.tc.toNat w.line x.2 (macFor q.2 w.line w.tc) s else s

/-- M issues one command (R76, R335). -/
def mIssue (s : State) : State :=
  let r := if s.mp.rcr = 0 then none else readPick s
  let w := if s.mp.wcr = 0 then none else writeReady s
  match r, w with
  | some e, some q => if 48 ≤ s.mp.mire.length || s.mp.wrTurn then writeIssue q s else readIssue e s
  | some e, none => readIssue e s
  | none, some q => writeIssue q s
  | none, none => s

/-- A credit returns; one beyond those the slice may hold is discarded (R336). -/
def mCredit (write : Bool) (s : State) : State :=
  if write then { s with mp := { s.mp with wcr := min 128 (s.mp.wcr + 1) } }
  else { s with mp := { s.mp with rcr := min 1024 (s.mp.rcr + 1) } }

/-! ### Fills (R252, R357) -/

/-- A fill whose data, and MAC for a sealed line, have arrived is opened, checked and served. -/
def fillTry (i : Nat) (s : State) : State :=
  let s := missCheck i ((s.mp.miss.find? (·.id = i)).bind (·.opener.map subjReq)) s
  match s.mp.miss.find? (·.id = i) with
  | none => s
  | some e =>
    match e.mdata with
    | none => s
    | some (d, p) =>
      let info : ErrInfo := { cause := 0x10, sev := 1, page := true, aspace := 0, laddr := e.line.toNat, tc := e.tc.toNat,
                              who := e.opener.bind whoReq }
      let s1 := if p = 0 then s else logErr info s
      if !e.sealed then fillServe i d (p != 0) s1
      else match e.mac with
        | none => s
        | some (st, mac) =>
          let k := keyGet s e.tc.toNat
          let w := sealTweak e.tc.toNat (chipN s) e.line.toNat
          let good := st == 0 && sealMac k.km w d == mac
          let s2 := if good then s1
            else
              let s := logErr { info with cause := 0x12 } s1
              match e.opener with | some r => occR 0xC3 r 1 s | none => occU 0xC3 1 s
          fillServe i (xtsOpen k.k1 k.k2 w d) (p != 0 || !good) s2

/-- The bytes that WTHRU writes left in a miss entry wait for M, the oldest first (R73); of a sealed line all of it (R249). -/
def thruSend (e : Miss) (s : State) : State :=
  e.thru.foldl (fun s p => mwPush (.wthru e.line p.data (if e.sealed then fullMask else p.mask) (p.poi || e.poi) e.sealed e.qc e.tc) s) s

/-- A fill's step of installing its line (R65, R66, R78). A prefetch entry to which a demand request attached installs as a demand fill: PF 0,
the tree as for a demand use (log 34). -/
def fillInstallAt (e : Miss) (s : State) : State :=
  let pf := e.kind == .prefetch && e.nAtt == 0
  let slot := fun (s : State) => useSlot (instSet s e.line e.set.toNat) (!pf) (if pf then none else e.opener.map subjReq) s
  let touch := if pf then !e.pfIns && e.attr.ralloc != 2 else e.attr.ralloc != 2
  let s := missCheck e.id (e.opener.map subjReq) s
  let e := (s.mp.miss.find? (·.id = e.id)).getD e
  let i : Inst := { line := e.line, data := e.buf, set := e.set.toNat, qc := e.qc, tc := e.tc, pf := pf, sealed := e.sealed, poi := e.poi, d := missDirty e,
                    touch := touch || e.kind == .whole, who := e.opener.map subjReq }
  match tryInstall i s with
  | .ok s => slot (thruSend e (missDrop e.id s))
  | .mireWait => s
  | .noVictim =>
    let s := slot (match e.opener with | some r => occR 0x26 r 1 s | none => occU 0x26 1 s)
    if e.wrote then
      mwPush (.around e.id) (missMod e.id (fun e => { e with st := .writeOut, mask := fullMask, thru := [] }) s)
    else missDrop e.id s

/-! ### Write acknowledgements (R77, R251, R273, R358 case 2) -/

/-- The sweep of a DRAIN has reached the end of the array. -/
def sweepEnd : Nat := 524288

/-- A DRAIN whose sweep has ended and whose writes are acknowledged completes (R273). -/
def drainTry (s : State) : State :=
  match s.srv.drain with
  | none => s
  | some d =>
    let fin := match d.mode with
      | .empty => d.pos == sweepEnd && s.mp.mire.isEmpty
      | .clean => d.pos == sweepEnd && s.mp.clean.isEmpty
      | .halt => false
    if fin then mbxDone d.mbx Mc.ok [d.wb, d.inv] { s with srv := { s.srv with drain := none } } else s

/-- A Mire entry whose write-back is acknowledged and whose MAC is written frees, or leaves again. -/
def mireFree (i : Nat) (s : State) : State :=
  match s.mp.mire.find? (·.id = i) with
  | none => s
  | some m =>
    if m.macOut || m.sent then s
    else if m.redirty then mwPush (.mire i) (mireMod i (fun m => { m with redirty := false }) s)
    else if s.mp.writes.any (fun w => w.2 == .mire i) then s
    else drainTry { s with mp := { s.mp with mire := s.mp.mire.filter fun m => m.id ≠ i } }

def cleanFree (k : Nat) (s : State) : State :=
  match s.mp.clean.find? (·.slot = k) with
  | none => s
  | some c =>
    if c.ackOut || c.macOut then s
    else drainTry { s with mp := { s.mp with clean := s.mp.clean.filter (·.slot ≠ k) } }

/-- M acknowledges the write that bore tag `t`, which is outstanding for line `l`. -/
def wackAt (t : MTag) (l : LAddr) (tc : BitVec 4) (err : Bool) (s : State) : State :=
  let i := s.mp.outW.findIdx fun x => x.1 == t
  let s := { s with mp := { s.mp with outW := s.mp.outW.eraseIdx i } }
  let s := if err then plistAdd l { cause := 0x11, sev := 1, page := true, aspace := 0, laddr := l.toNat, tc := tc.toNat } s else s
  match t with
  | .mire i => mireFree i.val (mireMod i.val (fun m => { m with sent := false }) s)
  | .around e => missDrop e.val s
  | .clean k => cleanFree k.val { s with mp := { s.mp with clean := lmod (·.slot = k.val) (fun c : CleanW => { c with ackOut := false }) s.mp.clean } }
  | .wthru => s

/-- A MAC WR is answered (R251). -/
def macWriteAt (k : OwnKind) (st : Nat) (s : State) : State :=
  let failed := fun (l : LAddr) (tc : BitVec 4) (s : State) =>
    if st = St.ok then s else logErr { cause := 0x13, sev := 0, aspace := 0, laddr := l.toNat, tc := tc.toNat, status := st } s
  match k with
  | .macMire i =>
    match s.mp.mire.find? (·.id = i) with
    | none => s
    | some m => mireFree i (failed m.line m.tc (mireMod i (fun m => { m with macOut := false }) s))
  | .macClean j =>
    match s.mp.clean.find? (·.slot = j) with
    | none => s
    | some c => cleanFree j (failed c.line c.tc { s with mp := { s.mp with clean := lmod (·.slot = j) (fun c : CleanW => { c with macOut := false }) s.mp.clean } })
  | .macWrite l tc => failed l tc s
  | _ => s

end Sys2Proof.Machine
end

