-- ==== Sys2Proof/Machine/Tally.lean ====
section
/-! DEFINITION. Tally waits and reads, releases and deadline reports (R206 to R211, R308, R318). -/

namespace Sys2Proof.Machine

/-- TW_PARK record (Table 15.3). -/
def parkEv (r : Req) : TEv :=
  let m := r.msg
  tev 0x01 [(140, 12, hTally m), (92, 48, twThresh m), (80, 12, hReqid m), (66, 14, hSrc m), (50, 16, hTxid m), (30, 20, hWtag m),
    (29, 1, b2n (twDeadline m != 0))] (some (subjReq r)) (some (hTally m)) none (portOrd r.port)

/-- TW_RELEASE record, with the tally's value at the release. -/
def releaseEv (s : State) (w : Parked) : TEv :=
  let m := w.req.msg
  let a := w.by_.getD (s.pins.sreqid, s.pins.chipId)
  tev 0x02 [(140, 12, w.tally.toNat), (92, 48, w.val.toNat), (80, 12, hReqid m), (66, 14, hSrc m), (50, 16, hTxid m),
    (38, 12, a.1.toNat), (24, 14, a.2.toNat), (0, 24, sat24 (s.clk.ft - w.parkFt).toNat)] (some (subjReq w.req)) (some w.tally.toNat) none 7

/-- A TWAIT answers with the present value of its tally. -/
def twaitComp (r : Req) (st : Nat) (s : State) : State := compTo r.port r.msg (subjReq r) st (tallyVal s (hTally r.msg)) s

/-- A TWAIT reaches the tally logic (R207); `none` when its park record finds no room (R318). -/
def twaitAt (r : Req) (s : State) : Option State :=
  let m := r.msg
  let s := tallyUse (hTally m) (some (subjReq r)) s
  if passed (tallyVal s (hTally m)) (twThresh m) then some (twaitComp r St.ok (occR 0x91 r 1 s))
  else if 256 ≤ s.tal.parked.length then some (compTo r.port m (subjReq r) St.retry 0 (occR 0x14 r 1 s))
  else if !losslessRoom (parkEv r) s then none
  else
    let w : Parked := { slot := (lowest 256 fun i => s.tal.parked.all (·.slot ≠ i)).getD 0, req := r, tally := BitVec.ofNat 12 (hTally m),
                        thresh := BitVec.ofNat 48 (twThresh m), deadline := BitVec.ofNat 64 (twDeadline m), reported := false, parkFt := s.clk.ft,
                        parkRun := s.clk.run, by_ := none, val := 0, due := none }
    some (traceEv (parkEv r) (occR 0x92 r 1 { s with tal := { s.tal with parked := s.tal.parked ++ [w] } }))

/-- The request a D port selects goes to the tally logic or to Mace: its entry frees (R33, R227). -/
def portPass (p : DPort) (op : Nat) (f : Req → State → Option State) (s : State) : State :=
  match selectReq s p with
  | none => s
  | some (i, g, fl) =>
    if hOpcode g.req.msg ≠ op then s
    else match f g.req (portPick p i g fl s) with
      | some s => popIng p i s
      | none => s

/-- A parked wait has passed at the end of an SCLK, and its record finds room (R208, R318). -/
def releasable (s : State) (w : Parked) : Bool := w.by_.isSome && losslessRoom (releaseEv s w) s

/-- The report of the `k`-th parked wait is raised, once the end of an SCLK has found its deadline reached (R210, R211). -/
def twaitDeadlineAt (k : Nat) (s : State) : State :=
  match s.tal.parked[k]? with
  | none => s
  | some w =>
    match w.due with
    | none => s
    | some at_ =>
      let m := w.req.msg
      let s := ctlUse (.parked w.slot) (some (subjReq w.req)) s
      let s := { s with tal := { s.tal with parked := lmod (·.slot = w.slot) (fun x => { x with reported := true, due := none }) s.tal.parked } }
      let s := notice (.event 1 (deadlineRec at_ w.tally.toNat w.thresh.toNat (hReqid m) (hSrc m) (hTxid m) 0 0 (hWtag m))) (occU 0x95 1 s)
      traceEv (deadlineEv at_ w.tally.toNat (hReqid m) (hSrc m) (hTxid m) 0 0 (some (subjReq w.req))) s

/-- The `k`-th parked wait is released once it may be and none that parked before it may (R208), with its tally's value at the end of
the SCLK of its release. -/
def releaseAt (k : Nat) (s : State) : State :=
  match s.tal.parked[k]? with
  | none => s
  | some w =>
    if !releasable s w || (s.tal.parked.take k).any (releasable s) then s
    else
      let s := ctlUse (.parked w.slot) (some (subjReq w.req)) (twaitDeadlineAt k s)
      let e := releaseEv s w
      let s := { s with tal := { s.tal with parked := s.tal.parked.eraseIdx k } }
      compTo w.req.port w.req.msg (subjReq w.req) St.ok w.val.toNat (traceEv e (occR 0x93 w.req 1 s))

/-- The report of a resolve whose deadline the end of an SCLK has found reached (R142). -/
def resolveDeadlineAt (rid : Nat) (s : State) : State :=
  match regionFind s rid with
  | none => s
  | some r =>
    match r.res with
    | none => s
    | some x =>
      match x.due with
      | none => s
      | some at_ =>
        let s := regionMod rid (fun r => { r with res := some { x with reported := true, due := none } }) s
        let s := notice (.event 1 (deadlineRec at_ x.rtally.toNat x.thresh.toNat 0 0 0 rid 1 0)) (occU 0x95 1 s)
        traceEv (deadlineEv at_ x.rtally.toNat 0 0 0 rid 1 none) s

/-! ### The end of an SCLK (R208, R210, R308) -/

/-- The waits that may be released are, in park order, at most `n` of them. -/
def releaseAll : Nat → State → State
  | 0, s => s
  | n + 1, s =>
    match s.tal.parked.findIdx? (releasable s) with
    | some k => releaseAll n (releaseAt k s)
    | none => s

/-- Who carried tally `t` past a threshold among the additions of the SCLK: the one of the lowest place (R308). -/
def adderOf (l : List TAdd) (t : Nat) : Option (BitVec 12 × BitVec 14) :=
  ((List.range 8).findSome? fun p => l.find? fun a => a.tally == t && a.ord == p).map TAdd.who

/-- A parked wait at the end of an SCLK: it has passed, or its deadline has come, or it waits on. -/
def waitEnd (s : State) (w : Parked) : Parked :=
  let v := tallyVal s w.tally.toNat
  let reached := w.deadline ≠ 0 && !w.reported && w.due.isNone && s.clk.ftv && w.deadline ≤ s.clk.ft
  let at_ := if reached then some (s.clk.ft, BitVec.ofNat 48 v) else w.due
  if w.by_.isSome then { w with val := BitVec.ofNat 48 v, due := at_ }
  else if passed v w.thresh.toNat then
    { w with by_ := some ((adderOf s.tal.adds w.tally.toNat).getD (s.pins.sreqid, s.pins.chipId)), val := BitVec.ofNat 48 v }
  else { w with due := at_ }

/-- An armed resolve of region `r` at the end of an SCLK: its deadline may have come (R142). -/
def resolveWaitEnd (s : State) (r : Region) (x : Resolve) : Resolve :=
  if x.deadline ≠ 0 && !x.reported && x.due.isNone && x.readyAt.isNone && !resolveCanReady s r x && s.clk.ftv && x.deadline ≤ s.clk.ft then
    { x with due := some (s.clk.ft, BitVec.ofNat 48 (tallyVal s x.rtally.toNat)) }
  else x

/-- Every deadline report that an SCLK left to raise is raised. -/
def reportAll (s : State) : State :=
  (List.range 16).foldl (fun s i => resolveDeadlineAt i s) ((List.range s.tal.parked.length).foldl (fun s k => twaitDeadlineAt k s) s)

/-- The end of an SCLK for the tallies: what the SCLK before left to report or to release is done, and the waits are checked. -/
def tallyTick (s : State) : State :=
  let s := releaseAll 256 (reportAll s)
  { s with tal := { s.tal with parked := s.tal.parked.map (waitEnd s), adds := [] },
           fen := { s.fen with regions := s.fen.regions.map fun r => { r with res := r.res.map (resolveWaitEnd s r) } } }

end Sys2Proof.Machine
end

