-- ==== Sys2Proof/Machine/Cmd.lean ====
section
/-! DEFINITION. How a mailbox command starts: the start queue, the order of its checks, reserved argument bits (R11, R54, R259 to R264, R269, Table 1.7). -/

namespace Sys2Proof.Machine

/-- A bit field of the latched arguments of mailbox `t`. -/
def argF (s : State) (t i lo w : Nat) : Nat := fld (mArg s t i) lo w

def argB (s : State) (t i b : Nat) : Bool := nbit (mArg s t i) b

/-- Some bit of the reserved fields (argument, low bit, width) is 1 (R11, R259). -/
def argRsv (s : State) (t : Nat) (l : List (Nat × Nat × Nat)) : Bool := l.any fun f => argF s t f.1 f.2.1 f.2.2 != 0

/-- The status of the first condition that holds. -/
def firstOf : List (Bool × Nat) → Option Nat
  | [] => none
  | (c, st) :: r => if c then some st else firstOf r

/-- The command at the head of the start queue, if it has the opcode and the sub-operation, starts: output words of
earlier commands are discarded (R261), and `f` performs it. -/
def cmdRun (op : Nat) (sub : State → Nat → Bool) (f : Nat → State → State) (s : State) : State :=
  if !coreRuns s then s
  else match s.startQ with
    | [] => s
    | t :: rest =>
      let m := mbxGet s t
      if m.op.toNat = op && sub s t then f t (mbxSet t { m with outF := [] } { s with startQ := rest }) else s

def anySub (_ : State) (_ : Nat) : Bool := true

/-- Completes with the status of the first check that fails and the results `res`, or performs `f`. -/
def checked (t : Nat) (l : List (Bool × Nat)) (res : State → List Nat) (f : State → State) (s : State) : State :=
  match firstOf l with
  | some st => mbxDone t st (if st = Mc.eperm || st = Mc.zeroNop then [] else res s) s
  | none => f s

def noRes (_ : State) : List Nat := []

/-- The datapath is in service; commands that need it complete with ESTATE otherwise (Table 1.7). -/
def noDatapath (s : State) : Bool := !s.pins.present

end Sys2Proof.Machine
end

