-- ==== Sys2Proof/Machine/Count.lean ====
section
/-! DEFINITION. Counters: what an SCLK adds, captures, resets, samples and dump records (Chapter 14). -/

namespace Sys2Proof.Machine

/-! ### Events (Table 14.4) -/

/-- The kind of an event; `none` for a code that the table does not list. -/
def evKind (v : Nat) : Option OccKind :=
  if v ∈ [0x2B, 0x2C, 0x2D, 0x42, 0x43, 0x89, 0x94, 0x95, 0xB2, 0xC0, 0xC1, 0xD0, 0x00, 0x01] then some .u
  else if 0xC8 ≤ v && v ≤ 0xCF then some .u
  else if v ∈ [0x27, 0x28, 0x34, 0x41] then some .p
  else if v ∈ [0xA1, 0xA2] then some .q
  else if (0x10 ≤ v && v ≤ 0x19) || (0x20 ≤ v && v ≤ 0x2A) || (0x30 ≤ v && v ≤ 0x33) || v == 0x40 || (0x50 ≤ v && v ≤ 0x54) ||
      (0x60 ≤ v && v ≤ 0x68) || (0x70 ≤ v && v ≤ 0x72) || (0x80 ≤ v && v ≤ 0x88) || (0x90 ≤ v && v ≤ 0x93) ||
      v ∈ [0xA0, 0xA3, 0xB0, 0xB1, 0xB3, 0xC2, 0xC3] then some .r
  else none

def isGauge (v : Nat) : Bool := 0xC8 ≤ v && v ≤ 0xCF

/-! ### Counting (R287, R288, R292) -/

def ctrGet (s : State) (n : Nat) : Ctr := sget (fun _ => Ctr.reset) s.ctr.ctr n

def ctrPut (n : Nat) (c : Ctr) (s : State) : State :=
  { s with ctr := { s.ctr with ctr := sset (fun _ => Ctr.reset) s.ctr.ctr n c } }

/-- Occurrences that entry `e` counts, in the order of R305. -/
def ctOccs (s : State) (e : Nat) (c : Ctr) : List Occ :=
  if !ctEn e || !c.run || ctEvent e == 0 || isGauge (ctEvent e) then []
  else
    let l := s.ctr.occ.filter fun o => o.n != 0 && o.ev.toNat == ctEvent e && ctPasses e o.kind o.subj
    (List.range 8).flatMap fun p => l.filter (·.ord == p)

/-- Odd counter `n` counts the carries of counter `n - 1`. -/
def chained (s : State) (n : Nat) : Bool := n % 2 == 1 && ctChain (ctE s.t n)

/-- Counter `n - 1` passes its carries on. -/
def chainsUp (s : State) (n : Nat) : Bool := chained s (n + 1)

/-- A value after an increment, and whether it passed 2^48 - 1. -/
def ctAdd (e : Nat) (c : Ctr) (k : Nat) : BitVec 48 × Bool :=
  let v := c.val.toNat + k
  if 2 ^ 48 ≤ v then (if ctRld e then c.load else BitVec.ofNat 48 v, true) else (BitVec.ofNat 48 v, false)

/-- The status a subject completed with in this SCLK, by the occurrences about it (Table 14.11). -/
def subjStatus (s : State) (j : Subj) : Nat :=
  let has := fun (v : Nat) => s.ctr.occ.any fun o => o.ev.toNat == v && o.subj == j
  if has 0xC2 then St.poison else if has 0x11 then St.unsupported else if has 0x12 then St.denied
  else if has 0x13 then St.stale else if has 0x14 then St.retry else if has 0x88 then St.timeout else St.ok

/-- A counter by its own event: the counter after this SCLK's occurrences, whether it carried, and the first subject. -/
def ctOwn (s : State) (n : Nat) : Ctr × Bool × Option (Subj × Nat) :=
  let e := ctE s.t n
  let c := ctrGet s n
  let l := ctOccs s e c
  if l.isEmpty then (c, false, none)
  else
    let x := ctAdd e c (l.foldl (fun a o => a + o.n) 0)
    ({ c with val := x.1 }, x.2, (l.find? (·.kind == .r)).map fun o => (o.subj, subjStatus s o.subj))

/-- Counter `n` after this SCLK's occurrences, and its overflow if it has one, with the subject (R292, R305). -/
def ctNext (s : State) (n : Nat) : Ctr × Option (Option (Subj × Nat)) :=
  if chained s n then
    let lo := ctOwn s (n - 1)
    let e := ctE s.t n
    let c := ctrGet s n
    if lo.2.1 && ctEn e && c.run then
      let x := ctAdd e c 1
      ({ c with val := x.1, ovf := c.ovf || x.2 }, if x.2 then some lo.2.2 else none)
    else (c, none)
  else
    let x := ctOwn s n
    if x.2.1 && !chainsUp s n then ({ x.1 with ovf := true }, some x.2.2) else (x.1, none)

/-- The occurrences of the SCLK are added (R287). -/
def settle (s : State) : State :=
  if s.ctr.occ.isEmpty then s
  else
    let l := (List.range 64).map fun n => (n, ctNext s n)
    let ov := l.filterMap fun x => x.2.2.map fun j => (x.1, j)
    let cs := l.foldl (fun a x => sset (fun _ => Ctr.reset) a x.1 x.2.1) s.ctr.ctr
    { s with ctr := { s.ctr with ctr := cs, occ := [], ovl := s.ctr.ovl ++ ov } }

/-! ### Resets and segments (R291, R298, R299) -/

/-- The first request classified in this SCLK that passes a counter's REQID, QC and TC filters, in the order S, D0, D1. -/
def segFirst (s : State) (e : Nat) : Option Subj :=
  let e' := fun (j : Subj) => (ctOwner e == 0 || j.tc.toNat == ctOwner e) && nbit (ctQcmask e) j.qc.toNat &&
    (!ctTcen e || j.tc.toNat == ctTcf e) && (j.reqid.toNat ^^^ ctReqid e) &&& ctRmask e == 0
  [4, 5, 6].findSome? fun p => ((s.ctr.cls.find? fun x => x.1 == p && e' x.2)).map Prod.snd

/-- Counter `n` reaches a segment boundary in this SCLK; the answer is its next tag. -/
def segEnd (s : State) (n : Nat) : Option (BitVec 20) :=
  let e := ctE s.t n
  if !ctSeg e then none
  else match segFirst s e, (ctrGet s n).tag with
    | some j, some t => if (j.wtag.toNat ^^^ t.toNat) &&& ctWmask e ≠ 0 then some j.wtag else none
    | _, _ => none

/-- Counter `n` is reset in this SCLK by a cause of its own. -/
def resetsOwn (s : State) (n : Nat) : Bool := s.ctr.rst.any (·.n == n) || (segEnd s n).isSome

/-- Counter `n` is reset in this SCLK (R292, R299). -/
def resetsNow (s : State) (n : Nat) : Bool := resetsOwn s n || (chained s n && resetsOwn s (n - 1))

/-- The state of counter `n` in the SCLK after one whose resets are those of `s` (R291, R292, R298). -/
def ctAfter (s : State) (n : Nat) : Ctr :=
  let e := ctE s.t n
  let c := ctrGet s n
  let own := s.ctr.rst.filter (·.n == n)
  let up := if chained s n then s.ctr.rst.filter (·.n == n - 1) else []
  if own.any (·.commit) || up.any (·.commit) then { c with val := 0, ovf := false, run := true, load := 0, tag := none }
  else
    let tag := match segEnd s n with
      | some t => some t
      | none => if ctSeg e && c.tag.isNone then (segFirst s e).map Subj.wtag else c.tag
    match own.getLast? with
    | some r => { c with val := r.val, ovf := false, tag := tag }
    | none =>
      if !up.isEmpty then { c with val := 0, ovf := false, tag := tag }
      else if (segEnd s n).isSome || (chained s n && (segEnd s (n - 1)).isSome) then { c with val := 0, tag := tag }
      else { c with tag := tag }

/-! ### Captures (R287, R299) -/

/-- A counter as captured in this SCLK: value, OVF, RUN, RC and segment tag. -/
structure Cap where
  val : Nat
  ovf : Bool
  run : Bool
  rc  : Bool
  tag : Nat

def capture (s : State) (n : Nat) : Cap :=
  let c := (ctNext s n).1
  { val := c.val.toNat, ovf := c.ovf, run := c.run, rc := resetsNow s n, tag := (c.tag.getD 0).toNat }

/-- Fixed counter Fk (Table 14.3). -/
def fctrGet (s : State) (k : Nat) : Nat := (sget (fun _ => 0) s.ctr.f k).toNat

/-! ### Samples (R303 to R306, Tables 14.10, 14.11) -/

/-- A native record without its SEQ. -/
def nativeRec (ft val wtag ctr event skid cause : Nat) (rc ovf : Bool) (j : Option Subj) : Rec :=
  let k := j.getD { reqid := 0, qc := 0, tc := 0, wtag := 0, laddr := 0, aspace := 0, opcode := 0, chip := 0 }
  pack 256 [(192, 64, ft), (112, 48, val), (92, 20, wtag), (80, 12, k.reqid.toNat), (76, 4, k.qc.toNat), (72, 4, k.tc.toNat), (66, 6, ctr),
    (58, 8, event), (52, 6, skid), (50, 2, cause), (49, 1, b2n rc), (48, 1, b2n j.isNone), (47, 1, b2n ovf), (10, 37, k.laddr.toNat),
    (8, 2, k.aspace.toNat), (0, 8, 1)]

/-- A precise record without its SEQ. -/
def preciseRec (ft val ctr event status : Nat) (rc : Bool) (j : Subj) : Rec :=
  pack 256 [(192, 64, ft), (155, 37, j.laddr.toNat), (153, 2, j.aspace.toNat), (147, 6, j.opcode.toNat), (133, 14, j.chip.toNat),
    (121, 12, j.reqid.toNat), (101, 20, j.wtag.toNat), (97, 4, j.qc.toNat), (93, 4, j.tc.toNat), (87, 6, ctr), (79, 8, event), (78, 1, b2n rc),
    (74, 3, status), (24, 48, val), (0, 8, 2)]

/-- A record with its sequence number. -/
def recSeq (r : Rec) (q : Nat) : Rec :=
  if r.toNat % 256 = 2 then BitVec.ofNat 256 (r.toNat + (q % 2 ^ 16) * 2 ^ 8) else BitVec.ofNat 256 (r.toNat + (q % 2 ^ 32) * 2 ^ 160)

/-- A record enters the sample buffer (R306). -/
def sampPush (r : Rec) (s : State) : State :=
  if !dpSen s.t then s
  else if 16 ≤ s.ctr.samp.length then { s with ctr := { s.ctr with slost := s.ctr.slost + 1 } }
  else { s with ctr := { s.ctr with samp := s.ctr.samp ++ [recSeq r s.ctr.sseq.toNat], sseq := s.ctr.sseq + 1 } }

/-- The periodic record of counter `n` (R303). -/
def periodicRec (s : State) (n : Nat) : Rec :=
  let e := ctE s.t n
  let c := capture s n
  nativeRec (ftN s) c.val (if ctSeg e then c.tag else 0) n (ctEvent e) 0 0 c.rc c.ovf none

/-- The segment-end record of counter `n` (R298). -/
def segRec (s : State) (n : Nat) : Rec :=
  let c := capture s n
  nativeRec (ftN s) c.val c.tag n (ctEvent (ctE s.t n)) 0 2 c.rc c.ovf none

/-- A sample record taken in this SCLK; the tick puts the SCLK's records in order into the buffer (R306). -/
def sampTake (n place : Nat) (r : Option Rec) (s : State) : State :=
  { s with ctr := { s.ctr with snew := s.ctr.snew ++ [(n, place, r)] } }

/-! ### The rings (R301, R302, R306) -/

/-- Dump and sample WRs in flight. -/
def ringFlight (s : State) : Nat :=
  (s.srv.own.filter fun o => match o.kind with | .dump _ _ => true | .sample _ _ => true | _ => false).length

/-- Waiting dump lines leave while fewer than 8 writes are in flight. -/
def dumpPump : Nat → State → State
  | 0, s => s
  | k + 1, s =>
    match s.ctr.dump.q with
    | [] => s
    | x :: rest =>
      if 8 ≤ ringFlight s then s
      else dumpPump k (ownWriteLine (lineAddr x.addr) x.data (.dump x.addr x.seq) { s with ctr := { s.ctr with dump := { s.ctr.dump with q := rest } } })

/-- A capture is taken at the end of this SCLK (R287, log 38). -/
def capAt (c : CapReq) (s : State) : State := { s with ctr := { s.ctr with caps := s.ctr.caps ++ [c] } }

/-- A dump is to be taken, or its writes are outstanding. -/
def dumpBusy (s : State) : Bool :=
  s.ctr.caps.contains .dump || !s.ctr.dump.q.isEmpty || s.srv.own.any fun o => match o.kind with | .dump _ _ => true | _ => false

def dumpLines (cmask : Nat) : Nat := 1 + cdiv (8 * popNat 64 cmask) 128

/-- Line 0 of a dump record (Table 14.8). -/
def dumpHead (s : State) (cmask lines : Nat) : Line :=
  pack 1024 ([(448, 64, cmask), (416, 32, s.ctr.dump.lost.toNat), (384, 32, s.gen.gen.toNat), (352, 32, s.ctr.dump.seq.toNat), (340, 12, sreqN s),
    (326, 14, chipN s), (323, 3, lines), (0, 64, ftN s)] ++ (List.range 8).map fun k => (512 + 64 * k, 64, fctrGet s k))

/-- The words of the counters of a dump, and line `i` (from 1) of them. -/
def dumpWords (s : State) (cmask : Nat) : List Nat :=
  ((List.range 64).filter (nbit cmask)).map fun n =>
    let c := capture s n
    packNat [(63, 1, b2n c.ovf), (62, 1, b2n c.run), (61, 1, b2n c.rc), (0, 48, c.val)]

def dumpBody (ws : List Nat) (i : Nat) : Line := pack 1024 (((ws.drop (16 * (i - 1))).take 16).zipIdx.map fun x => (64 * x.2, 64, x.1))

/-- Takes a dump: the record's lines wait to leave, NEXT and SEQ advance (R301). -/
def dumpTake (s : State) : State :=
  let g := s.t
  let cm := dpCmask g
  let lines := dumpLines cm
  let size := 2 ^ dpLog2 g
  let d := s.ctr.dump
  let at_ := if size - d.next < lines then 0 else d.next
  let ws := dumpWords s cm
  let l := (List.range lines).map fun i =>
    { addr := (dpBase g + at_ + i) * 128, seq := d.seq, data := if i = 0 then dumpHead s cm lines else dumpBody ws i : DLine }
  dumpPump 8 { s with ctr := { s.ctr with dump := { d with next := (at_ + lines) % size, seq := d.seq + 1, lost := 0, q := d.q ++ l } } }

/-- The FT instant of the next scheduled dump. -/
def dumpDue (s : State) : Bool :=
  dpInterval s.t != 0 && s.clk.ftv && pdOn s 76 && dpFirst s.t + s.ctr.dump.k * dpInterval s.t * 1024 ≤ ftN s

/-- The smallest `k` above the present one whose instant `a + k * p` lies after `f`. -/
def nextK (a p f k : Nat) : Nat := max (k + 1) ((f - a) / p + 1)

end Sys2Proof.Machine
end

