-- ==== Sys2Proof/Machine/Ingress.lean ====
section
/-! DEFINITION. Meanings: arrivals on the ports, and requests at their tag-pipe step. -/

namespace Sys2Proof.Machine

/-- What every meaning answers. -/
abbrev Out3 := Host.Outcome State Fault Refusal

/-- REQUEST_INGRESS (R227, R229, R330, R375): a request on class REQ that the port takes; a request opcode on
another class is answered UNSUPPORTED without an entry (step 1 of Table 2.9). -/
def execRequestIngress (p : DPort) (m : Msg) (qc : BitVec 4) (s : State) : Out3 :=
  .next (if hVc m = Vc.req then (if takesReq s p then ingressD p m qc s else s)
    else if s.pins.present && isReqOp (hOpcode m) then refuseMsg (dport p) m St.unsupported (recvBeats m s)
    else s)

/-- S_PORT_REQUEST (R94, R334): discarded while PRESENT is 0. -/
def execSPortRequest (m : Msg) (s : State) : Out3 := .next (if s.pins.present then ingressS m s else s)

/-- CREDIT_LEND (R227 step 3). -/
def execCreditLend (p : DPort) (qwant : BitVec 16) (s : State) : Out3 :=
  .next (
    let x := portGet s p
    if s.pins.present && commonRoom s.t x then
      match lendTo s x qwant with
      | none => s
      | some (c, rr) =>
        let x := grantCredit c x
        occ 0xA2 .q (subjLine (BitVec.ofNat 4 c) 0) 1 (portSet p (if rr then { x with rrLend := BitVec.ofNat 4 c } else x) s)
    else s)

/-- The request that a port selects, of any of the three ports, takes its step if it has the opcode. -/
def anyStep (p : Port) (op : Nat) (s : State) : State :=
  match p with
  | .d0 => portStep .d0 op s
  | .d1 => portStep .d1 op s
  | .s => sStep op s

/-- RD (R41). -/
def execRd (p : Port) (s : State) : Out3 := .next (anyStep p Op.rd s)
/-- WR (R72). -/
def execWr (p : Port) (s : State) : Out3 := .next (anyStep p Op.wr s)
/-- RED (R126). -/
def execRed (p : DPort) (s : State) : Out3 := .next (portStep p Op.red s)
/-- ATOM (R44). -/
def execAtom (p : DPort) (s : State) : Out3 := .next (portStep p Op.atom s)
/-- TWAIT (R207). -/
def execTwait (p : DPort) (s : State) : Out3 := .next (portPass p Op.twait twaitAt s)
/-- TREAD (R206). -/
def execTread (p : DPort) (s : State) : Out3 :=
  .next (portPass p Op.tread (fun r s => some (twaitComp r St.ok (tallyUse (hTally r.msg) (some (subjReq r)) s))) s)
/-- CHAIN_RD (R47). -/
def execChainRd (s : State) : Out3 := .next (sStep Op.chainRd s)
/-- RD_SHR (R169). -/
def execRdShr (p : DPort) (s : State) : Out3 := .next (portStep p Op.rdShr s)
/-- RD_UNQ (R169). -/
def execRdUnq (p : DPort) (s : State) : Out3 := .next (portStep p Op.rdUnq s)
/-- UPGRADE (R169). -/
def execUpgrade (p : DPort) (s : State) : Out3 := .next (portStep p Op.upgrade s)
/-- WB (R169). -/
def execWb (p : DPort) (s : State) : Out3 := .next (portStep p Op.wb s)
/-- EVICT (R169). -/
def execEvict (p : DPort) (s : State) : Out3 := .next (portStep p Op.evict s)
/-- ATOM_C (R179). -/
def execAtomC (p : DPort) (s : State) : Out3 := .next (portStep p Op.atomC s)
/-- RD_ONCE (R169). -/
def execRdOnce (p : DPort) (s : State) : Out3 := .next (portStep p Op.rdOnce s)

/-- HELD_REQUEST_REPRESENT (R230): the held entry at place `k` waits to be presented again. -/
def execHeldRequestRepresent (p : DPort) (k : Nat) (s : State) : Out3 :=
  .next (
    let x := portGet s p
    match x.ing[k]? with
    | some g =>
      match g.hold with
      | some h =>
        if holdOver s g.req h && !s.srv.halt then
          portSet p { x with ing := (x.ing.zipIdx).map fun e => if e.2 = k then { e.1 with hold := none } else e.1 } s
        else s
      | none => s
    | none => s)

/-- TWAIT_RELEASE (R208). -/
def execTwaitRelease (k : Nat) (s : State) : Out3 := .next (releaseAt k s)
/-- TALLY_DEADLINE (R210). -/
def execTallyDeadline (k : Nat) (s : State) : Out3 := .next (twaitDeadlineAt k s)

end Sys2Proof.Machine
end

