-- ==== Sys2Proof/Machine/CountCmds.lean ====
section
/-! DEFINITION. Meanings: CTR_CONFIG, DUMP_CONFIG, dumps, samples, the tier gauges. -/

namespace Sys2Proof.Machine

/-! ### CTR_CONFIG (R289, R297, Table 14.6) -/

/-- Counters that a CTR_CONFIG names. -/
def ctrRange (s : State) (t : Nat) : List Nat := (List.range (argF s t 0 8 7)).map fun i => argF s t 0 0 7 + i

/-- Context `t` may issue CTR_CONFIG for counter `n`. -/
def ctrPerm (s : State) (t n : Nat) : Bool := t == 0 || (n < 64 && ctOwner (ctE s.t n) == t)

/-- PD76 serves counters (R286). -/
def noCounters (s : State) : Bool := !pdOn s 76

def ctrChecks (s : State) (t : Nat) : List (Bool × Nat) :=
  let first := argF s t 0 0 7
  let count := argF s t 0 8 7
  let op := argF s t 0 16 4
  [(!(ctrRange s t).all (ctrPerm s t), Mc.eperm), (count = 0, Mc.zeroNop),
    (argRsv s t [(0, 20, 12), (0, 15, 1), (0, 7, 1), (2, 16, 16), (4, 16, 16)] || 72 < first + count || 5 ≤ op || (op ≠ 0 && 64 < first + count),
      Mc.einval), (noCounters s, Mc.estate)]

/-- The two words of a counter in a READ. -/
def ctrWords (s : State) (n : Nat) : List Nat :=
  if 64 ≤ n then [fctrGet s (n - 64) % 2 ^ 32, fctrGet s (n - 64) / 2 ^ 32]
  else
    let c := capture s n
    [c.val % 2 ^ 32, packNat [(31, 1, b2n c.ovf), (30, 1, b2n c.run), (29, 1, b2n c.rc), (0, 16, c.val / 2 ^ 32)]]

/-- CTR_CONFIG of operation `op`: the checks, then `f`. -/
def ctrCmd (f : Nat → State → State) (t : Nat) (s : State) : State := checked t (ctrChecks s t) noRes (f t) s

def ctrSub (op : Nat) (s : State) (t : Nat) : Bool := argF s t 0 16 4 == op

/-- An operation on every counter of the range, then OK with the FT value of the SCLK. -/
def ctrEach (g : Nat → State → State) (t : Nat) (s : State) : State :=
  mbxDone t Mc.ok (ftWords s.clk.ft) ((ctrRange s t).foldl (fun s n => g n s) s)

/-- CTR_READ (R297): the counters are captured at the end of the SCLK (R287). A reserved OP belongs to this row. -/
def execCtrRead (s : State) : Out3 :=
  .next (cmdRun 0x40 (fun s t => ctrSub 0 s t || 5 ≤ argF s t 0 16 4) (ctrCmd fun t s => capAt (.read t) (mbxWork t s)) s)

/-- The captured words of a READ go to its mailbox. -/
def readOut (t : Nat) (s : State) : State :=
  if (mbxGet s t).phase == .work && (mbxGet s t).op == 0x40 then mbxOut t ((ctrRange s t).flatMap (ctrWords s)) (ftWords s.clk.ft) s else s

/-- A counter takes a value by ZERO or LOAD at the end of this SCLK (R299). -/
def ctrReset (n : Nat) (v : BitVec 48) (s : State) : State :=
  { s with ctr := { s.ctr with rst := s.ctr.rst ++ [{ n := n, val := v, zl := true, commit := false }] } }

/-- LOAD's value for a counter, by its parity. -/
def loadVal (s : State) (t n : Nat) : BitVec 48 :=
  let i := if n % 2 = 0 then 1 else 3
  BitVec.ofNat 48 (mArg s t i + 2 ^ 32 * argF s t (i + 1) 0 16)

/-- CTR_LOAD. -/
def execCtrLoad (s : State) : Out3 :=
  .next (cmdRun 0x40 (ctrSub 1) (ctrCmd fun t s =>
    ctrEach (fun n s => let v := loadVal s t n; ctrReset n v (ctrPut n { ctrGet s n with load := v } s)) t s) s)

/-- CTR_ZERO. -/
def execCtrZero (s : State) : Out3 := .next (cmdRun 0x40 (ctrSub 2) (ctrCmd (ctrEach fun n s => ctrReset n 0 s)) s)

/-- RUN of every counter of the range: the count of this whole SCLK is made under it (log 38). -/
def ctrRunSet (b : Bool) (t : Nat) (s : State) : State := ctrEach (fun n s => ctrPut n { ctrGet s n with run := b } s) t s

/-- CTR_STOP. -/
def execCtrStop (s : State) : Out3 := .next (cmdRun 0x40 (ctrSub 3) (ctrCmd (ctrRunSet false)) s)

/-- CTR_START. -/
def execCtrStart (s : State) : Out3 := .next (cmdRun 0x40 (ctrSub 4) (ctrCmd (ctrRunSet true)) s)

/-! ### Samples -/

/-- A native sample's record enters the SCLK's records, and the wait ends. -/
def nativeEnd (x : NatPend) (s : State) : State :=
  let e := ctE s.t x.n
  let r := nativeRec x.ft.toNat x.val.toNat (((x.subj.map fun j => j.1.wtag.toNat)).getD 0) x.n (ctEvent e)
    ((x.subj.map Prod.snd).getD 0) 1 x.rc x.ovf (x.subj.map Prod.fst)
  sampTake x.n 2 (some r) { s with ctr := { s.ctr with native := s.ctr.native.erase x } }

/-- NATIVE_SAMPLE_SUBJECT (R304): the sample of counter `n` whose subject has been met is taken. -/
def execNativeSampleSubject (n : Fin 64) (s : State) : Out3 :=
  .next (match s.ctr.native.find? fun x => x.n == n.val && x.subj.isSome with
    | some x => nativeEnd x s
    | none => s)

/-- NATIVE_SAMPLE_EXPIRY (R304): 256 SCLK have passed without a subject. -/
def execNativeSampleExpiry (n : Fin 64) (s : State) : Out3 :=
  .next (match s.ctr.native.find? fun x => x.n == n.val && x.subj.isNone && x.sclk + 256 < s.clk.sclk with
    | some x => nativeEnd x s
    | none => s)

/-- The next sampling instant of counter `n` is at or past (R303). -/
def periodicDue (s : State) (n : Nat) : Bool :=
  let p := ctPeriod (ctE s.t n) * 64
  p != 0 && s.clk.ftv && pdOn s 76 && (ctrGet s n).p0.toNat + (ctrGet s n).pk * p ≤ ftN s

/-- PERIODIC_SAMPLE (R303). -/
def execPeriodicSample (n : Fin 64) (s : State) : Out3 :=
  .next (if periodicDue s n.val then
      let c := ctrGet s n.val
      sampTake n.val 1 none (ctrPut n.val { c with pk := nextK c.p0.toNat (ctPeriod (ctE s.t n.val) * 64) (ftN s) c.pk } s)
    else s)

/-- SAMPLE_WRITE (R302, R306): the oldest record leaves for record NEXT of the sample ring. -/
def execSampleWrite (s : State) : Out3 :=
  .next (match s.ctr.samp with
    | [] => s
    | r :: rest =>
      if 8 ≤ ringFlight s || !pdOn s 76 then s
      else
        let a := dpSbase s.t * 128 + 32 * s.ctr.snext
        let q := s.ctr.sseq - BitVec.ofNat 32 s.ctr.samp.length
        ownWritePart a 32 (linePut 0 (a % 128) 32 r.toNat) (.sample a q)
          { s with ctr := { s.ctr with samp := rest, snext := (s.ctr.snext + 1) % (4 * 2 ^ dpSlog2 s.t) } })

/-! ### Dumps -/

def dumpChecks (s : State) (t : Nat) : List (Bool × Nat) :=
  [(t ≠ 0, Mc.eperm), (argRsv s t [(0, 4, 28)] || (argF s t 0 0 4 ≠ 1 && argF s t 0 0 4 ≠ 2), Mc.einval), (noCounters s, Mc.estate)]

/-- DUMP_NOW (R300, R301). A reserved OP belongs to this row. -/
def execDumpNow (s : State) : Out3 :=
  .next (cmdRun 0x41 (fun s t => argF s t 0 0 4 != 2) (fun t s => checked t (dumpChecks s t) noRes (fun s => mbxDone t Mc.ok [] (capAt .dump s)) s) s)

/-- DUMP_RING_RESET (R300). -/
def execDumpRingReset (s : State) : Out3 :=
  .next (cmdRun 0x41 (fun s t => argF s t 0 0 4 == 2) (fun t s => checked t (dumpChecks s t) noRes (fun s =>
    mbxDone t Mc.ok [] { s with ctr := { s.ctr with snext := 0, dump := { s.ctr.dump with next := 0 } } }) s) s)

/-- DUMP (R301): a dump at its instant, or skipped while the previous one has writes outstanding. -/
def execDump (s : State) : Out3 :=
  .next (if dumpDue s then
      let d := s.ctr.dump
      let k := nextK (dpFirst s.t) (dpInterval s.t * 1024) (ftN s) d.k
      if dumpBusy s then { s with ctr := { s.ctr with dump := { d with k := k, lost := d.lost + 1 } } }
      else capAt .dump { s with ctr := { s.ctr with dump := { d with k := k } } }
    else s)

/-- The fault of a dump or sample WR (R302, Table 14.9). -/
def ringFault (addr seq src st : Nat) (s : State) : State :=
  if st = St.ok then s
  else raise Cause.dump (notice (.event 5 (pack 256 [(192, 64, ftN s), (148, 44, addr), (145, 3, st), (144, 1, src), (112, 32, seq)])) (occU 0xD0 1 s))

/-- DMA_WRITE_COMP (R302): with a dump's last answer DINT raises the DUMP cause. -/
def execDmaWriteComp (txid : BitVec 16) (status : BitVec 3) (s : State) : Out3 :=
  .next (match ownFind s txid with
    | some (.dump a q) =>
      let s := ringFault a q.toNat 0 status.toNat (ownDrop txid s)
      let last := !(s.ctr.dump.q.any (·.seq == q) || s.srv.own.any fun o => match o.kind with | .dump _ r => r == q | _ => false)
      dumpPump 8 (if last && dpDint s.t then raise Cause.dump s else s)
    | some (.sample a q) => dumpPump 8 (ringFault a q.toNat 1 status.toNat (ownDrop txid s))
    | _ => s)

/-- TIER_TEMP_GAUGE (R295, Table 14.4): every 65,536 FT ticks a gauge counter is set to its sensor's reading, 8 bits for each sensor. -/
def execTierTempGauge (readings : BitVec 64) (s : State) : Out3 :=
  .next (if s.clk.ftv && pdOn s 76 && s.ctr.gaugeK != ftN s / 65536 then
      (List.range 64).foldl (fun s n =>
        let e := ctE s.t n
        let c := ctrGet s n
        if isGauge (ctEvent e) && ctEn e && c.run && ctPasses e .u subjNone then
          ctrPut n { c with val := BitVec.ofNat 48 (fld readings.toNat (8 * (ctEvent e - 0xC8)) 8) } s
        else s) { s with ctr := { s.ctr with gaugeK := ftN s / 65536 } }
    else s)

end Sys2Proof.Machine
end

