-- ==== Sys2Proof/Machine/HomeCmds.lean ====
section
/-! DEFINITION. Meanings: answers to the home, home transactions, and other messages. -/

namespace Sys2Proof.Machine

/-- An answer to the home carries the beats of its opcode: a whole line, or none (R29, Table 2.8). -/
def answerBeats (m : Msg) : Bool := m.beats.length == (if hOpcode m == Op.dataHome || hOpcode m == Op.wbData then 2 else 0)

/-- An answer to the home of opcode `op` on class `vc` that finds its HTE (R194): the message takes a lookup slot. -/
def answerAt (op vc : Nat) (m : Msg) (f : Hte → State → State) (s : State) : State :=
  if !s.pins.present || hOpcode m ≠ op || hVc m ≠ vc then s
  else if !answerBeats m then recvBeats m s
  else match answerHte s m with
    | none => s
    | some h => f h (useSlot (pipeOf s h.line) true (some (subjReq h.req)) (recvBeats m s))

/-- SNP_ACK (R194). -/
def execSnpAck (_ : DPort) (m : Msg) (s : State) : Out3 := .next (answerAt Op.snpAck Vc.rsp m (fun h => snpAckAt h m) s)
/-- COMP_ACK (R194): the HTE closes. -/
def execCompAck (_ : DPort) (m : Msg) (s : State) : Out3 :=
  .next (answerAt Op.compAck Vc.rsp m (fun h s => hteClose h.id (ctlUse (.hte h.id) (some (subjReq h.req)) s)) s)
/-- DATA_HOME (R170). -/
def execDataHome (_ : DPort) (m : Msg) (s : State) : Out3 := .next (answerAt Op.dataHome Vc.dat m (fun h => homeDataAt h m) s)
/-- WB_DATA (R170). -/
def execWbData (_ : DPort) (m : Msg) (s : State) : Out3 := .next (answerAt Op.wbData Vc.dat m (fun h => homeDataAt h m) s)

/-- HTE_DEFERRED_WRITE (R170, R193): an H state that awaits no answer any more is tried again, in its line's tag pipe: its data is written, and
its access performed. -/
def execHteDeferredWrite (h : Fin 256) (s : State) : Out3 :=
  .next (match hteGet s h.val with
    | some x =>
      if hReady x then
        let t := hTry x.id s
        useSlot (pipeOf s x.line) (hteInH t x.line).isNone (some (subjReq x.req)) t
      else s
    | none => s)

/-- A request waiting for its second lookup takes it (R172, R193). One that ends in a hold waits on, held to its kind by what the step finds. -/
def relookAt (k : Nat) (s : State) : State :=
  match s.home.relook[k]? with
  | none => s
  | some r =>
    if s.srv.halt || (s.home.relook.take k).any (sameLine r) then s
    else
      let s' := { s with home := { s.home with relook := s.home.relook.eraseIdx k } }
      match reqStep r s' with
      | .done t => reqSlot (reqPipe t r) true (subjReq r) t
      | .attached t => reqSlot (reqPipe t r) true (subjReq r) t
      | .hold h t =>
        let t := { t with home := { t.home with relook := t.home.relook.insertIdx k r } }
        holdCount h r (reqSlot (reqPipe t r) false (subjReq r) t)

/-- HTE_RELOOKUP (R172). -/
def execHteRelookup (k : Nat) (s : State) : Out3 := .next (relookAt k s)

/-- HOME_TIMEOUT (R185), in the line's tag pipe: a step of the slice's own (R296). -/
def execHomeTimeout (h : Fin 256) (s : State) : Out3 :=
  .next (match hteGet s h.val with
    | some x => if hteExpired s x then homeTimeoutAt x (useSlot (pipeOf s x.line) false none s) else s
    | none => s)

/-- The message is an answer to the home on its own class. -/
def isAnswer (m : Msg) : Bool :=
  let o := hOpcode m
  ((o == Op.snpAck || o == Op.compAck) && hVc m == Vc.rsp) || ((o == Op.dataHome || o == Op.wbData) && hVc m == Vc.dat)

/-- UNMATCHED_ANSWER (R186): sunk and counted, in the line's tag pipe (R164). -/
def execUnmatchedAnswer (_ : DPort) (m : Msg) (s : State) : Out3 :=
  .next (if s.pins.present && isAnswer m && answerBeats m && (answerHte s m).isNone then
      occU 0x89 1 (useSlot (pipeOf s (hLine m)) false none (recvBeats m s)) else s)

/-- UNEXPECTED_MESSAGE (R375): not a request, not an answer to the home, not TEMP_RPT on CTL, and no answer to a
request of the slice's own. -/
def execUnexpectedMessage (_ : DPort) (m : Msg) (s : State) : Out3 :=
  .next (if s.pins.present && hVc m != Vc.req && !isReqOp (hOpcode m) && !isAnswer m && !(hOpcode m == Op.tempRpt && hVc m == Vc.ctl)
    then occU 0x89 1 (recvBeats m s) else s)

/-- TEMP_RPT (R51, R238, R240): accepted; it is applied at the end of the SCLK, so that D0's report comes before D1's whichever
was listed first. -/
def execTempRpt (p : DPort) (m : Msg) (s : State) : Out3 :=
  .next (if s.pins.present && hOpcode m == Op.tempRpt && hVc m == Vc.ctl then
    let s := recvBeats m s
    if m.beats.isEmpty then { s with regul := { s.regul with rpts := s.regul.rpts ++ [(p, m)] } } else s
    else s)

end Sys2Proof.Machine
end

