-- ==== Sys2Proof/Machine/MemCmds.lean ====
section
/-! DEFINITION. Meanings: the memory port, fills, the prefetcher and the exact queue. -/

namespace Sys2Proof.Machine

/-- M_COMMAND_ISSUE (R76, R335). -/
def execMCommandIssue (s : State) : Out3 := .next (mIssue s)

/-- M_CREDIT_RETURN (R336). -/
def execMCreditReturn (write : Bool) (s : State) : Out3 := .next (if s.pins.porstN && s.pins.drstN then mCredit write s else s)

/-- M_READ_DATA (R336, R357): an answer to a read that is not outstanding is the integrator's breach, and stops the model. -/
def execMReadData (e : Fin 1024) (d : Line) (poi : BitVec 2) (s : State) : Out3 :=
  match s.mp.miss.find? (·.id = e.val) with
  | some x =>
    if x.st == .waitData && x.mdata.isNone then .next (fillTry e.val (missMod e.val (fun x => { x with mdata := some (d, poi) }) s))
    else .fault .mAnswerUnmatched
  | none => .fault .mAnswerUnmatched

/-- FILL_INSTALL (R65, R66, R78). -/
def execFillInstall (e : Fin 1024) (s : State) : Out3 :=
  .next (match s.mp.miss.find? (·.id = e.val) with
    | some x => if x.st == .waitInstall then fillInstallAt x s else s
    | none => s)

/-- M_WRITE_ACK (R77, R251, R273, R358). Writes of one tag are acknowledged in order. -/
def execMWriteAck (t : MTag) (err : Bool) (s : State) : Out3 :=
  match s.mp.outW.find? fun x => x.1 == t with
  | some x => .next (wackAt t x.2.1 x.2.2 err s)
  | none => .fault .mAnswerUnmatched

/-- SEAL_MAC_READ_DATA (R252). -/
def execSealMacReadData (e : Fin 1024) (status : BitVec 3) (mac : BitVec 64) (s : State) : Out3 :=
  .next (match s.srv.own.find? fun o => o.kind == .macRead e.val with
    | none => s
    | some o => fillTry e.val (missMod e.val (fun x => { x with mac := some (status, mac) }) (ownDrop o.txid s)))

/-- MAC_WRITE_COMP (R251). -/
def execMacWriteComp (txid : BitVec 16) (status : BitVec 3) (s : State) : Out3 :=
  .next (match ownFind s txid with
    | some k =>
      match k with
      | .macMire _ | .macClean _ | .macWrite _ _ => macWriteAt k status.toNat (ownDrop txid s)
      | _ => s
    | none => s)

/-- The oldest prefetch candidate takes a lookup slot (R80). -/
def prefetchAt (s : State) : State :=
  match s.pf.cands with
  | [] => s
  | c :: rest =>
    if s.srv.halt then s
    else
      let s := { s with pf := { s.pf with cands := rest } }
      let s := useSlot (pipeOf s c.line) false none (lookCheck none c.line s)
      if candOk c s then
        let a := c.line.toNat * 128
        let r := { c.trig with msg := { c.trig.msg with hdr := BitVec.ofNat 256 (c.trig.msg.hdr.toNat / 2 ^ 44 * 2 ^ 44 + a) }, attr := ratAttr s.t a,
                               set := BitVec.ofNat 14 (liveSet s c.line), hbank := hbankOf s.t c.line }
        occR 0x31 c.trig 1 (missAdd (missNew s r .prefetch .waitIssue 0 0) s)
      else occR 0x32 c.trig 1 s

/-- PREFETCH_FILL (R80). -/
def execPrefetchFill (s : State) : Out3 := .next (prefetchAt s)

/-- EXACT_STEP (R137). -/
def execExactStep (s : State) : Out3 := .next (exactOne s)

end Sys2Proof.Machine
end

