-- ==== Sys2Proof/Machine/FenCmds.lean ====
section
/-! DEFINITION. Meanings: Fen segments, transfers, flips, exact regions (Chapters 4 and 6). -/

namespace Sys2Proof.Machine

/-- The issuing context may command segment `g`: its owner or TC0 (R85). -/
def segPerm (s : State) (t seg : Nat) : Bool := t == 0 || ((segFind s seg).map fun g => g.owner.toNat == t).getD false

def segTaken (s : State) (i : Nat) : Bool := (segFind s i).isSome || s.fen.zeroing.any (·.seg.id == i)

/-- Results of FEN_ALLOC and ACC_OPEN that take no frames: the pool (R86). -/
def poolOnly (s : State) : List Nat := 0 :: poolRes s

/-- The frame checks of R86. -/
def frameChecks (s : State) (need x : Nat) : List (Bool × Nat) :=
  let free := (freeFrames s x).length
  [(free < need && need ≤ free + convFrames s x, Mc.eagain), (free < need, Mc.enospc)]

/-- The segment that FEN_ALLOC makes of the frames `fs` (R84, R91). -/
def allocSeg (s : State) (t id : Nat) (fs : List Nat) : Seg :=
  let gran := argF s t 0 0 11
  { id := id
    owner := BitVec.ofNat 4 t
    tcmask := BitVec.ofNat 16 (argF s t 1 0 16)
    dual := argB s t 0 18
    lo := BitVec.ofNat 2 (argF s t 0 16 2)
    loB := false
    gran := gran
    fa := fs.take gran
    fb := fs.drop gran
    bken := argB s t 2 31
    bpa := BitVec.ofNat 28 (argF s t 2 0 28)
    flip := none }

/-- FEN_ALLOC (R84 to R86). -/
def fenAllocCmd (t : Nat) (s : State) : State :=
  let gran := argF s t 0 0 11
  let dual := argB s t 0 18
  let any := argB s t 0 19
  let x := argF s t 1 16 8
  let mask := argF s t 1 0 16
  let id := if any then (lowest 64 fun i => !segTaken s i).getD 64 else argF s t 0 24 6
  let need := if dual then 2 * gran else gran
  checked t ([(t ≠ 0 && mask &&& (0xFFFF - 2 ^ t) ≠ 0, Mc.eperm), (gran = 0, Mc.zeroNop),
      (argRsv s t [(0, 30, 2), (0, 20, 4), (0, 11, 5), (1, 24, 8), (2, 28, 3)] || 1024 < gran, Mc.einval), (commitArmed s, Mc.eagain),
      (noDatapath s || (!any && segTaken s id), Mc.estate), (id = 64, Mc.enospc)] ++ frameChecks s need x) poolOnly
    (fun s =>
      let g := allocSeg s t id ((freeFrames s x).take need)
      mbxWork t { s with fen := { s.fen with zeroing := s.fen.zeroing ++ [{ seg := g, mbx := t }] } }) s

/-- FEN_ALLOC. -/
def execFenAlloc (s : State) : Out3 := .next (cmdRun 0x10 anySub fenAllocCmd s)

/-- FEN_ALLOC_ZEROED (R84): the `k`-th allocation under way completes. -/
def execFenAllocZeroed (k : Nat) (s : State) : Out3 :=
  .next (match s.fen.zeroing[k]? with
    | none => s
    | some z =>
      let s := zeroFrames (segFrames z.seg) z.seg.owner s
      let s := { s with fen := { s.fen with zeroing := s.fen.zeroing.eraseIdx k, segs := s.fen.segs ++ [z.seg] } }
      mbxDone z.mbx Mc.ok (z.seg.id :: poolRes s) s)

/-- A segment is removed and its frames wait for earlier requests (R87). -/
def segRemove (seg : Nat) (s : State) : State :=
  match segFind s seg with
  | none => s
  | some g => { s with fen := { s.fen with segs := s.fen.segs.filter (·.id ≠ seg), reclaims := s.fen.reclaims ++ [segFrames g] } }

def xferOn (s : State) (seg : Nat) : Bool := s.fen.xfers.any (·.seg == seg)

def fenFreeCmd (t : Nat) (s : State) : State :=
  let seg := argF s t 0 0 6
  checked t [(!segPerm s t seg, Mc.eperm), (argRsv s t [(0, 6, 26)], Mc.einval),
      ((segFind s seg).isNone || xferOn s seg || s.fen.regions.any (·.seg == seg), Mc.estate)] noRes
    (fun s => mbxDone t Mc.ok [] (segRemove seg s)) s

/-- FEN_FREE (R87). -/
def execFenFree (s : State) : Out3 := .next (cmdRun 0x11 anySub fenFreeCmd s)

/-- FEN_FREE_RECLAIM (R87): frames return to the pool once no request that was classified to them waits. -/
def execFenFreeReclaim (k : Nat) (s : State) : Out3 :=
  .next (match s.fen.reclaims[k]? with
    | none => s
    | some fs =>
      if (waitingLocs s).any fun l => fs.contains l.frame then s
      else dropFrames fs { s with fen := { s.fen with reclaims := s.fen.reclaims.eraseIdx k } })

/-- The transfer that FEN_LOAD or FEN_FLUSH starts. -/
def newXfer (s : State) (t : Nat) (load copyB : Bool) : Xfer :=
  { seg := argF s t 0 24 6
    load := load
    mbx := t
    copyB := copyB
    ten := argB s t 0 12
    tally := BitVec.ofNat 12 (argF s t 0 0 12)
    off := argF s t 1 0 26
    lines := argF s t 2 0 20
    next := 0
    infl := []
    fail := none }

/-- FEN_LOAD and FEN_FLUSH (R88 to R90). -/
def transferCmd (load : Bool) (t : Nat) (s : State) : State :=
  let seg := argF s t 0 24 6
  let ep := BitVec.ofNat 2 (argF s t 0 16 2)
  let off := argF s t 1 0 26
  let lines := argF s t 2 0 20
  let g := segFind s seg
  let size := ((g.map Seg.gran).getD 0) * 65536
  let copy := g.bind fun g => copyOf s g ep
  checked t [(!segPerm s t seg, Mc.eperm), (lines = 0, Mc.zeroNop),
      (argRsv s t [(0, 30, 2), (0, 18, 6), (0, 13, 3), (1, 26, 6), (2, 20, 12)] || off % 128 ≠ 0 || 2 ^ 26 < off + 128 * lines, Mc.einval),
      (noDatapath s || g.isNone, Mc.estate), (size < off + 128 * lines, Mc.einval),
      ((g.map fun g => !g.bken || g.flip.isSome).getD true || xferOn s seg || copy.isNone, Mc.estate)] noRes
    (fun s =>
      mbxWork t { s with fen := { s.fen with xfers := s.fen.xfers ++ [newXfer s t load (copy.getD false)] } }) s

/-- FEN_LOAD. -/
def execFenLoad (s : State) : Out3 := .next (cmdRun 0x12 anySub (transferCmd true) s)
/-- FEN_FLUSH. -/
def execFenFlush (s : State) : Out3 := .next (cmdRun 0x13 anySub (transferCmd false) s)

/-- TRANSFER_LINE_ISSUE (R88, R89). -/
def execTransferLineIssue (seg : Fin 64) (s : State) : Out3 :=
  .next (match s.fen.xfers.find? (·.seg = seg.val), segFind s seg.val with
    | some x, some g => if x.infl.length < 64 && x.fail.isNone && x.next < x.lines then xferIssue x g s else s
    | _, _ => s)

/-- TRANSFER_LINE_RESPONSE (R88, R89). -/
def execTransferLineResponse (txid : BitVec 16) (status : BitVec 3) (d : Line) (s : State) : Out3 :=
  .next (match ownFind s txid with
    | some (.xfer seg off) =>
      match s.fen.xfers.find? (·.seg = seg), segFind s seg with
      | some x, some g => xferAnswer x g off status.toNat d (ownDrop txid s)
      | _, _ => ownDrop txid s
    | _ => s)

/-- The flip that FEN_FLIP arms. -/
def newFlip (s : State) (t : Nat) : Flip :=
  { rten := argB s t 0 31
    rtally := BitVec.ofNat 12 (argF s t 1 0 12)
    thresh := BitVec.ofNat 48 (mArg s t 2 + 2 ^ 32 * argF s t 3 0 16)
    nten := argB s t 0 12
    ntally := BitVec.ofNat 12 (argF s t 0 0 12)
    readyAt := none
    armFt := s.clk.ft
    armRun := s.clk.run }

def fenFlipCmd (t : Nat) (s : State) : State :=
  let seg := argF s t 0 24 6
  let g := segFind s seg
  checked t [(!segPerm s t seg, Mc.eperm), (argRsv s t [(0, 30, 1), (0, 13, 11), (1, 12, 20), (3, 16, 16)], Mc.einval),
      ((g.map fun g => !g.dual || g.flip.isSome).getD true || xferOn s seg, Mc.estate)] noRes
    (fun s =>
      let lo := ((g.map Seg.lo).getD 0).toNat
      mbxDone t Mc.ok [4 * ((lo + 1) % 4) + lo] (segMod seg (fun g => { g with flip := some (newFlip s t) }) s)) s

/-- FEN_FLIP (R92). -/
def execFenFlip (s : State) : Out3 := .next (cmdRun 0x14 anySub fenFlipCmd s)

/-- FLIP_READY (R93 step 1). -/
def execFlipReady (seg : Fin 64) (s : State) : Out3 :=
  .next (match (segFind s seg.val).bind fun g => g.flip.map fun f => (g, f) with
    | some (g, f) =>
      if flipCanReady s g f then
        traceEv (flipReadyEv s g f) (segMod g.id (fun g => { g with flip := some { f with readyAt := some s.clk.sclk } }) s)
      else s
    | none => s)

/-- FLIP_EFFECT (R93 step 2): in an SCLK after T. -/
def execFlipEffect (seg : Fin 64) (s : State) : Out3 :=
  .next (match (segFind s seg.val).bind fun g => g.flip.map fun f => (g, f) with
    | some (g, f) => if flipCanTake s g f then flipTake g f s else s
    | none => s)

/-! ### Exact regions -/

/-- The region that ACC_OPEN makes of the frames `fs`. -/
def newRegion (s : State) (t rid : Nat) (fs : List Nat) : Region :=
  { rid := rid
    seg := argF s t 0 24 6
    rfmt := BitVec.ofNat 4 (argF s t 0 16 4)
    n := argF s t 2 0 21
    rbase := argF s t 1 0 26
    doff := argF s t 3 0 26
    frames := fs
    opener := BitVec.ofNat 4 t
    mbx := t
    nten := argB s t 0 12
    ntally := BitVec.ofNat 12 (argF s t 0 0 12)
    opened := false
    openFt := s.clk.ft
    openRun := s.clk.run
    res := none }

/-- ACC_OPEN's checks and its start; a region counts among the open ones, for the overlap and the 16, from its own ACC_OPEN on (log 35). -/
def accOpenCmd (t : Nat) (s : State) : State :=
  let seg := argF s t 0 24 6
  let f := argF s t 0 16 4
  let rb := argF s t 1 0 26
  let n := argF s t 2 0 21
  let d := argF s t 3 0 26
  let g := segFind s seg
  let size := ((g.map Seg.gran).getD 0) * 65536
  let w := 128 * cdiv n 32
  let need := cdiv (10 * cdiv n 32) 512
  checked t ([(!segPerm s t seg, Mc.eperm), (n = 0, Mc.zeroNop),
      (argRsv s t [(0, 30, 2), (0, 20, 4), (0, 13, 3), (1, 26, 6), (2, 21, 11), (3, 26, 6)] || 1048576 < n || 3 < f || rb % 128 ≠ 0 || d % 128 ≠ 0, Mc.einval),
      (commitArmed s, Mc.eagain), (noDatapath s || (g.map Seg.dual).getD true, Mc.estate),
      (size < rb + w || size < d + n * rfmtSize f, Mc.einval),
      (s.fen.regions.any fun r => r.seg == seg && rb < r.rbase + 128 * windowLines r && r.rbase < rb + w, Mc.estate),
      (16 ≤ s.fen.regions.length, Mc.enospc)] ++ frameChecks s need 0) poolOnly
    (fun s =>
      let rid := (lowest 16 fun i => s.fen.regions.all (·.rid ≠ i)).getD 0
      mbxWork t { s with fen := { s.fen with regions := s.fen.regions ++ [newRegion s t rid ((freeFrames s 0).take need)] } }) s

/-- ACC_OPEN (R134). -/
def execAccOpen (s : State) : Out3 := .next (cmdRun 0x20 anySub accOpenCmd s)

/-- REGION_OPEN (R134). -/
def execRegionOpen (rid : Fin 16) (s : State) : Out3 :=
  .next (match regionFind s rid.val with
    | some r => if regionCanOpen s r then regionOpenAt r s else s
    | none => s)

/-- The resolve that ACC_RESOLVE arms. -/
def newResolve (s : State) (t : Nat) : Resolve :=
  { discard := argB s t 0 30
    rten := argB s t 0 31
    nten := argB s t 0 12
    ntally := BitVec.ofNat 12 (argF s t 0 0 12)
    rtally := BitVec.ofNat 12 (argF s t 1 0 12)
    thresh := BitVec.ofNat 48 (mArg s t 2 + 2 ^ 32 * argF s t 3 0 16)
    deadline := BitVec.ofNat 64 (mArg s t 4 + 2 ^ 32 * mArg s t 5)
    reported := false
    due := none
    readyAt := none
    start := false
    next := 0
    armFt := s.clk.ft
    armRun := s.clk.run }

def accResolveCmd (t : Nat) (s : State) : State :=
  let r := regionFind s (argF s t 0 16 4)
  checked t [(t ≠ 0 && (r.map fun r => r.opener.toNat != t).getD true, Mc.eperm),
      (argRsv s t [(0, 20, 10), (0, 13, 3), (1, 12, 20), (3, 16, 16)], Mc.einval),
      ((r.map fun r => !r.opened || r.res.isSome).getD true, Mc.estate)] noRes
    (fun s =>
      let res := (r.map fun r => [r.n, r.frames.length]).getD []
      mbxDone t Mc.ok res (regionMod (argF s t 0 16 4) (fun r => { r with res := some (newResolve s t) }) s)) s

/-- ACC_RESOLVE (R138). -/
def execAccResolve (s : State) : Out3 := .next (cmdRun 0x21 anySub accResolveCmd s)

/-- The armed resolve of a region. -/
def resolveOf (s : State) (rid : Nat) : Option (Region × Resolve) := (regionFind s rid).bind fun r => r.res.map fun x => (r, x)

def setResolve (rid : Nat) (x : Resolve) (s : State) : State := regionMod rid (fun r => { r with res := some x }) s

/-- RESOLVE_READY (R139 step T). -/
def execResolveReady (rid : Fin 16) (s : State) : Out3 :=
  .next (match resolveOf s rid.val with
    | some (r, x) =>
      if resolveCanReady s r x then traceEv (resolveReadyEv s r x) (setResolve r.rid { x with readyAt := some s.clk.sclk } s) else s
    | none => s)

/-- RESOLVE_START (R139 step F, R141): in an SCLK after T, which the contributions classified in T come before. -/
def execResolveStart (rid : Fin 16) (s : State) : Out3 :=
  .next (match resolveOf s rid.val with
    | some (r, x) =>
      if sclkPast s x.readyAt && !x.start && !contribOpen s r.rid then
        if x.discard then (if resolveCanEnd s r x then resolveEnd r x s else s) else setResolve r.rid { x with start := true } s
      else s
    | none => s)

/-- RESOLVE_LINE_WRITE (R139): with the last line the region ends. -/
def execResolveLineWrite (rid : Fin 16) (s : State) : Out3 :=
  .next (match resolveOf s rid.val with
    | some (r, x) =>
      if !x.start then s
      else if x.next + 1 < destLines r then setResolve r.rid { x with next := x.next + 1 } (resolveLine r x.next s)
      else if resolveCanEnd s r x then resolveEnd r x (resolveLine r x.next s)
      else s
    | none => s)

/-- RESOLVE_DEADLINE (R142): the report of a resolve whose deadline the end of an SCLK has found reached. -/
def execResolveDeadline (rid : Fin 16) (s : State) : Out3 := .next (resolveDeadlineAt rid.val s)

end Sys2Proof.Machine
end

