-- ==== Sys2Proof/Machine/Peat.lean ====
section
/-! DEFINITION. Peat buffers: records, losses, triggers, stops and the trace DMA (R309 to R319). -/

namespace Sys2Proof.Machine

/-- Trace WRs of a buffer in flight. -/
def traceFlight (s : State) (b : Nat) : Nat :=
  (s.srv.own.filter fun o => match o.kind with | .trace c _ _ => c == b | _ => false).length

/-- Records in the ring of an entry. -/
def ringRecs (e : Nat) : Nat := 4 * tcRsize e

/-- A record of a type with its header (Table 15.1). -/
def traceRec (s : State) (x : TBuf) (ty : Nat) (body : BitVec 152) : Rec :=
  pack 256 [(192, 64, ftN s), (160, 32, x.seq.toNat), (152, 8, ty), (0, 152, body.toNat)]

/-- A stopped buffer whose records and writes have gone reaches STATE 3 (R314). -/
def bufSettle (b : Nat) (s : State) : State :=
  let x := bufGet s b
  if x.stopping && x.loc.isEmpty && x.pend.isNone && traceFlight s b == 0 then bufSet b { x with st := 3, stopping := false } s else s

/-- The event record of kind 6 (Table 15.11). -/
def traceNotice (s : State) (b cause status addr : Nat) : Notice :=
  .event 6 (pack 256 [(192, 64, ftN s), (190, 2, b), (188, 2, cause), (156, 32, (bufGet s b).seq.toNat), (153, 3, status), (109, 44, addr)])

/-- The buffer stops in this SCLK. -/
def bufStop (b : Nat) (s : State) : State :=
  let x := bufGet s b
  if !bufRuns x then s
  else
    let s := bufSet b { x with sft := s.clk.ft, stopping := true } s
    let s := if tcStopint (tcE s.t b) then raise Cause.trace (notice (traceNotice s b 0 0 0) s) else s
    bufSettle b s

/-- A record enters the local buffer; STOP and WINDOW buffers stop with their last record (Table 15.5). -/
def bufPut (b ty : Nat) (body : BitVec 152) (s : State) : State :=
  let e := tcE s.t b
  let x := bufGet s b
  let r := traceRec s x ty body
  let x' := { x with seq := x.seq + 1, next := (x.next + 1) % ringRecs e, loc := x.loc ++ [(x.next, r)], acc := x.acc + 1, lastRun := s.clk.run,
                     after := x.after.map (· - 1) }
  let s := bufSet b x' s
  if (tcMode e == 0 && ringRecs e ≤ x'.acc) || (tcMode e == 2 && x'.after == some 0) then bufStop b s else s

/-- The record of a lost run is written once two records of room are free, or one in a stopped buffer (R317). -/
def dropTry (b : Nat) (s : State) : State :=
  let x := bufGet s b
  match x.pend with
  | none => s
  | some (first, n, ft) =>
    if x.loc.length + (if x.stopping then 1 else 2) ≤ 256 then
      bufPut b 0x1F (pack 152 [(120, 32, n.toNat), (88, 32, first.toNat), (24, 64, ft.toNat)]) (bufSet b { x with pend := none } s)
    else s

/-- A record of a type is accepted or lost (R315, R317). -/
def bufOffer (b ty : Nat) (body : BitVec 152) (s : State) : State :=
  let s := dropTry b s
  let e := tcE s.t b
  let x := bufGet s b
  if !bufRuns x then s
  else if tcMode e == 2 && tcWbefore e == 0 && x.st == 1 then s
  else if x.loc.length < 256 && x.pend.isNone then bufPut b ty body s
  else
    let p := match x.pend with
      | some (f, n, t) => (f, n + 1, t)
      | none => (x.seq, 1, s.clk.ft)
    bufSet b { x with seq := x.seq + 1, lost := x.lost + 1, pend := some p } s

/-- A buffer takes a trigger (R315, R316). -/
def bufTrigger (b src win : Nat) (s : State) : State :=
  let e := tcE s.t b
  let x := bufGet s b
  if !bufRuns x || tcMode e == 3 then s
  else
    let body : BitVec 152 := pack 152 [(149, 3, src), (145, 4, if src = 1 then win else 0)]
    let s := if tcHalttrig e then { s with srv := { s.srv with halt := true } } else s
    if tcMode e == 2 && x.st == 1 then
      let s := dropTry b s
      let x := bufGet s b
      let k := min (tcWbefore e) x.acc
      let s := bufSet b { x with st := 2, tidx := x.next, start := (x.next + ringRecs e - k) % ringRecs e, after := some (tcWafter e + 1) } s
      bufOffer b 0x1E body s
    else bufOffer b 0x1E body s

/-- The buffer starts as the generation that sets its entry does (R312). -/
def bufStart (b : Nat) (s : State) : State :=
  bufSet b { TBuf.reset with st := if tcEn (tcE s.t b) then 1 else 0, lastRun := s.clk.run } s

/-! ### The trace DMA (R314) -/

/-- The local records of the oldest ring line, and whether they are its last. -/
def headLine (x : TBuf) : List (Nat × Rec) × Bool :=
  match x.loc with
  | [] => ([], false)
  | (i, _) :: _ => let l := x.loc.take (4 - i % 4); (l, l.length == 4 - i % 4)

/-- Writes the oldest line's records. -/
def traceIssue (b : Nat) (s : State) : State :=
  let x := bufGet s b
  let l := (headLine x).1
  match l with
  | [] => s
  | (i, _) :: _ =>
    let a := tcRbase (tcE s.t b) * 128 + 32 * i
    let d := l.zipIdx.foldl (fun d y => linePut d (a % 128 + 32 * y.2) 32 y.1.2.toNat) (0 : Line)
    let s := bufSet b { x with loc := x.loc.drop l.length, flush := x.flush && l.length < x.loc.length } s
    let k : OwnKind := .trace b a l.length
    dropTry b (if l.length = 4 then ownWriteLine (lineAddr a) d k s else ownWritePart a (32 * l.length) d k s)

/-- The oldest line may leave now: whole, or partly filled where `part` allows it. -/
def traceMay (s : State) (b : Nat) (part : Bool) : Bool :=
  let x := bufGet s b
  !x.loc.isEmpty && traceFlight s b < 8 && ((headLine x).2 || part)

/-- A partly filled line leaves: no new record for 1,024 ticks, a FLUSH, or a stop. -/
def tracePart (s : State) (b : Nat) : Bool :=
  let x := bufGet s b
  x.flush || x.stopping || (s.clk.ftv && x.lastRun + 1024 ≤ s.clk.run)

def tracePump (b : Nat) : Nat → State → State
  | 0, s => s
  | k + 1, s => if traceMay s b (tracePart s b) then tracePump b k (traceIssue b s) else s

/-! ### The records of an SCLK (R309, R313, R316) -/

/-- Trace events of this SCLK in the order of R309. -/
def tevOrder (s : State) : List TEv := (List.range 8).flatMap fun p => s.peat.tev.filter (·.ord == p)

/-- Buffer `b` takes the SCLK's events, then the triggers. -/
def bufScan (b : Nat) (s : State) : State :=
  let e := tcE s.t b
  let s := dropTry b s
  let s := (tevOrder s).foldl (fun s v => if tevPasses e v then bufOffer b v.type.toNat v.body s else s) s
  let tr := s.peat.trg.filter fun t => nbit t.bufs.toNat b
  match (List.range 5).findSome? fun c => tr.find? (·.src.toNat == c) with
  | some t => bufTrigger b t.src.toNat t.win.toNat s
  | none => s

/-- The end of an SCLK for Peat. -/
def peatEnd (s : State) : State :=
  if s.peat.tev.isEmpty && s.peat.trg.isEmpty then s
  else
    let s := if pdOn s 75 then (List.range 4).foldl (fun s b => if (bufGet s b).st == 0 then s else bufScan b s) s else s
    { s with peat := { s.peat with tev := [], trg := [] } }

end Sys2Proof.Machine
end

