-- ==== Sys2Proof/Machine/PeatCmds.lean ====
section
/-! DEFINITION. Meanings: the trace DMA, TRACE_CONFIG, WATCH_CONFIG. -/

namespace Sys2Proof.Machine

/-- TRACE_DMA_WRITE (R314): a ring line whose four records are present leaves. -/
def execTraceDmaWrite (b : Fin 4) (s : State) : Out3 := .next (if traceMay s b.val false then traceIssue b.val s else s)

/-- TRACE_IDLE_FLUSH (R314): a partly filled line leaves. -/
def execTraceIdleFlush (b : Fin 4) (s : State) : Out3 :=
  .next (if traceMay s b.val true && !(headLine (bufGet s b.val)).2 && tracePart s b.val then traceIssue b.val s else s)

/-- TRACE_DMA_COMP (R314): an answer other than OK stops the buffer with ERR. -/
def execTraceDmaComp (txid : BitVec 16) (status : BitVec 3) (s : State) : Out3 :=
  .next (match ownFind s txid with
    | some (.trace b a _) =>
      let s := ownDrop txid s
      let s :=
        if status.toNat = St.ok then s
        else
          let x := bufGet s b
          let s := bufSet b (if bufRuns x then { x with err := true, sft := s.clk.ft, stopping := true } else { x with err := true }) s
          raise Cause.trace (notice (traceNotice s b 1 status.toNat a) s)
      bufSettle b (dropTry b s)
    | _ => s)

/-! ### TRACE_CONFIG (R319, Table 15.7) -/

def traceChecks (s : State) (t : Nat) : List (Bool × Nat) :=
  [(t ≠ 0, Mc.eperm), (argRsv s t [(0, 8, 24)] || argF s t 0 0 4 = 0 || 5 ≤ argF s t 0 0 4, Mc.einval), (noDatapath s || !pdOn s 75, Mc.estate)]

/-- The operation on every enabled buffer of BUFMASK, then OK. -/
def traceEach (g : Nat → State → State) (t : Nat) (s : State) : State :=
  checked t (traceChecks s t) noRes (fun s =>
    mbxDone t Mc.ok (ftWords s.clk.ft)
      ((List.range 4).foldl (fun s b => if argB s t 0 (4 + b) && tcEn (tcE s.t b) then g b s else s) s)) s

def traceSub (op : Nat) (s : State) (t : Nat) : Bool := argF s t 0 0 4 == op

/-- TRACE_TRIGGER_CMD. A reserved OP belongs to this row. The triggers are taken with those of their SCLK. -/
def execTraceTriggerCmd (s : State) : Out3 :=
  .next (cmdRun 0x50 (fun s t => traceSub 1 s t || argF s t 0 0 4 = 0 || 5 ≤ argF s t 0 0 4) (traceEach fun b s => trigger 0 0 (2 ^ b) s) s)

/-- TRACE_RESTART. -/
def execTraceRestart (s : State) : Out3 :=
  .next (cmdRun 0x50 (traceSub 2) (traceEach fun b s =>
    let x := bufGet s b
    if x.st = 3 then bufSet b { x with st := 1, err := false, next := 0, tidx := 0, start := 0, acc := 0, after := none, lastRun := s.clk.run } s else s) s)

/-- TRACE_FLUSH. -/
def execTraceFlush (s : State) : Out3 :=
  .next (cmdRun 0x50 (traceSub 3) (traceEach fun b s =>
    let x := bufGet s b
    if x.loc.isEmpty then s else tracePump b 8 (bufSet b { x with flush := true } s)) s)

/-- TRACE_STOP. -/
def execTraceStop (s : State) : Out3 :=
  .next (cmdRun 0x50 (traceSub 4) (traceEach fun b s => if bufRuns (bufGet s b) then tracePump b 8 (bufStop b s) else s) s)

/-! ### WATCH_CONFIG (R323, Table 15.10) -/

def watWin (s : State) (t : Nat) : Nat := argF s t 0 4 4

/-- The copy that a SCAN of window entry `e` reads, when segment, range and epoch allow it. -/
def scanCopy (s : State) (e : Nat) (ep : BitVec 2) : Option (Seg × Bool) :=
  let a := waBase e * 8
  match segFind s (a / 2 ^ 26) with
  | none => none
  | some g => if g.gran * 65536 < a % 2 ^ 26 + 8 * waLength e then none else (copyOf s g ep).map fun c => (g, c)

def watchChecks (s : State) (t : Nat) : List (Bool × Nat) :=
  let e := waE s.t (watWin s t)
  let op := argF s t 0 0 4
  [(t ≠ 0 && waOwner e != t, Mc.eperm), (argRsv s t [(0, 10, 22)] || 5 ≤ op || (op == 4 && waAspace e == 0), Mc.einval),
    (noDatapath s || !pdOn s 75 || ((op == 2 || op == 4) && waLength e == 0) ||
      (op == 4 && (s.peat.scan.isSome || (scanCopy s e (BitVec.ofNat 2 (argF s t 0 8 2))).isNone)), Mc.estate)]

def watchCmd (f : Nat → Nat → State → State) (t : Nat) (s : State) : State := checked t (watchChecks s t) noRes (f t (watWin s t)) s

def watchSub (op : Nat) (s : State) (t : Nat) : Bool := argF s t 0 0 4 == op

/-- The six registers of a window (Table 15.9). -/
def watRegs (x : Wat) : List Nat :=
  [packNat [(63, 1, b2n x.armed), (62, 1, b2n x.fired), (0, 48, x.acc.toNat)], x.wbytes.toNat, x.digest.toNat, x.nan.toNat * 2 ^ 32 + x.inf.toNat,
    x.maxabs.toNat, x.tft.toNat]

/-- WATCH_READ. A reserved OP belongs to this row. -/
def execWatchRead (s : State) : Out3 :=
  .next (cmdRun 0x51 (fun s t => watchSub 0 s t || 5 ≤ argF s t 0 0 4)
    (watchCmd fun t w s => mbxOut t ((watRegs (watGet s w)).flatMap fun r => [r % 2 ^ 32, r / 2 ^ 32]) (ftWords s.clk.ft) s) s)

/-- Statistics of a window at 0. -/
def watClear (w : Nat) (s : State) : State :=
  watSet w { watGet s w with acc := 0, wbytes := 0, digest := 0, nan := 0, inf := 0, maxabs := 0 } s

/-- The window starts as the generation that sets its entry does (R321). -/
def watStart (w : Nat) (s : State) : State :=
  let s := watClear w s
  watSet w { watGet s w with armed := waTmode (waE s.t w) != 0, fired := false } s

def watEnd (f : Nat → State → State) (t w : Nat) (s : State) : State := mbxDone t Mc.ok (ftWords s.clk.ft) (f w s)

/-- WATCH_CLEAR. -/
def execWatchClear (s : State) : Out3 := .next (cmdRun 0x51 (watchSub 1) (watchCmd (watEnd watClear)) s)

/-- WATCH_ARM. -/
def execWatchArm (s : State) : Out3 :=
  .next (cmdRun 0x51 (watchSub 2) (watchCmd (watEnd fun w s => watSet w { watGet s w with armed := true, fired := false } s)) s)

/-- WATCH_DISARM. -/
def execWatchDisarm (s : State) : Out3 :=
  .next (cmdRun 0x51 (watchSub 3) (watchCmd (watEnd fun w s => watSet w { watGet s w with armed := false } s)) s)

/-- WATCH_SCAN. -/
def execWatchScan (s : State) : Out3 :=
  .next (cmdRun 0x51 (watchSub 4) (watchCmd fun t w s =>
    match scanCopy s (waE s.t w) (BitVec.ofNat 2 (argF s t 0 8 2)) with
    | none => s
    | some (g, c) =>
      mbxWork t { s with peat := { s.peat with scan := some { ent := BitVec.ofNat 256 (waE s.t w), mbx := t, seg := g.id, copyB := c, pos := waBase (waE s.t w) * 8 / 128 * 128,
                                                              dig := 0, lines := 0, pois := 0 } } }) s)

/-- Words of the range in the line at Fen address `a`, added to a digest. -/
def scanLine (e a : Nat) (d : Line) (dig : BitVec 64) : BitVec 64 :=
  (List.range 16).foldl (fun x w =>
    let b := a + 8 * w
    if waBase e * 8 ≤ b ∧ b < (waBase e + waLength e) * 8 then x + digestOf 1 b (lineWord d w) else x) dig

/-- A SCAN ends with its digest and counts. -/
def scanEnd (c : Scan) (code : Nat) (s : State) : State :=
  mbxDone c.mbx code (ftWords s.clk.ft ++ [c.dig.toNat % 2 ^ 32, c.dig.toNat / 2 ^ 32, c.lines, c.pois]) { s with peat := { s.peat with scan := none } }

/-- WATCH_SCAN_STEP (R323): one line is read whole; the last one completes the command. -/
def execWatchScanStep (s : State) : Out3 :=
  .next (match s.peat.scan with
    | none => s
    | some c =>
      let e := c.ent.toNat
      match segFind s c.seg with
      | none => scanEnd c Mc.estate s
      | some g =>
        let k := locKey (fenLoc g c.copyB (c.pos % 2 ^ 26))
        let y := frameRead none k (useSlot (k / 32) false none s)
        let c := if y.1.2 then { c with pois := c.pois + 1 } else { c with dig := scanLine e c.pos y.1.1 c.dig, lines := c.lines + 1 }
        let c := { c with pos := c.pos + 128 }
        if (waBase e + waLength e) * 8 ≤ c.pos then scanEnd c Mc.ok y.2 else { y.2 with peat := { y.2.peat with scan := some c } })

end Sys2Proof.Machine
end

