-- ==== Sys2Proof/Machine/Gen.lean ====
section
/-! DEFINITION. Generations: the checks of a COMMIT, arming, and what a new generation does at its instant (R24, R57 to R59, R68 to R71, R158, R225, R237, R244, R265 to R270). -/

namespace Sys2Proof.Machine

/-- A condition on a candidate that has failed: status, table, entry (0xFFF: the table as a whole). -/
structure Refused where
  code : Nat
  tab  : Nat
  ent  : Nat
deriving DecidableEq, Repr

/-- The first entry below `n` that meets `p`, as a refusal. -/
def entBad (code tab n : Nat) (p : Nat → Bool) : Option Refused := (lowest n p).map fun i => { code := code, tab := tab, ent := i }

def tabBad (code tab : Nat) (c : Bool) : Option Refused := if c then some { code := code, tab := tab, ent := 0xFFF } else none

def orElse (a b : Option Refused) : Option Refused := match a with | some x => some x | none => b

def firstRefused (l : List (Option Refused)) : Option Refused := l.foldl orElse none

/-- Tables differ at entry `i`. -/
def entDiff (a b : Tables) (t i : Nat) : Bool := tbl a t i != tbl b t i

/-- Tables differ in some entry. -/
def tabDiff (a b : Tables) (t : Nat) : Bool := (a.filter fun x => x.1 / 4096 == t) != (b.filter fun x => x.1 / 4096 == t)

/-! ### EINVAL conditions -/

/-- T_RAT (R11, R71, R244). -/
def ratBad (c : Tables) (i : Nat) : Bool :=
  let e := tbl c Tid.rat i
  2 ^ 44 < ratHi e || ratRalloc e == 3 || ratWpol e == 3 || (ratSeal e && (popNat 16 (ratTcmask e) != 1 || ratWpol e != 0))

/-- T_CLASS (R225). -/
def classBad (c : Tables) (i : Nat) : Bool :=
  if i < 16 then clsWin c i == 0 || 256 < clsMfrac c i || 32 < clsWres c i else i == 16 && capMfull c < capMcap c

def clsSum (f : Nat → Nat) : Nat := (List.range 16).foldl (fun a k => a + f k) 0

/-- T_CTR (R290). -/
def ctrBad (c : Tables) (n : Nat) : Bool :=
  let e := ctE c n
  let k := evKind (ctEvent e)
  let p := ctE c (n - 1)
  k.isNone || ctSmode e == 3 || (k != some .r && (ctSmode e == 2 || ctOwner e != 0 || ctSeg e)) ||
    (isGauge (ctEvent e) && (ctSeg e || ctSmode e != 0 || ctChain e)) || (ctChain e && n % 2 == 0) ||
    (ctChain e && n % 2 == 1 && (ctOvfint p || ctSmode p != 0 || ctOwner p != ctOwner e))

/-- T_DUMP (R300). -/
def dumpBad (c : Tables) : Bool :=
  20 < dpLog2 c || 20 < dpSlog2 c || dpBase c % 2 ^ dpLog2 c != 0 || dpSbase c % 2 ^ dpSlog2 c != 0 ||
    2 ^ 37 < dpBase c + 2 ^ dpLog2 c || 2 ^ 37 < dpSbase c + 2 ^ dpSlog2 c ||
    (dpInterval c != 0 && 2 ^ dpLog2 c < dumpLines (dpCmask c))

/-- Defined TYPEMASK bits (Table 15.4). -/
def typeBits : Nat := [1, 2, 3, 4, 8, 9, 16, 17, 18, 24].foldl (fun a n => a + 2 ^ n) 0

/-- T_TRACE (R311). -/
def traceBad (c : Tables) (b : Nat) : Bool :=
  let e := tcE c b
  let m := tcTypemask e
  tcEn e && (tcRsize e == 0 || 2 ^ 37 < tcRbase e + tcRsize e || m &&& typeBits != m ||
    (tcMode e == 2 && 4 * tcRsize e < tcWbefore e + tcWafter e + 1) ||
    (tcMode e == 3 && (m &&& 0x16 != m || tcTrigwin e != 0 || tcTrigovf e || tcTriggm e || tcTrigdr e)))

/-- T_WATCH (R320). -/
def watchBad (c : Tables) (w : Nat) : Bool :=
  let e := waE c w
  let hi := (waBase e + waLength e) * 8
  waLength e != 0 && (2 ≤ waAspace e || 4 < waTmode e || (waAspace e == 0 && 2 ^ 44 < hi) || (waAspace e == 1 && 2 ^ 32 < hi) ||
    (waTmode e == 4 && 0x7F800000 < waLimit e % 2 ^ 31))

/-- Ranges (first byte, byte after) have a byte in common. -/
def meets (a b : Nat × Nat) : Bool := a.1 < a.2 && b.1 < b.2 && a.1 < b.2 && b.1 < a.2

def macRange (c : Tables) (t : Nat) : Nat × Nat := (tenMacbase c t * 65536, (tenMacbase c t + tenMacsize c t) * 65536)

/-- Sealed regions: range and context. -/
def sealedRegions (c : Tables) : List ((Nat × Nat) × Nat) :=
  ((List.range 64).map (tbl c Tid.rat)).filterMap fun e =>
    if ratSeal e && ratSize e != 0 then some ((ratLo e, ratHi e), (lowest 16 (nbit (ratTcmask e))).getD 0) else none

/-- T_TENANT (R244). -/
def tenantBad (c : Tables) (t : Nat) : Bool :=
  let lo := tenSealbase c t * 65536
  let hi := lo + 16 * tenMacsize c t * 65536
  let m := macRange c t
  let sr := sealedRegions c
  sr.any (fun r => r.2 == t && !(lo ≤ r.1.1 && r.1.2 ≤ hi)) || 2 ^ 44 < hi || 2 ^ 44 < m.2 || sr.any (fun r => meets m r.1) ||
    (List.range t).any fun u => meets m (macRange c u)

/-- T_PREFETCH (Table 3.8). -/
def prefetchBad (c : Tables) (i : Nat) : Bool := if i < 16 then 8 < pfDegree c i else pfHblk c < 7 || 30 < pfHblk c

/-- The EINVAL pass (R267). -/
def passEinval (c : Tables) : Option Refused :=
  let e := Mc.einval
  firstRefused [entBad e 1 64 (ratBad c), entBad e 2 17 (classBad c), tabBad e 2 (128 < clsSum (clsQres c)), tabBad e 2 (1024 < clsSum (clsMres c)),
    tabBad e 2 (32 < clsSum (clsWres c)), entBad e 5 1 (fun _ => partFloor c == 0 || 8 < partFloor c || 8 - partFloor c < partFencnt c),
    entBad e 6 13 (fun i => i == 12 && (mcCap c < 4 || 256 < mcCap c)), entBad e 7 64 (ctrBad c),
    tabBad e 7 (8 < ((List.range 64).filter fun n => ctSmode (ctE c n) == 2).length), entBad e 8 1 (fun _ => dumpBad c), entBad e 9 4 (traceBad c),
    entBad e 10 16 (watchBad c), entBad e 11 16 (tenantBad c), entBad e 12 17 (prefetchBad c)]

/-! ### ESTATE, EAGAIN and ENOSPC conditions -/

/-- Sedge records the agent in some entry (R165). -/
def sedgeHolds (s : State) (c : Nat) : Bool := s.home.sedge.any fun x => x.2.st != 0 && (isOwner x.2 c || isSharer x.2 c)

/-- R158: the entry whose agent loses its last binding while Sedge records it. -/
def bindBad (s : State) (c : Tables) : Option Refused :=
  ((rmListed s.t).find? fun r =>
    rmV s.t r && rmCv s.t r && !rmBinds c (rmCagent s.t r) && sedgeHolds s (rmCagent s.t r)).map fun r => { code := Mc.estate, tab := 3, ent := r }

/-- Some cache way or Sedge entry is valid. -/
def linesHeld (s : State) : Bool := s.arr.tags.any (fun x => x.2.v && holdsCache s (x.1 % 32)) || s.home.sedge.any fun x => x.2.st != 0

/-- R58. -/
def hashBad (s : State) (c : Tables) : Option Refused :=
  if linesHeld s then entBad Mc.estate 4 2 (entDiff s.t c Tid.hash) else none

/-- A way group holds an allocated frame. -/
def groupUsed (s : State) (g : Nat) : Bool := (usedFrames s).any fun f => f / 128 == g

/-- R70. -/
def partBad (s : State) (c : Tables) : Option Refused :=
  entBad Mc.estate 5 1 fun _ => (List.range 8).any fun g => 8 - partFencnt s.t ≤ g && g < 8 - partFencnt c && groupUsed s g

def passEstate (s : State) (c : Tables) : Option Refused := firstRefused [bindBad s c, hashBad s c, partBad s c]

/-- R59 and R69. -/
def passEagain (s : State) (c : Tables) : Option Refused :=
  firstRefused [if s.gen.rehash.isSome then entBad Mc.eagain 4 14 (entDiff s.t c Tid.hash) else none,
    entBad Mc.eagain 5 1 fun _ => s.gen.conv.isSome && partFencnt s.t != partFencnt c]

/-- R237: the sums over the common denominator of the window lengths. -/
def passEnospc (c : Tables) : Option Refused :=
  let p := winProd c
  let r := clsSum fun k => clsFloor c k * (p / clsWin c k)
  let m := clsSum fun k => clsFloor c k * clsMfrac c k * (p / clsWin c k)
  firstRefused [tabBad Mc.enospc 2 (capPcap c * p < 16 * r), tabBad Mc.enospc 2 (capMcap c * 256 * p < 16 * m)]

/-- The four passes (R267). -/
def commitCheck (s : State) (c : Tables) : Option Refused := firstRefused [passEinval c, passEstate s c, passEagain s c, passEnospc c]

/-! ### Arming (R267, R341) -/

/-- Tables whose shadow copy differs from the live one, as bits. -/
def editedBits (s : State) (c : Tables) : Nat := (List.range 13).foldl (fun a t => if tabDiff s.t c t then a + 2 ^ t else a) 0

/-- Domains a candidate needs ON (Table 16.5). -/
def needs (c : Tables) : List Nat :=
  (if rmAnyCv c then [68] else []) ++
  (if (List.range 4).any (fun b => tcEn (tcE c b)) || (List.range 16).any (fun w => waLength (waE c w) != 0) then [75] else []) ++
  (if (List.range 64).any fun i => ratSeal (tbl c Tid.rat i) then [77] else [])

/-- The steward wants a domain in a state (R342). -/
def want (pd : Nat) (p : Power) (s : State) : State :=
  if s.pw.wants.contains { pd := pd, target := p } then s else { s with pw := { s.pw with wants := s.pw.wants ++ [{ pd := pd, target := p }] } }

/-- The COMMIT of mailbox `t` is armed and completes. -/
def armAt (t : Nat) (target : FT) (c : Tables) (s : State) : State :=
  let g := s.gen.gen + 1
  mbxDone t Mc.ok [g.toNat, editedBits s c, 0] { s with gen := { s.gen with armed := some { target := target, cand := c, gen := g }, wait := none } }

/-- A COMMIT that waits for its domains is armed once they are ON, while the core runs (R264). -/
def armTry (s : State) : State :=
  match s.gen.wait with
  | some w => if coreRuns s && (needs w.cand).all (pdHeld s) then armAt w.mbx w.target w.cand s else s
  | none => s

/-! ### The instant (R24, R268 to R270) -/

/-- BRL_GEN_STAT and BRL_GEN_FT at the end of an armed COMMIT; `last` is 0 applied, 1 cancelled, 2 failed. -/
def genEnd (last : Nat) (f : Refused) (s : State) : State :=
  raise (if last = 0 then Cause.genDone else Cause.genFail)
    { s with gen := { s.gen with armed := none, last := BitVec.ofNat 2 last, ftab := BitVec.ofNat 8 f.tab, fcode := BitVec.ofNat 4 f.code,
                                 fent := BitVec.ofNat 12 f.ent, gft := s.clk.ft } }

def noRefusal : Refused := { code := 0, tab := 0, ent := 0 }

/-- A change of T_HASH entries 2 to 13 starts a rehash (R59). -/
def applyHash (old : Tables) (s : State) : State :=
  let d := fun i => entDiff old s.t Tid.hash i
  if d 0 || d 1 || !(List.range 14).any d then s
  else { s with gen := { s.gen with rehash := some { hOld := hashRows old, apos := 0, spos := 0 }, hg := !s.gen.hg } }

/-- Way groups that turn converting, and Fen groups that become cache (R69, R70). -/
def applyPart (old : Tables) (s : State) : State :=
  let a := 8 - partFencnt old
  let b := 8 - partFencnt s.t
  let s := if partScrub old = partScrub s.t then s else { s with srv := { s.srv with scrubG := s.clk.ft, scrubK := 0 } }
  if b < a then
    { s with gen := { s.gen with conv := some { wgs := BitVec.ofNat 8 ((List.range 8).foldl (fun m g => if b ≤ g && g < a then m + 2 ^ g else m) 0), pos := 0 } } }
  else if a < b then { s with arr := { s.arr with tags := s.arr.tags.filter fun x => !(a ≤ x.1 % 32 / 4 && x.1 % 32 / 4 < b) } }
  else s

/-- T_CLASS: entries 0 to 15 restart the windows (R234); the capacities enter the windows that run. -/
def applyClass (old : Tables) (s : State) : State :=
  if (List.range 16).any (entDiff old s.t Tid.class_) then winRestart s
  else if entDiff old s.t Tid.class_ 16 || entDiff old s.t Tid.class_ 17 then winNote s else s

/-- T_CTR and T_DUMP (R291, R301, R303). -/
def applyCtr (old : Tables) (s : State) : State :=
  let s := (List.range 64).foldl (fun s n =>
    if !entDiff old s.t Tid.ctr n then s
    else
      let s := { s with ctr := { s.ctr with rst := s.ctr.rst ++ [{ n := n, val := 0, zl := false, commit := true }] } }
      if ctPeriod (ctE old n) = ctPeriod (ctE s.t n) then s else ctrPut n { ctrGet s n with p0 := s.clk.ft, pk := 1 } s) s
  if dpFirst old = dpFirst s.t ∧ dpInterval old = dpInterval s.t then s else { s with ctr := { s.ctr with dump := { s.ctr.dump with k := 0 } } }

/-- T_TRACE and T_WATCH (R312, R321). -/
def applyPeat (old : Tables) (s : State) : State :=
  let s := (List.range 4).foldl (fun s b => if entDiff old s.t Tid.trace b then bufStart b s else s) s
  (List.range 16).foldl (fun s w => if entDiff old s.t Tid.watch w then watStart w s else s) s

/-- The generation is applied. Windows that end in this SCLK are evaluated under the old one first (R234). -/
def genApply (a : Armed) (s : State) : State :=
  let s := (List.range 16).foldl (fun s c => if winDue s c then winEnd c s else s) s
  let old := s.t
  let s := { s with gen := { s.gen with live := a.cand, shadow := a.cand, gen := a.gen }, srv := { s.srv with allocOff := false } }
  genEnd 0 noRefusal (applyPeat old (applyCtr old (applyClass old (applyPart old (applyHash old s)))))

/-- An armed COMMIT at or past its target (R24, R27). -/
def commitDue (s : State) (a : Armed) : Bool := s.clk.ftv && a.target ≤ s.clk.ft

/-- The SCLK of the instant. -/
def genInstant (a : Armed) (s : State) : State :=
  match firstRefused [bindBad s a.cand, hashBad s a.cand] with
  | some f => genEnd 2 f s
  | none => genApply a s

end Sys2Proof.Machine
end

