-- ==== Sys2Proof/Machine/Stream.lean ====
section
/-! DEFINITION. Commands that take words from a mailbox's DATA port: SET_TABLE and FW_LOAD (R261, R262, R266, R281). -/

namespace Sys2Proof.Machine

/-! ### SET_TABLE (R266, Table 13.8) -/

/-- The entries of a list of words, `w` words each, `n` of them. -/
def entriesOf (w : Nat) : Nat → List (BitVec 32) → List Nat
  | 0, _ => []
  | n + 1, l => (l.take w).foldr (fun x a => x.toNat + 2 ^ 32 * a) 0 :: entriesOf w n (l.drop w)

/-- Words of an entry, bits 31:0 first. -/
def wordsOf (w v : Nat) : List Nat := (List.range w).map fun i => fld v (32 * i) 32

/-- The last word of a SET_TABLE has arrived. -/
def setTableEnd (t : Nat) (s : State) : State :=
  let tab := argF s t 0 16 8
  let first := argF s t 0 0 12
  let count := argF s t 1 0 13
  let es := entriesOf (tblWords tab) count (mbxGet s t).got
  if es.zipIdx.any fun e => e.1 &&& tblRsv tab (first + e.2) != 0 then mbxDone t Mc.einval [] s
  else if commitArmed s then mbxDone t Mc.eagain [] s
  else
    let sh := es.zipIdx.foldl (fun g e => tblSet g tab (first + e.2) e.1) s.gen.shadow
    mbxDone t Mc.ok [count] { s with gen := { s.gen with shadow := sh } }

/-! ### Firmware images (R281, Table 13.18) -/

def fwMagic : Nat := 0x57464C42

/-- A word of an image. -/
def fwWord (l : List (BitVec 32)) (i : Nat) : Nat := (l.getD i 0).toNat

/-- The status of an image of `n` words with check value `crc`: OK, EINVAL or EVERSION. -/
def imageStatus (l : List (BitVec 32)) (n crc : Nat) : Nat :=
  if fwWord l 0 ≠ fwMagic ∨ fwWord l 3 ≠ n ∨ fwWord l 2 / 2 ^ 16 ≠ 0 ∨ fwWord l 5 ≠ 0 ∨ fwWord l 6 ≠ 0 ∨ fwWord l 7 ≠ 0 ∨ 4 * n ≤ fwWord l 4 ∨
      crc32 l ≠ crc then Mc.einval
  else if 0x0100 < fwWord l 2 then Mc.eversion
  else Mc.ok

/-- The words of the active slot, the one that runs. -/
def activeImage (c : Core) : List (BitVec 32) := if c.slot then c.fwB else c.fwA

/-- FWVER of the running image (Table 13.2); 0 while no image has started. -/
def fwVer (s : State) : Nat := if s.core.run then fwWord (activeImage s.core) 1 else 0

/-- The inactive slot takes a validity. -/
def setInactive (v : Bool) (s : State) : State :=
  if s.core.slot then { s with core := { s.core with vala := v } } else { s with core := { s.core with valb := v } }

/-- The last word of an FW_LOAD has arrived. -/
def fwLoadEnd (t : Nat) (s : State) : State :=
  let l := (mbxGet s t).got
  let st := imageStatus l l.length (mArg s t 1)
  let s := if s.core.slot then { s with core := { s.core with fwA := l } } else { s with core := { s.core with fwB := l } }
  if st = Mc.ok then mbxDone t Mc.ok [b2n (!s.core.slot), fwWord l 1] (setInactive true s)
  else mbxDone t st [] s

/-! ### The input stream -/

/-- The command that waits for input has all its words. -/
def inputDone (t : Nat) (s : State) : State := if (mbxGet s t).op = 2 then setTableEnd t s else fwLoadEnd t s

/-- A command in its input phase consumes the words present, while the core runs (R261, R264). -/
def mbxFeed (t : Nat) (s : State) : State :=
  let m := mbxGet s t
  if !coreRuns s then s
  else match m.phase with
  | .input n =>
    let k := n - m.got.length
    let m' := { m with got := m.got ++ m.inF.take k, inF := m.inF.drop k, wait := if m.inF.isEmpty then m.wait else s.clk.run }
    let s := mbxSet t m' s
    if n ≤ m'.got.length then inputDone t s else s
  | _ => s

/-- The command takes `n` words (R261, R262). -/
def mbxInput (t n : Nat) (s : State) : State := mbxFeed t (mbxSet t { mbxGet s t with phase := .input n, got := [], wait := s.clk.run } s)

/-- Commands that run: their mailboxes other than `t` are BUSY and past the start queue. -/
def otherRuns (s : State) (t : Nat) : Bool :=
  (List.range 16).any fun u => u != t && (mbxGet s u).busy && (mbxGet s u).phase != .queued

/-- A mailbox other than `t` runs a command of opcode `op`. -/
def runsOp (s : State) (t op : Nat) : Bool :=
  (List.range 16).any fun u => u != t && (mbxGet s u).busy && (mbxGet s u).phase != .queued && (mbxGet s u).op.toNat == op

end Sys2Proof.Machine
end

