-- ==== Sys2Proof/Machine/FwCmds.lean ====
section
/-! DEFINITION. Meanings: firmware images, activation, watchdog and traps (R264, R281 to R285). -/

namespace Sys2Proof.Machine

/-! ### Restarts of the steward core (R264) -/

/-- The core resets into the slot selected: no image has reported ready, and commands of the start queue will not start. -/
def coreReset (s : State) : State :=
  { s with core := { s.core with sup := false, run := true, wdAt := s.clk.run } }

/-- A restart under R284. Commands that a running core had not started end when the image reports ready; those written while it was in reset
start then (R264). -/
def coreRestart (s : State) : State := coreReset { s with startQ := if coreRuns s then [] else s.startQ }

/-- The work of mailbox `t`'s command lies in the datapath. A COMMIT that still waits for its domains does not. -/
def inDatapath (s : State) (t : Nat) : Bool :=
  (mbxGet s t).phase == .work && !((s.gen.wait.map fun w => w.mbx == t).getD false)

/-- A BUSY mailbox when the image reports ready. -/
def readyMbx (t : Nat) (s : State) : State :=
  let m := mbxGet s t
  let s := mbxSet t { m with inF := [], outF := [] } s
  if !m.busy || s.startQ.contains t then s
  else match s.core.act with
    | some a =>
      if a.mbx = t then
        mbxDone t (if a.reverted then Mc.efault else Mc.ok) [b2n s.core.slot, fwVer s] { s with core := { s.core with act := none } }
      else if inDatapath s t then s else mbxDone t Mc.estate [] s
    | none => if inDatapath s t then s else mbxDone t Mc.estate [] s

/-- The image reports ready: commands, FIFOs and shadow tables as R264 leaves them. -/
def imageReady (s : State) : State :=
  let s := (List.range 16).foldl (fun s t => readyMbx t s) { s with core := { s.core with sup := true } }
  { s with gen := { s.gen with shadow := s.gen.live, wait := none }, srv := { s.srv with insp := [] } }

/-- FW_READY (R264, R282, R283); the first image of a bring-up reports ready at step 5 of Table 16.9. -/
def execFwReady (s : State) : Out3 := .next (if s.core.run && !s.core.sup && !s.pw.bring then imageReady s else s)

/-! ### FW_LOAD and FW_ACTIVATE -/

def fwLoadCmd (t : Nat) (s : State) : State :=
  let n := argF s t 0 0 15
  checked t [(t ≠ 0, Mc.eperm), (n = 0, Mc.zeroNop), (argRsv s t [(0, 15, 17)] || 24576 < n, Mc.einval),
      (runsOp s t 0x70 || runsOp s t 0x71, Mc.estate)] noRes (fun s => mbxInput t n (setInactive false s)) s

/-- FW_LOAD (R281). -/
def execFwLoad (s : State) : Out3 := .next (cmdRun 0x70 anySub fwLoadCmd s)

/-- The inactive slot holds a valid image. -/
def inactiveValid (s : State) : Bool := if s.core.slot then s.core.vala else s.core.valb

def fwActivateCmd (t : Nat) (s : State) : State :=
  checked t [(t ≠ 0, Mc.eperm), (argRsv s t [(0, 0, 32)], Mc.einval), (!inactiveValid s || otherRuns s t || commitArmed s, Mc.estate)] noRes
    (fun s =>
      let s := mbxWork t s
      coreReset { s with core := { s.core with slot := !s.core.slot, act := some { mbx := t, at_ := s.clk.run, reverted := false } } }) s

/-- FW_ACTIVATE (R282). -/
def execFwActivate (s : State) : Out3 := .next (cmdRun 0x71 anySub fwActivateCmd s)

/-- The new image of an activation has not reported ready. -/
def activating (s : State) : Bool := match s.core.act with | some a => !a.reverted && !s.core.sup | none => false

/-- The previous slot takes over, and the new one is marked invalid (R283). -/
def revert (s : State) : State :=
  let s := { s with core := { s.core with slot := !s.core.slot, act := s.core.act.map fun a => { a with reverted := true } } }
  raiseAlert 2 (coreReset (setInactive false s))

/-- ACTIVATION_REVERT (R283): at the limit. -/
def execActivationRevert (s : State) : Out3 :=
  .next (match s.core.act with
    | some a => if activating s && Config.activateTicks ≤ s.clk.run - a.at_ then revert s else s
    | none => s)

/-! ### Watchdog and traps (R284) -/

/-- An alert, the restart count, and a restart in the active slot. -/
def coreAlert (b : Nat) (s : State) : State := raiseAlert b (coreRestart { s with ints := { s.ints with rst := s.ints.rst + 1 } })

/-- WATCHDOG_EXPIRY: the firmware can have left the watchdog unrefreshed for 10,000,000 ticks. -/
def execWatchdogExpiry (s : State) : Out3 := .next (if s.core.run && 10000000 ≤ s.clk.run - s.core.wdAt then coreAlert 0 s else s)

/-- STEWARD_TRAP: during an activation the previous slot takes over (R283). -/
def execStewardTrap (s : State) : Out3 := .next (if !s.core.run then s else if activating s then revert s else coreAlert 1 s)

/-! ### INVALID_COMMAND (R259) -/

/-- Opcodes of Table 13.6. -/
def knownOps : List Nat :=
  [0x01, 0x02, 0x03, 0x04, 0x10, 0x11, 0x12, 0x13, 0x14, 0x20, 0x21, 0x30, 0x31, 0x32, 0x40, 0x41, 0x50, 0x51, 0x60, 0x61, 0x62, 0x63, 0x70, 0x71,
    0x80, 0x81]

/-- INVALID_COMMAND: the command at the head of the start queue names nothing. -/
def execInvalidCommand (s : State) : Out3 :=
  .next (if !coreRuns s then s
    else match s.startQ with
      | [] => s
      | t :: rest => if knownOps.contains (mbxGet s t).op.toNat then s else mbxDone t Mc.einval [] { s with startQ := rest })

end Sys2Proof.Machine
end

