-- ==== Sys2Proof/Machine/GenCmds.lean ====
section
/-! DEFINITION. Meanings: information, tables and generations. -/

namespace Sys2Proof.Machine

/-! ### Identity and status (Table 13.2) -/

def idWord : Nat := 0x0B1A0100

def chipWord (s : State) : Nat := packNat [(16, 12, sreqN s), (0, 14, chipN s)]

/-- BRL_BANK_OFF: banks whose domain is not ON. -/
def bankOffBits (s : State) : Nat := (List.range 64).foldl (fun a b => if pdOn s b then a else a + 2 ^ b) 0

def bankRetBits (s : State) : Nat := (List.range 64).foldl (fun a b => if (bankGet s b).retired then a + 2 ^ b else a) 0

/-- GET_INFO (R272, Table 13.11). -/
def infoRes (s : State) (t : Nat) : List Nat :=
  [idWord, fwVer s, chipWord s, s.gen.gen.toNat, packNat [(16, 10, convFrames s 0), (0, 10, (freeFrames s 0).length)],
    packNat [(16, 11, heldFrames s), (0, 10, headroom s)],
    packNat [(16, 5, (s.fen.regions.filter (·.opened)).length), (0, 7, s.fen.segs.length)], t,
    bankOffBits s % 2 ^ 32, bankOffBits s / 2 ^ 32, bankRetBits s % 2 ^ 32, bankRetBits s / 2 ^ 32]

/-- GET_INFO. -/
def execGetInfo (s : State) : Out3 := .next (cmdRun 0x01 anySub (fun t s => mbxDone t Mc.ok (infoRes s t) s) s)

/-! ### SET_TABLE, GET_TABLE (R266) -/

/-- The arguments name entries of a table. -/
def tableArgsBad (s : State) (t : Nat) (rsv : List (Nat × Nat × Nat)) : Bool :=
  argRsv s t rsv || tblEntries (argF s t 0 16 8) < argF s t 0 0 12 + argF s t 1 0 13

/-- SET_TABLE. -/
def execSetTable (s : State) : Out3 :=
  .next (cmdRun 0x02 anySub (fun t s =>
    checked t [(t ≠ 0, Mc.eperm), (argF s t 1 0 13 = 0, Mc.zeroNop), (tableArgsBad s t [(0, 24, 8), (0, 12, 4), (1, 13, 19)], Mc.einval),
        (commitArmed s, Mc.eagain)] noRes
      (fun s => mbxInput t (argF s t 1 0 13 * tblWords (argF s t 0 16 8)) s) s) s)

/-- GET_TABLE. -/
def execGetTable (s : State) : Out3 :=
  .next (cmdRun 0x03 anySub (fun t s =>
    checked t [(t ≠ 0, Mc.eperm), (argF s t 1 0 13 = 0, Mc.zeroNop), (tableArgsBad s t [(0, 24, 7), (0, 12, 4), (1, 13, 19)], Mc.einval)] noRes
      (fun s =>
        let tab := argF s t 0 16 8
        let g := if argB s t 0 31 then s.gen.live else s.gen.shadow
        let es := (List.range (argF s t 1 0 13)).map fun i => tbl g tab (argF s t 0 0 12 + i)
        mbxOut t (es.flatMap (wordsOf (tblWords tab))) [argF s t 1 0 13] s) s) s)

/-! ### COMMIT (R267 to R271, R341) -/

/-- The domains that a candidate needs and that are not held are wanted ON (R341). -/
def wantNeeds (c : Tables) (s : State) : State := (needs c).foldl (fun s d => if pdHeld s d then s else want d .on s) s

def waitSet (w : CommitWait) (s : State) : State := { s with gen := { s.gen with wait := some w } }

/-- A COMMIT whose checks have passed waits for its domains, and is armed at once where they are ON. -/
def commitGo (w : CommitWait) (s : State) : State := armTry (mbxWork w.mbx (waitSet w (wantNeeds w.cand s)))

/-- COMMIT with CANCEL = 0. -/
def commitCmd (t : Nat) (s : State) : State :=
  if t ≠ 0 then mbxDone t Mc.eperm [] s
  else if argF s t 0 1 31 ≠ 0 then mbxDone t Mc.einval [] s
  else if commitArmed s then mbxDone t Mc.eagain [(s.gen.gen + 1).toNat] s
  else if noDatapath s then mbxDone t Mc.estate [] s
  else
    match commitCheck s s.gen.shadow with
    | some f => mbxDone t f.code [0, 0, f.tab * 2 ^ 16 + f.ent] s
    | none => commitGo { mbx := t, target := BitVec.ofNat 64 (mArg s t 1 + 2 ^ 32 * mArg s t 2), cand := s.gen.shadow } s

/-- COMMIT. -/
def execCommit (s : State) : Out3 := .next (cmdRun 0x04 (fun s t => !argB s t 0 0) commitCmd s)

/-- COMMIT with CANCEL = 1 (R271): too late once the instant has come, and then the generation is applied. -/
def cancelCmd (t : Nat) (s : State) : State :=
  if t ≠ 0 then mbxDone t Mc.eperm [] s
  else if argF s t 0 1 31 ≠ 0 then mbxDone t Mc.einval [] s
  else match s.gen.armed with
    | none => mbxDone t Mc.estate [] s
    | some a => if commitDue s a then mbxDone t Mc.estate [] s else mbxDone t Mc.ok [a.gen.toNat] (genEnd 1 noRefusal s)

/-- COMMIT_CANCEL. -/
def execCommitCancel (s : State) : Out3 := .next (cmdRun 0x04 (fun s t => argB s t 0 0) cancelCmd s)

end Sys2Proof.Machine
end

