-- ==== Sys2Proof/Machine/Sweeps.lean ====
section
/-! DEFINITION. Sweeps of the array and of Sedge, drains, and bank service (R59, R69, R273, R274, R278 to R280, R361 to R363). -/

namespace Sys2Proof.Machine

/-! ### One set or way of a sweep -/

/-- What a sweep has done so far in its present step: lines written back, lines invalidated, whether a line had to stay. -/
structure Swept where
  wb   : Nat
  inv  : Nat
  left : Bool
  s    : State

/-- The line at `k` leaves the array, if Mire has room for a dirty one and no clean write of it is under way (R64, R67). -/
def sweepWay (x : Swept) (k : Nat) : Swept :=
  let e := tagGet x.s k
  if !e.v then x
  else if cleanHolds x.s k || (e.d && mireFull x.s) then { x with left := true }
  else { wb := x.wb + b2n e.d, inv := x.inv + 1, left := x.left, s := (evictWay k x.s).2 }

/-- A sweep's step in set `set`: the ways that satisfy `p` leave. -/
def sweepSet (set : Nat) (p : State → Nat → Bool) (s : State) : Swept :=
  let s := setCheck none set (useSlot set false none s)
  ((List.range 32).map (wkey set)).foldl (fun x k => if p x.s k then sweepWay x k else x) { wb := 0, inv := 0, left := false, s := s }

/-! ### Rehash and conversion (R59, R69) -/

/-- A valid cache line that the live matrix places in another set. -/
def placedOld (s : State) (k : Nat) : Bool :=
  let e := tagGet s k
  e.v && holdsCache s (k % 32) && liveSet s e.line != k / 32

def rehashSet (r : Rehash) (s : State) : State := { s with gen := { s.gen with rehash := some r } }

/-- The rehash ends when both sweeps have visited every set. -/
def rehashEnd (s : State) : State :=
  match s.gen.rehash with
  | some r => if r.apos = 16384 ∧ r.spos = 4096 then { s with gen := { s.gen with rehash := none } } else s
  | none => s

/-- The array sweep visits a set. -/
def rehashStep (r : Rehash) (s : State) : State :=
  let x := sweepSet r.apos placedOld s
  if x.left then x.s else rehashEnd (rehashSet { r with apos := r.apos + 1 } x.s)

def convSet (c : Option Conv) (s : State) : State := { s with gen := { s.gen with conv := c } }

/-- The conversion sweep visits a set; after the last one the groups are Fen. -/
def convStep (c : Conv) (s : State) : State :=
  let x := sweepSet c.pos (fun s k => groupConverts s (k % 32 / 4)) s
  if x.left then x.s
  else if c.pos + 1 < 16384 then convSet (some { c with pos := c.pos + 1 }) x.s
  else convSet none x.s

/-! ### The Sedge sweep (R59) -/

/-- The request under which the sweep takes a Sedge victim. -/
def ownReq (s : State) (l : LAddr) : Req :=
  let m : Msg := { hdr := reqHdr Op.rd 0 Vc.req (sreqN s) (chipN s) (chipN s) (rmTc s.t (sreqN s)) 0 0 0 0 (l.toNat * 128) false false, beats := [], be := [] }
  mkReq s .d0 .own m none none

/-- The back-invalidation of line `l` that the Sedge sweep began has not ended. -/
def victimOpen (s : State) (l : LAddr) : Bool := s.home.htes.any fun h => h.h && h.line == l && h.kind == .backInv && h.req.src == .own

/-- The sweep notes the victim, of line `v`, that it takes for the entry at `k` (R59). -/
def noteVictim (k : Nat) (v : LAddr) (s : State) : State :=
  match s.gen.rehash with
  | some r => rehashSet { r with vics := r.vics.filter (·.1 ≠ k) ++ [(k, v)] } s
  | none => s

/-- Entry `w` of Sedge set `y` is moved if it is of the former matrix; the first answer says that an entry must stay for now: it waits for the
one victim taken for it (R59). -/
def sedgeMove (y : Nat) (a : Bool × State) (w : Nat) : Bool × State :=
  let s := a.2
  let k := skey y w
  let e := sedgeGet s k
  if e.st == 0 || e.hg == s.gen.hg then a
  else
    let l := sedgeLine s k
    let x := liveSet s l
    let e' := { e with hg := s.gen.hg, shi := BitVec.ofNat 2 (x / 4096) }
    if x % 4096 = y then (a.1, sedgeSet k e' s)
    else if ((s.gen.rehash.map Rehash.vics).getD []).any (fun v => v.1 == k && victimOpen s v.2) then (true, s)
    else match sedgeRoom s x with
      | .free j => (a.1, sedgeSet j e' (sedgeSet k SedgeE.zero s))
      | .victim j => match backInvalidate (ownReq s l) j s with
        | .done t | .attached t => (true, noteVictim k (sedgeLine s j) t)
        | .hold _ t => (true, t)
      | .allH => (true, s)

/-- The Sedge sweep visits a Sedge set. -/
def sedgeStep (r : Rehash) (s : State) : State :=
  let x := (List.range 8).foldl (sedgeMove r.spos) (false, sedgeCheck none r.spos (useSlot r.spos false none s))
  if x.1 then x.2 else rehashEnd (rehashSet { r with spos := r.spos + 1, vics := [] } x.2)

/-! ### Drains (R273) -/

def drainSet (d : Drain) (s : State) : State := { s with srv := { s.srv with drain := some d } }

/-- A DRAIN sweep's set is done: the position advances, and the command may complete. -/
def drainNext (d : Drain) (x : Swept) : State :=
  drainTry (drainSet { d with wb := d.wb + x.wb, inv := d.inv + x.inv, pos := if x.left then d.pos else d.pos + 32 } x.s)

def emptyStep (d : Drain) (s : State) : State :=
  drainNext d (sweepSet (d.pos / 32) (fun s k => holdsCache s (k % 32)) s)

/-- A dirty line is sent from its place in a free clean-write slot and stays, with D = 0. -/
def cleanWay (x : Swept) (k : Nat) : Swept :=
  let e := tagGet x.s k
  if !(e.v && e.d && holdsCache x.s (k % 32)) then x
  else if cleanHolds x.s k then { x with left := true }
  else match lowest 64 fun i => x.s.mp.clean.all (·.slot ≠ i) with
    | none => { x with left := true }
    | some i =>
      let s := (wayCheck none k x.s).2
      let e := tagGet s k
      let c : CleanW := { slot := i, line := e.line, key := k, data := dataGet s k, poi := e.poi, sealed := e.sealed, tc := e.tc, qc := e.qc,
                          ackOut := true, macOut := false }
      let s := tagSet k { e with d := false } { s with mp := { s.mp with clean := s.mp.clean ++ [c] } }
      { wb := x.wb + 1, inv := x.inv, left := x.left, s := mwPush (.clean i) s }

def cleanStep (d : Drain) (s : State) : State :=
  let set := d.pos / 32
  let s := setCheck none set (useSlot set false none s)
  drainNext d (((List.range 32).map (wkey set)).foldl cleanWay { wb := 0, inv := 0, left := false, s := s })

/-! ### Bank service (R278 to R280, R362, R363) -/

/-- Lines of a bank: the set of line `i`. -/
def bankKey (b i : Nat) : Nat := wkey (2 * i + b / 32) (b % 32)

/-- The bank's tag entries are cleared (R61). -/
def clearBank (b : Nat) (s : State) : State :=
  { s with arr := { s.arr with tags := s.arr.tags.filter fun x => bankOfKey x.1 != b },
           bad := s.bad.filter fun x => match x with | .tagSingle k | .tagDouble k | .data k _ => bankOfKey k != b | _ => true }

/-- Bank commands that run. -/
def bankOps (s : State) : Nat := ((List.range 64).filter fun b => (bankGet s b).op.isSome).length

/-- A bank operation ends with a status and results. -/
def bankDone (b code : Nat) (res : List Nat) (s : State) : State :=
  let k := bankGet s b
  match k.op with
  | some o => mbxDone o.mbx code res (bankSet b { k with op := none } s)
  | none => s

/-- The counts of a bank command gain those of a line. -/
def bankCount (b : Nat) (x : Swept) (s : State) : State :=
  let k := bankGet s b
  bankSet b { k with op := k.op.map fun o => { o with wb := o.wb + x.wb, inv := o.inv + x.inv } } s

/-- The line at `key` leaves its bank, in a lookup slot of its set. -/
def bankLine (key : Nat) (s : State) : Swept :=
  let s := setCheck none (key / 32) (useSlot (key / 32) false none s)
  let x : Swept := { wb := 0, inv := 0, left := false, s := s }
  if holdsCache s (key % 32) then sweepWay x key else x

/-- The last line has been visited: the domain of an offline bank moves. -/
def bankSwept (b : Nat) (s : State) : State :=
  match (bankGet s b).op with
  | some o => match o.kind with
    | .offline toff => if o.pos = 8192 then want b (if toff then .off else .retain) s else s
    | _ => s
  | none => s

/-- A line of the retirement sweep, or else of the bank command's sweep, is visited. The retirement is reported when its sweep has
ended (R362, log 32). -/
def bankStep (b : Nat) (s : State) : State :=
  let k := bankGet s b
  match k.sweep with
  | some i =>
    let x := bankLine (bankKey b i) s
    let s := bankCount b x x.s
    let k := bankGet s b
    if x.left then s
    else if i + 1 < 8192 then bankSet b { k with sweep := some (i + 1) } s
    else
      let s := retireReport b (bankSet b { k with sweep := none } s)
      match k.op with
      | some o => bankDone b Mc.ok [o.wb, o.inv] s
      | none => s
  | none =>
    match k.op with
    | some o =>
      if o.pos < 8192 && (o.kind = .trim || o.kind = .offline true || o.kind = .offline false) then
        let x := bankLine (bankKey b o.pos) s
        let s := bankCount b x x.s
        if x.left then s
        else
          let k := bankGet s b
          bankSwept b (bankSet b { k with op := k.op.map fun o => { o with pos := o.pos + 1 } } s)
      else s
    | none => s

/-- The bank comes into service: tags cleared, retirement ended if asked. -/
def bankService (b : Nat) (s : State) : State :=
  match (bankGet s b).op with
  | some o => match o.kind with
    | .online clr =>
      let k := bankGet s b
      let s := clearBank b (bankSet b (if clr then { k with retired := false, leak := 0 } else k) s)
      bankDone b Mc.ok [] s
    | _ => s
  | none => s

/-- The domain of bank `b` has reached a state. -/
def bankMoved (b : Nat) (p : Power) (s : State) : State :=
  match (bankGet s b).op with
  | some o => match o.kind with
    | .online _ => if p = .on then bankService b s else s
    | .offline _ => if o.pos = 8192 ∧ p ≠ .on then bankDone b Mc.ok [o.wb, o.inv] s else s
    | .trim => s
  | none => s

/-- Calibration ends: with a setting, or with none, which retires the bank (R280). -/
def bankTrimmed (b : Nat) (v : Option (BitVec 8)) (s : State) : State :=
  let k := bankGet s b
  match k.op with
  | some o =>
    if o.kind = .trim ∧ o.pos = 8192 then
      match v with
      | some v => bankDone b Mc.ok [256 * v.toNat + k.trim.toNat, o.wb] (clearBank b (bankSet b { k with trim := v } s))
      | none => retireBank b s
    else s
  | none => s

end Sys2Proof.Machine
end

