-- ==== Sys2Proof/Machine/LiveCmds.lean ====
section
/-! DEFINITION. Meanings: drains and RESUME, bank service, and the sweeps' steps. -/

namespace Sys2Proof.Machine

/-! ### Sweeps of generations (R59, R69) -/

/-- REHASH_SWEEP_STEP (R59). -/
def execRehashSweepStep (s : State) : Out3 :=
  .next (match s.gen.rehash with
    | some r => if r.apos < 16384 then rehashStep r s else s
    | none => s)

/-- SEDGE_SWEEP_STEP (R59). -/
def execSedgeSweepStep (s : State) : Out3 :=
  .next (match s.gen.rehash with
    | some r => if r.spos < 4096 then sedgeStep r s else s
    | none => s)

/-- CONVERSION_SWEEP_STEP (R69). -/
def execConversionSweepStep (s : State) : Out3 :=
  .next (match s.gen.conv with
    | some c => convStep c s
    | none => s)

/-! ### DRAIN and RESUME (R273, R274, Table 13.12) -/

/-- The checks of DRAIN before those of its mode. -/
def drainChecks (s : State) (t : Nat) : List (Bool × Nat) :=
  [(t ≠ 0, Mc.eperm), (argRsv s t [(0, 2, 30)] || argF s t 0 0 2 = 3, Mc.einval), (commitArmed s, Mc.eagain),
    (noDatapath s || s.srv.drain.isSome, Mc.estate)]

/-- A DRAIN starts in a mode. -/
def drainStart (m : DrainMode) (t : Nat) (s : State) : State :=
  mbxWork t { s with srv := { s.srv with drain := some { mode := m, mbx := t, pos := 0, wb := 0, inv := 0 } } }

def drainSub (m : Nat) (s : State) (t : Nat) : Bool := argF s t 0 0 2 == m

/-- DRAIN_HALT. The reserved MODE belongs to this row. -/
def execDrainHalt (s : State) : Out3 :=
  .next (cmdRun 0x60 (fun s t => drainSub 0 s t || drainSub 3 s t) (fun t s =>
    checked t (drainChecks s t ++ [(s.srv.halt, Mc.estate)]) noRes
      (fun s => drainStart .halt t { s with srv := { s.srv with halt := true } }) s) s)

/-- DRAIN_HALT_DONE: every request presented before has passed its step. -/
def execDrainHaltDone (s : State) : Out3 :=
  .next (match s.srv.drain with
    | some d => if d.mode = .halt then mbxDone d.mbx Mc.ok [0, 0] { s with srv := { s.srv with drain := none } } else s
    | none => s)

/-- DRAIN_CLEAN. -/
def execDrainClean (s : State) : Out3 :=
  .next (cmdRun 0x60 (drainSub 1) (fun t s => checked t (drainChecks s t) noRes (drainStart .clean t) s) s)

/-- DRAIN_CLEAN_SWEEP_STEP. -/
def execDrainCleanSweepStep (s : State) : Out3 :=
  .next (match s.srv.drain with
    | some d => if d.mode = .clean ∧ d.pos < sweepEnd then cleanStep d s else s
    | none => s)

/-- DRAIN_EMPTY. -/
def execDrainEmpty (s : State) : Out3 :=
  .next (cmdRun 0x60 (drainSub 2) (fun t s =>
    checked t (drainChecks s t ++ [(s.srv.allocOff, Mc.estate)]) noRes
      (fun s => drainStart .empty t { s with srv := { s.srv with allocOff := true } }) s) s)

/-- DRAIN_EMPTY_SWEEP_STEP. -/
def execDrainEmptySweepStep (s : State) : Out3 :=
  .next (match s.srv.drain with
    | some d => if d.mode = .empty ∧ d.pos < sweepEnd then emptyStep d s else s
    | none => s)

/-- RESUME. -/
def execResume (s : State) : Out3 :=
  .next (cmdRun 0x63 anySub (fun t s =>
    checked t [(t ≠ 0, Mc.eperm), (commitArmed s, Mc.eagain), (noDatapath s || (!s.srv.halt && !s.srv.allocOff), Mc.estate)] noRes
      (fun s => mbxDone t Mc.ok [] { s with srv := { s.srv with halt := false, allocOff := false } }) s) s)

/-! ### Bank commands (R278 to R280, R363) -/

/-- The checks that bank commands share before ESTATE. -/
def bankChecks (s : State) (t : Nat) (rsv : List (Nat × Nat × Nat)) : List (Bool × Nat) :=
  [(t ≠ 0, Mc.eperm), (argRsv s t rsv, Mc.einval), (commitArmed s || 8 ≤ bankOps s, Mc.eagain), (noDatapath s, Mc.estate)]

/-- The bank cannot be taken out of service. -/
def bankBusy (s : State) (b : Nat) : Bool :=
  let k := bankGet s b
  !pdOn s b || k.retired || k.op.isSome || groupUsed s (b % 32 / 4)

/-- A bank command starts. -/
def bankStart (b : Nat) (k : BankOpKind) (t : Nat) (s : State) : State :=
  mbxWork t (bankSet b { bankGet s b with op := some { kind := k, mbx := t, pos := 0, wb := 0, inv := 0 } } s)

def bankOfflineCmd (t : Nat) (s : State) : State :=
  let b := argF s t 0 0 6
  checked t (bankChecks s t [(0, 7, 25)] ++ [(bankBusy s b, Mc.estate)]) noRes (bankStart b (.offline (argB s t 0 6)) t) s

/-- BANK_OFFLINE (R278). -/
def execBankOffline (s : State) : Out3 := .next (cmdRun 0x30 anySub bankOfflineCmd s)

/-- The bank cannot be brought into service. -/
def onlineBad (s : State) (b : Nat) (clr : Bool) : Bool :=
  let k := bankGet s b
  (pdOn s b && !k.retired) || (k.retired && !clr) || k.op.isSome || k.sweep.isSome || (k.retired && groupUsed s (b % 32 / 4))

def bankOnlineCmd (t : Nat) (s : State) : State :=
  let b := argF s t 0 0 6
  let clr := argB s t 0 6
  checked t (bankChecks s t [(0, 7, 25)] ++ [(onlineBad s b clr, Mc.estate)]) noRes
    (fun s =>
      let s := bankStart b (.online clr) t s
      if pdHeld s b then
        bankService b { s with pw := { s.pw with wants := s.pw.wants.filter fun w => w.pd ≠ b } }
      else want b .on s) s

/-- BANK_ONLINE (R279). -/
def execBankOnline (s : State) : Out3 := .next (cmdRun 0x31 anySub bankOnlineCmd s)

def bankTrimCmd (t : Nat) (s : State) : State :=
  let b := argF s t 0 0 6
  checked t (bankChecks s t [(0, 6, 26)] ++ [(bankBusy s b, Mc.estate)]) noRes (bankStart b .trim t) s

/-- BANK_TRIM (R280). -/
def execBankTrim (s : State) : Out3 := .next (cmdRun 0x32 anySub bankTrimCmd s)

/-- BANK_SWEEP_STEP (R278, R280, R362, R363). -/
def execBankSweepStep (b : Fin 64) (s : State) : Out3 := .next (bankStep b.val s)

/-- BANK_TRIM_CALIBRATION_DONE (R280). -/
def execBankTrimCalibrationDone (b : Fin 64) (setting : Option (BitVec 8)) (s : State) : Out3 := .next (bankTrimmed b.val setting s)

end Sys2Proof.Machine
end

