-- ==== Sys2Proof/Machine/Inspect.lean ====
section
/-! DEFINITION. INSPECT_LINE and WFG_SNAPSHOT (R275, R276, R325). -/

namespace Sys2Proof.Machine

/-! ### Records of INSPECT_LINE (R275) -/

/-- A tag entry with its check bits (Table 3.3); a cleared entry is 0 (R61). -/
def tagBits (e : TagE) : Nat :=
  let v : BitVec 37 := pack 37 [(33, 4, e.tc.toNat), (29, 4, e.qc.toNat), (28, 1, b2n e.clv), (27, 1, b2n e.pf), (26, 1, b2n e.sealed),
    (25, 1, b2n e.poi), (24, 1, b2n e.d), (23, 1, b2n e.v), (0, 23, e.tag.toNat)]
  if v = 0 then 0 else (Config.tagEcc v).toNat * 2 ^ 37 + v.toNat

/-- A Sedge entry with its check bits (Table 8.2); a free entry is 0. -/
def sedgeBits (e : SedgeE) : Nat :=
  let hi : BitVec 41 := pack 41 [(38, 3, e.st.toNat), (37, 1, b2n e.cv), (34, 1, b2n e.hg), (32, 2, e.shi.toNat), (9, 23, e.tag.toNat),
    (8, 1, b2n e.ov), (0, 8, e.owner.toNat)]
  if hi = 0 ∧ e.shr = 0 then 0 else hi.toNat * 2 ^ 55 + (Config.sedgeEcc hi e.shr).toNat * 2 ^ 47 + e.shr.toNat

/-- What a record shows: WHERE, way, set, tag entry, whether its line's Sedge entry is looked up and for which line, data. -/
structure InspAt where
  loc  : Nat
  way  : Nat
  set  : Nat
  tag  : TagE
  line : Option LAddr
  data : Line

def inspWords (s : State) (x : InspAt) : List Nat :=
  let t := tagBits x.tag
  let j := x.line.bind (sedgeFind s)
  let e := match j with | some j => sedgeBits (sedgeGet s j) | none => 0
  [packNat [(29, 3, x.loc), (16, 5, x.way), (0, 14, x.set)], fld t 0 32, fld t 32 12, fld e 0 32, fld e 32 32, fld e 64 32,
    packNat [(31, 1, b2n j.isSome), (0, 31, plruGet s x.set)], 0] ++ (List.range 32).map fun i => fld x.data.toNat (32 * i) 32

/-- The frame line at `k` as a record shows it. A line of a retired bank is served without the bank (R362). -/
def inspFrame (s : State) (loc k : Nat) : InspAt :=
  { loc := loc, way := k % 32, set := k / 32, tag := tagGet s k, line := none, data := if keyRetired s k then 0 else dataHeld s k }

/-- KIND 0: the way at `k`. -/
def inspWay (s : State) (k : Nat) : InspAt :=
  let e := tagGet s k
  if !pdOn s (bankOfKey k) then { loc := 6, way := k % 32, set := k / 32, tag := e, line := none, data := 0 }
  else if !holdsCache s (k % 32) then inspFrame s (if (fenWho s k).2.2.isSome then 5 else 4) k
  else if e.v then { loc := 1, way := k % 32, set := k / 32, tag := e, line := some e.line, data := dataHeld s k }
  else { loc := 0, way := k % 32, set := k / 32, tag := e, line := none, data := 0 }

/-- KIND 1: the line, wherever it is. -/
def inspMem (s : State) (l : LAddr) : InspAt :=
  let x : InspAt := { loc := 0, way := 0, set := liveSet s l, tag := TagE.zero, line := some l, data := 0 }
  let held := fun (tc qc : BitVec 4) (sealed poi d v : Bool) =>
    { TagE.zero with lo := l.extractLsb' 0 14, tag := l.extractLsb' 14 23, tc := tc, qc := qc, sealed := sealed, poi := poi, d := d, v := v }
  match placeOf s l with
  | .way k => { x with loc := if pdOn s (bankOfKey k) then 1 else 6, way := k % 32, set := k / 32, tag := tagGet s k,
                       data := if pdOn s (bankOfKey k) then dataHeld s k else 0 }
  | .mire m => { x with loc := 2, tag := held m.tc m.qc m.sealed m.poi true true, data := m.data }
  | .miss e => { x with loc := 3, tag := held e.tc e.qc e.sealed e.poi e.dirty (missFilled e), data := e.buf }
  | .absent => x

/-- Record `i` of an INSPECT_LINE; a line that is no longer there to read shows as absent. -/
def inspAt (s : State) (x : Insp) (i : Nat) : InspAt :=
  let gone : InspAt := { loc := 0, way := 0, set := 0, tag := TagE.zero, line := none, data := 0 }
  match x.kind.toNat with
  | 0 => inspWay s (x.loc + i)
  | 1 => inspMem s (lineAddr (x.loc + 128 * i))
  | 2 =>
    let off := x.loc % 2 ^ 26 + 128 * i
    match segFind s (x.loc / 2 ^ 26) with
    | none => gone
    | some g => match copyOf s g x.epoch with
      | some c => inspFrame s 4 (locKey (fenLoc g c off))
      | none => gone
  | _ =>
    match regionFind s (fld x.loc 20 4) with
    | some r => inspFrame s 5 (accKey r (x.loc % 2 ^ 19 + i))
    | none => gone

def inspDrop (t : Nat) (s : State) : State := { s with srv := { s.srv with insp := s.srv.insp.filter (·.mbx ≠ t) } }

/-- The next record of mailbox `t`'s INSPECT_LINE is taken (R275). -/
def inspStep (x : Insp) (s : State) : State :=
  let a := inspAt s x x.done
  let s := useSlot a.set false none s
  let m := mbxGet s x.mbx
  let n := x.done + 1
  let s := mbxSet x.mbx { m with pend := m.pend ++ (inspWords s a).map (BitVec.ofNat 32), got := [BitVec.ofNat 32 n] } s
  let s := if n < x.count then { s with srv := { s.srv with insp := lmod (·.mbx = x.mbx) (fun y : Insp => { y with done := n }) s.srv.insp } }
    else inspDrop x.mbx s
  mbxOutTry x.mbx s

/-- Bits of LOC that a KIND does not define (Table 13.13, R11). -/
def locRsv (kind : Nat) : List (Nat × Nat × Nat) :=
  match kind with
  | 0 => [(1, 19, 13), (2, 0, 12)]
  | 2 => [(2, 0, 12)]
  | 3 => [(1, 19, 1), (1, 24, 8), (2, 0, 12)]
  | _ => []

def inspCmd (t : Nat) (s : State) : State :=
  let kind := argF s t 0 0 2
  let ep := BitVec.ofNat 2 (argF s t 0 4 2)
  let loc := mArg s t 1 + 2 ^ 32 * argF s t 2 0 12
  let n := argF s t 3 0 11
  let g := if kind = 2 then segFind s (loc / 2 ^ 26) else none
  let r := if kind = 3 then (regionFind s (fld loc 20 4)).filter (·.opened) else none
  let base := if kind = 0 ∨ kind = 3 then loc % 2 ^ 19 else loc
  checked t [(t ≠ 0, Mc.eperm), (n = 0, Mc.zeroNop),
      (argRsv s t [(0, 6, 26), (0, 2, 2), (2, 12, 20), (3, 11, 21)] || argRsv s t (locRsv kind) || 1024 < n || ((kind = 1 || kind = 2) && loc % 128 ≠ 0) ||
        (kind = 0 && 2 ^ 19 < base + n) || (kind = 1 && 2 ^ 44 < loc + 128 * n), Mc.einval),
      (noDatapath s || (kind = 2 && (g.bind (copyOf s · ep)).isNone) || (kind = 3 && r.isNone), Mc.estate),
      ((kind = 2 && ((g.map Seg.gran).getD 0) * 65536 < loc % 2 ^ 26 + 128 * n) ||
        (kind = 3 && 10 * ((r.map windowLines).getD 0) < base + n), Mc.einval)] noRes
    (fun s =>
      let x : Insp := { mbx := t, kind := BitVec.ofNat 2 kind, loc := if kind = 3 then loc else base, epoch := ep, count := n, done := 0 }
      mbxOut t [] [0] { s with srv := { s.srv with insp := s.srv.insp ++ [x] } }) s

/-- INSPECT_LINE. -/
def execInspectLine (s : State) : Out3 := .next (cmdRun 0x61 anySub inspCmd s)

/-- INSPECT_LINE_RECORD: the oldest command whose output has room takes its next record. -/
def execInspectLineRecord (s : State) : Out3 :=
  .next (match s.srv.insp.find? fun x => (mbxGet s x.mbx).pend.isEmpty with
    | some x => if s.pins.present then inspStep x s else s
    | none => s)

/-! ### WFG_SNAPSHOT (R276, R325) -/

def recOf (l : List (Nat × Nat × Nat)) : Rec := pack 256 l

def parkedRec (s : State) (w : Parked) : Rec :=
  let m := w.req.msg
  recOf [(192, 64, w.parkFt.toNat), (144, 48, w.thresh.toNat), (96, 48, tallyVal s w.tally.toNat), (84, 12, w.tally.toNat), (72, 12, hReqid m),
    (58, 14, hSrc m), (42, 16, hTxid m), (22, 20, hWtag m), (21, 1, b2n (w.deadline != 0)), (0, 8, 1)]

def gateRec (s : State) (op seg rid : Nat) (ft : FT) (th : BitVec 48) (tally : Option (BitVec 12)) : Rec :=
  recOf [(192, 64, ft.toNat), (144, 48, th.toNat), (96, 48, match tally with | some t => tallyVal s t.toNat | none => 0),
    (84, 12, (tally.getD 0).toNat), (81, 3, op), (75, 6, seg), (71, 4, rid), (0, 8, 2)]

/-- The gates of segment `g`: its flip, then its regions. -/
def segGates (s : State) (g : Seg) : List Rec :=
  (match g.flip with
   | some f => [gateRec s (if f.readyAt.isSome then 2 else 1) g.id 0 f.armFt f.thresh (some f.rtally)]
   | none => []) ++
  ((List.range 16).filterMap fun i => s.fen.regions.find? fun r => r.rid == i && r.seg == g.id).filterMap fun r =>
    if !r.opened then some (gateRec s 5 g.id r.rid r.openFt 0 none)
    else r.res.map fun x => gateRec s (if x.readyAt.isSome then 4 else 3) g.id r.rid x.armFt x.thresh (some x.rtally)

def gateRecs (s : State) : List Rec := ((List.range 64).filterMap (segFind s)).flatMap (segGates s)

/-- Home transaction entries by number. -/
def htesBy (s : State) : List Hte := (List.range 256).filterMap (hteGet s)

def hteRec (h : Hte) : Rec :=
  let m := h.req.msg
  recOf [(192, 64, h.openFt.toNat), (155, 37, h.line.toNat), (147, 8, h.id), (146, 1, b2n h.h),
    (141, 1, b2n h.a), (142, 1, b2n (!h.k.isEmpty)), (143, 1, b2n h.d.isSome), (144, 1, b2n h.qWait), (145, 1, b2n h.w.isSome),
    (135, 6, hOpcode m), (123, 12, hReqid m), (109, 14, hSrc m), (101, 8, hCagent m),
    (93, 8, ((h.d.orElse fun _ => h.w).getD 0).toNat), (84, 9, h.k.length), (79, 5, h.held.length), (0, 8, 3)]

/-- AWAIT records: the agents whose SNP_ACK an HTE awaits, by halves of the CAGENT range. -/
def awaitRecs (h : Hte) : List Rec :=
  [0, 1].filterMap fun p =>
    let mine := h.k.filter fun c => c.toNat / 128 == p
    if mine.isEmpty then none
    else some (recOf [(128, 128, mine.foldl (fun a c => a ||| 2 ^ (c.toNat % 128)) 0), (120, 8, h.id), (119, 1, p), (0, 8, 4)])

def heldRec (r : Req) (reason hte hbank : Nat) : Rec :=
  let m := r.msg
  recOf [(219, 37, (hLine m).toNat), (213, 6, hOpcode m), (201, 12, hReqid m), (187, 14, hSrc m), (171, 16, hTxid m), (151, 20, hWtag m),
    (147, 4, r.qc.toNat), (143, 4, reason), (135, 8, hte), (123, 12, hbank), (0, 8, 5)]

/-- Held requests of a port's entries, in order; under HALT the others are kept by it. -/
def portHeld (s : State) (l : List Ing) : List Rec :=
  l.filterMap fun i =>
    match i.hold with
    | some h => some (heldRec i.req (holdReason h) 0 (if h = .bankCap then i.req.hbank.toNat else 0))
    | none => if s.srv.halt && hAspace i.req.msg != 2 then some (heldRec i.req 7 0 0) else none

def heldRecs (s : State) : List Rec :=
  (htesBy s).flatMap (fun h => h.held.map fun r => heldRec r 6 h.id 0) ++
    (if s.srv.halt then s.home.relook.map fun r => heldRec r 7 0 0 else []) ++
    portHeld s (s.d0.ing ++ s.d0.skid.toList) ++ portHeld s (s.d1.ing ++ s.d1.skid.toList)

def maceRec (d : Desc) : Rec :=
  let m := d.req.msg
  let x := d.d.toNat
  recOf [(232, 24, d.k), (208, 24, d.done), (198, 10, d.infl.length), (186, 12, hReqid m), (172, 14, hSrc m), (156, 16, hTxid m), (153, 3, d.slot),
    (141, 12, Md.ctally x), (140, 1, b2n (Md.cten x)), (0, 8, 6)]

def maceRecs (s : State) : List Rec := ((List.range 8).filterMap fun i => s.mace.descs.find? (·.slot = i)).map maceRec

def mbxRecs (s : State) : List Rec :=
  ((List.range 16).filter fun t => (mbxGet s t).busy).map fun t =>
    let m := mbxGet s t
    recOf [(248, 8, m.op.toNat), (232, 16, m.seqL.toNat), (228, 4, t), (0, 8, 7)]

/-- BRL_STATUS.DRN (Table 13.2). -/
def drnBits (s : State) : Nat := b2n s.srv.halt + 2 * b2n s.srv.allocOff

/-- Four records as a line. -/
def recLines : Nat → List Rec → List Line
  | 0, _ => []
  | n + 1, l => if l.isEmpty then [] else
    pack 1024 ((l.take 4).zipIdx.map fun x => (256 * x.2, 256, x.1.toNat)) :: recLines n (l.drop 4)

/-- The snapshot's lines: the header, then the records. -/
def snapLines (s : State) : List Line :=
  let p := s.tal.parked.map (parkedRec s)
  let g := gateRecs s
  let h := (htesBy s).map hteRec
  let a := (htesBy s).flatMap awaitRecs
  let d := heldRecs s
  let c := maceRecs s
  let b := mbxRecs s
  let l := p ++ g ++ h ++ a ++ d ++ c ++ b
  pack 1024 [(960, 64, ftN s), (928, 32, s.gen.gen.toNat), (914, 14, chipN s), (902, 12, sreqN s), (900, 2, drnBits s), (868, 32, l.length),
    (859, 9, p.length), (852, 7, g.length), (843, 9, h.length), (833, 10, a.length), (819, 14, d.length), (815, 4, c.length), (810, 5, b.length)]
    :: recLines l.length l

def snapSet (x : Option Snap) (s : State) : State := { s with srv := { s.srv with snap := x } }

/-- The next line leaves, or the command completes. -/
def snapNext (x : Snap) (s : State) : State :=
  match x.todo with
  | d :: _ => ownWriteLine (lineAddr x.addr) d .snap (snapSet (some x) s)
  | [] => mbxDone x.mbx Mc.ok ([x.bytes, b2n x.trunc] ++ ftWords x.cft) (snapSet none s)

def snapCmd (t : Nat) (s : State) : State :=
  let buf := mArg s t 0 + 2 ^ 32 * argF s t 1 0 12
  let size := mArg s t 2
  checked t [(t ≠ 0, Mc.eperm), (size = 0, Mc.zeroNop), (argRsv s t [(1, 12, 20)] || buf % 128 ≠ 0 || size % 128 ≠ 0, Mc.einval),
      (noDatapath s || s.srv.snap.isSome, Mc.estate)] noRes
    (fun s =>
      let l := snapLines s
      snapNext { mbx := t, addr := buf, todo := l.take (size / 128), bytes := 0, trunc := size < 128 * l.length, cft := s.clk.ft } (mbxWork t s)) s

/-- WFG_SNAPSHOT. -/
def execWfgSnapshot (s : State) : Out3 := .next (cmdRun 0x62 anySub snapCmd s)

/-- A line's WR is answered. -/
def snapAnswer (x : Snap) (st : Nat) (s : State) : State :=
  if st = St.ok then snapNext { x with addr := x.addr + 128, todo := x.todo.tail, bytes := x.bytes + 128 } s
  else mbxDone x.mbx Mc.efault ([x.bytes, b2n x.trunc] ++ ftWords x.cft) (snapSet none s)

/-- SNAPSHOT_WRITE_COMP. -/
def execSnapshotWriteComp (txid : BitVec 16) (status : BitVec 3) (s : State) : Out3 :=
  .next (match ownFind s txid, s.srv.snap with
    | some .snap, some x => snapAnswer x status.toNat (ownDrop txid s)
    | some .snap, none => ownDrop txid s
    | _, _ => s)

end Sys2Proof.Machine
end

