-- ==== Sys2Proof/Machine/Mace.lean ====
section
/-! DEFINITION. Mace: descriptors, index streams, element requests, faults and completion (Chapter 7). -/

namespace Sys2Proof.Machine

def descFind (s : State) (slot : Nat) : Option Desc := s.mace.descs.find? (·.slot = slot)

def descMod (slot : Nat) (f : Desc → Desc) (s : State) : State :=
  { s with mace := { s.mace with descs := lmod (·.slot = slot) f s.mace.descs } }

def Desc.n (d : Desc) : Nat := d.d.toNat

/-! ### Messages of elements -/

/-- Beats and byte enables of a span from their places in a line. -/
def payOf (off len : Nat) (x : Line) (en : Bool) : List (BitVec 512) × List (BitVec 64) :=
  let m : Mask := if en then spanMask off len else 0
  ((if off < 64 then [lineBeat x 0] else []) ++ (if 64 < off + len then [lineBeat x 1] else []),
   (if off < 64 then [m.extractLsb' 0 64] else []) ++ (if 64 < off + len then [m.extractLsb' 64 64] else []))

/-- The message of an element's access, on behalf of the MACE_SUB. -/
def elemMsg (s : State) (d : Desc) (op asp len addr : Nat) (x : Line) (en : Bool) : Msg :=
  let m := d.req.msg
  let p := if op == Op.rd then ([], []) else payOf (addr % 128) len x en
  { hdr := pack 256 [(250, 6, op), (248, 2, asp), (245, 3, Vc.req), (233, 12, hReqid m), (219, 14, hSrc m), (205, 14, chipN s), (201, 4, hTc m),
      (185, 16, hTxid m), (165, 20, hWtag m), (150, 2, Md.epoch d.n), (146, 4, if op == Op.red then Md.fmt d.n else 0), (134, 8, len), (0, 44, addr)],
    beats := p.1, be := p.2 }

/-- The request of an element's access: class and context are those of the MACE_SUB (R149). -/
def elemReq (s : State) (d : Desc) (src : Src) (m : Msg) (fl : Option FenLoc) (ex : Option Nat) (poi : Bool) : Req :=
  { mkReq s d.req.port src m fl ex with qc := d.req.qc, tc := d.req.tc, poi := poi }

/-! ### Faults and rows (R155, Table 7.4) -/

def dropIdx (d : Desc) : Desc :=
  { d with idx := d.idx.filter fun x => (Md.ibase d.n + d.k * Md.iwBytes d.n) / 128 ≤ x.1 }

def nextIdx (d : Desc) : Desc := dropIdx { d with k := d.k + 1, rowOff := 0 }

/-- A fault of row `k`; a row counts once, and stops its remaining lines. -/
def rowFault (slot k kind stat : Nat) (s : State) : State :=
  match descFind s slot with
  | none => s
  | some d =>
    if d.rows.any fun r => r.k == k && r.faulted then s
    else
      let first := match d.firstK with | some j => decide (k < j) | none => true
      let d := { d with rows := (d.rows.filter (·.k ≠ k)) ++ [{ k := k, issued := true, faulted := true, pad := false }],
                        firstK := if first then some k else d.firstK, fkind := if first then BitVec.ofNat 4 kind else d.fkind,
                        fstat := if first then BitVec.ofNat 3 stat else d.fstat, stopped := d.stopped || Md.fstop d.n || kind == 7 }
      let d := if d.k == k then nextIdx d else d
      occR 0x72 d.req 1 (descMod slot (fun _ => d) s)

/-- Poison and late refusals of the elements in flight become faults. -/
def elemFaults (slot : Nat) (s : State) : State :=
  match descFind s slot with
  | none => s
  | some d => d.infl.foldl (fun s e =>
      let s := match e.fail with | some (kd, st) => rowFault slot e.k kd.toNat st.toNat s | none => s
      let bad := (match e.src with | some (_, p) => p | none => false) || (Md.kind d.n == 2 && e.stepped && e.poi)
      if bad then rowFault slot e.k 5 St.poison s else s) s

/-- Removes the elements that are performed and counts the rows that are finished. -/
def tidy (slot : Nat) (s : State) : State :=
  let s := elemFaults slot s
  descMod slot (fun d =>
    let infl := d.infl.filter fun e => !(e.stepped && (e.todo.isEmpty || e.fail.isSome))
    let open_ := fun (r : Row) => infl.any (·.k == r.k)
    let fin := d.rows.filter fun r => (r.issued || r.faulted) && !open_ r
    { d with infl := infl, rows := d.rows.filter fun r => open_ r || !(r.issued || r.faulted || d.stopped),
             faults := d.faults + (fin.filter (·.faulted)).length, done := d.done + (fin.filter fun r => !r.faulted).length,
             pads := d.pads + (fin.filter fun r => !r.faulted && r.pad).length }) s

/-! ### Checks (R150) -/

/-- Kind and status of the fault that a refused Fen access gives. -/
def clsFault : FenCls → Option (Nat × Nat)
  | .ok _ _ => none
  | .deny => some (3, St.denied)
  | .stale => some (4, St.stale)
  | .unsup => some (6, St.unsupported)

/-- The check of one access of an element, with the location and region it finds. -/
def elemCheck (s : State) (d : Desc) (m : Msg) : Option (Nat × Nat) × Option FenLoc × Option Nat :=
  let a := hAddr m
  let tc := d.req.tc.toNat
  if hAspace m == 0 then (if memPermits s a tc (opWrites (hOpcode m)) then none else some (3, St.denied), none, none)
  else if 2 ^ 32 ≤ a then (some (3, St.denied), none, none)
  else
    let c := fenClass s a tc (BitVec.ofNat 2 (Md.epoch d.n)) (msgAsk m)
    (clsFault c, match c with | .ok l r => (some l, r) | _ => (none, none))

/-- A row of `n` bytes at `base + off` passes the end of its space (ADDR_RANGE). In FEN space `base` names the segment; where it names none, the
row passes the end of the 64 MiB that a segment may have, or is refused by its check (R150). -/
def rowPasses (s : State) (fen : Bool) (base off n : Nat) : Bool :=
  if !fen then 2 ^ 44 < base + off + n
  else match (if base < 2 ^ 32 then segFind s (base / 2 ^ 26) else none) with
    | some g => g.gran * 65536 < base % 2 ^ 26 + off + n
    | none => 2 ^ 26 < base % 2 ^ 26 + off + n

/-- The partner lines of a piece. -/
def partLines (pa len : Nat) : List Nat := if pa / 128 = (pa + len - 1) / 128 then [pa / 128] else [pa / 128, (pa + len - 1) / 128]

/-- First byte and count of the piece at `pa` that fall in line `j`. -/
def partSpan (pa len j : Nat) : Nat × Nat :=
  let lo := max pa (128 * j)
  (lo, min (pa + len) (128 * j + 128) - lo)

/-! ### Issue (R148, R150, R152) -/

/-- Index `k` of the stream, as far as it is read. -/
inductive IdxVal where
  | missing
  | bad (st : Nat)
  | pad
  | val (v : Nat)
deriving DecidableEq, Repr

def indexAt (d : Desc) : IdxVal :=
  let a := Md.ibase d.n + d.k * Md.iwBytes d.n
  match d.idx.find? (·.1 = a / 128) with
  | some (_, .held x) =>
    let v := lineNat x (a % 128) (Md.iwBytes d.n)
    if v = 2 ^ (8 * Md.iwBytes d.n) - 1 then .pad else .val v
  | some (_, .bad st) => .bad st.toNat
  | _ => .missing

/-- A row counts among those not yet finished. -/
def rowNote (k : Nat) (pad last : Bool) (d : Desc) : Desc :=
  { d with rows := (d.rows.filter (·.k ≠ k)) ++ [{ k := k, issued := last, faulted := false, pad := pad }] }

/-- The partner lines of a piece with their checks: the first fault, or the lines. -/
def partChecks (s : State) (d : Desc) (pa len : Nat) : Option (Nat × Nat) × List PLine :=
  let n := d.n
  if Md.kind n == 0 && Md.dkind n == 1 then (none, (partLines pa len).map fun j => { line := j, loc := none, exact := none, busy := false })
  else
    let op := if Md.kind n != 0 then Op.rd else if Md.dadd n then Op.red else Op.wr
    (partLines pa len).foldl (fun (x : Option (Nat × Nat) × List PLine) j =>
      let sp := partSpan pa len j
      let c := elemCheck s d (elemMsg s d op 1 sp.2 sp.1 0 true)
      (match x.1 with | some f => some f | none => c.1, x.2 ++ [{ line := j, loc := c.2.1, exact := c.2.2, busy := false }])) (none, [])

/-- An earlier element in flight has not been performed at a line of this piece (R152). -/
def conflicts (d : Desc) (pad : Bool) (tl : Nat) (pl : List PLine) : Bool :=
  d.infl.any fun e =>
    (!pad && !e.pad && !e.stepped && e.taddr / 128 == tl) ||
      (Md.kind d.n == 0 && Md.dkind d.n == 0 && e.todo.any fun p => pl.any fun q => q.line == p.line)

/-- The next element, fault or pad of a descriptor; `none` when it cannot go on now. A faulted index and a pad without effect take a turn of the
round robin as an element does; the zero bytes of a pad go out as one element for each destination line, with no demand; a row's range is tested
before its checks, and its table line before its partner lines (DESIGN CHOICE, log 36). -/
def issueFor (d : Desc) (s : State) : Option State :=
  let n := d.n
  let rl := Md.rowlen n
  if d.ending || d.stopped || Md.count n ≤ d.k then none
  else
    let put := fun (e : Elem) (s : State) =>
      let last := rl ≤ d.rowOff + e.len
      descMod d.slot (fun d =>
        let d := rowNote d.k e.pad last { d with infl := d.infl ++ [e], nextId := d.nextId + 1 }
        if last then nextIdx d else { d with rowOff := d.rowOff + e.len })
        (addDemand d.req (if e.pad then 0 else e.len) (occR 0x71 d.req 1 (ctlUse (.mace d.slot) (some (subjReq d.req)) s)))
    let pr := Md.xbase n + d.k * Md.xpitch n
    let pfen := !(Md.kind n == 0 && Md.dkind n == 1)
    let full := 512 ≤ s.mace.descs.foldl (fun a d => a + d.infl.length) 0
    match indexAt d with
    | .missing => none
    | .bad st => some (rowFault d.slot d.k 7 st s)
    | .pad =>
      if Md.kind n != 0 || Md.dadd n then some (descMod d.slot (fun d => nextIdx (rowNote d.k true true d)) s)
      else if d.rowOff = 0 && rowPasses s pfen (Md.xbase n) (d.k * Md.xpitch n) rl then some (rowFault d.slot d.k 2 St.denied s)
      else
        let pa := pr + d.rowOff
        let len := min (128 - pa % 128) (rl - d.rowOff)
        let c := partChecks s d pa len
        match c.1 with
        | some f => some (rowFault d.slot d.k f.1 f.2 s)
        | none =>
          if full || conflicts d true 0 c.2 then none
          else some (put { id := d.nextId, k := d.k, off := d.rowOff, taddr := 0, paddr := pa, len := len, pad := true, src := some (0, false),
                           todo := c.2, req := d.req, taken := true, stepped := true, poi := false, fail := none } s)
    | .val v =>
      if Md.ilast n < v then some (rowFault d.slot d.k 1 0 s)
      else if d.rowOff = 0 && (rowPasses s (Md.tspace n) (Md.tbase n) (v * Md.tstride n) rl || rowPasses s pfen (Md.xbase n) (d.k * Md.xpitch n) rl) then
        some (rowFault d.slot d.k 2 St.denied s)
      else
        let ta := Md.tbase n + v * Md.tstride n + d.rowOff
        let pa := pr + d.rowOff
        let len := min (128 - ta % 128) (rl - d.rowOff)
        let op := if Md.kind n == 0 then Op.rd else if Md.kind n == 1 then Op.wr else Op.red
        let m := elemMsg s d op (b2n (Md.tspace n)) len ta 0 true
        let t := elemCheck s d m
        let c := partChecks s d pa len
        match (match t.1 with | some f => some f | none => c.1) with
        | some f => some (rowFault d.slot d.k f.1 f.2 s)
        | none =>
          if full || conflicts d false (ta / 128) c.2 then none
          else some (put { id := d.nextId, k := d.k, off := d.rowOff, taddr := ta, paddr := pa, len := len, pad := false, src := none, todo := c.2,
                           req := elemReq s d (.mace d.slot d.nextId) m t.2.1 t.2.2 false, taken := false, stepped := false, poi := false,
                           fail := none } s)

/-- One turn of the round robin over the active descriptors. -/
def issueOne (s : State) : State :=
  match (List.range 8).findSome? fun i =>
      let slot := (s.mace.rr + 1 + i) % 8
      match descFind s slot with
      | none => none
      | some _ =>
        let s := tidy slot s
        ((descFind s slot).bind fun d => issueFor d s).map fun t => (slot, t) with
  | some (slot, t) => { t with mace := { t.mace with rr := slot } }
  | none => s

/-! ### Element requests (R150, Table 7.3) -/

/-- Bytes of line `j` of the partner side, from their places in the table line. -/
def toPartner (e : Elem) (x : Line) (j : Nat) : Line :=
  let sp := partSpan e.paddr e.len j
  linePut 0 (sp.1 % 128) sp.2 (lineNat x (e.taddr % 128 + (sp.1 - e.paddr)) sp.2)

/-- The element with the bytes of source line `j` in their places of the table line. -/
def fromPartner (e : Elem) (x : Line) (poi : Bool) (j : Nat) : Elem :=
  let sp := partSpan e.paddr e.len j
  let o := e.src.getD (0, false)
  { e with src := some (linePut o.1 (e.taddr % 128 + (sp.1 - e.paddr)) sp.2 (lineNat x (sp.1 % 128) sp.2), o.2 || poi) }

/-- The table step. -/
def tableStep (d : Desc) (e : Elem) (s : State) : State :=
  let slot := reqSlot (reqPipe s e.req)
  match reqStep e.req s with
  | .done t | .attached t => elemMod d.slot e.id (fun e => { e with taken := true }) (slot true (subjReq e.req) t)
  | .hold h t => holdCount h e.req (slot false (subjReq e.req) t)

/-- The read of the next source line; after the last, the table step has its data. Poisoned data of a fast-mode addition has no byte enabled, so
that no element changes; a contribution carries its elements and its poison to their groups (R355). -/
def sourceStep (d : Desc) (e : Elem) (p : PLine) (s : State) : State :=
  match p.loc with
  | none => s
  | some l =>
    let k := locKey l
    let y := frameRead (some (subjReq d.req)) k (reqSlot (k / 32) true (subjReq e.req) s)
    let e := { fromPartner e y.1.1 y.1.2 p.line with todo := e.todo.tail }
    let x := e.src.getD (0, false)
    let m := elemMsg s d (hOpcode e.req.msg) (hAspace e.req.msg) e.len e.taddr x.1
      (!(x.2 && hOpcode e.req.msg == Op.red) || e.req.exact.isSome)
    elemMod d.slot e.id (fun _ => { e with req := { e.req with msg := m, poi := x.2 } }) y.2

/-- The write of the next destination line of a gather to the Fen. -/
def destStep (d : Desc) (e : Elem) (p : PLine) (s : State) : State :=
  match p.loc with
  | none => s
  | some l =>
    let x := e.src.getD (0, false)
    let sp := partSpan e.paddr e.len p.line
    let red := Md.dadd d.n
    let m := elemMsg s d (if red then Op.red else Op.wr) 1 sp.2 sp.1 (toPartner e x.1 p.line) (!(x.2 && red) || p.exact.isSome)
    let r := elemReq s d (.part d.slot e.id) m (some l) p.exact x.2
    match fenStep r l s with
    | .done t | .attached t =>
      let t := reqSlot (locKey l / 32) true (subjReq r) t
      if p.exact.isSome then elemMod d.slot e.id (fun e => { e with todo := e.todo.map fun q => { q with busy := q.busy || q.line == p.line } }) t else t
    | .hold h t => holdCount h r (reqSlot (locKey l / 32) false (subjReq r) t)

/-- A DATA message of a gather leaves for egress once every byte it carries has been read (R151). Where the row has faulted, or FSTOP stops the
descriptor, with the line only partly read, the message carries the bytes that were read (DESIGN CHOICE, log 36). -/
def dataStep (d : Desc) (e : Elem) (p : PLine) (s : State) : State :=
  let n := d.n
  let j := p.line
  let row := Md.xbase n + e.k * Md.xpitch n
  let lo := max row (128 * j)
  let hi := min (row + Md.rowlen n) (128 * j + 128)
  let grp := d.infl.filter fun x => x.k == e.k && x.todo.any (·.line == j)
  let have_ := grp.foldl (fun a x => a + (partSpan x.paddr x.len j).2) 0
  let fault := d.rows.any fun r => r.k == e.k && r.faulted
  if !(grp.all fun x => x.src.isSome) || !(have_ = hi - lo || fault || d.stopped) then s
  else
    let first := grp.foldl (fun a x => min a (partSpan x.paddr x.len j).1) hi
    let x := grp.foldl (fun (a : Line × Bool) x =>
      let y := x.src.getD (0, false)
      let sp := partSpan x.paddr x.len j
      (linePut a.1 (sp.1 % 128) sp.2 (lineNat (toPartner x y.1 j) (sp.1 % 128) sp.2), a.2 || y.2)) ((0 : Line), false)
    let m := d.req.msg
    let h := rspHdr Op.data Vc.dat 0 (Md.dreqid n) (chipN s) (Md.dchip n) (hTc m) (Md.dtxid n) (hWtag m) (poiSt x.2) (beatMap (first % 128) have_) have_ 0 0 0 0 first false
    let bt := spanData (first % 128) have_ x.1
    let s := emit d.req.port { msg := { hdr := h, beats := bt, be := bt.map fun _ => BitVec.allOnes 64 }, subj := some (subjReq d.req), post := .maceData d.slot e.k j } s
    descMod d.slot (fun d => { d with infl := lmod (·.k = e.k) (fun x => { x with todo := x.todo.map fun q => { q with busy := q.busy || q.line == j } }) d.infl }) s

/-- A DATA message has left: its line is done with, for every element of the row. -/
def maceDataLeft (slot k line : Nat) (s : State) : State :=
  tidy slot (descMod slot (fun d => { d with infl := lmod (·.k = k) (fun x => { x with todo := x.todo.filter (·.line ≠ line) }) d.infl }) s)

/-- The next step of an element request. -/
def elemStep (slot id : Nat) (s : State) : State :=
  match descFind s slot with
  | none => s
  | some d =>
    match d.infl.find? (·.id = id) with
    | none => s
    | some e =>
      let s := ctlUse (.mace slot) (some (subjReq d.req)) s
      if Md.kind d.n != 0 then
        match e.todo with
        | p :: _ => tidy slot (sourceStep d e p s)
        | [] => if e.taken then s else tidy slot (tableStep d e s)
      else if !e.taken then tidy slot (tableStep d e s)
      else if !e.stepped then s
      else if Md.dkind d.n == 1 then
        match e.todo.find? fun p => !p.busy with
        | some p => tidy slot (dataStep d e p s)
        | none => s
      else
        match e.todo with
        | p :: _ => if p.busy then s else tidy slot (destStep d e p s)
        | [] => s

/-! ### The index stream (R146, R148, R150) -/

def setIdx_ (slot line : Nat) (v : IdxSt) (s : State) : State :=
  descMod slot (fun d => { d with idx := (d.idx.filter (·.1 ≠ line)) ++ [(line, v)] }) s

/-- The next index line of a descriptor is read ahead. -/
def indexRead (slot : Nat) (s : State) : State :=
  match descFind s slot with
  | none => s
  | some d =>
    let n := d.n
    let first := (Md.ibase n + d.k * Md.iwBytes n) / 128
    let last := (Md.ibase n + (Md.count n - 1) * Md.iwBytes n) / 128
    let j := d.idx.foldl (fun a x => max a (x.1 + 1)) first
    if d.ending || d.stopped || 8 ≤ d.idx.length || last < j || Md.count n ≤ d.k then s
    else
      let s := ctlUse (.mace slot) (some (subjReq d.req)) s
      let a := if j = first then (Md.ibase n + d.k * Md.iwBytes n) else 128 * j
      if Md.ispace n then
        if 2 ^ 32 ≤ a then setIdx_ slot j (.bad (BitVec.ofNat 3 St.unsupported)) s
        else match fenClass s a d.req.tc.toNat (BitVec.ofNat 2 (Md.epoch n)) .plain with
          | .ok l _ =>
            let k := locKey l
            let y := frameRead (some (subjReq d.req)) k (useSlot (k / 32) false none s)
            setIdx_ slot j (if y.1.2 then .bad (BitVec.ofNat 3 St.poison) else .held y.1.1) y.2
          | .deny => setIdx_ slot j (.bad (BitVec.ofNat 3 St.denied)) s
          | .stale => setIdx_ slot j (.bad (BitVec.ofNat 3 St.stale)) s
          | .unsup => setIdx_ slot j (.bad (BitVec.ofNat 3 St.unsupported)) s
      else if 2 ^ 44 ≤ 128 * j || !memPermits s a d.req.tc.toNat false then setIdx_ slot j (.bad (BitVec.ofNat 3 St.denied)) s
      else ownRead (BitVec.ofNat 37 j) (.maceIdx slot j) (setIdx_ slot j .wait s)

/-! ### Completion (R156) -/

/-- The completion record (Table 7.5). -/
def maceRecord (d : Desc) : BitVec 256 :=
  let m := d.req.msg
  pack 256 [(192, 64, d.endFt.toNat), (172, 20, hWtag m), (144, 16, hTxid m), (132, 12, hReqid m), (104, 24, d.faults), (80, 24, d.done),
    (56, 24, d.firstK.getD 0xFFFFFF), (52, 4, d.fkind.toNat), (49, 3, d.fstat.toNat), (48, 1, b2n (d.done + d.faults != Md.count d.n)), (24, 24, d.pads)]

/-- A record whose write is refused or fails is reported and logged. -/
def recordFail (d : Desc) (st : Nat) (s : State) : State :=
  logErr { cause := 0x21, sev := 0, aspace := b2n (Md.cspace d.n), laddr := Md.caddr d.n / 128, tc := d.req.tc.toNat, who := whoReq d.req, status := st } s

/-- Steps 2 and 3 of R156. -/
def maceFree (d : Desc) (s : State) : State :=
  let s := if Md.cten d.n then tallyAdd (Md.ctally d.n) 1 none 7 s else s
  { s with mace := { s.mace with descs := s.mace.descs.filter (·.slot ≠ d.slot) },
           srv := { s.srv with own := s.srv.own.filter fun o => match o.kind with | .maceIdx k _ => k != d.slot | _ => true } }

/-- A descriptor with every index handled and nothing in flight ends. -/
def maceEndAt (slot : Nat) (s : State) : State :=
  let s := tidy slot s
  match descFind s slot with
  | none => s
  | some d =>
    if d.ending || !d.infl.isEmpty || !d.rows.isEmpty || !(d.stopped || Md.count d.n ≤ d.k) then s
    else
      let s := ctlUse (.mace slot) (some (subjReq d.req)) s
      let d := { d with ending := true, endFt := s.clk.ft }
      let a := Md.caddr d.n
      let x := linePut 0 (a % 128) 32 (maceRecord d).toNat
      if !Md.cren d.n then maceFree d s
      else if !Md.cspace d.n then ownWritePart a 32 x (.maceRec slot) (descMod slot (fun _ => d) s)
      else
        let refuse := fun (st : Nat) => maceFree d (recordFail d st s)
        if 2 ^ 32 ≤ a then refuse St.unsupported
        else match fenClass s a d.req.tc.toNat (BitVec.ofNat 2 (Md.epoch d.n)) .plain with
          | .ok l _ =>
            let k := locKey l
            let m := spanMask (a % 128) 32
            let s := frameWrite k x m false false (setCheck (some (subjReq d.req)) (k / 32) (useSlot (k / 32) true (some (subjReq d.req)) s))
            let acc : Acc := { accOwn s (k / 32 % 4) 1 (a / 128) m (if keyRetired s k then 0 else dataGet s k) with
                               addr := a, len := 32, reqid := hReqid d.req.msg, src := hSrc d.req.msg, wtag := hWtag d.req.msg, op := Op.wr, qc := d.req.qc }
            let s := watchAcc acc s
            let s := if keyRetired s k then recordFail d St.poison s else s
            maceFree d s
          | .deny => refuse St.denied
          | .stale => refuse St.stale
          | .unsup => refuse St.unsupported

/-! ### Meanings -/

/-- MACE_SUB (R49). -/
def execMaceSub (p : DPort) (s : State) : Out3 :=
  .next (portPass p Op.maceSub (fun r s =>
    if 8 ≤ s.mace.descs.length then some (compTo r.port r.msg (subjReq r) St.retry 0 (occR 0x14 r 1 s))
    else
      let slot := (lowest 8 fun i => s.mace.descs.all (·.slot ≠ i)).getD 0
      let d : Desc := { slot := slot, req := r, d := msgTwo r.msg, idx := [], k := 0, rowOff := 0, infl := [], nextId := 0, rows := [], faults := 0,
                        done := 0, pads := 0, firstK := none, fkind := 0, fstat := 0, stopped := false, ending := false, endFt := 0 }
      some (compTo r.port r.msg (subjReq r) St.ok 0 (occR 0x70 r 1 { s with mace := { s.mace with descs := s.mace.descs ++ [d] } }))) s)

/-- MACE_INDEX_READ (R148, R150). -/
def execMaceIndexRead (slot : Fin 8) (s : State) : Out3 := .next (indexRead slot.val (tidy slot.val s))

/-- MACE_INDEX_RESPONSE (R150, Table 7.4). -/
def execMaceIndexResponse (txid : BitVec 16) (status : BitVec 3) (d : Line) (s : State) : Out3 :=
  .next (match ownFind s txid with
    | some (.maceIdx slot line) =>
      let s := ownDrop txid s
      match descFind s slot with
      | some x => if x.idx.any fun i => i.1 == line && i.2 == .wait then setIdx_ slot line (if status = 0 then .held d else .bad status) s else s
      | none => s
    | _ => s)

/-- MACE_ELEMENT_ISSUE (R148): none while HALT is in effect (R273). -/
def execMaceElementIssue (s : State) : Out3 := .next (if s.srv.halt then s else issueOne (issueOne s))

/-- MACE_ELEMENT (R150). -/
def execMaceElement (slot : Fin 8) (id : Nat) (s : State) : Out3 := .next (elemStep slot.val id (tidy slot.val s))

/-- MACE_END (R156). -/
def execMaceEnd (slot : Fin 8) (s : State) : Out3 := .next (maceEndAt slot.val s)

/-- MACE_RECORD_COMP (R156). -/
def execMaceRecordComp (txid : BitVec 16) (status : BitVec 3) (s : State) : Out3 :=
  .next (match ownFind s txid with
    | some (.maceRec slot) =>
      let s := ownDrop txid s
      match descFind s slot with
      | some d => maceFree d (if status = 0 then s else recordFail d status.toNat s)
      | none => s
    | _ => s)

end Sys2Proof.Machine
end

