-- ==== Sys2Proof/Machine/Regs.lean ====
section
/-! DEFINITION. The register window: what each 32-bit word reads as and what a write to it does (Tables 13.1 to 13.5, 14.3, 15.6, 15.9, 16.8, 17.4, R256). -/

namespace Sys2Proof.Machine

/-! ### Reads -/

/-- BRL_STATUS (Table 13.2). -/
def statusWord (s : State) : Nat :=
  packNat [(31, 1, b2n s.core.sup), (30, 1, b2n s.clk.ftv), (29, 1, b2n s.core.slot), (28, 1, b2n s.core.vala), (27, 1, b2n s.core.valb),
    (26, 1, b2n s.gen.armed.isSome), (25, 1, b2n s.gen.rehash.isSome), (24, 1, b2n s.gen.conv.isSome), (22, 2, drnBits s)]

/-- BRL_GEN_STAT. -/
def genStatWord (s : State) : Nat :=
  packNat [(30, 2, s.gen.last.toNat), (16, 8, s.gen.ftab.toNat), (12, 4, s.gen.fcode.toNat), (0, 12, s.gen.fent.toNat)]

/-- BRL_PD_STAT (Table 16.8). -/
def pdStatWord (s : State) : Nat := (List.range 16).foldl (fun a k => if pdOn s (64 + k) then a + 2 ^ k else a) 0

/-- BRL_FT: FT capture, within 2 ticks of the datapath value. -/
def ftRead (s : State) : Nat := (ftN s + (Config.ftReadSkew s.clk.sclk).val - 2) % 2 ^ 64

/-- Word `i` of a number. -/
def w32 (x i : Nat) : Nat := fld x (32 * i) 32

/-- Words of the identity region. -/
def idRead (s : State) (o : Nat) : Nat :=
  match o with
  | 0x00 => idWord
  | 0x04 => fwVer s
  | 0x08 => chipWord s
  | 0x0C => statusWord s
  | 0x10 => s.gen.gen.toNat
  | 0x14 => genStatWord s
  | 0x18 => w32 s.gen.gft.toNat 0
  | 0x1C => w32 s.gen.gft.toNat 1
  | 0x20 => s.log.evLost.toNat
  | 0x28 => w32 (bankOffBits s) 0
  | 0x2C => w32 (bankOffBits s) 1
  | 0x30 => w32 (bankRetBits s) 0
  | 0x34 => w32 (bankRetBits s) 1
  | 0x38 => pdStatWord s
  | _ => 0

/-- BRL_ALERT. -/
def alertWord (s : State) : Nat := packNat [(8, 8, s.ints.rst.toNat), (0, 3, s.ints.alert.toNat)]

/-- BRL_EVQ_STAT. -/
def evqStatWord (s : State) : Nat :=
  packNat [(31, 1, b2n (!s.log.evq.isEmpty)), (16, 8, (s.log.evq.head?.map fun e => e.1.toNat).getD 0), (0, 9, s.log.evq.length)]

/-- BRL_ERR_STAT (Table 17.4). -/
def errStatWord (s : State) : Nat :=
  packNat [(31, 1, b2n (!s.log.errs.isEmpty)), (30, 1, b2n s.log.fatal.isSome), (8, 16, s.log.errLost.toNat), (0, 7, s.log.errs.length)]

/-- BRL_BANK_ERRb. -/
def bankErrWord (s : State) (b : Nat) : Nat :=
  let k := bankGet s b
  packNat [(28, 4, k.retires), (24, 4, if s.pins.present then k.leak else 0), (0, 16, k.errs)]

/-- Words of the region at 0x0100. -/
def intRead (s : State) (o : Nat) : Nat :=
  if 0x140 ≤ o ∧ o < 0x160 then w32 ((s.log.evq.head?.map fun e => e.2.toNat).getD 0) ((o - 0x140) / 4)
  else if 0x180 ≤ o ∧ o < 0x1A0 then w32 ((s.log.errs.head?.map BitVec.toNat).getD 0) ((o - 0x180) / 4)
  else if 0x1C0 ≤ o ∧ o < 0x1E0 then w32 ((s.log.fatal.map BitVec.toNat).getD 0) ((o - 0x1C0) / 4)
  else if 0x200 ≤ o ∧ o < 0x300 then bankErrWord s ((o - 0x200) / 4)
  else match o with
    | 0x100 => s.ints.stat.toNat
    | 0x104 => s.ints.en.toNat
    | 0x108 => s.ints.mbx.toNat
    | 0x10C => s.ints.mbxEn.toNat
    | 0x110 => s.ints.tgt.toNat
    | 0x118 => w32 s.ints.addr.toNat 0
    | 0x11C => w32 s.ints.addr.toNat 1
    | 0x120 => s.ints.data.toNat
    | 0x124 => alertWord s
    | 0x160 => evqStatWord s
    | 0x1A0 => errStatWord s
    | 0x1AC => if s.pins.present then s.mp.plist.length else 0
    | _ => 0

/-- STATUS of a mailbox (Table 13.5). -/
def mbxStatus (m : Mbx) : Nat :=
  packNat [(31, 1, b2n m.busy), (30, 1, b2n m.ovr), (8, 16, m.seqL.toNat), (0, 4, if m.busy then Mc.busy else m.code.toNat)]

/-- Words of a mailbox but DATA. -/
def mbxRead (m : Mbx) (o : Nat) : Nat :=
  if 0x10 ≤ o ∧ o < 0x50 then (m.arg.getD ((o - 0x10) / 4) 0).toNat
  else if 0x80 ≤ o ∧ o < 0xC0 then (m.res.getD ((o - 0x80) / 4) 0).toNat
  else match o with
    | 0x00 => m.cmd.toNat
    | 0x04 => mbxStatus m
    | 0x08 => m.seq.toNat
    | 0xC4 => packNat [(16, 7, m.inF.length), (0, 7, m.outF.length)]
    | _ => 0

/-- Words of the counter window (Table 14.3). -/
def ctrRead (s : State) (o : Nat) : Nat :=
  if !pdOn s 76 then 0
  else if o < 0x200 then
    let c := capture s (o / 8)
    w32 (packNat [(63, 1, b2n c.ovf), (62, 1, b2n c.run), (0, 48, c.val)]) (o % 8 / 4)
  else if o < 0x240 then w32 (fctrGet s ((o - 0x200) / 8)) (o % 8 / 4)
  else if o < 0x248 then w32 (s.ctr.dump.seq.toNat * 2 ^ 32 + s.ctr.dump.next) (o % 8 / 4)
  else if o < 0x250 then w32 (s.ctr.slost.toNat * 2 ^ 32 + s.ctr.snext) (o % 8 / 4)
  else 0

/-- The registers of a trace buffer (Table 15.6). -/
def bufRegs (x : TBuf) : List Nat :=
  [packNat [(32, 32, x.seq.toNat), (30, 2, x.st.toNat), (29, 1, b2n x.err), (0, 22, x.next)], packNat [(22, 22, x.tidx), (0, 22, x.start)],
    packNat [(32, 32, x.lost.toNat), (0, 9, x.loc.length)], x.sft.toNat]

/-- Words of the trace and watch window. -/
def peatRead (s : State) (o : Nat) : Nat :=
  if !pdOn s 75 then 0
  else if o < 0x80 then w32 ((bufRegs (bufGet s (o / 0x20))).getD (o % 0x20 / 8) 0) (o % 8 / 4)
  else if 0x100 ≤ o ∧ o < 0x500 then w32 ((watRegs (watGet s ((o - 0x100) / 0x40))).getD (o % 0x40 / 8) 0) (o % 8 / 4)
  else 0

/-- The 32-bit word at an offset of the window, mailbox DATA left out (R256). -/
def regRead (s : State) (o : Nat) : Nat :=
  if o < 0x100 then idRead s o
  else if o < 0x1000 then intRead s o
  else if o < 0x2000 then mbxRead (mbxGet s ((o - 0x1000) / 0x100)) (o % 0x100)
  else if o < 0x3000 then ctrRead s (o - 0x2000)
  else if o < 0x4000 then
    (if o = 0x3000 then w32 (ftRead s) 0 else if o = 0x3004 then w32 (ftRead s) 1 else if o = 0x3008 then b2n s.clk.ftv else 0)
  else if o < 0x5000 then peatRead s (o - 0x4000)
  else 0

/-! ### Writes -/

/-- A CMD write while BUSY is 0 starts a command (R259); output not read is discarded (R261). -/
def cmdWrite (t op : Nat) (s : State) : State :=
  let m := mbxGet s t
  let o := BitVec.ofNat 8 op
  mbxSet t { m with cmd := o, op := o, larg := m.arg, seqL := m.seq, res := List.replicate 16 0, busy := true, ovr := false, phase := .queued,
                    outF := [], got := [], pend := [], wait := s.clk.run } { s with startQ := s.startQ ++ [t] }

/-- A CMD write while BUSY is 1 sets OVR alone. -/
def cmdOver (t : Nat) (s : State) : State := mbxSet t { mbxGet s t with ovr := true } s

/-- A write of `v` to a word of mailbox `t`, DATA and DRESET left out. -/
def mbxWrite (t o v : Nat) (s : State) : State :=
  let m := mbxGet s t
  if o = 0 then (if m.busy then cmdOver t s else cmdWrite t v s)
  else if o = 0x08 then mbxSet t { m with seq := BitVec.ofNat 16 v } s
  else if 0x10 ≤ o ∧ o < 0x50 then mbxSet t { m with arg := m.arg.set ((o - 0x10) / 4) (BitVec.ofNat 32 v) } s
  else s

/-- HEAD of the event queue is discarded. -/
def evqDrop (s : State) : State := { s with log := { s.log with evq := s.log.evq.tail } }

/-- HEAD of the error log is discarded. -/
def errDrop (s : State) : State := { s with log := { s.log with errs := s.log.errs.tail } }

/-- BRL_FATAL_CLR (Table 17.4). -/
def fatalClear (v : Nat) (s : State) : State := if nbit v 0 && s.pins.fatalN then { s with log := { s.log with fatal := none } } else s

/-- A W1C write to BRL_ALERT; STEWARD_ALERT falls with the last bit (R285). -/
def alertWrite (v : Nat) (s : State) : State :=
  let a := s.ints.alert &&& ~~~(BitVec.ofNat 3 v)
  { s with ints := { s.ints with alert := a }, pins := { s.pins with alert := a != 0 } }

/-- A write of `v` to a word of the region at 0x0100. -/
def intWrite (o v : Nat) (s : State) : State :=
  let i := s.ints
  let x := BitVec.ofNat 32 v
  match o with
  | 0x100 => setInts { i with stat := i.stat &&& ~~~x } s
  | 0x104 => setInts { i with en := x } s
  | 0x108 => setInts { i with mbx := i.mbx &&& ~~~(BitVec.ofNat 16 v) } s
  | 0x10C => setInts { i with mbxEn := BitVec.ofNat 16 v } s
  | 0x110 => { s with ints := { i with tgt := x &&& 0x3FFF0FFF } }
  | 0x118 => { s with ints := { i with addr := (i.addr &&& 0xFFF00000000) ||| BitVec.ofNat 64 (v % 2 ^ 32) } }
  | 0x11C => { s with ints := { i with addr := (i.addr &&& 0xFFFFFFFF) ||| BitVec.ofNat 64 ((v % 2 ^ 12) * 2 ^ 32) } }
  | 0x120 => { s with ints := { i with data := x } }
  | 0x124 => alertWrite v s
  | 0x164 => evqDrop s
  | 0x1A4 => errDrop s
  | 0x1A8 => fatalClear v s
  | _ => s

/-- A write of `v` to the 32-bit word at an offset; RO fields and unassigned offsets ignore it (R256). -/
def regWrite (o v : Nat) (s : State) : State :=
  if o < 0x100 then s
  else if o < 0x1000 then intWrite o v s
  else if o < 0x2000 then mbxWrite ((o - 0x1000) / 0x100) (o % 0x100) v s
  else s

end Sys2Proof.Machine
end

