-- ==== Sys2Proof/Machine/TenantCmds.lean ====
section
/-! DEFINITION. Meanings: TENANT_SWITCH and SEAL_KEY (Chapter 12). -/

namespace Sys2Proof.Machine

/-! ### TENANT_SWITCH (R246, Table 12.4) -/

def tswSet (x : Option Tsw) (s : State) : State := { s with srv := { s.srv with tsw := x } }

/-- Every TWAIT of the context that is not released completes with DENIED (R207, R246). -/
def denyParked (t : BitVec 4) (s : State) : State :=
  let s := releaseAll 256 (reportAll s)
  let mine := s.tal.parked.filter (·.req.tc = t)
  mine.foldl (fun s w => twaitComp w.req St.denied (ctlUse (.parked w.slot) (some (subjReq w.req)) s))
    { s with tal := { s.tal with parked := s.tal.parked.filter (·.req.tc ≠ t) } }

/-- Requests that an attached access of a miss entry is for. -/
def attReq : AttOp → Option Req
  | .read r => some r
  | .write r _ _ _ => some r
  | .op r => some r
  | .coh r _ _ => some r
  | .homeWr _ _ _ _ => none
  | .poison _ => none

/-- A request of the context has not completed, or a descriptor of it has not ended. -/
def tenantBusy (s : State) (t : BitVec 4) : Bool :=
  (waitingReqs s).any (·.tc = t) || s.fen.exactQ.any (·.req.tc = t) ||
    s.mp.miss.any (fun e => (e.att.filterMap attReq).any (·.tc = t)) ||
    s.home.htes.any (fun h => !h.done && h.req.tc = t) || s.mace.descs.any (·.req.tc = t) ||
    (s.d0.regq ++ s.d1.regq ++ s.regHw).any (·.tc = t)

/-- Regions that the switch closes: opened from the context's mailbox, or on a segment it owns. -/
def tenantRegion (s : State) (t : Nat) (r : Region) : Bool :=
  r.opener.toNat == t || ((segFind s r.seg).map fun g => g.owner.toNat == t).getD false

/-- A resolve with DISCARD that notifies no tally. -/
def closeResolve (s : State) : Resolve :=
  { discard := true, rten := false, nten := false, ntally := 0, rtally := 0, thresh := 0, deadline := 0, reported := false, due := none, readyAt := none,
    start := false, next := 0, armFt := s.clk.ft, armRun := s.clk.run }

/-- The switch's own resolve of a region takes the place of one that is armed, which it is until its D (R138, R246). -/
def closeRegion (s : State) (r : Region) : Region :=
  match r.res with
  | some x => if x.discard && !x.rten && !x.nten then r else { r with res := some (closeResolve s) }
  | none => { r with res := some (closeResolve s) }

/-- Every region that the switch closes is resolved away; reports that are due are raised first. -/
def closeRegions (t : Nat) (s : State) : State :=
  let s := reportAll s
  { s with fen := { s.fen with regions := lmod (fun r => r.opened && tenantRegion s t r) (closeRegion s) s.fen.regions } }

/-- Segments of the context. -/
def tenantSegs (s : State) (t : Nat) : List Nat := (s.fen.segs.filter fun g => g.owner.toNat == t).map Seg.id

/-- The frames of the context still serve a region, a transfer or an allocation. -/
def fenBusy (s : State) (t : Nat) : Bool :=
  s.fen.regions.any (tenantRegion s t) || (tenantSegs s t).any (xferOn s) || s.fen.zeroing.any fun z => z.seg.owner.toNat == t

/-- A dirty line is discarded without a write-back. -/
def discardWay (x : Swept) (k : Nat) : Swept :=
  let e := tagGet x.s k
  if cleanHolds x.s k then { x with left := true }
  else { wb := x.wb, inv := x.inv + 1, left := x.left, s := countLeave e (dropData k (tagSet k TagE.zero x.s)) }

/-- The sweep's step in a set: lines of the context leave. -/
def tenantSet (w : Tsw) (s : State) : Swept :=
  let s := setCheck none w.pos (useSlot w.pos false none s)
  ((List.range 32).map (wkey w.pos)).foldl (fun x k =>
    let e := tagGet x.s k
    if !(e.v && holdsCache x.s (k % 32) && e.tc == w.t) then x
    else if w.discard && e.d then discardWay x k else sweepWay x k) { wb := 0, inv := 0, left := false, s := s }

/-- The key of a context is erased (R253). -/
def eraseKey (t : Nat) (s : State) : State := keySet t { Key.zero with kgen := (keyGet s t).kgen } s

/-- The switch completes. -/
def tswEnd (w : Tsw) (s : State) : State :=
  mbxDone w.mbx Mc.ok [w.wb, w.inv, packNat [(6, 5, w.regs), (0, 6, w.segs)]] (tswSet none s)

/-- A step of the switch: stage 1 waits for requests, 2 for regions and transfers, 3 sweeps, 4 waits for sealed lines to leave. -/
def tswStep (w : Tsw) (s : State) : State :=
  match w.stage with
  | 1 =>
    let s := denyParked w.t s
    if tenantBusy s w.t then s
    else if w.fenfree then
      let n := (s.fen.regions.filter (tenantRegion s w.t.toNat)).length
      closeRegions w.t.toNat (tswSet (some { w with stage := 2, regs := n }) s)
    else tswSet (some { w with stage := 3 }) s
  | 2 =>
    if fenBusy s w.t.toNat then closeRegions w.t.toNat s
    else
      let l := tenantSegs s w.t.toNat
      tswSet (some { w with stage := 3, segs := l.length }) (l.foldl (fun s g => segRemove g s) s)
  | 3 =>
    let x := tenantSet w s
    let w := { w with wb := w.wb + x.wb, inv := w.inv + x.inv }
    if x.left then tswSet (some w) x.s
    else if w.pos + 1 < 16384 then tswSet (some { w with pos := w.pos + 1 }) x.s
    else if w.clrkey then tswSet (some { w with stage := 4 }) x.s
    else tswEnd w x.s
  | _ => if sealedHeld s w.t.toNat then s else tswEnd w (eraseKey w.t.toNat s)

/-- Sedge records an agent that an entry of the context binds (R157: V = 1 and CV = 1). -/
def tenantAgents (s : State) (t : Nat) : Bool :=
  (rmListed s.t).any fun r => rmV s.t r && rmTc s.t r == t && rmCv s.t r && sedgeHolds s (rmCagent s.t r)

/-- The switch that TENANT_SWITCH starts. -/
def newTsw (s : State) (t : Nat) : Tsw :=
  { t := BitVec.ofNat 4 (argF s t 0 0 4)
    mbx := t
    discard := argB s t 0 4
    fenfree := argB s t 0 5
    clrkey := argB s t 0 6
    stage := 1
    pos := 0
    wb := 0
    inv := 0
    regs := 0
    segs := 0 }

def tenantSwitchCmd (t : Nat) (s : State) : State :=
  let c := argF s t 0 0 4
  checked t [(t ≠ 0, Mc.eperm), (argRsv s t [(0, 7, 25)], Mc.einval), (commitArmed s, Mc.eagain),
      (noDatapath s || rmAnyTc s.t c || tenantAgents s c || s.srv.tsw.isSome || c = 0, Mc.estate)] noRes
    (fun s => denyParked (newTsw s t).t (mbxWork t (tswSet (some (newTsw s t)) s))) s

/-- TENANT_SWITCH (R246). -/
def execTenantSwitch (s : State) : Out3 := .next (cmdRun 0x80 anySub tenantSwitchCmd s)

/-- TENANT_SWEEP_STEP (R246). -/
def execTenantSweepStep (s : State) : Out3 :=
  .next (match s.srv.tsw with
    | some w => tswStep w s
    | none => s)

/-! ### SEAL_KEY (R253, R254, Table 12.5) -/

/-- The 256-bit key in words `i` to `i + 7`. -/
def keyWords (l : List (BitVec 32)) (i : Nat) : BitVec 256 :=
  BitVec.ofNat 256 (((l.drop i).take 8).foldr (fun x a => x.toNat + 2 ^ 32 * a) 0)

/-- The checks of SEAL_KEY; `short` says that the words of a load are too few or their XTS keys equal. -/
def sealChecks (s : State) (t : Nat) (short : Bool) : List (Bool × Nat) :=
  let c := argF s t 0 0 4
  let op := argF s t 0 4 2
  [(t ≠ 0 && c ≠ t, Mc.eperm), (argRsv s t [(0, 6, 26)] || op = 0 || op = 3 || short, Mc.einval),
    (noDatapath s || !pdHeld s 77 || sealedHeld s c, Mc.estate)]

def sealLoadCmd (t : Nat) (s : State) : State :=
  let l := (mbxGet s t).inF
  let k1 := keyWords l 0
  let k2 := keyWords l 8
  let km := keyWords l 16
  checked t (sealChecks s t (l.length < 24 || k1 = k2)) noRes
    (fun s =>
      let c := argF s t 0 0 4
      let n := (keyGet s c).kgen + 1
      mbxDone t Mc.ok [n.toNat, keyCheck km] (keySet c { loaded := true, k1 := k1, k2 := k2, km := km, kgen := n } s)) s

/-- SEAL_KEY_LOAD. A reserved KOP belongs to this row. -/
def execSealKeyLoad (s : State) : Out3 := .next (cmdRun 0x81 (fun s t => argF s t 0 4 2 != 2) sealLoadCmd s)

def sealEraseCmd (t : Nat) (s : State) : State :=
  checked t (sealChecks s t false) noRes
    (fun s => let c := argF s t 0 0 4; mbxDone t Mc.ok [(keyGet s c).kgen.toNat, 0] (eraseKey c s)) s

/-- SEAL_KEY_ERASE. -/
def execSealKeyErase (s : State) : Out3 := .next (cmdRun 0x81 (fun s t => argF s t 0 4 2 == 2) sealEraseCmd s)

end Sys2Proof.Machine
end

