-- ==== Sys2Proof/Machine/Power.lean ====
section
/-! DEFINITION. Power transitions, the bring-up, presence, the resets and the boot loader (Chapter 16). -/

namespace Sys2Proof.Machine

/-! ### Wanted transitions (R341, R342, Table 16.5) -/

/-- PM_TO. -/
def powCode : Power → BitVec 2 | .off => 0 | .retain => 1 | .on => 2

def codePow (c : BitVec 2) : Power := if c = 2 then .on else if c = 1 then .retain else .off

/-- The generation that is live, and those armed or waiting for their domains. -/
def gensHeld (s : State) : List Tables := s.t :: ((s.gen.armed.map Armed.cand).toList ++ (s.gen.wait.map CommitWait.cand).toList)

/-- Some generation needs domain `pd`. -/
def genNeeds (s : State) (pd : Nat) : Bool := (gensHeld s).any fun g => (needs g).contains pd

/-- Every trace buffer is stopped, its writes have returned, and no SCAN runs. -/
def peatQuiet (s : State) : Bool :=
  s.peat.scan.isNone && (List.range 4).all fun b => ((bufGet s b).st == 0 || (bufGet s b).st == 3) && traceFlight s b == 0

/-- The home holds nothing (R158). -/
def homeEmpty (s : State) : Bool := s.home.sedge.all (fun x => x.2.st == 0) && s.home.htes.isEmpty && s.home.relook.isEmpty

/-- The steward moves an ON domain to OFF (Table 16.5, R158, R254, R362 step 4); while the datapath is out of service, all of them. -/
def offNeeded (s : State) (n : Nat) : Bool :=
  if !powered s then true
  else if n < 64 then
    let k := bankGet s n
    k.retired && k.sweep.isNone && k.op.isNone && !groupUsed s (n % 32 / 4)
  else if !s.pins.present then false
  else if n = 68 then !genNeeds s 68 && homeEmpty s
  else if n = 75 then !genNeeds s 75 && peatQuiet s
  else if n = 77 then !genNeeds s 77 && (List.range 16).all fun t => !(keyGet s t).loaded
  else false

/-- A BANK_OFFLINE of the bank has visited its last line (R278). -/
def offlineSwept (s : State) (b : Nat) (toff : Bool) : Bool :=
  match (bankGet s b).op with
  | some o => b < 64 && o.kind == .offline toff && o.pos == 8192 && (bankGet s b).sweep.isNone
  | none => false

/-- A wanted transition still stands. -/
def wantStands (s : State) (w : Want) : Bool :=
  match w.target with
  | .on => powered s && !pdOn s w.pd
  | .retain => pdOn s w.pd && offlineSwept s w.pd false && !(bankGet s w.pd).retired
  | .off => pdState s w.pd != .off && (offlineSwept s w.pd true || offNeeded s w.pd)

/-- The OFF transitions that the steward wants. -/
def wantOffs (s : State) : State :=
  (List.range 78).foldl (fun s n => if pdState s n != .off && !moving s n && offNeeded s n then want n .off s else s) s

/-- The first wanted transition that stands is requested. -/
def pmRequest (s : State) : State :=
  match s.pw.wants.dropWhile fun w => !wantStands s w with
  | [] => { s with pw := { s.pw with wants := [] } }
  | w :: rest =>
    { s with pw := { s.pw with wants := rest }, pins := { s.pins with pmReq := true, pmPd := w.pd, pmTo := powCode w.target } }

/-- The handshake in an SCLK: the grant falls after the request, and then the next request may start. -/
def pmTick (s : State) : State :=
  if s.pins.pmReq then s
  else if s.pins.pmGnt then { s with pins := { s.pins with pmGnt := false } }
  else pmRequest (wantOffs s)

/-! ### Presence (R345 to R347, R350, Table 16.9 step 5) -/

/-- A LIVE with count `k` on both ports. -/
def liveSend (k : BitVec 16) (s : State) : State :=
  let m : Msg := { hdr := rspHdr Op.live Vc.ctl 0 (sreqN s) (chipN s) (chipN s) 0 0 0 0 0 0 0 0 0 k.toNat 0 false, beats := [], be := [] }
  emit .d1 { msg := m, subj := none, post := .none } (emit .d0 { msg := m, subj := none, post := .none } s)

/-- Port enable: the initial grants of QRES credits (R227 step 1, R332). -/
def portEnable (g : Tables) (x : PortSt) : PortSt :=
  (List.range 16).foldl (fun x c => owedSet c (clsQres g c) (qSet c (clsQres g c) x)) x

/-- The first SCLK at which FT is valid after a reset: windows and scrub instants start (R234, R360). -/
def ftFirst (s : State) : State :=
  winRestart { s with clk := { s.clk with seen := true }, srv := { s.srv with scrubG := s.clk.ft, scrubK := 0, leakK := ftN s / 2 ^ 30 } }

/-- Every domain of the bring-up is ON, and PRESENT may rise. -/
def presentReady (s : State) : Bool :=
  s.pw.bring && s.core.run && powered s && bringOrder.all (pdHeld s) && s.pins.downAt ≤ s.clk.sclk

/-- An enabled status bit is 1. -/
def intPending (s : State) : Bool := s.ints.stat &&& s.ints.en != 0 || s.ints.mbx &&& s.ints.mbxEn != 0

/-- The datapath reset has released, and PRESENT rises: counters clear, the ports open, the first LIVE leaves, and one INTR if a cause is pending. -/
def presentRise (s : State) : State :=
  let s := { s with ctr := { CtrSt.reset with caps := s.ctr.caps }, clk := { s.clk with rel := s.clk.sclk }, pw := { s.pw with bring := false }, d0 := portEnable s.t s.d0, d1 := portEnable s.t s.d1,
                    pins := { s.pins with present := true, irdy0 := true, irdy1 := true, liveAt := s.clk.sclk, liveCnt := 1 } }
  let s := liveSend 0 s
  let s := if intPending s then sendIntr s else s
  if s.clk.ftv then ftFirst s else s

def presentTry (s : State) : State := if presentReady s then presentRise s else s

/-- The steward starts steps 3 to 5 of Table 16.9 for every domain that is not ON. -/
def startBring (s : State) : State :=
  { s with pw := { s.pw with bring := true, wants := ((bringOrder.filter fun n => !pdHeld s n).map fun n => { pd := n, target := .on }) } }

/-! ### The end of a transition (R342) -/

/-- What follows from a domain's arrival in a state (R61, R286, R307, R254, R278, R279). -/
def domainMoved (pd : Nat) (p : Power) (s : State) : State :=
  if pd < 64 then bankMoved pd p (if p = .on then clearBank pd s else s)
  else if pd = 68 then (if p = .on then { s with home := { s.home with sedge := [], splru := [], pred := [] } } else s)
  else if pd = 75 then
    (if p = .on then (List.range 16).foldl (fun s w => watStart w s) ((List.range 4).foldl (fun s b => bufStart b s) s)
    else { s with peat := { bufs := [], tev := [], trg := [], wat := [], scan := none } })
  else if pd = 76 then (if p = .on then { s with ctr := { CtrSt.reset with caps := s.ctr.caps } } else s)
  else if pd = 77 then (if p = .on then s else (List.range 16).foldl (fun s t => eraseKey t s) s)
  else s

/-- The domain that moves reaches its target; PM_REQ falls. -/
def powerDone (s : State) : State :=
  let pd := s.pins.pmPd
  let p := codePow s.pins.pmTo
  presentTry (armTry (domainMoved pd p (setPd pd p { s with pins := { s.pins with pmReq := false } })))

/-! ### Loss of the datapath (R343, R349, R366, Table 16.10) -/

/-- The counts of a bank that lie in PD79 (R361). -/
def keptBank (k : Bank) : Bank := { Bank.reset with errs := k.errs, retires := k.retires }

/-- The work of mailbox `t` needs the datapath: it ends with ESTATE (Table 1.7). -/
def needsDatapath (s : State) (t : Nat) : Bool :=
  let m := mbxGet s t
  (m.phase == .work && m.op != 0x71) || s.srv.insp.any (·.mbx == t)

def endDatapath (s : State) : State :=
  (List.range 16).foldl (fun s t => if needsDatapath s t then mbxDone t Mc.estate ((mbxGet s t).got.map BitVec.toNat) s else s) s

/-- The reset state of the datapath half. The steward half, presence and FT capture are as they were; the power domains move under R342. -/
def datapathReset (s : State) : State :=
  { s with
    banks := s.banks.foldl (fun a x => sset (fun _ => Bank.reset) a x.1 (keptBank x.2)) []
    pins := { s.pins with fatalN := true, oh0 := none, oh1 := none, ohS := none, mCmd := none, cgnt0 := 0, cgnt1 := 0 }
    pw := { s.pw with wants := [] }
    clk := { s.clk with seen := false }
    gen := { GenSt.reset with gen := s.gen.gen, last := s.gen.last, ftab := s.gen.ftab, fcode := s.gen.fcode, fent := s.gen.fent, gft := s.gen.gft }
    arr := State.reset.arr
    mp := .reset
    pf := State.reset.pf
    d0 := .reset
    d1 := .reset
    sq := []
    sout := []
    regHw := []
    fen := .reset
    tal := State.reset.tal
    home := State.reset.home
    regul := State.reset.regul
    mace := State.reset.mace
    keys := []
    ctr := .reset
    peat := State.reset.peat
    log := { s.log with notices := [], fatalSeen := false, fatalEff := false }
    srv := .reset
    bad := [] }

/-- PRESENT falls, and stays 0 for at least 4,096 SCLK (R346). -/
def presentFall (s : State) : State :=
  { s with pins := { s.pins with present := false, irdy0 := false, irdy1 := false,
                                 downAt := if s.pins.present then s.clk.sclk + 4096 else s.pins.downAt } }

/-- The datapath half is lost. -/
def datapathLost (s : State) : State := datapathReset (endDatapath (presentFall s))

/-- PORST_N at 0: the whole slice is reset. The pins that the integrator drives stay as they are. -/
def sliceReset (s : State) : State :=
  let d := (presentFall s).pins
  { State.reset with
    pending := s.pending
    clk := { Clock.reset with sclk := s.clk.sclk }
    pins := { Pins.reset with drstN := d.drstN, vddCore := d.vddCore, pmGnt := d.pmGnt, downAt := d.downAt } }

/-! ### Boot (R344) -/

/-- The exchange of a boot word ends; the loader asks for the next. -/
def bootNext (l : List (BitVec 32)) (s : State) : State :=
  { s with core := { s.core with boot := some l }, pins := { s.pins with bootAddr := BitVec.ofNat 15 l.length } }

/-- The loader ends: its image is valid, or the core stays in reset. -/
def bootEnd (ok : Bool) (img : List (BitVec 32)) (s : State) : State :=
  let s := { s with core := { s.core with boot := none, fwA := img, vala := ok }, pins := { s.pins with bootReq := false } }
  if ok then startBring (coreReset s) else s

/-- The slice has taken a boot word. -/
def bootTake (w : BitVec 32) (l : List (BitVec 32)) (s : State) : State :=
  let l := l ++ [w]
  let n := fwWord l 3
  if l.length < 8 then bootNext l s
  else if 24576 < n then bootEnd false l s
  else if l.length < max 8 (n + 1) then bootNext l s
  else bootEnd (imageStatus (l.take n) n (fwWord l n) == Mc.ok) (l.take n) s

end Sys2Proof.Machine
end

