-- ==== Sys2Proof/Machine/RegCmds.lean ====
section
/-! DEFINITION. Meanings: REG-space requests, mailbox streams, register writes with an effect of their own (R19, R38, R256, R259, R261, R262). -/

namespace Sys2Proof.Machine

/-! ### Requests of the window -/

/-- Offsets of the 32-bit words that a REG-space request covers. -/
def regWords (m : Msg) : List Nat := if hLen m = 8 then [hAddr m, hAddr m + 4] else [hAddr m]

/-- The word of a REG-space WR at offset `o`. -/
def regWord (m : Msg) (o : Nat) : Nat := lineNat (msgLine m) (o % 128) 4

def isWr (m : Msg) : Bool := hOpcode m == Op.wr

/-- The mailbox whose DATA a request accesses; an 8 B access to DATA moves two words. -/
def dataMbx (m : Msg) : Option Nat :=
  if 0x1000 ≤ hAddr m ∧ hAddr m < 0x2000 ∧ hAddr m % 0x100 = 0xC0 then some ((hAddr m - 0x1000) / 0x100) else none

/-- The row of the table that performs a request in the register hardware. -/
inductive RegKind where
  | read | dataRead (t : Nat) | dataWrite (t : Nat) | cmdBusy (t : Nat) | abort (t : Nat) | evqPop | errPop | fatalClr | alert | plain
deriving DecidableEq, Repr

def mbxWord (o : Nat) : Option (Nat × Nat) := if 0x1000 ≤ o ∧ o < 0x2000 then some ((o - 0x1000) / 0x100, o % 0x100) else none

/-- The mailbox that a write of word `o` would abort, or find BUSY. -/
def abortMbx (m : Msg) : Option Nat :=
  (regWords m).findSome? fun o => match mbxWord o with | some (t, x) => if x = 0xC8 ∧ nbit (regWord m o) 0 then some t else none | none => none

def busyMbx (s : State) (m : Msg) : Option Nat :=
  (regWords m).findSome? fun o => match mbxWord o with | some (t, x) => if x = 0 ∧ (mbxGet s t).busy then some t else none | none => none

def regKind (s : State) (m : Msg) : RegKind :=
  match dataMbx m with
  | some t => if isWr m then .dataWrite t else .dataRead t
  | none =>
    if !isWr m then .read
    else match busyMbx s m, abortMbx m with
      | some t, _ => .cmdBusy t
      | none, some t => .abort t
      | none, none =>
        let w := regWords m
        if w.contains 0x164 then .evqPop else if w.contains 0x1A4 then .errPop else if w.contains 0x1A8 then .fatalClr
        else if w.contains 0x124 then .alert else .plain

/-- Every word of a WR is written, the low one first. -/
def writeWords (m : Msg) (s : State) : State := (regWords m).foldl (fun s o => regWrite o (regWord m o) s) s

/-- DATA of a REG-space RD with its 32-bit words. -/
def regAnswer (r : RegReq) (l : List Nat) (s : State) : State :=
  let v := l.foldr (fun x a => x + 2 ^ 32 * a) 0
  let j := { subjMsg s r.msg with tc := r.tc }
  dataTo (dport r.port) r.msg j St.ok 0 0 (linePut 0 (hOff r.msg) (hLen r.msg) v) (occP (dport r.port) 0x16 j (hLen r.msg) s)

/-- COMP of a REG-space request. -/
def regComp (r : RegReq) (st : Nat) (s : State) : State := compTo (dport r.port) r.msg { subjMsg s r.msg with tc := r.tc } st 0 s

/-- A WR has been performed. -/
def regDone (r : RegReq) (s : State) : State :=
  regComp r St.ok (occP (dport r.port) 0x17 { subjMsg s r.msg with tc := r.tc } (hLen r.msg) s)

/-- The request reads the counter window (Table 14.3). -/
def inCtrWindow (m : Msg) : Bool := 0x2000 ≤ hAddr m && hAddr m < 0x3000

/-- REG_ACCESS (R19): the oldest request of a port's REG queue reaches the register hardware. A read of a register is performed
there, one of the counter window at the end of the SCLK (R287); a write, or an access to mailbox DATA, takes its place among the requests that the hardware performs. -/
def execRegAccess (p : DPort) (s : State) : Out3 :=
  .next (
    let x := portGet s p
    match x.regq with
    | [] => s
    | r :: rest =>
      let s := regFill p (portSet p { x with regq := rest } s)
      if isWr r.msg || (dataMbx r.msg).isSome then { s with regHw := s.regHw ++ [r] }
      else if inCtrWindow r.msg && pdOn s 76 then capAt (.win r) s
      else regAnswer r ((regWords r.msg).map (regRead s)) s)

/-- The requests at a place, and the state with others there. -/
def regAt (s : State) : RegLoc → List RegReq
  | .d0 => s.d0.regq
  | .d1 => s.d1.regq
  | .hw => s.regHw

def setRegAt (l : List RegReq) (s : State) : RegLoc → State
  | .d0 => regFill .d0 { s with d0 := { s.d0 with regq := l } }
  | .d1 => regFill .d1 { s with d1 := { s.d1 with regq := l } }
  | .hw => { s with regHw := l }

/-- REG_TIMEOUT (R38). -/
def execRegTimeout (l : RegLoc) (k : Nat) (s : State) : Out3 :=
  .next (match (regAt s l)[k]? with
    | some r => if Config.timeoutTicks ≤ s.clk.run - r.at_ then regComp r St.timeout (setRegAt ((regAt s l).eraseIdx k) s l) else s
    | none => s)

/-- Performs the `k`-th request of the register hardware if its row is `sel`. -/
def hwRun (k : Nat) (sel : RegKind → Bool) (f : RegReq → State → State) (s : State) : State :=
  match s.regHw[k]? with
  | some r => if sel (regKind s r.msg) then f r { s with regHw := s.regHw.eraseIdx k } else s
  | none => s

/-- A write whose words do all that it does. -/
def hwWrite (r : RegReq) (s : State) : State := regDone r (writeWords r.msg s)

/-- REGISTER_WRITE (R256, R259). -/
def execRegisterWrite (k : Nat) (s : State) : Out3 := .next (hwRun k (· == .plain) hwWrite s)
/-- EVQ_POP (R258). -/
def execEvqPop (k : Nat) (s : State) : Out3 := .next (hwRun k (· == .evqPop) hwWrite s)
/-- ERR_POP (R367). -/
def execErrPop (k : Nat) (s : State) : Out3 := .next (hwRun k (· == .errPop) hwWrite s)
/-- FATAL_CLR (R366). -/
def execFatalClr (k : Nat) (s : State) : Out3 := .next (hwRun k (· == .fatalClr) hwWrite s)
/-- ALERT_CLEAR (R285). -/
def execAlertClear (k : Nat) (s : State) : Out3 := .next (hwRun k (· == .alert) hwWrite s)
/-- CMD_WHILE_BUSY (R259). -/
def execCmdWhileBusy (k : Nat) (s : State) : Out3 :=
  .next (hwRun k (fun x => match x with | .cmdBusy _ => true | _ => false) hwWrite s)

/-! ### Mailbox streams (R261, R262) -/

/-- A DATA write enters its words if the input FIFO has room for them. -/
def dataIn (t : Nat) (r : RegReq) (s : State) : State :=
  let m := mbxGet s t
  let ws := (regWords r.msg).map fun o => BitVec.ofNat 32 (regWord r.msg o)
  regDone r (mbxFeed t (mbxSet t { m with inF := m.inF ++ ws } s))

/-- No earlier request of the register hardware accesses mailbox `t`'s DATA in the same way: words keep their order (R261). -/
def firstData (k : Nat) (s : State) : Bool :=
  match s.regHw[k]? with
  | some r => (s.regHw.take k).all fun q => regKind s q.msg != regKind s r.msg
  | none => false

/-- MAILBOX_DATA_WRITE (R261): waits while the FIFO is full. -/
def execMailboxDataWrite (k : Nat) (s : State) : Out3 :=
  .next (match s.regHw[k]? with
    | some r =>
      match regKind s r.msg with
      | .dataWrite t =>
        if firstData k s && (mbxGet s t).inF.length + (regWords r.msg).length ≤ 64 then dataIn t r { s with regHw := s.regHw.eraseIdx k } else s
      | _ => s
    | none => s)

/-- One word leaves the output FIFO, or 0 if no command runs; `none` while a word may still come. -/
def dataWord (t : Nat) (s : State) : Option (Nat × State) :=
  let m := mbxGet s t
  match m.outF with
  | w :: rest => some (w.toNat, mbxOutTry t (mbxSet t { m with outF := rest, wait := s.clk.run } s))
  | [] => if m.busy then none else some (0, s)

/-- The words of a DATA read, in order. -/
def dataWords (t : Nat) : Nat → State → Option (List Nat × State)
  | 0, s => some ([], s)
  | n + 1, s => match dataWord t s with
    | none => none
    | some (w, s) => (dataWords t n s).map fun x => (w :: x.1, x.2)

/-- MAILBOX_DATA_READ (R261): waits while a running command has delivered too few words. -/
def execMailboxDataRead (k : Nat) (s : State) : Out3 :=
  .next (match s.regHw[k]? with
    | some r =>
      match regKind s r.msg with
      | .dataRead t =>
        if !firstData k s then s
        else match dataWords t (regWords r.msg).length { s with regHw := s.regHw.eraseIdx k } with
        | some (l, s) => regAnswer r l s
        | none => s
      | _ => s
    | none => s)

/-- The command of mailbox `t` waits on its stream. -/
def onStream (m : Mbx) : Bool := match m.phase with | .input _ => true | .output => true | _ => false

/-- What an ended stream command reports: entries or records already delivered (Tables 13.9, 13.13). -/
def streamRes (s : State) (t : Nat) : List Nat :=
  let m := mbxGet s t
  if m.phase = .output ∧ m.op = 0x61 then m.got.map BitVec.toNat
  else if m.phase = .output ∧ m.op = 3 then
    let w := tblWords (argF s t 0 16 8)
    [(argF s t 1 0 13 * w - m.pend.length) / w]
  else []

/-- A command that waits on its stream completes with EINVAL (R262). -/
def streamEnd (t : Nat) (s : State) : State := mbxDone t Mc.einval (streamRes s t) (inspDrop t s)

/-- Both FIFOs empty, and a command that waits on the stream ends. -/
def abortStream (t : Nat) (s : State) : State :=
  let s := if onStream (mbxGet s t) then streamEnd t s else s
  mbxSet t { mbxGet s t with inF := [], outF := [] } s

/-- DRESET_ABORT (R262). -/
def execDresetAbort (k : Nat) (s : State) : Out3 :=
  .next (match s.regHw[k]? with
    | some r =>
      match regKind s r.msg with
      | .abort t => regDone r (abortStream t (writeWords r.msg { s with regHw := s.regHw.eraseIdx k }))
      | _ => s
    | none => s)

/-- MAILBOX_STREAM_TIMEOUT (R262). -/
def execMailboxStreamTimeout (t : Fin 16) (s : State) : Out3 :=
  .next (let m := mbxGet s t.val
    if onStream m && Config.streamTicks ≤ s.clk.run - m.wait then streamEnd t.val s else s)

/-! ### Notices (R14, R211, R236, R240, R258, R367) -/

/-- The cause that the steward raises when it keeps a record of a kind; the other kinds' causes are set with their events. -/
def noticeCause (kind : Nat) : Option Nat :=
  match kind with
  | 1 => some Cause.tallyDeadline
  | 2 => some Cause.guaranteeMiss
  | 3 => some Cause.derate
  | _ => none

/-- A notice that has crossed the link. -/
def noticeArrive (n : Notice) (s : State) : State :=
  match n with
  | .event k r =>
    let s := evqPush k.toNat r s
    match noticeCause k.toNat with | some c => raise c s | none => s
  | .error r => errArrive r s

/-- EVENT_NOTICE (R14): notices queue while the steward core is in reset or switching slots (Table 1.7). -/
def execEventNotice (s : State) : Out3 :=
  .next (if !coreRuns s then s
    else match s.log.notices with
      | [] => s
      | n :: rest => noticeArrive n { s with log := { s.log with notices := rest } })

end Sys2Proof.Machine
end

