-- ==== Sys2Proof/Machine/PowerCmds.lean ====
section
/-! DEFINITION. Meanings: time, scrub, heartbeat, fabric time, power, reset, boot, egress. -/

namespace Sys2Proof.Machine

/-! ### Time-driven steps -/

/-- REGULATION_WINDOW_END (R234, R236). -/
def execRegulationWindowEnd (c : Fin 16) (s : State) : Out3 := .next (if winDue s c.val then winEnd c.val s else s)

/-- The next scrub instant is at or past (R360). -/
def scrubDue (s : State) : Bool :=
  s.pins.present && s.clk.ftv && s.clk.seen && s.srv.scrubG.toNat + (s.srv.scrubK + 1) * (partScrub s.t * 1024) ≤ ftN s && partScrub s.t != 0

/-- The data of the line at `k`, if it is valid in a bank that is ON and not retired. -/
def scrubWay (s : State) (k : Nat) : State :=
  if (tagGet s k).v && pdOn s (bankOfKey k) && !(bankGet s (bankOfKey k)).retired then (wayCheck none k s).2 else s

/-- A scrub step visits a set. -/
def scrubSet (set : Nat) (s : State) : State :=
  let s := sedgeCheck none (set % 4096) (setCheck none set (useSlot set false none s))
  ((List.range 32).map (wkey set)).foldl scrubWay s

/-- The index of the last scrub instant at or before FT. -/
def scrubIdx (s : State) : Nat := (ftN s - s.srv.scrubG.toNat) / (partScrub s.t * 1024)

/-- PATROL_SCRUB_STEP (R360). -/
def execPatrolScrubStep (s : State) : Out3 :=
  .next (if scrubDue s then
      let k := scrubIdx s
      let s := scrubSet s.srv.scrubPos s
      { s with srv := { s.srv with scrubK := k, scrubPos := (s.srv.scrubPos + 1) % 16384 } }
    else s)

/-- LEAK_DECAY (R361): once, however many instants have passed. -/
def execLeakDecay (s : State) : Out3 :=
  .next (if s.pins.present && s.clk.ftv && s.clk.seen && s.srv.leakK != ftN s / 2 ^ 30 then
      let s := { s with srv := { s.srv with leakK := ftN s / 2 ^ 30 } }
      (List.range 64).foldl (fun s b => let k := bankGet s b; bankSet b { k with leak := k.leak - 1 } s) s
    else s)

/-- LIVE (R347). -/
def execLive (s : State) : Out3 :=
  .next (if s.pins.present && s.pins.liveAt + 256 ≤ s.clk.sclk then
      liveSend s.pins.liveCnt { s with pins := { s.pins with liveAt := s.pins.liveAt + 256, liveCnt := s.pins.liveCnt + 1 } }
    else s)

/-! ### Fabric time (R340) -/

/-- A sample follows the one before as valid fabric time does: FT_SYNC is 1, and the value is 1 to 3 ticks above. -/
def ftFollows (a b : FtSample) : Bool :=
  b.sync && decide (grayDecode a.count < grayDecode b.count ∧ grayDecode b.count ≤ grayDecode a.count + 3)

/-- A run of samples with FT_SYNC 1, each following the one before. -/
def ftSteady : List FtSample → Bool
  | [] => true
  | [a] => a.sync
  | a :: b :: l => a.sync && ftFollows a b && ftSteady (b :: l)

/-- The value that a run of samples starts at, and the one that it ends at. -/
def ftEnds (run : List FtSample) : Nat × Nat :=
  ((run.head?.map fun x => grayDecode x.count).getD 0, (run.getLast?.map fun x => grayDecode x.count).getD 0)

/-- The run makes FT valid: it has advanced 1,024 ticks, and the bus has passed the held value `ft`. -/
def ftRunOk (ft : FT) (run : List FtSample) : Bool :=
  ftSteady run && decide ((ftEnds run).1 + 1024 ≤ (ftEnds run).2) && decide (ft.toNat ≤ (ftEnds run).2)

/-- FT_VALID: FT capture takes the samples `run` from the bus. At the end of a run that makes FT valid the datapath FT value moves to the
bus value; other samples are kept behind the last one before them (log 3). -/
def execFtValid (run : List FtSample) (s : State) : Out3 :=
  .next (if s.pins.porstN && !s.clk.ftv && ftRunOk s.clk.ft run then
      let bus : FT := BitVec.ofNat 64 (ftEnds run).2
      let s := { s with clk := { s.clk with ft := bus, bus := bus, ftv := true, ftIn := run } }
      if !s.pins.present then s else if s.clk.seen then winRestart s else ftFirst s
    else { s with clk := { s.clk with ftIn := s.clk.ftIn.getLast?.toList ++ run } })

/-- FT_INVALID: a sample taken that does not follow the one before ends validity, and the datapath FT value holds. -/
def execFtInvalid (s : State) : Out3 :=
  .next (if ftSteady s.clk.ftIn then s else { s with clk := { s.clk with ftv := false } })

/-! ### Power (R342) -/

/-- PM_GRANT. -/
def execPmGrant (s : State) : Out3 := .next (if s.pins.pmReq then { s with pins := { s.pins with pmGnt := true } } else s)

/-- POWER_TRANSITION_DONE. -/
def execPowerTransitionDone (s : State) : Out3 := .next (if s.pins.pmReq && s.pins.pmGnt then powerDone s else s)

/-! ### Resets and boot (R343, R344) -/

/-- PORST_ASSERT. -/
def execPorstAssert (s : State) : Out3 := .next (if s.pins.porstN then sliceReset s else s)

/-- PORST_RELEASE: the straps are sampled, and the loader asks for word 0. -/
def execPorstRelease (chip : BitVec 14) (sreqid : BitVec 12) (s : State) : Out3 :=
  .next (if s.pins.porstN then s
    else { s with core := { s.core with boot := some [] },
                  pins := { s.pins with porstN := true, vddCore := true, chipId := chip, sreqid := sreqid, bootReq := true, bootAddr := 0 } })

/-- BOOT_WORD: an exchange of the boot port ends with `data`. -/
def execBootWord (data : BitVec 32) (s : State) : Out3 :=
  .next (match s.core.boot with
    | some l => if s.pins.bootReq then bootTake data l s else s
    | none => s)

/-- DRST_ASSERT. -/
def execDrstAssert (s : State) : Out3 :=
  .next (if s.pins.drstN then datapathLost { s with pins := { s.pins with drstN := false } } else s)

/-- DRST_RELEASE: the steward brings the datapath back. -/
def execDrstRelease (s : State) : Out3 :=
  .next (if s.pins.drstN then s
    else
      let s := { s with pins := { s.pins with drstN := true } }
      if s.core.run then startBring s else s)

/-- SUPPLY_FAIL: VDD_CORE is lost until the whole slice is reset. -/
def execSupplyFail (s : State) : Out3 :=
  .next (if s.pins.porstN && s.pins.vddCore then datapathLost { s with pins := { s.pins with vddCore := false } } else s)

/-! ### Egress (R333, Table 8.3) -/

/-- An HTE that only waited for this response to leave closes. -/
def hteLeft (m : Msg) (s : State) : State :=
  if hOpcode m = Op.comp ∨ hOpcode m = Op.data then
    match s.home.htes.find? fun h => h.done && ofOpener h m && hSrc h.req.msg == hDst m with
    | some h => hteClose h.id s
    | none => s
  else s

/-- A message as it leaves: a response with status OK carries POISON once a fatal error is in force (R365). -/
def asSent (s : State) (o : Out) : Msg :=
  if o.subj.isSome && hStatus o.msg == St.ok && s.log.fatalEff then
    { o.msg with hdr := o.msg.hdr ||| BitVec.ofNat 256 (St.poison * 2 ^ 162) }
  else o.msg

/-- A message has left; a response with status POISON is counted, and one of the S port after its bound (R96).
Mace's DATA leaves on D ports only. -/
def outLeft (p : Port) (o : Out) (s : State) : State :=
  let s := match o.subj with
    | some j => if hStatus (asSent s o) == St.poison then occP p 0xC2 j 1 s else s
    | none => s
  let s := hteLeft o.msg (fctr 6 (64 * o.msg.beats.length) s)
  match o.post with
  | .none => s
  | .maceData slot k line => if p = .s then s else maceDataLeft slot k line s
  | .reed at_ bound =>
    match o.subj with
    | some j => if at_ + bound ≤ s.clk.sclk then occP p 0x53 j 1 s else s
    | none => s

/-- The header on a port's egress lane. -/
def setOh (p : DPort) (m : Msg) (s : State) : State :=
  match p with
  | .d0 => { s with pins := { s.pins with oh0 := some m } }
  | .d1 => { s with pins := { s.pins with oh1 := some m } }

/-- EGRESS_HEADER_TRANSFER: the oldest header whose channel the mesh takes. -/
def execEgressHeaderTransfer (p : DPort) (ordy : BitVec 5) (s : State) : Out3 :=
  .next (
    let x := portGet s p
    let i := x.out.findIdx fun o => nbit ordy.toNat (hVc o.msg)
    match x.out[i]? with
    | none => s
    | some o => outLeft (dport p) o (setOh p (asSent s o) (portSet p { x with out := x.out.eraseIdx i } s)))

end Sys2Proof.Machine
end

