-- ==== Sys2Proof/Machine/Tick.lean ====
section
/-! DEFINITION. The tick: the end of one SCLK, when the command queue is empty (log 2). -/

namespace Sys2Proof.Machine

/-! ### Counting (R287, R292, R296, Table 14.4) -/

/-- Requests that have passed classification and map to a tag pipe, at the D ports (R296). -/
def portWaits (s : State) (p : Nat) : List Req :=
  ((s.d0.ing ++ s.d0.skid.toList ++ s.d1.ing ++ s.d1.skid.toList).map Ing.req).filter fun r =>
    hAspace r.msg != 2 && !isTallyOp (hOpcode r.msg) && hOpcode r.msg != Op.maceSub && reqPipe s r == p

/-- The oldest of them. -/
def oldestWait (s : State) (p : Nat) : Option Req :=
  (portWaits s p).foldl (fun a r => match a with | none => some r | some b => if r.at_ < b.at_ then some r else some b) none

/-- The lookup slot of tag pipe `p` in an SCLK (R296). -/
def pipeTick (s : State) (p : Nat) : State :=
  match s.ctr.slots.find? (·.pipe == p) with
  | some x =>
    let s := fctr (if x.retired then 1 else 2) 1 { s with ctr := { s.ctr with slots := s.ctr.slots.erase x } }
    let ev := if x.retired then 0xB0 else 0xB1
    match x.subj with
    | some j => occAt p ev .r j 1 s
    | none => occAt p ev .u subjNone 1 s
  | none =>
    match oldestWait s p with
    | some r => occAt p 0xB3 .r (subjReq r) 1 (fctr 4 1 s)
    | none => occAt p 0xB2 .u subjNone 1 (fctr 3 1 s)

/-- F0 and the four slots of an SCLK; without PD76 nothing is counted. -/
def slotTick (s : State) : State :=
  if pdOn s 76 then [0, 1, 2, 3].foldl pipeTick (fctr 0 1 s) else { s with ctr := { s.ctr with slots := [] } }

/-- Events that every SCLK has. -/
def levelTick (s : State) : State :=
  let s := occU 0x2B s.mp.miss.length (occU 0x01 1 s)
  let s := occU 0x2D (b2n (48 ≤ s.mp.mire.length)) (occU 0x2C s.mp.mire.length s)
  let s := occU 0x42 (b2n (s.mp.rcr = 0 && s.mp.miss.any (·.st == .waitIssue))) s
  occU 0x94 s.tal.parked.length s

/-! ### Overflows and samples (R293, R298, R303 to R306, Table 14.9) -/

/-- An overflow's sample under SMODE. -/
def ovfSample (s : State) (x : Nat × Option (Subj × Nat)) : State :=
  let e := ctE s.t x.1
  let c := capture s x.1
  if ctSmode e = 1 then
    let p : NatPend := { n := x.1, sclk := s.clk.sclk, ft := s.clk.ft, val := BitVec.ofNat 48 c.val, ovf := c.ovf, rc := c.rc, subj := none }
    { s with ctr := { s.ctr with native := s.ctr.native ++ [p] } }
  else if ctSmode e = 2 then
    match x.2 with
    | some j => sampTake x.1 2 (some (preciseRec (ftN s) c.val x.1 (ctEvent e) j.2 c.rc j.1)) s
    | none => s
  else s

/-- Counters that overflowed in this SCLK with OVFINT 1. -/
def ovfMask (s : State) : Nat :=
  s.ctr.ovl.foldl (fun a x => if ctOvfint (ctE s.t x.1) && !nbit a x.1 then a + 2 ^ x.1 else a) 0

/-- What the SCLK's overflows do: samples, the CTR cause, one event record, triggers. -/
def ovfTick (s : State) : State :=
  let m := ovfMask s
  let s := s.ctr.ovl.foldl ovfSample s
  if m = 0 then s
  else trigger 2 0 (bufMask s tcTrigovf) (notice (.event 4 (pack 256 [(192, 64, ftN s), (128, 64, m)])) (raise Cause.ctr s))

/-- Segment-end samples. -/
def segTick (s : State) : State :=
  (List.range 64).foldl (fun s n => if (segEnd s n).isSome then sampTake n 0 (some (segRec s n)) s else s) s

/-- The SCLK's sample records enter the buffer, by counter and then by cause (R306). -/
def sampTick (s : State) : State :=
  if s.ctr.snew.isEmpty then s
  else
    let l := (List.range 64).flatMap fun n => [0, 1, 2].flatMap fun k => s.ctr.snew.filter fun x => x.1 == n && x.2.1 == k
    l.foldl (fun a x => sampPush (x.2.2.getD (periodicRec s x.1)) a) s

/-- Resets and segment tags take effect, and the SCLK's lists empty. -/
def resetTick (s : State) : State :=
  let cs := (List.range 64).foldl (fun a n => sset (fun _ => Ctr.reset) a n (ctAfter s n)) s.ctr.ctr
  { s with ctr := { s.ctr with ctr := if s.ctr.rst.isEmpty && s.ctr.cls.isEmpty then s.ctr.ctr else cs, cls := [], rst := [], ovl := [], snew := [] } }

/-- One capture of the SCLK, with the values that it ends with. -/
def capDo (c : CapReq) (s : State) : State :=
  match c with
  | .read t => readOut t s
  | .dump => dumpTake s
  | .win r => regAnswer r ((regWords r.msg).map (regRead s)) s

/-- The captures that the SCLK's commands asked for (R287, R299). -/
def capTick (s : State) : State := s.ctr.caps.foldl (fun s c => capDo c s) { s with ctr := { s.ctr with caps := [] } }

/-- The end of an SCLK for the counters. -/
def ctrTick (s : State) : State := resetTick (capTick (sampTick (segTick (ovfTick (settle (levelTick (slotTick s)))))))

/-! ### Ports -/

/-- A class below QRES is granted credits as the common room allows (R227 step 4). -/
def portTop (g : Tables) (x : PortSt) : PortSt :=
  let sum := (List.range 16).foldl (fun a c => a + max (qGet x c) (clsQres g c)) 0
  if 128 < sum then x
  else (List.range 16).foldl (fun x c => if qGet x c < clsQres g c then owedSet c (owedGet x c + (clsQres g c - qGet x c)) (qSet c (clsQres g c) x) else x) x

/-- Classes that the credit lane serves in an SCLK: one credit each (R332). -/
def grantBits (x : PortSt) : BitVec 16 := BitVec.ofNat 16 ((List.range 16).foldl (fun a c => if owedGet x c = 0 then a else a + 2 ^ c) 0)

def grantSent (x : PortSt) : PortSt := (List.range 16).foldl (fun x c => owedSet c (owedGet x c - 1) x) x

/-- Credits and REQ-class ready of the D ports (R331, R332). -/
def portTick (s : State) : State :=
  if !s.pins.present then s
  else
    let a := portTop s.t s.d0
    let b := portTop s.t s.d1
    { s with d0 := grantSent a, d1 := grantSent b,
             pins := { s.pins with cgnt0 := grantBits a, cgnt1 := grantBits b, irdy0 := a.skid.isNone, irdy1 := b.skid.isNone } }

/-- The temperature reports accepted in the SCLK are applied, D0's before D1's (R238). -/
def rptTick (s : State) : State :=
  let l := s.regul.rpts
  (l.filter (·.1 == .d0) ++ l.filter (·.1 == .d1)).foldl (fun s x => tempReport x.2 (portOrd (dport x.1)) s)
    { s with regul := { s.regul with rpts := [] } }

/-- One S response leaves (R334). -/
def sTick (s : State) : State :=
  match s.sout with
  | [] => { s with pins := { s.pins with ohS := none } }
  | o :: rest => outLeft .s o { s with sout := rest, pins := { s.pins with ohS := some (asSent s o) } }

/-! ### Time -/

/-- The clock in the next SCLK. While FT is valid the bus value advances, and the datapath FT value follows it to within 2 ticks (R26). -/
def clockTick (c : Clock) : Clock :=
  if c.ftv then
    let b := c.bus.toNat + (Config.busStep c.sclk).val
    let n := min 2 (min (max (Config.ftStep c.sclk).val (b - 2 - c.ft.toNat)) (b + 2 - c.ft.toNat))
    { c with sclk := c.sclk + 1, run := c.run + n, ft := c.ft + BitVec.ofNat 64 n, bus := BitVec.ofNat 64 b }
  else { c with sclk := c.sclk + 1 }

/-- The next SCLK: FT advances, upsets strike, an INTR may be sent again, a fatal error is in force (R26, R257, R352, R365). -/
def timeTick (s : State) : State :=
  let c := clockTick s.clk
  { s with clk := c, bad := s.bad ++ Config.upset s.clk.sclk, ints := { s.ints with sent := false }, log := { s.log with fatalEff := s.log.fatalSeen } }

/-- An error in a live table, a key or the poison list is found in the SCLK in which it lies while the datapath is present (log 4). -/
def tableTick (s : State) : State :=
  if !s.pins.present then s
  else
    (s.bad.filter fun x => match x with | .table _ | .key _ | .plist _ => true | _ => false).foldl (fun s x => ctlUse x none s) s

/-- The first SCLK whose FT value is at or past the target of an armed COMMIT starts with its generation (R24). -/
def commitTick (s : State) : State :=
  match s.gen.armed with
  | some a => if commitDue s a then genInstant a s else s
  | none => s

/-- One SCLK passes. While PORST_N is 0 only time does. -/
def tick (s : State) : State :=
  if !s.pins.porstN then timeTick s
  else presentTry (pmTick (tableTick (commitTick (timeTick (portTick (peatEnd (ctrTick (tallyTick (rptTick (sTick s))))))))))

/-- COMMIT_APPLY (R24, R265, R268, R270): with the instant come, the SCLK ends and the next one starts with the generation, so that no SCLK has
two of them. -/
def execCommitApply (s : State) : Out3 :=
  .next (match s.gen.armed with
    | some a => if commitDue s a && s.pins.porstN then tick s else s
    | none => s)

end Sys2Proof.Machine
end

