-- ==== Sys2Proof/Machine/Dispatch.lean ====
section
/-! DEFINITION. The dispatch of commands to their meanings: one arm for each constructor of Instr. -/

namespace Sys2Proof.Machine

/-- The effect of a command on everything but the queue. -/
def exec (i : Instr) (s : State) : Host.Outcome State Fault Refusal :=
  match i with
  | .requestIngress p m qc => Sys2Proof.Machine.execRequestIngress p m qc s
  | .sPortRequest m => Sys2Proof.Machine.execSPortRequest m s
  | .creditLend p qwant => Sys2Proof.Machine.execCreditLend p qwant s
  | .rd p => Sys2Proof.Machine.execRd p s
  | .wr p => Sys2Proof.Machine.execWr p s
  | .red p => Sys2Proof.Machine.execRed p s
  | .atom p => Sys2Proof.Machine.execAtom p s
  | .twait p => Sys2Proof.Machine.execTwait p s
  | .tread p => Sys2Proof.Machine.execTread p s
  | .chainRd => Sys2Proof.Machine.execChainRd s
  | .maceSub p => Sys2Proof.Machine.execMaceSub p s
  | .rdShr p => Sys2Proof.Machine.execRdShr p s
  | .rdUnq p => Sys2Proof.Machine.execRdUnq p s
  | .upgrade p => Sys2Proof.Machine.execUpgrade p s
  | .wb p => Sys2Proof.Machine.execWb p s
  | .evict p => Sys2Proof.Machine.execEvict p s
  | .atomC p => Sys2Proof.Machine.execAtomC p s
  | .rdOnce p => Sys2Proof.Machine.execRdOnce p s
  | .regAccess p => Sys2Proof.Machine.execRegAccess p s
  | .regTimeout l k => Sys2Proof.Machine.execRegTimeout l k s
  | .snpAck p m => Sys2Proof.Machine.execSnpAck p m s
  | .compAck p m => Sys2Proof.Machine.execCompAck p m s
  | .dataHome p m => Sys2Proof.Machine.execDataHome p m s
  | .wbData p m => Sys2Proof.Machine.execWbData p m s
  | .hteDeferredWrite h => Sys2Proof.Machine.execHteDeferredWrite h s
  | .hteRelookup k => Sys2Proof.Machine.execHteRelookup k s
  | .homeTimeout h => Sys2Proof.Machine.execHomeTimeout h s
  | .unmatchedAnswer p m => Sys2Proof.Machine.execUnmatchedAnswer p m s
  | .unexpectedMessage p m => Sys2Proof.Machine.execUnexpectedMessage p m s
  | .tempRpt p m => Sys2Proof.Machine.execTempRpt p m s
  | .heldRequestRepresent p k => Sys2Proof.Machine.execHeldRequestRepresent p k s
  | .mCommandIssue => Sys2Proof.Machine.execMCommandIssue s
  | .mCreditReturn write => Sys2Proof.Machine.execMCreditReturn write s
  | .mReadData e d poi => Sys2Proof.Machine.execMReadData e d poi s
  | .fillInstall e => Sys2Proof.Machine.execFillInstall e s
  | .mWriteAck t err => Sys2Proof.Machine.execMWriteAck t err s
  | .sealMacReadData e status mac => Sys2Proof.Machine.execSealMacReadData e status mac s
  | .macWriteComp txid status => Sys2Proof.Machine.execMacWriteComp txid status s
  | .prefetchFill => Sys2Proof.Machine.execPrefetchFill s
  | .exactStep => Sys2Proof.Machine.execExactStep s
  | .twaitRelease k => Sys2Proof.Machine.execTwaitRelease k s
  | .tallyDeadline k => Sys2Proof.Machine.execTallyDeadline k s
  | .rehashSweepStep => Sys2Proof.Machine.execRehashSweepStep s
  | .sedgeSweepStep => Sys2Proof.Machine.execSedgeSweepStep s
  | .conversionSweepStep => Sys2Proof.Machine.execConversionSweepStep s
  | .commitApply => Sys2Proof.Machine.execCommitApply s
  | .fenAllocZeroed k => Sys2Proof.Machine.execFenAllocZeroed k s
  | .fenFreeReclaim k => Sys2Proof.Machine.execFenFreeReclaim k s
  | .transferLineIssue seg => Sys2Proof.Machine.execTransferLineIssue seg s
  | .transferLineResponse txid status d => Sys2Proof.Machine.execTransferLineResponse txid status d s
  | .flipReady seg => Sys2Proof.Machine.execFlipReady seg s
  | .flipEffect seg => Sys2Proof.Machine.execFlipEffect seg s
  | .regionOpen rid => Sys2Proof.Machine.execRegionOpen rid s
  | .resolveReady rid => Sys2Proof.Machine.execResolveReady rid s
  | .resolveStart rid => Sys2Proof.Machine.execResolveStart rid s
  | .resolveLineWrite rid => Sys2Proof.Machine.execResolveLineWrite rid s
  | .resolveDeadline rid => Sys2Proof.Machine.execResolveDeadline rid s
  | .maceIndexRead slot => Sys2Proof.Machine.execMaceIndexRead slot s
  | .maceIndexResponse txid status d => Sys2Proof.Machine.execMaceIndexResponse txid status d s
  | .maceElementIssue => Sys2Proof.Machine.execMaceElementIssue s
  | .maceElement slot id => Sys2Proof.Machine.execMaceElement slot id s
  | .maceEnd slot => Sys2Proof.Machine.execMaceEnd slot s
  | .maceRecordComp txid status => Sys2Proof.Machine.execMaceRecordComp txid status s
  | .getInfo => Sys2Proof.Machine.execGetInfo s
  | .setTable => Sys2Proof.Machine.execSetTable s
  | .getTable => Sys2Proof.Machine.execGetTable s
  | .commit => Sys2Proof.Machine.execCommit s
  | .commitCancel => Sys2Proof.Machine.execCommitCancel s
  | .fenAlloc => Sys2Proof.Machine.execFenAlloc s
  | .fenFree => Sys2Proof.Machine.execFenFree s
  | .fenLoad => Sys2Proof.Machine.execFenLoad s
  | .fenFlush => Sys2Proof.Machine.execFenFlush s
  | .fenFlip => Sys2Proof.Machine.execFenFlip s
  | .accOpen => Sys2Proof.Machine.execAccOpen s
  | .accResolve => Sys2Proof.Machine.execAccResolve s
  | .bankOffline => Sys2Proof.Machine.execBankOffline s
  | .bankOnline => Sys2Proof.Machine.execBankOnline s
  | .bankTrim => Sys2Proof.Machine.execBankTrim s
  | .bankSweepStep b => Sys2Proof.Machine.execBankSweepStep b s
  | .bankTrimCalibrationDone b setting => Sys2Proof.Machine.execBankTrimCalibrationDone b setting s
  | .ctrRead => Sys2Proof.Machine.execCtrRead s
  | .ctrLoad => Sys2Proof.Machine.execCtrLoad s
  | .ctrZero => Sys2Proof.Machine.execCtrZero s
  | .ctrStop => Sys2Proof.Machine.execCtrStop s
  | .ctrStart => Sys2Proof.Machine.execCtrStart s
  | .nativeSampleSubject n => Sys2Proof.Machine.execNativeSampleSubject n s
  | .nativeSampleExpiry n => Sys2Proof.Machine.execNativeSampleExpiry n s
  | .dumpNow => Sys2Proof.Machine.execDumpNow s
  | .dumpRingReset => Sys2Proof.Machine.execDumpRingReset s
  | .dump => Sys2Proof.Machine.execDump s
  | .periodicSample n => Sys2Proof.Machine.execPeriodicSample n s
  | .sampleWrite => Sys2Proof.Machine.execSampleWrite s
  | .dmaWriteComp txid status => Sys2Proof.Machine.execDmaWriteComp txid status s
  | .tierTempGauge readings => Sys2Proof.Machine.execTierTempGauge readings s
  | .traceDmaWrite b => Sys2Proof.Machine.execTraceDmaWrite b s
  | .traceIdleFlush b => Sys2Proof.Machine.execTraceIdleFlush b s
  | .traceDmaComp txid status => Sys2Proof.Machine.execTraceDmaComp txid status s
  | .traceTriggerCmd => Sys2Proof.Machine.execTraceTriggerCmd s
  | .traceRestart => Sys2Proof.Machine.execTraceRestart s
  | .traceFlush => Sys2Proof.Machine.execTraceFlush s
  | .traceStop => Sys2Proof.Machine.execTraceStop s
  | .watchRead => Sys2Proof.Machine.execWatchRead s
  | .watchClear => Sys2Proof.Machine.execWatchClear s
  | .watchArm => Sys2Proof.Machine.execWatchArm s
  | .watchDisarm => Sys2Proof.Machine.execWatchDisarm s
  | .watchScan => Sys2Proof.Machine.execWatchScan s
  | .watchScanStep => Sys2Proof.Machine.execWatchScanStep s
  | .drainHalt => Sys2Proof.Machine.execDrainHalt s
  | .drainHaltDone => Sys2Proof.Machine.execDrainHaltDone s
  | .drainClean => Sys2Proof.Machine.execDrainClean s
  | .drainCleanSweepStep => Sys2Proof.Machine.execDrainCleanSweepStep s
  | .drainEmpty => Sys2Proof.Machine.execDrainEmpty s
  | .drainEmptySweepStep => Sys2Proof.Machine.execDrainEmptySweepStep s
  | .resume => Sys2Proof.Machine.execResume s
  | .inspectLine => Sys2Proof.Machine.execInspectLine s
  | .wfgSnapshot => Sys2Proof.Machine.execWfgSnapshot s
  | .snapshotWriteComp txid status => Sys2Proof.Machine.execSnapshotWriteComp txid status s
  | .fwLoad => Sys2Proof.Machine.execFwLoad s
  | .fwActivate => Sys2Proof.Machine.execFwActivate s
  | .fwReady => Sys2Proof.Machine.execFwReady s
  | .activationRevert => Sys2Proof.Machine.execActivationRevert s
  | .watchdogExpiry => Sys2Proof.Machine.execWatchdogExpiry s
  | .stewardTrap => Sys2Proof.Machine.execStewardTrap s
  | .tenantSwitch => Sys2Proof.Machine.execTenantSwitch s
  | .tenantSweepStep => Sys2Proof.Machine.execTenantSweepStep s
  | .sealKeyLoad => Sys2Proof.Machine.execSealKeyLoad s
  | .sealKeyErase => Sys2Proof.Machine.execSealKeyErase s
  | .invalidCommand => Sys2Proof.Machine.execInvalidCommand s
  | .cmdWhileBusy k => Sys2Proof.Machine.execCmdWhileBusy k s
  | .mailboxDataWrite k => Sys2Proof.Machine.execMailboxDataWrite k s
  | .mailboxDataRead k => Sys2Proof.Machine.execMailboxDataRead k s
  | .dresetAbort k => Sys2Proof.Machine.execDresetAbort k s
  | .mailboxStreamTimeout t => Sys2Proof.Machine.execMailboxStreamTimeout t s
  | .evqPop k => Sys2Proof.Machine.execEvqPop k s
  | .errPop k => Sys2Proof.Machine.execErrPop k s
  | .fatalClr k => Sys2Proof.Machine.execFatalClr k s
  | .alertClear k => Sys2Proof.Machine.execAlertClear k s
  | .registerWrite k => Sys2Proof.Machine.execRegisterWrite k s
  | .regulationWindowEnd c => Sys2Proof.Machine.execRegulationWindowEnd c s
  | .patrolScrubStep => Sys2Proof.Machine.execPatrolScrubStep s
  | .leakDecay => Sys2Proof.Machine.execLeakDecay s
  | .live => Sys2Proof.Machine.execLive s
  | .ftValid run => Sys2Proof.Machine.execFtValid run s
  | .ftInvalid => Sys2Proof.Machine.execFtInvalid s
  | .pmGrant => Sys2Proof.Machine.execPmGrant s
  | .powerTransitionDone => Sys2Proof.Machine.execPowerTransitionDone s
  | .porstAssert => Sys2Proof.Machine.execPorstAssert s
  | .porstRelease chip sreqid => Sys2Proof.Machine.execPorstRelease chip sreqid s
  | .bootWord data => Sys2Proof.Machine.execBootWord data s
  | .drstAssert => Sys2Proof.Machine.execDrstAssert s
  | .drstRelease => Sys2Proof.Machine.execDrstRelease s
  | .supplyFail => Sys2Proof.Machine.execSupplyFail s
  | .egressHeaderTransfer p ordy => Sys2Proof.Machine.execEgressHeaderTransfer p ordy s
  | .eventNotice => Sys2Proof.Machine.execEventNotice s
  | .inspectLineRecord => Sys2Proof.Machine.execInspectLineRecord s

end Sys2Proof.Machine
end

