-- ==== Sys2Proof/Safety.lean ====
section
/-! DEFINITION. What the claims speak of: the parts of the state, what a step leaves as it was, and the safe states. -/

namespace Sys2Proof.Machine

/-- A part of the state. `life` is the pins of presence, reset and the power handshake, which `pins` holds too; `dom` is the
states of the power domains, which `pw` holds too. -/
inductive Part where
  | pending | clk | pins | life | pw | dom | banks | gen | arr | mp | pf | d0 | d1 | sq | sout | regHw | fen | tal | home | regul | mace
  | keys | ctr | peat | mbx | startQ | core | ints | log | srv | bad
deriving DecidableEq, Repr

/-- PRESENT, the resets, VDD_CORE and the handshake of R342. -/
@[reducible] def lifeOf (p : Pins) : Bool × Bool × Bool × Bool × Bool × Nat := (p.present, p.porstN, p.drstN, p.vddCore, p.pmReq, p.pmPd)

/-- Two states agree on a part. -/
@[reducible] def Part.same (s t : State) : Part → Prop
  | .pending => t.pending = s.pending
  | .clk => t.clk = s.clk
  | .pins => t.pins = s.pins
  | .life => lifeOf t.pins = lifeOf s.pins
  | .pw => t.pw = s.pw
  | .dom => t.pw.dom = s.pw.dom
  | .banks => t.banks = s.banks
  | .gen => t.gen = s.gen
  | .arr => t.arr = s.arr
  | .mp => t.mp = s.mp
  | .pf => t.pf = s.pf
  | .d0 => t.d0 = s.d0
  | .d1 => t.d1 = s.d1
  | .sq => t.sq = s.sq
  | .sout => t.sout = s.sout
  | .regHw => t.regHw = s.regHw
  | .fen => t.fen = s.fen
  | .tal => t.tal = s.tal
  | .home => t.home = s.home
  | .regul => t.regul = s.regul
  | .mace => t.mace = s.mace
  | .keys => t.keys = s.keys
  | .ctr => t.ctr = s.ctr
  | .peat => t.peat = s.peat
  | .mbx => t.mbx = s.mbx
  | .startQ => t.startQ = s.startQ
  | .core => t.core = s.core
  | .ints => t.ints = s.ints
  | .log => t.log = s.log
  | .srv => t.srv = s.srv
  | .bad => t.bad = s.bad

/-- From `s` to `t` only the parts of `l` may have changed. -/
structure OnlyChanges (l : List Part) (s t : State) : Prop where
  same : ∀ p, p ∉ l → p.same s t

/-- Domains that stay ON while PRESENT is 1 (Table 16.5): the datapath's own, but for the home, the trace, the keys and the banks. -/
def serviceDomains : List Nat := [64, 65, 66, 67, 69, 70, 71, 72, 73, 74, 76]

/-- PRESENT is 1 only while both resets are released, VDD_CORE stands, and every service domain is ON and not on its way out (R346). -/
def PresentSafe (s : State) : Prop :=
  s.pins.present = true → powered s = true ∧ ∀ n ∈ serviceDomains, pdHeld s n = true

/-- Every store of the state is in its canonical form: keys rise strictly, and no entry equals what an unlisted key reads as. -/
structure Canonical (s : State) : Prop where
  tags : swf (fun _ => TagE.zero) s.arr.tags = true
  data : swf (fun _ => 0) s.arr.data = true
  plru : swf (fun _ => 0) s.arr.plru = true
  dom : swf (fun _ => Power.off) s.pw.dom = true
  banks : swf (fun _ => Bank.reset) s.banks = true
  live : swf tblDflt s.gen.live = true
  shadow : swf tblDflt s.gen.shadow = true
  armed : ∀ a, s.gen.armed = some a → swf tblDflt a.cand = true
  wait : ∀ a, s.gen.wait = some a → swf tblDflt a.cand = true
  q0 : swf (fun _ => 0) s.d0.q = true
  q1 : swf (fun _ => 0) s.d1.q = true
  owed0 : swf (fun _ => 0) s.d0.owed = true
  owed1 : swf (fun _ => 0) s.d1.owed = true
  tal : swf (fun _ => 0) s.tal.val = true
  sedge : swf (fun _ => SedgeE.zero) s.home.sedge = true
  splru : swf (fun _ => 0) s.home.splru = true
  pred : swf (fun _ => PredE.zero) s.home.pred = true
  win : swf (fun _ => Win.zero) s.regul.win = true
  levels : swf (fun _ => 0) s.regul.levels = true
  keys : swf (fun _ => Key.zero) s.keys = true
  ctr : swf (fun _ => Ctr.reset) s.ctr.ctr = true
  f : swf (fun _ => 0) s.ctr.f = true
  bufs : swf (fun _ => TBuf.reset) s.peat.bufs = true
  wat : swf (fun _ => Wat.zero) s.peat.wat = true
  mbx : swf (fun _ => Mbx.reset) s.mbx = true

/-! ### Answers -/

/-- The messages queued for egress on a port, the oldest first. -/
def outOf (s : State) : Port → List Out
  | .d0 => s.d0.out
  | .d1 => s.d1.out
  | .s => s.sout

/-- The message queued last on port `p` of `u` answers request `m` with an opcode and a status: it goes to the requester with what
names the request (R34), and it is a response (R365). -/
structure Answers (u : State) (p : Port) (m : Msg) (op st : Nat) (o : Out) : Prop where
  last : (outOf u p).getLast? = some o
  op : hOpcode o.msg = op
  status : hStatus o.msg = st
  dst : hDst o.msg = hSrc m
  src : hSrc o.msg = chipN u
  txid : hTxid o.msg = hTxid m
  reqid : hReqid o.msg = hReqid m
  wtag : hWtag o.msg = hWtag m
  tc : hTc o.msg = hTc m
  space : hAspace o.msg = hAspace m
  addr : hAddr o.msg = hAddr m
  response : o.subj ≠ none

/-- The ingress entry of a request that arrives with a credit of class `c`. -/
def newEntry (r : Req) (c : BitVec 4) : Ing := { req := r, credit := c, hold := none, held := false, trained := false }

/-- From port `x` to port `y` entry `e` has arrived: it takes an ingress entry if its class holds a credit or the common room has one and
the port holds fewer than 128 entries, else the skid entry (R229, R331). -/
def Placed (g : Tables) (x y : PortSt) (e : Ing) : Prop :=
  if (creditHeld x e.credit.toNat = true ∨ commonRoom g x = true) ∧ x.ing.length < 128 then y.ing = x.ing ++ [e] ∧ y.skid = x.skid
  else y.ing = x.ing ∧ y.skid = some e

/-- The row that performs a write of a kind at place `k` of the register hardware, mailbox DATA and DRESET left out. -/
def writeRow (k : Nat) : RegKind → Option Instr
  | .plain => some (.registerWrite k)
  | .evqPop => some (.evqPop k)
  | .errPop => some (.errPop k)
  | .fatalClr => some (.fatalClr k)
  | .alert => some (.alertClear k)
  | .cmdBusy _ => some (.cmdWhileBusy k)
  | _ => none

/-! ### Mailbox commands -/

/-- Mailbox `t`'s command, of opcode `op`, is at the head of the start queue of a running core, and `rest` follow it (R263). -/
structure Heads (s : State) (op t : Nat) (rest : List Nat) : Prop where
  runs : coreRuns s = true
  queue : s.startQ = t :: rest
  opcode : (mbxGet s t).op.toNat = op

/-- From `s` to `u` mailbox `t`'s command has ended with a status and RES words: BUSY is 0, its bit of BRL_INT_MBX 1 (R259), its
input FIFO empty (R261), every other mailbox as it was. -/
structure Ended (s u : State) (t code : Nat) (res : List Nat) : Prop where
  code : (mbxGet u t).code = BitVec.ofNat 4 code
  res : (mbxGet u t).res = resWords res
  busy : (mbxGet u t).busy = false
  phase : (mbxGet u t).phase = .idle
  inF : (mbxGet u t).inF = []
  bit : u.ints.mbx = s.ints.mbx ||| BitVec.ofNat 16 (2 ^ t)
  others : ∀ j, j ≠ t → mbxGet u j = mbxGet s j

/-- From `s` to `u` mailbox `t`'s command has left the start queue, and its work goes on (R263): it is as BUSY as it was. -/
structure Proceeds (s u : State) (t : Nat) : Prop where
  phase : (mbxGet u t).phase = .work
  busy : (mbxGet u t).busy = (mbxGet s t).busy
  others : ∀ j, j ≠ t → mbxGet u j = mbxGet s j

/-- From `s` to `u` mailbox `t`'s command has delivered `words`: as many as its output FIFO holds are in it; with the last one in,
the command has ended with the results `res`, else the others wait (R261). -/
structure Delivers (s u : State) (t : Nat) (words : List (BitVec 32)) (res : List Nat) : Prop where
  outF : (mbxGet u t).outF = words.take 64
  short : words.length ≤ 64 → Ended s u t 0 res
  long : 64 < words.length → (mbxGet u t).phase = .output ∧ (mbxGet u t).pend = words.drop 64 ∧
    (mbxGet u t).busy = (mbxGet s t).busy ∧ (mbxGet u t).got = res.map (BitVec.ofNat 32) ∧ ∀ j, j ≠ t → mbxGet u j = mbxGet s j

/-- The part that a D port is. -/
def portPart : DPort → Part | .d0 => .d0 | .d1 => .d1

/-! ### Requests at their tag-pipe step -/

/-- Port `p` presents request `r` of its own next: R231 selects it on a D port, and no other port's request of its line goes first (R20);
it is the oldest on S (R94). -/
def Presents (s : State) (p : Port) (r : Req) : Prop :=
  r.port = p ∧ match p with
    | .d0 => yields s .d0 r = false ∧ ∃ x, selectReq s .d0 = some x ∧ x.2.1.req = r
    | .d1 => yields s .d1 r = false ∧ ∃ x, selectReq s .d1 = some x ∧ x.2.1.req = r
    | .s => s.sq.head? = some r

/-- The opcode of the requests that a command of the tag pipes is for (Table 2.7). -/
def stepOf : Instr → Option (Port × Nat)
  | .rd p => some (p, Op.rd)
  | .wr p => some (p, Op.wr)
  | .red p => some (dport p, Op.red)
  | .atom p => some (dport p, Op.atom)
  | .chainRd => some (.s, Op.chainRd)
  | .rdShr p => some (dport p, Op.rdShr)
  | .rdUnq p => some (dport p, Op.rdUnq)
  | .upgrade p => some (dport p, Op.upgrade)
  | .wb p => some (dport p, Op.wb)
  | .evict p => some (dport p, Op.evict)
  | .atomC p => some (dport p, Op.atomC)
  | .rdOnce p => some (dport p, Op.rdOnce)
  | _ => none

/-- Command `c` performs the tag-pipe step of request `r`: a port presents it, or the home looks it up again (R172, R193). -/
def Takes (s : State) (c : Instr) (r : Req) : Prop :=
  r.src = .port ∧
  ((∃ x, stepOf c = some x ∧ hOpcode r.msg = x.2 ∧ Presents s x.1 r) ∨
   (∃ k, c = .hteRelookup k ∧ s.home.relook[k]? = some r ∧ s.srv.halt = false ∧ (s.home.relook.take k).any (sameLine r) = false))

/-- Command `c` performs the step of a MEM request of opcode `op` that finds nothing of its line at the home, on storage without errors. -/
structure TakesMem (s : State) (c : Instr) (r : Req) (op : Nat) : Prop where
  takes : Takes s c r
  opcode : hOpcode r.msg = op
  mem : r.fen = none
  clean : s.bad = []
  noH : hteInH s (hLine r.msg) = none
  noEntry : sedgeFind s (hLine r.msg) = none

/-- What the step of a request may change whatever it finds: the place that held it, the prefetcher, counts, windows, watch windows
and the interrupts they raise, and the messages that wait for egress. -/
def stepParts : List Part := [.d0, .d1, .sq, .sout, .pf, .regul, .ctr, .peat, .ints, .log, .home]

/-- The home's entries and transactions are as they were. -/
def SameHome (s u : State) : Prop := u.home.sedge = s.home.sedge ∧ u.home.splru = s.home.splru ∧ u.home.htes = s.home.htes

/-- Every tag entry but that at `k`, and every line's data, are as they were. -/
def TagsBut (s u : State) (k : Nat) : Prop := ∀ j, j ≠ k → tagGet u j = tagGet s j

/-- The data of every line but that at `k` is as it was. -/
def DataBut (s u : State) (k : Nat) : Prop := ∀ j, j ≠ k → dataGet u j = dataGet s j

/-- Tally `t` has grown by `n`, modulo 2^48, and every other tally is as it was (R203). -/
def TallyGrows (s u : State) (t n : Nat) : Prop :=
  tallyVal u t = (tallyVal s t + n) % 2 ^ 48 ∧ ∀ j, j ≠ t → tallyVal u j = tallyVal s j

/-- The tally that a request adds `n` bytes to, if it adds any: an ATOM_C adds none (R45, R203). -/
def TallyOf (s u : State) (m : Msg) (n : Nat) : Prop :=
  if (hTen m = true ∧ countsTally m = true) ∧ n ≠ 0 then TallyGrows s u (hTally m) n else u.tal = s.tal

/-! ### Mailbox commands that complete or go on -/

/-- What a mailbox command may change whatever it does: its mailbox, the start queue, the interrupt registers and the port of the INTR. -/
def mbxParts : List Part := [.mbx, .startQ, .ints, .d0]

/-- From `s` to `u` the command of mailbox `t`, taken off the start queue before `rest`, has completed; it has changed nothing but `l` and `mbxParts`. -/
structure Completes (s u : State) (t : Nat) (rest : List Nat) (code : Nat) (res : List Nat) (l : List Part) : Prop where
  ended : Ended s u t code res
  queue : u.startQ = rest
  frame : OnlyChanges (l ++ mbxParts) s u

/-- From `s` to `u` the command of mailbox `t`, taken off the start queue before `rest`, has started work that goes on. -/
structure GoesOn (s u : State) (t : Nat) (rest : List Nat) (l : List Part) : Prop where
  proceeds : Proceeds s u t
  queue : u.startQ = rest
  frame : OnlyChanges (l ++ [.mbx, .startQ]) s u

end Sys2Proof.Machine
end

