-- ==== Sys2Proof/Certificates/Slice0/Obligations.lean ====
section
/-! DEFINITION. The statements for the provers. -/

open Sys2Proof Sys2Proof.Machine

/-! ### The queue of commands and the whole machine -/

/-- O1: a step takes the command at the front of the queue (log 2). -/
def Obligations.StepTakesFront : Prop :=
  ∀ (c : Instr) (s : State), step { s with pending := c :: s.pending } = exec c s

/-- with no command waiting, one SCLK passes. While FT is valid the datapath FT value rises by at most 2 ticks, and a value within 2 ticks of the
one on the FT bus stays so (R26); otherwise it is held. The commands that wait, the memory port, the prefetcher, the REG hardware, the keys, the
start queue, the core, the banks and the power domains stay as they were. -/
def Sys2Proof.Machine.TickTime : Prop :=
  ∀ s : State, s.pending = [] → ∃ u, step s = .next u ∧ u.pending = [] ∧ u.clk.sclk = s.clk.sclk + 1 ∧ u.clk.ftv = s.clk.ftv ∧
    (s.clk.ftv = false → u.clk.ft = s.clk.ft) ∧
    (s.clk.ftv = true → s.clk.bus.toNat + 4 < 2 ^ 64 → s.clk.ft.toNat ≤ s.clk.bus.toNat + 2 → s.clk.bus.toNat ≤ s.clk.ft.toNat + 2 →
      s.clk.ft ≤ u.clk.ft ∧ u.clk.ft.toNat ≤ s.clk.ft.toNat + 2 ∧ u.clk.ft.toNat ≤ u.clk.bus.toNat + 2 ∧ u.clk.bus.toNat ≤ u.clk.ft.toNat + 2) ∧
    OnlyChanges [.clk, .pins, .life, .pw, .gen, .arr, .d0, .d1, .sout, .fen, .tal, .home, .regul, .mace, .ctr, .peat, .mbx, .ints, .log, .srv,
      .bad] s u

/-- The derate levels after the reports of an SCLK: D0's are applied before D1's (R238). -/
def Sys2Proof.Machine.reported (s : State) : Store (BitVec 3) :=
  (s.regul.rpts.filter (·.1 == .d0) ++ s.regul.rpts.filter (·.1 == .d1)).foldl
    (fun a x => sset (fun _ => 0) a (fld (hResult x.2) 0 6) (BitVec.ofNat 3 (fld (hResult x.2) 16 3))) s.regul.levels

/-- the end of an SCLK applies the temperature reports accepted in it (R238); one that changes a level leaves a DERATE event with the memory rate
that follows, while fewer than 64 notices wait (R240, R14). -/
def Sys2Proof.Machine.ReportsApplied : Prop :=
  ∀ s : State, s.pending = [] → s.pins.porstN = true →
    (∃ u, step s = .next u ∧ u.regul.levels = reported s ∧ u.regul.rpts = []) ∧
    (∀ (p : DPort) (m : Msg), s.regul.rpts = [(p, m)] → levelOf s (fld (hResult m) 0 6) ≠ fld (hResult m) 16 3 → s.log.notices.length < 64 →
      ∃ u, step s = .next u ∧ .event 3 (pack 256 [(192, 64, ftN s), (184, 8, fld (hResult m) 8 8), (181, 3, fld (hResult m) 16 3),
        (178, 3, levelOf s (fld (hResult m) 0 6)), (172, 6, fld (hResult m) 0 6),
        (159, 13, meff16 { s with regul := { s.regul with levels := reported s } })]) ∈ u.log.notices)

/-- at the end of an SCLK each D port raises every class below QRES to QRES while the reservations fit in 128 entries (R227), and its credit lane
sends one credit of each class that is owed any (R332); it takes REQ-class headers in the next SCLK unless its skid entry is taken (R331). -/
def Sys2Proof.Machine.CreditsGranted : Prop :=
  ∀ (s : State) (p : DPort) (c : Nat), s.pending = [] → s.pins.porstN = true → s.pins.present = true → s.pw.bring = false → s.gen.armed = none →
    Canonical s → c < 16 →
    ∃ u, step s = .next u ∧ irdy u p = (portGet s p).skid.isNone ∧ (portGet u p).ing = (portGet s p).ing ∧
      ((List.range 16).foldl (fun a k => a + max (qGet (portGet s p) k) (clsQres s.t k)) 0 ≤ 128 →
        qGet (portGet u p) c = max (qGet (portGet s p) c) (clsQres s.t c) ∧
        owedGet (portGet u p) c = owedGet (portGet s p) c + (clsQres s.t c - qGet (portGet s p) c) - 1 ∧
        (match p with | .d0 => u.pins.cgnt0 | .d1 => u.pins.cgnt1).getLsbD c =
          decide (0 < owedGet (portGet s p) c + (clsQres s.t c - qGet (portGet s p) c))) ∧
      (128 < (List.range 16).foldl (fun a k => a + max (qGet (portGet s p) k) (clsQres s.t k)) 0 →
        qGet (portGet u p) c = qGet (portGet s p) c ∧ owedGet (portGet u p) c = owedGet (portGet s p) c - 1 ∧
        (match p with | .d0 => u.pins.cgnt0 | .d1 => u.pins.cgnt1).getLsbD c = decide (0 < owedGet (portGet s p) c))

/-- an enabled counter of event SCLK (0x01) that runs and passes its filters counts one in an SCLK without a reset or a segment's end (R287,
R288, R292, Table 14.4); fixed counter F0 counts one, modulo 2^64 (Table 14.3). -/
def Sys2Proof.Machine.SclkCounted : Prop :=
  ∀ (s : State) (n : Nat), s.pending = [] → s.pins.porstN = true → pdOn s 76 = true → s.pw.bring = false → s.gen.armed = none → Canonical s →
    s.ctr.occ = [] → s.ctr.rst = [] → s.ctr.cls = [] → n < 64 → ctEvent (ctE s.t n) = 1 → ctEn (ctE s.t n) = true → (ctrGet s n).run = true →
    ctPasses (ctE s.t n) .u subjNone = true → chained s n = false → (ctrGet s n).val.toNat + 1 < 2 ^ 48 →
    ∃ u, step s = .next u ∧ ctrGet u n = { ctrGet s n with val := (ctrGet s n).val + 1 } ∧ fctrGet u 0 = (fctrGet s 0 + 1) % 2 ^ 64

/-- at the end of an SCLK each parked wait that still waits is marked as passed if its tally has passed its threshold, with the tally's value and
who carried it past (R208, R308); else, if FT has reached its deadline, its report becomes due with the value (R210, R211). -/
def Sys2Proof.Machine.WaitsMarked : Prop :=
  ∀ s : State, s.pending = [] → s.pins.porstN = true → (∀ w ∈ s.tal.parked, w.by_ = none ∧ w.due = none) →
    ∃ u, step s = .next u ∧ u.tal.val = s.tal.val ∧ u.tal.adds = [] ∧ u.tal.parked.length = s.tal.parked.length ∧
      ∀ (i : Nat) (w x : Parked), s.tal.parked[i]? = some w → u.tal.parked[i]? = some x →
        (passed (tallyVal s w.tally.toNat) w.thresh.toNat = true →
          x = { w with by_ := some ((adderOf s.tal.adds w.tally.toNat).getD (s.pins.sreqid, s.pins.chipId)),
                       val := BitVec.ofNat 48 (tallyVal s w.tally.toNat) }) ∧
        (passed (tallyVal s w.tally.toNat) w.thresh.toNat = false →
          x = { w with due := if w.deadline ≠ 0 ∧ w.reported = false ∧ s.clk.ftv = true ∧ w.deadline ≤ s.clk.ft
                              then some (s.clk.ft, BitVec.ofNat 48 (tallyVal s w.tally.toNat)) else none })

/-- O2: TickTime, ReportsApplied, CreditsGranted, SclkCounted and WaitsMarked, together: what one SCLK does (log 2, log 3). -/
def Obligations.TickAdvancesTime : Prop := TickTime ∧ ReportsApplied ∧ CreditsGranted ∧ SclkCounted ∧ WaitsMarked

/-- O3: no command touches the queue of the commands that wait. -/
def Obligations.ExecKeepsQueue : Prop :=
  ∀ (c : Instr) (s u : State), exec c s = .next u → u.pending = s.pending

/-- O4: an answer of the memory channel controller to a command that is not outstanding stops the model (R336, log 17); no other
command ever stops it. -/
def Obligations.OnlyUnmatchedAnswersStop : Prop :=
  (∀ (e : Fin 1024) (d : Line) (poi : BitVec 2) (s : State),
    (∀ x, s.mp.miss.find? (·.id = e.val) = some x → x.st ≠ .waitData ∨ x.mdata ≠ none) → exec (.mReadData e d poi) s = .fault .mAnswerUnmatched) ∧
  (∀ (t : MTag) (err : Bool) (s : State), (∀ x ∈ s.mp.outW, x.1 ≠ t) → exec (.mWriteAck t err) s = .fault .mAnswerUnmatched) ∧
  (∀ (c : Instr) (s : State), (∃ u, exec c s = .next u) ∨ exec c s = .fault .mAnswerUnmatched ∧
    ((∃ e d poi, c = .mReadData e d poi) ∨ ∃ t err, c = .mWriteAck t err))

/-! ### Arrivals and ports -/

/-- O5: a request that passes steps 1 to 4 of Table 2.9 takes its place: an ingress entry of its class or of the common room, or the skid
entry, on a D port (R227, R229, R331), or of the REG queue (R19), or of an ingress entry while that is full; the end of the queue on S (R94). No
answer leaves for it. -/
def Obligations.RequestPlaced : Prop :=
  (∀ (p : DPort) (m : Msg) (qc : BitVec 4) (s : State) (r : Req), hVc m = Vc.req → takesReq s p = true → classify s (dport p) m = .req r →
    ∃ u, exec (.requestIngress p m qc) s = .next u ∧ Placed s.t (portGet s p) (portGet u p) (newEntry r qc) ∧
      outOf u (dport p) = outOf s (dport p) ∧ OnlyChanges [portPart p, .regul, .ctr] s u) ∧
  (∀ (p : DPort) (m : Msg) (qc : BitVec 4) (s : State) (tc : BitVec 4), hVc m = Vc.req → takesReq s p = true →
    classify s (dport p) m = .reg tc → (portGet s p).regq.length < 16 →
    ∃ u, exec (.requestIngress p m qc) s = .next u ∧
      (portGet u p).regq = (portGet s p).regq ++ [{ port := p, msg := m, tc := tc, at_ := s.clk.run }] ∧
      (portGet u p).ing = (portGet s p).ing ∧ (portGet u p).out = (portGet s p).out ∧ OnlyChanges [portPart p, .ctr] s u) ∧
  (∀ (p : DPort) (m : Msg) (qc : BitVec 4) (s : State) (tc : BitVec 4), hVc m = Vc.req → takesReq s p = true →
    classify s (dport p) m = .reg tc → 16 ≤ (portGet s p).regq.length →
    ∃ u r, exec (.requestIngress p m qc) s = .next u ∧ r.msg = m ∧ r.tc = tc ∧ Placed s.t (portGet s p) (portGet u p) (newEntry r qc) ∧
      (portGet u p).regq = (portGet s p).regq ∧ (portGet u p).out = (portGet s p).out ∧ OnlyChanges [portPart p, .ctr] s u) ∧
  (∀ (m : Msg) (s : State) (r : Req), s.pins.present = true → classify s .s m = .req r →
    ∃ u, exec (.sPortRequest m) s = .next u ∧ u.sq = s.sq ++ [r] ∧ OnlyChanges [.sq, .ctr] s u)

/-- a request that steps 1 to 3 of Table 2.9 refuse is answered at once with a COMP of the status they give, and one with nothing to do
with OK (R50, Table 2.10); it takes no entry. -/
def Sys2Proof.Machine.RefusalAnswered : Prop :=
  (∀ (p : DPort) (m : Msg) (qc : BitVec 4) (s : State) (st : Nat), hVc m = Vc.req → takesReq s p = true →
    (classify s (dport p) m = .refuse st ∨ classify s (dport p) m = .zero ∧ st = St.ok) →
    ∃ u o, exec (.requestIngress p m qc) s = .next u ∧ Answers u (dport p) m Op.comp st o ∧ hResult o.msg = 0 ∧ o.msg.beats = [] ∧
      (portGet u p).ing = (portGet s p).ing ∧ (portGet u p).skid = (portGet s p).skid ∧
      OnlyChanges [portPart p, .ctr] s u) ∧
  (∀ (m : Msg) (s : State) (st : Nat), s.pins.present = true → (classify s .s m = .refuse st ∨ classify s .s m = .zero ∧ st = St.ok) →
    ∃ u o, exec (.sPortRequest m) s = .next u ∧ Answers u .s m Op.comp st o ∧ o.msg.beats = [] ∧ OnlyChanges [.sout, .ctr] s u)

/-- On D port `p` a request of message `m` that the port takes is answered at once with a COMP of a status, and takes no entry. -/
def Sys2Proof.Machine.RefusedWith (s : State) (p : DPort) (m : Msg) (st : Nat) : Prop :=
  ∀ qc : BitVec 4, ∃ u o, exec (.requestIngress p m qc) s = .next u ∧ Answers u (dport p) m Op.comp st o ∧ hResult o.msg = 0 ∧ o.msg.beats = [] ∧
    (portGet u p).ing = (portGet s p).ing ∧ (portGet u p).skid = (portGet s p).skid ∧ OnlyChanges [portPart p, .ctr] s u

/-- step 1 of Table 2.9 on a D port: what breaks R11, R15, R17, R29, R30, R31, R36, R39, R40 to R44 or R147 is answered UNSUPPORTED. -/
def Sys2Proof.Machine.IngressRefuses : Prop :=
  (∀ (p : DPort) (m : Msg) (s : State), hVc m ≠ Vc.req → s.pins.present = true → isReqOp (hOpcode m) = true → RefusedWith s p m St.unsupported) ∧
  (∀ (p : DPort) (m : Msg) (s : State), hVc m = Vc.req → takesReq s p = true →
    (hRsv m ≠ 0 ∨ payloadOk m = false ∨ isReqOp (hOpcode m) = false ∨ hOpcode m = Op.chainRd ∨ hDst m ≠ chipN s ∨
      m.beats.length ≠ beatsWanted m ∨ hAspace m = 3 ∨
      (hAspace m = 2 ∧ hOpcode m ≠ Op.rd ∧ hOpcode m ≠ Op.wr) ∨
      (hAspace m = 1 ∧ (2 ^ 32 ≤ hAddr m ∨ (hOpcode m ≠ Op.rd ∧ hOpcode m ≠ Op.wr ∧ hOpcode m ≠ Op.red ∧ hOpcode m ≠ Op.atom))) ∨
      (hAspace m = 2 ∧ ((hLen m ≠ 4 ∧ hLen m ≠ 8) ∨ hAddr m % hLen m ≠ 0 ∨ 2 ^ 16 ≤ hAddr m)) ∨
      (hAspace m ≠ 2 ∧ (hOpcode m = Op.rd ∨ hOpcode m = Op.wr ∨ hOpcode m = Op.red ∨ hOpcode m = Op.rdOnce) ∧ 128 < hOff m + hLen m) ∨
      (hOpcode m = Op.red ∧ (redComboOk (hFmt m) (hOp m) = false ∨ redShapeOk m = false)) ∨
      ((hOpcode m = Op.atom ∨ hOpcode m = Op.atomC) ∧ (atomComboOk (hFmt m) (hOp m) = false ∨ hAddr m % atomSize (hFmt m) ≠ 0)) ∨
      (isCohOp (hOpcode m) = true ∧ (hSrc m ≠ chipN s ∨ pdOn s 68 = false)) ∨
      (hOpcode m = Op.maceSub ∧ (pdOn s 70 = false ∨ descOk (msgDesc m) = false))) →
    RefusedWith s p m St.unsupported)

/-- A request that step 1 accepts, whose requester T_REQMAP lists under its TC (R32). -/
structure Sys2Proof.Machine.Known (s : State) (p : DPort) (m : Msg) : Prop where
  cls : hVc m = Vc.req
  taken : takesReq s p = true
  shape : ingressOk s (dport p) m = true
  valid : rmV s.t (hReqid m) = true
  tc : hTc m = rmTc s.t (hReqid m)

/-- steps 2 and 3 of Table 2.9 on a D port: DENIED for a requester that T_REQMAP does not list under its TC, for what Table 12.1, the agent's
binding, T_RAT or the Saffron class refuse, and for a Fen segment unallocated, not open to the TC or too short (R17, R19, R32, R71, R85, R157,
R247); STALE_EPOCH for an epoch that the segment does not hold (R91); for a region's window as R131 and R132 say. -/
def Sys2Proof.Machine.ClassificationRefuses : Prop :=
  (∀ (p : DPort) (m : Msg) (s : State), hVc m = Vc.req → takesReq s p = true → ingressOk s (dport p) m = true →
    (rmV s.t (hReqid m) = false ∨ hTc m ≠ rmTc s.t (hReqid m)) → RefusedWith s p m St.denied) ∧
  (∀ (p : DPort) (m : Msg) (s : State), Known s p m →
    (hAspace m = 2 → regPermits (hTc m) (hAddr m) (hOpcode m == Op.wr) = false → RefusedWith s p m St.denied) ∧
    (hAspace m = 0 → hOpcode m ≠ Op.twait → hOpcode m ≠ Op.tread → hOpcode m ≠ Op.maceSub →
      ((isCohOp (hOpcode m) = true ∧ (rmCv s.t (hReqid m) = false ∨ rmCagent s.t (hReqid m) ≠ hCagent m)) ∨
        ratPermits s.t (hAddr m) (hTc m) = false ∨ ((ratAttr s.t (hAddr m)).ro = true ∧ opWrites (hOpcode m) = true) ∨
        ((ratAttr s.t (hAddr m)).sealed = true ∧ (tenMacsize s.t (hTc m) = 0 ∨ (keyGet s (hTc m)).loaded = false))) →
      RefusedWith s p m St.denied) ∧
    (hAspace m = 1 → segFind s (hAddr m / 2 ^ 26) = none → RefusedWith s p m St.denied) ∧
    (∀ g, hAspace m = 1 → segFind s (hAddr m / 2 ^ 26) = some g →
      ((g.owner.toNat ≠ hTc m ∧ nbit g.tcmask.toNat (hTc m) = false) ∨ g.gran * 65536 ≤ hAddr m % 2 ^ 26 → RefusedWith s p m St.denied) ∧
      ((g.owner.toNat = hTc m ∨ nbit g.tcmask.toNat (hTc m) = true) → hAddr m % 2 ^ 26 < g.gran * 65536 →
        (copyOf s g (BitVec.ofNat 2 (hEpoch m)) = none →
          (hOpcode m = Op.rd ∨ hOpcode m = Op.wr ∨ regionAt s g.id (hAddr m % 2 ^ 26) = none) → RefusedWith s p m St.stale) ∧
        (∀ r el b, msgAsk m = .arith b el → regionAt s g.id (hAddr m % 2 ^ 26) = some r →
          (b = true → (el ((hAddr m % 2 ^ 26 - r.rbase) / 128)).any (fun n => r.n ≤ n) = true → RefusedWith s p m St.denied) ∧
          (copyOf s g (BitVec.ofNat 2 (hEpoch m)) ≠ none → b = false → RefusedWith s p m St.unsupported)))))

/-- step 4 and the classification itself: a request with nothing to do is answered OK (Table 2.10); another of a D port takes its place with the class, the context, the
attributes, the set, the cap and the Fen line that the tables give it then (R25, R91, Table 2.9). -/
def Sys2Proof.Machine.ClassificationFixes : Prop :=
  ∀ (p : DPort) (m : Msg) (s : State), Known s p m →
    (hAspace m = 0 → hOpcode m ≠ Op.twait → hOpcode m ≠ Op.tread → hOpcode m ≠ Op.maceSub →
      (isCohOp (hOpcode m) = true → rmCv s.t (hReqid m) = true ∧ rmCagent s.t (hReqid m) = hCagent m) →
      memPermits s (hAddr m) (hTc m) (opWrites (hOpcode m)) = true →
      (isZeroLen m = true → RefusedWith s p m St.ok) ∧
      (isZeroLen m = false → ∀ qc : BitVec 4, ∃ u r, exec (.requestIngress p m qc) s = .next u ∧
        Placed s.t (portGet s p) (portGet u p) (newEntry r qc) ∧ r.msg = m ∧ r.port = dport p ∧ r.src = .port ∧ r.fen = none ∧ r.exact = none ∧
        r.qc.toNat = rmQc s.t (hReqid m) ∧ r.tc.toNat = hTc m ∧ r.attr = ratAttr s.t (hAddr m) ∧ r.set.toNat = liveSet s (hLine m) ∧
        r.cap = mcCap s.t ∧ r.poi = false)) ∧
    (∀ g b, hAspace m = 1 → (hOpcode m = Op.rd ∨ hOpcode m = Op.wr) → isZeroLen m = false → segFind s (hAddr m / 2 ^ 26) = some g →
      (g.owner.toNat = hTc m ∨ nbit g.tcmask.toNat (hTc m) = true) → hAddr m % 2 ^ 26 < g.gran * 65536 →
      copyOf s g (BitVec.ofNat 2 (hEpoch m)) = some b →
      ∀ qc : BitVec 4, ∃ u r, exec (.requestIngress p m qc) s = .next u ∧ Placed s.t (portGet s p) (portGet u p) (newEntry r qc) ∧ r.msg = m ∧
        r.fen = some (fenLoc g b (hAddr m % 2 ^ 26)) ∧ r.exact = none ∧ r.qc.toNat = rmQc s.t (hReqid m) ∧ r.tc.toNat = hTc m)

/-- O6: RefusalAnswered, IngressRefuses, ClassificationRefuses and ClassificationFixes, together: the order of Table 2.9. -/
def Obligations.RefusedAnswered : Prop := RefusalAnswered ∧ IngressRefuses ∧ ClassificationRefuses ∧ ClassificationFixes

/-- a port with common room lends one credit to the class that R227 step 3 picks among those that the mesh wants one for. -/
def Sys2Proof.Machine.CreditLent : Prop :=
  ∀ (p : DPort) (w : BitVec 16) (s : State) (c : Nat) (rr : Bool), s.pins.present = true → commonRoom s.t (portGet s p) = true →
    lendTo s (portGet s p) w = some (c, rr) → swf (fun _ => 0) (portGet s p).q = true → swf (fun _ => 0) (portGet s p).owed = true →
    ∃ u, exec (.creditLend p w) s = .next u ∧ qGet (portGet u p) c = qGet (portGet s p) c + 1 ∧
      owedGet (portGet u p) c = owedGet (portGet s p) c + 1 ∧
      (∀ j, j ≠ c → qGet (portGet u p) j = qGet (portGet s p) j ∧ owedGet (portGet u p) j = owedGet (portGet s p) j) ∧
      (portGet u p).rrLend = (if rr then BitVec.ofNat 4 c else (portGet s p).rrLend) ∧ (portGet u p).rrPick = (portGet s p).rrPick ∧
      (portGet u p).ing = (portGet s p).ing ∧ (portGet u p).regq = (portGet s p).regq ∧ (portGet u p).out = (portGet s p).out ∧
      OnlyChanges [portPart p, .ctr] s u

/-- a held request whose resource is free waits again to be presented, at its place (R230); nothing else changes. -/
def Sys2Proof.Machine.HeldRequestWaitsAgain : Prop :=
  ∀ (p : DPort) (k : Nat) (s : State) (g : Ing) (h : Hold), (portGet s p).ing[k]? = some g → g.hold = some h → holdOver s g.req h = true →
    s.srv.halt = false →
    ∃ u, exec (.heldRequestRepresent p k) s = .next u ∧ (portGet u p).ing = (portGet s p).ing.set k { g with hold := none } ∧
      portSet p { portGet u p with ing := (portGet s p).ing } u = s

/-- O7: CreditLent and HeldRequestWaitsAgain, together. -/
def Obligations.PortEntries : Prop := CreditLent ∧ HeldRequestWaitsAgain

/-! ### Steps at the tag pipes -/

/-- O8: a RD or RD_ONCE that finds its line in the array is answered with DATA for its span, POISON for a poisoned line (R41, R63, R75);
the line and its data stay, but for PF (R62). -/
def Obligations.ReadHit : Prop :=
  ∀ (c : Instr) (s : State) (r : Req) (k : Nat), (TakesMem s c r Op.rd ∨ TakesMem s c r Op.rdOnce) → placeOf s (hLine r.msg) = .way k →
    ∃ u o, exec c s = .next u ∧ Answers u r.port r.msg Op.data (poiSt (tagGet s k).poi) o ∧
      o.msg.beats = spanData (hOff r.msg) (hLen r.msg) (dataGet s k) ∧
      u.arr.data = s.arr.data ∧ tagGet u k = { tagGet s k with pf := false } ∧ TagsBut s u k ∧ SameHome s u ∧
      OnlyChanges (.arr :: stepParts) s u

/-- The poison list after a write of mask `m` to line `l`: a write of the whole line takes its line off it (R358). -/
def Sys2Proof.Machine.listAfter (s : State) (l : LAddr) (m : Mask) : List LAddr := if m = fullMask then s.mp.plist.filter (· ≠ l) else s.mp.plist

/-- a WR that finds its line in the array writes exactly the bytes inside its span and enabled (R41), marks the line dirty unless the region is
WTHRU (Table 3.6), adds them to the tally it names (R45), and completes; a write of the whole line clears its poison (R353). In a WTHRU region the
bytes it wrote wait to leave on M, and all of a sealed line (R73, R249). -/
def Sys2Proof.Machine.WriteInArray : Prop :=
  ∀ (c : Instr) (s : State) (r : Req) (k : Nat), TakesMem s c r Op.wr → r.poi = false → Canonical s → placeOf s (hLine r.msg) = .way k →
    ∃ u o, exec c s = .next u ∧ dataGet u k = lineMerge (dataGet s k) (msgLine r.msg) (wrMask r.msg) ∧ DataBut s u k ∧
      tagGet u k = { tagGet s k with pf := false, poi := (tagGet s k).poi && wrMask r.msg != fullMask, d := (tagGet s k).d || r.attr.wpol != 2 } ∧
      TagsBut s u k ∧ TallyOf s u r.msg (maskCount (wrMask r.msg)) ∧
      Answers u r.port r.msg Op.comp (poiSt ((tagGet s k).poi && wrMask r.msg != fullMask)) o ∧ hResult o.msg = 0 ∧
      u.mp = (if r.attr.wpol = 2 then
          { s.mp with plist := listAfter s (hLine r.msg) (wrMask r.msg), wseq := s.mp.wseq + 1,
                      writes := s.mp.writes ++ [(s.mp.wseq, .wthru (hLine r.msg) (lineMerge (dataGet s k) (msgLine r.msg) (wrMask r.msg))
                        (if (tagGet s k).sealed then fullMask else wrMask r.msg) ((tagGet s k).poi && wrMask r.msg != fullMask) (tagGet s k).sealed
                        (tagGet s k).qc (tagGet s k).tc)] }
        else { s.mp with plist := listAfter s (hLine r.msg) (wrMask r.msg) }) ∧ SameHome s u ∧
      OnlyChanges (.arr :: .mp :: .tal :: stepParts) s u

/-- an access that finds its line in Mire is served there (R77): a read returns its span; a write or a Clove operation changes the entry's line, and
one whose write-back is on its way leaves again. -/
def Sys2Proof.Machine.MireServes : Prop :=
  ∀ (c : Instr) (s : State) (r : Req) (m : MireE) (op : Nat), TakesMem s c r op → r.poi = false → Canonical s →
    placeOf s (hLine r.msg) = .mire m →
    (op = Op.rd ∨ op = Op.rdOnce → ∃ u o, exec c s = .next u ∧ Answers u r.port r.msg Op.data (poiSt m.poi) o ∧
      o.msg.beats = spanData (hOff r.msg) (hLen r.msg) m.data ∧ u.mp = s.mp ∧ SameHome s u ∧ OnlyChanges stepParts s u) ∧
    (op = Op.wr → ∃ u o, exec c s = .next u ∧ Answers u r.port r.msg Op.comp (poiSt (m.poi && wrMask r.msg != fullMask)) o ∧
      u.mp = { s.mp with plist := listAfter s (hLine r.msg) (wrMask r.msg),
                         mire := lmod (·.id = m.id) (fun x => { x with data := lineMerge m.data (msgLine r.msg) (wrMask r.msg),
                                                                       poi := m.poi && wrMask r.msg != fullMask,
                                                                       redirty := x.redirty || x.sent || x.macOut }) s.mp.mire } ∧
      TallyOf s u r.msg (maskCount (wrMask r.msg)) ∧ SameHome s u ∧ OnlyChanges (.mp :: .tal :: stepParts) s u) ∧
    (op = Op.red ∨ op = Op.atom → m.poi = false → (∀ x ∈ s.mp.mire, x.id = m.id → x = m) →
      ∃ u o, exec c s = .next u ∧ Answers u r.port r.msg Op.comp St.ok o ∧
      u.mp = { s.mp with mire := lmod (·.id = m.id) (fun x => { x with
        data := (applyOp r.msg m.data).1, redirty := x.redirty || x.sent || x.macOut }) s.mp.mire } ∧
      hResult o.msg = retVal r.msg (applyOp r.msg m.data).2.1 % 2 ^ 64 ∧ TallyOf s u r.msg (maskCount (applyOp r.msg m.data).2.2.2) ∧ SameHome s u ∧ OnlyChanges (.mp :: .tal :: stepParts) s u)

/-- a request whose line has a miss entry that waits for its fill attaches to it (R21): a read and a Clove operation wait there; a write's bytes
enter the buffer and it completes at once. -/
def Sys2Proof.Machine.MissAttaches : Prop :=
  ∀ (c : Instr) (s : State) (r : Req) (e : Miss) (op : Nat), TakesMem s c r op → r.poi = false → Canonical s →
    placeOf s (hLine r.msg) = .miss e → missTakes e = true → missRoom e = true → missFilled e = false →
    (op = Op.rd ∨ op = Op.rdOnce ∨ op = Op.red ∨ op = Op.atom → ∃ u, exec c s = .next u ∧
      u.mp = { s.mp with miss := lmod (·.id = e.id) (fun x => { x with
        nAtt := x.nAtt + 1, att := x.att ++ [if op = Op.red ∨ op = Op.atom then .op r else .read r] }) s.mp.miss } ∧
      SameHome s u ∧ OnlyChanges (.mp :: stepParts) s u) ∧
    (op = Op.wr → ∃ u o, exec c s = .next u ∧
      u.mp = { s.mp with plist := listAfter s (hLine r.msg) (wrMask r.msg),
                         miss := lmod (·.id = e.id) (fun x => { missWrite (msgLine r.msg) (wrMask r.msg) (wrMask r.msg == fullMask) (r.attr.wpol == 2) x with
        nAtt := x.nAtt + 1, att := x.att ++ [.write r (msgLine r.msg) (wrMask r.msg) (wrMask r.msg == fullMask)] }) s.mp.miss } ∧
      Answers u r.port r.msg Op.comp (poiSt (attPoi e.att && wrMask r.msg != fullMask)) o ∧ TallyOf s u r.msg (maskCount (wrMask r.msg)) ∧
      SameHome s u ∧ OnlyChanges (.mp :: .tal :: stepParts) s u)

/-- The entry that takes a write of line `l` around the array (Table 3.6). -/
def Sys2Proof.Machine.aroundFor (s : State) (r : Req) : Miss :=
  { missNew s r .around .writeOut (msgLine r.msg) (wrMask r.msg) with dirty := true, wrote := true }

/-- A write-around of request `r` has taken a miss entry, and waits to leave on M. -/
def Sys2Proof.Machine.WentAround (s u : State) (r : Req) : Prop :=
  u.mp = { s.mp with plist := listAfter s (hLine r.msg) (wrMask r.msg), miss := s.mp.miss ++ [aroundFor s r], wseq := s.mp.wseq + 1,
                     writes := s.mp.writes ++ [(s.mp.wseq, .around (aroundFor s r).id)] }

/-- a WR whose line is nowhere in the slice: of a WTHRU or WB_NOALLOC region it goes around the array (Table 3.6). A write of the whole line of a
WB_ALLOC region takes a way of its set without a fill (R66, R72): a clean victim's line is dropped, a dirty one's moves to Mire (R67); with no
eligible way it goes around the array, the model's choice (R66 names no case of it; log 34), and while Mire is full it waits in a miss entry (R78). -/
def Sys2Proof.Machine.WriteMisses : Prop :=
  ∀ (c : Instr) (s : State) (r : Req), TakesMem s c r Op.wr → r.poi = false → Canonical s → placeOf s (hLine r.msg) = .absent →
    (r.attr.wpol ≠ 0 → missRefuse s r = none → ∃ u o, exec c s = .next u ∧ WentAround s u r ∧ Answers u r.port r.msg Op.comp St.ok o ∧
      TallyOf s u r.msg (maskCount (wrMask r.msg)) ∧ SameHome s u ∧ OnlyChanges (.mp :: .tal :: stepParts) s u) ∧
    (r.attr.wpol = 0 → wrMask r.msg = fullMask →
      (∀ w k, victim s r.qc.toNat r.tc.toNat (instSet s (hLine r.msg) r.set.toNat) = some w → k = wkey (instSet s (hLine r.msg) r.set.toNat) w →
        ((tagGet s k).v && (tagGet s k).d && mireFull s) = false →
        ∃ u o, exec c s = .next u ∧
          tagGet u k = { lo := (hLine r.msg).extractLsb' 0 14, tc := r.tc, qc := r.qc, clv := false, pf := false, sealed := r.attr.sealed,
                         poi := false, d := true, v := true, tag := (hLine r.msg).extractLsb' 14 23 } ∧ TagsBut s u k ∧
          dataGet u k = msgLine r.msg ∧ DataBut s u k ∧
          u.mp.plist = listAfter s (hLine r.msg) (wrMask r.msg) ∧ u.mp.miss = s.mp.miss ∧
          (((tagGet s k).v && (tagGet s k).d) = false → u.mp.mire = s.mp.mire ∧ u.mp.writes = s.mp.writes) ∧
          (((tagGet s k).v && (tagGet s k).d) = true → ∃ m : MireE, u.mp.mire = s.mp.mire ++ [m] ∧ m.line = (tagGet s k).line ∧
            m.data = dataGet s k ∧ m.poi = (tagGet s k).poi ∧ m.sealed = (tagGet s k).sealed ∧
            u.mp.writes = s.mp.writes ++ [(s.mp.wseq, .mire m.id)]) ∧
          Answers u r.port r.msg Op.comp St.ok o ∧ TallyOf s u r.msg 128 ∧ SameHome s u ∧ OnlyChanges (.arr :: .mp :: .tal :: stepParts) s u) ∧
      (victim s r.qc.toNat r.tc.toNat (instSet s (hLine r.msg) r.set.toNat) = none → missRefuse s r = none →
        ∃ u o, exec c s = .next u ∧ WentAround s u r ∧ Answers u r.port r.msg Op.comp St.ok o ∧ TallyOf s u r.msg 128 ∧ SameHome s u ∧
          OnlyChanges (.mp :: .tal :: stepParts) s u) ∧
      (∀ w, victim s r.qc.toNat r.tc.toNat (instSet s (hLine r.msg) r.set.toNat) = some w →
        ((tagGet s (wkey (instSet s (hLine r.msg) r.set.toNat) w)).v && (tagGet s (wkey (instSet s (hLine r.msg) r.set.toNat) w)).d && mireFull s) = true →
        missRefuse s r = none → ∃ u o e, exec c s = .next u ∧ u.mp.miss = s.mp.miss ++ [e] ∧ e.line = hLine r.msg ∧ e.st = .waitInstall ∧
          e.buf = msgLine r.msg ∧ e.dirty = true ∧ u.mp.writes = s.mp.writes ∧ Answers u r.port r.msg Op.comp St.ok o ∧ TallyOf s u r.msg 128 ∧
          SameHome s u ∧ OnlyChanges (.mp :: .tal :: stepParts) s u))

/-- O9: WriteInArray, MireServes, MissAttaches and WriteMisses, together (Table 3.6). -/
def Obligations.WriteHit : Prop := WriteInArray ∧ MireServes ∧ MissAttaches ∧ WriteMisses

/-- O10: a RED or ATOM that finds its line in the array, not poisoned, leaves it as Clove's operation does and marks it dirty unless the
region is WTHRU; the tally grows by the bytes of the elements that take part (R126, R130); COMP returns the old value if RET asks it (R44). -/
def Obligations.CloveHit : Prop :=
  ∀ (c : Instr) (s : State) (r : Req) (k : Nat), (TakesMem s c r Op.red ∨ TakesMem s c r Op.atom) → r.poi = false → Canonical s →
    placeOf s (hLine r.msg) = .way k → (tagGet s k).poi = false →
    ∃ u o, exec c s = .next u ∧
      dataGet u k = lineMerge (dataGet s k) (applyOp r.msg (dataGet s k)).1 (applyOp r.msg (dataGet s k)).2.2.2 ∧ DataBut s u k ∧
      tagGet u k = { tagGet s k with pf := false, d := (tagGet s k).d || r.attr.wpol != 2 } ∧ TagsBut s u k ∧
      TallyOf s u r.msg (maskCount (applyOp r.msg (dataGet s k)).2.2.2) ∧
      Answers u r.port r.msg Op.comp St.ok o ∧ hResult o.msg = retVal r.msg (applyOp r.msg (dataGet s k)).2.1 % 2 ^ 64 ∧
      u.mp.miss = s.mp.miss ∧ u.mp.mire = s.mp.mire ∧ (r.attr.wpol ≠ 2 → u.mp = s.mp) ∧ SameHome s u ∧
      OnlyChanges (.arr :: .mp :: .tal :: stepParts) s u

/-- The miss entry that a request's own step opens for it (R21, R72, R126). -/
def Sys2Proof.Machine.missFor (s : State) (r : Req) : Miss :=
  if hOpcode r.msg = Op.wr then
    { missNew s r .partialWr .waitIssue (lineMerge 0 (msgLine r.msg) (wrMask r.msg)) (wrMask r.msg) with
      att := [.write r (msgLine r.msg) (wrMask r.msg) false], dirty := true, wrote := true }
  else { missNew s r .read .waitIssue 0 0 with att := [if hOpcode r.msg = Op.red ∨ hOpcode r.msg = Op.atom then .op r else .read r] }

/-- a request whose line is nowhere in the slice opens a miss entry, which waits to read the line from M with the request attached (R21,
R75, R76, R126); a partial WR of a WB_ALLOC region does so too and completes at once (R72, Table 3.6). The array stays as it was. -/
def Sys2Proof.Machine.MissOpensEntry : Prop :=
  ∀ (c : Instr) (s : State) (r : Req) (op : Nat), TakesMem s c r op → r.poi = false → placeOf s (hLine r.msg) = .absent → missRefuse s r = none →
    (op = Op.rd ∨ op = Op.rdOnce ∨ op = Op.red ∨ op = Op.atom ∨ op = Op.wr ∧ r.attr.wpol = 0 ∧ wrMask r.msg ≠ fullMask) →
    ∃ u, exec c s = .next u ∧ u.mp = { s.mp with miss := s.mp.miss ++ [missFor s r] } ∧ SameHome s u ∧
      (op ≠ Op.wr → u.tal = s.tal) ∧
      (op = Op.wr → TallyOf s u r.msg (maskCount (wrMask r.msg)) ∧ ∃ o, Answers u r.port r.msg Op.comp St.ok o) ∧
      OnlyChanges (.mp :: .tal :: stepParts) s u

/-- a request of a D port that needs a miss entry and can take none, or whose line's miss entry takes no more requests, is held at its place, its
first hold noted (R21, R75, R230, R232). -/
def Sys2Proof.Machine.RefusedMissHolds : Prop :=
  ∀ (p : DPort) (c : Instr) (s : State) (i : Nat) (g : Ing) (fl : Bool) (h : Hold) (op : Nat), stepOf c = some (dport p, op) →
    selectReq s p = some (i, g, fl) → hOpcode g.req.msg = op → g.req.fen = none → s.bad = [] →
    hteInH s (hLine g.req.msg) = none → sedgeFind s (hLine g.req.msg) = none → yields s p g.req = false →
    (placeOf s (hLine g.req.msg) = .absent ∧ missRefuse s g.req = some h ∨
      ∃ e, placeOf s (hLine g.req.msg) = .miss e ∧
        (missTakes e = false ∧ h = .around ∨ missTakes e = true ∧ missRoom e = false ∧ h = .attach)) → (op = Op.rd ∨ op = Op.rdOnce ∨ op = Op.red ∨ op = Op.atom) →
    ∃ u, exec c s = .next u ∧ (portGet u p).ing = (portGet s p).ing.set i { g with trained := true, hold := some h, held := true } ∧
      u.arr = s.arr ∧ u.mp = s.mp ∧ u.tal = s.tal ∧ SameHome s u ∧ OnlyChanges stepParts s u

/-- O11: MissOpensEntry and RefusedMissHolds, together. -/
def Obligations.MissEntries : Prop := MissOpensEntry ∧ RefusedMissHolds

/-- a RED, ATOM, WR or RD in FEN space acts on the frame line it was classified to, in one step, whatever the line holds, on a bank that
is in service (R20, R91, R94, Table 6.1): a RD returns its span, a WR writes its bytes and a RED or ATOM leaves Clove's result. -/
def Sys2Proof.Machine.FenAccess : Prop :=
  ∀ (c : Instr) (s : State) (r : Req) (l : FenLoc), Takes s c r → r.fen = some l → r.exact = none → r.poi = false → s.bad = [] → Canonical s →
    (tagGet s (locKey l)).poi = false → keyRetired s (locKey l) = false →
    (hOpcode r.msg = Op.rd → ∃ u o, exec c s = .next u ∧ Answers u r.port r.msg Op.data St.ok o ∧
      o.msg.beats = spanData (hOff r.msg) (hLen r.msg) (dataGet s (locKey l)) ∧ SameHome s u ∧ OnlyChanges stepParts s u) ∧
    (hOpcode r.msg = Op.wr → ∃ u o, exec c s = .next u ∧ Answers u r.port r.msg Op.comp St.ok o ∧
      dataGet u (locKey l) = lineMerge (dataGet s (locKey l)) (msgLine r.msg) (wrMask r.msg) ∧ DataBut s u (locKey l) ∧
      (∀ j, tagGet u j = tagGet s j) ∧ TallyOf s u r.msg (maskCount (wrMask r.msg)) ∧ SameHome s u ∧ OnlyChanges (.arr :: .tal :: stepParts) s u) ∧
    (hOpcode r.msg = Op.red ∨ hOpcode r.msg = Op.atom → ∃ u o, exec c s = .next u ∧ Answers u r.port r.msg Op.comp St.ok o ∧
      dataGet u (locKey l) =
        lineMerge (dataGet s (locKey l)) (applyOp r.msg (dataGet s (locKey l))).1 (applyOp r.msg (dataGet s (locKey l))).2.2.2 ∧
      DataBut s u (locKey l) ∧ (∀ j, tagGet u j = tagGet s j) ∧
      TallyOf s u r.msg (maskCount (applyOp r.msg (dataGet s (locKey l))).2.2.2) ∧ SameHome s u ∧ OnlyChanges (.arr :: .tal :: stepParts) s u)

/-- a CHAIN_RD on S reads its whole Fen line and sends it once, as CHAIN_DATA to the first engine of its chain (R47). -/
def Sys2Proof.Machine.ChainReadSendsLine : Prop :=
  ∀ (s : State) (r : Req) (l : FenLoc), s.sq.head? = some r → r.port = .s → r.src = .port → hOpcode r.msg = Op.chainRd → r.fen = some l →
    r.exact = none → r.poi = false → s.bad = [] → keyRetired s (locKey l) = false →
    ∃ u o, exec .chainRd s = .next u ∧ u.sq = s.sq.tail ∧ u.sout = s.sout ++ [o] ∧ hOpcode o.msg = Op.chainData ∧
      hReqid o.msg = chainEntry r.msg 0 ∧ hStatus o.msg = poiSt (tagGet s (locKey l)).poi ∧ hTxid o.msg = hTxid r.msg ∧
      o.msg.beats = [lineBeat (dataGet s (locKey l)) 0, lineBeat (dataGet s (locKey l)) 1, r.msg.beats.getD 0 0] ∧
      OnlyChanges [.sq, .sout, .d0, .ctr, .peat, .ints, .log] s u

/-- O12: FenAccess and ChainReadSendsLine, together. -/
def Obligations.FenReadsAndWrites : Prop := FenAccess ∧ ChainReadSendsLine

/-! ### Tallies and Mace submissions at the ports -/

/-- a TREAD answers at once with its tally's present value (R206); a TWAIT whose tally has passed its threshold does so too (R207). -/
def Sys2Proof.Machine.TallyRead : Prop :=
  ∀ (p : DPort) (s : State) (r : Req), Presents s (dport p) r → r.src = .port → s.bad = [] →
    (hOpcode r.msg = Op.tread → ∃ u o, exec (.tread p) s = .next u ∧ Answers u (dport p) r.msg Op.comp St.ok o ∧
      hResult o.msg = tallyVal s (hTally r.msg) ∧ u.tal = s.tal ∧ OnlyChanges [portPart p, .ctr] s u) ∧
    (hOpcode r.msg = Op.twait → passed (tallyVal s (hTally r.msg)) (twThresh r.msg) = true →
      ∃ u o, exec (.twait p) s = .next u ∧ Answers u (dport p) r.msg Op.comp St.ok o ∧
      hResult o.msg = tallyVal s (hTally r.msg) ∧ u.tal = s.tal ∧ OnlyChanges [portPart p, .ctr] s u)

/-- a TWAIT whose tally has not passed its threshold is parked with its threshold and deadline, unanswered, while fewer than 256 are parked and
its trace record finds room; with 256 parked it is answered RETRY (R207, R318, R37). -/
def Sys2Proof.Machine.WaitParks : Prop :=
  ∀ (p : DPort) (s : State) (r : Req), Presents s (dport p) r → r.src = .port → hOpcode r.msg = Op.twait → s.bad = [] →
    passed (tallyVal s (hTally r.msg)) (twThresh r.msg) = false →
    (s.tal.parked.length < 256 → losslessRoom (parkEv r) s = true →
      ∃ u w, exec (.twait p) s = .next u ∧ u.tal = { s.tal with parked := s.tal.parked ++ [w] } ∧ w.req = r ∧ w.tally.toNat = hTally r.msg ∧
        w.thresh.toNat = twThresh r.msg ∧ w.deadline.toNat = twDeadline r.msg ∧ w.reported = false ∧ w.by_ = none ∧ w.due = none ∧
        outOf u (dport p) = outOf s (dport p) ∧ OnlyChanges [portPart p, .tal, .ctr, .peat] s u) ∧
    (256 ≤ s.tal.parked.length → ∃ u o, exec (.twait p) s = .next u ∧ Answers u (dport p) r.msg Op.comp St.retry o ∧ hResult o.msg = 0 ∧
        OnlyChanges [portPart p, .ctr] s u)

/-- the first parked wait that the end of an SCLK found past its threshold, and whose record finds room, is released with the value that its tally
had then (R208); a deadline report that is still due is raised first (R210). The others stay parked, in order. -/
def Sys2Proof.Machine.WaitReleased : Prop :=
  ∀ (k : Nat) (s : State) (w : Parked), s.tal.parked[k]? = some w → releasable s w = true → (s.tal.parked.take k).any (releasable s) = false →
    s.bad = [] →
    ∃ u o, exec (.twaitRelease k) s = .next u ∧ Answers u w.req.port w.req.msg Op.comp St.ok o ∧ hResult o.msg = w.val.toNat ∧
      (w.due = none → u.tal = { s.tal with parked := s.tal.parked.eraseIdx k } ∧ u.log = s.log) ∧
      (∀ x, w.due = some x →
        u.tal = { s.tal with parked := (lmod (·.slot = w.slot) (fun y => { y with reported := true, due := none }) s.tal.parked).eraseIdx k } ∧
        (s.log.notices.length < 64 → u.log.notices = s.log.notices ++ [.event 1 (deadlineRec x w.tally.toNat w.thresh.toNat (hReqid w.req.msg)
          (hSrc w.req.msg) (hTxid w.req.msg) 0 0 (hWtag w.req.msg))])) ∧
      OnlyChanges [.tal, .d0, .d1, .sout, .ctr, .peat, .log, .ints] s u

/-- a wait whose deadline the end of an SCLK found reached is reported once, with the FT value and the tally's value of that SCLK: a TALLY_DEADLINE
notice queues, or is counted lost while 64 wait, and the wait stays parked (R210, R211, R14); nothing happens for one that is not due. -/
def Sys2Proof.Machine.DeadlineReported : Prop :=
  ∀ (k : Nat) (s : State) (w : Parked), s.tal.parked[k]? = some w → s.bad = [] →
    (∀ x, w.due = some x → ∃ u, exec (.tallyDeadline k) s = .next u ∧
      u.tal = { s.tal with parked := lmod (·.slot = w.slot) (fun y => { y with reported := true, due := none }) s.tal.parked } ∧
      (s.log.notices.length < 64 → u.log.notices = s.log.notices ++ [.event 1 (deadlineRec x w.tally.toNat w.thresh.toNat (hReqid w.req.msg)
        (hSrc w.req.msg) (hTxid w.req.msg) 0 0 (hWtag w.req.msg))] ∧ u.log.evLost = s.log.evLost) ∧
      (64 ≤ s.log.notices.length → u.log.notices = s.log.notices ∧ u.log.evLost = s.log.evLost + 1) ∧
      OnlyChanges [.tal, .log, .ints, .d0, .ctr, .peat] s u) ∧
    (w.due = none → exec (.tallyDeadline k) s = .next s)

/-- O13: TallyRead, WaitParks, WaitReleased and DeadlineReported, together. -/
def Obligations.TallyWaits : Prop := TallyRead ∧ WaitParks ∧ WaitReleased ∧ DeadlineReported

/-! ### The home -/

/-- The FWD-class message that forwards request `m` for line `l` to an agent (R173). -/
def Sys2Proof.Machine.forwardOf (s : State) (op agent : Nat) (m : Msg) (l : LAddr) (ownr : Bool) : Out :=
  { msg := { hdr := reqHdr op 0 Vc.fwd (hReqid m) (hSrc m) (chipN s) (hTc m) (hTxid m) (hWtag m) 0 agent (l.toNat * 128) false ownr, beats := [], be := [] },
    subj := none, post := .none }

/-- The port of an agent. -/
def Sys2Proof.Machine.agentPort (c : Nat) : Port := if c % 2 = 0 then .d0 else .d1

/-- Every Sedge entry but that at `j` is as it was. -/
def Sys2Proof.Machine.SedgeBut (s u : State) (j : Nat) : Prop := ∀ i, i ≠ j → sedgeGet u i = sedgeGet s i

/-- O14: a coherent read of a line that no agent holds gives it to the requester from the array: to share if it asks RD_SHR of a read-only region, else as
its owner; the home notes it in a free entry, opens an HTE that awaits COMP_ACK, and sends the line with GST (Table 8.5, Table 8.4, R168). -/
def Obligations.CoherentReadGrants : Prop :=
  ∀ (c : Instr) (s : State) (r : Req) (k j : Nat) (op : Nat), TakesMem s c r op → (op = Op.rdShr ∨ op = Op.rdUnq ∨ op = Op.upgrade) →
    placeOf s (hLine r.msg) = .way k → hteFree s = true → sedgeRoom s (liveSet s (hLine r.msg)) = .free j →
    ∃ u o h, exec c s = .next u ∧ Answers u r.port r.msg Op.data (poiSt (tagGet s k).poi) o ∧
      o.msg.beats = [lineBeat (dataGet s k) 0, lineBeat (dataGet s k) 1] ∧
      hResult o.msg = (if op = Op.rdShr then (if r.attr.ro then 0 else 1) else 2) ∧
      sedgeGet u j = (if op = Op.rdShr ∧ r.attr.ro = true then addSharer (sedgeNew s (hLine r.msg)) (hCagent r.msg)
        else ownE (sedgeNew s (hLine r.msg)) (hCagent r.msg)) ∧ SedgeBut s u j ∧
      u.home.htes = s.home.htes ++ [h] ∧ h.req = r ∧ h.line = hLine r.msg ∧ h.a = true ∧ h.h = false ∧ h.k = [] ∧ h.grant = false ∧
      u.arr.data = s.arr.data ∧ tagGet u k = { tagGet s k with pf := false } ∧ TagsBut s u k ∧ OnlyChanges (.arr :: stepParts) s u

/-- a RD_SHR or RD_UNQ of a line that an agent owns is forwarded to the owner, and no memory is read: the requester joins the sharers, or becomes the
owner while every other sharer is sent an INV that the HTE awaits (Table 8.5, R172, R173). -/
def Sys2Proof.Machine.OwnerForward : Prop :=
  ∀ (c : Instr) (s : State) (r : Req) (j : Nat), Takes s c r → r.fen = none → s.bad = [] → hteInH s (hLine r.msg) = none →
    sedgeFind s (hLine r.msg) = some j → ((sedgeGet s j).st = 2 ∨ (sedgeGet s j).st = 3) → hteFree s = true →
    (hOpcode r.msg = Op.rdShr → ∃ u h, exec c s = .next u ∧
      forwardOf s Op.fwdShr (sedgeGet s j).owner.toNat r.msg (hLine r.msg) false ∈ outOf u (agentPort (sedgeGet s j).owner.toNat) ∧
      sedgeGet u j = addSharer { sedgeGet s j with st := 3 } (hCagent r.msg) ∧ SedgeBut s u j ∧
      u.home.htes = s.home.htes ++ [h] ∧ h.req = r ∧ h.line = hLine r.msg ∧ h.a = true ∧ h.h = false ∧ h.k = [] ∧
      h.fwdTo = some (sedgeGet s j).owner ∧ OnlyChanges stepParts s u) ∧
    (hOpcode r.msg = Op.rdUnq → ∃ u h, exec c s = .next u ∧
      forwardOf s Op.fwdUnq (sedgeGet s j).owner.toNat r.msg (hLine r.msg) false ∈ outOf u (agentPort (sedgeGet s j).owner.toNat) ∧
      (∀ x ∈ invSet s (sedgeGet s j), x ≠ hCagent r.msg → forwardOf s Op.inv x r.msg (hLine r.msg) false ∈ outOf u (agentPort x)) ∧
      sedgeGet u j = ownE (sedgeGet s j) (hCagent r.msg) ∧ SedgeBut s u j ∧
      u.home.htes = s.home.htes ++ [h] ∧ h.req = r ∧ h.line = hLine r.msg ∧ h.a = true ∧ h.h = false ∧
      h.k = ((invSet s (sedgeGet s j)).filter (· ≠ hCagent r.msg)).map (BitVec.ofNat 8) ∧ OnlyChanges stepParts s u)

/-- an UPGRADE by a recorded sharer makes it the owner: every other sharer, and the owner, is sent an INV that the HTE awaits, and no memory is read;
with none to invalidate the GRANT leaves at once (Table 8.5, R165, R188). -/
def Sys2Proof.Machine.UpgradeInvalidates : Prop :=
  ∀ (c : Instr) (s : State) (r : Req) (j : Nat) (ts : List Nat), Takes s c r → hOpcode r.msg = Op.upgrade → r.fen = none → s.bad = [] →
    hteInH s (hLine r.msg) = none → sedgeFind s (hLine r.msg) = some j → ((sedgeGet s j).st = 1 ∨ (sedgeGet s j).st = 3) →
    (sedgeGet s j).cv = false → isSharer (sedgeGet s j) (hCagent r.msg) = true → hteFree s = true →
    ts = (invSet s (sedgeGet s j)).filter (· ≠ hCagent r.msg) ++ (if (sedgeGet s j).ov then [(sedgeGet s j).owner.toNat] else []) →
    ∃ u h, exec c s = .next u ∧ sedgeGet u j = ownE (sedgeGet s j) (hCagent r.msg) ∧ SedgeBut s u j ∧
      u.home.htes = s.home.htes ++ [h] ∧ h.req = r ∧ h.line = hLine r.msg ∧ h.a = true ∧ h.h = false ∧ h.k = ts.map (BitVec.ofNat 8) ∧
      (∀ x ∈ ts, ∃ w, forwardOf s Op.inv x r.msg (hLine r.msg) w ∈ outOf u (agentPort x)) ∧
      (ts = [] → ∃ o, Answers u r.port r.msg Op.grant St.ok o) ∧ OnlyChanges stepParts s u

/-- O15: OwnerForward and UpgradeInvalidates, together. -/
def Obligations.OwnersServe : Prop := OwnerForward ∧ UpgradeInvalidates

/-- a WB from the owner, with no forward to it open, puts the line in H and asks for the data with WB_PULL (R175, R190); one of a line that has no
entry completes at once as STALE and changes nothing at the home (R188). -/
def Sys2Proof.Machine.WritebackPulled : Prop :=
  ∀ (c : Instr) (s : State) (r : Req), Takes s c r → hOpcode r.msg = Op.wb → r.fen = none → s.bad = [] → hteInH s (hLine r.msg) = none →
    hteFree s = true →
    (∀ j, sedgeFind s (hLine r.msg) = some j → isOwner (sedgeGet s j) (hCagent r.msg) = true → fwdHtes s (hLine r.msg) (hCagent r.msg) = [] →
      ∃ u o h, exec c s = .next u ∧ Answers u r.port r.msg Op.wbPull St.ok o ∧ sedgeGet u j = { sedgeGet s j with st := 4 } ∧ SedgeBut s u j ∧
        u.home.htes = s.home.htes ++ [h] ∧ h.req = r ∧ h.line = hLine r.msg ∧ h.h = true ∧ h.kind = .wb ∧
        h.w = some (BitVec.ofNat 8 (hCagent r.msg)) ∧ OnlyChanges stepParts s u) ∧
    (sedgeFind s (hLine r.msg) = none → ∃ u o, exec c s = .next u ∧ Answers u r.port r.msg Op.comp St.ok o ∧
        nbit o.msg.hdr.toNat 128 = true ∧ SameHome s u ∧ OnlyChanges stepParts s u)

/-- an EVICT takes its agent off the line's entry and completes (Table 8.5, R191, R192); from an agent that the entry does not record it completes
as STALE and the entry stays (R188). An HTE waits for the COMP to leave (Table 8.3). -/
def Sys2Proof.Machine.EvictLeaves : Prop :=
  ∀ (c : Instr) (s : State) (r : Req), Takes s c r → hOpcode r.msg = Op.evict → r.fen = none → s.bad = [] → hteInH s (hLine r.msg) = none →
    hteFree s = true → Canonical s →
    (∀ j, sedgeFind s (hLine r.msg) = some j →
      (isOwner (sedgeGet s j) (hCagent r.msg) = true ∨ isSharer (sedgeGet s j) (hCagent r.msg) = true) →
      (isOwner (sedgeGet s j) (hCagent r.msg) = true → fwdHtes s (hLine r.msg) (hCagent r.msg) = []) →
      ∃ u o h, exec c s = .next u ∧ Answers u r.port r.msg Op.comp St.ok o ∧ nbit o.msg.hdr.toNat 128 = false ∧
        sedgeGet u j = afterLeave (sedgeGet s j) (hCagent r.msg) ∧ SedgeBut s u j ∧ u.home.htes = s.home.htes ++ [h] ∧ h.done = true ∧
        OnlyChanges stepParts s u) ∧
    ((∀ j, sedgeFind s (hLine r.msg) = some j →
        isOwner (sedgeGet s j) (hCagent r.msg) = false ∧ isSharer (sedgeGet s j) (hCagent r.msg) = false) →
      ∃ u o h, exec c s = .next u ∧ Answers u r.port r.msg Op.comp St.ok o ∧ nbit o.msg.hdr.toNat 128 = true ∧
        u.home.sedge = s.home.sedge ∧ u.home.htes = s.home.htes ++ [h] ∧ h.done = true ∧ OnlyChanges stepParts s u)

/-- O16: WritebackPulled and EvictLeaves, together. -/
def Obligations.AgentsLeave : Prop := WritebackPulled ∧ EvictLeaves

/-- an ATOM_C that the predictor places near, on a line that no agent holds, acts on the array as an ATOM does, adds to no tally (R45) and answers
with COMP (R179, R180); in a WTHRU region the bytes it changed wait to leave on M (R73). A line that is nowhere in the slice is read into a miss
entry first (R126). Its HTE waits for the COMP to leave (Table 8.3). -/
def Sys2Proof.Machine.NearOnArray : Prop :=
  ∀ (c : Instr) (s : State) (r : Req), TakesMem s c r Op.atomC → r.poi = false → Canonical s → hteFree s = true →
    (predict (hLine r.msg) (hCagent r.msg) true false s).1 = true →
    (∀ k, placeOf s (hLine r.msg) = .way k → (tagGet s k).poi = false →
      ∃ u o h, exec c s = .next u ∧ Answers u r.port r.msg Op.comp St.ok o ∧
        dataGet u k = lineMerge (dataGet s k) (applyOp r.msg (dataGet s k)).1 (applyOp r.msg (dataGet s k)).2.2.2 ∧ DataBut s u k ∧
        tagGet u k = { tagGet s k with pf := false, d := (tagGet s k).d || r.attr.wpol != 2 } ∧ TagsBut s u k ∧
        u.mp = (if r.attr.wpol = 2 ∧ (applyOp r.msg (dataGet s k)).2.2.2 ≠ 0 then
          { s.mp with wseq := s.mp.wseq + 1,
                      writes := s.mp.writes ++ [(s.mp.wseq, .wthru (hLine r.msg) (applyOp r.msg (dataGet s k)).1
                        (if (tagGet s k).sealed then fullMask else (applyOp r.msg (dataGet s k)).2.2.2) false (tagGet s k).sealed
                        (tagGet s k).qc (tagGet s k).tc)] }
          else s.mp) ∧
        hResult o.msg = retVal r.msg (applyOp r.msg (dataGet s k)).2.1 % 2 ^ 64 ∧ u.home.sedge = s.home.sedge ∧
        u.home.htes = s.home.htes ++ [h] ∧ h.req = r ∧ h.done = true ∧ OnlyChanges (.arr :: .mp :: stepParts) s u) ∧
    (placeOf s (hLine r.msg) = .absent → missRefuse s r = none →
      ∃ u h, exec c s = .next u ∧ u.mp = { s.mp with miss := s.mp.miss ++ [{ missNew s r .read .waitIssue 0 0 with att := [.op r] }] } ∧
        u.home.sedge = s.home.sedge ∧ u.home.htes = s.home.htes ++ [h] ∧ h.req = r ∧ h.done = true ∧ OnlyChanges (.mp :: stepParts) s u)

/-- The home's own message of an opcode to agent `a` about line `l`, under HTE `id` (R173). -/
def Sys2Proof.Machine.homeMsg (s : State) (op a id : Nat) (l : LAddr) (keep ownr : Bool) : Out :=
  { msg := { hdr := reqHdr op 0 Vc.fwd (sreqN s) (chipN s) (chipN s) 0 id 0 0 a (l.toNat * 128) keep ownr, beats := [], be := [] },
    subj := none, post := .none }

/-- From `s` to `u` the home has put entry `j` in H for request `r` (R193): it awaits the data of the owner, whom it sent a PULL that keeps a copy or
not, and the answers of agents `ts`, whom it sent INVs; `after` is the entry that it leaves. -/
structure Sys2Proof.Machine.InCharge (s u : State) (r : Req) (j : Nat) (pull : Option Bool) (ts : List Nat) (after : Option SedgeE) : Prop where
  entry : sedgeGet u j = { sedgeGet s j with st := 4 }
  others : SedgeBut s u j
  hte : ∃ h, u.home.htes = s.home.htes ++ [h] ∧ h.req = r ∧ h.line = hLine r.msg ∧ h.h = true ∧ h.a = false ∧ h.k = ts.map (BitVec.ofNat 8) ∧
    h.d = (if pull.isSome then some (sedgeGet s j).owner else none) ∧ h.w = none ∧ h.after = after ∧
    (∀ keep, pull = some keep → homeMsg s Op.pull (sedgeGet s j).owner.toNat h.id (hLine r.msg) keep false ∈ outOf u (agentPort (sedgeGet s j).owner.toNat)) ∧
    (∀ x ∈ ts, homeMsg s Op.inv x h.id (hLine r.msg) false (isOwner (sedgeGet s j) x) ∈ outOf u (agentPort x))
  frame : OnlyChanges stepParts s u

/-- The home finds entry `j` for the line of request `r`, which command `c` steps, with no H state and an HTE free, on storage without errors. -/
structure Sys2Proof.Machine.TakesHeld (s : State) (c : Instr) (r : Req) (j : Nat) : Prop where
  takes : Takes s c r
  mem : r.fen = none
  clean : s.bad = []
  home : pdOn s 68 = true
  noH : hteInH s (hLine r.msg) = none
  entry : sedgeFind s (hLine r.msg) = some j
  free : hteFree s = true

/-- the rows of Table 8.6, and those of Table 8.5 for RD_ONCE and a near ATOM_C of a held line: at E or O a read pulls the owner's copy and lets it
keep one, a write of the whole line invalidates every holder, any other access pulls the copy away and invalidates the sharers; at S a write
or operation invalidates the sharers. The access waits for the answers (R182, R193). -/
def Sys2Proof.Machine.LineReclaimed : Prop :=
  ∀ (c : Instr) (s : State) (r : Req) (j : Nat) (e : SedgeE), TakesHeld s c r j → e = sedgeGet s j →
    (hOpcode r.msg = Op.rd ∨ hOpcode r.msg = Op.rdOnce → (e.st = 2 ∨ e.st = 3) →
      ∃ u, exec c s = .next u ∧ InCharge s u r j (some true) [] (some (afterRead e))) ∧
    (hOpcode r.msg = Op.wr → wrWhole r.msg = true → (e.st = 2 ∨ e.st = 3) → invSet s e ++ (if e.ov then [e.owner.toNat] else []) ≠ [] →
      ∃ u, exec c s = .next u ∧ InCharge s u r j none (invSet s e ++ (if e.ov then [e.owner.toNat] else [])) none) ∧
    ((hOpcode r.msg = Op.wr ∧ wrWhole r.msg = false ∨ hOpcode r.msg = Op.red ∨ hOpcode r.msg = Op.atom ∨
        hOpcode r.msg = Op.atomC ∧ (predict (hLine r.msg) (hCagent r.msg) true (otherHolder (some e) (hCagent r.msg)) s).1 = true) →
      (e.st = 2 ∨ e.st = 3) → ∃ u, exec c s = .next u ∧ InCharge s u r j (some false) (invSet s e) none) ∧
    ((hOpcode r.msg = Op.wr ∨ hOpcode r.msg = Op.red ∨ hOpcode r.msg = Op.atom ∨
        hOpcode r.msg = Op.atomC ∧ (predict (hLine r.msg) (hCagent r.msg) true (otherHolder (some e) (hCagent r.msg)) s).1 = true) →
      e.st = 1 → invSet s e ≠ [] → ∃ u, exec c s = .next u ∧ InCharge s u r j none (invSet s e) none)

/-- reads of a line that agents share, with its copy in the array (Table 8.5, Table 8.6): RD and RD_ONCE are answered at once and the entry stays;
RD_SHR joins the sharers; RD_UNQ, or an ATOM_C that the predictor places far (R179), becomes the owner and every other sharer is sent an INV, which
GPEND says and the GRANT waits for. -/
def Sys2Proof.Machine.SharersServed : Prop :=
  ∀ (c : Instr) (s : State) (r : Req) (j k : Nat) (e : SedgeE) (ts : List Nat), TakesHeld s c r j → e = sedgeGet s j → e.st = 1 →
    placeOf s (hLine r.msg) = .way k → ts = (invSet s e).filter (· ≠ hCagent r.msg) →
    (hOpcode r.msg = Op.rd ∨ hOpcode r.msg = Op.rdOnce → ∃ u o, exec c s = .next u ∧
      Answers u r.port r.msg Op.data (poiSt (tagGet s k).poi) o ∧ o.msg.beats = spanData (hOff r.msg) (hLen r.msg) (dataGet s k) ∧
      u.home.sedge = s.home.sedge ∧ u.home.htes = s.home.htes ∧ u.arr.data = s.arr.data ∧ OnlyChanges (.arr :: stepParts) s u) ∧
    (hOpcode r.msg = Op.rdShr → ∃ u o h, exec c s = .next u ∧ Answers u r.port r.msg Op.data (poiSt (tagGet s k).poi) o ∧
      o.msg.beats = [lineBeat (dataGet s k) 0, lineBeat (dataGet s k) 1] ∧ hResult o.msg = 0 ∧
      sedgeGet u j = addSharer e (hCagent r.msg) ∧ SedgeBut s u j ∧ u.home.htes = s.home.htes ++ [h] ∧ h.req = r ∧ h.line = hLine r.msg ∧
      h.a = true ∧ h.h = false ∧ h.k = [] ∧ h.grant = false ∧ u.arr.data = s.arr.data ∧ OnlyChanges (.arr :: stepParts) s u) ∧
    (hOpcode r.msg = Op.rdUnq ∨ hOpcode r.msg = Op.atomC ∧
        (predict (hLine r.msg) (hCagent r.msg) true (otherHolder (some e) (hCagent r.msg)) s).1 = false →
      ∃ u o h, exec c s = .next u ∧ o ∈ outOf u r.port ∧ o.msg = rspMsg s r.port r.msg
          { op := Op.data, vc := Vc.dat, status := poiSt (tagGet s k).poi, map := 3, result := 2 + 4 * b2n (!ts.isEmpty),
            beats := [lineBeat (dataGet s k) 0, lineBeat (dataGet s k) 1] } ∧
        (∀ x ∈ ts, forwardOf s Op.inv x r.msg (hLine r.msg) false ∈ outOf u (agentPort x)) ∧
        sedgeGet u j = ownE e (hCagent r.msg) ∧ SedgeBut s u j ∧ u.home.htes = s.home.htes ++ [h] ∧ h.req = r ∧ h.line = hLine r.msg ∧
        h.a = true ∧ h.h = false ∧ h.k = ts.map (BitVec.ofNat 8) ∧ h.grant = !ts.isEmpty ∧ u.arr.data = s.arr.data ∧
        OnlyChanges (.arr :: stepParts) s u)

/-- an ATOM_C that the predictor places far is served as a RD_UNQ (R179): its line is granted from the array when no agent holds it, and forwarded to
its owner at E or O. -/
def Sys2Proof.Machine.AtomFar : Prop :=
  (∀ (c : Instr) (s : State) (r : Req) (k j : Nat), TakesMem s c r Op.atomC → placeOf s (hLine r.msg) = .way k → hteFree s = true →
    sedgeRoom s (liveSet s (hLine r.msg)) = .free j → (predict (hLine r.msg) (hCagent r.msg) true false s).1 = false →
    ∃ u o h, exec c s = .next u ∧ Answers u r.port r.msg Op.data (poiSt (tagGet s k).poi) o ∧
      o.msg.beats = [lineBeat (dataGet s k) 0, lineBeat (dataGet s k) 1] ∧ hResult o.msg = 2 ∧
      sedgeGet u j = ownE (sedgeNew s (hLine r.msg)) (hCagent r.msg) ∧ SedgeBut s u j ∧ u.home.htes = s.home.htes ++ [h] ∧ h.req = r ∧
      h.a = true ∧ h.h = false ∧ h.k = [] ∧ u.arr.data = s.arr.data ∧ OnlyChanges (.arr :: stepParts) s u) ∧
  (∀ (c : Instr) (s : State) (r : Req) (j : Nat) (e : SedgeE), TakesHeld s c r j → e = sedgeGet s j → (e.st = 2 ∨ e.st = 3) →
    hOpcode r.msg = Op.atomC → (predict (hLine r.msg) (hCagent r.msg) true (otherHolder (some e) (hCagent r.msg)) s).1 = false →
    ∃ u h, exec c s = .next u ∧ forwardOf s Op.fwdUnq e.owner.toNat r.msg (hLine r.msg) false ∈ outOf u (agentPort e.owner.toNat) ∧
      sedgeGet u j = ownE e (hCagent r.msg) ∧ SedgeBut s u j ∧ u.home.htes = s.home.htes ++ [h] ∧ h.req = r ∧ h.a = true ∧ h.h = false ∧
      h.k = ((invSet s e).filter (· ≠ hCagent r.msg)).map (BitVec.ofNat 8) ∧ OnlyChanges stepParts s u)

/-- a coherent read of a line without an entry, with no free entry in its set: the victim goes to H and each of its holders is sent a BACK_INV, while
the request waits (R166); with every entry of the set in H it is answered RETRY (R167). -/
def Sys2Proof.Machine.RoomMade : Prop :=
  ∀ (c : Instr) (s : State) (r : Req) (op : Nat), TakesMem s c r op → (op = Op.rdShr ∨ op = Op.rdUnq ∨ op = Op.upgrade) →
    (∀ j ts, sedgeRoom s (liveSet s (hLine r.msg)) = .victim j → hteFree s = true →
      ts = invSet s (sedgeGet s j) ++ (if (sedgeGet s j).ov then [(sedgeGet s j).owner.toNat] else []) → ts ≠ [] →
      ∃ u h, exec c s = .next u ∧ sedgeGet u j = { sedgeGet s j with st := 4 } ∧ SedgeBut s u j ∧ u.home.htes = s.home.htes ++ [h] ∧ h.req = r ∧
        h.line = sedgeLine s j ∧ h.kind = .backInv ∧ h.h = true ∧ h.k = ts.map (BitVec.ofNat 8) ∧
        (∀ x ∈ ts, ∃ w, homeMsg s Op.backInv x h.id (sedgeLine s j) false w ∈ outOf u (agentPort x)) ∧ OnlyChanges stepParts s u) ∧
    (sedgeRoom s (liveSet s (hLine r.msg)) = .allH →
      ∃ u o, exec c s = .next u ∧ Answers u r.port r.msg Op.comp St.retry o ∧ hResult o.msg = 0 ∧ SameHome s u ∧ OnlyChanges stepParts s u)

/-- O17: NearOnArray, LineReclaimed, SharersServed, AtomFar and RoomMade, together. -/
def Obligations.AtomNear : Prop := NearOnArray ∧ LineReclaimed ∧ SharersServed ∧ AtomFar ∧ RoomMade

/-- An answer of an opcode on its class, with the beats of its opcode (R29), that the home takes for HTE `h` (R194): the one it names, else the
oldest that awaits it (log 26, DEDUCED). -/
structure Sys2Proof.Machine.AnswersHome (s : State) (m : Msg) (op vc : Nat) (h : Hte) : Prop where
  present : s.pins.present = true
  opcode : hOpcode m = op
  cls : hVc m = vc
  hte : answerHte s m = some h
  found : hteGet s h.id = some h
  beats : answerBeats m = true
  clean : s.bad = []

/-- An HTE that awaits agent `c` no longer. -/
def Sys2Proof.Machine.acked (c : BitVec 8) (x : Hte) : Hte :=
  { x with k := x.k.filter (· ≠ c), biOwner := if x.biOwner = some c then none else x.biOwner }

/-- O18: COMP_ACK closes its HTE (R194); an SNP_ACK clears its agent from those that its HTE awaits, and with the last of a forward's the GRANT leaves
(Table 9.3, R188). Which
HTE takes an answer that names none is the model's reading (log 26). -/
def Obligations.AcksAdvance : Prop :=
  (∀ (p : DPort) (m : Msg) (s : State) (h : Hte), AnswersHome s m Op.compAck Vc.rsp h → (∀ x ∈ s.home.htes, h.id ∉ x.q) →
    ∃ u, exec (.compAck p m) s = .next u ∧ u.home = { s.home with htes := s.home.htes.filter (·.id ≠ h.id) } ∧ OnlyChanges [.home, .ctr] s u) ∧
  (∀ (p : DPort) (m : Msg) (s : State) (h : Hte), AnswersHome s m Op.snpAck Vc.rsp h →
    (h.k.filter (· ≠ BitVec.ofNat 8 (hCagent m)) ≠ [] →
      ∃ u, exec (.snpAck p m) s = .next u ∧
        u.home = { s.home with htes := lmod (·.id = h.id) (acked (BitVec.ofNat 8 (hCagent m))) s.home.htes } ∧
        OnlyChanges [.home, .ctr] s u) ∧
    (h.k = [BitVec.ofNat 8 (hCagent m)] → h.h = false → h.grant = true →
      ∃ u o x, exec (.snpAck p m) s = .next u ∧ Answers u h.req.port h.req.msg Op.grant St.ok o ∧ hteGet u h.id = some x ∧ x.k = [] ∧
        x.grant = false ∧ u.home.sedge = s.home.sedge ∧ OnlyChanges [.home, .ctr, .d0, .d1, .sout] s u))

/-- What an unpoisoned WB_DATA or DATA_HOME carries (R170). -/
def Sys2Proof.Machine.dataOf (m : Msg) : HData :=
  { d := msgTwo m, dirty := nbit (hResult m) 0, poi := false, agent := BitVec.ofNat 8 (hCagent m), reqid := BitVec.ofNat 12 (hReqid m) }

/-- What an H state leaves of a line's entry `c` (R193): nothing, or `after` in its place, in S only with sharers. -/
def Sys2Proof.Machine.leftEntry (c : SedgeE) : Option SedgeE → SedgeE
  | none => SedgeE.zero
  | some a => if a.st = 1 then settleS { a with hg := c.hg, shi := c.shi, tag := c.tag } else { a with hg := c.hg, shi := c.shi, tag := c.tag }

/-- From `s` to `u` the H state of line `l` has left entry `after` (R193 step 3). -/
def Sys2Proof.Machine.EntryLeft (s u : State) (l : LAddr) (after : Option SedgeE) : Prop :=
  (sedgeFind s l = none → u.home.sedge = s.home.sedge) ∧
  (∀ j, sedgeFind s l = some j → sedgeGet u j = leftEntry (sedgeGet s j) after ∧ SedgeBut s u j)

/-- From `s` to `u` the home has written data `g` for HTE `h` to the way at `k`, as a write of the whole line under the attributes of its region,
which on M under WTHRU sends the line and leaves D but for poison (R73, R170; log 37), and closed the HTE: its entry is as R193 leaves it and the
requests that waited for the line are looked up again. -/
structure Sys2Proof.Machine.HomeWrote (s u : State) (h : Hte) (g : HData) (k : Nat) : Prop where
  data : dataGet u k = g.d
  dirty : tagGet u k = { tagGet s k with
    pf := false, poi := g.poi, d := (tagGet s k).d || g.poi || (g.dirty && (homeReq s h.req h.line).attr.wpol != 2) }
  otherData : DataBut s u k
  otherTags : TagsBut s u k
  memory : u.mp = (if (homeReq s h.req h.line).attr.wpol = 2 then
      { s.mp with plist := if g.poi then s.mp.plist else s.mp.plist.filter (· ≠ h.line), wseq := s.mp.wseq + 1,
                  writes := s.mp.writes ++ [(s.mp.wseq, .wthru h.line g.d fullMask g.poi (tagGet s k).sealed (tagGet s k).qc (tagGet s k).tc)] }
    else { s.mp with plist := if g.poi then s.mp.plist else s.mp.plist.filter (· ≠ h.line) })
  entry : EntryLeft s u h.line h.after
  closed : u.home.htes = s.home.htes.filter (·.id ≠ h.id)
  again : u.home.relook = (if h.kind = .backInv ∧ h.req.src ≠ .own then h.req :: h.held else h.held) ++ s.home.relook
  frame : OnlyChanges [.arr, .mp, .home, .ctr, .peat, .d0, .ints, .log] s u

/-- O19: the data of a WB or of a BACK_INV that ends a line's H state is written to the array as a write of the whole line, and the HTE closes, whether at
once (WB_DATA, DATA_HOME; log 26 for an answer that names no HTE) or when a data write that found no room is tried again (HTE_DEFERRED_WRITE, R170,
R193). -/
def Obligations.HomeDataWritten : Prop :=
  (∀ (p : DPort) (m : Msg) (s : State) (h : Hte) (k : Nat), AnswersHome s m Op.wbData Vc.dat h → Canonical s → hStatus m = St.ok → h.kind = .wb →
    h.h = true → h.k = [] → h.qWait = false → placeOf s h.line = .way k →
    ∃ u, exec (.wbData p m) s = .next u ∧ HomeWrote s u h (dataOf m) k) ∧
  (∀ (p : DPort) (m : Msg) (s : State) (h : Hte) (k : Nat), AnswersHome s m Op.dataHome Vc.dat h → Canonical s → hStatus m = St.ok →
    h.kind = .backInv → h.h = true → h.k = [BitVec.ofNat 8 (hCagent m)] → h.qWait = false → placeOf s h.line = .way k →
    ∃ u, exec (.dataHome p m) s = .next u ∧ HomeWrote s u h (dataOf m) k) ∧
  (∀ (i : Fin 256) (s : State) (h : Hte) (g : HData) (k : Nat), hteGet s i.val = some h → h.got = some g → hReady h = true →
    (h.kind = .wb ∨ h.kind = .backInv) → Canonical s → s.bad = [] → placeOf s h.line = .way k →
    ∃ u, exec (.hteDeferredWrite i) s = .next u ∧ HomeWrote s u h g k)

/-- a home transaction without H that has been open for the home timeout answers its requester with DATA of status TIMEOUT and no beats, logs a
HOME_TIMEOUT, and closes (R185, R199). -/
def Sys2Proof.Machine.HomeTimeoutAnswers : Prop :=
  ∀ (i : Fin 256) (s : State) (h : Hte), hteGet s i.val = some h → hteExpired s h = true → h.h = false → (∀ x ∈ s.home.htes, i.val ∉ x.q) →
    s.bad = [] →
    ∃ u o, exec (.homeTimeout i) s = .next u ∧ Answers u h.req.port h.req.msg Op.data St.timeout o ∧ o.msg.beats = [] ∧
      u.home = { s.home with htes := s.home.htes.filter (·.id ≠ i.val) } ∧
      (s.log.notices.length < 64 → s.log.notices.length < u.log.notices.length) ∧
      OnlyChanges [.home, .log, .ints, .d0, .d1, .sout, .ctr] s u

/-- an answer to the home, with the beats of its opcode, that no HTE awaits, and a message that the slice does not expect, are counted and have no other effect (R186, R375); a
TEMP_RPT on class CTL without beats is accepted, to be applied at the end of the SCLK (R29, R51, log 23). -/
def Sys2Proof.Machine.OtherMessages : Prop :=
  (∀ (p : DPort) (m : Msg) (s : State), s.pins.present = true → isAnswer m = true → answerBeats m = true → answerHte s m = none → pdOn s 76 = true →
    ∃ u, exec (.unmatchedAnswer p m) s = .next u ∧
      u.ctr.occ = s.ctr.occ ++ [{ ev := 0x89, kind := .u, subj := subjNone, n := 1, ord := 7 }] ∧ OnlyChanges [.ctr] s u) ∧
  (∀ (p : DPort) (m : Msg) (s : State), s.pins.present = true → hVc m ≠ Vc.req → isReqOp (hOpcode m) = false → isAnswer m = false →
    ¬ (hOpcode m = Op.tempRpt ∧ hVc m = Vc.ctl) → pdOn s 76 = true →
    ∃ u, exec (.unexpectedMessage p m) s = .next u ∧
      u.ctr.occ = s.ctr.occ ++ [{ ev := 0x89, kind := .u, subj := subjNone, n := 1, ord := 7 }] ∧ OnlyChanges [.ctr] s u) ∧
  (∀ (p : DPort) (m : Msg) (s : State), s.pins.present = true → hOpcode m = Op.tempRpt → hVc m = Vc.ctl →
    ∃ u, exec (.tempRpt p m) s = .next u ∧
      u.regul = (if m.beats = [] then { s.regul with rpts := s.regul.rpts ++ [(p, m)] } else s.regul) ∧ OnlyChanges [.regul, .ctr] s u)

/-- a home transaction that holds its line in H, received no data and has been open for the home timeout: its request and those that wait for the line
are answered TIMEOUT, the line is poisoned where an owner was asked for its data, each agent that did not answer is reported, and the HTE closes with the
entry that Table 9.7 leaves (R185, R199, R359, R364). -/
def Sys2Proof.Machine.HomeTimeoutInH : Prop :=
  ∀ (i : Fin 256) (s : State) (h : Hte), hteGet s i.val = some h → hteExpired s h = true → h.h = true → h.got = none → s.bad = [] → Canonical s →
    ∃ u, exec (.homeTimeout i) s = .next u ∧ u.home.htes = s.home.htes.filter (·.id ≠ i.val) ∧ u.home.relook = s.home.relook ∧
      EntryLeft s u h.line (afterTimeout s h) ∧
      (h.kind ≠ .wb → h.req.src = .port → h.held = [] → ∃ o, o ∈ outOf u h.req.port ∧
        o.msg = rspMsg s h.req.port h.req.msg { op := Op.comp, vc := Vc.rsp, status := St.timeout }) ∧
      (∀ r ∈ h.held, r.src = .port → ∃ o, o ∈ outOf u r.port ∧ o.msg = rspMsg s r.port r.msg { op := Op.comp, vc := Vc.rsp, status := St.timeout }) ∧
      ((h.d.isSome || h.w.isSome || h.biOwner.isSome) = true → ∀ k, placeOf s h.line = .way k →
        tagGet u k = { tagGet s k with poi := true, d := true } ∧ TagsBut s u k) ∧
      ((h.d.isSome || h.w.isSome || h.biOwner.isSome) = true → placeOf s h.line = .absent → s.mp.plist.length < 256 → h.line ∈ u.mp.plist) ∧
      ((h.d.isSome || h.w.isSome || h.biOwner.isSome) = false → u.arr = s.arr ∧ u.mp = s.mp) ∧
      (s.log.notices.length < 64 → s.log.notices.length < u.log.notices.length) ∧
      OnlyChanges [.arr, .mp, .home, .log, .ints, .pins, .mace, .d0, .d1, .sout, .ctr] s u

/-- O20: HomeTimeoutAnswers, HomeTimeoutInH and OtherMessages, together. -/
def Obligations.HomeSinks : Prop := HomeTimeoutAnswers ∧ HomeTimeoutInH ∧ OtherMessages

/-! ### Memory port and fills -/

/-- M issues one command at a time: the read that R241 picks, or the oldest write that may leave, each against a credit and in turn (R76, R335,
Table 16.2); with neither, nothing happens (the model's reading of a row whose event does not occur, log 10). -/
def Sys2Proof.Machine.MemoryCommandLeaves : Prop :=
  (∀ (s : State) (e : Miss), s.mp.rcr ≠ 0 → readPick s = some e → e.sealed = false →
    (s.mp.wcr = 0 ∨ writeReady s = none ∨ s.mp.mire.length < 48 ∧ s.mp.wrTurn = false) →
    ∃ u, exec .mCommandIssue s = .next u ∧
      u.mp = { s.mp with rcr := s.mp.rcr - 1, wrTurn := true, miss := lmod (·.id = e.id) (fun x => { x with st := .waitData }) s.mp.miss } ∧
      u.pins = { s.pins with mCmd := some { word := mWord e.id 0 0 e.line, data := none } } ∧ OnlyChanges [.pins, .mp, .ctr] s u) ∧
  (∀ (s : State) (q : Nat × MWork) (w : MWr), s.mp.wcr ≠ 0 → writeReady s = some q → workInfo s q.2 = some w → w.sealed = false → w.poi = false →
    (s.mp.rcr = 0 ∨ readPick s = none ∨ 48 ≤ s.mp.mire.length ∨ s.mp.wrTurn = true) → s.bad = [] →
    ∃ u, exec .mCommandIssue s = .next u ∧ u.mp.writes = s.mp.writes.filter (·.1 ≠ q.1) ∧ u.mp.wcr = s.mp.wcr - 1 ∧ u.mp.rcr = s.mp.rcr ∧
      u.mp.wrTurn = false ∧ u.mp.outW = s.mp.outW ++ [(w.tag, w.line, w.tc)] ∧ u.mp.miss = s.mp.miss ∧ u.mp.plist = s.mp.plist ∧
      u.pins = { s.pins with mCmd := some { word := mWord w.bits (b2n (w.mask != fullMask)) 1 w.line, data := some (w.data, w.mask) } } ∧
      OnlyChanges [.pins, .mp, .ctr] s u) ∧
  (∀ s : State, (s.mp.rcr = 0 ∨ readPick s = none) → (s.mp.wcr = 0 ∨ writeReady s = none) → exec .mCommandIssue s = .next s)

/-- a credit that M returns is kept, up to the number that the slice may hold; one beyond is discarded (R336). -/
def Sys2Proof.Machine.MemoryCreditReturns : Prop :=
  ∀ (w : Bool) (s : State), s.pins.porstN = true → s.pins.drstN = true →
    ∃ u, exec (.mCreditReturn w) s = .next u ∧
      u.mp = (if w then { s.mp with wcr := min 128 (s.mp.wcr + 1) } else { s.mp with rcr := min 1024 (s.mp.rcr + 1) }) ∧ OnlyChanges [.mp] s u

/-- Miss entry `x` of number `i` awaits its line for one read of a port, which it will keep (R21, R73). -/
structure Sys2Proof.Machine.AwaitsRead (s : State) (i : Nat) (x : Miss) (r : Req) : Prop where
  found : s.mp.miss.find? (·.id = i) = some x
  kind : x.kind = .read
  att : x.att = [.read r]
  port : r.src = .port
  keeps : x.attr.ralloc ≠ 1
  clean : s.bad = []
  unlisted : listed s x.line = false
  sound : x.hpoi = false

/-- From `s` to `u` the entry has received line `d`, poisoned or not, answered its read, and waits to install. -/
def Sys2Proof.Machine.ReadServed (s u : State) (i : Nat) (x : Miss) (r : Req) (d : Line) (poi : Bool) : Prop :=
  (∃ o, Answers u r.port r.msg Op.data (poiSt poi) o ∧ o.msg.beats = spanData (hOff r.msg) (hLen r.msg) d) ∧
  (∃ y, u.mp.miss.find? (·.id = i) = some y ∧ y.line = x.line ∧ y.st = .waitInstall ∧ y.buf = d ∧ y.poi = poi ∧ y.dirty = false ∧ y.att = []) ∧
  u.mp.miss.filter (·.id ≠ i) = s.mp.miss.filter (·.id ≠ i)

/-- data from M for a read that awaits it is sent to the requester, POISON if M gives it poisoned, and waits to install (R21, R357); a sealed line is
opened and sent once its MAC has come, POISON if the MAC is not good (R252). -/
def Sys2Proof.Machine.FillServed : Prop :=
  (∀ (e : Fin 1024) (d : Line) (p : BitVec 2) (s : State) (x : Miss) (r : Req), AwaitsRead s e.val x r → x.st = .waitData → x.mdata = none →
    x.sealed = false →
    ∃ u, exec (.mReadData e d p) s = .next u ∧ ReadServed s u e.val x r d (p != 0) ∧
      OnlyChanges [.mp, .d0, .d1, .sout, .ctr, .log, .ints] s u) ∧
  (∀ (e : Fin 1024) (st : BitVec 3) (mac : BitVec 64) (d : Line) (s : State) (x : Miss) (r : Req) (o : Own), AwaitsRead s e.val x r →
    x.mdata = some (d, 0) → x.sealed = true → s.srv.own.find? (fun o => o.kind == .macRead e.val) = some o →
    ∃ u, exec (.sealMacReadData e st mac) s = .next u ∧
      ReadServed s u e.val x r (xtsOpen (keyGet s x.tc.toNat).k1 (keyGet s x.tc.toNat).k2 (sealTweak x.tc.toNat (chipN s) x.line.toNat) d)
        (!(st == 0 && sealMac (keyGet s x.tc.toNat).km (sealTweak x.tc.toNat (chipN s) x.line.toNat) d == mac)) ∧
      u.srv = { s.srv with own := s.srv.own.filter (·.txid ≠ o.txid) } ∧ OnlyChanges [.mp, .d0, .d1, .sout, .ctr, .log, .ints, .srv] s u)

/-- The tag that a filled miss entry's line is installed with (Table 3.3, R62); a line that its fill poisoned is clean (R357). -/
def Sys2Proof.Machine.filledTag (x : Miss) : TagE :=
  { lo := x.line.extractLsb' 0 14, tc := x.tc, qc := x.qc, clv := false, pf := x.kind == .prefetch && x.nAtt == 0, sealed := x.sealed, poi := x.poi,
    d := missDirty x, v := true, tag := x.line.extractLsb' 14 23 }

/-- The writes that the bytes of WTHRU writes in miss entry `x` become when its line is installed, numbered from `n` (R73, R249). -/
def Sys2Proof.Machine.thruWork (x : Miss) (n : Nat) : List (Nat × MWork) :=
  x.thru.zipIdx.map fun p => (n + p.2, .wthru x.line p.1.data (if x.sealed then fullMask else p.1.mask) (p.1.poi || x.poi) x.sealed x.qc x.tc)

/-- a filled line takes the way of the victim that R65 picks in its set, the live one, or that of its request's classification while the rehash sweep has yet to visit it (R25, R59, log 33): a
clean victim is dropped, a dirty one moves to Mire and waits to be written back (R67), and the fill waits while Mire is full (R78). With no victim
an entry that no write or operation reached installs nothing, and another sends its whole line to M (R66). The bytes of WTHRU writes leave with
the install (R73). -/
def Sys2Proof.Machine.FillInstalled : Prop :=
  ∀ (e : Fin 1024) (s : State) (x : Miss) (set : Nat), s.mp.miss.find? (·.id = e.val) = some x → x.st = .waitInstall → s.bad = [] → Canonical s →
    set = instSet s x.line x.set.toNat →
    (∀ w, victim s x.qc.toNat x.tc.toNat set = some w → ((tagGet s (wkey set w)).v && (tagGet s (wkey set w)).d) = false →
      ∃ u, exec (.fillInstall e) s = .next u ∧ dataGet u (wkey set w) = x.buf ∧ tagGet u (wkey set w) = filledTag x ∧
        DataBut s u (wkey set w) ∧ TagsBut s u (wkey set w) ∧
        u.mp = { s.mp with miss := s.mp.miss.filter (·.id ≠ e.val), writes := s.mp.writes ++ thruWork x s.mp.wseq,
                           wseq := s.mp.wseq + x.thru.length } ∧ OnlyChanges [.arr, .mp, .ctr] s u) ∧
    (∀ w, victim s x.qc.toNat x.tc.toNat set = some w → ((tagGet s (wkey set w)).v && (tagGet s (wkey set w)).d) = true → mireFull s = false →
      ∃ u m, exec (.fillInstall e) s = .next u ∧ dataGet u (wkey set w) = x.buf ∧ tagGet u (wkey set w) = filledTag x ∧
        DataBut s u (wkey set w) ∧ TagsBut s u (wkey set w) ∧
        u.mp.mire = s.mp.mire ++ [m] ∧ m.line = (tagGet s (wkey set w)).line ∧ m.data = dataGet s (wkey set w) ∧
        m.poi = (tagGet s (wkey set w)).poi ∧ u.mp.writes = s.mp.writes ++ (s.mp.wseq, .mire m.id) :: thruWork x (s.mp.wseq + 1) ∧
        u.mp.miss = s.mp.miss.filter (·.id ≠ e.val) ∧ OnlyChanges [.arr, .mp, .ctr] s u) ∧
    (∀ w, victim s x.qc.toNat x.tc.toNat set = some w → ((tagGet s (wkey set w)).v && (tagGet s (wkey set w)).d) = true → mireFull s = true →
      exec (.fillInstall e) s = .next s) ∧
    (victim s x.qc.toNat x.tc.toNat set = none →
      ∃ u, exec (.fillInstall e) s = .next u ∧ u.mp = (if x.wrote then
          { s.mp with miss := lmod (·.id = e.val) (fun y => { y with st := .writeOut, mask := fullMask, thru := [] }) s.mp.miss,
                      writes := s.mp.writes ++ [(s.mp.wseq, .around e.val)], wseq := s.mp.wseq + 1 }
        else { s.mp with miss := s.mp.miss.filter (·.id ≠ e.val) }) ∧ OnlyChanges [.mp, .ctr] s u)

/-- O21: FillServed and FillInstalled, together. -/
def Obligations.FillsLand : Prop := FillServed ∧ FillInstalled

/-- M's acknowledgement frees the Mire entry, the miss entry or the clean-write slot whose write it answers (R77, R73, R273), and a failed write of any
kind puts its line on the poison list with its report (R358); of several writes with one tag, as all of WTHRU hits have, the oldest is acknowledged (the
model's choice, log 6); the answer to a MAC WR ends it, logged if it failed (R251). -/
def Sys2Proof.Machine.WriteAcknowledged : Prop :=
  (∀ (i : Fin 64) (s : State) (m : MireE), s.mp.outW.any (fun x => x.1 == .mire i) = true → s.mp.mire.find? (·.id = i.val) = some m →
    m.macOut = false → m.redirty = false → s.mp.writes.any (fun w => w.2 == .mire i.val) = false → s.srv.drain = none →
    ∃ u, exec (.mWriteAck (.mire i) false) s = .next u ∧ u.mp.mire = s.mp.mire.filter (·.id ≠ i.val) ∧
      u.mp.outW = s.mp.outW.eraseIdx (s.mp.outW.findIdx fun x => x.1 == .mire i) ∧ u.mp.miss = s.mp.miss ∧ u.mp.writes = s.mp.writes ∧
      OnlyChanges [.mp] s u) ∧
  (∀ (e : Fin 1024) (s : State), s.mp.outW.any (fun x => x.1 == .around e) = true →
    ∃ u, exec (.mWriteAck (.around e) false) s = .next u ∧
      u.mp = { s.mp with outW := s.mp.outW.eraseIdx (s.mp.outW.findIdx fun x => x.1 == .around e), miss := s.mp.miss.filter (·.id ≠ e.val) } ∧
      OnlyChanges [.mp] s u) ∧
  (∀ (k : Fin 64) (s : State) (c : CleanW), s.mp.outW.any (fun x => x.1 == .clean k) = true → s.mp.clean.find? (·.slot = k.val) = some c →
    c.macOut = false → s.srv.drain = none →
    ∃ u, exec (.mWriteAck (.clean k) false) s = .next u ∧ u.mp.clean = s.mp.clean.filter (·.slot ≠ k.val) ∧
      u.mp.outW = s.mp.outW.eraseIdx (s.mp.outW.findIdx fun x => x.1 == .clean k) ∧ u.mp.miss = s.mp.miss ∧ u.mp.mire = s.mp.mire ∧
      OnlyChanges [.mp] s u) ∧
  (∀ (t : MTag) (s : State) (y : MTag × LAddr × BitVec 4), s.mp.outW.find? (fun x => x.1 == t) = some y → listed s y.2.1 = false →
    s.mp.plist.length < 256 →
    ∃ u, exec (.mWriteAck t true) s = .next u ∧ u.mp.plist = s.mp.plist ++ [y.2.1] ∧
      u.mp.outW = s.mp.outW.eraseIdx (s.mp.outW.findIdx fun x => x.1 == t) ∧
      (s.log.notices.length < 64 → u.log.notices.length = s.log.notices.length + 1) ∧ OnlyChanges [.mp, .log, .ints, .d0, .mbx, .srv] s u) ∧
  (∀ (tx : BitVec 16) (st : BitVec 3) (s : State) (l : LAddr) (tc : BitVec 4), ownFind s tx = some (.macWrite l tc) →
    ∃ u, exec (.macWriteComp tx st) s = .next u ∧ u.srv = { s.srv with own := s.srv.own.filter (·.txid ≠ tx) } ∧ (st = 0 → u.log = s.log) ∧
      (st ≠ 0 → s.log.notices.length < 64 → u.log.notices.length = s.log.notices.length + 1) ∧ OnlyChanges [.srv, .log, .ints, .d0] s u)

/-- O22: MemoryCommandLeaves, MemoryCreditReturns and WriteAcknowledged, together. -/
def Obligations.MemoryPort : Prop := MemoryCommandLeaves ∧ MemoryCreditReturns ∧ WriteAcknowledged

/-- O23: the oldest prefetch candidate opens a miss entry for its line if R80 holds for it, and is dropped if not. -/
def Obligations.PrefetchTaken : Prop :=
  ∀ (s : State) (c : Cand) (rest : List Cand), s.pf.cands = c :: rest → s.srv.halt = false → s.bad = [] →
    ∃ u, exec .prefetchFill s = .next u ∧ u.pf = { s.pf with cands := rest } ∧
      (candOk c s = true → ∃ e, u.mp = { s.mp with miss := s.mp.miss ++ [e] } ∧ e.line = c.line ∧ e.kind = .prefetch ∧ e.st = .waitIssue ∧
        e.att = [] ∧ e.qc = c.trig.qc) ∧
      (candOk c s = false → u.mp = s.mp) ∧ OnlyChanges [.pf, .mp, .ctr] s u

/-- O24: Clove adds the last contribution of the oldest exact request to its element's 320-bit accumulator, in a group that is not poisoned: the request
completes, and its tally grows by its bytes (R121, R122, R137, R130). No other line of the array changes. -/
def Obligations.ExactAdds : Prop :=
  ∀ (s : State) (q : ExactReq) (rest : List ExactReq) (g : Region) (c : Contr), s.fen.exactQ = q :: rest → regionFind s q.rid = some g → q.todo = [c] →
    q.poi = false → q.met = false → q.req.src = .port → s.bad = [] → Canonical s → (groupKeys g (c.n / 32)).Nodup →
    (∀ k ∈ groupKeys g (c.n / 32), (tagGet s k).poi = false ∧ keyRetired s k = false) →
    ∃ u o, exec .exactStep s = .next u ∧ accRead u g c.n = accAdd (accRead s g c.n) c % 2 ^ 320 ∧
      (∀ k, k ∉ groupKeys g (c.n / 32) → dataGet u k = dataGet s k) ∧ (∀ k, tagGet u k = tagGet s k) ∧ u.fen = { s.fen with exactQ := rest } ∧
      Answers u q.req.port q.req.msg Op.comp St.ok o ∧ TallyOf s u q.req.msg q.bytes ∧ OnlyChanges [.arr, .fen, .tal, .d0, .d1, .sout, .ctr] s u

/-! ### Sweeps and generations -/

/-- The array can be swept: no storage error, no clean write under way, room in Mire for a set. -/
structure Sys2Proof.Machine.SweepRoom (s : State) : Prop where
  clean : s.bad = []
  writes : s.mp.clean = []
  mire : s.mp.mire.length ≤ 32
  canonical : Canonical s

/-- From `s` to `u` the ways of a set that `p` picks have left the array: dirty lines are in Mire, the others are gone; all else of the array stays. -/
structure Sys2Proof.Machine.SetSwept (s u : State) (set : Nat) (p : Nat → Bool) : Prop where
  gone : ∀ w < 32, p (wkey set w) = true → (tagGet u (wkey set w)).v = false
  kept : ∀ k, k / 32 ≠ set ∨ p k = false → tagGet u k = tagGet s k
  saved : ∀ w < 32, p (wkey set w) = true → (tagGet s (wkey set w)).v = true → (tagGet s (wkey set w)).d = true →
    ∃ m ∈ u.mp.mire, m.line = (tagGet s (wkey set w)).line ∧ m.data = dataGet s (wkey set w) ∧ m.poi = (tagGet s (wkey set w)).poi
  mire : ∀ m ∈ s.mp.mire, m ∈ u.mp.mire
  data : u.arr.data = s.arr.data
  miss : u.mp.miss = s.mp.miss

/-- a step of the rehash, conversion or DRAIN EMPTY sweep takes the lines it is for out of its set and goes on to the next (R59, R69, R273, R67). -/
def Sys2Proof.Machine.SweepEmptiesSet : Prop :=
  ∀ s : State, SweepRoom s →
    (∀ r, s.gen.rehash = some r → r.apos < 16384 →
      ∃ u, exec .rehashSweepStep s = .next u ∧ SetSwept s u r.apos (placedOld s) ∧
        u.gen = { s.gen with rehash := if r.apos + 1 = 16384 ∧ r.spos = 4096 then none else some { r with apos := r.apos + 1 } } ∧
        OnlyChanges [.arr, .mp, .gen, .ctr] s u) ∧
    (∀ c, s.gen.conv = some c →
      ∃ u, exec .conversionSweepStep s = .next u ∧ SetSwept s u c.pos (fun k => groupConverts s (k % 32 / 4)) ∧
        u.gen = { s.gen with conv := if c.pos + 1 < 16384 then some { c with pos := c.pos + 1 } else none } ∧
        OnlyChanges [.arr, .mp, .gen, .ctr] s u) ∧
    (∀ d, s.srv.drain = some d → d.mode = .empty → d.pos + 32 < sweepEnd →
      ∃ u a b, exec .drainEmptySweepStep s = .next u ∧ SetSwept s u (d.pos / 32) (fun k => holdsCache s (k % 32)) ∧
        u.srv = { s.srv with drain := some { d with wb := a, inv := b, pos := d.pos + 32 } } ∧ OnlyChanges [.arr, .mp, .srv, .ctr] s u)

/-- a step of the DRAIN CLEAN sweep sends every dirty line of its set to M from a clean-write slot; the lines stay, with D = 0 (R273). -/
def Sys2Proof.Machine.DrainCleanSweep : Prop :=
  ∀ (s : State) (d : Drain), SweepRoom s → s.srv.drain = some d → d.mode = .clean → d.pos + 32 < sweepEnd →
    ∃ u b, exec .drainCleanSweepStep s = .next u ∧
      (∀ w < 32, (tagGet s (wkey (d.pos / 32) w)).v = true → (tagGet s (wkey (d.pos / 32) w)).d = true → holdsCache s w = true →
        ∃ c ∈ u.mp.clean, c.line = (tagGet s (wkey (d.pos / 32) w)).line ∧ c.data = dataGet s (wkey (d.pos / 32) w) ∧ c.ackOut = true ∧
          (∃ n, (n, MWork.clean c.slot) ∈ u.mp.writes) ∧
          tagGet u (wkey (d.pos / 32) w) = { tagGet s (wkey (d.pos / 32) w) with d := false }) ∧
      (∀ k, k / 32 ≠ d.pos / 32 ∨ (tagGet s k).v = false ∨ (tagGet s k).d = false ∨ holdsCache s (k % 32) = false → tagGet u k = tagGet s k) ∧
      u.arr.data = s.arr.data ∧ u.mp.mire = s.mp.mire ∧ u.mp.miss = s.mp.miss ∧
      u.srv = { s.srv with drain := some { d with wb := b, pos := d.pos + 32 } } ∧ OnlyChanges [.arr, .mp, .srv, .ctr] s u

/-- O25: SweepEmptiesSet and DrainCleanSweep, together. -/
def Obligations.ArraySwept : Prop := SweepEmptiesSet ∧ DrainCleanSweep

/-- A Sedge entry under the live matrix, in the Sedge set it was in (R59). -/
def Sys2Proof.Machine.sedgeKept (s : State) (k : Nat) : SedgeE :=
  let e := sedgeGet s k
  if e.st ≠ 0 ∧ e.hg ≠ s.gen.hg then { e with hg := s.gen.hg, shi := BitVec.ofNat 2 (liveSet s (sedgeLine s k) / 4096) } else e

/-- O26: a step of the Sedge sweep in a set whose entries the live matrix keeps there marks them as of the live matrix, and goes on to the next set (R59). -/
def Obligations.SedgeSweepMarks : Prop :=
  ∀ (s : State) (r : Rehash), s.gen.rehash = some r → r.spos < 4096 → s.bad = [] →
    (∀ w < 8, (sedgeGet s (skey r.spos w)).st ≠ 0 → (sedgeGet s (skey r.spos w)).hg ≠ s.gen.hg →
      liveSet s (sedgeLine s (skey r.spos w)) % 4096 = r.spos) →
    ∃ u, exec .sedgeSweepStep s = .next u ∧ (∀ w < 8, sedgeGet u (skey r.spos w) = sedgeKept s (skey r.spos w)) ∧
      (∀ k, k / 8 ≠ r.spos → sedgeGet u k = sedgeGet s k) ∧ u.home.htes = s.home.htes ∧ u.home.splru = s.home.splru ∧ u.home.pred = s.home.pred ∧
      u.home.relook = s.home.relook ∧
      u.gen = { s.gen with rehash := if r.apos = 16384 ∧ r.spos + 1 = 4096 then none else some { r with spos := r.spos + 1, vics := [] } } ∧
      OnlyChanges [.home, .gen, .ctr] s u

/-- O27: the first SCLK whose FT value is at or past the target of an armed COMMIT starts with its candidate as the live generation, whole, unless an
agent or the lines held now forbid it; either way the result is recorded and its cause raised (R24, R268, R270). COMMIT_APPLY ends the SCLK before
(the model's choice, log 2), so that no SCLK has two generations; while the instant has not come nothing happens (log 10). -/
def Obligations.CommitTakesEffect : Prop :=
  ∀ (s : State) (a : Armed), s.gen.armed = some a → s.pins.porstN = true →
    (commitDue s a = false → exec .commitApply s = .next s) ∧
    (commitDue s a = true → s.clk.ft.toNat + 2 < 2 ^ 64 →
      (firstRefused [bindBad s a.cand, hashBad s a.cand] = none →
        ∃ u, exec .commitApply s = .next u ∧ u.gen.live = a.cand ∧ u.gen.shadow = a.cand ∧ u.gen.gen = a.gen ∧ u.gen.armed = none ∧
          u.gen.last = 0 ∧ u.gen.gft = u.clk.ft ∧ u.ints.stat.getLsbD Cause.genDone = true ∧ u.srv.allocOff = false ∧
          u.clk.sclk = s.clk.sclk + 1 ∧ u.pending = s.pending ∧ u.mp = s.mp ∧ u.banks = s.banks ∧ u.core = s.core ∧ u.keys = s.keys) ∧
      (∀ f, firstRefused [bindBad s a.cand, hashBad s a.cand] = some f →
        ∃ u, exec .commitApply s = .next u ∧
          u.gen = { s.gen with armed := none, last := 2, ftab := BitVec.ofNat 8 f.tab, fcode := BitVec.ofNat 4 f.code,
                               fent := BitVec.ofNat 12 f.ent, gft := u.clk.ft } ∧
          u.ints.stat.getLsbD Cause.genFail = true ∧ u.clk.sclk = s.clk.sclk + 1 ∧ u.pending = s.pending ∧ u.arr = s.arr ∧ u.mp = s.mp ∧
          u.banks = s.banks ∧ u.core = s.core ∧ u.keys = s.keys))

/-! ### Fen segments and exact regions -/

/-- The frames that a FEN_ALLOC asks for: twice GRAN for a dual segment (R86, R91). -/
def Sys2Proof.Machine.framesAsked (s : State) (t : Nat) : Nat := if argB s t 0 18 then 2 * argF s t 0 0 11 else argF s t 0 0 11

/-- FEN_ALLOC sets frames aside, and when they are zeroed the segment exists: every line of its frames reads 0, is valid and belongs to its owner, and
the command completes with its number and the pool (R84, R86, R91). -/
def Sys2Proof.Machine.FenAllocated : Prop :=
  (∀ (s : State) (t : Nat) (rest : List Nat), Heads s 0x10 t rest → (t = 0 ∨ argF s t 1 0 16 &&& (0xFFFF - 2 ^ t) = 0) →
    argRsv s t [(0, 30, 2), (0, 20, 4), (0, 11, 5), (1, 24, 8), (2, 28, 3)] = false → 1 ≤ argF s t 0 0 11 → argF s t 0 0 11 ≤ 1024 →
    commitArmed s = false → s.pins.present = true → argB s t 0 19 = false → segTaken s (argF s t 0 24 6) = false →
    framesAsked s t ≤ (freeFrames s (argF s t 1 16 8)).length →
    ∃ u, exec .fenAlloc s = .next u ∧ GoesOn s u t rest [.fen] ∧
      u.fen = { s.fen with zeroing := s.fen.zeroing ++ [{ seg := allocSeg s t (argF s t 0 24 6) ((freeFrames s (argF s t 1 16 8)).take (framesAsked s t)), mbx := t }] }) ∧
  (∀ (k : Nat) (s : State) (z : Zeroing), s.fen.zeroing[k]? = some z → Canonical s → (∀ f ∈ segFrames z.seg, f < 1024) →
    ∃ u, exec (.fenAllocZeroed k) s = .next u ∧ Ended s u z.mbx Mc.ok (z.seg.id :: poolRes u) ∧
      u.fen = { s.fen with zeroing := s.fen.zeroing.eraseIdx k, segs := s.fen.segs ++ [z.seg] } ∧
      (∀ f ∈ segFrames z.seg, ∀ l < 512, dataGet u (frameKey f l) = 0 ∧ tagGet u (frameKey f l) = { TagE.zero with v := true, tc := z.seg.owner }) ∧
      (∀ j, keyFrame j ∉ segFrames z.seg → tagGet u j = tagGet s j ∧ dataGet u j = dataGet s j) ∧
      OnlyChanges [.fen, .arr, .bad, .mbx, .ints, .d0] s u)

/-- FEN_FREE removes its segment and completes; its frames return to the pool, their lines no longer valid, once no request that was classified to
them waits (R87). -/
def Sys2Proof.Machine.FenFreed : Prop :=
  (∀ (s : State) (t : Nat) (rest : List Nat) (g : Seg), Heads s 0x11 t rest → segPerm s t (argF s t 0 0 6) = true → argF s t 0 6 26 = 0 →
    segFind s (argF s t 0 0 6) = some g → xferOn s (argF s t 0 0 6) = false → (∀ r ∈ s.fen.regions, r.seg ≠ argF s t 0 0 6) →
    ∃ u, exec .fenFree s = .next u ∧ Completes s u t rest Mc.ok [] [.fen] ∧
      u.fen = { s.fen with segs := s.fen.segs.filter (·.id ≠ argF s t 0 0 6), reclaims := s.fen.reclaims ++ [segFrames g] }) ∧
  (∀ (k : Nat) (s : State) (fs : List Nat), s.fen.reclaims[k]? = some fs → (∀ l ∈ waitingLocs s, l.frame ∉ fs) → Canonical s → (∀ f ∈ fs, f < 1024) →
    ∃ u, exec (.fenFreeReclaim k) s = .next u ∧ u.fen = { s.fen with reclaims := s.fen.reclaims.eraseIdx k } ∧
      (∀ f ∈ fs, ∀ l < 512, tagGet u (frameKey f l) = TagE.zero) ∧ (∀ j, keyFrame j ∉ fs → tagGet u j = tagGet s j) ∧ u.arr.data = s.arr.data ∧
      OnlyChanges [.fen, .arr] s u)

/-- O28: FenAllocated and FenFreed, together. -/
def Obligations.FenFrames : Prop := FenAllocated ∧ FenFreed

/-- The arguments of FEN_LOAD and FEN_FLUSH name a transfer that may start, in copy `b` (R88, R90). -/
structure Sys2Proof.Machine.TransferOk (s : State) (t : Nat) (g : Seg) (b : Bool) : Prop where
  perm : segPerm s t (argF s t 0 24 6) = true
  lines : argF s t 2 0 20 ≠ 0
  rsv : argRsv s t [(0, 30, 2), (0, 18, 6), (0, 13, 3), (1, 26, 6), (2, 20, 12)] = false
  aligned : argF s t 1 0 26 % 128 = 0
  inFen : argF s t 1 0 26 + 128 * argF s t 2 0 20 ≤ 2 ^ 26
  present : s.pins.present = true
  seg : segFind s (argF s t 0 24 6) = some g
  inside : argF s t 1 0 26 + 128 * argF s t 2 0 20 ≤ g.gran * 65536
  backed : g.bken = true
  noFlip : g.flip = none
  free : xferOn s (argF s t 0 24 6) = false
  copy : copyOf s g (BitVec.ofNat 2 (argF s t 0 16 2)) = some b

/-- A transfer whose line at an offset has been issued. -/
def Sys2Proof.Machine.lineSent (off : Nat) (x : Xfer) : Xfer := { x with next := x.next + 1, infl := x.infl ++ [off] }

/-- O29: FEN_LOAD and FEN_FLUSH start a transfer of their lines; each line issued is read from or written to the segment's backing line by a request of the
slice's own, and a line that comes in OK is written to its frame and counted to the tally it names (R88, R89, R90). -/
def Obligations.TransferMovesLines : Prop :=
  (∀ (s : State) (t : Nat) (rest : List Nat) (g : Seg) (b : Bool), TransferOk s t g b →
    (Heads s 0x12 t rest → ∃ u, exec .fenLoad s = .next u ∧ GoesOn s u t rest [.fen] ∧
      u.fen = { s.fen with xfers := s.fen.xfers ++ [newXfer s t true b] }) ∧
    (Heads s 0x13 t rest → ∃ u, exec .fenFlush s = .next u ∧ GoesOn s u t rest [.fen] ∧
      u.fen = { s.fen with xfers := s.fen.xfers ++ [newXfer s t false b] })) ∧
  (∀ (i : Fin 64) (s : State) (x : Xfer) (g : Seg), s.fen.xfers.find? (·.seg = i.val) = some x → segFind s i.val = some g → x.infl.length < 64 →
    x.fail = none → x.next < x.lines → s.bad = [] →
    (x.load = true ∨ (tagGet s (locKey (fenLoc g x.copyB (x.off + 128 * x.next)))).poi = false ∧
      keyRetired s (locKey (fenLoc g x.copyB (x.off + 128 * x.next))) = false) →
    ∃ u o, exec (.transferLineIssue i) s = .next u ∧ u.d0 = { s.d0 with out := s.d0.out ++ [o] } ∧
      hOpcode o.msg = (if x.load then Op.rd else Op.wr) ∧ hAddr o.msg = (backLine g (x.off + 128 * x.next)).toNat * 128 ∧ hLen o.msg = 128 ∧
      hTxid o.msg = s.srv.ownTx.toNat ∧
      o.msg.beats = (if x.load then [] else [lineBeat (dataGet s (locKey (fenLoc g x.copyB (x.off + 128 * x.next)))) 0,
        lineBeat (dataGet s (locKey (fenLoc g x.copyB (x.off + 128 * x.next)))) 1]) ∧
      u.srv = { s.srv with own := s.srv.own ++ [{ txid := s.srv.ownTx, kind := .xfer i.val (x.off + 128 * x.next) }], ownTx := s.srv.ownTx + 1 } ∧
      u.fen = { s.fen with xfers := lmod (·.seg = i.val) (lineSent (x.off + 128 * x.next)) s.fen.xfers } ∧ OnlyChanges [.fen, .srv, .d0, .ctr] s u) ∧
  (∀ (tx : BitVec 16) (d : Line) (s : State) (seg off : Nat) (x : Xfer) (g : Seg), ownFind s tx = some (.xfer seg off) →
    s.fen.xfers.find? (·.seg = seg) = some x → segFind s seg = some g → x.load = true → x.fail = none → x.next < x.lines → s.bad = [] → Canonical s →
    keyRetired s (locKey (fenLoc g x.copyB off)) = false →
    ∃ u, exec (.transferLineResponse tx 0 d) s = .next u ∧ dataGet u (locKey (fenLoc g x.copyB off)) = d ∧
      (tagGet u (locKey (fenLoc g x.copyB off))).poi = false ∧ DataBut s u (locKey (fenLoc g x.copyB off)) ∧
      TagsBut s u (locKey (fenLoc g x.copyB off)) ∧ (if x.ten then TallyGrows s u x.tally.toNat 128 else u.tal = s.tal) ∧
      u.fen = { s.fen with xfers := lmod (·.seg = seg) (fun x' => { x' with infl := x'.infl.filter (· ≠ off) }) s.fen.xfers } ∧
      u.srv = { s.srv with own := s.srv.own.filter (·.txid ≠ tx) } ∧
      OnlyChanges [.arr, .fen, .tal, .srv, .ctr, .peat, .d0, .ints, .log] s u)

/-- O30: FEN_FLIP arms a flip and completes with the epochs; its step T takes its SCLK once the tally it names has passed; then, with no request of the
old epoch still short of its step, the segment's epoch advances and its copies change places, and the notify tally grows by one (R92, R93). -/
def Obligations.FlipTakesEffect : Prop :=
  (∀ (s : State) (t : Nat) (rest : List Nat) (g : Seg), Heads s 0x14 t rest → segPerm s t (argF s t 0 24 6) = true →
    argRsv s t [(0, 30, 1), (0, 13, 11), (1, 12, 20), (3, 16, 16)] = false → segFind s (argF s t 0 24 6) = some g → g.dual = true → g.flip = none →
    xferOn s (argF s t 0 24 6) = false →
    ∃ u, exec .fenFlip s = .next u ∧ Completes s u t rest Mc.ok [4 * ((g.lo.toNat + 1) % 4) + g.lo.toNat] [.fen] ∧
      u.fen = { s.fen with segs := lmod (·.id = argF s t 0 24 6) (fun g => { g with flip := some (newFlip s t) }) s.fen.segs }) ∧
  (∀ (i : Fin 64) (s : State) (g : Seg) (f : Flip), segFind s i.val = some g → g.flip = some f → flipCanReady s g f = true →
    ∃ u, exec (.flipReady i) s = .next u ∧
      u.fen = { s.fen with segs := lmod (·.id = i.val) (fun g => { g with flip := some { f with readyAt := some s.clk.sclk } }) s.fen.segs } ∧
      OnlyChanges [.fen, .peat] s u) ∧
  (∀ (i : Fin 64) (s : State) (g : Seg) (f : Flip), segFind s i.val = some g → g.flip = some f → flipCanTake s g f = true → s.bad = [] → Canonical s →
    ∃ u, exec (.flipEffect i) s = .next u ∧
      u.fen = { s.fen with segs := lmod (·.id = i.val) (fun g => { g with lo := g.lo + 1, loB := !g.loB, flip := none }) s.fen.segs } ∧
      (if f.nten then TallyGrows s u f.ntally.toNat 1 else u.tal = s.tal) ∧ OnlyChanges [.fen, .tal, .ctr, .peat] s u)

/-- The arguments of ACC_OPEN name a region that may open on segment `g` (R134, R131). -/
structure Sys2Proof.Machine.RegionOk (s : State) (t : Nat) (g : Seg) : Prop where
  perm : segPerm s t (argF s t 0 24 6) = true
  elems : 1 ≤ argF s t 2 0 21
  rsv : argRsv s t [(0, 30, 2), (0, 20, 4), (0, 13, 3), (1, 26, 6), (2, 21, 11), (3, 26, 6)] = false
  size : argF s t 2 0 21 ≤ 1048576
  fmt : argF s t 0 16 4 ≤ 3
  aligned : argF s t 1 0 26 % 128 = 0 ∧ argF s t 3 0 26 % 128 = 0
  idle : commitArmed s = false
  present : s.pins.present = true
  seg : segFind s (argF s t 0 24 6) = some g
  single : g.dual = false
  window : argF s t 1 0 26 + 128 * cdiv (argF s t 2 0 21) 32 ≤ g.gran * 65536
  dest : argF s t 3 0 26 + argF s t 2 0 21 * rfmtSize (argF s t 0 16 4) ≤ g.gran * 65536
  apart : ∀ r ∈ s.fen.regions, r.seg = argF s t 0 24 6 →
    ¬ (argF s t 1 0 26 < r.rbase + 128 * windowLines r ∧ r.rbase < argF s t 1 0 26 + 128 * cdiv (argF s t 2 0 21) 32)
  room : s.fen.regions.length < 16
  frames : cdiv (10 * cdiv (argF s t 2 0 21) 32) 512 ≤ (freeFrames s 0).length

/-- O31: ACC_OPEN makes a region with the lowest free number and its frames, and when their lines are zero the region opens: the notify tally grows by one
and the command completes (R133, R134). -/
def Obligations.RegionOpens : Prop :=
  (∀ (s : State) (t : Nat) (rest : List Nat) (g : Seg), Heads s 0x20 t rest → RegionOk s t g →
    ∃ u r, exec .accOpen s = .next u ∧ GoesOn s u t rest [.fen] ∧ u.fen = { s.fen with regions := s.fen.regions ++ [r] } ∧ r.rid < 16 ∧
      (∀ x ∈ s.fen.regions, x.rid ≠ r.rid) ∧ (∀ j < r.rid, ∃ x ∈ s.fen.regions, x.rid = j) ∧ r = newRegion s t r.rid ((freeFrames s 0).take (cdiv (10 * cdiv (argF s t 2 0 21) 32) 512))) ∧
  (∀ (i : Fin 16) (s : State) (r : Region), regionFind s i.val = some r → regionCanOpen s r = true → s.bad = [] → Canonical s →
    (∀ f ∈ r.frames, f < 1024) →
    ∃ u, exec (.regionOpen i) s = .next u ∧ Ended s u r.mbx Mc.ok ([r.rid] ++ poolRes u ++ [r.frames.length]) ∧
      u.fen = { s.fen with regions := lmod (·.rid = i.val) (fun r => { r with opened := true }) s.fen.regions } ∧
      (∀ f ∈ r.frames, ∀ l < 512, dataGet u (frameKey f l) = 0 ∧ tagGet u (frameKey f l) = { TagE.zero with v := true, tc := r.opener }) ∧
      (∀ j, keyFrame j ∉ r.frames → tagGet u j = tagGet s j ∧ dataGet u j = dataGet s j) ∧
      (if r.nten then TallyGrows s u r.ntally.toNat 1 else u.tal = s.tal) ∧
      OnlyChanges [.fen, .arr, .bad, .tal, .ctr, .peat, .mbx, .ints, .d0] s u)

/-- O32: ACC_RESOLVE arms a resolve and completes; T takes its SCLK once the tally it names has passed; F comes in a later SCLK and waits for every
contribution, and a discard then ends the region (R138, R139, R141). A deadline that the end of an SCLK found reached is reported once (R142). -/
def Obligations.ResolveGoesOn : Prop :=
  (∀ (s : State) (t : Nat) (rest : List Nat) (r : Region), Heads s 0x21 t rest → regionFind s (argF s t 0 16 4) = some r →
    (t = 0 ∨ r.opener.toNat = t) → argRsv s t [(0, 20, 10), (0, 13, 3), (1, 12, 20), (3, 16, 16)] = false → r.opened = true → r.res = none →
    ∃ u, exec .accResolve s = .next u ∧ Completes s u t rest Mc.ok [r.n, r.frames.length] [.fen] ∧
      u.fen = { s.fen with regions := lmod (·.rid = argF s t 0 16 4) (fun r => { r with res := some (newResolve s t) }) s.fen.regions }) ∧
  (∀ (i : Fin 16) (s : State) (r : Region) (x : Resolve), resolveOf s i.val = some (r, x) → resolveCanReady s r x = true →
    ∃ u, exec (.resolveReady i) s = .next u ∧
      u.fen = { s.fen with regions := lmod (·.rid = i.val) (fun r => { r with res := some { x with readyAt := some s.clk.sclk } }) s.fen.regions } ∧
      OnlyChanges [.fen, .peat] s u) ∧
  (∀ (i : Fin 16) (s : State) (r : Region) (x : Resolve) (n : Nat), resolveOf s i.val = some (r, x) → x.readyAt = some n → n < s.clk.sclk →
    x.start = false → contribOpen s r.rid = false →
    (x.discard = false → ∃ u, exec (.resolveStart i) s = .next u ∧
      u.fen = { s.fen with regions := lmod (·.rid = i.val) (fun r => { r with res := some { x with start := true } }) s.fen.regions } ∧
      OnlyChanges [.fen] s u) ∧
    (x.discard = true → resolveCanEnd s r x = true → s.bad = [] → Canonical s → ∃ u, exec (.resolveStart i) s = .next u ∧
      u.fen = { s.fen with regions := s.fen.regions.filter (·.rid ≠ i.val) } ∧ (if x.nten then TallyGrows s u x.ntally.toNat 1 else u.tal = s.tal) ∧
      u.arr.data = s.arr.data ∧ (∀ f ∈ r.frames, ∀ l < 512, tagGet u (frameKey f l) = TagE.zero) ∧ OnlyChanges [.fen, .arr, .tal, .ctr, .peat] s u)) ∧
  (∀ (i : Fin 16) (s : State) (r : Region) (x : Resolve), resolveOf s i.val = some (r, x) →
    (∀ y, x.due = some y → ∃ u, exec (.resolveDeadline i) s = .next u ∧
      u.fen = { s.fen with
        regions := lmod (·.rid = i.val) (fun r => { r with res := some { x with reported := true, due := none } }) s.fen.regions } ∧
      (s.log.notices.length < 64 →
        u.log.notices = s.log.notices ++ [.event 1 (deadlineRec y x.rtally.toNat x.thresh.toNat 0 0 0 i.val 1 0)]) ∧
      OnlyChanges [.fen, .log, .ints, .d0, .ctr, .peat] s u) ∧
    (x.due = none → exec (.resolveDeadline i) s = .next s))

/-- From `s` to `u` destination line `i` of region `r` on segment `g` has been written: each of its elements is its accumulator rounded to RFMT, and the
bytes of no element are as they were. -/
structure Sys2Proof.Machine.LineResolved (s u : State) (r : Region) (g : Seg) (i : Nat) : Prop where
  elems : ∀ j n, j < 128 / rfmtSize r.rfmt.toNat → n = 128 / rfmtSize r.rfmt.toNat * i + j → n < r.n →
    lineNat (dataGet u (locKey (fenLoc g false (r.doff + 128 * i)))) (rfmtSize r.rfmt.toNat * j) (rfmtSize r.rfmt.toNat) =
      accResolve r.rfmt.toNat (accRead s r n) % 2 ^ (8 * rfmtSize r.rfmt.toNat)
  rest : ∀ b < 128, r.n ≤ 128 / rfmtSize r.rfmt.toNat * i + b / rfmtSize r.rfmt.toNat →
    lineNat (dataGet u (locKey (fenLoc g false (r.doff + 128 * i)))) b 1 = lineNat (dataGet s (locKey (fenLoc g false (r.doff + 128 * i)))) b 1
  others : DataBut s u (locKey (fenLoc g false (r.doff + 128 * i)))

/-- O33: RESOLVE_LINE_WRITE writes the next destination line: each of its elements becomes its accumulator rounded to RFMT, the line's other bytes and all
other lines stay, and after the last line the region ends, its frames free and the notify tally one more (R125, R139). -/
def Obligations.ResolveWritesLine : Prop :=
  ∀ (i : Fin 16) (s : State) (r : Region) (x : Resolve) (g : Seg), resolveOf s i.val = some (r, x) → x.start = true → segFind s r.seg = some g →
    s.bad = [] → Canonical s → (∀ n < r.n, ∀ k ∈ groupKeys r (n / 32), (tagGet s k).poi = false ∧ keyRetired s k = false) → r.rfmt.toNat ≤ 3 →
    keyRetired s (locKey (fenLoc g false (r.doff + 128 * x.next))) = false →
    (x.next + 1 < destLines r →
      ∃ u, exec (.resolveLineWrite i) s = .next u ∧ LineResolved s u r g x.next ∧ (∀ k, tagGet u k = tagGet s k) ∧
        u.fen = { s.fen with regions := lmod (·.rid = i.val) (fun r => { r with res := some { x with next := x.next + 1 } }) s.fen.regions } ∧
        OnlyChanges [.arr, .fen, .ctr, .peat, .d0, .ints, .log] s u) ∧
    (destLines r ≤ x.next + 1 → resolveCanEnd s r x = true → (∀ f ∈ r.frames, f < 1024) →
      ∃ u, exec (.resolveLineWrite i) s = .next u ∧ LineResolved s u r g x.next ∧
        u.fen = { s.fen with regions := s.fen.regions.filter (·.rid ≠ i.val) } ∧
        (∀ f ∈ r.frames, ∀ l < 512, tagGet u (frameKey f l) = TagE.zero) ∧ (∀ k, keyFrame k ∉ r.frames → tagGet u k = tagGet s k) ∧
        (if x.nten then TallyGrows s u x.ntally.toNat 1 else u.tal = s.tal) ∧
        OnlyChanges [.arr, .fen, .tal, .ctr, .peat, .d0, .ints, .log] s u)

/-! ### Mace -/

/-- a MACE_SUB takes a free slot and is answered OK at once; with eight descriptors active it is answered RETRY (R49, R145, R37). -/
def Sys2Proof.Machine.MaceSubmitted : Prop :=
  ∀ (p : DPort) (s : State) (r : Req), Presents s (dport p) r → r.src = .port → hOpcode r.msg = Op.maceSub →
    (s.mace.descs.length < 8 → ∃ u o d, exec (.maceSub p) s = .next u ∧ Answers u (dport p) r.msg Op.comp St.ok o ∧
      u.mace = { s.mace with descs := s.mace.descs ++ [d] } ∧ d.slot < 8 ∧ (∀ x ∈ s.mace.descs, x.slot ≠ d.slot) ∧ d.req = r ∧ d.d = msgTwo r.msg ∧
      d.k = 0 ∧ d.infl = [] ∧ d.idx = [] ∧ d.ending = false ∧ OnlyChanges [portPart p, .mace, .ctr] s u) ∧
    (8 ≤ s.mace.descs.length → ∃ u o, exec (.maceSub p) s = .next u ∧ Answers u (dport p) r.msg Op.comp St.retry o ∧
      OnlyChanges [portPart p, .ctr] s u)

/-- Descriptor `d` is the only one of its slot, and is active. -/
structure Sys2Proof.Machine.ActiveDesc (s : State) (d : Desc) : Prop where
  found : descFind s d.slot = some d
  only : ∀ x ∈ s.mace.descs, x.slot = d.slot → x = d
  goes : d.ending = false
  runs : d.stopped = false
  clean : s.bad = []

/-- The next line of the index stream that descriptor `d` reads, and the first that it still needs (R148). -/
def Sys2Proof.Machine.idxFirst (d : Desc) : Nat := (Md.ibase d.n + d.k * Md.iwBytes d.n) / 128
def Sys2Proof.Machine.idxNext (d : Desc) : Nat := d.idx.foldl (fun a x => max a (x.1 + 1)) (idxFirst d)

/-- A descriptor after the state of an index line has become `v`. -/
def Sys2Proof.Machine.idxPut (d : Desc) (j : Nat) (v : IdxSt) : Desc := { d with idx := d.idx.filter (·.1 ≠ j) ++ [(j, v)] }

/-- MACE_INDEX_READ reads the next line of an index stream in memory with a RD of the slice's own, at most eight ahead; the answer is held, or refused
with its status (R148, R150). -/
def Sys2Proof.Machine.MaceIndexRead : Prop :=
  (∀ (i : Fin 8) (s : State) (d : Desc), ActiveDesc s d → d.slot = i.val → d.infl = [] → d.rows = [] → Md.ispace d.n = false → d.idx.length < 8 →
    d.k < Md.count d.n → idxNext d ≤ (Md.ibase d.n + (Md.count d.n - 1) * Md.iwBytes d.n) / 128 → 128 * idxNext d < 2 ^ 44 →
    memPermits s (if idxNext d = idxFirst d then Md.ibase d.n + d.k * Md.iwBytes d.n else 128 * idxNext d) d.req.tc.toNat false = true →
    ∃ u o, exec (.maceIndexRead i) s = .next u ∧ u.d0 = { s.d0 with out := s.d0.out ++ [o] } ∧ hOpcode o.msg = Op.rd ∧
      hAddr o.msg = 128 * idxNext d ∧ hLen o.msg = 128 ∧ hTxid o.msg = s.srv.ownTx.toNat ∧
      u.srv = { s.srv with own := s.srv.own ++ [{ txid := s.srv.ownTx, kind := .maceIdx i.val (idxNext d) }], ownTx := s.srv.ownTx + 1 } ∧
      u.mace = { s.mace with descs := lmod (·.slot = i.val) (fun _ => idxPut d (idxNext d) .wait) s.mace.descs } ∧ OnlyChanges [.mace, .srv, .d0] s u) ∧
  (∀ (tx : BitVec 16) (st : BitVec 3) (x : Line) (s : State) (d : Desc) (j : Nat), ownFind s tx = some (.maceIdx d.slot j) → ActiveDesc s d →
    (j, IdxSt.wait) ∈ d.idx →
    ∃ u, exec (.maceIndexResponse tx st x) s = .next u ∧ u.srv = { s.srv with own := s.srv.own.filter (·.txid ≠ tx) } ∧
      u.mace = { s.mace with descs := lmod (·.slot = d.slot) (fun _ => idxPut d j (if st = 0 then .held x else .bad st)) s.mace.descs } ∧
      OnlyChanges [.mace, .srv] s u)

/-- O34: MaceSubmitted and MaceIndexRead, together. -/
def Obligations.MaceStarts : Prop := MaceSubmitted ∧ MaceIndexRead

/-- MACE_ELEMENT_ISSUE: the only active descriptor, a gather of whole rows into DATA, issues its next element, for the row that its index
names, and goes on to the next index (R148, R150, R146). While HALT is in effect nothing is issued (R273). -/
def Sys2Proof.Machine.MaceElementIssued : Prop :=
  (∀ s : State, s.srv.halt = true → exec .maceElementIssue s = .next s) ∧
  (∀ (s : State) (d : Desc) (v : Nat), s.mace.descs = [d] → ActiveDesc s d → d.slot < 8 → s.srv.halt = false → d.infl = [] → d.rows = [] →
    d.rowOff = 0 → Md.kind d.n = 0 → Md.dkind d.n = 1 → Md.tspace d.n = false → d.k + 1 = Md.count d.n → indexAt d = .val v → v ≤ Md.ilast d.n →
    1 ≤ Md.rowlen d.n → (Md.tbase d.n + v * Md.tstride d.n) % 128 + Md.rowlen d.n ≤ 128 →
    Md.tbase d.n + v * Md.tstride d.n + Md.rowlen d.n ≤ 2 ^ 44 → Md.xbase d.n + d.k * Md.xpitch d.n + Md.rowlen d.n ≤ 2 ^ 44 →
    memPermits s (Md.tbase d.n + v * Md.tstride d.n) d.req.tc.toNat false = true →
    ∃ u d' e, exec .maceElementIssue s = .next u ∧ u.mace = { descs := [d'], rr := d.slot } ∧ d'.slot = d.slot ∧ d'.infl = [e] ∧ d'.k = d.k + 1 ∧
      d'.nextId = d.nextId + 1 ∧ e.id = d.nextId ∧ e.k = d.k ∧ e.taddr = Md.tbase d.n + v * Md.tstride d.n ∧ e.len = Md.rowlen d.n ∧
      e.paddr = Md.xbase d.n + d.k * Md.xpitch d.n ∧ e.taken = false ∧ hOpcode e.req.msg = Op.rd ∧
      hAddr e.req.msg = Md.tbase d.n + v * Md.tstride d.n ∧ OnlyChanges [.mace, .regul, .ctr] s u)

/-- MACE_ELEMENT performs the table read of a gather's element as a read of its line: from the array, the element gets the line (R150, R151). -/
def Sys2Proof.Machine.MaceElementReads : Prop :=
  ∀ (i : Fin 8) (s : State) (d : Desc) (e : Elem) (k : Nat), ActiveDesc s d → d.slot = i.val → d.infl = [e] → e.taken = false → e.stepped = false →
    e.fail = none → e.src = none → e.todo ≠ [] → Md.kind d.n = 0 → e.req.src = .mace i.val e.id → hOpcode e.req.msg = Op.rd → e.req.fen = none →
    hteInH s (hLine e.req.msg) = none → sedgeFind s (hLine e.req.msg) = none → placeOf s (hLine e.req.msg) = .way k → (tagGet s k).poi = false →
    ∃ u d' e', exec (.maceElement i e.id) s = .next u ∧ descFind u i.val = some d' ∧ d'.infl = [e'] ∧ e'.id = e.id ∧ e'.taken = true ∧
      e'.stepped = true ∧ e'.src = some (dataGet s k, false) ∧ e'.todo = e.todo ∧ u.arr.data = s.arr.data ∧
      tagGet u k = { tagGet s k with pf := false } ∧ TagsBut s u k ∧ OnlyChanges [.mace, .arr, .regul, .ctr, .peat, .ints, .log, .d0] s u

/-- The only element of a descriptor, at one of its steps: not failed, and of no poisoned source. -/
structure Sys2Proof.Machine.SoundElem (s : State) (i : Fin 8) (d : Desc) (e : Elem) : Prop where
  desc : ActiveDesc s d
  slot : d.slot = i.val
  infl : d.infl = [e]
  fail : e.fail = none
  poi : e.poi = false
  src : ∀ x, e.src = some x → x.2 = false

/-- MACE_ELEMENT of a scatter or scatter-add reads its source from the Fen, line by line, into the bytes that its table access will carry (R150, Table 7.3). -/
def Sys2Proof.Machine.MaceSourceReads : Prop :=
  ∀ (i : Fin 8) (s : State) (d : Desc) (e : Elem) (p : PLine) (rest : List PLine) (l : FenLoc) (x : Line), SoundElem s i d e →
    (Md.kind d.n = 1 ∨ Md.kind d.n = 2) → e.todo = p :: rest → p.loc = some l → e.stepped = false → (tagGet s (locKey l)).poi = false →
    keyRetired s (locKey l) = false →
    x = linePut (e.src.getD (0, false)).1 (e.taddr % 128 + ((partSpan e.paddr e.len p.line).1 - e.paddr)) (partSpan e.paddr e.len p.line).2
      (lineNat (dataGet s (locKey l)) ((partSpan e.paddr e.len p.line).1 % 128) (partSpan e.paddr e.len p.line).2) →
    ∃ u d' e', exec (.maceElement i e.id) s = .next u ∧ descFind u i.val = some d' ∧ d'.infl = [e'] ∧ e'.id = e.id ∧ e'.todo = rest ∧
      e'.src = some (x, false) ∧ e'.stepped = false ∧
      e'.req.msg = elemMsg s d (hOpcode e.req.msg) (hAspace e.req.msg) e.len e.taddr x true ∧ OnlyChanges [.mace, .ctr] s u

/-- MACE_ELEMENT of a scatter whose source is read writes its bytes into its table line, as a WR of its span; of a scatter-add it adds them, as a RED
(R150, Table 7.3). The element is done with. -/
def Sys2Proof.Machine.MaceTableWrites : Prop :=
  ∀ (i : Fin 8) (s : State) (d : Desc) (e : Elem) (k : Nat), SoundElem s i d e → e.todo = [] → e.taken = false → e.stepped = false →
    e.req.src = .mace i.val e.id → e.req.fen = none → e.req.poi = false → Canonical s → hteInH s (hLine e.req.msg) = none →
    sedgeFind s (hLine e.req.msg) = none → placeOf s (hLine e.req.msg) = .way k →
    (Md.kind d.n = 1 → hOpcode e.req.msg = Op.wr →
      ∃ u d', exec (.maceElement i e.id) s = .next u ∧ descFind u i.val = some d' ∧ d'.infl = [] ∧
        dataGet u k = lineMerge (dataGet s k) (msgLine e.req.msg) (wrMask e.req.msg) ∧ DataBut s u k ∧
        tagGet u k = { tagGet s k with
          pf := false, poi := (tagGet s k).poi && wrMask e.req.msg != fullMask, d := (tagGet s k).d || e.req.attr.wpol != 2 } ∧ TagsBut s u k ∧
        TallyOf s u e.req.msg (maskCount (wrMask e.req.msg)) ∧ (e.req.attr.wpol ≠ 2 → u.mp.writes = s.mp.writes) ∧
        OnlyChanges [.mace, .arr, .mp, .tal, .regul, .ctr, .peat, .ints, .log, .d0] s u) ∧
    (Md.kind d.n = 2 → hOpcode e.req.msg = Op.red → (tagGet s k).poi = false →
      ∃ u d', exec (.maceElement i e.id) s = .next u ∧ descFind u i.val = some d' ∧ d'.infl = [] ∧
        dataGet u k = lineMerge (dataGet s k) (applyOp e.req.msg (dataGet s k)).1 (applyOp e.req.msg (dataGet s k)).2.2.2 ∧ DataBut s u k ∧
        tagGet u k = { tagGet s k with pf := false, d := (tagGet s k).d || e.req.attr.wpol != 2 } ∧ TagsBut s u k ∧
        TallyOf s u e.req.msg (maskCount (applyOp e.req.msg (dataGet s k)).2.2.2) ∧ (e.req.attr.wpol ≠ 2 → u.mp = s.mp) ∧
        OnlyChanges [.mace, .arr, .mp, .tal, .regul, .home, .ctr, .peat, .ints, .log, .d0] s u)

/-- MACE_ELEMENT of a gather whose table line is read delivers it: into the Fen as a WR of each destination line, or with DADD as a RED (R151); or, once all
the bytes of a destination line are there, in a DATA to the requester that the descriptor names (R151, Table 7.3). -/
def Sys2Proof.Machine.MaceDelivers : Prop :=
  (∀ (i : Fin 8) (s : State) (d : Desc) (e : Elem) (p : PLine) (l : FenLoc) (x : Line) (m : Msg), SoundElem s i d e → Md.kind d.n = 0 → Md.dkind d.n = 0 →
    e.taken = true → e.stepped = true → e.src = some (x, false) → e.todo = [p] → p.busy = false → p.loc = some l → p.exact = none →
    keyRetired s (locKey l) = false → Canonical s →
    m = elemMsg s d (if Md.dadd d.n then Op.red else Op.wr) 1 (partSpan e.paddr e.len p.line).2 (partSpan e.paddr e.len p.line).1
      (toPartner e x p.line) true →
    (Md.dadd d.n = false → ∃ u d', exec (.maceElement i e.id) s = .next u ∧ descFind u i.val = some d' ∧ d'.infl = [] ∧
      dataGet u (locKey l) = lineMerge (dataGet s (locKey l)) (msgLine m) (wrMask m) ∧ DataBut s u (locKey l) ∧ TagsBut s u (locKey l) ∧
      OnlyChanges [.mace, .arr, .tal, .ctr, .peat, .ints, .log, .d0] s u) ∧
    (Md.dadd d.n = true → (tagGet s (locKey l)).poi = false → ∃ u d', exec (.maceElement i e.id) s = .next u ∧ descFind u i.val = some d' ∧
      d'.infl = [] ∧ dataGet u (locKey l) = lineMerge (dataGet s (locKey l)) (applyOp m (dataGet s (locKey l))).1 (applyOp m (dataGet s (locKey l))).2.2.2 ∧
      DataBut s u (locKey l) ∧ TagsBut s u (locKey l) ∧ OnlyChanges [.mace, .arr, .tal, .ctr, .peat, .ints, .log, .d0] s u)) ∧
  (∀ (i : Fin 8) (s : State) (d : Desc) (e : Elem) (p : PLine) (x : Line), SoundElem s i d e → Md.kind d.n = 0 → Md.dkind d.n = 1 → e.taken = true →
    e.stepped = true → e.src = some (x, false) → e.todo = [p] → p.busy = false → e.paddr = Md.xbase d.n + e.k * Md.xpitch d.n →
    e.len = Md.rowlen d.n → 1 ≤ e.len → p.line = e.paddr / 128 → e.paddr % 128 + e.len ≤ 128 → e.taddr % 128 + e.len ≤ 128 → e.paddr < 2 ^ 44 →
    ∃ u o d' e', exec (.maceElement i e.id) s = .next u ∧ (outOf u d.req.port).getLast? = some o ∧ hOpcode o.msg = Op.data ∧ hStatus o.msg = St.ok ∧
      hDst o.msg = Md.dchip d.n ∧ hReqid o.msg = Md.dreqid d.n ∧ hTxid o.msg = Md.dtxid d.n ∧ hAddr o.msg = e.paddr ∧
      o.msg.beats = spanData (e.paddr % 128) e.len (linePut 0 (e.paddr % 128) e.len (lineNat x (e.taddr % 128) e.len)) ∧
      descFind u i.val = some d' ∧ d'.infl = [e'] ∧ e'.todo = [{ p with busy := true }] ∧ OnlyChanges [.mace, .d0, .d1, .sout] s u)

/-- an index of all ones names no row (R146): a gather without DADD delivers zeros for it, read from no table line, and any other kind passes over it.
That each destination line of the zeros counts as one element is the model's choice (log 36). -/
def Sys2Proof.Machine.MacePads : Prop :=
  ∀ (s : State) (d : Desc), s.mace.descs = [d] → ActiveDesc s d → d.slot < 8 → s.srv.halt = false → d.infl = [] → d.rows = [] → d.rowOff = 0 →
    d.k + 1 = Md.count d.n → indexAt d = .pad → 1 ≤ Md.rowlen d.n →
    (Md.kind d.n ≠ 0 ∨ Md.dadd d.n = true → ∃ u d', exec .maceElementIssue s = .next u ∧ u.mace = { descs := [d'], rr := d.slot } ∧ d'.k = d.k + 1 ∧
      d'.infl = [] ∧ d'.rows = [{ k := d.k, issued := true, faulted := false, pad := true }] ∧ OnlyChanges [.mace] s u) ∧
    (Md.kind d.n = 0 → Md.dadd d.n = false → Md.dkind d.n = 1 → Md.xbase d.n + d.k * Md.xpitch d.n + Md.rowlen d.n ≤ 2 ^ 44 →
      (Md.xbase d.n + d.k * Md.xpitch d.n) % 128 + Md.rowlen d.n ≤ 128 →
      ∃ u d' e, exec .maceElementIssue s = .next u ∧ u.mace = { descs := [d'], rr := d.slot } ∧ d'.k = d.k + 1 ∧ d'.infl = [e] ∧ e.pad = true ∧
        e.k = d.k ∧ e.src = some (0, false) ∧ e.stepped = true ∧ e.len = Md.rowlen d.n ∧ e.paddr = Md.xbase d.n + d.k * Md.xpitch d.n ∧
        OnlyChanges [.mace, .regul, .ctr] s u)

/-- O35: MaceElementIssued, MaceElementReads, MaceSourceReads, MaceTableWrites, MaceDelivers and MacePads, together. -/
def Obligations.MaceElements : Prop :=
  MaceElementIssued ∧ MaceElementReads ∧ MaceSourceReads ∧ MaceTableWrites ∧ MaceDelivers ∧ MacePads

/-- From `s` to `u` descriptor `d` is gone: its slot is free, its index reads are forgotten, and its completion tally has grown by one if it
names one (R156). -/
structure Sys2Proof.Machine.DescFreed (s u : State) (d : Desc) : Prop where
  descs : u.mace.descs = s.mace.descs.filter (·.slot ≠ d.slot)
  tally : if Md.cten d.n then TallyGrows s u (Md.ctally d.n) 1 else u.tal = s.tal

/-- O36: a descriptor with every index handled and nothing in flight ends: with CREN = 0 its slot frees at once; a completion record in memory is written
first, and the answer to its write frees the slot, with a report if it failed (R156). -/
def Obligations.MaceEnds : Prop :=
  (∀ (i : Fin 8) (s : State) (d : Desc), ActiveDesc s d → d.slot = i.val → d.infl = [] → d.rows = [] → Md.count d.n ≤ d.k → Canonical s →
    (Md.cren d.n = false → ∃ u, exec (.maceEnd i) s = .next u ∧ DescFreed s u d ∧ OnlyChanges [.mace, .tal, .srv, .ctr] s u) ∧
    (Md.cren d.n = true → Md.cspace d.n = false →
      ∃ u o, exec (.maceEnd i) s = .next u ∧ u.d0 = { s.d0 with out := s.d0.out ++ [o] } ∧ hOpcode o.msg = Op.wr ∧ hAddr o.msg = Md.caddr d.n ∧
        hLen o.msg = 32 ∧ u.srv = { s.srv with own := s.srv.own ++ [{ txid := s.srv.ownTx, kind := .maceRec i.val }], ownTx := s.srv.ownTx + 1 } ∧
        (∃ x, descFind u i.val = some x ∧ x.ending = true ∧ x.endFt = s.clk.ft) ∧ u.tal = s.tal ∧ OnlyChanges [.mace, .srv, .d0] s u)) ∧
  (∀ (tx : BitVec 16) (st : BitVec 3) (s : State) (d : Desc), ownFind s tx = some (.maceRec d.slot) → descFind s d.slot = some d → s.bad = [] →
    Canonical s →
    ∃ u, exec (.maceRecordComp tx st) s = .next u ∧ DescFreed s u d ∧ (∀ o ∈ u.srv.own, o.txid ≠ tx) ∧
      (st ≠ 0 → s.log.notices.length < 64 → u.log.notices.length = s.log.notices.length + 1) ∧
      OnlyChanges [.mace, .tal, .srv, .ctr, .log, .ints, .d0] s u)

/-! ### Reset, presence and time -/

/-- O37: while PORST_N is 0 every domain but PD78 and PD79 is OFF, PRESENT and FT valid are 0, no error is signalled, no generation but 0 is live, and the
registers, FIFOs, tags, tallies, Sedge entries, counters and keys hold what their tables give (R343, R61, R286, Tables 13.2, 13.3, 13.5, 16.5). In
Table 13.2 the row of BRL_BANK_OFF gives Reset 0 and says that a bit is 1 for a bank in OFF, as every bank is: that both its words, at 0x28 and
0x2C, read all ones is the model's choice (log 38). -/
def Obligations.ResetState : Prop :=
  (State.reset.pins.present = false ∧ State.reset.pins.fatalN = true ∧ State.reset.clk.ftv = false) ∧
  (∀ n, pdState State.reset n = if n < 78 then .off else .on) ∧
  (regRead State.reset 0x0C = 2 ^ 28 ∧ regRead State.reset 0x10 = 0 ∧ regRead State.reset 0x14 = 0 ∧ regRead State.reset 0x38 = 0xC000 ∧
    regRead State.reset 0x20 = 0 ∧ regRead State.reset 0x28 = 0xFFFFFFFF ∧ regRead State.reset 0x2C = 0xFFFFFFFF ∧ regRead State.reset 0x30 = 0) ∧
  (∀ o ∈ [0x100, 0x104, 0x108, 0x10C, 0x110, 0x118, 0x11C, 0x120, 0x124, 0x160, 0x1A0], regRead State.reset o = 0) ∧
  (∀ t, (mbxGet State.reset t).busy = false ∧ mbxStatus (mbxGet State.reset t) = 0 ∧ (mbxGet State.reset t).inF = [] ∧
    (mbxGet State.reset t).outF = []) ∧
  (∀ k, (tagGet State.reset k).v = false) ∧ (∀ t, tallyVal State.reset t = 0) ∧ (∀ k, (sedgeGet State.reset k).st = 0) ∧
  (∀ n, (ctrGet State.reset n).val = 0 ∧ (ctrGet State.reset n).ovf = false ∧ (ctrGet State.reset n).run = true) ∧
  (∀ t, (keyGet State.reset t).loaded = false) ∧ (∀ b, (bankGet State.reset b).retired = false) ∧
  State.reset.fen = FenSt.reset ∧ State.reset.home.htes = [] ∧ State.reset.mp.miss = [] ∧ State.reset.mp.mire = [] ∧ State.reset.mace.descs = [] ∧
  State.reset.pending = []

/-- O38: at reset every store is in its canonical form, and PRESENT is 0 (R346). -/
def Obligations.InvariantsAtReset : Prop := Canonical State.reset ∧ PresentSafe State.reset

/-- O39: every step keeps the canonical form of every store: keys rise, and no entry equals what an unlisted key reads as. -/
def Obligations.CanonicalStep : Prop := ∀ s u : State, Canonical s → step s = .next u → Canonical u

/-- O40: every step keeps PRESENT honest: while it is 1 both resets are released, VDD_CORE stands, and PD64 to PD67, PD69 to PD74 and PD76 are ON (R346). -/
def Obligations.PresentSafeStep : Prop := ∀ s u : State, PresentSafe s → step s = .next u → PresentSafe u

/-- A class's window ends with fewer bytes served than its floor, or its demand if that is less (R236). -/
def Sys2Proof.Machine.windowMissed (s : State) (c : Nat) : Prop :=
  clsFloor s.t c ≠ 0 ∧ (winGet s c).served < min (64 * clsFloor s.t c) (winGet s c).demand

/-- a window that ends is followed at once by the next, empty; GUARANTEE_MISS is reported exactly for a window whose guarantee was missed (R234, R235,
R236). A scrub instant visits the next set (R360); every 2^30 ticks each leak count falls by one (R361); every 256 SCLK a LIVE leaves on D0 and D1 (R347). -/
def Sys2Proof.Machine.TimeDriven : Prop :=
  (∀ (c : Fin 16) (s : State), winDue s c.val = true → Canonical s →
    ∃ u, exec (.regulationWindowEnd c) s = .next u ∧ (winGet u c.val).served = 0 ∧ (winGet u c.val).demand = waitDemand s c.val ∧
      (winGet u c.val).start = (winGet s c.val).start + BitVec.ofNat 64 (clsWin s.t c.val * 64) ∧
      (∀ j, j ≠ c.val → winGet u j = winGet s j) ∧ u.regul.levels = s.regul.levels ∧ u.regul.on = true ∧ u.regul.rpts = s.regul.rpts ∧
      (¬ windowMissed s c.val → OnlyChanges [.regul] s u) ∧
      (windowMissed s c.val → s.log.notices.length < 64 → ∃ x, u.log.notices = s.log.notices ++ [.event 2 x] ∧ fld x.toNat 152 40 = (winGet s c.val).served % 2 ^ 40 ∧
        fld x.toNat 112 40 = (winGet s c.val).demand % 2 ^ 40 ∧ fld x.toNat 60 4 = c.val) ∧
      OnlyChanges [.regul, .log, .ints, .d0, .ctr, .peat] s u) ∧
  (∀ s : State, scrubDue s = true → s.bad = [] →
    ∃ u, exec .patrolScrubStep s = .next u ∧ u.srv = { s.srv with scrubK := scrubIdx s, scrubPos := (s.srv.scrubPos + 1) % 16384 } ∧
      OnlyChanges [.srv, .ctr] s u) ∧
  (∀ s : State, s.pins.present = true → s.clk.ftv = true → s.clk.seen = true → s.srv.leakK ≠ ftN s / 2 ^ 30 → Canonical s →
    ∃ u, exec .leakDecay s = .next u ∧ u.srv = { s.srv with leakK := ftN s / 2 ^ 30 } ∧
      (∀ b, bankGet u b = if b < 64 then { bankGet s b with leak := (bankGet s b).leak - 1 } else bankGet s b) ∧ OnlyChanges [.srv, .banks] s u) ∧
  (∀ s : State, s.pins.present = true → s.pins.liveAt + 256 ≤ s.clk.sclk →
    ∃ u o, exec .live s = .next u ∧ u.d0 = { s.d0 with out := s.d0.out ++ [o] } ∧ u.d1 = { s.d1 with out := s.d1.out ++ [o] } ∧
      hOpcode o.msg = Op.live ∧ hVc o.msg = Vc.ctl ∧ hResult o.msg = s.pins.liveCnt.toNat ∧ hReqid o.msg = sreqN s ∧ hSrc o.msg = chipN s ∧ hDst o.msg = chipN s ∧
      u.pins = { s.pins with liveAt := s.pins.liveAt + 256, liveCnt := s.pins.liveCnt + 1 } ∧ OnlyChanges [.pins, .d0, .d1] s u)

/-- FT becomes valid at the end of a run of samples with FT_SYNC 1, each 1 to 3 ticks above the one before, that has advanced 1,024 ticks and passed the
held value; the datapath FT value moves up to the bus value, and every window restarts there. No other run makes it valid: its samples are only taken.
FT_INVALID, with a sample taken that does not follow the one before it so, ends validity, and the held value stays (R340, R234). That FT_VALID brings the
samples and FT_INVALID acts on those taken is the model's choice (log 3). -/
def Sys2Proof.Machine.FabricTime : Prop :=
  (∀ (run : List FtSample) (bus : BitVec 64) (s : State), s.pins.porstN = true → s.clk.ftv = false → ftRunOk s.clk.ft run = true →
    bus = BitVec.ofNat 64 (ftEnds run).2 → Canonical s →
    ∃ u, exec (.ftValid run) s = .next u ∧ u.clk = { s.clk with ft := bus, bus := bus, ftv := true, seen := s.clk.seen || s.pins.present, ftIn := run } ∧
      (s.pins.present = false → OnlyChanges [.clk] s u) ∧
      (s.pins.present = true → u.regul.on = true ∧ (∀ c < 16, (winGet u c).start = bus ∧ (winGet u c).served = 0) ∧
        (s.clk.seen = true → u.srv = s.srv) ∧
        (s.clk.seen = false → u.srv = { s.srv with scrubG := bus, scrubK := 0, leakK := bus.toNat / 2 ^ 30 }) ∧ OnlyChanges [.clk, .regul, .srv] s u)) ∧
  (∀ (run : List FtSample) (s : State), (s.clk.ftv = true ∨ ftRunOk s.clk.ft run = false) →
    exec (.ftValid run) s = .next { s with clk := { s.clk with ftIn := s.clk.ftIn.getLast?.toList ++ run } }) ∧
  (∀ (a b : FtSample) (before after : List FtSample) (s : State), s.clk.ftIn = before ++ a :: b :: after →
    ¬ (b.sync = true ∧ grayDecode a.count < grayDecode b.count ∧ grayDecode b.count ≤ grayDecode a.count + 3) →
    exec .ftInvalid s = .next { s with clk := { s.clk with ftv := false } }) ∧
  (∀ s : State, (∀ a ∈ s.clk.ftIn, a.sync = true) →
    (∀ (a b : FtSample) (before after : List FtSample), s.clk.ftIn = before ++ a :: b :: after →
      grayDecode a.count < grayDecode b.count ∧ grayDecode b.count ≤ grayDecode a.count + 3) → exec .ftInvalid s = .next s)

/-- O41: TimeDriven and FabricTime, together. -/
def Obligations.TimePasses : Prop := TimeDriven ∧ FabricTime

/-- the power manager's grant is noted only for a request; with it the requested domain reaches its target and PM_REQ falls (R342). PRESENT rises exactly
when the bring-up's last domain is ON, the core runs and its time of absence is over (R346), and the first LIVE, with count 0, leaves on both ports (R347). -/
def Sys2Proof.Machine.PowerMoves : Prop :=
  (∀ s : State, s.pins.pmReq = true → exec .pmGrant s = .next { s with pins := { s.pins with pmGnt := true } }) ∧
  (∀ s : State, s.pins.pmReq = true → s.pins.pmGnt = true → s.pins.pmPd < 78 → Canonical s →
    ∃ u, exec .powerTransitionDone s = .next u ∧ pdState u s.pins.pmPd = codePow s.pins.pmTo ∧ (∀ n, n ≠ s.pins.pmPd → pdState u n = pdState s n) ∧
      u.pins.pmReq = false ∧ u.pins.pmGnt = true ∧
      u.pins.present = (s.pins.present ||
        (s.pw.bring && s.core.run && powered s && bringOrder.all (pdOn u) && decide (s.pins.downAt ≤ s.clk.sclk))) ∧
      (s.pins.present = false → u.pins.present = true → u.pins.liveAt = s.clk.sclk ∧ u.pins.liveCnt = 1 ∧ u.pins.irdy0 = true ∧ u.pins.irdy1 = true ∧
        (∃ o ∈ u.d0.out, hOpcode o.msg = Op.live ∧ hResult o.msg = 0) ∧ ∃ o ∈ u.d1.out, hOpcode o.msg = Op.live ∧ hResult o.msg = 0) ∧
      (s.pins.pmPd = 77 → codePow s.pins.pmTo ≠ .on → ∀ t < 16, (keyGet u t).loaded = false) ∧
      OnlyChanges [.clk, .pins, .life, .pw, .dom, .banks, .gen, .arr, .d0, .d1, .home, .regul, .keys, .ctr, .peat, .mbx, .ints, .srv, .bad] s u)

/-- PORST_N at 0 resets the whole slice, both halves, but for the time, the queue and the pins that the integrator drives; its release samples the straps
and asks for the first boot word (R343, R344, R328). -/
def Sys2Proof.Machine.SliceResets : Prop :=
  (∀ s : State, s.pins.porstN = true →
    ∃ u, exec .porstAssert s = .next u ∧ OnlyChanges [.pending, .clk, .pins, .life] State.reset u ∧ u.pending = s.pending ∧
      u.clk = { Clock.reset with sclk := s.clk.sclk } ∧ u.pins.porstN = false ∧ u.pins.present = false ∧ u.pins.drstN = s.pins.drstN ∧
      u.pins.vddCore = s.pins.vddCore ∧ u.pins.pmReq = false ∧ u.pins.fatalN = true ∧
      u.pins.downAt = if s.pins.present then s.clk.sclk + 4096 else s.pins.downAt) ∧
  (∀ (chip : BitVec 14) (id : BitVec 12) (s : State), s.pins.porstN = false →
    ∃ u, exec (.porstRelease chip id) s = .next u ∧ u.core = { s.core with boot := some [] } ∧ u.pins.porstN = true ∧ u.pins.chipId = chip ∧
      u.pins.sreqid = id ∧ u.pins.bootReq = true ∧ u.pins.bootAddr = 0 ∧ u.pins.present = s.pins.present ∧ OnlyChanges [.pins, .life, .core] s u)

/-- From `s` to `u` the datapath half has been lost: it is at reset, PRESENT has fallen, each command that needed it has ended with ESTATE, and the rest of the
steward half, FT capture and the power domains are as they were (R343, R349, Table 16.10, Table 1.7).
What the array, the replacement bits and the round-robin places read as after the loss is the model's reset contents (log 9, log 20). -/
structure Sys2Proof.Machine.DatapathLost (s u : State) : Prop where
  absent : u.pins.present = false
  away : u.pins.downAt = if s.pins.present then s.clk.sclk + 4096 else s.pins.downAt
  arr : u.arr = State.reset.arr
  mp : u.mp = MPort.reset
  home : u.home = State.reset.home
  fen : u.fen = FenSt.reset
  tal : u.tal = State.reset.tal
  mace : u.mace = State.reset.mace
  keys : u.keys = []
  ctr : u.ctr = CtrSt.reset
  peat : u.peat = State.reset.peat
  srv : u.srv = LiveSt.reset
  ports : u.d0 = PortSt.reset ∧ u.d1 = PortSt.reset ∧ u.sq = [] ∧ u.sout = [] ∧ u.regHw = []
  tables : u.gen.live = [] ∧ u.gen.shadow = [] ∧ u.gen.armed = none ∧ u.gen.wait = none
  recorded : u.gen.gen = s.gen.gen ∧ u.gen.last = s.gen.last ∧ u.gen.gft = s.gen.gft
  time : u.clk = { s.clk with seen := false }
  domains : u.pw.dom = s.pw.dom
  core : u.core = s.core ∧ u.startQ = s.startQ
  log : u.log.errs = s.log.errs ∧ u.log.evq = s.log.evq ∧ u.log.fatal = s.log.fatal
  ints : u.ints.stat = s.ints.stat ∧ u.ints.en = s.ints.en ∧ u.ints.alert = s.ints.alert
  commands : ∀ t < 16, if needsDatapath s t then (mbxGet u t).busy = false ∧ (mbxGet u t).code = BitVec.ofNat 4 Mc.estate ∧ u.ints.mbx.getLsbD t = true
    else mbxGet u t = mbxGet s t
  banks : ∀ b, bankGet u b = keptBank (bankGet s b)

/-- DRST_N at 0 and the loss of VDD_CORE take the datapath half away; on release of DRST_N the steward, if it runs, starts the bring-up of every domain
that is not ON (R343, R346, R349, Table 16.9). -/
def Sys2Proof.Machine.DatapathResets : Prop :=
  (∀ s : State, s.pins.drstN = true → Canonical s →
    ∃ u, exec .drstAssert s = .next u ∧ u.pins.drstN = false ∧ u.pins.porstN = s.pins.porstN ∧ u.pins.vddCore = s.pins.vddCore ∧ DatapathLost s u ∧
      u.pending = s.pending) ∧
  (∀ s : State, s.pins.porstN = true → s.pins.vddCore = true → Canonical s →
    ∃ u, exec .supplyFail s = .next u ∧ u.pins.vddCore = false ∧ u.pins.porstN = true ∧ u.pins.drstN = s.pins.drstN ∧ DatapathLost s u ∧
      u.pending = s.pending) ∧
  (∀ s : State, s.pins.drstN = false →
    ∃ u, exec .drstRelease s = .next u ∧ u.pins = { s.pins with drstN := true } ∧ (s.core.run = false → u.pw = s.pw) ∧
      (s.core.run = true → u.pw.bring = true ∧ u.pw.dom = s.pw.dom ∧
        u.pw.wants = (bringOrder.filter fun n => !pdHeld s n).map fun n => { pd := n, target := .on }) ∧ OnlyChanges [.pins, .life, .pw] s u)

/-- O42: SliceResets and DatapathResets, together; the contents that the spec leaves open after a loss are the model's (log 9, log 20). -/
def Obligations.ResetsTake : Prop := SliceResets ∧ DatapathResets

/-- the boot loader takes the words of the image in turn; a valid image starts the core and the bring-up, one that is not valid leaves the core in
reset with VALA 0 (R344, R281). -/
def Sys2Proof.Machine.BootLoads : Prop :=
  ∀ (w : BitVec 32) (s : State) (l : List (BitVec 32)), s.core.boot = some l → s.pins.bootReq = true →
    (l.length + 1 < 8 ∨ (fwWord (l ++ [w]) 3 ≤ 24576 ∧ l.length < fwWord (l ++ [w]) 3) →
      exec (.bootWord w) s = .next (bootNext (l ++ [w]) s)) ∧
    (8 ≤ l.length + 1 → 24576 < fwWord (l ++ [w]) 3 →
      ∃ u, exec (.bootWord w) s = .next u ∧ u.core = { s.core with boot := none, fwA := l ++ [w], vala := false } ∧ u.pins = { s.pins with bootReq := false } ∧
        OnlyChanges [.core, .pins] s u) ∧
    (∀ n, 8 ≤ l.length + 1 → n = fwWord (l ++ [w]) 3 → n ≤ 24576 → n ≤ l.length →
      ∃ u, exec (.bootWord w) s = .next u ∧ u.pins = { s.pins with bootReq := false } ∧ u.core.boot = none ∧ u.core.fwA = (l ++ [w]).take n ∧
        (imageStatus ((l ++ [w]).take n) n (fwWord (l ++ [w]) n) = Mc.ok →
          u.core = { s.core with boot := none, fwA := (l ++ [w]).take n, vala := true, sup := false, run := true, wdAt := s.clk.run } ∧ u.pw.bring = true) ∧
        (imageStatus ((l ++ [w]).take n) n (fwWord (l ++ [w]) n) ≠ Mc.ok → u.core.vala = false ∧ u.core.run = s.core.run ∧ u.pw = s.pw) ∧
        OnlyChanges [.core, .pins, .pw] s u)

/-- O43: PowerMoves and BootLoads, together. -/
def Obligations.PowerAndBoot : Prop := PowerMoves ∧ BootLoads

/-! ### Egress, the register window, streams -/

/-- The header on a D port's egress lane. -/
def Sys2Proof.Machine.laneOf (s : State) : DPort → Option Msg
  | .d0 => s.pins.oh0
  | .d1 => s.pins.oh1

/-- O44: the oldest header whose channel the mesh takes leaves (R333), as it was queued, but that a response of status OK carries POISON once a fatal error is in
force (R365); the others keep their order; an HTE that only waited for this response closes (Table 8.3). -/
def Obligations.HeaderLeaves : Prop :=
  ∀ (p : DPort) (rdy : BitVec 5) (s : State) (i : Nat) (o : Out), (portGet s p).out[i]? = some o → nbit rdy.toNat (hVc o.msg) = true →
    (∀ j < i, ∀ x, (portGet s p).out[j]? = some x → nbit rdy.toNat (hVc x.msg) = false) →
    ∃ u l, exec (.egressHeaderTransfer p rdy) s = .next u ∧ (portGet u p).out = (portGet s p).out.eraseIdx i ++ l ∧
      (s.home.htes.all (fun h => !h.done) = true → l = [] ∧ u.home = s.home) ∧ laneOf u p = some (asSent s o) ∧
      (s.log.fatalEff = false ∨ o.subj = none → asSent s o = o.msg) ∧
      (s.log.fatalEff = true → o.subj ≠ none → hStatus o.msg = St.ok → hStatus (asSent s o) = St.poison ∧ hTxid (asSent s o) = hTxid o.msg) ∧
      (∀ h, (hOpcode o.msg = Op.comp ∨ hOpcode o.msg = Op.data) →
        s.home.htes.find? (fun h => h.done && ofOpener h o.msg && hSrc h.req.msg == hDst o.msg) = some h → ∀ x ∈ u.home.htes, x.id ≠ h.id) ∧
      (∀ q, (portGet u q).ing = (portGet s q).ing ∧ (portGet u q).q = (portGet s q).q) ∧
      OnlyChanges [.d0, .d1, .sout, .pins, .home, .mace, .ctr] s u

/-- The value of the words that a REG-space RD covers, the low one first (R256). -/
def Sys2Proof.Machine.regValue (s : State) (m : Msg) : Nat := ((regWords m).map (regRead s)).foldr (fun x a => x + 2 ^ 32 * a) 0

/-- a REG-space RD is answered with the value of the registers it names, when its port's REG queue brings it to the window; a WR, or an access to mailbox
DATA, waits in the register hardware (R19, R256, R261). A read of the counter window is captured at the end of the SCLK (R287, log 38). A request that has waited 10,000,000 ticks is answered TIMEOUT, and not performed (R38). -/
def Sys2Proof.Machine.RegisterRequests : Prop :=
  (∀ (p : DPort) (s : State) (r : RegReq) (rest : List RegReq), (portGet s p).regq = r :: rest → r.port = p →
    (isWr r.msg = false → dataMbx r.msg = none → inCtrWindow r.msg = false ∨ pdOn s 76 = false → ∃ u o, exec (.regAccess p) s = .next u ∧ Answers u (dport p) r.msg Op.data St.ok o ∧
      o.msg.beats = spanData (hOff r.msg) (hLen r.msg) (linePut 0 (hOff r.msg) (hLen r.msg) (regValue s r.msg)) ∧ OnlyChanges [portPart p, .ctr] s u) ∧
    (isWr r.msg = false → inCtrWindow r.msg = true → pdOn s 76 = true → ∃ u, exec (.regAccess p) s = .next u ∧
      u.ctr = { s.ctr with caps := s.ctr.caps ++ [.win r] } ∧ (portGet u p).out = (portGet s p).out ∧ OnlyChanges [portPart p, .ctr] s u) ∧
    (isWr r.msg = true ∨ dataMbx r.msg ≠ none → ∃ u, exec (.regAccess p) s = .next u ∧ u.regHw = s.regHw ++ [r] ∧
      (portGet u p).out = (portGet s p).out ∧ OnlyChanges [portPart p, .regHw] s u)) ∧
  (∀ (l : RegLoc) (k : Nat) (s : State) (r : RegReq), (regAt s l)[k]? = some r → Config.timeoutTicks ≤ s.clk.run - r.at_ →
    ∃ u o, exec (.regTimeout l k) s = .next u ∧ Answers u (dport r.port) r.msg Op.comp St.timeout o ∧ o.msg.beats = [] ∧
      (l = .hw → u.regHw = s.regHw.eraseIdx k) ∧ (l ≠ .hw → u.regHw = s.regHw) ∧ OnlyChanges [.d0, .d1, .regHw] s u)

/-- A 4 B WR of value `v` at offset `a` of the window. -/
structure Sys2Proof.Machine.WordWrite (m : Msg) (a v : Nat) : Prop where
  len : hLen m = 4
  addr : hAddr m = a
  value : regWord m a = v

/-- a WR in the register hardware writes its words, the low one first, and completes OK (R256); BRL_EVQ_POP discards the oldest event record (R258),
BRL_ERR_POP the oldest error record (R367), BRL_FATAL_CLR the fatal record while FATAL_N is 1 (R366), BRL_ALERT the bits written as 1, and
STEWARD_ALERT falls with the last of them (R285); a write to
CMD of a BUSY mailbox sets OVR alone, and of one that is not BUSY starts its command (R259). -/
def Sys2Proof.Machine.RegistersWritten : Prop :=
  ∀ (k : Nat) (s : State) (r : RegReq) (c : Instr), s.regHw[k]? = some r → writeRow k (regKind s r.msg) = some c →
    ∃ u o, exec c s = .next u ∧ Answers u (dport r.port) r.msg Op.comp St.ok o ∧ o.msg.beats = [] ∧ u.regHw = s.regHw.eraseIdx k ∧
      u.mbx = (writeWords r.msg s).mbx ∧ u.startQ = (writeWords r.msg s).startQ ∧ u.log = (writeWords r.msg s).log ∧
      u.ints = (writeWords r.msg s).ints ∧ u.pins = (writeWords r.msg s).pins ∧
      OnlyChanges [.regHw, .mbx, .startQ, .log, .ints, .pins, .d0, .d1, .ctr] s u ∧
      (∀ v, WordWrite r.msg 0x164 v → u.log = { s.log with evq := s.log.evq.tail }) ∧
      (∀ v, WordWrite r.msg 0x1A4 v → u.log = { s.log with errs := s.log.errs.tail }) ∧
      (∀ v, WordWrite r.msg 0x1A8 v → u.log = if nbit v 0 && s.pins.fatalN then { s.log with fatal := none } else s.log) ∧
      (∀ v, WordWrite r.msg 0x124 v → u.ints = { s.ints with alert := s.ints.alert &&& ~~~(BitVec.ofNat 3 v) } ∧
        u.pins = { s.pins with alert := s.ints.alert &&& ~~~(BitVec.ofNat 3 v) != 0 }) ∧
      (∀ v, WordWrite r.msg 0x100 v → u.ints.stat = s.ints.stat &&& ~~~(BitVec.ofNat 32 v) ∧ u.ints.en = s.ints.en ∧ u.ints.mbx = s.ints.mbx) ∧
      (∀ t v, t < 16 → WordWrite r.msg (0x1000 + 0x100 * t) v → (∀ j, j ≠ t → mbxGet u j = mbxGet s j) ∧
        ((mbxGet s t).busy = true → mbxGet u t = { mbxGet s t with ovr := true } ∧ u.startQ = s.startQ) ∧
        ((mbxGet s t).busy = false → u.startQ = s.startQ ++ [t] ∧ (mbxGet u t).busy = true ∧ (mbxGet u t).phase = .queued ∧ (mbxGet u t).ovr = false ∧
          (mbxGet u t).op = BitVec.ofNat 8 v ∧ (mbxGet u t).larg = (mbxGet s t).arg ∧ (mbxGet u t).seqL = (mbxGet s t).seq ∧
          (mbxGet u t).res = List.replicate 16 0))

/-- O45: RegisterRequests and RegistersWritten, together. -/
def Obligations.WindowServes : Prop := RegisterRequests ∧ RegistersWritten

/-- Request `r`, the `k`-th of the register hardware, accesses mailbox `t` as its row does. -/
structure Sys2Proof.Machine.AtWindow (s : State) (k : Nat) (r : RegReq) (x : RegKind) : Prop where
  at_ : s.regHw[k]? = some r
  kind : regKind s r.msg = x

/-- The words that a DATA write carries. -/
def Sys2Proof.Machine.dataWritten (r : RegReq) : List (BitVec 32) := (regWords r.msg).map fun o => BitVec.ofNat 32 (regWord r.msg o)

/-- The shadow tables with entries `es` of table `tab` from entry `first` on. -/
def Sys2Proof.Machine.shadowWith (s : State) (tab first : Nat) (es : List Nat) : Tables := es.zipIdx.foldl (fun g e => tblSet g tab (first + e.2) e.1) s.gen.shadow

/-- a DATA write enters its words if the FIFO has room; a command that waits for input takes them, and the last word of a SET_TABLE writes the shadow table
(R261, R266). Accesses to one DATA port keep their order; while the core is in reset no command takes or delivers a word (R264). A DATA read takes the words of the output FIFO in order, waiting words move up, and after its last word has been moved a command ends (R261);
it reads 0 while no command runs. -/
def Sys2Proof.Machine.StreamsMove : Prop :=
  (∀ (k t : Nat) (s : State) (r : RegReq), AtWindow s k r (.dataWrite t) → firstData k s = true → (mbxGet s t).inF.length + (regWords r.msg).length ≤ 64 →
    ∃ u o, exec (.mailboxDataWrite k) s = .next u ∧ Answers u (dport r.port) r.msg Op.comp St.ok o ∧ u.regHw = s.regHw.eraseIdx k ∧
      ((∀ n, (mbxGet s t).phase ≠ .input n) ∨ coreRuns s = false → mbxGet u t = { mbxGet s t with inF := (mbxGet s t).inF ++ dataWritten r } ∧
        (∀ j, j ≠ t → mbxGet u j = mbxGet s j) ∧ OnlyChanges [.regHw, .mbx, .d0, .d1, .ctr] s u) ∧
      (∀ n, coreRuns s = true → (mbxGet s t).phase = .input n → (mbxGet s t).inF = [] →
        ((mbxGet s t).got.length + (dataWritten r).length < n →
          mbxGet u t = { mbxGet s t with got := (mbxGet s t).got ++ dataWritten r, wait := s.clk.run } ∧
          (∀ j, j ≠ t → mbxGet u j = mbxGet s j) ∧ OnlyChanges [.regHw, .mbx, .d0, .d1, .ctr] s u) ∧
        ((mbxGet s t).got.length + (dataWritten r).length = n → (mbxGet s t).op = 2 → commitArmed s = false →
          (∀ es, es = entriesOf (tblWords (argF s t 0 16 8)) (argF s t 1 0 13) ((mbxGet s t).got ++ dataWritten r) →
            (∀ e ∈ es.zipIdx, e.1 &&& tblRsv (argF s t 0 16 8) (argF s t 0 0 12 + e.2) = 0) →
            Ended s u t Mc.ok [argF s t 1 0 13] ∧ u.gen = { s.gen with shadow := shadowWith s (argF s t 0 16 8) (argF s t 0 0 12) es } ∧
            OnlyChanges [.regHw, .mbx, .gen, .ints, .d0, .d1, .ctr] s u)) ∧
        ((mbxGet s t).got.length + (dataWritten r).length = n → (mbxGet s t).op = 0x70 →
          imageStatus ((mbxGet s t).got ++ dataWritten r) n (mArg s t 1) = Mc.ok →
          Ended s u t Mc.ok [b2n (!s.core.slot), fwWord ((mbxGet s t).got ++ dataWritten r) 1] ∧
          u.core = (if s.core.slot then { s.core with fwA := (mbxGet s t).got ++ dataWritten r, vala := true }
            else { s.core with fwB := (mbxGet s t).got ++ dataWritten r, valb := true }) ∧
          OnlyChanges [.regHw, .mbx, .core, .ints, .d0, .d1, .ctr] s u))) ∧
  (∀ (k t : Nat) (s : State) (r : RegReq), AtWindow s k r (.dataRead t) → firstData k s = true → Canonical s →
    (∀ w rest, hLen r.msg = 4 → (mbxGet s t).outF = w :: rest → ∃ u o, exec (.mailboxDataRead k) s = .next u ∧ Answers u (dport r.port) r.msg Op.data St.ok o ∧
      o.msg.beats = spanData (hOff r.msg) 4 (linePut 0 (hOff r.msg) 4 w.toNat) ∧ u.regHw = s.regHw.eraseIdx k ∧
      (mbxGet u t).outF = (if coreRuns s then rest ++ (mbxGet s t).pend.take (64 - rest.length) else rest) ∧ (∀ j, j ≠ t → mbxGet u j = mbxGet s j) ∧
      ((mbxGet s t).phase ≠ .output ∨ coreRuns s = false → mbxGet u t = { mbxGet s t with outF := (mbxGet u t).outF, pend := (mbxGet u t).pend, wait := s.clk.run }) ∧
      (coreRuns s = true → (mbxGet s t).phase = .output → (mbxGet s t).pend.length ≤ 64 - rest.length → (∀ x ∈ s.srv.insp, x.mbx ≠ t) →
        ((mbxGet s t).op = 3 → rest = [] ∧ (mbxGet s t).pend = []) → Ended s u t Mc.ok ((mbxGet s t).got.map BitVec.toNat)) ∧
      OnlyChanges [.regHw, .mbx, .ints, .d0, .d1, .ctr] s u) ∧
    ((mbxGet s t).outF = [] → (mbxGet s t).busy = false → ∃ u o, exec (.mailboxDataRead k) s = .next u ∧
      Answers u (dport r.port) r.msg Op.data St.ok o ∧ o.msg.beats = spanData (hOff r.msg) 4 0 ∧ OnlyChanges [.regHw, .d0, .d1, .ctr] s u))

/-- a write of 1 to DRESET empties both FIFOs of the mailbox, and a command that waits on its stream ends with EINVAL; so does one that has waited
1,000,000,000 ticks (R262). A notice that crosses the link enters the event queue or, an error, the error log, and raises its cause (R14, R258, R367). -/
def Sys2Proof.Machine.StreamsEnd : Prop :=
  (∀ (k t : Nat) (s : State) (r : RegReq), AtWindow s k r (.abort t) → Canonical s →
    ∃ u o, exec (.dresetAbort k) s = .next u ∧ Answers u (dport r.port) r.msg Op.comp St.ok o ∧ u.regHw = s.regHw.eraseIdx k ∧
      (mbxGet u t).inF = [] ∧ (mbxGet u t).outF = [] ∧
      (onStream (mbxGet s t) = false → mbxGet u t = { mbxGet s t with inF := [], outF := [] } ∧ (∀ j, j ≠ t → mbxGet u j = mbxGet s j) ∧
        OnlyChanges [.regHw, .mbx, .d0, .d1, .ctr] s u) ∧
      (onStream (mbxGet s t) = true → Ended s u t Mc.einval (streamRes s t)) ∧
      OnlyChanges [.regHw, .mbx, .srv, .ints, .d0, .d1, .ctr] s u) ∧
  (∀ (t : Fin 16) (s : State), onStream (mbxGet s t.val) = true → Config.streamTicks ≤ s.clk.run - (mbxGet s t.val).wait →
    ∃ u, exec (.mailboxStreamTimeout t) s = .next u ∧ Ended s u t.val Mc.einval (streamRes s t.val) ∧ OnlyChanges [.mbx, .srv, .ints, .d0] s u) ∧
  (∀ (s : State) (n : Notice) (rest : List Notice), coreRuns s = true → s.log.notices = n :: rest →
    ∃ u, exec .eventNotice s = .next u ∧ u.log.notices = rest ∧ OnlyChanges [.log, .ints, .d0] s u ∧
      (∀ k x, n = .event k x → s.log.evq.length < 256 → u.log = { s.log with notices := rest, evq := s.log.evq ++ [(k, x)] } ∧
        ∀ c, noticeCause k.toNat = some c → u.ints.stat = s.ints.stat ||| BitVec.ofNat 32 (2 ^ c)) ∧
      (∀ k x, n = .event k x → 256 ≤ s.log.evq.length → u.log = { s.log with notices := rest, evLost := s.log.evLost + 1 } ∧
        u.ints.stat.getLsbD Cause.eventLost = true) ∧
      (∀ x, n = .error x → s.log.errs = [] → u.log.errs = [x ||| BitVec.ofNat 256 (s.log.errSeq.toNat * 2 ^ 176)] ∧
        u.log.errSeq = s.log.errSeq + 1 ∧ u.log.errLost = s.log.errLost ∧ u.ints.stat.getLsbD Cause.err = true))

/-- O46: StreamsMove and StreamsEnd, together. -/
def Obligations.MailboxStreams : Prop := StreamsMove ∧ StreamsEnd

/-! ### Commands of the mailboxes -/

/-- From `s` to `u` mailbox `t`'s command waits for input: it has taken the words that were there, fewer than the `n` it needs (R261). -/
structure Sys2Proof.Machine.AwaitsWords (s u : State) (t n : Nat) : Prop where
  phase : (mbxGet u t).phase = .input n
  got : (mbxGet u t).got = (mbxGet s t).inF
  inF : (mbxGet u t).inF = []
  busy : (mbxGet u t).busy = (mbxGet s t).busy
  others : ∀ j, j ≠ t → mbxGet u j = mbxGet s j

/-- The commands that only mailbox 0 may issue, with their opcodes and the operations of the opcode that are theirs (Tables 12.2, 13.6, R243). -/
def Sys2Proof.Machine.hostOnly : List (Instr × Nat × (State → Nat → Bool)) :=
  [(.setTable, 0x02, anySub), (.getTable, 0x03, anySub), (.commit, 0x04, fun s t => !argB s t 0 0), (.commitCancel, 0x04, fun s t => argB s t 0 0),
    (.bankOffline, 0x30, anySub), (.bankOnline, 0x31, anySub), (.bankTrim, 0x32, anySub),
    (.dumpNow, 0x41, fun s t => argF s t 0 0 4 != 2), (.dumpRingReset, 0x41, fun s t => argF s t 0 0 4 == 2),
    (.traceTriggerCmd, 0x50, fun s t => traceSub 1 s t || argF s t 0 0 4 = 0 || 5 ≤ argF s t 0 0 4), (.traceRestart, 0x50, traceSub 2),
    (.traceFlush, 0x50, traceSub 3), (.traceStop, 0x50, traceSub 4), (.drainHalt, 0x60, fun s t => drainSub 0 s t || drainSub 3 s t),
    (.drainClean, 0x60, drainSub 1), (.drainEmpty, 0x60, drainSub 2), (.inspectLine, 0x61, anySub), (.wfgSnapshot, 0x62, anySub),
    (.resume, 0x63, anySub), (.fwLoad, 0x70, anySub), (.fwActivate, 0x71, anySub), (.tenantSwitch, 0x80, anySub)]

/-- O47: GET_INFO, from any mailbox and whatever its arguments, completes with OK and the results of Table 13.11 (R272). -/
def Obligations.GetInfoCompletes : Prop :=
  ∀ (s : State) (t : Nat) (rest : List Nat), Heads s 0x01 t rest →
    ∃ u, exec .getInfo s = .next u ∧ Completes s u t rest Mc.ok (infoRes s t) []

/-- a command of mailbox 0's alone ends with EPERM on any other (Tables 12.2, 13.6, R243), and an opcode that Table 13.6 does not list ends with EINVAL (R259). -/
def Sys2Proof.Machine.CommandsChecked : Prop :=
  (∀ (c : Instr) (op : Nat) (sub : State → Nat → Bool) (s : State) (t : Nat) (rest : List Nat), (c, op, sub) ∈ hostOnly → Heads s op t rest →
    sub s t = true → t ≠ 0 →
    ∃ u, exec c s = .next u ∧ Completes s u t rest Mc.eperm [] []) ∧
  (∀ (s : State) (t : Nat) (rest : List Nat), coreRuns s = true → s.startQ = t :: rest → (mbxGet s t).op.toNat ∉ knownOps →
    ∃ u, exec .invalidCommand s = .next u ∧ Completes s u t rest Mc.einval [] [])

/-- The arguments of SET_TABLE or GET_TABLE name entries of a table (Tables 13.8, 13.9). -/
structure Sys2Proof.Machine.TableArgs (s : State) (rsv : List (Nat × Nat × Nat)) : Prop where
  count : argF s 0 1 0 13 ≠ 0
  rsv : argRsv s 0 rsv = false
  inside : argF s 0 0 0 12 + argF s 0 1 0 13 ≤ tblEntries (argF s 0 0 16 8)

/-- The words of the entries that a GET_TABLE asks for, of the live tables if LIVE is 1, else of the shadow (Table 13.9). -/
def Sys2Proof.Machine.tableWords (s : State) : List (BitVec 32) :=
  (((List.range (argF s 0 1 0 13)).map fun i => tbl (if argB s 0 0 31 then s.gen.live else s.gen.shadow) (argF s 0 0 16 8) (argF s 0 0 0 12 + i)).flatMap
    (wordsOf (tblWords (argF s 0 0 16 8)))).map (BitVec.ofNat 32)

/-- SET_TABLE takes the words of its entries and writes them to the shadow tables, whole; GET_TABLE delivers those of the table it names, and ends when
they have been read (R266, R261). -/
def Sys2Proof.Machine.TablesMove : Prop :=
  (∀ (s : State) (rest : List Nat), Heads s 0x02 0 rest → TableArgs s [(0, 24, 8), (0, 12, 4), (1, 13, 19)] → commitArmed s = false →
    ((mbxGet s 0).inF.length < argF s 0 1 0 13 * tblWords (argF s 0 0 16 8) →
      ∃ u, exec .setTable s = .next u ∧ AwaitsWords s u 0 (argF s 0 1 0 13 * tblWords (argF s 0 0 16 8)) ∧ u.startQ = rest ∧
        OnlyChanges [.mbx, .startQ] s u) ∧
    (∀ es, argF s 0 1 0 13 * tblWords (argF s 0 0 16 8) ≤ (mbxGet s 0).inF.length →
      es = entriesOf (tblWords (argF s 0 0 16 8)) (argF s 0 1 0 13) ((mbxGet s 0).inF.take (argF s 0 1 0 13 * tblWords (argF s 0 0 16 8))) →
      (∀ e ∈ es.zipIdx, e.1 &&& tblRsv (argF s 0 0 16 8) (argF s 0 0 0 12 + e.2) = 0) →
      ∃ u, exec .setTable s = .next u ∧ Completes s u 0 rest Mc.ok [argF s 0 1 0 13] [.gen] ∧
        u.gen = { s.gen with shadow := shadowWith s (argF s 0 0 16 8) (argF s 0 0 0 12) es })) ∧
  (∀ (s : State) (rest : List Nat), Heads s 0x03 0 rest → TableArgs s [(0, 24, 7), (0, 12, 4), (1, 13, 19)] →
    ∃ u, exec .getTable s = .next u ∧ (mbxGet u 0).phase = .output ∧ (mbxGet u 0).outF = (tableWords s).take 64 ∧
      (mbxGet u 0).pend = (tableWords s).drop 64 ∧ (mbxGet u 0).got = [BitVec.ofNat 32 (argF s 0 1 0 13)] ∧ (mbxGet u 0).busy = (mbxGet s 0).busy ∧
      (∀ j, j ≠ 0 → mbxGet u j = mbxGet s j) ∧ u.startQ = rest ∧ OnlyChanges [.mbx, .startQ] s u)

/-- O48: CommandsChecked and TablesMove, together. -/
def Obligations.CommandsAndTables : Prop := CommandsChecked ∧ TablesMove

/-- The target of a COMMIT (Table 13.10). -/
def Sys2Proof.Machine.commitTarget (s : State) : FT := BitVec.ofNat 64 (mArg s 0 1 + 2 ^ 32 * mArg s 0 2)

/-- O49: a COMMIT whose candidate passes the checks of R267 is armed under the next generation number and completes, at once if the domains it needs are ON,
else it waits for them (R341); one that fails them completes with the first refusal and changes nothing; a cancel ends an armed one before
its instant, and comes too late at it (R271); that it raises GEN_FAIL is the model's reading (log 31). -/
def Obligations.CommitArms : Prop :=
  (∀ (s : State) (rest : List Nat), Heads s 0x04 0 rest → argB s 0 0 0 = false → argF s 0 0 1 31 = 0 → commitArmed s = false →
    s.pins.present = true →
    (commitCheck s s.gen.shadow = none → (needs s.gen.shadow).all (pdHeld s) = true →
      ∃ u, exec .commit s = .next u ∧ Completes s u 0 rest Mc.ok [(s.gen.gen + 1).toNat, editedBits s s.gen.shadow, 0] [.gen] ∧
        u.gen = { s.gen with armed := some { target := commitTarget s, cand := s.gen.shadow, gen := s.gen.gen + 1 } }) ∧
    (commitCheck s s.gen.shadow = none → (needs s.gen.shadow).all (pdHeld s) = false →
      ∃ u, exec .commit s = .next u ∧ GoesOn s u 0 rest [.gen, .pw] ∧
        u.gen = { s.gen with wait := some { mbx := 0, target := commitTarget s, cand := s.gen.shadow } } ∧
        ∀ d ∈ needs s.gen.shadow, pdHeld s d = false → { pd := d, target := .on } ∈ u.pw.wants) ∧
    (∀ f, commitCheck s s.gen.shadow = some f →
      ∃ u, exec .commit s = .next u ∧ Completes s u 0 rest f.code [0, 0, f.tab * 2 ^ 16 + f.ent] [])) ∧
  (∀ (s : State) (rest : List Nat), Heads s 0x04 0 rest → argB s 0 0 0 = true → argF s 0 0 1 31 = 0 →
    (∀ a, s.gen.armed = some a → commitDue s a = false → ∃ u, exec .commitCancel s = .next u ∧ Completes s u 0 rest Mc.ok [a.gen.toNat] [.gen] ∧
      u.gen = { s.gen with armed := none, last := 1, ftab := 0, fcode := 0, fent := 0, gft := s.clk.ft } ∧
      u.ints.stat.getLsbD Cause.genFail = true) ∧
    (∀ a, s.gen.armed = some a → commitDue s a = true → ∃ u, exec .commitCancel s = .next u ∧ Completes s u 0 rest Mc.estate [] []) ∧
    (s.gen.armed = none → ∃ u, exec .commitCancel s = .next u ∧ Completes s u 0 rest Mc.estate [] []))

/-! ### Firmware -/

/-- The core after a reset into the slot selected (R264). -/
def Sys2Proof.Machine.coreAfter (s : State) (c : Core) : Core := { c with sup := false, run := true, wdAt := s.clk.run }

/-- The core after the activation `a` has been taken back (R283). -/
def Sys2Proof.Machine.coreReverted (s : State) (a : Act) : Core :=
  let c := { s.core with slot := !s.core.slot, act := some { a with reverted := true } }
  coreAfter s (if c.slot then { c with vala := false } else { c with valb := false })

/-- FW_LOAD marks the inactive slot not valid and takes the words of an image (R281); FW_ACTIVATE restarts the core from it (R282), and a trap or 50,000,000
ticks without a report of ready bring the previous image back (R283). A trap at any other time, or a watchdog that runs out, restarts the core with an alert,
and the commands that a running core had not started are lost (R264, R284, R285). When the watchdog can have run out is the model's choice (log 13). -/
def Sys2Proof.Machine.FirmwareRestarts : Prop :=
  (∀ (s : State) (rest : List Nat), Heads s 0x70 0 rest → 1 ≤ argF s 0 0 0 15 → argF s 0 0 0 15 ≤ 24576 → argRsv s 0 [(0, 15, 17)] = false →
    runsOp s 0 0x70 = false → runsOp s 0 0x71 = false → (mbxGet s 0).inF.length < argF s 0 0 0 15 →
    ∃ u, exec .fwLoad s = .next u ∧ AwaitsWords s u 0 (argF s 0 0 0 15) ∧ u.startQ = rest ∧
      u.core = (if s.core.slot then { s.core with vala := false } else { s.core with valb := false }) ∧ OnlyChanges [.mbx, .startQ, .core] s u) ∧
  (∀ (s : State) (rest : List Nat), Heads s 0x71 0 rest → argRsv s 0 [(0, 0, 32)] = false → inactiveValid s = true → otherRuns s 0 = false →
    commitArmed s = false →
    ∃ u, exec .fwActivate s = .next u ∧ GoesOn s u 0 rest [.core] ∧
      u.core = coreAfter s { s.core with slot := !s.core.slot, act := some { mbx := 0, at_ := s.clk.run, reverted := false } }) ∧
  (∀ (c : Instr) (s : State) (a : Act), s.core.act = some a → a.reverted = false → s.core.sup = false →
    (c = .activationRevert ∧ Config.activateTicks ≤ s.clk.run - a.at_ ∨ c = .stewardTrap ∧ s.core.run = true) →
    ∃ u, exec c s = .next u ∧ u.core = coreReverted s a ∧ u.ints.alert = s.ints.alert ||| 4 ∧ u.ints.stat.getLsbD Cause.alert = true ∧
      u.pins = { s.pins with alert := true } ∧ OnlyChanges [.core, .ints, .pins, .d0] s u) ∧
  (∀ (c : Instr) (b : BitVec 3) (s : State), s.core.run = true →
    (c = .watchdogExpiry ∧ 10000000 ≤ s.clk.run - s.core.wdAt ∧ b = 1 ∨ c = .stewardTrap ∧ activating s = false ∧ b = 2) →
    ∃ u, exec c s = .next u ∧ u.core = coreAfter s s.core ∧ u.startQ = (if coreRuns s then [] else s.startQ) ∧ u.ints.alert = s.ints.alert ||| b ∧ u.ints.rst = s.ints.rst + 1 ∧
      u.ints.stat.getLsbD Cause.alert = true ∧ u.pins = { s.pins with alert := true } ∧ OnlyChanges [.core, .startQ, .ints, .pins, .d0] s u)

/-- Mailbox `t` after the image has reported ready: the activation's command has its result, a command that the datapath works on or that waits in the
start queue stays, any other that was BUSY ends with ESTATE (R264, R282, R283). -/
def Sys2Proof.Machine.readyLeaves (s u : State) (t : Nat) : Prop :=
  let a := s.core.act.any fun a => a.mbx == t
  if (mbxGet s t).busy = false ∨ t ∈ s.startQ ∨ (a = false ∧ inDatapath s t = true) then mbxGet u t = { mbxGet s t with inF := [], outF := [] }
  else (mbxGet u t).busy = false ∧ (mbxGet u t).inF = [] ∧ (mbxGet u t).outF = [] ∧ u.ints.mbx.getLsbD t = true ∧
    (a = true → (mbxGet u t).res = resWords [b2n s.core.slot, fwVer s] ∧
      (mbxGet u t).code = BitVec.ofNat 4 (if s.core.act.any Act.reverted then Mc.efault else Mc.ok)) ∧
    (a = false → (mbxGet u t).code = BitVec.ofNat 4 Mc.estate)

/-- when an image reports ready, SUP is 1, the mailbox FIFOs are empty, the shadow tables equal the live ones, the start queue stands, and each command is
as R264 leaves it. -/
def Sys2Proof.Machine.ImageReady : Prop :=
  ∀ s : State, s.core.run = true → s.core.sup = false → s.pw.bring = false → Canonical s →
    ∃ u, exec .fwReady s = .next u ∧ u.core.sup = true ∧ u.gen = { s.gen with shadow := s.gen.live, wait := none } ∧ u.srv = { s.srv with insp := [] } ∧
      (∀ t < 16, readyLeaves s u t) ∧ OnlyChanges [.core, .gen, .srv, .mbx, .ints, .d0] s u

/-- O50: FirmwareRestarts and ImageReady, together. -/
def Obligations.Firmware : Prop := FirmwareRestarts ∧ ImageReady

/-! ### Bank service -/

/-- The command of mailbox 0 names a bank, passes the checks that bank commands share (R278), with reserved bits `rsv` 0. -/
structure Sys2Proof.Machine.BankCmd (s : State) (op : Nat) (rest : List Nat) (rsv : List (Nat × Nat × Nat)) : Prop where
  heads : Heads s op 0 rest
  rsv : argRsv s 0 rsv = false
  idle : commitArmed s = false
  few : bankOps s < 8
  present : s.pins.present = true

/-- Bank `b` has started an operation of a kind for mailbox 0; every other bank is as it was. -/
def Sys2Proof.Machine.BankWorks (s u : State) (b : Nat) (k : BankOpKind) : Prop :=
  bankGet u b = { bankGet s b with op := some { kind := k, mbx := 0, pos := 0, wb := 0, inv := 0 } } ∧ ∀ j, j ≠ b → bankGet u j = bankGet s j

/-- From `s` to `u` the tag entries of bank `b` have been cleared (R61). -/
def Sys2Proof.Machine.BankCleared (s u : State) (b : Nat) : Prop :=
  (∀ k, bankOfKey k = b → tagGet u k = TagE.zero) ∧ (∀ k, bankOfKey k ≠ b → tagGet u k = tagGet s k) ∧ u.arr.data = s.arr.data

/-- A bank's operation after a line of its sweep has been visited. -/
def Sys2Proof.Machine.lineVisited (o : BankOp) (e : TagE) : BankOp := { o with pos := o.pos + 1, wb := o.wb + b2n (e.v && e.d), inv := o.inv + b2n e.v }

/-- O51: BANK_OFFLINE and BANK_TRIM start the sweep of an idle bank, BANK_ONLINE brings one back, its tags cleared (R278, R279, R280); each step of the sweep
takes a line out of the bank, a dirty one by way of Mire; calibration ends BANK_TRIM with its setting, or retires the bank (R280, R363). -/
def Obligations.BankService : Prop :=
  (∀ (s : State) (rest : List Nat), BankCmd s 0x30 rest [(0, 7, 25)] → bankBusy s (argF s 0 0 0 6) = false →
    ∃ u, exec .bankOffline s = .next u ∧ GoesOn s u 0 rest [.banks] ∧ BankWorks s u (argF s 0 0 0 6) (.offline (argB s 0 0 6))) ∧
  (∀ (s : State) (rest : List Nat), BankCmd s 0x32 rest [(0, 6, 26)] → bankBusy s (argF s 0 0 0 6) = false →
    ∃ u, exec .bankTrim s = .next u ∧ GoesOn s u 0 rest [.banks] ∧ BankWorks s u (argF s 0 0 0 6) .trim) ∧
  (∀ (s : State) (rest : List Nat), BankCmd s 0x31 rest [(0, 7, 25)] → onlineBad s (argF s 0 0 0 6) (argB s 0 0 6) = false → Canonical s →
    (pdHeld s (argF s 0 0 0 6) = false → ∃ u, exec .bankOnline s = .next u ∧ GoesOn s u 0 rest [.banks, .pw] ∧
      BankWorks s u (argF s 0 0 0 6) (.online (argB s 0 0 6)) ∧ { pd := argF s 0 0 0 6, target := .on } ∈ u.pw.wants) ∧
    (pdHeld s (argF s 0 0 0 6) = true → ∃ u, exec .bankOnline s = .next u ∧ Completes s u 0 rest Mc.ok [] [.banks, .pw, .arr, .bad] ∧
      bankGet u (argF s 0 0 0 6) = { bankGet s (argF s 0 0 0 6) with retired := false, leak := 0 } ∧ BankCleared s u (argF s 0 0 0 6))) ∧
  (∀ (b : Fin 64) (s : State) (o : BankOp), SweepRoom s → holdsCache s (b.val % 32) = true → (bankGet s b.val).sweep = none →
    (bankGet s b.val).op = some o → o.pos < 8192 → (o.kind = .trim ∨ ∃ x, o.kind = .offline x) →
    ∃ u, exec (.bankSweepStep b) s = .next u ∧ SetSwept s u (bankKey b.val o.pos / 32) (fun k => k == bankKey b.val o.pos) ∧
      bankGet u b.val = { bankGet s b.val with op := some (lineVisited o (tagGet s (bankKey b.val o.pos))) } ∧
      (∀ j, j ≠ b.val → bankGet u j = bankGet s j) ∧ (o.pos + 1 < 8192 → u.pw = s.pw) ∧ OnlyChanges [.banks, .arr, .mp, .pw, .ctr] s u) ∧
  (∀ (b : Fin 64) (s : State) (i : Nat), SweepRoom s → holdsCache s (b.val % 32) = true → (bankGet s b.val).sweep = some i → (bankGet s b.val).op = none →
    i + 1 < 8192 →
    ∃ u, exec (.bankSweepStep b) s = .next u ∧ SetSwept s u (bankKey b.val i / 32) (fun k => k == bankKey b.val i) ∧
      bankGet u b.val = { bankGet s b.val with sweep := some (i + 1) } ∧ (∀ j, j ≠ b.val → bankGet u j = bankGet s j) ∧
      OnlyChanges [.banks, .arr, .mp, .ctr] s u) ∧
  (∀ (b : Fin 64) (s : State) (o : BankOp), (bankGet s b.val).op = some o → o.kind = .trim → o.pos = 8192 → Canonical s →
    (∀ v, ∃ u, exec (.bankTrimCalibrationDone b (some v)) s = .next u ∧ Ended s u o.mbx Mc.ok [256 * v.toNat + (bankGet s b.val).trim.toNat, o.wb] ∧
      bankGet u b.val = { bankGet s b.val with trim := v, op := none } ∧ BankCleared s u b.val ∧ OnlyChanges [.banks, .arr, .bad, .mbx, .ints, .d0] s u) ∧
    ((bankGet s b.val).retired = false → ∃ u, exec (.bankTrimCalibrationDone b none) s = .next u ∧
      Ended s u o.mbx Mc.efault [257 * (bankGet s b.val).trim.toNat, o.wb] ∧ (bankGet u b.val).retired = true ∧ (bankGet u b.val).sweep = some 0 ∧
      (bankGet u b.val).op = none ∧ u.ints.stat.getLsbD Cause.bank = true ∧ OnlyChanges [.banks, .arr, .mbx, .ints, .d0, .log] s u))

/-! ### Live service -/

/-- The DRAIN of mailbox 0 in a mode that may start (R273, Table 13.12). -/
structure Sys2Proof.Machine.DrainCmd (s : State) (mode : Nat) (rest : List Nat) : Prop where
  heads : Heads s 0x60 0 rest
  mode : argF s 0 0 0 2 = mode
  rsv : argRsv s 0 [(0, 2, 30)] = false
  idle : commitArmed s = false
  present : s.pins.present = true
  none : s.srv.drain = none

/-- A DRAIN of mailbox 0 as it starts. -/
def Sys2Proof.Machine.newDrain (m : DrainMode) : Drain := { mode := m, mbx := 0, pos := 0, wb := 0, inv := 0 }

/-- O52: DRAIN HALT stops the presenting of requests, and completes when those presented before have passed; CLEAN and EMPTY start their sweeps, EMPTY
allocating no more (R273). That DRAIN_HALT_DONE may come in any state is the model's reading (log 11). -/
def Obligations.DrainStarts : Prop :=
  (∀ (s : State) (rest : List Nat), DrainCmd s 0 rest → s.srv.halt = false →
    ∃ u, exec .drainHalt s = .next u ∧ GoesOn s u 0 rest [.srv] ∧ u.srv = { s.srv with halt := true, drain := some (newDrain .halt) }) ∧
  (∀ (s : State) (rest : List Nat), DrainCmd s 1 rest →
    ∃ u, exec .drainClean s = .next u ∧ GoesOn s u 0 rest [.srv] ∧ u.srv = { s.srv with drain := some (newDrain .clean) }) ∧
  (∀ (s : State) (rest : List Nat), DrainCmd s 2 rest → s.srv.allocOff = false →
    ∃ u, exec .drainEmpty s = .next u ∧ GoesOn s u 0 rest [.srv] ∧ u.srv = { s.srv with allocOff := true, drain := some (newDrain .empty) }) ∧
  (∀ (s : State) (d : Drain), s.srv.drain = some d → d.mode = .halt → Canonical s →
    ∃ u, exec .drainHaltDone s = .next u ∧ Ended s u d.mbx Mc.ok [0, 0] ∧ u.srv = { s.srv with drain := none } ∧
      OnlyChanges [.srv, .mbx, .ints, .d0] s u)

/-- O53: RESUME ends HALT and allocation-off and completes with OK; with ESTATE when neither is in effect, and with EAGAIN while a COMMIT is armed (R274, R269). -/
def Obligations.ResumeEnds : Prop :=
  ∀ (s : State) (rest : List Nat), Heads s 0x63 0 rest →
    (commitArmed s = false → s.pins.present = true → (s.srv.halt = true ∨ s.srv.allocOff = true) →
      ∃ u, exec .resume s = .next u ∧ Completes s u 0 rest Mc.ok [] [.srv] ∧ u.srv = { s.srv with halt := false, allocOff := false }) ∧
    (commitArmed s = false → s.srv.halt = false → s.srv.allocOff = false →
      ∃ u, exec .resume s = .next u ∧ Completes s u 0 rest Mc.estate [] []) ∧
    (s.gen.armed ≠ none → ∃ u, exec .resume s = .next u ∧ Completes s u 0 rest Mc.eagain [] [])

/-- LOC of an INSPECT_LINE (Table 13.13). -/
def Sys2Proof.Machine.inspLoc (s : State) : Nat := mArg s 0 1 + 2 ^ 32 * argF s 0 2 0 12

/-- The arguments of INSPECT_LINE name records that exist (R275, Table 13.13). -/
structure Sys2Proof.Machine.InspectArgs (s : State) : Prop where
  some_ : argF s 0 3 0 11 ≠ 0
  few : argF s 0 3 0 11 ≤ 1024
  rsv : argRsv s 0 [(0, 6, 26), (0, 2, 2), (2, 12, 20), (3, 11, 21)] = false
  loc : argRsv s 0 (locRsv (argF s 0 0 0 2)) = false
  present : s.pins.present = true
  ways : argF s 0 0 0 2 = 0 → inspLoc s % 2 ^ 19 + argF s 0 3 0 11 ≤ 2 ^ 19
  memory : argF s 0 0 0 2 = 1 → inspLoc s % 128 = 0 ∧ inspLoc s + 128 * argF s 0 3 0 11 ≤ 2 ^ 44
  segment : argF s 0 0 0 2 = 2 → inspLoc s % 128 = 0 ∧ ∃ g c, segFind s (inspLoc s / 2 ^ 26) = some g ∧
    copyOf s g (BitVec.ofNat 2 (argF s 0 0 4 2)) = some c ∧ inspLoc s % 2 ^ 26 + 128 * argF s 0 3 0 11 ≤ g.gran * 65536
  region : argF s 0 0 0 2 = 3 → ∃ r, regionFind s (fld (inspLoc s) 20 4) = some r ∧ r.opened = true ∧
    inspLoc s % 2 ^ 19 + argF s 0 3 0 11 ≤ 10 * windowLines r

/-- The INSPECT_LINE that the arguments ask for. -/
def Sys2Proof.Machine.newInsp (s : State) : Insp :=
  { mbx := 0, kind := BitVec.ofNat 2 (argF s 0 0 0 2), loc := if argF s 0 0 0 2 = 0 then inspLoc s % 2 ^ 19 else inspLoc s,
    epoch := BitVec.ofNat 2 (argF s 0 0 4 2), count := argF s 0 3 0 11, done := 0 }

/-- INSPECT_LINE takes its records one after another, each of the state at that time, as its output has room for them, and ends with their number after
the last; it changes nothing that it shows (R275). -/
def Sys2Proof.Machine.LinesInspected : Prop :=
  (∀ (s : State) (rest : List Nat), Heads s 0x61 0 rest → InspectArgs s →
    ∃ u, exec .inspectLine s = .next u ∧ u.srv = { s.srv with insp := s.srv.insp ++ [newInsp s] } ∧ (mbxGet u 0).phase = .output ∧
      (mbxGet u 0).busy = (mbxGet s 0).busy ∧ (mbxGet u 0).outF = [] ∧ (mbxGet u 0).pend = [] ∧ (∀ j, j ≠ 0 → mbxGet u j = mbxGet s j) ∧
      u.startQ = rest ∧ OnlyChanges [.srv, .mbx, .startQ] s u) ∧
  (∀ (s : State) (x : Insp), s.srv.insp.find? (fun x => (mbxGet s x.mbx).pend.isEmpty) = some x → s.pins.present = true → Canonical s →
    (mbxGet s x.mbx).outF.length ≤ 24 → (mbxGet s x.mbx).phase = .output → (mbxGet s x.mbx).op ≠ 3 →
    ∃ u, exec .inspectLineRecord s = .next u ∧
      (mbxGet u x.mbx).outF = (mbxGet s x.mbx).outF ++ (inspWords s (inspAt s x x.done)).map (BitVec.ofNat 32) ∧
      (∀ j, j ≠ x.mbx → mbxGet u j = mbxGet s j) ∧
      (x.done + 1 < x.count → u.srv = { s.srv with insp := lmod (·.mbx = x.mbx) (fun y : Insp => { y with done := x.done + 1 }) s.srv.insp } ∧
        (mbxGet u x.mbx).busy = (mbxGet s x.mbx).busy ∧ (mbxGet u x.mbx).got = [BitVec.ofNat 32 (x.done + 1)] ∧ OnlyChanges [.srv, .mbx, .ctr] s u) ∧
      (x.count ≤ x.done + 1 → u.srv = { s.srv with insp := s.srv.insp.filter (·.mbx ≠ x.mbx) } ∧ Ended s u x.mbx Mc.ok [x.done + 1]) ∧
      OnlyChanges [.srv, .mbx, .ints, .d0, .ctr] s u)

/-- The state in which a command of mailbox `t` starts: it has left the queue, and its old output is gone (R261). -/
def Sys2Proof.Machine.atStart (s : State) (t : Nat) (rest : List Nat) : State := mbxSet t { mbxGet s t with outF := [] } { s with startQ := rest }

/-- A WR of the slice's own for a snapshot's line `d` at `a` is the last message on D0, and awaits its answer. -/
structure Sys2Proof.Machine.SnapSent (s u : State) (a : Nat) (d : Line) : Prop where
  sent : ∃ o, u.d0 = { s.d0 with out := s.d0.out ++ [o] } ∧ hOpcode o.msg = Op.wr ∧ hAddr o.msg = a ∧ hLen o.msg = 128 ∧
    o.msg.beats = [lineBeat d 0, lineBeat d 1] ∧ hTxid o.msg = s.srv.ownTx.toNat
  tx : u.srv.ownTx = s.srv.ownTx + 1
  awaits : u.srv.own = s.srv.own ++ [{ txid := s.srv.ownTx, kind := .snap }]

/-- WFG_SNAPSHOT captures every wait of the slice at one instant, and writes the capture to memory line by line, as far as the buffer goes; it ends with the
bytes written, or EFAULT when a write fails (R276, R325). -/
def Sys2Proof.Machine.SnapshotWritten : Prop :=
  (∀ (s : State) (rest : List Nat) (buf : Nat), Heads s 0x62 0 rest → buf = mArg s 0 0 + 2 ^ 32 * argF s 0 1 0 12 → mArg s 0 2 ≠ 0 →
    argRsv s 0 [(1, 12, 20)] = false → buf % 128 = 0 → mArg s 0 2 % 128 = 0 → s.pins.present = true → s.srv.snap = none →
    ∃ u d more, exec .wfgSnapshot s = .next u ∧ GoesOn s u 0 rest [.srv, .d0] ∧ snapLines (atStart s 0 rest) = d :: more ∧ SnapSent s u buf d ∧
      u.srv.snap = some { mbx := 0, addr := buf, todo := (d :: more).take (mArg s 0 2 / 128), bytes := 0,
                          trunc := decide (mArg s 0 2 < 128 * (more.length + 1)), cft := s.clk.ft }) ∧
  (∀ (tx : BitVec 16) (st : BitVec 3) (s : State) (x : Snap), ownFind s tx = some .snap → s.srv.snap = some x → Canonical s →
    (st = 0 → x.todo.tail = [] → ∃ u, exec (.snapshotWriteComp tx st) s = .next u ∧
      Ended s u x.mbx Mc.ok ([x.bytes + 128, b2n x.trunc] ++ ftWords x.cft) ∧
      u.srv = { s.srv with own := s.srv.own.filter (·.txid ≠ tx), snap := none } ∧ OnlyChanges [.srv, .mbx, .ints, .d0] s u) ∧
    (∀ y d more, st = 0 → x.todo = y :: d :: more → x.addr + 128 < 2 ^ 44 → x.addr % 128 = 0 →
      ∃ u, exec (.snapshotWriteComp tx st) s = .next u ∧ SnapSent { s with srv := { s.srv with own := s.srv.own.filter (·.txid ≠ tx) } } u (x.addr + 128) d ∧
        u.srv.snap = some { x with addr := x.addr + 128, todo := d :: more, bytes := x.bytes + 128 } ∧ OnlyChanges [.srv, .d0] s u) ∧
    (st ≠ 0 → ∃ u, exec (.snapshotWriteComp tx st) s = .next u ∧ Ended s u x.mbx Mc.efault ([x.bytes, b2n x.trunc] ++ ftWords x.cft) ∧
      u.srv = { s.srv with own := s.srv.own.filter (·.txid ≠ tx), snap := none } ∧ OnlyChanges [.srv, .mbx, .ints, .d0] s u))

/-- O54: LinesInspected and SnapshotWritten, together. -/
def Obligations.StateShown : Prop := LinesInspected ∧ SnapshotWritten

/-! ### Tenants and keys -/

/-- No deadline report is left to raise and no parked wait has passed: what the end of an SCLK leaves is done. -/
structure Sys2Proof.Machine.Settled (s : State) : Prop where
  waits : ∀ w ∈ s.tal.parked, w.by_ = none ∧ w.due = none
  resolves : ∀ r ∈ s.fen.regions, ∀ x, r.res = some x → x.due = none

/-- TENANT_SWITCH denies the context's parked waits and starts; a report or a release that is due goes first; its steps wait for the context's requests, take its lines out of every set, and, if asked,
erase its key (R246). -/
def Sys2Proof.Machine.TenantSwitched : Prop :=
  (∀ (s : State) (rest : List Nat) (c : Nat), Heads s 0x80 0 rest → c = argF s 0 0 0 4 → argRsv s 0 [(0, 7, 25)] = false → commitArmed s = false →
    s.pins.present = true → rmAnyTc s.t c = false → tenantAgents s c = false → s.srv.tsw = none → c ≠ 0 → s.bad = [] →
    ∃ u, exec .tenantSwitch s = .next u ∧ GoesOn s u 0 rest [.srv, .tal, .d0, .d1, .sout, .fen, .ctr, .peat, .log, .ints] ∧
      u.srv = { s.srv with tsw := some (newTsw s 0) } ∧ (∀ w ∈ u.tal.parked, w.req.tc ≠ BitVec.ofNat 4 c) ∧
      (Settled s → u.tal = { s.tal with parked := s.tal.parked.filter (·.req.tc ≠ BitVec.ofNat 4 c) } ∧
        OnlyChanges [.srv, .tal, .d0, .d1, .sout, .mbx, .startQ] s u) ∧
      ∀ w ∈ s.tal.parked, Settled s → w.req.tc = BitVec.ofNat 4 c → ∃ o ∈ outOf u w.req.port, hOpcode o.msg = Op.comp ∧ hStatus o.msg = St.denied ∧
        hTxid o.msg = hTxid w.req.msg ∧ hDst o.msg = hSrc w.req.msg) ∧
  (∀ (s : State) (w : Tsw), s.srv.tsw = some w → w.stage = 1 → Settled s → (∀ x ∈ s.tal.parked, x.req.tc ≠ w.t) →
    (tenantBusy s w.t = true → exec .tenantSweepStep s = .next s) ∧
    (tenantBusy s w.t = false → w.fenfree = false →
      exec .tenantSweepStep s = .next { s with srv := { s.srv with tsw := some { w with stage := 3 } } }) ∧
    (tenantBusy s w.t = false → w.fenfree = true → ∃ u, exec .tenantSweepStep s = .next u ∧
      u.srv = { s.srv with tsw := some { w with stage := 2, regs := (s.fen.regions.filter (tenantRegion s w.t.toNat)).length } } ∧
      u.fen = { s.fen with regions := lmod (fun r => r.opened && tenantRegion s w.t.toNat r) (closeRegion s) s.fen.regions } ∧
      OnlyChanges [.srv, .fen] s u)) ∧
  (∀ (s : State) (w : Tsw), s.srv.tsw = some w → w.stage = 2 → fenBusy s w.t.toNat = false →
    ∃ u, exec .tenantSweepStep s = .next u ∧ u.srv.tsw = some { w with stage := 3, segs := (tenantSegs s w.t.toNat).length } ∧
      (∀ g ∈ u.fen.segs, g.owner ≠ w.t) ∧ OnlyChanges [.srv, .fen] s u) ∧
  (∀ (s : State) (w : Tsw), s.srv.tsw = some w → w.stage = 3 → w.discard = false → SweepRoom s →
    (w.pos + 1 < 16384 → ∃ u x y, exec .tenantSweepStep s = .next u ∧
      SetSwept s u w.pos (fun k => (tagGet s k).v && holdsCache s (k % 32) && (tagGet s k).tc == w.t) ∧
      u.srv = { s.srv with tsw := some { w with pos := w.pos + 1, wb := x, inv := y } } ∧ OnlyChanges [.srv, .arr, .mp, .ctr] s u) ∧
    (w.pos = 16383 → ∃ u x y, exec .tenantSweepStep s = .next u ∧
      SetSwept s u w.pos (fun k => (tagGet s k).v && holdsCache s (k % 32) && (tagGet s k).tc == w.t) ∧
      (w.clrkey = true → u.srv = { s.srv with tsw := some { w with stage := 4, wb := x, inv := y } }) ∧
      (w.clrkey = false → Ended s u w.mbx Mc.ok [x, y, packNat [(6, 5, w.regs), (0, 6, w.segs)]] ∧ u.srv = { s.srv with tsw := none }))) ∧
  (∀ (s : State) (w : Tsw), s.srv.tsw = some w → w.stage = 3 → w.discard = true → SweepRoom s → w.pos + 1 < 16384 →
    ∃ u x y, exec .tenantSweepStep s = .next u ∧
      (∀ k, tagGet u k = if k / 32 = w.pos ∧ (tagGet s k).v = true ∧ holdsCache s (k % 32) = true ∧ (tagGet s k).tc = w.t then TagE.zero else tagGet s k) ∧
      u.mp.mire = s.mp.mire ∧ u.mp.miss = s.mp.miss ∧ u.srv = { s.srv with tsw := some { w with pos := w.pos + 1, wb := x, inv := y } } ∧
      OnlyChanges [.srv, .arr, .mp, .ctr] s u) ∧
  (∀ (s : State) (w : Tsw), s.srv.tsw = some w → w.stage = 4 → sealedHeld s w.t.toNat = false → Canonical s →
    ∃ u, exec .tenantSweepStep s = .next u ∧ Ended s u w.mbx Mc.ok [w.wb, w.inv, packNat [(6, 5, w.regs), (0, 6, w.segs)]] ∧
      keyGet u w.t.toNat = { Key.zero with kgen := (keyGet s w.t.toNat).kgen } ∧ (∀ j, j ≠ w.t.toNat → keyGet u j = keyGet s j) ∧
      u.srv = { s.srv with tsw := none } ∧ OnlyChanges [.srv, .keys, .mbx, .ints, .d0] s u)

/-- The SEAL_KEY of mailbox `t` in operation `op` may act on its context (R253, Table 12.5). -/
structure Sys2Proof.Machine.SealCmd (s : State) (t op : Nat) (rest : List Nat) : Prop where
  heads : Heads s 0x81 t rest
  perm : t = 0 ∨ argF s t 0 0 4 = t
  does : argF s t 0 4 2 = op
  rsv : argRsv s t [(0, 6, 26)] = false
  present : s.pins.present = true
  on : pdHeld s 77 = true
  unsealed : sealedHeld s (argF s t 0 0 4) = false

/-- SEAL_KEY LOAD takes the three keys of its context from 24 words and completes with the count of loads and the check value; ERASE forgets the keys, not the
count (R253, R254). No other context's key changes. -/
def Sys2Proof.Machine.KeysSealed : Prop :=
  (∀ (s : State) (t : Nat) (rest : List Nat), SealCmd s t 1 rest → 24 ≤ (mbxGet s t).inF.length →
    keyWords (mbxGet s t).inF 0 ≠ keyWords (mbxGet s t).inF 8 →
    ∃ u, exec .sealKeyLoad s = .next u ∧
      Completes s u t rest Mc.ok [((keyGet s (argF s t 0 0 4)).kgen + 1).toNat, keyCheck (keyWords (mbxGet s t).inF 16)] [.keys] ∧
      keyGet u (argF s t 0 0 4) = { loaded := true, k1 := keyWords (mbxGet s t).inF 0, k2 := keyWords (mbxGet s t).inF 8,
                                    km := keyWords (mbxGet s t).inF 16, kgen := (keyGet s (argF s t 0 0 4)).kgen + 1 } ∧
      ∀ j, j ≠ argF s t 0 0 4 → keyGet u j = keyGet s j) ∧
  (∀ (s : State) (t : Nat) (rest : List Nat), SealCmd s t 2 rest → Canonical s →
    ∃ u, exec .sealKeyErase s = .next u ∧ Completes s u t rest Mc.ok [(keyGet s (argF s t 0 0 4)).kgen.toNat, 0] [.keys] ∧
      keyGet u (argF s t 0 0 4) = { Key.zero with kgen := (keyGet s (argF s t 0 0 4)).kgen } ∧
      ∀ j, j ≠ argF s t 0 0 4 → keyGet u j = keyGet s j)

/-- O55: TenantSwitched and KeysSealed, together. -/
def Obligations.TenantsAndKeys : Prop := TenantSwitched ∧ KeysSealed

/-! ### Counters, samples and dumps -/

/-- The CTR_CONFIG of mailbox `t` in operation `op` passes its checks (R289, R297). -/
structure Sys2Proof.Machine.CtrCmd (s : State) (t op : Nat) (rest : List Nat) : Prop where
  heads : Heads s 0x40 t rest
  does : argF s t 0 16 4 = op
  perm : ∀ n ∈ ctrRange s t, ctrPerm s t n = true
  count : argF s t 0 8 7 ≠ 0
  rsv : argRsv s t [(0, 20, 12), (0, 15, 1), (0, 7, 1), (2, 16, 16), (4, 16, 16)] = false
  inside : argF s t 0 0 7 + argF s t 0 8 7 ≤ if op = 0 then 72 else 64
  on : pdOn s 76 = true

/-- O56: CTR_CONFIG reads a range of counters with the values that the SCLK ends with, delivered as it ends, or loads, zeroes, stops or starts them all in one
SCLK, and reports its FT value (R287, R289, R297, R299). That an SCLK's count is made under the RUN that it ends with is the model's choice (log 38). -/
def Obligations.CountersConfigured : Prop :=
  (∀ (s : State) (t : Nat) (rest : List Nat), CtrCmd s t 0 rest →
    ∃ u, exec .ctrRead s = .next u ∧ GoesOn s u t rest [.ctr] ∧ u.ctr = { s.ctr with caps := s.ctr.caps ++ [.read t] }) ∧
  (∀ (s : State) (t : Nat), s.ctr.caps = [.read t] → (mbxGet s t).phase = .work → (mbxGet s t).op = 0x40 → (mbxGet s t).outF = [] →
    coreRuns s = true → (∀ x ∈ s.srv.insp, x.mbx ≠ t) →
    Delivers s (capTick s) t (((ctrRange s t).flatMap (ctrWords s)).map (BitVec.ofNat 32)) (ftWords s.clk.ft) ∧
      (capTick s).ctr = { s.ctr with caps := [] } ∧ OnlyChanges [.mbx, .ints, .d0, .ctr] s (capTick s)) ∧
  (∀ (s : State) (t : Nat) (rest : List Nat), CtrCmd s t 1 rest → Canonical s →
    ∃ u, exec .ctrLoad s = .next u ∧ Completes s u t rest Mc.ok (ftWords s.clk.ft) [.ctr] ∧
      u.ctr.rst = s.ctr.rst ++ (ctrRange s t).map (fun n => { n := n, val := loadVal s t n, zl := true, commit := false }) ∧
      (∀ n, ctrGet u n = if n ∈ ctrRange s t then { ctrGet s n with load := loadVal s t n } else ctrGet s n) ∧ u.ctr.occ = s.ctr.occ ∧
      u.ctr.samp = s.ctr.samp ∧ u.ctr.dump = s.ctr.dump) ∧
  (∀ (s : State) (t : Nat) (rest : List Nat), CtrCmd s t 2 rest →
    ∃ u, exec .ctrZero s = .next u ∧ Completes s u t rest Mc.ok (ftWords s.clk.ft) [.ctr] ∧
      u.ctr = { s.ctr with rst := s.ctr.rst ++ (ctrRange s t).map (fun n => { n := n, val := 0, zl := true, commit := false }) }) ∧
  (∀ (c : Instr) (b : Bool) (s : State) (t : Nat) (rest : List Nat), (c = .ctrStop ∧ b = false ∧ CtrCmd s t 3 rest ∨
      c = .ctrStart ∧ b = true ∧ CtrCmd s t 4 rest) → Canonical s →
    ∃ u, exec c s = .next u ∧ Completes s u t rest Mc.ok (ftWords s.clk.ft) [.ctr] ∧ 
      (∀ n, ctrGet u n = if n ∈ ctrRange s t then { ctrGet s n with run := b } else ctrGet s n) ∧
      u.ctr.occ = s.ctr.occ ∧ u.ctr.ovl = s.ctr.ovl ∧ u.ctr.rst = s.ctr.rst)

/-- a native sample is taken with its subject, or 256 SCLK after it without one (R304); a periodic one at each multiple of its period (R303); the oldest record
leaves for its place in the ring while fewer than 8 writes are in flight (R302, R306); the gauges take their sensors' readings once every 65,536 ticks (R295). -/
def Sys2Proof.Machine.SamplesTaken : Prop :=
  (∀ (c : Instr) (n : Fin 64) (s : State) (x : NatPend), (c = .nativeSampleSubject n ∧
      s.ctr.native.find? (fun x => x.n == n.val && x.subj.isSome) = some x ∨
      c = .nativeSampleExpiry n ∧ s.ctr.native.find? (fun x => x.n == n.val && x.subj.isNone && decide (x.sclk + 256 < s.clk.sclk)) = some x) →
    ∃ u q, exec c s = .next u ∧ u.ctr = { s.ctr with native := s.ctr.native.erase x, snew := s.ctr.snew ++ [(n.val, 2, some q)] } ∧
      fld q.toNat 192 64 = x.ft.toNat ∧ fld q.toNat 112 48 = x.val.toNat ∧ fld q.toNat 66 6 = n.val ∧ nbit q.toNat 48 = x.subj.isNone ∧
      OnlyChanges [.ctr] s u) ∧
  (∀ (n : Fin 64) (s : State), periodicDue s n.val = true →
    ∃ u k, exec (.periodicSample n) s = .next u ∧ u.ctr.snew = s.ctr.snew ++ [(n.val, 1, none)] ∧ ctrGet u n.val = { ctrGet s n.val with pk := k } ∧
      (∀ j, j ≠ n.val → ctrGet u j = ctrGet s j) ∧ ftN s < (ctrGet s n.val).p0.toNat + k * (ctPeriod (ctE s.t n.val) * 64) ∧ OnlyChanges [.ctr] s u) ∧
  (∀ (s : State) (x : Rec) (rest : List Rec) (a : Nat), s.ctr.samp = x :: rest → ringFlight s < 8 → pdOn s 76 = true →
    a = dpSbase s.t * 128 + 32 * s.ctr.snext → a < 2 ^ 44 →
    ∃ u o, exec .sampleWrite s = .next u ∧ u.ctr = { s.ctr with samp := rest, snext := (s.ctr.snext + 1) % (4 * 2 ^ dpSlog2 s.t) } ∧
      u.d0 = { s.d0 with out := s.d0.out ++ [o] } ∧ hOpcode o.msg = Op.wr ∧ hAddr o.msg = a ∧ hLen o.msg = 32 ∧ hTxid o.msg = s.srv.ownTx.toNat ∧
      u.srv = { s.srv with own := s.srv.own ++ [{ txid := s.srv.ownTx, kind := .sample a (s.ctr.sseq - BitVec.ofNat 32 s.ctr.samp.length) }],
                           ownTx := s.srv.ownTx + 1 } ∧ OnlyChanges [.ctr, .srv, .d0] s u) ∧
  (∀ (v : BitVec 64) (s : State), s.clk.ftv = true → pdOn s 76 = true → s.ctr.gaugeK ≠ ftN s / 65536 → Canonical s →
    ∃ u, exec (.tierTempGauge v) s = .next u ∧ u.ctr.gaugeK = ftN s / 65536 ∧
      (∀ n, ctrGet u n =
        if n < 64 ∧ isGauge (ctEvent (ctE s.t n)) = true ∧ ctEn (ctE s.t n) = true ∧ (ctrGet s n).run = true ∧ ctPasses (ctE s.t n) .u subjNone = true then
          { ctrGet s n with val := BitVec.ofNat 48 (fld v.toNat (8 * (ctEvent (ctE s.t n) - 0xC8)) 8) } else ctrGet s n) ∧
      u.ctr.snew = s.ctr.snew ∧ u.ctr.occ = s.ctr.occ ∧ OnlyChanges [.ctr] s u)

/-- The ring line at which a dump's record starts (R301). -/
def Sys2Proof.Machine.dumpAt (s : State) : Nat := if 2 ^ dpLog2 s.t - s.ctr.dump.next < dumpLines (dpCmask s.t) then 0 else s.ctr.dump.next

/-- The lines of a dump's record, with their places (R301, Table 14.8). -/
def Sys2Proof.Machine.dumpRecord (s : State) : List DLine :=
  (List.range (dumpLines (dpCmask s.t))).map fun i =>
    { addr := (dpBase s.t + dumpAt s + i) * 128, seq := s.ctr.dump.seq,
      data := if i = 0 then dumpHead s (dpCmask s.t) (dumpLines (dpCmask s.t)) else dumpBody (dumpWords s (dpCmask s.t)) i }

/-- From `s` to `u` a dump has been taken: NEXT and SEQ advance, LOST is 0, and its lines wait or have left, at most 8 writes in flight (R301, R302). -/
structure Sys2Proof.Machine.Dumped (s u : State) : Prop where
  next : u.ctr.dump.next = (dumpAt s + dumpLines (dpCmask s.t)) % 2 ^ dpLog2 s.t
  seq : u.ctr.dump.seq = s.ctr.dump.seq + 1
  lost : u.ctr.dump.lost = 0
  all : u.ctr.dump.q.length + ringFlight u = s.ctr.dump.q.length + dumpLines (dpCmask s.t) + ringFlight s
  lines : 8 ≤ ringFlight s → u.ctr.dump.q = s.ctr.dump.q ++ dumpRecord s
  order : ∃ n, u.ctr.dump.q = (s.ctr.dump.q ++ dumpRecord s).drop n
  counts : ∀ n, ctrGet u n = ctrGet s n

/-- a dump is taken at its instants, or by DUMP_NOW, with the values at the end of the SCLK (R287, R299, log 38), and lost while the last one's writes are
outstanding (R301); the answer to a write lets the next line leave, and a failed one is reported; with a dump's last answer its cause is raised if DINT
asks it (R302). -/
def Sys2Proof.Machine.DumpsTaken : Prop :=
  (∀ (s : State) (rest : List Nat), Heads s 0x41 0 rest → argF s 0 0 0 4 = 1 → pdOn s 76 = true →
    ∃ u, exec .dumpNow s = .next u ∧ Completes s u 0 rest Mc.ok [] [.ctr] ∧ u.ctr = { s.ctr with caps := s.ctr.caps ++ [.dump] }) ∧
  (∀ s : State, s.ctr.caps = [.dump] → Dumped s (capTick s) ∧ (capTick s).ctr.caps = [] ∧ OnlyChanges [.ctr, .srv, .d0] s (capTick s)) ∧
  (∀ (s : State) (rest : List Nat), Heads s 0x41 0 rest → argF s 0 0 0 4 = 2 → pdOn s 76 = true →
    ∃ u, exec .dumpRingReset s = .next u ∧ Completes s u 0 rest Mc.ok [] [.ctr] ∧
      u.ctr = { s.ctr with snext := 0, dump := { s.ctr.dump with next := 0 } }) ∧
  (∀ s : State, dumpDue s = true →
    (dumpBusy s = true → ∃ u k, exec .dump s = .next u ∧ u.ctr = { s.ctr with dump := { s.ctr.dump with k := k, lost := s.ctr.dump.lost + 1 } } ∧
      ftN s < dpFirst s.t + k * (dpInterval s.t * 1024) ∧ OnlyChanges [.ctr] s u) ∧
    (dumpBusy s = false → ∃ u k, exec .dump s = .next u ∧
      u.ctr = { s.ctr with dump := { s.ctr.dump with k := k }, caps := s.ctr.caps ++ [.dump] } ∧
      ftN s < dpFirst s.t + k * (dpInterval s.t * 1024) ∧ OnlyChanges [.ctr] s u)) ∧
  (∀ (tx : BitVec 16) (st : BitVec 3) (s : State) (a : Nat) (q : BitVec 32),
    (ownFind s tx = some (.dump a q) ∨ ownFind s tx = some (.sample a q)) → s.ctr.dump.q = [] →
    ∃ u, exec (.dmaWriteComp tx st) s = .next u ∧ u.srv = { s.srv with own := s.srv.own.filter (·.txid ≠ tx) } ∧
      (st = 0 → ownFind s tx = some (.dump a q) → (∀ o ∈ u.srv.own, ∀ b, o.kind ≠ .dump b q) → dpDint s.t = true →
        u.ints.stat.getLsbD Cause.dump = true) ∧
      (st = 0 → dpDint s.t = false ∨ ownFind s tx = some (.sample a q) → OnlyChanges [.srv] s u) ∧
      (st ≠ 0 → u.ints.stat.getLsbD Cause.dump = true ∧ (s.log.notices.length < 64 → ∃ x, u.log.notices = s.log.notices ++ [.event 5 x] ∧
        fld x.toNat 145 3 = st.toNat ∧ fld x.toNat 112 32 = q.toNat)) ∧
      OnlyChanges [.srv, .log, .ints, .d0, .ctr] s u) ∧
  (∀ (tx : BitVec 16) (st : BitVec 3) (s : State) (a : Nat) (q : BitVec 32) (x : DLine) (rest : List DLine),
    (ownFind s tx = some (.dump a q) ∨ ownFind s tx = some (.sample a q)) → ringFlight s ≤ 8 → s.ctr.dump.q = x :: rest → x.addr % 128 = 0 →
    x.addr < 2 ^ 44 →
    ∃ u n, exec (.dmaWriteComp tx st) s = .next u ∧ u.ctr.dump.q = rest.drop n ∧ (u.ctr.dump.q = [] ∨ 8 ≤ ringFlight u) ∧
      (∃ o ∈ u.d0.out, hOpcode o.msg = Op.wr ∧ hAddr o.msg = x.addr ∧ hLen o.msg = 128 ∧ hTxid o.msg = s.srv.ownTx.toNat ∧
        o.msg.beats = [lineBeat x.data 0, lineBeat x.data 1]) ∧
      (∃ o ∈ u.srv.own, o.txid = s.srv.ownTx ∧ o.kind = .dump x.addr x.seq) ∧ OnlyChanges [.srv, .log, .ints, .d0, .ctr] s u)

/-- O57: SamplesTaken and DumpsTaken, together. -/
def Obligations.SamplesAndDumps : Prop := SamplesTaken ∧ DumpsTaken

/-! ### Trace and watch -/

/-- The TRACE_CONFIG of mailbox 0 in operation `op` may act (R319). -/
structure Sys2Proof.Machine.TraceCmd (s : State) (op : Nat) (rest : List Nat) : Prop where
  heads : Heads s 0x50 0 rest
  does : argF s 0 0 0 4 = op
  rsv : argRsv s 0 [(0, 8, 24)] = false
  present : s.pins.present = true
  on : pdOn s 75 = true

/-- BUFMASK names buffer `b`, and it is enabled (Table 15.7). -/
def Sys2Proof.Machine.traceNamed (s : State) (b : Nat) : Bool := argB s 0 0 (4 + b) && tcEn (tcE s.t b)

/-- A buffer restarted (R319). -/
def Sys2Proof.Machine.bufRestarted (s : State) (x : TBuf) : TBuf :=
  { x with st := 1, err := false, next := 0, tidx := 0, start := 0, acc := 0, after := none, lastRun := s.clk.run }

/-- A buffer whose oldest line has left. -/
def Sys2Proof.Machine.bufSent (x : TBuf) : TBuf :=
  { x with loc := x.loc.drop (headLine x).1.length, flush := x.flush && decide ((headLine x).1.length < x.loc.length) }

/-- the oldest line of a buffer leaves when it is whole, or as it stands when nothing more is to come, with a WR of the slice's own; an answer other than
OK stops the buffer with ERR and is reported (R314). -/
def Sys2Proof.Machine.TraceWritten : Prop :=
  (∀ (c : Instr) (b : Fin 4) (s : State) (i : Nat) (x : Rec) (l : List (Nat × Rec)), (c = .traceDmaWrite b ∧ traceMay s b.val false = true ∨
      c = .traceIdleFlush b ∧ traceMay s b.val true = true ∧ (headLine (bufGet s b.val)).2 = false ∧ tracePart s b.val = true) →
    (headLine (bufGet s b.val)).1 = (i, x) :: l → (bufGet s b.val).pend = none → tcRbase (tcE s.t b.val) * 128 + 32 * i < 2 ^ 44 → Canonical s →
    ∃ u o, exec c s = .next u ∧ u.d0 = { s.d0 with out := s.d0.out ++ [o] } ∧ hOpcode o.msg = Op.wr ∧ hTxid o.msg = s.srv.ownTx.toNat ∧
      hLen o.msg = 32 * (l.length + 1) ∧ (l.length = 3 → i % 4 = 0 ∧ hAddr o.msg = (tcRbase (tcE s.t b.val) + i / 4) * 128) ∧
      (l.length < 3 → hAddr o.msg = tcRbase (tcE s.t b.val) * 128 + 32 * i) ∧
      u.srv = { s.srv with
        own := s.srv.own ++ [{ txid := s.srv.ownTx, kind := .trace b.val (tcRbase (tcE s.t b.val) * 128 + 32 * i) (l.length + 1) }]
        ownTx := s.srv.ownTx + 1 } ∧
      bufGet u b.val = bufSent (bufGet s b.val) ∧ (∀ j, j ≠ b.val → bufGet u j = bufGet s j) ∧ OnlyChanges [.srv, .peat, .d0] s u) ∧
  (∀ (tx : BitVec 16) (st : BitVec 3) (s : State) (b a n : Nat), ownFind s tx = some (.trace b a n) → (bufGet s b).pend = none →
    bufRuns (bufGet s b) = true →
    ∃ u, exec (.traceDmaComp tx st) s = .next u ∧ u.srv = { s.srv with own := s.srv.own.filter (·.txid ≠ tx) } ∧
      (st = 0 → u.peat = s.peat ∧ u.log = s.log) ∧
      (st ≠ 0 → (bufGet u b).err = true ∧ (bufGet u b).sft = s.clk.ft ∧ bufRuns (bufGet u b) = false ∧ (bufGet u b).loc = (bufGet s b).loc ∧
        (∀ j, j ≠ b → bufGet u j = bufGet s j) ∧ u.ints.stat.getLsbD Cause.trace = true ∧
        (s.log.notices.length < 64 → ∃ x, u.log.notices = s.log.notices ++ [.event 6 x] ∧ fld x.toNat 153 3 = st.toNat ∧ fld x.toNat 188 2 = 1)) ∧
      OnlyChanges [.srv, .peat, .log, .ints, .d0] s u)

/-- The state once an SCLK's reports, counts, captures and trace records have been made. -/
def Sys2Proof.Machine.sclkMade (s : State) : State := peatEnd (ctrTick (tallyTick (rptTick (sTick s))))

/-- O58: in the commit SCLK of a generation that changes a buffer's entry, its records are discarded, its SEQ, NEXT, TIDX, START and LOST become 0, and it runs if
EN is 1; a buffer whose entry is unchanged keeps running across the commit, with the records of the SCLK before (R312). That COMMIT_APPLY ends the SCLK before
the commit's is the model's choice (log 2). -/
def Obligations.TraceBuffersRestart : Prop :=
  ∀ (s : State) (a : Armed), s.gen.armed = some a → commitDue s a = true → s.pins.porstN = true → s.clk.ft.toNat + 2 < 2 ^ 64 →
    firstRefused [bindBad s a.cand, hashBad s a.cand] = none → Canonical s →
    ∃ u, exec .commitApply s = .next u ∧ ∀ b < 4,
      if entDiff s.t a.cand Tid.trace b = true then
        (bufGet u b).loc = [] ∧ (bufGet u b).seq = 0 ∧ (bufGet u b).next = 0 ∧ (bufGet u b).tidx = 0 ∧ (bufGet u b).start = 0 ∧ (bufGet u b).lost = 0 ∧
          (bufGet u b).st = if tcEn (tcE a.cand b) then 1 else 0
      else bufGet u b = bufGet (sclkMade s) b

/-- Records of a buffer that are in writes in flight. -/
def Sys2Proof.Machine.traceOut (s : State) (b : Nat) : Nat :=
  (s.srv.own.map fun o => match o.kind with | .trace c _ n => if c = b then n else 0 | _ => 0).sum

/-- From `s` to `u` lines of buffer `b` have left, the oldest first, until none is left or 8 writes are in flight (R314): the buffer is `x` but for
the records that have gone into writes, and a FLUSH ends with the last of them. -/
structure Sys2Proof.Machine.LinesLeft (s u : State) (b : Nat) (x : TBuf) : Prop where
  kept : ∃ n, bufGet u b = { x with loc := x.loc.drop n, flush := x.flush && (n == 0 || !(x.loc.drop n).isEmpty) }
  gone : (bufGet u b).loc = [] ∨ 8 ≤ traceFlight u b
  sent : traceOut u b + (bufGet u b).loc.length = traceOut s b + (bufGet s b).loc.length
  others : ∀ o ∈ s.srv.own, o ∈ u.srv.own

/-- A buffer that runs as STOP leaves it (R314, R319): stopped if nothing of it is local or in flight, else once that has gone. -/
def Sys2Proof.Machine.bufHalted (s : State) (b : Nat) : TBuf :=
  let x := { bufGet s b with sft := s.clk.ft }
  if (bufGet s b).loc = [] ∧ traceFlight s b = 0 then { x with st := 3, stopping := false } else { x with stopping := true }

/-- TRACE_CONFIG triggers, restarts, flushes or stops the enabled buffers that it names, and reports the FT value; a buffer that it does not name, or on which
the operation does not act, is as it was. A FLUSH sends the lines of a buffer as they stand; a STOP of one that runs does so as well, and with
STOPINT raises the TRACE cause (R314, R318, R319). -/
def Sys2Proof.Machine.TraceConfigured : Prop :=
  (∀ (s : State) (rest : List Nat), TraceCmd s 1 rest →
    ∃ u, exec .traceTriggerCmd s = .next u ∧ Completes s u 0 rest Mc.ok (ftWords s.clk.ft) [.peat] ∧
      u.peat = { s.peat with trg := s.peat.trg ++ ((List.range 4).filter (traceNamed s)).map fun b => { src := 0, win := 0, bufs := BitVec.ofNat 4 (2 ^ b) } }) ∧
  (∀ (s : State) (rest : List Nat), TraceCmd s 2 rest →
    ∃ u, exec .traceRestart s = .next u ∧ Completes s u 0 rest Mc.ok (ftWords s.clk.ft) [.peat] ∧
      ∀ b < 4, bufGet u b = if traceNamed s b = true ∧ (bufGet s b).st = 3 then bufRestarted s (bufGet s b) else bufGet s b) ∧
  (∀ (s : State) (rest : List Nat), TraceCmd s 3 rest →
    ∃ u, exec .traceFlush s = .next u ∧ Completes s u 0 rest Mc.ok (ftWords s.clk.ft) [.peat, .srv, .log] ∧
      ∀ b < 4, (traceNamed s b = false ∨ (bufGet s b).loc = [] → bufGet u b = bufGet s b) ∧
        (traceNamed s b = true → (bufGet s b).loc ≠ [] → (bufGet s b).pend = none → LinesLeft s u b { bufGet s b with flush := true })) ∧
  (∀ (s : State) (rest : List Nat), TraceCmd s 4 rest →
    ∃ u, exec .traceStop s = .next u ∧ Completes s u 0 rest Mc.ok (ftWords s.clk.ft) [.peat, .srv, .log] ∧
      ∀ b < 4, (traceNamed s b = false ∨ bufRuns (bufGet s b) = false → bufGet u b = bufGet s b) ∧
        (traceNamed s b = true → bufRuns (bufGet s b) = true → (bufGet s b).pend = none → LinesLeft s u b (bufHalted s b) ∧
          (tcStopint (tcE s.t b) = true → u.ints.stat.getLsbD Cause.trace = true)))

/-- O59: TraceWritten and TraceConfigured, together. -/
def Obligations.TraceService : Prop := TraceWritten ∧ TraceConfigured

/-- The WATCH_CONFIG of mailbox `t` in operation `op` may act on its window (R323). -/
structure Sys2Proof.Machine.WatchCmd (s : State) (t op : Nat) (rest : List Nat) : Prop where
  heads : Heads s 0x51 t rest
  does : argF s t 0 0 4 = op
  perm : t = 0 ∨ waOwner (waE s.t (watWin s t)) = t
  rsv : argRsv s t [(0, 10, 22)] = false
  present : s.pins.present = true
  on : pdOn s 75 = true
  window : op = 2 ∨ op = 4 → waLength (waE s.t (watWin s t)) ≠ 0
  scan : op = 4 → waAspace (waE s.t (watWin s t)) ≠ 0 ∧ s.peat.scan = none

/-- Every window but `w` is as it was. -/
def Sys2Proof.Machine.WatBut (s u : State) (w : Nat) : Prop := ∀ j, j ≠ w → watGet u j = watGet s j

/-- The SCAN that mailbox `t` starts in copy `c` of segment `g` (R323). -/
def Sys2Proof.Machine.newScan (s : State) (t : Nat) (g : Seg) (c : Bool) : Scan :=
  { ent := BitVec.ofNat 256 (waE s.t (watWin s t)), mbx := t, seg := g.id, copyB := c, pos := waBase (waE s.t (watWin s t)) * 8 / 128 * 128, dig := 0,
    lines := 0, pois := 0 }

/-- A SCAN after a line that is not poisoned. -/
def Sys2Proof.Machine.scanned (c : Scan) (d : Line) : Scan :=
  { c with dig := scanLine c.ent.toNat c.pos d c.dig, lines := c.lines + 1, pos := c.pos + 128 }

/-- O60: WATCH_CONFIG reads, clears, arms or disarms its window, or starts a SCAN, which reads one Fen line after another and ends with the digest of the
range and its counts (R323). -/
def Obligations.WatchConfigured : Prop :=
  (∀ (s : State) (t : Nat) (rest : List Nat), WatchCmd s t 0 rest → (∀ x ∈ s.srv.insp, x.mbx ≠ t) →
    ∃ u, exec .watchRead s = .next u ∧ Delivers s u t (((watRegs (watGet s (watWin s t))).flatMap fun r => [r % 2 ^ 32, r / 2 ^ 32]).map (BitVec.ofNat 32))
      (ftWords s.clk.ft) ∧ u.startQ = rest ∧ OnlyChanges mbxParts s u) ∧
  (∀ (s : State) (t : Nat) (rest : List Nat), Canonical s →
    (WatchCmd s t 1 rest → ∃ u, exec .watchClear s = .next u ∧ Completes s u t rest Mc.ok (ftWords s.clk.ft) [.peat] ∧ WatBut s u (watWin s t) ∧
      watGet u (watWin s t) = { watGet s (watWin s t) with acc := 0, wbytes := 0, digest := 0, nan := 0, inf := 0, maxabs := 0 }) ∧
    (WatchCmd s t 2 rest → ∃ u, exec .watchArm s = .next u ∧ Completes s u t rest Mc.ok (ftWords s.clk.ft) [.peat] ∧ WatBut s u (watWin s t) ∧
      watGet u (watWin s t) = { watGet s (watWin s t) with armed := true, fired := false }) ∧
    (WatchCmd s t 3 rest → ∃ u, exec .watchDisarm s = .next u ∧ Completes s u t rest Mc.ok (ftWords s.clk.ft) [.peat] ∧ WatBut s u (watWin s t) ∧
      watGet u (watWin s t) = { watGet s (watWin s t) with armed := false })) ∧
  (∀ (s : State) (t : Nat) (rest : List Nat) (g : Seg) (c : Bool), WatchCmd s t 4 rest →
    scanCopy s (waE s.t (watWin s t)) (BitVec.ofNat 2 (argF s t 0 8 2)) = some (g, c) →
    ∃ u, exec .watchScan s = .next u ∧ GoesOn s u t rest [.peat] ∧ u.peat = { s.peat with scan := some (newScan s t g c) }) ∧
  (∀ (s : State) (c : Scan) (g : Seg) (k : Nat), s.peat.scan = some c → segFind s c.seg = some g → s.bad = [] →
    k = locKey (fenLoc g c.copyB (c.pos % 2 ^ 26)) → keyRetired s k = false → (tagGet s k).poi = false → Canonical s →
    (c.pos + 128 < (waBase c.ent.toNat + waLength c.ent.toNat) * 8 →
      ∃ u, exec .watchScanStep s = .next u ∧ u.peat = { s.peat with scan := some (scanned c (dataGet s k)) } ∧ OnlyChanges [.peat, .ctr] s u) ∧
    ((waBase c.ent.toNat + waLength c.ent.toNat) * 8 ≤ c.pos + 128 →
      ∃ u, exec .watchScanStep s = .next u ∧ u.peat = { s.peat with scan := none } ∧
        Ended s u c.mbx Mc.ok (ftWords s.clk.ft ++ [(scanned c (dataGet s k)).dig.toNat % 2 ^ 32, (scanned c (dataGet s k)).dig.toNat / 2 ^ 32,
          c.lines + 1, c.pois]) ∧ OnlyChanges [.peat, .ctr, .mbx, .ints, .d0] s u))
end

