-- ==== Sys2Proof/Laws/State.lean ====
section
/-! SUPPORT. Each base update of the state leaves every other field as it was: one lemma per update and field, by rfl. -/

namespace Sys2Proof.Machine

@[simp] theorem tagSet_pending (k : Nat) (e : TagE) (s : State) : (tagSet k e s).pending = s.pending := rfl
@[simp] theorem tagSet_clk (k : Nat) (e : TagE) (s : State) : (tagSet k e s).clk = s.clk := rfl
@[simp] theorem tagSet_pins (k : Nat) (e : TagE) (s : State) : (tagSet k e s).pins = s.pins := rfl
@[simp] theorem tagSet_pw (k : Nat) (e : TagE) (s : State) : (tagSet k e s).pw = s.pw := rfl
@[simp] theorem tagSet_banks (k : Nat) (e : TagE) (s : State) : (tagSet k e s).banks = s.banks := rfl
@[simp] theorem tagSet_gen (k : Nat) (e : TagE) (s : State) : (tagSet k e s).gen = s.gen := rfl
@[simp] theorem tagSet_mp (k : Nat) (e : TagE) (s : State) : (tagSet k e s).mp = s.mp := rfl
@[simp] theorem tagSet_pf (k : Nat) (e : TagE) (s : State) : (tagSet k e s).pf = s.pf := rfl
@[simp] theorem tagSet_d0 (k : Nat) (e : TagE) (s : State) : (tagSet k e s).d0 = s.d0 := rfl
@[simp] theorem tagSet_d1 (k : Nat) (e : TagE) (s : State) : (tagSet k e s).d1 = s.d1 := rfl
@[simp] theorem tagSet_sq (k : Nat) (e : TagE) (s : State) : (tagSet k e s).sq = s.sq := rfl
@[simp] theorem tagSet_sout (k : Nat) (e : TagE) (s : State) : (tagSet k e s).sout = s.sout := rfl
@[simp] theorem tagSet_regHw (k : Nat) (e : TagE) (s : State) : (tagSet k e s).regHw = s.regHw := rfl
@[simp] theorem tagSet_fen (k : Nat) (e : TagE) (s : State) : (tagSet k e s).fen = s.fen := rfl
@[simp] theorem tagSet_tal (k : Nat) (e : TagE) (s : State) : (tagSet k e s).tal = s.tal := rfl
@[simp] theorem tagSet_home (k : Nat) (e : TagE) (s : State) : (tagSet k e s).home = s.home := rfl
@[simp] theorem tagSet_regul (k : Nat) (e : TagE) (s : State) : (tagSet k e s).regul = s.regul := rfl
@[simp] theorem tagSet_mace (k : Nat) (e : TagE) (s : State) : (tagSet k e s).mace = s.mace := rfl
@[simp] theorem tagSet_keys (k : Nat) (e : TagE) (s : State) : (tagSet k e s).keys = s.keys := rfl
@[simp] theorem tagSet_ctr (k : Nat) (e : TagE) (s : State) : (tagSet k e s).ctr = s.ctr := rfl
@[simp] theorem tagSet_peat (k : Nat) (e : TagE) (s : State) : (tagSet k e s).peat = s.peat := rfl
@[simp] theorem tagSet_mbx (k : Nat) (e : TagE) (s : State) : (tagSet k e s).mbx = s.mbx := rfl
@[simp] theorem tagSet_startQ (k : Nat) (e : TagE) (s : State) : (tagSet k e s).startQ = s.startQ := rfl
@[simp] theorem tagSet_core (k : Nat) (e : TagE) (s : State) : (tagSet k e s).core = s.core := rfl
@[simp] theorem tagSet_ints (k : Nat) (e : TagE) (s : State) : (tagSet k e s).ints = s.ints := rfl
@[simp] theorem tagSet_log (k : Nat) (e : TagE) (s : State) : (tagSet k e s).log = s.log := rfl
@[simp] theorem tagSet_srv (k : Nat) (e : TagE) (s : State) : (tagSet k e s).srv = s.srv := rfl
@[simp] theorem tagSet_bad (k : Nat) (e : TagE) (s : State) : (tagSet k e s).bad = s.bad := rfl

@[simp] theorem plruTouch_pending (j k : Nat) (s : State) : (plruTouch j k s).pending = s.pending := rfl
@[simp] theorem plruTouch_clk (j k : Nat) (s : State) : (plruTouch j k s).clk = s.clk := rfl
@[simp] theorem plruTouch_pins (j k : Nat) (s : State) : (plruTouch j k s).pins = s.pins := rfl
@[simp] theorem plruTouch_pw (j k : Nat) (s : State) : (plruTouch j k s).pw = s.pw := rfl
@[simp] theorem plruTouch_banks (j k : Nat) (s : State) : (plruTouch j k s).banks = s.banks := rfl
@[simp] theorem plruTouch_gen (j k : Nat) (s : State) : (plruTouch j k s).gen = s.gen := rfl
@[simp] theorem plruTouch_mp (j k : Nat) (s : State) : (plruTouch j k s).mp = s.mp := rfl
@[simp] theorem plruTouch_pf (j k : Nat) (s : State) : (plruTouch j k s).pf = s.pf := rfl
@[simp] theorem plruTouch_d0 (j k : Nat) (s : State) : (plruTouch j k s).d0 = s.d0 := rfl
@[simp] theorem plruTouch_d1 (j k : Nat) (s : State) : (plruTouch j k s).d1 = s.d1 := rfl
@[simp] theorem plruTouch_sq (j k : Nat) (s : State) : (plruTouch j k s).sq = s.sq := rfl
@[simp] theorem plruTouch_sout (j k : Nat) (s : State) : (plruTouch j k s).sout = s.sout := rfl
@[simp] theorem plruTouch_regHw (j k : Nat) (s : State) : (plruTouch j k s).regHw = s.regHw := rfl
@[simp] theorem plruTouch_fen (j k : Nat) (s : State) : (plruTouch j k s).fen = s.fen := rfl
@[simp] theorem plruTouch_tal (j k : Nat) (s : State) : (plruTouch j k s).tal = s.tal := rfl
@[simp] theorem plruTouch_home (j k : Nat) (s : State) : (plruTouch j k s).home = s.home := rfl
@[simp] theorem plruTouch_regul (j k : Nat) (s : State) : (plruTouch j k s).regul = s.regul := rfl
@[simp] theorem plruTouch_mace (j k : Nat) (s : State) : (plruTouch j k s).mace = s.mace := rfl
@[simp] theorem plruTouch_keys (j k : Nat) (s : State) : (plruTouch j k s).keys = s.keys := rfl
@[simp] theorem plruTouch_ctr (j k : Nat) (s : State) : (plruTouch j k s).ctr = s.ctr := rfl
@[simp] theorem plruTouch_peat (j k : Nat) (s : State) : (plruTouch j k s).peat = s.peat := rfl
@[simp] theorem plruTouch_mbx (j k : Nat) (s : State) : (plruTouch j k s).mbx = s.mbx := rfl
@[simp] theorem plruTouch_startQ (j k : Nat) (s : State) : (plruTouch j k s).startQ = s.startQ := rfl
@[simp] theorem plruTouch_core (j k : Nat) (s : State) : (plruTouch j k s).core = s.core := rfl
@[simp] theorem plruTouch_ints (j k : Nat) (s : State) : (plruTouch j k s).ints = s.ints := rfl
@[simp] theorem plruTouch_log (j k : Nat) (s : State) : (plruTouch j k s).log = s.log := rfl
@[simp] theorem plruTouch_srv (j k : Nat) (s : State) : (plruTouch j k s).srv = s.srv := rfl
@[simp] theorem plruTouch_bad (j k : Nat) (s : State) : (plruTouch j k s).bad = s.bad := rfl

@[simp] theorem mireMod_pending (k : Nat) (f : MireE → MireE) (s : State) : (mireMod k f s).pending = s.pending := rfl
@[simp] theorem mireMod_clk (k : Nat) (f : MireE → MireE) (s : State) : (mireMod k f s).clk = s.clk := rfl
@[simp] theorem mireMod_pins (k : Nat) (f : MireE → MireE) (s : State) : (mireMod k f s).pins = s.pins := rfl
@[simp] theorem mireMod_pw (k : Nat) (f : MireE → MireE) (s : State) : (mireMod k f s).pw = s.pw := rfl
@[simp] theorem mireMod_banks (k : Nat) (f : MireE → MireE) (s : State) : (mireMod k f s).banks = s.banks := rfl
@[simp] theorem mireMod_gen (k : Nat) (f : MireE → MireE) (s : State) : (mireMod k f s).gen = s.gen := rfl
@[simp] theorem mireMod_arr (k : Nat) (f : MireE → MireE) (s : State) : (mireMod k f s).arr = s.arr := rfl
@[simp] theorem mireMod_pf (k : Nat) (f : MireE → MireE) (s : State) : (mireMod k f s).pf = s.pf := rfl
@[simp] theorem mireMod_d0 (k : Nat) (f : MireE → MireE) (s : State) : (mireMod k f s).d0 = s.d0 := rfl
@[simp] theorem mireMod_d1 (k : Nat) (f : MireE → MireE) (s : State) : (mireMod k f s).d1 = s.d1 := rfl
@[simp] theorem mireMod_sq (k : Nat) (f : MireE → MireE) (s : State) : (mireMod k f s).sq = s.sq := rfl
@[simp] theorem mireMod_sout (k : Nat) (f : MireE → MireE) (s : State) : (mireMod k f s).sout = s.sout := rfl
@[simp] theorem mireMod_regHw (k : Nat) (f : MireE → MireE) (s : State) : (mireMod k f s).regHw = s.regHw := rfl
@[simp] theorem mireMod_fen (k : Nat) (f : MireE → MireE) (s : State) : (mireMod k f s).fen = s.fen := rfl
@[simp] theorem mireMod_tal (k : Nat) (f : MireE → MireE) (s : State) : (mireMod k f s).tal = s.tal := rfl
@[simp] theorem mireMod_home (k : Nat) (f : MireE → MireE) (s : State) : (mireMod k f s).home = s.home := rfl
@[simp] theorem mireMod_regul (k : Nat) (f : MireE → MireE) (s : State) : (mireMod k f s).regul = s.regul := rfl
@[simp] theorem mireMod_mace (k : Nat) (f : MireE → MireE) (s : State) : (mireMod k f s).mace = s.mace := rfl
@[simp] theorem mireMod_keys (k : Nat) (f : MireE → MireE) (s : State) : (mireMod k f s).keys = s.keys := rfl
@[simp] theorem mireMod_ctr (k : Nat) (f : MireE → MireE) (s : State) : (mireMod k f s).ctr = s.ctr := rfl
@[simp] theorem mireMod_peat (k : Nat) (f : MireE → MireE) (s : State) : (mireMod k f s).peat = s.peat := rfl
@[simp] theorem mireMod_mbx (k : Nat) (f : MireE → MireE) (s : State) : (mireMod k f s).mbx = s.mbx := rfl
@[simp] theorem mireMod_startQ (k : Nat) (f : MireE → MireE) (s : State) : (mireMod k f s).startQ = s.startQ := rfl
@[simp] theorem mireMod_core (k : Nat) (f : MireE → MireE) (s : State) : (mireMod k f s).core = s.core := rfl
@[simp] theorem mireMod_ints (k : Nat) (f : MireE → MireE) (s : State) : (mireMod k f s).ints = s.ints := rfl
@[simp] theorem mireMod_log (k : Nat) (f : MireE → MireE) (s : State) : (mireMod k f s).log = s.log := rfl
@[simp] theorem mireMod_srv (k : Nat) (f : MireE → MireE) (s : State) : (mireMod k f s).srv = s.srv := rfl
@[simp] theorem mireMod_bad (k : Nat) (f : MireE → MireE) (s : State) : (mireMod k f s).bad = s.bad := rfl

@[simp] theorem mwPush_pending (w : MWork) (s : State) : (mwPush w s).pending = s.pending := rfl
@[simp] theorem mwPush_clk (w : MWork) (s : State) : (mwPush w s).clk = s.clk := rfl
@[simp] theorem mwPush_pins (w : MWork) (s : State) : (mwPush w s).pins = s.pins := rfl
@[simp] theorem mwPush_pw (w : MWork) (s : State) : (mwPush w s).pw = s.pw := rfl
@[simp] theorem mwPush_banks (w : MWork) (s : State) : (mwPush w s).banks = s.banks := rfl
@[simp] theorem mwPush_gen (w : MWork) (s : State) : (mwPush w s).gen = s.gen := rfl
@[simp] theorem mwPush_arr (w : MWork) (s : State) : (mwPush w s).arr = s.arr := rfl
@[simp] theorem mwPush_pf (w : MWork) (s : State) : (mwPush w s).pf = s.pf := rfl
@[simp] theorem mwPush_d0 (w : MWork) (s : State) : (mwPush w s).d0 = s.d0 := rfl
@[simp] theorem mwPush_d1 (w : MWork) (s : State) : (mwPush w s).d1 = s.d1 := rfl
@[simp] theorem mwPush_sq (w : MWork) (s : State) : (mwPush w s).sq = s.sq := rfl
@[simp] theorem mwPush_sout (w : MWork) (s : State) : (mwPush w s).sout = s.sout := rfl
@[simp] theorem mwPush_regHw (w : MWork) (s : State) : (mwPush w s).regHw = s.regHw := rfl
@[simp] theorem mwPush_fen (w : MWork) (s : State) : (mwPush w s).fen = s.fen := rfl
@[simp] theorem mwPush_tal (w : MWork) (s : State) : (mwPush w s).tal = s.tal := rfl
@[simp] theorem mwPush_home (w : MWork) (s : State) : (mwPush w s).home = s.home := rfl
@[simp] theorem mwPush_regul (w : MWork) (s : State) : (mwPush w s).regul = s.regul := rfl
@[simp] theorem mwPush_mace (w : MWork) (s : State) : (mwPush w s).mace = s.mace := rfl
@[simp] theorem mwPush_keys (w : MWork) (s : State) : (mwPush w s).keys = s.keys := rfl
@[simp] theorem mwPush_ctr (w : MWork) (s : State) : (mwPush w s).ctr = s.ctr := rfl
@[simp] theorem mwPush_peat (w : MWork) (s : State) : (mwPush w s).peat = s.peat := rfl
@[simp] theorem mwPush_mbx (w : MWork) (s : State) : (mwPush w s).mbx = s.mbx := rfl
@[simp] theorem mwPush_startQ (w : MWork) (s : State) : (mwPush w s).startQ = s.startQ := rfl
@[simp] theorem mwPush_core (w : MWork) (s : State) : (mwPush w s).core = s.core := rfl
@[simp] theorem mwPush_ints (w : MWork) (s : State) : (mwPush w s).ints = s.ints := rfl
@[simp] theorem mwPush_log (w : MWork) (s : State) : (mwPush w s).log = s.log := rfl
@[simp] theorem mwPush_srv (w : MWork) (s : State) : (mwPush w s).srv = s.srv := rfl
@[simp] theorem mwPush_bad (w : MWork) (s : State) : (mwPush w s).bad = s.bad := rfl

@[simp] theorem missMod_pending (k : Nat) (f : Miss → Miss) (s : State) : (missMod k f s).pending = s.pending := rfl
@[simp] theorem missMod_clk (k : Nat) (f : Miss → Miss) (s : State) : (missMod k f s).clk = s.clk := rfl
@[simp] theorem missMod_pins (k : Nat) (f : Miss → Miss) (s : State) : (missMod k f s).pins = s.pins := rfl
@[simp] theorem missMod_pw (k : Nat) (f : Miss → Miss) (s : State) : (missMod k f s).pw = s.pw := rfl
@[simp] theorem missMod_banks (k : Nat) (f : Miss → Miss) (s : State) : (missMod k f s).banks = s.banks := rfl
@[simp] theorem missMod_gen (k : Nat) (f : Miss → Miss) (s : State) : (missMod k f s).gen = s.gen := rfl
@[simp] theorem missMod_arr (k : Nat) (f : Miss → Miss) (s : State) : (missMod k f s).arr = s.arr := rfl
@[simp] theorem missMod_pf (k : Nat) (f : Miss → Miss) (s : State) : (missMod k f s).pf = s.pf := rfl
@[simp] theorem missMod_d0 (k : Nat) (f : Miss → Miss) (s : State) : (missMod k f s).d0 = s.d0 := rfl
@[simp] theorem missMod_d1 (k : Nat) (f : Miss → Miss) (s : State) : (missMod k f s).d1 = s.d1 := rfl
@[simp] theorem missMod_sq (k : Nat) (f : Miss → Miss) (s : State) : (missMod k f s).sq = s.sq := rfl
@[simp] theorem missMod_sout (k : Nat) (f : Miss → Miss) (s : State) : (missMod k f s).sout = s.sout := rfl
@[simp] theorem missMod_regHw (k : Nat) (f : Miss → Miss) (s : State) : (missMod k f s).regHw = s.regHw := rfl
@[simp] theorem missMod_fen (k : Nat) (f : Miss → Miss) (s : State) : (missMod k f s).fen = s.fen := rfl
@[simp] theorem missMod_tal (k : Nat) (f : Miss → Miss) (s : State) : (missMod k f s).tal = s.tal := rfl
@[simp] theorem missMod_home (k : Nat) (f : Miss → Miss) (s : State) : (missMod k f s).home = s.home := rfl
@[simp] theorem missMod_regul (k : Nat) (f : Miss → Miss) (s : State) : (missMod k f s).regul = s.regul := rfl
@[simp] theorem missMod_mace (k : Nat) (f : Miss → Miss) (s : State) : (missMod k f s).mace = s.mace := rfl
@[simp] theorem missMod_keys (k : Nat) (f : Miss → Miss) (s : State) : (missMod k f s).keys = s.keys := rfl
@[simp] theorem missMod_ctr (k : Nat) (f : Miss → Miss) (s : State) : (missMod k f s).ctr = s.ctr := rfl
@[simp] theorem missMod_peat (k : Nat) (f : Miss → Miss) (s : State) : (missMod k f s).peat = s.peat := rfl
@[simp] theorem missMod_mbx (k : Nat) (f : Miss → Miss) (s : State) : (missMod k f s).mbx = s.mbx := rfl
@[simp] theorem missMod_startQ (k : Nat) (f : Miss → Miss) (s : State) : (missMod k f s).startQ = s.startQ := rfl
@[simp] theorem missMod_core (k : Nat) (f : Miss → Miss) (s : State) : (missMod k f s).core = s.core := rfl
@[simp] theorem missMod_ints (k : Nat) (f : Miss → Miss) (s : State) : (missMod k f s).ints = s.ints := rfl
@[simp] theorem missMod_log (k : Nat) (f : Miss → Miss) (s : State) : (missMod k f s).log = s.log := rfl
@[simp] theorem missMod_srv (k : Nat) (f : Miss → Miss) (s : State) : (missMod k f s).srv = s.srv := rfl
@[simp] theorem missMod_bad (k : Nat) (f : Miss → Miss) (s : State) : (missMod k f s).bad = s.bad := rfl

@[simp] theorem missDrop_pending (k : Nat) (s : State) : (missDrop k s).pending = s.pending := rfl
@[simp] theorem missDrop_clk (k : Nat) (s : State) : (missDrop k s).clk = s.clk := rfl
@[simp] theorem missDrop_pins (k : Nat) (s : State) : (missDrop k s).pins = s.pins := rfl
@[simp] theorem missDrop_pw (k : Nat) (s : State) : (missDrop k s).pw = s.pw := rfl
@[simp] theorem missDrop_banks (k : Nat) (s : State) : (missDrop k s).banks = s.banks := rfl
@[simp] theorem missDrop_gen (k : Nat) (s : State) : (missDrop k s).gen = s.gen := rfl
@[simp] theorem missDrop_arr (k : Nat) (s : State) : (missDrop k s).arr = s.arr := rfl
@[simp] theorem missDrop_pf (k : Nat) (s : State) : (missDrop k s).pf = s.pf := rfl
@[simp] theorem missDrop_d0 (k : Nat) (s : State) : (missDrop k s).d0 = s.d0 := rfl
@[simp] theorem missDrop_d1 (k : Nat) (s : State) : (missDrop k s).d1 = s.d1 := rfl
@[simp] theorem missDrop_sq (k : Nat) (s : State) : (missDrop k s).sq = s.sq := rfl
@[simp] theorem missDrop_sout (k : Nat) (s : State) : (missDrop k s).sout = s.sout := rfl
@[simp] theorem missDrop_regHw (k : Nat) (s : State) : (missDrop k s).regHw = s.regHw := rfl
@[simp] theorem missDrop_fen (k : Nat) (s : State) : (missDrop k s).fen = s.fen := rfl
@[simp] theorem missDrop_tal (k : Nat) (s : State) : (missDrop k s).tal = s.tal := rfl
@[simp] theorem missDrop_home (k : Nat) (s : State) : (missDrop k s).home = s.home := rfl
@[simp] theorem missDrop_regul (k : Nat) (s : State) : (missDrop k s).regul = s.regul := rfl
@[simp] theorem missDrop_mace (k : Nat) (s : State) : (missDrop k s).mace = s.mace := rfl
@[simp] theorem missDrop_keys (k : Nat) (s : State) : (missDrop k s).keys = s.keys := rfl
@[simp] theorem missDrop_ctr (k : Nat) (s : State) : (missDrop k s).ctr = s.ctr := rfl
@[simp] theorem missDrop_peat (k : Nat) (s : State) : (missDrop k s).peat = s.peat := rfl
@[simp] theorem missDrop_mbx (k : Nat) (s : State) : (missDrop k s).mbx = s.mbx := rfl
@[simp] theorem missDrop_startQ (k : Nat) (s : State) : (missDrop k s).startQ = s.startQ := rfl
@[simp] theorem missDrop_core (k : Nat) (s : State) : (missDrop k s).core = s.core := rfl
@[simp] theorem missDrop_ints (k : Nat) (s : State) : (missDrop k s).ints = s.ints := rfl
@[simp] theorem missDrop_log (k : Nat) (s : State) : (missDrop k s).log = s.log := rfl
@[simp] theorem missDrop_srv (k : Nat) (s : State) : (missDrop k s).srv = s.srv := rfl
@[simp] theorem missDrop_bad (k : Nat) (s : State) : (missDrop k s).bad = s.bad := rfl

@[simp] theorem missAdd_pending (e : Miss) (s : State) : (missAdd e s).pending = s.pending := rfl
@[simp] theorem missAdd_clk (e : Miss) (s : State) : (missAdd e s).clk = s.clk := rfl
@[simp] theorem missAdd_pins (e : Miss) (s : State) : (missAdd e s).pins = s.pins := rfl
@[simp] theorem missAdd_pw (e : Miss) (s : State) : (missAdd e s).pw = s.pw := rfl
@[simp] theorem missAdd_banks (e : Miss) (s : State) : (missAdd e s).banks = s.banks := rfl
@[simp] theorem missAdd_gen (e : Miss) (s : State) : (missAdd e s).gen = s.gen := rfl
@[simp] theorem missAdd_arr (e : Miss) (s : State) : (missAdd e s).arr = s.arr := rfl
@[simp] theorem missAdd_pf (e : Miss) (s : State) : (missAdd e s).pf = s.pf := rfl
@[simp] theorem missAdd_d0 (e : Miss) (s : State) : (missAdd e s).d0 = s.d0 := rfl
@[simp] theorem missAdd_d1 (e : Miss) (s : State) : (missAdd e s).d1 = s.d1 := rfl
@[simp] theorem missAdd_sq (e : Miss) (s : State) : (missAdd e s).sq = s.sq := rfl
@[simp] theorem missAdd_sout (e : Miss) (s : State) : (missAdd e s).sout = s.sout := rfl
@[simp] theorem missAdd_regHw (e : Miss) (s : State) : (missAdd e s).regHw = s.regHw := rfl
@[simp] theorem missAdd_fen (e : Miss) (s : State) : (missAdd e s).fen = s.fen := rfl
@[simp] theorem missAdd_tal (e : Miss) (s : State) : (missAdd e s).tal = s.tal := rfl
@[simp] theorem missAdd_home (e : Miss) (s : State) : (missAdd e s).home = s.home := rfl
@[simp] theorem missAdd_regul (e : Miss) (s : State) : (missAdd e s).regul = s.regul := rfl
@[simp] theorem missAdd_mace (e : Miss) (s : State) : (missAdd e s).mace = s.mace := rfl
@[simp] theorem missAdd_keys (e : Miss) (s : State) : (missAdd e s).keys = s.keys := rfl
@[simp] theorem missAdd_ctr (e : Miss) (s : State) : (missAdd e s).ctr = s.ctr := rfl
@[simp] theorem missAdd_peat (e : Miss) (s : State) : (missAdd e s).peat = s.peat := rfl
@[simp] theorem missAdd_mbx (e : Miss) (s : State) : (missAdd e s).mbx = s.mbx := rfl
@[simp] theorem missAdd_startQ (e : Miss) (s : State) : (missAdd e s).startQ = s.startQ := rfl
@[simp] theorem missAdd_core (e : Miss) (s : State) : (missAdd e s).core = s.core := rfl
@[simp] theorem missAdd_ints (e : Miss) (s : State) : (missAdd e s).ints = s.ints := rfl
@[simp] theorem missAdd_log (e : Miss) (s : State) : (missAdd e s).log = s.log := rfl
@[simp] theorem missAdd_srv (e : Miss) (s : State) : (missAdd e s).srv = s.srv := rfl
@[simp] theorem missAdd_bad (e : Miss) (s : State) : (missAdd e s).bad = s.bad := rfl

@[simp] theorem setPd_pending (k : Nat) (x : Power) (s : State) : (setPd k x s).pending = s.pending := rfl
@[simp] theorem setPd_clk (k : Nat) (x : Power) (s : State) : (setPd k x s).clk = s.clk := rfl
@[simp] theorem setPd_pins (k : Nat) (x : Power) (s : State) : (setPd k x s).pins = s.pins := rfl
@[simp] theorem setPd_banks (k : Nat) (x : Power) (s : State) : (setPd k x s).banks = s.banks := rfl
@[simp] theorem setPd_gen (k : Nat) (x : Power) (s : State) : (setPd k x s).gen = s.gen := rfl
@[simp] theorem setPd_arr (k : Nat) (x : Power) (s : State) : (setPd k x s).arr = s.arr := rfl
@[simp] theorem setPd_mp (k : Nat) (x : Power) (s : State) : (setPd k x s).mp = s.mp := rfl
@[simp] theorem setPd_pf (k : Nat) (x : Power) (s : State) : (setPd k x s).pf = s.pf := rfl
@[simp] theorem setPd_d0 (k : Nat) (x : Power) (s : State) : (setPd k x s).d0 = s.d0 := rfl
@[simp] theorem setPd_d1 (k : Nat) (x : Power) (s : State) : (setPd k x s).d1 = s.d1 := rfl
@[simp] theorem setPd_sq (k : Nat) (x : Power) (s : State) : (setPd k x s).sq = s.sq := rfl
@[simp] theorem setPd_sout (k : Nat) (x : Power) (s : State) : (setPd k x s).sout = s.sout := rfl
@[simp] theorem setPd_regHw (k : Nat) (x : Power) (s : State) : (setPd k x s).regHw = s.regHw := rfl
@[simp] theorem setPd_fen (k : Nat) (x : Power) (s : State) : (setPd k x s).fen = s.fen := rfl
@[simp] theorem setPd_tal (k : Nat) (x : Power) (s : State) : (setPd k x s).tal = s.tal := rfl
@[simp] theorem setPd_home (k : Nat) (x : Power) (s : State) : (setPd k x s).home = s.home := rfl
@[simp] theorem setPd_regul (k : Nat) (x : Power) (s : State) : (setPd k x s).regul = s.regul := rfl
@[simp] theorem setPd_mace (k : Nat) (x : Power) (s : State) : (setPd k x s).mace = s.mace := rfl
@[simp] theorem setPd_keys (k : Nat) (x : Power) (s : State) : (setPd k x s).keys = s.keys := rfl
@[simp] theorem setPd_ctr (k : Nat) (x : Power) (s : State) : (setPd k x s).ctr = s.ctr := rfl
@[simp] theorem setPd_peat (k : Nat) (x : Power) (s : State) : (setPd k x s).peat = s.peat := rfl
@[simp] theorem setPd_mbx (k : Nat) (x : Power) (s : State) : (setPd k x s).mbx = s.mbx := rfl
@[simp] theorem setPd_startQ (k : Nat) (x : Power) (s : State) : (setPd k x s).startQ = s.startQ := rfl
@[simp] theorem setPd_core (k : Nat) (x : Power) (s : State) : (setPd k x s).core = s.core := rfl
@[simp] theorem setPd_ints (k : Nat) (x : Power) (s : State) : (setPd k x s).ints = s.ints := rfl
@[simp] theorem setPd_log (k : Nat) (x : Power) (s : State) : (setPd k x s).log = s.log := rfl
@[simp] theorem setPd_srv (k : Nat) (x : Power) (s : State) : (setPd k x s).srv = s.srv := rfl
@[simp] theorem setPd_bad (k : Nat) (x : Power) (s : State) : (setPd k x s).bad = s.bad := rfl

@[simp] theorem bankSet_pending (k : Nat) (x : Bank) (s : State) : (bankSet k x s).pending = s.pending := rfl
@[simp] theorem bankSet_clk (k : Nat) (x : Bank) (s : State) : (bankSet k x s).clk = s.clk := rfl
@[simp] theorem bankSet_pins (k : Nat) (x : Bank) (s : State) : (bankSet k x s).pins = s.pins := rfl
@[simp] theorem bankSet_pw (k : Nat) (x : Bank) (s : State) : (bankSet k x s).pw = s.pw := rfl
@[simp] theorem bankSet_gen (k : Nat) (x : Bank) (s : State) : (bankSet k x s).gen = s.gen := rfl
@[simp] theorem bankSet_arr (k : Nat) (x : Bank) (s : State) : (bankSet k x s).arr = s.arr := rfl
@[simp] theorem bankSet_mp (k : Nat) (x : Bank) (s : State) : (bankSet k x s).mp = s.mp := rfl
@[simp] theorem bankSet_pf (k : Nat) (x : Bank) (s : State) : (bankSet k x s).pf = s.pf := rfl
@[simp] theorem bankSet_d0 (k : Nat) (x : Bank) (s : State) : (bankSet k x s).d0 = s.d0 := rfl
@[simp] theorem bankSet_d1 (k : Nat) (x : Bank) (s : State) : (bankSet k x s).d1 = s.d1 := rfl
@[simp] theorem bankSet_sq (k : Nat) (x : Bank) (s : State) : (bankSet k x s).sq = s.sq := rfl
@[simp] theorem bankSet_sout (k : Nat) (x : Bank) (s : State) : (bankSet k x s).sout = s.sout := rfl
@[simp] theorem bankSet_regHw (k : Nat) (x : Bank) (s : State) : (bankSet k x s).regHw = s.regHw := rfl
@[simp] theorem bankSet_fen (k : Nat) (x : Bank) (s : State) : (bankSet k x s).fen = s.fen := rfl
@[simp] theorem bankSet_tal (k : Nat) (x : Bank) (s : State) : (bankSet k x s).tal = s.tal := rfl
@[simp] theorem bankSet_home (k : Nat) (x : Bank) (s : State) : (bankSet k x s).home = s.home := rfl
@[simp] theorem bankSet_regul (k : Nat) (x : Bank) (s : State) : (bankSet k x s).regul = s.regul := rfl
@[simp] theorem bankSet_mace (k : Nat) (x : Bank) (s : State) : (bankSet k x s).mace = s.mace := rfl
@[simp] theorem bankSet_keys (k : Nat) (x : Bank) (s : State) : (bankSet k x s).keys = s.keys := rfl
@[simp] theorem bankSet_ctr (k : Nat) (x : Bank) (s : State) : (bankSet k x s).ctr = s.ctr := rfl
@[simp] theorem bankSet_peat (k : Nat) (x : Bank) (s : State) : (bankSet k x s).peat = s.peat := rfl
@[simp] theorem bankSet_mbx (k : Nat) (x : Bank) (s : State) : (bankSet k x s).mbx = s.mbx := rfl
@[simp] theorem bankSet_startQ (k : Nat) (x : Bank) (s : State) : (bankSet k x s).startQ = s.startQ := rfl
@[simp] theorem bankSet_core (k : Nat) (x : Bank) (s : State) : (bankSet k x s).core = s.core := rfl
@[simp] theorem bankSet_ints (k : Nat) (x : Bank) (s : State) : (bankSet k x s).ints = s.ints := rfl
@[simp] theorem bankSet_log (k : Nat) (x : Bank) (s : State) : (bankSet k x s).log = s.log := rfl
@[simp] theorem bankSet_srv (k : Nat) (x : Bank) (s : State) : (bankSet k x s).srv = s.srv := rfl
@[simp] theorem bankSet_bad (k : Nat) (x : Bank) (s : State) : (bankSet k x s).bad = s.bad := rfl

@[simp] theorem ctrPut_pending (k : Nat) (x : Ctr) (s : State) : (ctrPut k x s).pending = s.pending := rfl
@[simp] theorem ctrPut_clk (k : Nat) (x : Ctr) (s : State) : (ctrPut k x s).clk = s.clk := rfl
@[simp] theorem ctrPut_pins (k : Nat) (x : Ctr) (s : State) : (ctrPut k x s).pins = s.pins := rfl
@[simp] theorem ctrPut_pw (k : Nat) (x : Ctr) (s : State) : (ctrPut k x s).pw = s.pw := rfl
@[simp] theorem ctrPut_banks (k : Nat) (x : Ctr) (s : State) : (ctrPut k x s).banks = s.banks := rfl
@[simp] theorem ctrPut_gen (k : Nat) (x : Ctr) (s : State) : (ctrPut k x s).gen = s.gen := rfl
@[simp] theorem ctrPut_arr (k : Nat) (x : Ctr) (s : State) : (ctrPut k x s).arr = s.arr := rfl
@[simp] theorem ctrPut_mp (k : Nat) (x : Ctr) (s : State) : (ctrPut k x s).mp = s.mp := rfl
@[simp] theorem ctrPut_pf (k : Nat) (x : Ctr) (s : State) : (ctrPut k x s).pf = s.pf := rfl
@[simp] theorem ctrPut_d0 (k : Nat) (x : Ctr) (s : State) : (ctrPut k x s).d0 = s.d0 := rfl
@[simp] theorem ctrPut_d1 (k : Nat) (x : Ctr) (s : State) : (ctrPut k x s).d1 = s.d1 := rfl
@[simp] theorem ctrPut_sq (k : Nat) (x : Ctr) (s : State) : (ctrPut k x s).sq = s.sq := rfl
@[simp] theorem ctrPut_sout (k : Nat) (x : Ctr) (s : State) : (ctrPut k x s).sout = s.sout := rfl
@[simp] theorem ctrPut_regHw (k : Nat) (x : Ctr) (s : State) : (ctrPut k x s).regHw = s.regHw := rfl
@[simp] theorem ctrPut_fen (k : Nat) (x : Ctr) (s : State) : (ctrPut k x s).fen = s.fen := rfl
@[simp] theorem ctrPut_tal (k : Nat) (x : Ctr) (s : State) : (ctrPut k x s).tal = s.tal := rfl
@[simp] theorem ctrPut_home (k : Nat) (x : Ctr) (s : State) : (ctrPut k x s).home = s.home := rfl
@[simp] theorem ctrPut_regul (k : Nat) (x : Ctr) (s : State) : (ctrPut k x s).regul = s.regul := rfl
@[simp] theorem ctrPut_mace (k : Nat) (x : Ctr) (s : State) : (ctrPut k x s).mace = s.mace := rfl
@[simp] theorem ctrPut_keys (k : Nat) (x : Ctr) (s : State) : (ctrPut k x s).keys = s.keys := rfl
@[simp] theorem ctrPut_peat (k : Nat) (x : Ctr) (s : State) : (ctrPut k x s).peat = s.peat := rfl
@[simp] theorem ctrPut_mbx (k : Nat) (x : Ctr) (s : State) : (ctrPut k x s).mbx = s.mbx := rfl
@[simp] theorem ctrPut_startQ (k : Nat) (x : Ctr) (s : State) : (ctrPut k x s).startQ = s.startQ := rfl
@[simp] theorem ctrPut_core (k : Nat) (x : Ctr) (s : State) : (ctrPut k x s).core = s.core := rfl
@[simp] theorem ctrPut_ints (k : Nat) (x : Ctr) (s : State) : (ctrPut k x s).ints = s.ints := rfl
@[simp] theorem ctrPut_log (k : Nat) (x : Ctr) (s : State) : (ctrPut k x s).log = s.log := rfl
@[simp] theorem ctrPut_srv (k : Nat) (x : Ctr) (s : State) : (ctrPut k x s).srv = s.srv := rfl
@[simp] theorem ctrPut_bad (k : Nat) (x : Ctr) (s : State) : (ctrPut k x s).bad = s.bad := rfl

@[simp] theorem sampTake_pending (j k : Nat) (r : Option Rec) (s : State) : (sampTake j k r s).pending = s.pending := rfl
@[simp] theorem sampTake_clk (j k : Nat) (r : Option Rec) (s : State) : (sampTake j k r s).clk = s.clk := rfl
@[simp] theorem sampTake_pins (j k : Nat) (r : Option Rec) (s : State) : (sampTake j k r s).pins = s.pins := rfl
@[simp] theorem sampTake_pw (j k : Nat) (r : Option Rec) (s : State) : (sampTake j k r s).pw = s.pw := rfl
@[simp] theorem sampTake_banks (j k : Nat) (r : Option Rec) (s : State) : (sampTake j k r s).banks = s.banks := rfl
@[simp] theorem sampTake_gen (j k : Nat) (r : Option Rec) (s : State) : (sampTake j k r s).gen = s.gen := rfl
@[simp] theorem sampTake_arr (j k : Nat) (r : Option Rec) (s : State) : (sampTake j k r s).arr = s.arr := rfl
@[simp] theorem sampTake_mp (j k : Nat) (r : Option Rec) (s : State) : (sampTake j k r s).mp = s.mp := rfl
@[simp] theorem sampTake_pf (j k : Nat) (r : Option Rec) (s : State) : (sampTake j k r s).pf = s.pf := rfl
@[simp] theorem sampTake_d0 (j k : Nat) (r : Option Rec) (s : State) : (sampTake j k r s).d0 = s.d0 := rfl
@[simp] theorem sampTake_d1 (j k : Nat) (r : Option Rec) (s : State) : (sampTake j k r s).d1 = s.d1 := rfl
@[simp] theorem sampTake_sq (j k : Nat) (r : Option Rec) (s : State) : (sampTake j k r s).sq = s.sq := rfl
@[simp] theorem sampTake_sout (j k : Nat) (r : Option Rec) (s : State) : (sampTake j k r s).sout = s.sout := rfl
@[simp] theorem sampTake_regHw (j k : Nat) (r : Option Rec) (s : State) : (sampTake j k r s).regHw = s.regHw := rfl
@[simp] theorem sampTake_fen (j k : Nat) (r : Option Rec) (s : State) : (sampTake j k r s).fen = s.fen := rfl
@[simp] theorem sampTake_tal (j k : Nat) (r : Option Rec) (s : State) : (sampTake j k r s).tal = s.tal := rfl
@[simp] theorem sampTake_home (j k : Nat) (r : Option Rec) (s : State) : (sampTake j k r s).home = s.home := rfl
@[simp] theorem sampTake_regul (j k : Nat) (r : Option Rec) (s : State) : (sampTake j k r s).regul = s.regul := rfl
@[simp] theorem sampTake_mace (j k : Nat) (r : Option Rec) (s : State) : (sampTake j k r s).mace = s.mace := rfl
@[simp] theorem sampTake_keys (j k : Nat) (r : Option Rec) (s : State) : (sampTake j k r s).keys = s.keys := rfl
@[simp] theorem sampTake_peat (j k : Nat) (r : Option Rec) (s : State) : (sampTake j k r s).peat = s.peat := rfl
@[simp] theorem sampTake_mbx (j k : Nat) (r : Option Rec) (s : State) : (sampTake j k r s).mbx = s.mbx := rfl
@[simp] theorem sampTake_startQ (j k : Nat) (r : Option Rec) (s : State) : (sampTake j k r s).startQ = s.startQ := rfl
@[simp] theorem sampTake_core (j k : Nat) (r : Option Rec) (s : State) : (sampTake j k r s).core = s.core := rfl
@[simp] theorem sampTake_ints (j k : Nat) (r : Option Rec) (s : State) : (sampTake j k r s).ints = s.ints := rfl
@[simp] theorem sampTake_log (j k : Nat) (r : Option Rec) (s : State) : (sampTake j k r s).log = s.log := rfl
@[simp] theorem sampTake_srv (j k : Nat) (r : Option Rec) (s : State) : (sampTake j k r s).srv = s.srv := rfl
@[simp] theorem sampTake_bad (j k : Nat) (r : Option Rec) (s : State) : (sampTake j k r s).bad = s.bad := rfl

@[simp] theorem ctrReset_pending (k : Nat) (v : BitVec 48) (s : State) : (ctrReset k v s).pending = s.pending := rfl
@[simp] theorem ctrReset_clk (k : Nat) (v : BitVec 48) (s : State) : (ctrReset k v s).clk = s.clk := rfl
@[simp] theorem ctrReset_pins (k : Nat) (v : BitVec 48) (s : State) : (ctrReset k v s).pins = s.pins := rfl
@[simp] theorem ctrReset_pw (k : Nat) (v : BitVec 48) (s : State) : (ctrReset k v s).pw = s.pw := rfl
@[simp] theorem ctrReset_banks (k : Nat) (v : BitVec 48) (s : State) : (ctrReset k v s).banks = s.banks := rfl
@[simp] theorem ctrReset_gen (k : Nat) (v : BitVec 48) (s : State) : (ctrReset k v s).gen = s.gen := rfl
@[simp] theorem ctrReset_arr (k : Nat) (v : BitVec 48) (s : State) : (ctrReset k v s).arr = s.arr := rfl
@[simp] theorem ctrReset_mp (k : Nat) (v : BitVec 48) (s : State) : (ctrReset k v s).mp = s.mp := rfl
@[simp] theorem ctrReset_pf (k : Nat) (v : BitVec 48) (s : State) : (ctrReset k v s).pf = s.pf := rfl
@[simp] theorem ctrReset_d0 (k : Nat) (v : BitVec 48) (s : State) : (ctrReset k v s).d0 = s.d0 := rfl
@[simp] theorem ctrReset_d1 (k : Nat) (v : BitVec 48) (s : State) : (ctrReset k v s).d1 = s.d1 := rfl
@[simp] theorem ctrReset_sq (k : Nat) (v : BitVec 48) (s : State) : (ctrReset k v s).sq = s.sq := rfl
@[simp] theorem ctrReset_sout (k : Nat) (v : BitVec 48) (s : State) : (ctrReset k v s).sout = s.sout := rfl
@[simp] theorem ctrReset_regHw (k : Nat) (v : BitVec 48) (s : State) : (ctrReset k v s).regHw = s.regHw := rfl
@[simp] theorem ctrReset_fen (k : Nat) (v : BitVec 48) (s : State) : (ctrReset k v s).fen = s.fen := rfl
@[simp] theorem ctrReset_tal (k : Nat) (v : BitVec 48) (s : State) : (ctrReset k v s).tal = s.tal := rfl
@[simp] theorem ctrReset_home (k : Nat) (v : BitVec 48) (s : State) : (ctrReset k v s).home = s.home := rfl
@[simp] theorem ctrReset_regul (k : Nat) (v : BitVec 48) (s : State) : (ctrReset k v s).regul = s.regul := rfl
@[simp] theorem ctrReset_mace (k : Nat) (v : BitVec 48) (s : State) : (ctrReset k v s).mace = s.mace := rfl
@[simp] theorem ctrReset_keys (k : Nat) (v : BitVec 48) (s : State) : (ctrReset k v s).keys = s.keys := rfl
@[simp] theorem ctrReset_peat (k : Nat) (v : BitVec 48) (s : State) : (ctrReset k v s).peat = s.peat := rfl
@[simp] theorem ctrReset_mbx (k : Nat) (v : BitVec 48) (s : State) : (ctrReset k v s).mbx = s.mbx := rfl
@[simp] theorem ctrReset_startQ (k : Nat) (v : BitVec 48) (s : State) : (ctrReset k v s).startQ = s.startQ := rfl
@[simp] theorem ctrReset_core (k : Nat) (v : BitVec 48) (s : State) : (ctrReset k v s).core = s.core := rfl
@[simp] theorem ctrReset_ints (k : Nat) (v : BitVec 48) (s : State) : (ctrReset k v s).ints = s.ints := rfl
@[simp] theorem ctrReset_log (k : Nat) (v : BitVec 48) (s : State) : (ctrReset k v s).log = s.log := rfl
@[simp] theorem ctrReset_srv (k : Nat) (v : BitVec 48) (s : State) : (ctrReset k v s).srv = s.srv := rfl
@[simp] theorem ctrReset_bad (k : Nat) (v : BitVec 48) (s : State) : (ctrReset k v s).bad = s.bad := rfl

@[simp] theorem elemMod_pending (j k : Nat) (f : Elem → Elem) (s : State) : (elemMod j k f s).pending = s.pending := rfl
@[simp] theorem elemMod_clk (j k : Nat) (f : Elem → Elem) (s : State) : (elemMod j k f s).clk = s.clk := rfl
@[simp] theorem elemMod_pins (j k : Nat) (f : Elem → Elem) (s : State) : (elemMod j k f s).pins = s.pins := rfl
@[simp] theorem elemMod_pw (j k : Nat) (f : Elem → Elem) (s : State) : (elemMod j k f s).pw = s.pw := rfl
@[simp] theorem elemMod_banks (j k : Nat) (f : Elem → Elem) (s : State) : (elemMod j k f s).banks = s.banks := rfl
@[simp] theorem elemMod_gen (j k : Nat) (f : Elem → Elem) (s : State) : (elemMod j k f s).gen = s.gen := rfl
@[simp] theorem elemMod_arr (j k : Nat) (f : Elem → Elem) (s : State) : (elemMod j k f s).arr = s.arr := rfl
@[simp] theorem elemMod_mp (j k : Nat) (f : Elem → Elem) (s : State) : (elemMod j k f s).mp = s.mp := rfl
@[simp] theorem elemMod_pf (j k : Nat) (f : Elem → Elem) (s : State) : (elemMod j k f s).pf = s.pf := rfl
@[simp] theorem elemMod_d0 (j k : Nat) (f : Elem → Elem) (s : State) : (elemMod j k f s).d0 = s.d0 := rfl
@[simp] theorem elemMod_d1 (j k : Nat) (f : Elem → Elem) (s : State) : (elemMod j k f s).d1 = s.d1 := rfl
@[simp] theorem elemMod_sq (j k : Nat) (f : Elem → Elem) (s : State) : (elemMod j k f s).sq = s.sq := rfl
@[simp] theorem elemMod_sout (j k : Nat) (f : Elem → Elem) (s : State) : (elemMod j k f s).sout = s.sout := rfl
@[simp] theorem elemMod_regHw (j k : Nat) (f : Elem → Elem) (s : State) : (elemMod j k f s).regHw = s.regHw := rfl
@[simp] theorem elemMod_fen (j k : Nat) (f : Elem → Elem) (s : State) : (elemMod j k f s).fen = s.fen := rfl
@[simp] theorem elemMod_tal (j k : Nat) (f : Elem → Elem) (s : State) : (elemMod j k f s).tal = s.tal := rfl
@[simp] theorem elemMod_home (j k : Nat) (f : Elem → Elem) (s : State) : (elemMod j k f s).home = s.home := rfl
@[simp] theorem elemMod_regul (j k : Nat) (f : Elem → Elem) (s : State) : (elemMod j k f s).regul = s.regul := rfl
@[simp] theorem elemMod_keys (j k : Nat) (f : Elem → Elem) (s : State) : (elemMod j k f s).keys = s.keys := rfl
@[simp] theorem elemMod_ctr (j k : Nat) (f : Elem → Elem) (s : State) : (elemMod j k f s).ctr = s.ctr := rfl
@[simp] theorem elemMod_peat (j k : Nat) (f : Elem → Elem) (s : State) : (elemMod j k f s).peat = s.peat := rfl
@[simp] theorem elemMod_mbx (j k : Nat) (f : Elem → Elem) (s : State) : (elemMod j k f s).mbx = s.mbx := rfl
@[simp] theorem elemMod_startQ (j k : Nat) (f : Elem → Elem) (s : State) : (elemMod j k f s).startQ = s.startQ := rfl
@[simp] theorem elemMod_core (j k : Nat) (f : Elem → Elem) (s : State) : (elemMod j k f s).core = s.core := rfl
@[simp] theorem elemMod_ints (j k : Nat) (f : Elem → Elem) (s : State) : (elemMod j k f s).ints = s.ints := rfl
@[simp] theorem elemMod_log (j k : Nat) (f : Elem → Elem) (s : State) : (elemMod j k f s).log = s.log := rfl
@[simp] theorem elemMod_srv (j k : Nat) (f : Elem → Elem) (s : State) : (elemMod j k f s).srv = s.srv := rfl
@[simp] theorem elemMod_bad (j k : Nat) (f : Elem → Elem) (s : State) : (elemMod j k f s).bad = s.bad := rfl

@[simp] theorem descMod_pending (k : Nat) (f : Desc → Desc) (s : State) : (descMod k f s).pending = s.pending := rfl
@[simp] theorem descMod_clk (k : Nat) (f : Desc → Desc) (s : State) : (descMod k f s).clk = s.clk := rfl
@[simp] theorem descMod_pins (k : Nat) (f : Desc → Desc) (s : State) : (descMod k f s).pins = s.pins := rfl
@[simp] theorem descMod_pw (k : Nat) (f : Desc → Desc) (s : State) : (descMod k f s).pw = s.pw := rfl
@[simp] theorem descMod_banks (k : Nat) (f : Desc → Desc) (s : State) : (descMod k f s).banks = s.banks := rfl
@[simp] theorem descMod_gen (k : Nat) (f : Desc → Desc) (s : State) : (descMod k f s).gen = s.gen := rfl
@[simp] theorem descMod_arr (k : Nat) (f : Desc → Desc) (s : State) : (descMod k f s).arr = s.arr := rfl
@[simp] theorem descMod_mp (k : Nat) (f : Desc → Desc) (s : State) : (descMod k f s).mp = s.mp := rfl
@[simp] theorem descMod_pf (k : Nat) (f : Desc → Desc) (s : State) : (descMod k f s).pf = s.pf := rfl
@[simp] theorem descMod_d0 (k : Nat) (f : Desc → Desc) (s : State) : (descMod k f s).d0 = s.d0 := rfl
@[simp] theorem descMod_d1 (k : Nat) (f : Desc → Desc) (s : State) : (descMod k f s).d1 = s.d1 := rfl
@[simp] theorem descMod_sq (k : Nat) (f : Desc → Desc) (s : State) : (descMod k f s).sq = s.sq := rfl
@[simp] theorem descMod_sout (k : Nat) (f : Desc → Desc) (s : State) : (descMod k f s).sout = s.sout := rfl
@[simp] theorem descMod_regHw (k : Nat) (f : Desc → Desc) (s : State) : (descMod k f s).regHw = s.regHw := rfl
@[simp] theorem descMod_fen (k : Nat) (f : Desc → Desc) (s : State) : (descMod k f s).fen = s.fen := rfl
@[simp] theorem descMod_tal (k : Nat) (f : Desc → Desc) (s : State) : (descMod k f s).tal = s.tal := rfl
@[simp] theorem descMod_home (k : Nat) (f : Desc → Desc) (s : State) : (descMod k f s).home = s.home := rfl
@[simp] theorem descMod_regul (k : Nat) (f : Desc → Desc) (s : State) : (descMod k f s).regul = s.regul := rfl
@[simp] theorem descMod_keys (k : Nat) (f : Desc → Desc) (s : State) : (descMod k f s).keys = s.keys := rfl
@[simp] theorem descMod_ctr (k : Nat) (f : Desc → Desc) (s : State) : (descMod k f s).ctr = s.ctr := rfl
@[simp] theorem descMod_peat (k : Nat) (f : Desc → Desc) (s : State) : (descMod k f s).peat = s.peat := rfl
@[simp] theorem descMod_mbx (k : Nat) (f : Desc → Desc) (s : State) : (descMod k f s).mbx = s.mbx := rfl
@[simp] theorem descMod_startQ (k : Nat) (f : Desc → Desc) (s : State) : (descMod k f s).startQ = s.startQ := rfl
@[simp] theorem descMod_core (k : Nat) (f : Desc → Desc) (s : State) : (descMod k f s).core = s.core := rfl
@[simp] theorem descMod_ints (k : Nat) (f : Desc → Desc) (s : State) : (descMod k f s).ints = s.ints := rfl
@[simp] theorem descMod_log (k : Nat) (f : Desc → Desc) (s : State) : (descMod k f s).log = s.log := rfl
@[simp] theorem descMod_srv (k : Nat) (f : Desc → Desc) (s : State) : (descMod k f s).srv = s.srv := rfl
@[simp] theorem descMod_bad (k : Nat) (f : Desc → Desc) (s : State) : (descMod k f s).bad = s.bad := rfl

@[simp] theorem segMod_pending (k : Nat) (f : Seg → Seg) (s : State) : (segMod k f s).pending = s.pending := rfl
@[simp] theorem segMod_clk (k : Nat) (f : Seg → Seg) (s : State) : (segMod k f s).clk = s.clk := rfl
@[simp] theorem segMod_pins (k : Nat) (f : Seg → Seg) (s : State) : (segMod k f s).pins = s.pins := rfl
@[simp] theorem segMod_pw (k : Nat) (f : Seg → Seg) (s : State) : (segMod k f s).pw = s.pw := rfl
@[simp] theorem segMod_banks (k : Nat) (f : Seg → Seg) (s : State) : (segMod k f s).banks = s.banks := rfl
@[simp] theorem segMod_gen (k : Nat) (f : Seg → Seg) (s : State) : (segMod k f s).gen = s.gen := rfl
@[simp] theorem segMod_arr (k : Nat) (f : Seg → Seg) (s : State) : (segMod k f s).arr = s.arr := rfl
@[simp] theorem segMod_mp (k : Nat) (f : Seg → Seg) (s : State) : (segMod k f s).mp = s.mp := rfl
@[simp] theorem segMod_pf (k : Nat) (f : Seg → Seg) (s : State) : (segMod k f s).pf = s.pf := rfl
@[simp] theorem segMod_d0 (k : Nat) (f : Seg → Seg) (s : State) : (segMod k f s).d0 = s.d0 := rfl
@[simp] theorem segMod_d1 (k : Nat) (f : Seg → Seg) (s : State) : (segMod k f s).d1 = s.d1 := rfl
@[simp] theorem segMod_sq (k : Nat) (f : Seg → Seg) (s : State) : (segMod k f s).sq = s.sq := rfl
@[simp] theorem segMod_sout (k : Nat) (f : Seg → Seg) (s : State) : (segMod k f s).sout = s.sout := rfl
@[simp] theorem segMod_regHw (k : Nat) (f : Seg → Seg) (s : State) : (segMod k f s).regHw = s.regHw := rfl
@[simp] theorem segMod_tal (k : Nat) (f : Seg → Seg) (s : State) : (segMod k f s).tal = s.tal := rfl
@[simp] theorem segMod_home (k : Nat) (f : Seg → Seg) (s : State) : (segMod k f s).home = s.home := rfl
@[simp] theorem segMod_regul (k : Nat) (f : Seg → Seg) (s : State) : (segMod k f s).regul = s.regul := rfl
@[simp] theorem segMod_mace (k : Nat) (f : Seg → Seg) (s : State) : (segMod k f s).mace = s.mace := rfl
@[simp] theorem segMod_keys (k : Nat) (f : Seg → Seg) (s : State) : (segMod k f s).keys = s.keys := rfl
@[simp] theorem segMod_ctr (k : Nat) (f : Seg → Seg) (s : State) : (segMod k f s).ctr = s.ctr := rfl
@[simp] theorem segMod_peat (k : Nat) (f : Seg → Seg) (s : State) : (segMod k f s).peat = s.peat := rfl
@[simp] theorem segMod_mbx (k : Nat) (f : Seg → Seg) (s : State) : (segMod k f s).mbx = s.mbx := rfl
@[simp] theorem segMod_startQ (k : Nat) (f : Seg → Seg) (s : State) : (segMod k f s).startQ = s.startQ := rfl
@[simp] theorem segMod_core (k : Nat) (f : Seg → Seg) (s : State) : (segMod k f s).core = s.core := rfl
@[simp] theorem segMod_ints (k : Nat) (f : Seg → Seg) (s : State) : (segMod k f s).ints = s.ints := rfl
@[simp] theorem segMod_log (k : Nat) (f : Seg → Seg) (s : State) : (segMod k f s).log = s.log := rfl
@[simp] theorem segMod_srv (k : Nat) (f : Seg → Seg) (s : State) : (segMod k f s).srv = s.srv := rfl
@[simp] theorem segMod_bad (k : Nat) (f : Seg → Seg) (s : State) : (segMod k f s).bad = s.bad := rfl

@[simp] theorem regionMod_pending (k : Nat) (f : Region → Region) (s : State) : (regionMod k f s).pending = s.pending := rfl
@[simp] theorem regionMod_clk (k : Nat) (f : Region → Region) (s : State) : (regionMod k f s).clk = s.clk := rfl
@[simp] theorem regionMod_pins (k : Nat) (f : Region → Region) (s : State) : (regionMod k f s).pins = s.pins := rfl
@[simp] theorem regionMod_pw (k : Nat) (f : Region → Region) (s : State) : (regionMod k f s).pw = s.pw := rfl
@[simp] theorem regionMod_banks (k : Nat) (f : Region → Region) (s : State) : (regionMod k f s).banks = s.banks := rfl
@[simp] theorem regionMod_gen (k : Nat) (f : Region → Region) (s : State) : (regionMod k f s).gen = s.gen := rfl
@[simp] theorem regionMod_arr (k : Nat) (f : Region → Region) (s : State) : (regionMod k f s).arr = s.arr := rfl
@[simp] theorem regionMod_mp (k : Nat) (f : Region → Region) (s : State) : (regionMod k f s).mp = s.mp := rfl
@[simp] theorem regionMod_pf (k : Nat) (f : Region → Region) (s : State) : (regionMod k f s).pf = s.pf := rfl
@[simp] theorem regionMod_d0 (k : Nat) (f : Region → Region) (s : State) : (regionMod k f s).d0 = s.d0 := rfl
@[simp] theorem regionMod_d1 (k : Nat) (f : Region → Region) (s : State) : (regionMod k f s).d1 = s.d1 := rfl
@[simp] theorem regionMod_sq (k : Nat) (f : Region → Region) (s : State) : (regionMod k f s).sq = s.sq := rfl
@[simp] theorem regionMod_sout (k : Nat) (f : Region → Region) (s : State) : (regionMod k f s).sout = s.sout := rfl
@[simp] theorem regionMod_regHw (k : Nat) (f : Region → Region) (s : State) : (regionMod k f s).regHw = s.regHw := rfl
@[simp] theorem regionMod_tal (k : Nat) (f : Region → Region) (s : State) : (regionMod k f s).tal = s.tal := rfl
@[simp] theorem regionMod_home (k : Nat) (f : Region → Region) (s : State) : (regionMod k f s).home = s.home := rfl
@[simp] theorem regionMod_regul (k : Nat) (f : Region → Region) (s : State) : (regionMod k f s).regul = s.regul := rfl
@[simp] theorem regionMod_mace (k : Nat) (f : Region → Region) (s : State) : (regionMod k f s).mace = s.mace := rfl
@[simp] theorem regionMod_keys (k : Nat) (f : Region → Region) (s : State) : (regionMod k f s).keys = s.keys := rfl
@[simp] theorem regionMod_ctr (k : Nat) (f : Region → Region) (s : State) : (regionMod k f s).ctr = s.ctr := rfl
@[simp] theorem regionMod_peat (k : Nat) (f : Region → Region) (s : State) : (regionMod k f s).peat = s.peat := rfl
@[simp] theorem regionMod_mbx (k : Nat) (f : Region → Region) (s : State) : (regionMod k f s).mbx = s.mbx := rfl
@[simp] theorem regionMod_startQ (k : Nat) (f : Region → Region) (s : State) : (regionMod k f s).startQ = s.startQ := rfl
@[simp] theorem regionMod_core (k : Nat) (f : Region → Region) (s : State) : (regionMod k f s).core = s.core := rfl
@[simp] theorem regionMod_ints (k : Nat) (f : Region → Region) (s : State) : (regionMod k f s).ints = s.ints := rfl
@[simp] theorem regionMod_log (k : Nat) (f : Region → Region) (s : State) : (regionMod k f s).log = s.log := rfl
@[simp] theorem regionMod_srv (k : Nat) (f : Region → Region) (s : State) : (regionMod k f s).srv = s.srv := rfl
@[simp] theorem regionMod_bad (k : Nat) (f : Region → Region) (s : State) : (regionMod k f s).bad = s.bad := rfl

@[simp] theorem xferMod_pending (k : Nat) (f : Xfer → Xfer) (s : State) : (xferMod k f s).pending = s.pending := rfl
@[simp] theorem xferMod_clk (k : Nat) (f : Xfer → Xfer) (s : State) : (xferMod k f s).clk = s.clk := rfl
@[simp] theorem xferMod_pins (k : Nat) (f : Xfer → Xfer) (s : State) : (xferMod k f s).pins = s.pins := rfl
@[simp] theorem xferMod_pw (k : Nat) (f : Xfer → Xfer) (s : State) : (xferMod k f s).pw = s.pw := rfl
@[simp] theorem xferMod_banks (k : Nat) (f : Xfer → Xfer) (s : State) : (xferMod k f s).banks = s.banks := rfl
@[simp] theorem xferMod_gen (k : Nat) (f : Xfer → Xfer) (s : State) : (xferMod k f s).gen = s.gen := rfl
@[simp] theorem xferMod_arr (k : Nat) (f : Xfer → Xfer) (s : State) : (xferMod k f s).arr = s.arr := rfl
@[simp] theorem xferMod_mp (k : Nat) (f : Xfer → Xfer) (s : State) : (xferMod k f s).mp = s.mp := rfl
@[simp] theorem xferMod_pf (k : Nat) (f : Xfer → Xfer) (s : State) : (xferMod k f s).pf = s.pf := rfl
@[simp] theorem xferMod_d0 (k : Nat) (f : Xfer → Xfer) (s : State) : (xferMod k f s).d0 = s.d0 := rfl
@[simp] theorem xferMod_d1 (k : Nat) (f : Xfer → Xfer) (s : State) : (xferMod k f s).d1 = s.d1 := rfl
@[simp] theorem xferMod_sq (k : Nat) (f : Xfer → Xfer) (s : State) : (xferMod k f s).sq = s.sq := rfl
@[simp] theorem xferMod_sout (k : Nat) (f : Xfer → Xfer) (s : State) : (xferMod k f s).sout = s.sout := rfl
@[simp] theorem xferMod_regHw (k : Nat) (f : Xfer → Xfer) (s : State) : (xferMod k f s).regHw = s.regHw := rfl
@[simp] theorem xferMod_tal (k : Nat) (f : Xfer → Xfer) (s : State) : (xferMod k f s).tal = s.tal := rfl
@[simp] theorem xferMod_home (k : Nat) (f : Xfer → Xfer) (s : State) : (xferMod k f s).home = s.home := rfl
@[simp] theorem xferMod_regul (k : Nat) (f : Xfer → Xfer) (s : State) : (xferMod k f s).regul = s.regul := rfl
@[simp] theorem xferMod_mace (k : Nat) (f : Xfer → Xfer) (s : State) : (xferMod k f s).mace = s.mace := rfl
@[simp] theorem xferMod_keys (k : Nat) (f : Xfer → Xfer) (s : State) : (xferMod k f s).keys = s.keys := rfl
@[simp] theorem xferMod_ctr (k : Nat) (f : Xfer → Xfer) (s : State) : (xferMod k f s).ctr = s.ctr := rfl
@[simp] theorem xferMod_peat (k : Nat) (f : Xfer → Xfer) (s : State) : (xferMod k f s).peat = s.peat := rfl
@[simp] theorem xferMod_mbx (k : Nat) (f : Xfer → Xfer) (s : State) : (xferMod k f s).mbx = s.mbx := rfl
@[simp] theorem xferMod_startQ (k : Nat) (f : Xfer → Xfer) (s : State) : (xferMod k f s).startQ = s.startQ := rfl
@[simp] theorem xferMod_core (k : Nat) (f : Xfer → Xfer) (s : State) : (xferMod k f s).core = s.core := rfl
@[simp] theorem xferMod_ints (k : Nat) (f : Xfer → Xfer) (s : State) : (xferMod k f s).ints = s.ints := rfl
@[simp] theorem xferMod_log (k : Nat) (f : Xfer → Xfer) (s : State) : (xferMod k f s).log = s.log := rfl
@[simp] theorem xferMod_srv (k : Nat) (f : Xfer → Xfer) (s : State) : (xferMod k f s).srv = s.srv := rfl
@[simp] theorem xferMod_bad (k : Nat) (f : Xfer → Xfer) (s : State) : (xferMod k f s).bad = s.bad := rfl

@[simp] theorem sedgeSet_pending (k : Nat) (e : SedgeE) (s : State) : (sedgeSet k e s).pending = s.pending := rfl
@[simp] theorem sedgeSet_clk (k : Nat) (e : SedgeE) (s : State) : (sedgeSet k e s).clk = s.clk := rfl
@[simp] theorem sedgeSet_pins (k : Nat) (e : SedgeE) (s : State) : (sedgeSet k e s).pins = s.pins := rfl
@[simp] theorem sedgeSet_pw (k : Nat) (e : SedgeE) (s : State) : (sedgeSet k e s).pw = s.pw := rfl
@[simp] theorem sedgeSet_banks (k : Nat) (e : SedgeE) (s : State) : (sedgeSet k e s).banks = s.banks := rfl
@[simp] theorem sedgeSet_gen (k : Nat) (e : SedgeE) (s : State) : (sedgeSet k e s).gen = s.gen := rfl
@[simp] theorem sedgeSet_arr (k : Nat) (e : SedgeE) (s : State) : (sedgeSet k e s).arr = s.arr := rfl
@[simp] theorem sedgeSet_mp (k : Nat) (e : SedgeE) (s : State) : (sedgeSet k e s).mp = s.mp := rfl
@[simp] theorem sedgeSet_pf (k : Nat) (e : SedgeE) (s : State) : (sedgeSet k e s).pf = s.pf := rfl
@[simp] theorem sedgeSet_d0 (k : Nat) (e : SedgeE) (s : State) : (sedgeSet k e s).d0 = s.d0 := rfl
@[simp] theorem sedgeSet_d1 (k : Nat) (e : SedgeE) (s : State) : (sedgeSet k e s).d1 = s.d1 := rfl
@[simp] theorem sedgeSet_sq (k : Nat) (e : SedgeE) (s : State) : (sedgeSet k e s).sq = s.sq := rfl
@[simp] theorem sedgeSet_sout (k : Nat) (e : SedgeE) (s : State) : (sedgeSet k e s).sout = s.sout := rfl
@[simp] theorem sedgeSet_regHw (k : Nat) (e : SedgeE) (s : State) : (sedgeSet k e s).regHw = s.regHw := rfl
@[simp] theorem sedgeSet_fen (k : Nat) (e : SedgeE) (s : State) : (sedgeSet k e s).fen = s.fen := rfl
@[simp] theorem sedgeSet_tal (k : Nat) (e : SedgeE) (s : State) : (sedgeSet k e s).tal = s.tal := rfl
@[simp] theorem sedgeSet_regul (k : Nat) (e : SedgeE) (s : State) : (sedgeSet k e s).regul = s.regul := rfl
@[simp] theorem sedgeSet_mace (k : Nat) (e : SedgeE) (s : State) : (sedgeSet k e s).mace = s.mace := rfl
@[simp] theorem sedgeSet_keys (k : Nat) (e : SedgeE) (s : State) : (sedgeSet k e s).keys = s.keys := rfl
@[simp] theorem sedgeSet_ctr (k : Nat) (e : SedgeE) (s : State) : (sedgeSet k e s).ctr = s.ctr := rfl
@[simp] theorem sedgeSet_peat (k : Nat) (e : SedgeE) (s : State) : (sedgeSet k e s).peat = s.peat := rfl
@[simp] theorem sedgeSet_mbx (k : Nat) (e : SedgeE) (s : State) : (sedgeSet k e s).mbx = s.mbx := rfl
@[simp] theorem sedgeSet_startQ (k : Nat) (e : SedgeE) (s : State) : (sedgeSet k e s).startQ = s.startQ := rfl
@[simp] theorem sedgeSet_core (k : Nat) (e : SedgeE) (s : State) : (sedgeSet k e s).core = s.core := rfl
@[simp] theorem sedgeSet_ints (k : Nat) (e : SedgeE) (s : State) : (sedgeSet k e s).ints = s.ints := rfl
@[simp] theorem sedgeSet_log (k : Nat) (e : SedgeE) (s : State) : (sedgeSet k e s).log = s.log := rfl
@[simp] theorem sedgeSet_srv (k : Nat) (e : SedgeE) (s : State) : (sedgeSet k e s).srv = s.srv := rfl
@[simp] theorem sedgeSet_bad (k : Nat) (e : SedgeE) (s : State) : (sedgeSet k e s).bad = s.bad := rfl

@[simp] theorem hteMod_pending (k : Nat) (f : Hte → Hte) (s : State) : (hteMod k f s).pending = s.pending := rfl
@[simp] theorem hteMod_clk (k : Nat) (f : Hte → Hte) (s : State) : (hteMod k f s).clk = s.clk := rfl
@[simp] theorem hteMod_pins (k : Nat) (f : Hte → Hte) (s : State) : (hteMod k f s).pins = s.pins := rfl
@[simp] theorem hteMod_pw (k : Nat) (f : Hte → Hte) (s : State) : (hteMod k f s).pw = s.pw := rfl
@[simp] theorem hteMod_banks (k : Nat) (f : Hte → Hte) (s : State) : (hteMod k f s).banks = s.banks := rfl
@[simp] theorem hteMod_gen (k : Nat) (f : Hte → Hte) (s : State) : (hteMod k f s).gen = s.gen := rfl
@[simp] theorem hteMod_arr (k : Nat) (f : Hte → Hte) (s : State) : (hteMod k f s).arr = s.arr := rfl
@[simp] theorem hteMod_mp (k : Nat) (f : Hte → Hte) (s : State) : (hteMod k f s).mp = s.mp := rfl
@[simp] theorem hteMod_pf (k : Nat) (f : Hte → Hte) (s : State) : (hteMod k f s).pf = s.pf := rfl
@[simp] theorem hteMod_d0 (k : Nat) (f : Hte → Hte) (s : State) : (hteMod k f s).d0 = s.d0 := rfl
@[simp] theorem hteMod_d1 (k : Nat) (f : Hte → Hte) (s : State) : (hteMod k f s).d1 = s.d1 := rfl
@[simp] theorem hteMod_sq (k : Nat) (f : Hte → Hte) (s : State) : (hteMod k f s).sq = s.sq := rfl
@[simp] theorem hteMod_sout (k : Nat) (f : Hte → Hte) (s : State) : (hteMod k f s).sout = s.sout := rfl
@[simp] theorem hteMod_regHw (k : Nat) (f : Hte → Hte) (s : State) : (hteMod k f s).regHw = s.regHw := rfl
@[simp] theorem hteMod_fen (k : Nat) (f : Hte → Hte) (s : State) : (hteMod k f s).fen = s.fen := rfl
@[simp] theorem hteMod_tal (k : Nat) (f : Hte → Hte) (s : State) : (hteMod k f s).tal = s.tal := rfl
@[simp] theorem hteMod_regul (k : Nat) (f : Hte → Hte) (s : State) : (hteMod k f s).regul = s.regul := rfl
@[simp] theorem hteMod_mace (k : Nat) (f : Hte → Hte) (s : State) : (hteMod k f s).mace = s.mace := rfl
@[simp] theorem hteMod_keys (k : Nat) (f : Hte → Hte) (s : State) : (hteMod k f s).keys = s.keys := rfl
@[simp] theorem hteMod_ctr (k : Nat) (f : Hte → Hte) (s : State) : (hteMod k f s).ctr = s.ctr := rfl
@[simp] theorem hteMod_peat (k : Nat) (f : Hte → Hte) (s : State) : (hteMod k f s).peat = s.peat := rfl
@[simp] theorem hteMod_mbx (k : Nat) (f : Hte → Hte) (s : State) : (hteMod k f s).mbx = s.mbx := rfl
@[simp] theorem hteMod_startQ (k : Nat) (f : Hte → Hte) (s : State) : (hteMod k f s).startQ = s.startQ := rfl
@[simp] theorem hteMod_core (k : Nat) (f : Hte → Hte) (s : State) : (hteMod k f s).core = s.core := rfl
@[simp] theorem hteMod_ints (k : Nat) (f : Hte → Hte) (s : State) : (hteMod k f s).ints = s.ints := rfl
@[simp] theorem hteMod_log (k : Nat) (f : Hte → Hte) (s : State) : (hteMod k f s).log = s.log := rfl
@[simp] theorem hteMod_srv (k : Nat) (f : Hte → Hte) (s : State) : (hteMod k f s).srv = s.srv := rfl
@[simp] theorem hteMod_bad (k : Nat) (f : Hte → Hte) (s : State) : (hteMod k f s).bad = s.bad := rfl

@[simp] theorem hteDrop_pending (k : Nat) (s : State) : (hteDrop k s).pending = s.pending := rfl
@[simp] theorem hteDrop_clk (k : Nat) (s : State) : (hteDrop k s).clk = s.clk := rfl
@[simp] theorem hteDrop_pins (k : Nat) (s : State) : (hteDrop k s).pins = s.pins := rfl
@[simp] theorem hteDrop_pw (k : Nat) (s : State) : (hteDrop k s).pw = s.pw := rfl
@[simp] theorem hteDrop_banks (k : Nat) (s : State) : (hteDrop k s).banks = s.banks := rfl
@[simp] theorem hteDrop_gen (k : Nat) (s : State) : (hteDrop k s).gen = s.gen := rfl
@[simp] theorem hteDrop_arr (k : Nat) (s : State) : (hteDrop k s).arr = s.arr := rfl
@[simp] theorem hteDrop_mp (k : Nat) (s : State) : (hteDrop k s).mp = s.mp := rfl
@[simp] theorem hteDrop_pf (k : Nat) (s : State) : (hteDrop k s).pf = s.pf := rfl
@[simp] theorem hteDrop_d0 (k : Nat) (s : State) : (hteDrop k s).d0 = s.d0 := rfl
@[simp] theorem hteDrop_d1 (k : Nat) (s : State) : (hteDrop k s).d1 = s.d1 := rfl
@[simp] theorem hteDrop_sq (k : Nat) (s : State) : (hteDrop k s).sq = s.sq := rfl
@[simp] theorem hteDrop_sout (k : Nat) (s : State) : (hteDrop k s).sout = s.sout := rfl
@[simp] theorem hteDrop_regHw (k : Nat) (s : State) : (hteDrop k s).regHw = s.regHw := rfl
@[simp] theorem hteDrop_fen (k : Nat) (s : State) : (hteDrop k s).fen = s.fen := rfl
@[simp] theorem hteDrop_tal (k : Nat) (s : State) : (hteDrop k s).tal = s.tal := rfl
@[simp] theorem hteDrop_regul (k : Nat) (s : State) : (hteDrop k s).regul = s.regul := rfl
@[simp] theorem hteDrop_mace (k : Nat) (s : State) : (hteDrop k s).mace = s.mace := rfl
@[simp] theorem hteDrop_keys (k : Nat) (s : State) : (hteDrop k s).keys = s.keys := rfl
@[simp] theorem hteDrop_ctr (k : Nat) (s : State) : (hteDrop k s).ctr = s.ctr := rfl
@[simp] theorem hteDrop_peat (k : Nat) (s : State) : (hteDrop k s).peat = s.peat := rfl
@[simp] theorem hteDrop_mbx (k : Nat) (s : State) : (hteDrop k s).mbx = s.mbx := rfl
@[simp] theorem hteDrop_startQ (k : Nat) (s : State) : (hteDrop k s).startQ = s.startQ := rfl
@[simp] theorem hteDrop_core (k : Nat) (s : State) : (hteDrop k s).core = s.core := rfl
@[simp] theorem hteDrop_ints (k : Nat) (s : State) : (hteDrop k s).ints = s.ints := rfl
@[simp] theorem hteDrop_log (k : Nat) (s : State) : (hteDrop k s).log = s.log := rfl
@[simp] theorem hteDrop_srv (k : Nat) (s : State) : (hteDrop k s).srv = s.srv := rfl
@[simp] theorem hteDrop_bad (k : Nat) (s : State) : (hteDrop k s).bad = s.bad := rfl

@[simp] theorem hteAdd_pending (h : Hte) (s : State) : (hteAdd h s).pending = s.pending := rfl
@[simp] theorem hteAdd_clk (h : Hte) (s : State) : (hteAdd h s).clk = s.clk := rfl
@[simp] theorem hteAdd_pins (h : Hte) (s : State) : (hteAdd h s).pins = s.pins := rfl
@[simp] theorem hteAdd_pw (h : Hte) (s : State) : (hteAdd h s).pw = s.pw := rfl
@[simp] theorem hteAdd_banks (h : Hte) (s : State) : (hteAdd h s).banks = s.banks := rfl
@[simp] theorem hteAdd_gen (h : Hte) (s : State) : (hteAdd h s).gen = s.gen := rfl
@[simp] theorem hteAdd_arr (h : Hte) (s : State) : (hteAdd h s).arr = s.arr := rfl
@[simp] theorem hteAdd_mp (h : Hte) (s : State) : (hteAdd h s).mp = s.mp := rfl
@[simp] theorem hteAdd_pf (h : Hte) (s : State) : (hteAdd h s).pf = s.pf := rfl
@[simp] theorem hteAdd_d0 (h : Hte) (s : State) : (hteAdd h s).d0 = s.d0 := rfl
@[simp] theorem hteAdd_d1 (h : Hte) (s : State) : (hteAdd h s).d1 = s.d1 := rfl
@[simp] theorem hteAdd_sq (h : Hte) (s : State) : (hteAdd h s).sq = s.sq := rfl
@[simp] theorem hteAdd_sout (h : Hte) (s : State) : (hteAdd h s).sout = s.sout := rfl
@[simp] theorem hteAdd_regHw (h : Hte) (s : State) : (hteAdd h s).regHw = s.regHw := rfl
@[simp] theorem hteAdd_fen (h : Hte) (s : State) : (hteAdd h s).fen = s.fen := rfl
@[simp] theorem hteAdd_tal (h : Hte) (s : State) : (hteAdd h s).tal = s.tal := rfl
@[simp] theorem hteAdd_regul (h : Hte) (s : State) : (hteAdd h s).regul = s.regul := rfl
@[simp] theorem hteAdd_mace (h : Hte) (s : State) : (hteAdd h s).mace = s.mace := rfl
@[simp] theorem hteAdd_keys (h : Hte) (s : State) : (hteAdd h s).keys = s.keys := rfl
@[simp] theorem hteAdd_ctr (h : Hte) (s : State) : (hteAdd h s).ctr = s.ctr := rfl
@[simp] theorem hteAdd_peat (h : Hte) (s : State) : (hteAdd h s).peat = s.peat := rfl
@[simp] theorem hteAdd_mbx (h : Hte) (s : State) : (hteAdd h s).mbx = s.mbx := rfl
@[simp] theorem hteAdd_startQ (h : Hte) (s : State) : (hteAdd h s).startQ = s.startQ := rfl
@[simp] theorem hteAdd_core (h : Hte) (s : State) : (hteAdd h s).core = s.core := rfl
@[simp] theorem hteAdd_ints (h : Hte) (s : State) : (hteAdd h s).ints = s.ints := rfl
@[simp] theorem hteAdd_log (h : Hte) (s : State) : (hteAdd h s).log = s.log := rfl
@[simp] theorem hteAdd_srv (h : Hte) (s : State) : (hteAdd h s).srv = s.srv := rfl
@[simp] theorem hteAdd_bad (h : Hte) (s : State) : (hteAdd h s).bad = s.bad := rfl

@[simp] theorem relookAdd_pending (l : List Req) (s : State) : (relookAdd l s).pending = s.pending := rfl
@[simp] theorem relookAdd_clk (l : List Req) (s : State) : (relookAdd l s).clk = s.clk := rfl
@[simp] theorem relookAdd_pins (l : List Req) (s : State) : (relookAdd l s).pins = s.pins := rfl
@[simp] theorem relookAdd_pw (l : List Req) (s : State) : (relookAdd l s).pw = s.pw := rfl
@[simp] theorem relookAdd_banks (l : List Req) (s : State) : (relookAdd l s).banks = s.banks := rfl
@[simp] theorem relookAdd_gen (l : List Req) (s : State) : (relookAdd l s).gen = s.gen := rfl
@[simp] theorem relookAdd_arr (l : List Req) (s : State) : (relookAdd l s).arr = s.arr := rfl
@[simp] theorem relookAdd_mp (l : List Req) (s : State) : (relookAdd l s).mp = s.mp := rfl
@[simp] theorem relookAdd_pf (l : List Req) (s : State) : (relookAdd l s).pf = s.pf := rfl
@[simp] theorem relookAdd_d0 (l : List Req) (s : State) : (relookAdd l s).d0 = s.d0 := rfl
@[simp] theorem relookAdd_d1 (l : List Req) (s : State) : (relookAdd l s).d1 = s.d1 := rfl
@[simp] theorem relookAdd_sq (l : List Req) (s : State) : (relookAdd l s).sq = s.sq := rfl
@[simp] theorem relookAdd_sout (l : List Req) (s : State) : (relookAdd l s).sout = s.sout := rfl
@[simp] theorem relookAdd_regHw (l : List Req) (s : State) : (relookAdd l s).regHw = s.regHw := rfl
@[simp] theorem relookAdd_fen (l : List Req) (s : State) : (relookAdd l s).fen = s.fen := rfl
@[simp] theorem relookAdd_tal (l : List Req) (s : State) : (relookAdd l s).tal = s.tal := rfl
@[simp] theorem relookAdd_regul (l : List Req) (s : State) : (relookAdd l s).regul = s.regul := rfl
@[simp] theorem relookAdd_mace (l : List Req) (s : State) : (relookAdd l s).mace = s.mace := rfl
@[simp] theorem relookAdd_keys (l : List Req) (s : State) : (relookAdd l s).keys = s.keys := rfl
@[simp] theorem relookAdd_ctr (l : List Req) (s : State) : (relookAdd l s).ctr = s.ctr := rfl
@[simp] theorem relookAdd_peat (l : List Req) (s : State) : (relookAdd l s).peat = s.peat := rfl
@[simp] theorem relookAdd_mbx (l : List Req) (s : State) : (relookAdd l s).mbx = s.mbx := rfl
@[simp] theorem relookAdd_startQ (l : List Req) (s : State) : (relookAdd l s).startQ = s.startQ := rfl
@[simp] theorem relookAdd_core (l : List Req) (s : State) : (relookAdd l s).core = s.core := rfl
@[simp] theorem relookAdd_ints (l : List Req) (s : State) : (relookAdd l s).ints = s.ints := rfl
@[simp] theorem relookAdd_log (l : List Req) (s : State) : (relookAdd l s).log = s.log := rfl
@[simp] theorem relookAdd_srv (l : List Req) (s : State) : (relookAdd l s).srv = s.srv := rfl
@[simp] theorem relookAdd_bad (l : List Req) (s : State) : (relookAdd l s).bad = s.bad := rfl

@[simp] theorem setPred_pending (x : Store PredE) (s : State) : (setPred x s).pending = s.pending := rfl
@[simp] theorem setPred_clk (x : Store PredE) (s : State) : (setPred x s).clk = s.clk := rfl
@[simp] theorem setPred_pins (x : Store PredE) (s : State) : (setPred x s).pins = s.pins := rfl
@[simp] theorem setPred_pw (x : Store PredE) (s : State) : (setPred x s).pw = s.pw := rfl
@[simp] theorem setPred_banks (x : Store PredE) (s : State) : (setPred x s).banks = s.banks := rfl
@[simp] theorem setPred_gen (x : Store PredE) (s : State) : (setPred x s).gen = s.gen := rfl
@[simp] theorem setPred_arr (x : Store PredE) (s : State) : (setPred x s).arr = s.arr := rfl
@[simp] theorem setPred_mp (x : Store PredE) (s : State) : (setPred x s).mp = s.mp := rfl
@[simp] theorem setPred_pf (x : Store PredE) (s : State) : (setPred x s).pf = s.pf := rfl
@[simp] theorem setPred_d0 (x : Store PredE) (s : State) : (setPred x s).d0 = s.d0 := rfl
@[simp] theorem setPred_d1 (x : Store PredE) (s : State) : (setPred x s).d1 = s.d1 := rfl
@[simp] theorem setPred_sq (x : Store PredE) (s : State) : (setPred x s).sq = s.sq := rfl
@[simp] theorem setPred_sout (x : Store PredE) (s : State) : (setPred x s).sout = s.sout := rfl
@[simp] theorem setPred_regHw (x : Store PredE) (s : State) : (setPred x s).regHw = s.regHw := rfl
@[simp] theorem setPred_fen (x : Store PredE) (s : State) : (setPred x s).fen = s.fen := rfl
@[simp] theorem setPred_tal (x : Store PredE) (s : State) : (setPred x s).tal = s.tal := rfl
@[simp] theorem setPred_regul (x : Store PredE) (s : State) : (setPred x s).regul = s.regul := rfl
@[simp] theorem setPred_mace (x : Store PredE) (s : State) : (setPred x s).mace = s.mace := rfl
@[simp] theorem setPred_keys (x : Store PredE) (s : State) : (setPred x s).keys = s.keys := rfl
@[simp] theorem setPred_ctr (x : Store PredE) (s : State) : (setPred x s).ctr = s.ctr := rfl
@[simp] theorem setPred_peat (x : Store PredE) (s : State) : (setPred x s).peat = s.peat := rfl
@[simp] theorem setPred_mbx (x : Store PredE) (s : State) : (setPred x s).mbx = s.mbx := rfl
@[simp] theorem setPred_startQ (x : Store PredE) (s : State) : (setPred x s).startQ = s.startQ := rfl
@[simp] theorem setPred_core (x : Store PredE) (s : State) : (setPred x s).core = s.core := rfl
@[simp] theorem setPred_ints (x : Store PredE) (s : State) : (setPred x s).ints = s.ints := rfl
@[simp] theorem setPred_log (x : Store PredE) (s : State) : (setPred x s).log = s.log := rfl
@[simp] theorem setPred_srv (x : Store PredE) (s : State) : (setPred x s).srv = s.srv := rfl
@[simp] theorem setPred_bad (x : Store PredE) (s : State) : (setPred x s).bad = s.bad := rfl

@[simp] theorem mbxSet_pending (k : Nat) (x : Mbx) (s : State) : (mbxSet k x s).pending = s.pending := rfl
@[simp] theorem mbxSet_clk (k : Nat) (x : Mbx) (s : State) : (mbxSet k x s).clk = s.clk := rfl
@[simp] theorem mbxSet_pins (k : Nat) (x : Mbx) (s : State) : (mbxSet k x s).pins = s.pins := rfl
@[simp] theorem mbxSet_pw (k : Nat) (x : Mbx) (s : State) : (mbxSet k x s).pw = s.pw := rfl
@[simp] theorem mbxSet_banks (k : Nat) (x : Mbx) (s : State) : (mbxSet k x s).banks = s.banks := rfl
@[simp] theorem mbxSet_gen (k : Nat) (x : Mbx) (s : State) : (mbxSet k x s).gen = s.gen := rfl
@[simp] theorem mbxSet_arr (k : Nat) (x : Mbx) (s : State) : (mbxSet k x s).arr = s.arr := rfl
@[simp] theorem mbxSet_mp (k : Nat) (x : Mbx) (s : State) : (mbxSet k x s).mp = s.mp := rfl
@[simp] theorem mbxSet_pf (k : Nat) (x : Mbx) (s : State) : (mbxSet k x s).pf = s.pf := rfl
@[simp] theorem mbxSet_d0 (k : Nat) (x : Mbx) (s : State) : (mbxSet k x s).d0 = s.d0 := rfl
@[simp] theorem mbxSet_d1 (k : Nat) (x : Mbx) (s : State) : (mbxSet k x s).d1 = s.d1 := rfl
@[simp] theorem mbxSet_sq (k : Nat) (x : Mbx) (s : State) : (mbxSet k x s).sq = s.sq := rfl
@[simp] theorem mbxSet_sout (k : Nat) (x : Mbx) (s : State) : (mbxSet k x s).sout = s.sout := rfl
@[simp] theorem mbxSet_regHw (k : Nat) (x : Mbx) (s : State) : (mbxSet k x s).regHw = s.regHw := rfl
@[simp] theorem mbxSet_fen (k : Nat) (x : Mbx) (s : State) : (mbxSet k x s).fen = s.fen := rfl
@[simp] theorem mbxSet_tal (k : Nat) (x : Mbx) (s : State) : (mbxSet k x s).tal = s.tal := rfl
@[simp] theorem mbxSet_home (k : Nat) (x : Mbx) (s : State) : (mbxSet k x s).home = s.home := rfl
@[simp] theorem mbxSet_regul (k : Nat) (x : Mbx) (s : State) : (mbxSet k x s).regul = s.regul := rfl
@[simp] theorem mbxSet_mace (k : Nat) (x : Mbx) (s : State) : (mbxSet k x s).mace = s.mace := rfl
@[simp] theorem mbxSet_keys (k : Nat) (x : Mbx) (s : State) : (mbxSet k x s).keys = s.keys := rfl
@[simp] theorem mbxSet_ctr (k : Nat) (x : Mbx) (s : State) : (mbxSet k x s).ctr = s.ctr := rfl
@[simp] theorem mbxSet_peat (k : Nat) (x : Mbx) (s : State) : (mbxSet k x s).peat = s.peat := rfl
@[simp] theorem mbxSet_startQ (k : Nat) (x : Mbx) (s : State) : (mbxSet k x s).startQ = s.startQ := rfl
@[simp] theorem mbxSet_core (k : Nat) (x : Mbx) (s : State) : (mbxSet k x s).core = s.core := rfl
@[simp] theorem mbxSet_ints (k : Nat) (x : Mbx) (s : State) : (mbxSet k x s).ints = s.ints := rfl
@[simp] theorem mbxSet_log (k : Nat) (x : Mbx) (s : State) : (mbxSet k x s).log = s.log := rfl
@[simp] theorem mbxSet_srv (k : Nat) (x : Mbx) (s : State) : (mbxSet k x s).srv = s.srv := rfl
@[simp] theorem mbxSet_bad (k : Nat) (x : Mbx) (s : State) : (mbxSet k x s).bad = s.bad := rfl

@[simp] theorem keySet_pending (k : Nat) (x : Key) (s : State) : (keySet k x s).pending = s.pending := rfl
@[simp] theorem keySet_clk (k : Nat) (x : Key) (s : State) : (keySet k x s).clk = s.clk := rfl
@[simp] theorem keySet_pins (k : Nat) (x : Key) (s : State) : (keySet k x s).pins = s.pins := rfl
@[simp] theorem keySet_pw (k : Nat) (x : Key) (s : State) : (keySet k x s).pw = s.pw := rfl
@[simp] theorem keySet_banks (k : Nat) (x : Key) (s : State) : (keySet k x s).banks = s.banks := rfl
@[simp] theorem keySet_gen (k : Nat) (x : Key) (s : State) : (keySet k x s).gen = s.gen := rfl
@[simp] theorem keySet_arr (k : Nat) (x : Key) (s : State) : (keySet k x s).arr = s.arr := rfl
@[simp] theorem keySet_mp (k : Nat) (x : Key) (s : State) : (keySet k x s).mp = s.mp := rfl
@[simp] theorem keySet_pf (k : Nat) (x : Key) (s : State) : (keySet k x s).pf = s.pf := rfl
@[simp] theorem keySet_d0 (k : Nat) (x : Key) (s : State) : (keySet k x s).d0 = s.d0 := rfl
@[simp] theorem keySet_d1 (k : Nat) (x : Key) (s : State) : (keySet k x s).d1 = s.d1 := rfl
@[simp] theorem keySet_sq (k : Nat) (x : Key) (s : State) : (keySet k x s).sq = s.sq := rfl
@[simp] theorem keySet_sout (k : Nat) (x : Key) (s : State) : (keySet k x s).sout = s.sout := rfl
@[simp] theorem keySet_regHw (k : Nat) (x : Key) (s : State) : (keySet k x s).regHw = s.regHw := rfl
@[simp] theorem keySet_fen (k : Nat) (x : Key) (s : State) : (keySet k x s).fen = s.fen := rfl
@[simp] theorem keySet_tal (k : Nat) (x : Key) (s : State) : (keySet k x s).tal = s.tal := rfl
@[simp] theorem keySet_home (k : Nat) (x : Key) (s : State) : (keySet k x s).home = s.home := rfl
@[simp] theorem keySet_regul (k : Nat) (x : Key) (s : State) : (keySet k x s).regul = s.regul := rfl
@[simp] theorem keySet_mace (k : Nat) (x : Key) (s : State) : (keySet k x s).mace = s.mace := rfl
@[simp] theorem keySet_ctr (k : Nat) (x : Key) (s : State) : (keySet k x s).ctr = s.ctr := rfl
@[simp] theorem keySet_peat (k : Nat) (x : Key) (s : State) : (keySet k x s).peat = s.peat := rfl
@[simp] theorem keySet_mbx (k : Nat) (x : Key) (s : State) : (keySet k x s).mbx = s.mbx := rfl
@[simp] theorem keySet_startQ (k : Nat) (x : Key) (s : State) : (keySet k x s).startQ = s.startQ := rfl
@[simp] theorem keySet_core (k : Nat) (x : Key) (s : State) : (keySet k x s).core = s.core := rfl
@[simp] theorem keySet_ints (k : Nat) (x : Key) (s : State) : (keySet k x s).ints = s.ints := rfl
@[simp] theorem keySet_log (k : Nat) (x : Key) (s : State) : (keySet k x s).log = s.log := rfl
@[simp] theorem keySet_srv (k : Nat) (x : Key) (s : State) : (keySet k x s).srv = s.srv := rfl
@[simp] theorem keySet_bad (k : Nat) (x : Key) (s : State) : (keySet k x s).bad = s.bad := rfl

@[simp] theorem setMCmd_pending (w : BitVec 64) (d : Option (Line × Mask)) (s : State) : (setMCmd w d s).pending = s.pending := rfl
@[simp] theorem setMCmd_clk (w : BitVec 64) (d : Option (Line × Mask)) (s : State) : (setMCmd w d s).clk = s.clk := rfl
@[simp] theorem setMCmd_pw (w : BitVec 64) (d : Option (Line × Mask)) (s : State) : (setMCmd w d s).pw = s.pw := rfl
@[simp] theorem setMCmd_banks (w : BitVec 64) (d : Option (Line × Mask)) (s : State) : (setMCmd w d s).banks = s.banks := rfl
@[simp] theorem setMCmd_gen (w : BitVec 64) (d : Option (Line × Mask)) (s : State) : (setMCmd w d s).gen = s.gen := rfl
@[simp] theorem setMCmd_arr (w : BitVec 64) (d : Option (Line × Mask)) (s : State) : (setMCmd w d s).arr = s.arr := rfl
@[simp] theorem setMCmd_mp (w : BitVec 64) (d : Option (Line × Mask)) (s : State) : (setMCmd w d s).mp = s.mp := rfl
@[simp] theorem setMCmd_pf (w : BitVec 64) (d : Option (Line × Mask)) (s : State) : (setMCmd w d s).pf = s.pf := rfl
@[simp] theorem setMCmd_d0 (w : BitVec 64) (d : Option (Line × Mask)) (s : State) : (setMCmd w d s).d0 = s.d0 := rfl
@[simp] theorem setMCmd_d1 (w : BitVec 64) (d : Option (Line × Mask)) (s : State) : (setMCmd w d s).d1 = s.d1 := rfl
@[simp] theorem setMCmd_sq (w : BitVec 64) (d : Option (Line × Mask)) (s : State) : (setMCmd w d s).sq = s.sq := rfl
@[simp] theorem setMCmd_sout (w : BitVec 64) (d : Option (Line × Mask)) (s : State) : (setMCmd w d s).sout = s.sout := rfl
@[simp] theorem setMCmd_regHw (w : BitVec 64) (d : Option (Line × Mask)) (s : State) : (setMCmd w d s).regHw = s.regHw := rfl
@[simp] theorem setMCmd_fen (w : BitVec 64) (d : Option (Line × Mask)) (s : State) : (setMCmd w d s).fen = s.fen := rfl
@[simp] theorem setMCmd_tal (w : BitVec 64) (d : Option (Line × Mask)) (s : State) : (setMCmd w d s).tal = s.tal := rfl
@[simp] theorem setMCmd_home (w : BitVec 64) (d : Option (Line × Mask)) (s : State) : (setMCmd w d s).home = s.home := rfl
@[simp] theorem setMCmd_regul (w : BitVec 64) (d : Option (Line × Mask)) (s : State) : (setMCmd w d s).regul = s.regul := rfl
@[simp] theorem setMCmd_mace (w : BitVec 64) (d : Option (Line × Mask)) (s : State) : (setMCmd w d s).mace = s.mace := rfl
@[simp] theorem setMCmd_keys (w : BitVec 64) (d : Option (Line × Mask)) (s : State) : (setMCmd w d s).keys = s.keys := rfl
@[simp] theorem setMCmd_ctr (w : BitVec 64) (d : Option (Line × Mask)) (s : State) : (setMCmd w d s).ctr = s.ctr := rfl
@[simp] theorem setMCmd_peat (w : BitVec 64) (d : Option (Line × Mask)) (s : State) : (setMCmd w d s).peat = s.peat := rfl
@[simp] theorem setMCmd_mbx (w : BitVec 64) (d : Option (Line × Mask)) (s : State) : (setMCmd w d s).mbx = s.mbx := rfl
@[simp] theorem setMCmd_startQ (w : BitVec 64) (d : Option (Line × Mask)) (s : State) : (setMCmd w d s).startQ = s.startQ := rfl
@[simp] theorem setMCmd_core (w : BitVec 64) (d : Option (Line × Mask)) (s : State) : (setMCmd w d s).core = s.core := rfl
@[simp] theorem setMCmd_ints (w : BitVec 64) (d : Option (Line × Mask)) (s : State) : (setMCmd w d s).ints = s.ints := rfl
@[simp] theorem setMCmd_log (w : BitVec 64) (d : Option (Line × Mask)) (s : State) : (setMCmd w d s).log = s.log := rfl
@[simp] theorem setMCmd_srv (w : BitVec 64) (d : Option (Line × Mask)) (s : State) : (setMCmd w d s).srv = s.srv := rfl
@[simp] theorem setMCmd_bad (w : BitVec 64) (d : Option (Line × Mask)) (s : State) : (setMCmd w d s).bad = s.bad := rfl

@[simp] theorem winSet_pending (k : Nat) (x : Win) (s : State) : (winSet k x s).pending = s.pending := rfl
@[simp] theorem winSet_clk (k : Nat) (x : Win) (s : State) : (winSet k x s).clk = s.clk := rfl
@[simp] theorem winSet_pins (k : Nat) (x : Win) (s : State) : (winSet k x s).pins = s.pins := rfl
@[simp] theorem winSet_pw (k : Nat) (x : Win) (s : State) : (winSet k x s).pw = s.pw := rfl
@[simp] theorem winSet_banks (k : Nat) (x : Win) (s : State) : (winSet k x s).banks = s.banks := rfl
@[simp] theorem winSet_gen (k : Nat) (x : Win) (s : State) : (winSet k x s).gen = s.gen := rfl
@[simp] theorem winSet_arr (k : Nat) (x : Win) (s : State) : (winSet k x s).arr = s.arr := rfl
@[simp] theorem winSet_mp (k : Nat) (x : Win) (s : State) : (winSet k x s).mp = s.mp := rfl
@[simp] theorem winSet_pf (k : Nat) (x : Win) (s : State) : (winSet k x s).pf = s.pf := rfl
@[simp] theorem winSet_d0 (k : Nat) (x : Win) (s : State) : (winSet k x s).d0 = s.d0 := rfl
@[simp] theorem winSet_d1 (k : Nat) (x : Win) (s : State) : (winSet k x s).d1 = s.d1 := rfl
@[simp] theorem winSet_sq (k : Nat) (x : Win) (s : State) : (winSet k x s).sq = s.sq := rfl
@[simp] theorem winSet_sout (k : Nat) (x : Win) (s : State) : (winSet k x s).sout = s.sout := rfl
@[simp] theorem winSet_regHw (k : Nat) (x : Win) (s : State) : (winSet k x s).regHw = s.regHw := rfl
@[simp] theorem winSet_fen (k : Nat) (x : Win) (s : State) : (winSet k x s).fen = s.fen := rfl
@[simp] theorem winSet_tal (k : Nat) (x : Win) (s : State) : (winSet k x s).tal = s.tal := rfl
@[simp] theorem winSet_home (k : Nat) (x : Win) (s : State) : (winSet k x s).home = s.home := rfl
@[simp] theorem winSet_mace (k : Nat) (x : Win) (s : State) : (winSet k x s).mace = s.mace := rfl
@[simp] theorem winSet_keys (k : Nat) (x : Win) (s : State) : (winSet k x s).keys = s.keys := rfl
@[simp] theorem winSet_ctr (k : Nat) (x : Win) (s : State) : (winSet k x s).ctr = s.ctr := rfl
@[simp] theorem winSet_peat (k : Nat) (x : Win) (s : State) : (winSet k x s).peat = s.peat := rfl
@[simp] theorem winSet_mbx (k : Nat) (x : Win) (s : State) : (winSet k x s).mbx = s.mbx := rfl
@[simp] theorem winSet_startQ (k : Nat) (x : Win) (s : State) : (winSet k x s).startQ = s.startQ := rfl
@[simp] theorem winSet_core (k : Nat) (x : Win) (s : State) : (winSet k x s).core = s.core := rfl
@[simp] theorem winSet_ints (k : Nat) (x : Win) (s : State) : (winSet k x s).ints = s.ints := rfl
@[simp] theorem winSet_log (k : Nat) (x : Win) (s : State) : (winSet k x s).log = s.log := rfl
@[simp] theorem winSet_srv (k : Nat) (x : Win) (s : State) : (winSet k x s).srv = s.srv := rfl
@[simp] theorem winSet_bad (k : Nat) (x : Win) (s : State) : (winSet k x s).bad = s.bad := rfl

@[simp] theorem bufSet_pending (k : Nat) (x : TBuf) (s : State) : (bufSet k x s).pending = s.pending := rfl
@[simp] theorem bufSet_clk (k : Nat) (x : TBuf) (s : State) : (bufSet k x s).clk = s.clk := rfl
@[simp] theorem bufSet_pins (k : Nat) (x : TBuf) (s : State) : (bufSet k x s).pins = s.pins := rfl
@[simp] theorem bufSet_pw (k : Nat) (x : TBuf) (s : State) : (bufSet k x s).pw = s.pw := rfl
@[simp] theorem bufSet_banks (k : Nat) (x : TBuf) (s : State) : (bufSet k x s).banks = s.banks := rfl
@[simp] theorem bufSet_gen (k : Nat) (x : TBuf) (s : State) : (bufSet k x s).gen = s.gen := rfl
@[simp] theorem bufSet_arr (k : Nat) (x : TBuf) (s : State) : (bufSet k x s).arr = s.arr := rfl
@[simp] theorem bufSet_mp (k : Nat) (x : TBuf) (s : State) : (bufSet k x s).mp = s.mp := rfl
@[simp] theorem bufSet_pf (k : Nat) (x : TBuf) (s : State) : (bufSet k x s).pf = s.pf := rfl
@[simp] theorem bufSet_d0 (k : Nat) (x : TBuf) (s : State) : (bufSet k x s).d0 = s.d0 := rfl
@[simp] theorem bufSet_d1 (k : Nat) (x : TBuf) (s : State) : (bufSet k x s).d1 = s.d1 := rfl
@[simp] theorem bufSet_sq (k : Nat) (x : TBuf) (s : State) : (bufSet k x s).sq = s.sq := rfl
@[simp] theorem bufSet_sout (k : Nat) (x : TBuf) (s : State) : (bufSet k x s).sout = s.sout := rfl
@[simp] theorem bufSet_regHw (k : Nat) (x : TBuf) (s : State) : (bufSet k x s).regHw = s.regHw := rfl
@[simp] theorem bufSet_fen (k : Nat) (x : TBuf) (s : State) : (bufSet k x s).fen = s.fen := rfl
@[simp] theorem bufSet_tal (k : Nat) (x : TBuf) (s : State) : (bufSet k x s).tal = s.tal := rfl
@[simp] theorem bufSet_home (k : Nat) (x : TBuf) (s : State) : (bufSet k x s).home = s.home := rfl
@[simp] theorem bufSet_regul (k : Nat) (x : TBuf) (s : State) : (bufSet k x s).regul = s.regul := rfl
@[simp] theorem bufSet_mace (k : Nat) (x : TBuf) (s : State) : (bufSet k x s).mace = s.mace := rfl
@[simp] theorem bufSet_keys (k : Nat) (x : TBuf) (s : State) : (bufSet k x s).keys = s.keys := rfl
@[simp] theorem bufSet_ctr (k : Nat) (x : TBuf) (s : State) : (bufSet k x s).ctr = s.ctr := rfl
@[simp] theorem bufSet_mbx (k : Nat) (x : TBuf) (s : State) : (bufSet k x s).mbx = s.mbx := rfl
@[simp] theorem bufSet_startQ (k : Nat) (x : TBuf) (s : State) : (bufSet k x s).startQ = s.startQ := rfl
@[simp] theorem bufSet_core (k : Nat) (x : TBuf) (s : State) : (bufSet k x s).core = s.core := rfl
@[simp] theorem bufSet_ints (k : Nat) (x : TBuf) (s : State) : (bufSet k x s).ints = s.ints := rfl
@[simp] theorem bufSet_log (k : Nat) (x : TBuf) (s : State) : (bufSet k x s).log = s.log := rfl
@[simp] theorem bufSet_srv (k : Nat) (x : TBuf) (s : State) : (bufSet k x s).srv = s.srv := rfl
@[simp] theorem bufSet_bad (k : Nat) (x : TBuf) (s : State) : (bufSet k x s).bad = s.bad := rfl

@[simp] theorem watSet_pending (k : Nat) (x : Wat) (s : State) : (watSet k x s).pending = s.pending := rfl
@[simp] theorem watSet_clk (k : Nat) (x : Wat) (s : State) : (watSet k x s).clk = s.clk := rfl
@[simp] theorem watSet_pins (k : Nat) (x : Wat) (s : State) : (watSet k x s).pins = s.pins := rfl
@[simp] theorem watSet_pw (k : Nat) (x : Wat) (s : State) : (watSet k x s).pw = s.pw := rfl
@[simp] theorem watSet_banks (k : Nat) (x : Wat) (s : State) : (watSet k x s).banks = s.banks := rfl
@[simp] theorem watSet_gen (k : Nat) (x : Wat) (s : State) : (watSet k x s).gen = s.gen := rfl
@[simp] theorem watSet_arr (k : Nat) (x : Wat) (s : State) : (watSet k x s).arr = s.arr := rfl
@[simp] theorem watSet_mp (k : Nat) (x : Wat) (s : State) : (watSet k x s).mp = s.mp := rfl
@[simp] theorem watSet_pf (k : Nat) (x : Wat) (s : State) : (watSet k x s).pf = s.pf := rfl
@[simp] theorem watSet_d0 (k : Nat) (x : Wat) (s : State) : (watSet k x s).d0 = s.d0 := rfl
@[simp] theorem watSet_d1 (k : Nat) (x : Wat) (s : State) : (watSet k x s).d1 = s.d1 := rfl
@[simp] theorem watSet_sq (k : Nat) (x : Wat) (s : State) : (watSet k x s).sq = s.sq := rfl
@[simp] theorem watSet_sout (k : Nat) (x : Wat) (s : State) : (watSet k x s).sout = s.sout := rfl
@[simp] theorem watSet_regHw (k : Nat) (x : Wat) (s : State) : (watSet k x s).regHw = s.regHw := rfl
@[simp] theorem watSet_fen (k : Nat) (x : Wat) (s : State) : (watSet k x s).fen = s.fen := rfl
@[simp] theorem watSet_tal (k : Nat) (x : Wat) (s : State) : (watSet k x s).tal = s.tal := rfl
@[simp] theorem watSet_home (k : Nat) (x : Wat) (s : State) : (watSet k x s).home = s.home := rfl
@[simp] theorem watSet_regul (k : Nat) (x : Wat) (s : State) : (watSet k x s).regul = s.regul := rfl
@[simp] theorem watSet_mace (k : Nat) (x : Wat) (s : State) : (watSet k x s).mace = s.mace := rfl
@[simp] theorem watSet_keys (k : Nat) (x : Wat) (s : State) : (watSet k x s).keys = s.keys := rfl
@[simp] theorem watSet_ctr (k : Nat) (x : Wat) (s : State) : (watSet k x s).ctr = s.ctr := rfl
@[simp] theorem watSet_mbx (k : Nat) (x : Wat) (s : State) : (watSet k x s).mbx = s.mbx := rfl
@[simp] theorem watSet_startQ (k : Nat) (x : Wat) (s : State) : (watSet k x s).startQ = s.startQ := rfl
@[simp] theorem watSet_core (k : Nat) (x : Wat) (s : State) : (watSet k x s).core = s.core := rfl
@[simp] theorem watSet_ints (k : Nat) (x : Wat) (s : State) : (watSet k x s).ints = s.ints := rfl
@[simp] theorem watSet_log (k : Nat) (x : Wat) (s : State) : (watSet k x s).log = s.log := rfl
@[simp] theorem watSet_srv (k : Nat) (x : Wat) (s : State) : (watSet k x s).srv = s.srv := rfl
@[simp] theorem watSet_bad (k : Nat) (x : Wat) (s : State) : (watSet k x s).bad = s.bad := rfl

@[simp] theorem ownDrop_pending (x : BitVec 16) (s : State) : (ownDrop x s).pending = s.pending := rfl
@[simp] theorem ownDrop_clk (x : BitVec 16) (s : State) : (ownDrop x s).clk = s.clk := rfl
@[simp] theorem ownDrop_pins (x : BitVec 16) (s : State) : (ownDrop x s).pins = s.pins := rfl
@[simp] theorem ownDrop_pw (x : BitVec 16) (s : State) : (ownDrop x s).pw = s.pw := rfl
@[simp] theorem ownDrop_banks (x : BitVec 16) (s : State) : (ownDrop x s).banks = s.banks := rfl
@[simp] theorem ownDrop_gen (x : BitVec 16) (s : State) : (ownDrop x s).gen = s.gen := rfl
@[simp] theorem ownDrop_arr (x : BitVec 16) (s : State) : (ownDrop x s).arr = s.arr := rfl
@[simp] theorem ownDrop_mp (x : BitVec 16) (s : State) : (ownDrop x s).mp = s.mp := rfl
@[simp] theorem ownDrop_pf (x : BitVec 16) (s : State) : (ownDrop x s).pf = s.pf := rfl
@[simp] theorem ownDrop_d0 (x : BitVec 16) (s : State) : (ownDrop x s).d0 = s.d0 := rfl
@[simp] theorem ownDrop_d1 (x : BitVec 16) (s : State) : (ownDrop x s).d1 = s.d1 := rfl
@[simp] theorem ownDrop_sq (x : BitVec 16) (s : State) : (ownDrop x s).sq = s.sq := rfl
@[simp] theorem ownDrop_sout (x : BitVec 16) (s : State) : (ownDrop x s).sout = s.sout := rfl
@[simp] theorem ownDrop_regHw (x : BitVec 16) (s : State) : (ownDrop x s).regHw = s.regHw := rfl
@[simp] theorem ownDrop_fen (x : BitVec 16) (s : State) : (ownDrop x s).fen = s.fen := rfl
@[simp] theorem ownDrop_tal (x : BitVec 16) (s : State) : (ownDrop x s).tal = s.tal := rfl
@[simp] theorem ownDrop_home (x : BitVec 16) (s : State) : (ownDrop x s).home = s.home := rfl
@[simp] theorem ownDrop_regul (x : BitVec 16) (s : State) : (ownDrop x s).regul = s.regul := rfl
@[simp] theorem ownDrop_mace (x : BitVec 16) (s : State) : (ownDrop x s).mace = s.mace := rfl
@[simp] theorem ownDrop_keys (x : BitVec 16) (s : State) : (ownDrop x s).keys = s.keys := rfl
@[simp] theorem ownDrop_ctr (x : BitVec 16) (s : State) : (ownDrop x s).ctr = s.ctr := rfl
@[simp] theorem ownDrop_peat (x : BitVec 16) (s : State) : (ownDrop x s).peat = s.peat := rfl
@[simp] theorem ownDrop_mbx (x : BitVec 16) (s : State) : (ownDrop x s).mbx = s.mbx := rfl
@[simp] theorem ownDrop_startQ (x : BitVec 16) (s : State) : (ownDrop x s).startQ = s.startQ := rfl
@[simp] theorem ownDrop_core (x : BitVec 16) (s : State) : (ownDrop x s).core = s.core := rfl
@[simp] theorem ownDrop_ints (x : BitVec 16) (s : State) : (ownDrop x s).ints = s.ints := rfl
@[simp] theorem ownDrop_log (x : BitVec 16) (s : State) : (ownDrop x s).log = s.log := rfl
@[simp] theorem ownDrop_bad (x : BitVec 16) (s : State) : (ownDrop x s).bad = s.bad := rfl

@[simp] theorem inspDrop_pending (k : Nat) (s : State) : (inspDrop k s).pending = s.pending := rfl
@[simp] theorem inspDrop_clk (k : Nat) (s : State) : (inspDrop k s).clk = s.clk := rfl
@[simp] theorem inspDrop_pins (k : Nat) (s : State) : (inspDrop k s).pins = s.pins := rfl
@[simp] theorem inspDrop_pw (k : Nat) (s : State) : (inspDrop k s).pw = s.pw := rfl
@[simp] theorem inspDrop_banks (k : Nat) (s : State) : (inspDrop k s).banks = s.banks := rfl
@[simp] theorem inspDrop_gen (k : Nat) (s : State) : (inspDrop k s).gen = s.gen := rfl
@[simp] theorem inspDrop_arr (k : Nat) (s : State) : (inspDrop k s).arr = s.arr := rfl
@[simp] theorem inspDrop_mp (k : Nat) (s : State) : (inspDrop k s).mp = s.mp := rfl
@[simp] theorem inspDrop_pf (k : Nat) (s : State) : (inspDrop k s).pf = s.pf := rfl
@[simp] theorem inspDrop_d0 (k : Nat) (s : State) : (inspDrop k s).d0 = s.d0 := rfl
@[simp] theorem inspDrop_d1 (k : Nat) (s : State) : (inspDrop k s).d1 = s.d1 := rfl
@[simp] theorem inspDrop_sq (k : Nat) (s : State) : (inspDrop k s).sq = s.sq := rfl
@[simp] theorem inspDrop_sout (k : Nat) (s : State) : (inspDrop k s).sout = s.sout := rfl
@[simp] theorem inspDrop_regHw (k : Nat) (s : State) : (inspDrop k s).regHw = s.regHw := rfl
@[simp] theorem inspDrop_fen (k : Nat) (s : State) : (inspDrop k s).fen = s.fen := rfl
@[simp] theorem inspDrop_tal (k : Nat) (s : State) : (inspDrop k s).tal = s.tal := rfl
@[simp] theorem inspDrop_home (k : Nat) (s : State) : (inspDrop k s).home = s.home := rfl
@[simp] theorem inspDrop_regul (k : Nat) (s : State) : (inspDrop k s).regul = s.regul := rfl
@[simp] theorem inspDrop_mace (k : Nat) (s : State) : (inspDrop k s).mace = s.mace := rfl
@[simp] theorem inspDrop_keys (k : Nat) (s : State) : (inspDrop k s).keys = s.keys := rfl
@[simp] theorem inspDrop_ctr (k : Nat) (s : State) : (inspDrop k s).ctr = s.ctr := rfl
@[simp] theorem inspDrop_peat (k : Nat) (s : State) : (inspDrop k s).peat = s.peat := rfl
@[simp] theorem inspDrop_mbx (k : Nat) (s : State) : (inspDrop k s).mbx = s.mbx := rfl
@[simp] theorem inspDrop_startQ (k : Nat) (s : State) : (inspDrop k s).startQ = s.startQ := rfl
@[simp] theorem inspDrop_core (k : Nat) (s : State) : (inspDrop k s).core = s.core := rfl
@[simp] theorem inspDrop_ints (k : Nat) (s : State) : (inspDrop k s).ints = s.ints := rfl
@[simp] theorem inspDrop_log (k : Nat) (s : State) : (inspDrop k s).log = s.log := rfl
@[simp] theorem inspDrop_bad (k : Nat) (s : State) : (inspDrop k s).bad = s.bad := rfl

@[simp] theorem snapSet_pending (x : Option Snap) (s : State) : (snapSet x s).pending = s.pending := rfl
@[simp] theorem snapSet_clk (x : Option Snap) (s : State) : (snapSet x s).clk = s.clk := rfl
@[simp] theorem snapSet_pins (x : Option Snap) (s : State) : (snapSet x s).pins = s.pins := rfl
@[simp] theorem snapSet_pw (x : Option Snap) (s : State) : (snapSet x s).pw = s.pw := rfl
@[simp] theorem snapSet_banks (x : Option Snap) (s : State) : (snapSet x s).banks = s.banks := rfl
@[simp] theorem snapSet_gen (x : Option Snap) (s : State) : (snapSet x s).gen = s.gen := rfl
@[simp] theorem snapSet_arr (x : Option Snap) (s : State) : (snapSet x s).arr = s.arr := rfl
@[simp] theorem snapSet_mp (x : Option Snap) (s : State) : (snapSet x s).mp = s.mp := rfl
@[simp] theorem snapSet_pf (x : Option Snap) (s : State) : (snapSet x s).pf = s.pf := rfl
@[simp] theorem snapSet_d0 (x : Option Snap) (s : State) : (snapSet x s).d0 = s.d0 := rfl
@[simp] theorem snapSet_d1 (x : Option Snap) (s : State) : (snapSet x s).d1 = s.d1 := rfl
@[simp] theorem snapSet_sq (x : Option Snap) (s : State) : (snapSet x s).sq = s.sq := rfl
@[simp] theorem snapSet_sout (x : Option Snap) (s : State) : (snapSet x s).sout = s.sout := rfl
@[simp] theorem snapSet_regHw (x : Option Snap) (s : State) : (snapSet x s).regHw = s.regHw := rfl
@[simp] theorem snapSet_fen (x : Option Snap) (s : State) : (snapSet x s).fen = s.fen := rfl
@[simp] theorem snapSet_tal (x : Option Snap) (s : State) : (snapSet x s).tal = s.tal := rfl
@[simp] theorem snapSet_home (x : Option Snap) (s : State) : (snapSet x s).home = s.home := rfl
@[simp] theorem snapSet_regul (x : Option Snap) (s : State) : (snapSet x s).regul = s.regul := rfl
@[simp] theorem snapSet_mace (x : Option Snap) (s : State) : (snapSet x s).mace = s.mace := rfl
@[simp] theorem snapSet_keys (x : Option Snap) (s : State) : (snapSet x s).keys = s.keys := rfl
@[simp] theorem snapSet_ctr (x : Option Snap) (s : State) : (snapSet x s).ctr = s.ctr := rfl
@[simp] theorem snapSet_peat (x : Option Snap) (s : State) : (snapSet x s).peat = s.peat := rfl
@[simp] theorem snapSet_mbx (x : Option Snap) (s : State) : (snapSet x s).mbx = s.mbx := rfl
@[simp] theorem snapSet_startQ (x : Option Snap) (s : State) : (snapSet x s).startQ = s.startQ := rfl
@[simp] theorem snapSet_core (x : Option Snap) (s : State) : (snapSet x s).core = s.core := rfl
@[simp] theorem snapSet_ints (x : Option Snap) (s : State) : (snapSet x s).ints = s.ints := rfl
@[simp] theorem snapSet_log (x : Option Snap) (s : State) : (snapSet x s).log = s.log := rfl
@[simp] theorem snapSet_bad (x : Option Snap) (s : State) : (snapSet x s).bad = s.bad := rfl

@[simp] theorem drainSet_pending (x : Drain) (s : State) : (drainSet x s).pending = s.pending := rfl
@[simp] theorem drainSet_clk (x : Drain) (s : State) : (drainSet x s).clk = s.clk := rfl
@[simp] theorem drainSet_pins (x : Drain) (s : State) : (drainSet x s).pins = s.pins := rfl
@[simp] theorem drainSet_pw (x : Drain) (s : State) : (drainSet x s).pw = s.pw := rfl
@[simp] theorem drainSet_banks (x : Drain) (s : State) : (drainSet x s).banks = s.banks := rfl
@[simp] theorem drainSet_gen (x : Drain) (s : State) : (drainSet x s).gen = s.gen := rfl
@[simp] theorem drainSet_arr (x : Drain) (s : State) : (drainSet x s).arr = s.arr := rfl
@[simp] theorem drainSet_mp (x : Drain) (s : State) : (drainSet x s).mp = s.mp := rfl
@[simp] theorem drainSet_pf (x : Drain) (s : State) : (drainSet x s).pf = s.pf := rfl
@[simp] theorem drainSet_d0 (x : Drain) (s : State) : (drainSet x s).d0 = s.d0 := rfl
@[simp] theorem drainSet_d1 (x : Drain) (s : State) : (drainSet x s).d1 = s.d1 := rfl
@[simp] theorem drainSet_sq (x : Drain) (s : State) : (drainSet x s).sq = s.sq := rfl
@[simp] theorem drainSet_sout (x : Drain) (s : State) : (drainSet x s).sout = s.sout := rfl
@[simp] theorem drainSet_regHw (x : Drain) (s : State) : (drainSet x s).regHw = s.regHw := rfl
@[simp] theorem drainSet_fen (x : Drain) (s : State) : (drainSet x s).fen = s.fen := rfl
@[simp] theorem drainSet_tal (x : Drain) (s : State) : (drainSet x s).tal = s.tal := rfl
@[simp] theorem drainSet_home (x : Drain) (s : State) : (drainSet x s).home = s.home := rfl
@[simp] theorem drainSet_regul (x : Drain) (s : State) : (drainSet x s).regul = s.regul := rfl
@[simp] theorem drainSet_mace (x : Drain) (s : State) : (drainSet x s).mace = s.mace := rfl
@[simp] theorem drainSet_keys (x : Drain) (s : State) : (drainSet x s).keys = s.keys := rfl
@[simp] theorem drainSet_ctr (x : Drain) (s : State) : (drainSet x s).ctr = s.ctr := rfl
@[simp] theorem drainSet_peat (x : Drain) (s : State) : (drainSet x s).peat = s.peat := rfl
@[simp] theorem drainSet_mbx (x : Drain) (s : State) : (drainSet x s).mbx = s.mbx := rfl
@[simp] theorem drainSet_startQ (x : Drain) (s : State) : (drainSet x s).startQ = s.startQ := rfl
@[simp] theorem drainSet_core (x : Drain) (s : State) : (drainSet x s).core = s.core := rfl
@[simp] theorem drainSet_ints (x : Drain) (s : State) : (drainSet x s).ints = s.ints := rfl
@[simp] theorem drainSet_log (x : Drain) (s : State) : (drainSet x s).log = s.log := rfl
@[simp] theorem drainSet_bad (x : Drain) (s : State) : (drainSet x s).bad = s.bad := rfl

@[simp] theorem tswSet_pending (x : Option Tsw) (s : State) : (tswSet x s).pending = s.pending := rfl
@[simp] theorem tswSet_clk (x : Option Tsw) (s : State) : (tswSet x s).clk = s.clk := rfl
@[simp] theorem tswSet_pins (x : Option Tsw) (s : State) : (tswSet x s).pins = s.pins := rfl
@[simp] theorem tswSet_pw (x : Option Tsw) (s : State) : (tswSet x s).pw = s.pw := rfl
@[simp] theorem tswSet_banks (x : Option Tsw) (s : State) : (tswSet x s).banks = s.banks := rfl
@[simp] theorem tswSet_gen (x : Option Tsw) (s : State) : (tswSet x s).gen = s.gen := rfl
@[simp] theorem tswSet_arr (x : Option Tsw) (s : State) : (tswSet x s).arr = s.arr := rfl
@[simp] theorem tswSet_mp (x : Option Tsw) (s : State) : (tswSet x s).mp = s.mp := rfl
@[simp] theorem tswSet_pf (x : Option Tsw) (s : State) : (tswSet x s).pf = s.pf := rfl
@[simp] theorem tswSet_d0 (x : Option Tsw) (s : State) : (tswSet x s).d0 = s.d0 := rfl
@[simp] theorem tswSet_d1 (x : Option Tsw) (s : State) : (tswSet x s).d1 = s.d1 := rfl
@[simp] theorem tswSet_sq (x : Option Tsw) (s : State) : (tswSet x s).sq = s.sq := rfl
@[simp] theorem tswSet_sout (x : Option Tsw) (s : State) : (tswSet x s).sout = s.sout := rfl
@[simp] theorem tswSet_regHw (x : Option Tsw) (s : State) : (tswSet x s).regHw = s.regHw := rfl
@[simp] theorem tswSet_fen (x : Option Tsw) (s : State) : (tswSet x s).fen = s.fen := rfl
@[simp] theorem tswSet_tal (x : Option Tsw) (s : State) : (tswSet x s).tal = s.tal := rfl
@[simp] theorem tswSet_home (x : Option Tsw) (s : State) : (tswSet x s).home = s.home := rfl
@[simp] theorem tswSet_regul (x : Option Tsw) (s : State) : (tswSet x s).regul = s.regul := rfl
@[simp] theorem tswSet_mace (x : Option Tsw) (s : State) : (tswSet x s).mace = s.mace := rfl
@[simp] theorem tswSet_keys (x : Option Tsw) (s : State) : (tswSet x s).keys = s.keys := rfl
@[simp] theorem tswSet_ctr (x : Option Tsw) (s : State) : (tswSet x s).ctr = s.ctr := rfl
@[simp] theorem tswSet_peat (x : Option Tsw) (s : State) : (tswSet x s).peat = s.peat := rfl
@[simp] theorem tswSet_mbx (x : Option Tsw) (s : State) : (tswSet x s).mbx = s.mbx := rfl
@[simp] theorem tswSet_startQ (x : Option Tsw) (s : State) : (tswSet x s).startQ = s.startQ := rfl
@[simp] theorem tswSet_core (x : Option Tsw) (s : State) : (tswSet x s).core = s.core := rfl
@[simp] theorem tswSet_ints (x : Option Tsw) (s : State) : (tswSet x s).ints = s.ints := rfl
@[simp] theorem tswSet_log (x : Option Tsw) (s : State) : (tswSet x s).log = s.log := rfl
@[simp] theorem tswSet_bad (x : Option Tsw) (s : State) : (tswSet x s).bad = s.bad := rfl

@[simp] theorem rehashSet_pending (x : Rehash) (s : State) : (rehashSet x s).pending = s.pending := rfl
@[simp] theorem rehashSet_clk (x : Rehash) (s : State) : (rehashSet x s).clk = s.clk := rfl
@[simp] theorem rehashSet_pins (x : Rehash) (s : State) : (rehashSet x s).pins = s.pins := rfl
@[simp] theorem rehashSet_pw (x : Rehash) (s : State) : (rehashSet x s).pw = s.pw := rfl
@[simp] theorem rehashSet_banks (x : Rehash) (s : State) : (rehashSet x s).banks = s.banks := rfl
@[simp] theorem rehashSet_arr (x : Rehash) (s : State) : (rehashSet x s).arr = s.arr := rfl
@[simp] theorem rehashSet_mp (x : Rehash) (s : State) : (rehashSet x s).mp = s.mp := rfl
@[simp] theorem rehashSet_pf (x : Rehash) (s : State) : (rehashSet x s).pf = s.pf := rfl
@[simp] theorem rehashSet_d0 (x : Rehash) (s : State) : (rehashSet x s).d0 = s.d0 := rfl
@[simp] theorem rehashSet_d1 (x : Rehash) (s : State) : (rehashSet x s).d1 = s.d1 := rfl
@[simp] theorem rehashSet_sq (x : Rehash) (s : State) : (rehashSet x s).sq = s.sq := rfl
@[simp] theorem rehashSet_sout (x : Rehash) (s : State) : (rehashSet x s).sout = s.sout := rfl
@[simp] theorem rehashSet_regHw (x : Rehash) (s : State) : (rehashSet x s).regHw = s.regHw := rfl
@[simp] theorem rehashSet_fen (x : Rehash) (s : State) : (rehashSet x s).fen = s.fen := rfl
@[simp] theorem rehashSet_tal (x : Rehash) (s : State) : (rehashSet x s).tal = s.tal := rfl
@[simp] theorem rehashSet_home (x : Rehash) (s : State) : (rehashSet x s).home = s.home := rfl
@[simp] theorem rehashSet_regul (x : Rehash) (s : State) : (rehashSet x s).regul = s.regul := rfl
@[simp] theorem rehashSet_mace (x : Rehash) (s : State) : (rehashSet x s).mace = s.mace := rfl
@[simp] theorem rehashSet_keys (x : Rehash) (s : State) : (rehashSet x s).keys = s.keys := rfl
@[simp] theorem rehashSet_ctr (x : Rehash) (s : State) : (rehashSet x s).ctr = s.ctr := rfl
@[simp] theorem rehashSet_peat (x : Rehash) (s : State) : (rehashSet x s).peat = s.peat := rfl
@[simp] theorem rehashSet_mbx (x : Rehash) (s : State) : (rehashSet x s).mbx = s.mbx := rfl
@[simp] theorem rehashSet_startQ (x : Rehash) (s : State) : (rehashSet x s).startQ = s.startQ := rfl
@[simp] theorem rehashSet_core (x : Rehash) (s : State) : (rehashSet x s).core = s.core := rfl
@[simp] theorem rehashSet_ints (x : Rehash) (s : State) : (rehashSet x s).ints = s.ints := rfl
@[simp] theorem rehashSet_log (x : Rehash) (s : State) : (rehashSet x s).log = s.log := rfl
@[simp] theorem rehashSet_srv (x : Rehash) (s : State) : (rehashSet x s).srv = s.srv := rfl
@[simp] theorem rehashSet_bad (x : Rehash) (s : State) : (rehashSet x s).bad = s.bad := rfl

@[simp] theorem convSet_pending (x : Option Conv) (s : State) : (convSet x s).pending = s.pending := rfl
@[simp] theorem convSet_clk (x : Option Conv) (s : State) : (convSet x s).clk = s.clk := rfl
@[simp] theorem convSet_pins (x : Option Conv) (s : State) : (convSet x s).pins = s.pins := rfl
@[simp] theorem convSet_pw (x : Option Conv) (s : State) : (convSet x s).pw = s.pw := rfl
@[simp] theorem convSet_banks (x : Option Conv) (s : State) : (convSet x s).banks = s.banks := rfl
@[simp] theorem convSet_arr (x : Option Conv) (s : State) : (convSet x s).arr = s.arr := rfl
@[simp] theorem convSet_mp (x : Option Conv) (s : State) : (convSet x s).mp = s.mp := rfl
@[simp] theorem convSet_pf (x : Option Conv) (s : State) : (convSet x s).pf = s.pf := rfl
@[simp] theorem convSet_d0 (x : Option Conv) (s : State) : (convSet x s).d0 = s.d0 := rfl
@[simp] theorem convSet_d1 (x : Option Conv) (s : State) : (convSet x s).d1 = s.d1 := rfl
@[simp] theorem convSet_sq (x : Option Conv) (s : State) : (convSet x s).sq = s.sq := rfl
@[simp] theorem convSet_sout (x : Option Conv) (s : State) : (convSet x s).sout = s.sout := rfl
@[simp] theorem convSet_regHw (x : Option Conv) (s : State) : (convSet x s).regHw = s.regHw := rfl
@[simp] theorem convSet_fen (x : Option Conv) (s : State) : (convSet x s).fen = s.fen := rfl
@[simp] theorem convSet_tal (x : Option Conv) (s : State) : (convSet x s).tal = s.tal := rfl
@[simp] theorem convSet_home (x : Option Conv) (s : State) : (convSet x s).home = s.home := rfl
@[simp] theorem convSet_regul (x : Option Conv) (s : State) : (convSet x s).regul = s.regul := rfl
@[simp] theorem convSet_mace (x : Option Conv) (s : State) : (convSet x s).mace = s.mace := rfl
@[simp] theorem convSet_keys (x : Option Conv) (s : State) : (convSet x s).keys = s.keys := rfl
@[simp] theorem convSet_ctr (x : Option Conv) (s : State) : (convSet x s).ctr = s.ctr := rfl
@[simp] theorem convSet_peat (x : Option Conv) (s : State) : (convSet x s).peat = s.peat := rfl
@[simp] theorem convSet_mbx (x : Option Conv) (s : State) : (convSet x s).mbx = s.mbx := rfl
@[simp] theorem convSet_startQ (x : Option Conv) (s : State) : (convSet x s).startQ = s.startQ := rfl
@[simp] theorem convSet_core (x : Option Conv) (s : State) : (convSet x s).core = s.core := rfl
@[simp] theorem convSet_ints (x : Option Conv) (s : State) : (convSet x s).ints = s.ints := rfl
@[simp] theorem convSet_log (x : Option Conv) (s : State) : (convSet x s).log = s.log := rfl
@[simp] theorem convSet_srv (x : Option Conv) (s : State) : (convSet x s).srv = s.srv := rfl
@[simp] theorem convSet_bad (x : Option Conv) (s : State) : (convSet x s).bad = s.bad := rfl

@[simp] theorem waitSet_pending (x : CommitWait) (s : State) : (waitSet x s).pending = s.pending := rfl
@[simp] theorem waitSet_clk (x : CommitWait) (s : State) : (waitSet x s).clk = s.clk := rfl
@[simp] theorem waitSet_pins (x : CommitWait) (s : State) : (waitSet x s).pins = s.pins := rfl
@[simp] theorem waitSet_pw (x : CommitWait) (s : State) : (waitSet x s).pw = s.pw := rfl
@[simp] theorem waitSet_banks (x : CommitWait) (s : State) : (waitSet x s).banks = s.banks := rfl
@[simp] theorem waitSet_arr (x : CommitWait) (s : State) : (waitSet x s).arr = s.arr := rfl
@[simp] theorem waitSet_mp (x : CommitWait) (s : State) : (waitSet x s).mp = s.mp := rfl
@[simp] theorem waitSet_pf (x : CommitWait) (s : State) : (waitSet x s).pf = s.pf := rfl
@[simp] theorem waitSet_d0 (x : CommitWait) (s : State) : (waitSet x s).d0 = s.d0 := rfl
@[simp] theorem waitSet_d1 (x : CommitWait) (s : State) : (waitSet x s).d1 = s.d1 := rfl
@[simp] theorem waitSet_sq (x : CommitWait) (s : State) : (waitSet x s).sq = s.sq := rfl
@[simp] theorem waitSet_sout (x : CommitWait) (s : State) : (waitSet x s).sout = s.sout := rfl
@[simp] theorem waitSet_regHw (x : CommitWait) (s : State) : (waitSet x s).regHw = s.regHw := rfl
@[simp] theorem waitSet_fen (x : CommitWait) (s : State) : (waitSet x s).fen = s.fen := rfl
@[simp] theorem waitSet_tal (x : CommitWait) (s : State) : (waitSet x s).tal = s.tal := rfl
@[simp] theorem waitSet_home (x : CommitWait) (s : State) : (waitSet x s).home = s.home := rfl
@[simp] theorem waitSet_regul (x : CommitWait) (s : State) : (waitSet x s).regul = s.regul := rfl
@[simp] theorem waitSet_mace (x : CommitWait) (s : State) : (waitSet x s).mace = s.mace := rfl
@[simp] theorem waitSet_keys (x : CommitWait) (s : State) : (waitSet x s).keys = s.keys := rfl
@[simp] theorem waitSet_ctr (x : CommitWait) (s : State) : (waitSet x s).ctr = s.ctr := rfl
@[simp] theorem waitSet_peat (x : CommitWait) (s : State) : (waitSet x s).peat = s.peat := rfl
@[simp] theorem waitSet_mbx (x : CommitWait) (s : State) : (waitSet x s).mbx = s.mbx := rfl
@[simp] theorem waitSet_startQ (x : CommitWait) (s : State) : (waitSet x s).startQ = s.startQ := rfl
@[simp] theorem waitSet_core (x : CommitWait) (s : State) : (waitSet x s).core = s.core := rfl
@[simp] theorem waitSet_ints (x : CommitWait) (s : State) : (waitSet x s).ints = s.ints := rfl
@[simp] theorem waitSet_log (x : CommitWait) (s : State) : (waitSet x s).log = s.log := rfl
@[simp] theorem waitSet_srv (x : CommitWait) (s : State) : (waitSet x s).srv = s.srv := rfl
@[simp] theorem waitSet_bad (x : CommitWait) (s : State) : (waitSet x s).bad = s.bad := rfl

@[simp] theorem evqDrop_pending (s : State) : (evqDrop s).pending = s.pending := rfl
@[simp] theorem evqDrop_clk (s : State) : (evqDrop s).clk = s.clk := rfl
@[simp] theorem evqDrop_pins (s : State) : (evqDrop s).pins = s.pins := rfl
@[simp] theorem evqDrop_pw (s : State) : (evqDrop s).pw = s.pw := rfl
@[simp] theorem evqDrop_banks (s : State) : (evqDrop s).banks = s.banks := rfl
@[simp] theorem evqDrop_gen (s : State) : (evqDrop s).gen = s.gen := rfl
@[simp] theorem evqDrop_arr (s : State) : (evqDrop s).arr = s.arr := rfl
@[simp] theorem evqDrop_mp (s : State) : (evqDrop s).mp = s.mp := rfl
@[simp] theorem evqDrop_pf (s : State) : (evqDrop s).pf = s.pf := rfl
@[simp] theorem evqDrop_d0 (s : State) : (evqDrop s).d0 = s.d0 := rfl
@[simp] theorem evqDrop_d1 (s : State) : (evqDrop s).d1 = s.d1 := rfl
@[simp] theorem evqDrop_sq (s : State) : (evqDrop s).sq = s.sq := rfl
@[simp] theorem evqDrop_sout (s : State) : (evqDrop s).sout = s.sout := rfl
@[simp] theorem evqDrop_regHw (s : State) : (evqDrop s).regHw = s.regHw := rfl
@[simp] theorem evqDrop_fen (s : State) : (evqDrop s).fen = s.fen := rfl
@[simp] theorem evqDrop_tal (s : State) : (evqDrop s).tal = s.tal := rfl
@[simp] theorem evqDrop_home (s : State) : (evqDrop s).home = s.home := rfl
@[simp] theorem evqDrop_regul (s : State) : (evqDrop s).regul = s.regul := rfl
@[simp] theorem evqDrop_mace (s : State) : (evqDrop s).mace = s.mace := rfl
@[simp] theorem evqDrop_keys (s : State) : (evqDrop s).keys = s.keys := rfl
@[simp] theorem evqDrop_ctr (s : State) : (evqDrop s).ctr = s.ctr := rfl
@[simp] theorem evqDrop_peat (s : State) : (evqDrop s).peat = s.peat := rfl
@[simp] theorem evqDrop_mbx (s : State) : (evqDrop s).mbx = s.mbx := rfl
@[simp] theorem evqDrop_startQ (s : State) : (evqDrop s).startQ = s.startQ := rfl
@[simp] theorem evqDrop_core (s : State) : (evqDrop s).core = s.core := rfl
@[simp] theorem evqDrop_ints (s : State) : (evqDrop s).ints = s.ints := rfl
@[simp] theorem evqDrop_srv (s : State) : (evqDrop s).srv = s.srv := rfl
@[simp] theorem evqDrop_bad (s : State) : (evqDrop s).bad = s.bad := rfl

@[simp] theorem errDrop_pending (s : State) : (errDrop s).pending = s.pending := rfl
@[simp] theorem errDrop_clk (s : State) : (errDrop s).clk = s.clk := rfl
@[simp] theorem errDrop_pins (s : State) : (errDrop s).pins = s.pins := rfl
@[simp] theorem errDrop_pw (s : State) : (errDrop s).pw = s.pw := rfl
@[simp] theorem errDrop_banks (s : State) : (errDrop s).banks = s.banks := rfl
@[simp] theorem errDrop_gen (s : State) : (errDrop s).gen = s.gen := rfl
@[simp] theorem errDrop_arr (s : State) : (errDrop s).arr = s.arr := rfl
@[simp] theorem errDrop_mp (s : State) : (errDrop s).mp = s.mp := rfl
@[simp] theorem errDrop_pf (s : State) : (errDrop s).pf = s.pf := rfl
@[simp] theorem errDrop_d0 (s : State) : (errDrop s).d0 = s.d0 := rfl
@[simp] theorem errDrop_d1 (s : State) : (errDrop s).d1 = s.d1 := rfl
@[simp] theorem errDrop_sq (s : State) : (errDrop s).sq = s.sq := rfl
@[simp] theorem errDrop_sout (s : State) : (errDrop s).sout = s.sout := rfl
@[simp] theorem errDrop_regHw (s : State) : (errDrop s).regHw = s.regHw := rfl
@[simp] theorem errDrop_fen (s : State) : (errDrop s).fen = s.fen := rfl
@[simp] theorem errDrop_tal (s : State) : (errDrop s).tal = s.tal := rfl
@[simp] theorem errDrop_home (s : State) : (errDrop s).home = s.home := rfl
@[simp] theorem errDrop_regul (s : State) : (errDrop s).regul = s.regul := rfl
@[simp] theorem errDrop_mace (s : State) : (errDrop s).mace = s.mace := rfl
@[simp] theorem errDrop_keys (s : State) : (errDrop s).keys = s.keys := rfl
@[simp] theorem errDrop_ctr (s : State) : (errDrop s).ctr = s.ctr := rfl
@[simp] theorem errDrop_peat (s : State) : (errDrop s).peat = s.peat := rfl
@[simp] theorem errDrop_mbx (s : State) : (errDrop s).mbx = s.mbx := rfl
@[simp] theorem errDrop_startQ (s : State) : (errDrop s).startQ = s.startQ := rfl
@[simp] theorem errDrop_core (s : State) : (errDrop s).core = s.core := rfl
@[simp] theorem errDrop_ints (s : State) : (errDrop s).ints = s.ints := rfl
@[simp] theorem errDrop_srv (s : State) : (errDrop s).srv = s.srv := rfl
@[simp] theorem errDrop_bad (s : State) : (errDrop s).bad = s.bad := rfl

@[simp] theorem alertWrite_pending (k : Nat) (s : State) : (alertWrite k s).pending = s.pending := rfl
@[simp] theorem alertWrite_clk (k : Nat) (s : State) : (alertWrite k s).clk = s.clk := rfl
@[simp] theorem alertWrite_pw (k : Nat) (s : State) : (alertWrite k s).pw = s.pw := rfl
@[simp] theorem alertWrite_banks (k : Nat) (s : State) : (alertWrite k s).banks = s.banks := rfl
@[simp] theorem alertWrite_gen (k : Nat) (s : State) : (alertWrite k s).gen = s.gen := rfl
@[simp] theorem alertWrite_arr (k : Nat) (s : State) : (alertWrite k s).arr = s.arr := rfl
@[simp] theorem alertWrite_mp (k : Nat) (s : State) : (alertWrite k s).mp = s.mp := rfl
@[simp] theorem alertWrite_pf (k : Nat) (s : State) : (alertWrite k s).pf = s.pf := rfl
@[simp] theorem alertWrite_d0 (k : Nat) (s : State) : (alertWrite k s).d0 = s.d0 := rfl
@[simp] theorem alertWrite_d1 (k : Nat) (s : State) : (alertWrite k s).d1 = s.d1 := rfl
@[simp] theorem alertWrite_sq (k : Nat) (s : State) : (alertWrite k s).sq = s.sq := rfl
@[simp] theorem alertWrite_sout (k : Nat) (s : State) : (alertWrite k s).sout = s.sout := rfl
@[simp] theorem alertWrite_regHw (k : Nat) (s : State) : (alertWrite k s).regHw = s.regHw := rfl
@[simp] theorem alertWrite_fen (k : Nat) (s : State) : (alertWrite k s).fen = s.fen := rfl
@[simp] theorem alertWrite_tal (k : Nat) (s : State) : (alertWrite k s).tal = s.tal := rfl
@[simp] theorem alertWrite_home (k : Nat) (s : State) : (alertWrite k s).home = s.home := rfl
@[simp] theorem alertWrite_regul (k : Nat) (s : State) : (alertWrite k s).regul = s.regul := rfl
@[simp] theorem alertWrite_mace (k : Nat) (s : State) : (alertWrite k s).mace = s.mace := rfl
@[simp] theorem alertWrite_keys (k : Nat) (s : State) : (alertWrite k s).keys = s.keys := rfl
@[simp] theorem alertWrite_ctr (k : Nat) (s : State) : (alertWrite k s).ctr = s.ctr := rfl
@[simp] theorem alertWrite_peat (k : Nat) (s : State) : (alertWrite k s).peat = s.peat := rfl
@[simp] theorem alertWrite_mbx (k : Nat) (s : State) : (alertWrite k s).mbx = s.mbx := rfl
@[simp] theorem alertWrite_startQ (k : Nat) (s : State) : (alertWrite k s).startQ = s.startQ := rfl
@[simp] theorem alertWrite_core (k : Nat) (s : State) : (alertWrite k s).core = s.core := rfl
@[simp] theorem alertWrite_log (k : Nat) (s : State) : (alertWrite k s).log = s.log := rfl
@[simp] theorem alertWrite_srv (k : Nat) (s : State) : (alertWrite k s).srv = s.srv := rfl
@[simp] theorem alertWrite_bad (k : Nat) (s : State) : (alertWrite k s).bad = s.bad := rfl

@[simp] theorem capAt_pending (c : CapReq) (s : State) : (capAt c s).pending = s.pending := rfl
@[simp] theorem capAt_clk (c : CapReq) (s : State) : (capAt c s).clk = s.clk := rfl
@[simp] theorem capAt_pins (c : CapReq) (s : State) : (capAt c s).pins = s.pins := rfl
@[simp] theorem capAt_pw (c : CapReq) (s : State) : (capAt c s).pw = s.pw := rfl
@[simp] theorem capAt_banks (c : CapReq) (s : State) : (capAt c s).banks = s.banks := rfl
@[simp] theorem capAt_gen (c : CapReq) (s : State) : (capAt c s).gen = s.gen := rfl
@[simp] theorem capAt_arr (c : CapReq) (s : State) : (capAt c s).arr = s.arr := rfl
@[simp] theorem capAt_mp (c : CapReq) (s : State) : (capAt c s).mp = s.mp := rfl
@[simp] theorem capAt_pf (c : CapReq) (s : State) : (capAt c s).pf = s.pf := rfl
@[simp] theorem capAt_d0 (c : CapReq) (s : State) : (capAt c s).d0 = s.d0 := rfl
@[simp] theorem capAt_d1 (c : CapReq) (s : State) : (capAt c s).d1 = s.d1 := rfl
@[simp] theorem capAt_sq (c : CapReq) (s : State) : (capAt c s).sq = s.sq := rfl
@[simp] theorem capAt_sout (c : CapReq) (s : State) : (capAt c s).sout = s.sout := rfl
@[simp] theorem capAt_regHw (c : CapReq) (s : State) : (capAt c s).regHw = s.regHw := rfl
@[simp] theorem capAt_fen (c : CapReq) (s : State) : (capAt c s).fen = s.fen := rfl
@[simp] theorem capAt_tal (c : CapReq) (s : State) : (capAt c s).tal = s.tal := rfl
@[simp] theorem capAt_home (c : CapReq) (s : State) : (capAt c s).home = s.home := rfl
@[simp] theorem capAt_regul (c : CapReq) (s : State) : (capAt c s).regul = s.regul := rfl
@[simp] theorem capAt_mace (c : CapReq) (s : State) : (capAt c s).mace = s.mace := rfl
@[simp] theorem capAt_keys (c : CapReq) (s : State) : (capAt c s).keys = s.keys := rfl
@[simp] theorem capAt_peat (c : CapReq) (s : State) : (capAt c s).peat = s.peat := rfl
@[simp] theorem capAt_mbx (c : CapReq) (s : State) : (capAt c s).mbx = s.mbx := rfl
@[simp] theorem capAt_startQ (c : CapReq) (s : State) : (capAt c s).startQ = s.startQ := rfl
@[simp] theorem capAt_core (c : CapReq) (s : State) : (capAt c s).core = s.core := rfl
@[simp] theorem capAt_ints (c : CapReq) (s : State) : (capAt c s).ints = s.ints := rfl
@[simp] theorem capAt_log (c : CapReq) (s : State) : (capAt c s).log = s.log := rfl
@[simp] theorem capAt_srv (c : CapReq) (s : State) : (capAt c s).srv = s.srv := rfl
@[simp] theorem capAt_bad (c : CapReq) (s : State) : (capAt c s).bad = s.bad := rfl

@[simp] theorem portSet_pending (p : DPort) (x : PortSt) (s : State) : (portSet p x s).pending = s.pending := by cases p <;> rfl
@[simp] theorem portSet_clk (p : DPort) (x : PortSt) (s : State) : (portSet p x s).clk = s.clk := by cases p <;> rfl
@[simp] theorem portSet_pins (p : DPort) (x : PortSt) (s : State) : (portSet p x s).pins = s.pins := by cases p <;> rfl
@[simp] theorem portSet_pw (p : DPort) (x : PortSt) (s : State) : (portSet p x s).pw = s.pw := by cases p <;> rfl
@[simp] theorem portSet_banks (p : DPort) (x : PortSt) (s : State) : (portSet p x s).banks = s.banks := by cases p <;> rfl
@[simp] theorem portSet_gen (p : DPort) (x : PortSt) (s : State) : (portSet p x s).gen = s.gen := by cases p <;> rfl
@[simp] theorem portSet_arr (p : DPort) (x : PortSt) (s : State) : (portSet p x s).arr = s.arr := by cases p <;> rfl
@[simp] theorem portSet_mp (p : DPort) (x : PortSt) (s : State) : (portSet p x s).mp = s.mp := by cases p <;> rfl
@[simp] theorem portSet_pf (p : DPort) (x : PortSt) (s : State) : (portSet p x s).pf = s.pf := by cases p <;> rfl
@[simp] theorem portSet_sq (p : DPort) (x : PortSt) (s : State) : (portSet p x s).sq = s.sq := by cases p <;> rfl
@[simp] theorem portSet_sout (p : DPort) (x : PortSt) (s : State) : (portSet p x s).sout = s.sout := by cases p <;> rfl
@[simp] theorem portSet_regHw (p : DPort) (x : PortSt) (s : State) : (portSet p x s).regHw = s.regHw := by cases p <;> rfl
@[simp] theorem portSet_fen (p : DPort) (x : PortSt) (s : State) : (portSet p x s).fen = s.fen := by cases p <;> rfl
@[simp] theorem portSet_tal (p : DPort) (x : PortSt) (s : State) : (portSet p x s).tal = s.tal := by cases p <;> rfl
@[simp] theorem portSet_home (p : DPort) (x : PortSt) (s : State) : (portSet p x s).home = s.home := by cases p <;> rfl
@[simp] theorem portSet_regul (p : DPort) (x : PortSt) (s : State) : (portSet p x s).regul = s.regul := by cases p <;> rfl
@[simp] theorem portSet_mace (p : DPort) (x : PortSt) (s : State) : (portSet p x s).mace = s.mace := by cases p <;> rfl
@[simp] theorem portSet_keys (p : DPort) (x : PortSt) (s : State) : (portSet p x s).keys = s.keys := by cases p <;> rfl
@[simp] theorem portSet_ctr (p : DPort) (x : PortSt) (s : State) : (portSet p x s).ctr = s.ctr := by cases p <;> rfl
@[simp] theorem portSet_peat (p : DPort) (x : PortSt) (s : State) : (portSet p x s).peat = s.peat := by cases p <;> rfl
@[simp] theorem portSet_mbx (p : DPort) (x : PortSt) (s : State) : (portSet p x s).mbx = s.mbx := by cases p <;> rfl
@[simp] theorem portSet_startQ (p : DPort) (x : PortSt) (s : State) : (portSet p x s).startQ = s.startQ := by cases p <;> rfl
@[simp] theorem portSet_core (p : DPort) (x : PortSt) (s : State) : (portSet p x s).core = s.core := by cases p <;> rfl
@[simp] theorem portSet_ints (p : DPort) (x : PortSt) (s : State) : (portSet p x s).ints = s.ints := by cases p <;> rfl
@[simp] theorem portSet_log (p : DPort) (x : PortSt) (s : State) : (portSet p x s).log = s.log := by cases p <;> rfl
@[simp] theorem portSet_srv (p : DPort) (x : PortSt) (s : State) : (portSet p x s).srv = s.srv := by cases p <;> rfl
@[simp] theorem portSet_bad (p : DPort) (x : PortSt) (s : State) : (portSet p x s).bad = s.bad := by cases p <;> rfl

@[simp] theorem emit_pending (p : Port) (o : Out) (s : State) : (emit p o s).pending = s.pending := by cases p <;> rfl
@[simp] theorem emit_clk (p : Port) (o : Out) (s : State) : (emit p o s).clk = s.clk := by cases p <;> rfl
@[simp] theorem emit_pins (p : Port) (o : Out) (s : State) : (emit p o s).pins = s.pins := by cases p <;> rfl
@[simp] theorem emit_pw (p : Port) (o : Out) (s : State) : (emit p o s).pw = s.pw := by cases p <;> rfl
@[simp] theorem emit_banks (p : Port) (o : Out) (s : State) : (emit p o s).banks = s.banks := by cases p <;> rfl
@[simp] theorem emit_gen (p : Port) (o : Out) (s : State) : (emit p o s).gen = s.gen := by cases p <;> rfl
@[simp] theorem emit_arr (p : Port) (o : Out) (s : State) : (emit p o s).arr = s.arr := by cases p <;> rfl
@[simp] theorem emit_mp (p : Port) (o : Out) (s : State) : (emit p o s).mp = s.mp := by cases p <;> rfl
@[simp] theorem emit_pf (p : Port) (o : Out) (s : State) : (emit p o s).pf = s.pf := by cases p <;> rfl
@[simp] theorem emit_sq (p : Port) (o : Out) (s : State) : (emit p o s).sq = s.sq := by cases p <;> rfl
@[simp] theorem emit_regHw (p : Port) (o : Out) (s : State) : (emit p o s).regHw = s.regHw := by cases p <;> rfl
@[simp] theorem emit_fen (p : Port) (o : Out) (s : State) : (emit p o s).fen = s.fen := by cases p <;> rfl
@[simp] theorem emit_tal (p : Port) (o : Out) (s : State) : (emit p o s).tal = s.tal := by cases p <;> rfl
@[simp] theorem emit_home (p : Port) (o : Out) (s : State) : (emit p o s).home = s.home := by cases p <;> rfl
@[simp] theorem emit_regul (p : Port) (o : Out) (s : State) : (emit p o s).regul = s.regul := by cases p <;> rfl
@[simp] theorem emit_mace (p : Port) (o : Out) (s : State) : (emit p o s).mace = s.mace := by cases p <;> rfl
@[simp] theorem emit_keys (p : Port) (o : Out) (s : State) : (emit p o s).keys = s.keys := by cases p <;> rfl
@[simp] theorem emit_ctr (p : Port) (o : Out) (s : State) : (emit p o s).ctr = s.ctr := by cases p <;> rfl
@[simp] theorem emit_peat (p : Port) (o : Out) (s : State) : (emit p o s).peat = s.peat := by cases p <;> rfl
@[simp] theorem emit_mbx (p : Port) (o : Out) (s : State) : (emit p o s).mbx = s.mbx := by cases p <;> rfl
@[simp] theorem emit_startQ (p : Port) (o : Out) (s : State) : (emit p o s).startQ = s.startQ := by cases p <;> rfl
@[simp] theorem emit_core (p : Port) (o : Out) (s : State) : (emit p o s).core = s.core := by cases p <;> rfl
@[simp] theorem emit_ints (p : Port) (o : Out) (s : State) : (emit p o s).ints = s.ints := by cases p <;> rfl
@[simp] theorem emit_log (p : Port) (o : Out) (s : State) : (emit p o s).log = s.log := by cases p <;> rfl
@[simp] theorem emit_srv (p : Port) (o : Out) (s : State) : (emit p o s).srv = s.srv := by cases p <;> rfl
@[simp] theorem emit_bad (p : Port) (o : Out) (s : State) : (emit p o s).bad = s.bad := by cases p <;> rfl

end Sys2Proof.Machine
end

