-- ==== Sys2Proof/Laws/Store.lean ====
section
/-! SUPPORT. Laws of the sparse stores: what a write leaves at every key, and the canonical form. -/

namespace Sys2Proof.Machine

/-- A write leaves every other key as it was. -/
@[simp] theorem sget_sset_ne {α : Type} [DecidableEq α] (d : Nat → α) (st : Store α) {k j : Nat} (v : α) (h : j ≠ k) :
    sget d (sset d st k v) j = sget d st j := by
  induction st with
  | nil => unfold sset; split <;> simp [sget, h]
  | cons x r ih =>
    obtain ⟨i, w⟩ := x
    unfold sset
    split
    · split <;> simp [sget, h]
    · split
      · subst_vars
        split <;> simp [sget, h]
      · by_cases e : j = i
        · simp [sget, e]
        · simp [sget, e, ih]

/-- A value other than the default reads back. -/
theorem sget_sset_self {α : Type} [DecidableEq α] (d : Nat → α) (st : Store α) (k : Nat) {v : α} (h : v ≠ d k) :
    sget d (sset d st k v) k = v := by
  induction st with
  | nil => simp [sset, sget, h]
  | cons x r ih =>
    obtain ⟨i, w⟩ := x
    unfold sset
    split
    · simp [sget]
    · split
      · simp [sget]
      · rename_i e
        simp [sget, e, ih]

theorem sget_above {α : Type} [DecidableEq α] (d : Nat → α) (st : Store α) {lo k : Nat} (h : swfFrom d (some lo) st = true) (hk : k ≤ lo) :
    sget d st k = d k := by
  induction st generalizing lo with
  | nil => rfl
  | cons x r ih =>
    obtain ⟨i, w⟩ := x
    simp only [swfFrom, Bool.and_eq_true, decide_eq_true_eq] at h
    have hi : k ≠ i := by omega
    simp only [sget, hi, if_false]
    exact ih h.2 (by omega)

/-- In a store of canonical form every value reads back. -/
theorem sget_sset {α : Type} [DecidableEq α] (d : Nat → α) (st : Store α) (k : Nat) (v : α) (lo : Option Nat)
    (h : swfFrom d lo st = true) : sget d (sset d st k v) k = v := by
  by_cases hv : v = d k
  · induction st generalizing lo with
    | nil => simp [sset, sget, hv]
    | cons x r ih =>
      obtain ⟨i, w⟩ := x
      have hr : swfFrom d (some i) r = true := by
        simp only [swfFrom, Bool.and_eq_true] at h
        exact h.2
      unfold sset
      split
      · rename_i hk
        have : k ≠ i := by omega
        simp only [sget, this, if_false]
        rw [sget_above d r hr (by omega), hv]
      · split
        · rename_i e
          subst e
          rw [sget_above d r hr (Nat.le_refl _), hv]
        · rename_i e
          simp only [sget, e, if_false]
          exact ih (some i) hr
  · exact sget_sset_self d st k hv

theorem swfFrom_sset {α : Type} [DecidableEq α] (d : Nat → α) (st : Store α) (k : Nat) (v : α) (lo : Option Nat)
    (h : swfFrom d lo st = true) (hl : ∀ l, lo = some l → l < k) : swfFrom d lo (sset d st k v) = true := by
  induction st generalizing lo with
  | nil =>
    unfold sset
    split
    · exact h
    · rename_i hv
      cases lo with
      | none => simp [swfFrom, hv]
      | some l => simp [swfFrom, hv, hl l rfl]
  | cons x r ih =>
    obtain ⟨i, w⟩ := x
    have h0 := h
    simp only [swfFrom, Bool.and_eq_true, decide_eq_true_eq] at h
    obtain ⟨⟨h1, h2⟩, h3⟩ := h
    unfold sset
    split
    · rename_i hk
      split
      · exact h0
      · rename_i hv
        cases lo with
        | none => simp [swfFrom, hv, hk, h2, h3]
        | some l => simp [swfFrom, hv, hk, h2, h3, hl l rfl]
    · split
      · rename_i hk e
        subst e
        split
        · cases r with
          | nil => rfl
          | cons y r =>
            obtain ⟨j, u⟩ := y
            simp only [swfFrom, Bool.and_eq_true, decide_eq_true_eq] at h3 ⊢
            refine ⟨⟨?_, h3.1.2⟩, h3.2⟩
            cases lo with
            | none => rfl
            | some l =>
              have := hl l rfl
              have := h3.1.1
              simp only [decide_eq_true_eq]
              omega
        · rename_i hv
          cases lo with
          | none => simp [swfFrom, hv, h3]
          | some l => simp [swfFrom, hv, h3, hl l rfl]
      · rename_i hk e
        simp only [swfFrom, Bool.and_eq_true, decide_eq_true_eq]
        exact ⟨⟨h1, h2⟩, ih (some i) h3 (by intro l hh; cases hh; omega)⟩

/-- Every write keeps the canonical form. -/
theorem swf_sset {α : Type} [DecidableEq α] (d : Nat → α) (st : Store α) (k : Nat) (v : α) (h : swf d st = true) : swf d (sset d st k v) = true :=
  swfFrom_sset d st k v none h (by intro l hh; cases hh)

theorem swf_nil {α : Type} [DecidableEq α] (d : Nat → α) : swf d ([] : Store α) = true := rfl

theorem swfFrom_weaken {α : Type} [DecidableEq α] (d : Nat → α) (st : Store α) (lo : Option Nat) {k : Nat} (h : swfFrom d (some k) st = true)
    (hl : ∀ l, lo = some l → l ≤ k) : swfFrom d lo st = true := by
  cases st with
  | nil => rfl
  | cons x r =>
    obtain ⟨i, w⟩ := x
    simp only [swfFrom, Bool.and_eq_true, decide_eq_true_eq] at h ⊢
    refine ⟨⟨?_, h.1.2⟩, h.2⟩
    cases lo with
    | none => rfl
    | some l =>
      have := hl l rfl
      have := h.1.1
      simp only [decide_eq_true_eq]
      omega

theorem swfFrom_filter {α : Type} [DecidableEq α] (d : Nat → α) (p : Nat × α → Bool) (st : Store α) (lo : Option Nat)
    (h : swfFrom d lo st = true) : swfFrom d lo (st.filter p) = true := by
  induction st generalizing lo with
  | nil => rfl
  | cons x r ih =>
    obtain ⟨i, w⟩ := x
    simp only [swfFrom, Bool.and_eq_true, decide_eq_true_eq] at h
    by_cases hp : p (i, w) = true
    · simp only [List.filter_cons, hp, if_true, swfFrom, Bool.and_eq_true, decide_eq_true_eq]
      exact ⟨h.1, ih (some i) h.2⟩
    · simp only [List.filter_cons, hp, if_false, Bool.false_eq_true]
      refine swfFrom_weaken d _ lo (ih (some i) h.2) ?_
      intro l e
      subst e
      have := h.1.1
      simp only [decide_eq_true_eq] at this
      omega

/-- Removing entries keeps the canonical form. -/
theorem swf_filter {α : Type} [DecidableEq α] (d : Nat → α) (p : Nat × α → Bool) (st : Store α) (h : swf d st = true) :
    swf d (st.filter p) = true := swfFrom_filter d p st none h

end Sys2Proof.Machine
end

