-- ==== Sys2Proof/Laws/Frames.lean ====
section
/-! SUPPORT. What each shared operation can change, and what it leaves: the lemmas to cite in place of unfolding it. -/

namespace Sys2Proof.Machine

/-! ### Frames compose -/

theorem OnlyChanges.refl (l : List Part) (s : State) : OnlyChanges l s s := ⟨fun p _ => by cases p <;> rfl⟩

theorem Part.same_trans {p : Part} {s t u : State} (h : p.same s t) (k : p.same t u) : p.same s u := by
  cases p <;> exact Eq.trans k h

theorem OnlyChanges.trans {l : List Part} {s t u : State} (h : OnlyChanges l s t) (k : OnlyChanges l t u) : OnlyChanges l s u :=
  ⟨fun p hp => Part.same_trans (h.same p hp) (k.same p hp)⟩

theorem OnlyChanges.mono {l m : List Part} {s t : State} (h : OnlyChanges l s t) (k : l ⊆ m) : OnlyChanges m s t :=
  ⟨fun p hp => h.same p fun hl => hp (k hl)⟩

/-- An operation that follows another: the frames add up. -/
theorem OnlyChanges.after {l m : List Part} {s t u : State} (h : OnlyChanges l s t) (k : OnlyChanges m t u) : OnlyChanges (l ++ m) s u :=
  (h.mono (List.subset_append_left l m)).trans (k.mono (List.subset_append_right l m))

theorem OnlyChanges.ite {l : List Part} {s t u : State} {c : Prop} [Decidable c] (h : OnlyChanges l s t) (k : OnlyChanges l s u) :
    OnlyChanges l s (if c then t else u) := by split <;> assumption

/-! ### Messages, interrupts, notices -/

/-- The part of a port. -/
def outPart : Port → Part | .d0 => .d0 | .d1 => .d1 | .s => .sout

theorem emit_only (p : Port) (o : Out) (s : State) : OnlyChanges [outPart p] s (emit p o s) :=
  ⟨fun q hq => by cases p <;> cases q <;> first | rfl | exact absurd (by simp [outPart]) hq⟩

@[simp] theorem emit_out (p : Port) (o : Out) (s : State) : outOf (emit p o s) p = outOf s p ++ [o] := by cases p <;> rfl

theorem respond_only (p : Port) (m : Msg) (j : Subj) (x : Rsp) (s : State) : OnlyChanges [outPart p] s (respond p m j x s) := emit_only ..

theorem compTo_only (p : Port) (m : Msg) (j : Subj) (st r : Nat) (s : State) : OnlyChanges [outPart p] s (compTo p m j st r s) := emit_only ..

theorem dataTo_only (p : Port) (m : Msg) (j : Subj) (st e r : Nat) (d : Line) (s : State) : OnlyChanges [outPart p] s (dataTo p m j st e r d s) := emit_only ..

theorem cohData_only (p : Port) (m : Msg) (j : Subj) (st g : Nat) (b : Bool) (d : Line) (s : State) : OnlyChanges [outPart p] s (cohData p m j st g b d s) :=
  emit_only ..

theorem sendIntr_only (s : State) : OnlyChanges [.ints, .d0] s (sendIntr s) := by
  unfold sendIntr
  split
  · refine OnlyChanges.after (l := [.ints]) (m := [.d0]) ⟨fun q hq => ?_⟩ (emit_only .d0 _ _)
    cases q <;> first | rfl | exact absurd (by simp) hq
  · exact .refl _ _

/-- Writing the interrupt registers changes them alone, and sends at most an INTR (R257). -/
theorem setInts_only (i : Ints) (s : State) : OnlyChanges [.ints, .d0] s (setInts i s) := by
  have h : OnlyChanges [.ints, .d0] s { s with ints := { i with sent := s.ints.sent } } :=
    ⟨fun q hq => by cases q <;> first | rfl | exact absurd (by simp) hq⟩
  exact .ite (h.trans (sendIntr_only _)) h

@[simp] theorem sendIntr_ints_mbx (s : State) : (sendIntr s).ints.mbx = s.ints.mbx := by unfold sendIntr; split <;> rfl
@[simp] theorem sendIntr_ints_stat (s : State) : (sendIntr s).ints.stat = s.ints.stat := by unfold sendIntr; split <;> rfl
@[simp] theorem setInts_mbx (i : Ints) (s : State) : (setInts i s).ints.mbx = i.mbx := by unfold setInts; dsimp only; split <;> simp
@[simp] theorem setInts_stat (i : Ints) (s : State) : (setInts i s).ints.stat = i.stat := by unfold setInts; dsimp only; split <;> simp

theorem raise_only (c : Nat) (s : State) : OnlyChanges [.ints, .d0] s (raise c s) := setInts_only ..
theorem raiseMbx_only (t : Nat) (s : State) : OnlyChanges [.ints, .d0] s (raiseMbx t s) := setInts_only ..

/-- A raised cause stands in BRL_INT_STAT. -/
@[simp] theorem raise_stat (c : Nat) (s : State) : (raise c s).ints.stat = s.ints.stat ||| BitVec.ofNat 32 (2 ^ c) := setInts_stat ..
@[simp] theorem raiseMbx_mbx (t : Nat) (s : State) : (raiseMbx t s).ints.mbx = s.ints.mbx ||| BitVec.ofNat 16 (2 ^ t) := setInts_mbx ..

/-- An alert drives STEWARD_ALERT, of the pins, too (R285). -/
theorem raiseAlert_only (b : Nat) (s : State) : OnlyChanges [.pins, .ints, .d0] s (raiseAlert b s) :=
  OnlyChanges.after (l := [.pins, .ints, .d0]) (m := [.ints, .d0])
    ⟨fun q hq => by cases q <;> first | rfl | exact absurd (by simp) hq⟩ (raise_only ..) |>.mono (by simp)

theorem logOnly (x : LogSt) (s : State) : OnlyChanges [.log, .ints, .d0] s { s with log := x } :=
  ⟨fun q hq => by cases q <;> first | rfl | exact absurd (by simp) hq⟩

theorem eventLost_only (s : State) : OnlyChanges [.log, .ints, .d0] s (eventLost s) :=
  (logOnly _ s).trans ((raise_only _ _).mono (by simp))

theorem evqPush_only (k : Nat) (r : Rec) (s : State) : OnlyChanges [.log, .ints, .d0] s (evqPush k r s) := .ite (logOnly _ s) (eventLost_only s)

/-- A notice enters its queue, or is lost with its cause (R14). -/
theorem notice_only (n : Notice) (s : State) : OnlyChanges [.log, .ints, .d0] s (notice n s) := .ite (logOnly _ s) (eventLost_only s)

theorem notice_room (n : Notice) (s : State) (h : s.log.notices.length < 64) :
    notice n s = { s with log := { s.log with notices := s.log.notices ++ [n] } } := if_pos h

theorem errArrive_only (r : Rec) (s : State) : OnlyChanges [.log, .ints, .d0] s (errArrive r s) := by
  have k : ∀ c t, OnlyChanges [.log, .ints, .d0] t (raise c t) := fun c t => (raise_only c t).mono (by simp)
  unfold errArrive
  dsimp only
  split
  · refine .ite ((logOnly _ s).trans (k _ _)) (.ite (((logOnly _ s).trans (evqPush_only ..)).trans (k _ _)) ((logOnly _ s).trans (k _ _)))
  · exact ((logOnly _ s).trans (evqPush_only ..)).trans (k _ _)

theorem logErr_only (i : ErrInfo) (s : State) : OnlyChanges [.log, .ints, .d0] s (logErr i s) := notice_only ..

/-- A fatal error drives FATAL_N low and is recorded (R365). -/
theorem fatalErr_only (i : ErrInfo) (s : State) : OnlyChanges [.pins, .log, .ints, .d0] s (fatalErr i s) := by
  refine .ite ((notice_only _ s).mono (by simp)) (OnlyChanges.trans (OnlyChanges.trans ⟨fun q hq => ?_⟩ ((raise_only _ _).mono (by simp)))
    ((errArrive_only _ _).mono (by simp)))
  cases q <;> first | rfl | exact absurd (by simp) hq

/-- Using a control structure whose parity is good changes nothing; a parity error is fatal (R355). -/
theorem ctlUse_only (x : Site) (j : Option Subj) (s : State) : OnlyChanges [.bad, .pins, .log, .ints, .d0] s (ctlUse x j s) := by
  refine .ite (OnlyChanges.trans ⟨fun q hq => ?_⟩ ((fatalErr_only _ _).mono (by simp))) (.refl _ _)
  cases q <;> first | rfl | exact absurd (by simp) hq

theorem ctlUse_clean (x : Site) (j : Option Subj) (s : State) (h : s.bad = []) : ctlUse x j s = s := by simp [ctlUse, h]

/-! ### Counts, trace events, windows -/

theorem ctrOnly (x : CtrSt) (s : State) : OnlyChanges [.ctr] s { s with ctr := x } :=
  ⟨fun q hq => by cases q <;> first | rfl | exact absurd (by simp) hq⟩

theorem occAt_only (o e : Nat) (k : OccKind) (j : Subj) (n : Nat) (s : State) : OnlyChanges [.ctr] s (occAt o e k j n s) := .ite (.refl _ s) (ctrOnly _ s)
theorem occ_only (e : Nat) (k : OccKind) (j : Subj) (n : Nat) (s : State) : OnlyChanges [.ctr] s (occ e k j n s) := occAt_only ..
theorem occU_only (e n : Nat) (s : State) : OnlyChanges [.ctr] s (occU e n s) := occAt_only ..
theorem occP_only (p : Port) (e : Nat) (j : Subj) (n : Nat) (s : State) : OnlyChanges [.ctr] s (occP p e j n s) := occAt_only ..
theorem occR_only (e : Nat) (r : Req) (n : Nat) (s : State) : OnlyChanges [.ctr] s (occR e r n s) := .ite (occAt_only ..) (occAt_only ..)
theorem fctr_only (k n : Nat) (s : State) : OnlyChanges [.ctr] s (fctr k n s) := .ite (.refl _ s) (ctrOnly _ s)
theorem useSlot_only (k : Nat) (b : Bool) (j : Option Subj) (s : State) : OnlyChanges [.ctr] s (useSlot k b j s) := ctrOnly _ s

theorem peatOnly (x : PeatSt) (s : State) : OnlyChanges [.peat] s { s with peat := x } :=
  ⟨fun q hq => by cases q <;> first | rfl | exact absurd (by simp) hq⟩

theorem traceEv_only (v : TEv) (s : State) : OnlyChanges [.peat] s (traceEv v s) := .ite (peatOnly _ s) (.refl _ s)
theorem trigger_only (a b c : Nat) (s : State) : OnlyChanges [.peat] s (trigger a b c s) := .ite (peatOnly _ s) (.refl _ s)

theorem winSet_only (c : Nat) (w : Win) (s : State) : OnlyChanges [.regul] s (winSet c w s) :=
  ⟨fun q hq => by cases q <;> first | rfl | exact absurd (by simp) hq⟩
theorem addDemand_only (r : Req) (n : Nat) (s : State) : OnlyChanges [.regul] s (addDemand r n s) := winSet_only ..
theorem addServed_only (r : Req) (n : Nat) (s : State) : OnlyChanges [.regul, .ctr] s (addServed r n s) := by
  unfold addServed
  split
  · exact .refl _ _
  · exact .refl _ _
  · exact OnlyChanges.after (winSet_only ..) (occR_only ..)

/-! ### Tallies -/

theorem tallyUse_only (t : Nat) (j : Option Subj) (s : State) : OnlyChanges [.tal, .bad, .pins, .log, .ints, .d0] s (tallyUse t j s) :=
  .ite (OnlyChanges.after (l := [.tal]) ⟨fun q hq => by cases q <;> first | rfl | exact absurd (by simp) hq⟩ (ctlUse_only ..)) (.refl _ _)

/-- A tally whose parity is good is used as it stands. -/
theorem tallyUse_clean (t : Nat) (j : Option Subj) (s : State) (h : s.bad = []) : tallyUse t j s = s := by simp [tallyUse, h]

/-- An addition to a tally changes the tallies, and counts; nothing else if no parity error is met (R203). -/
theorem tallyAdd_only (t n : Nat) (j : Option Subj) (o : Nat) (s : State) : OnlyChanges [.tal, .ctr, .bad, .pins, .log, .ints, .d0] s (tallyAdd t n j o s) := by
  have h := (tallyUse_only t j s).mono (m := [.tal, .ctr, .bad, .pins, .log, .ints, .d0]) (by simp)
  have k : ∀ (x : TallySt) (u : State), OnlyChanges [.tal, .ctr, .bad, .pins, .log, .ints, .d0] u { u with tal := x } :=
    fun x u => ⟨fun q hq => by cases q <;> first | rfl | exact absurd (by simp) hq⟩
  cases j with
  | some x => exact (h.trans (k _ _)).trans ((occAt_only ..).mono (by simp))
  | none => exact (h.trans (k _ _)).trans ((occAt_only ..).mono (by simp))

@[simp] theorem occAt_tal (o e : Nat) (k : OccKind) (j : Subj) (n : Nat) (s : State) : (occAt o e k j n s).tal = s.tal :=
  (occAt_only o e k j n s).same .tal (by simp)

/-- The tally named grows by `n` modulo 2^48, and no other (R203). -/
theorem tallyAdd_grows (t n : Nat) (j : Option Subj) (o : Nat) (s : State) (c : swf (fun _ => 0) s.tal.val = true) (h : s.bad = []) :
    TallyGrows s (tallyAdd t n j o s) t n := by
  have e : (tallyAdd t n j o s).tal.val = sset (fun _ => 0) s.tal.val t (BitVec.ofNat 48 ((tallyVal s t + n) % 2 ^ 48)) := by
    cases j <;> simp [tallyAdd, tallyUse_clean _ _ s h]
  refine ⟨?_, fun i hi => ?_⟩
  · rw [tallyVal, e, sget_sset _ _ _ _ none c]; simp
  · rw [tallyVal, e, sget_sset_ne _ _ _ hi]; rfl

theorem reqTally_of (r : Req) (n : Nat) (s : State) (c : swf (fun _ => 0) s.tal.val = true) (h : s.bad = []) : TallyOf s (reqTally r n s) r.msg n := by
  unfold TallyOf reqTally
  by_cases x : (hTen r.msg = true ∧ countsTally r.msg = true) ∧ n ≠ 0
  · rw [if_pos x, if_pos (by simpa using x)]
    exact tallyAdd_grows (hTally r.msg) n (some (subjReq r)) (pipeOfReq r) s c h
  · rw [if_neg x]; simp only [Bool.and_eq_true, decide_eq_true_eq, x, if_false]

/-! ### Requests of the slice's own -/

theorem ownSend_only (op a n : Nat) (b : List (BitVec 512)) (e : List (BitVec 64)) (k : OwnKind) (s : State) :
    OnlyChanges [.srv, .d0] s (ownSend op a n b e k s) :=
  OnlyChanges.after (l := [.srv]) (m := [.d0]) ⟨fun q hq => by cases q <;> first | rfl | exact absurd (by simp) hq⟩ (emit_only .d0 _ _)

/-- The request waits for its answer under the next TXID. -/
@[simp] theorem ownSend_srv (op a n : Nat) (b : List (BitVec 512)) (e : List (BitVec 64)) (k : OwnKind) (s : State) :
    (ownSend op a n b e k s).srv = { s.srv with own := s.srv.own ++ [{ txid := s.srv.ownTx, kind := k }], ownTx := s.srv.ownTx + 1 } := rfl

theorem ownDrop_only (x : BitVec 16) (s : State) : OnlyChanges [.srv] s (ownDrop x s) :=
  ⟨fun q hq => by cases q <;> first | rfl | exact absurd (by simp) hq⟩

/-! ### Mailboxes -/

theorem mbxSet_only (t : Nat) (m : Mbx) (s : State) : OnlyChanges [.mbx] s (mbxSet t m s) :=
  ⟨fun q hq => by cases q <;> first | rfl | exact absurd (by simp) hq⟩

@[simp] theorem mbxGet_mbxSet_ne {t j : Nat} (m : Mbx) (s : State) (h : j ≠ t) : mbxGet (mbxSet t m s) j = mbxGet s j := sget_sset_ne _ _ _ h

theorem mbxGet_mbxSet {t : Nat} (m : Mbx) (s : State) (c : swf (fun _ => Mbx.reset) s.mbx = true) : mbxGet (mbxSet t m s) t = m := sget_sset _ _ _ _ none c

theorem raiseMbx_get (t j : Nat) (s : State) : mbxGet (raiseMbx t s) j = mbxGet s j := by
  have h := (raiseMbx_only t s).same .mbx (by simp)
  simp only [mbxGet, show (raiseMbx t s).mbx = s.mbx from h]

theorem mbxDone_only (t c : Nat) (r : List Nat) (s : State) : OnlyChanges [.mbx, .ints, .d0] s (mbxDone t c r s) :=
  ((mbxSet_only ..).mono (by simp)).trans ((raiseMbx_only ..).mono (by simp))

/-- A command that completes has ended (R259). -/
theorem mbxDone_ended (t c : Nat) (r : List Nat) (s : State) (w : swf (fun _ => Mbx.reset) s.mbx = true) : Ended s (mbxDone t c r s) t c r := by
  have e : mbxGet (mbxDone t c r s) t = { mbxGet s t with res := resWords r, code := BitVec.ofNat 4 c, busy := false, phase := .idle, inF := [], got := [],
                                                          pend := [], wait := 0 } := by
    rw [mbxDone, raiseMbx_get, mbxGet_mbxSet _ _ w]
  refine ⟨?_, ?_, ?_, ?_, ?_, by simp [mbxDone], fun j hj => ?_⟩ <;> first | (rw [e]) | (rw [mbxDone, raiseMbx_get, mbxGet_mbxSet_ne _ _ hj])

theorem mbxWork_only (t : Nat) (s : State) : OnlyChanges [.mbx] s (mbxWork t s) := mbxSet_only ..

theorem mbxWork_proceeds (t : Nat) (s : State) (w : swf (fun _ => Mbx.reset) s.mbx = true) : Proceeds s (mbxWork t s) t :=
  ⟨by rw [mbxWork, mbxGet_mbxSet _ _ w], by rw [mbxWork, mbxGet_mbxSet _ _ w], fun j hj => mbxGet_mbxSet_ne _ _ hj⟩

theorem mbxOutTry_only (t : Nat) (s : State) : OnlyChanges [.mbx, .ints, .d0] s (mbxOutTry t s) := by
  have h : OnlyChanges [.mbx, .ints, .d0] s (mbxFill t s) := (mbxSet_only ..).mono (by simp)
  exact .ite (.refl _ _) (.ite (h.trans (mbxDone_only ..)) h)

theorem mbxOut_only (t : Nat) (w r : List Nat) (s : State) : OnlyChanges [.mbx, .ints, .d0] s (mbxOut t w r s) :=
  ((mbxSet_only ..).mono (by simp)).trans (mbxOutTry_only ..)

/-- The command at the head of the start queue is performed by the row of its opcode and sub-operation. -/
theorem cmdRun_heads {op t : Nat} {rest : List Nat} {sub : State → Nat → Bool} {f : Nat → State → State} {s : State} (h : Heads s op t rest)
    (b : sub s t = true) : cmdRun op sub f s = f t (mbxSet t { mbxGet s t with outF := [] } { s with startQ := rest }) := by
  simp [cmdRun, h.runs, h.queue, h.opcode, b]

/-- A row whose command is not at the head does nothing. -/
theorem cmdRun_other {op : Nat} {sub : State → Nat → Bool} {f : Nat → State → State} {s : State}
    (h : ∀ t rest, s.startQ = t :: rest → (mbxGet s t).op.toNat = op → sub s t = false) : cmdRun op sub f s = s := by
  unfold cmdRun
  split
  · rfl
  · split
    · rfl
    · next t rest q => dsimp only; rw [if_neg]; intro x; simp only [Bool.and_eq_true, decide_eq_true_eq] at x; simp [h t rest q x.1] at x

theorem checked_pass {t : Nat} {l : List (Bool × Nat)} {res : State → List Nat} {f : State → State} {s : State} (h : firstOf l = none) :
    checked t l res f s = f s := by simp [checked, h]

theorem checked_fail {t c : Nat} {l : List (Bool × Nat)} {res : State → List Nat} {f : State → State} {s : State} (h : firstOf l = some c) :
    checked t l res f s = mbxDone t c (if c = Mc.eperm ∨ c = Mc.zeroNop then [] else res s) s := by simp [checked, h]

/-! ### Ports -/

theorem portSet_only (p : DPort) (x : PortSt) (s : State) : OnlyChanges [portPart p] s (portSet p x s) :=
  ⟨fun q hq => by cases p <;> cases q <;> first | rfl | exact absurd (by simp [portPart]) hq⟩

@[simp] theorem portGet_portSet (p : DPort) (x : PortSt) (s : State) : portGet (portSet p x s) p = x := by cases p <;> rfl

/-- An entry frees (R227): nothing but its port changes. -/
theorem popIng_only (p : DPort) (i : Nat) (s : State) : OnlyChanges [portPart p] s (popIng p i s) := by
  unfold popIng
  dsimp only
  split
  · exact .refl _ _
  · exact portSet_only ..

theorem creditPass_only (p : DPort) (m : Msg) (c : Nat) (s : State) : OnlyChanges [portPart p, .ctr] s (creditPass p m c s) :=
  .ite ((portSet_only ..).mono (by simp)) ((occP_only ..).mono (by simp))

theorem placeIng_only (p : DPort) (r : Req) (c : BitVec 4) (s : State) : OnlyChanges [portPart p, .ctr] s (placeIng p r c s) :=
  .ite ((portSet_only ..).mono (by simp))
    (.ite (((occR_only ..).mono (by simp)).trans ((portSet_only ..).mono (by simp))) (((occR_only ..).mono (by simp)).trans ((portSet_only ..).mono (by simp))))

end Sys2Proof.Machine
end

