-- ==== Sys2Proof/WellFormed.lean ====
section
/-! DEFINITION. Well-formed commands: operands that a slice of the spec can be given. -/

namespace Sys2Proof

/-- A message has at most three beats, each with its byte enables (R28). -/
def Msg.wf (m : Msg) : Bool := m.beats.length ≤ 3 && m.be.length == m.beats.length

/-- Operands within the sizes of the slice: 128 ingress entries of a port, 256 parked waits, 16 entries of a REG queue. -/
def Instr.wf : Instr → Bool
  | .requestIngress _ m _ => m.wf
  | .sPortRequest m => m.wf
  | .snpAck _ m => m.wf
  | .compAck _ m => m.wf
  | .dataHome _ m => m.wf
  | .wbData _ m => m.wf
  | .unmatchedAnswer _ m => m.wf
  | .unexpectedMessage _ m => m.wf
  | .tempRpt _ m => m.wf
  | .regTimeout l k => l == .hw || decide (k < 16)
  | .heldRequestRepresent _ k => decide (k < 128)
  | .twaitRelease k => decide (k < 256)
  | .tallyDeadline k => decide (k < 256)
  | .fenAllocZeroed k => decide (k < 64)
  | _ => true

end Sys2Proof
end

