-- ==== Sys2Proof/Laws/PerInstr.lean ====
section
/-! SUPPORT. Families of lemmas over all commands. WfShape: a well-formed command carries a message of at most three beats, each with
its byte enables (R28). -/

namespace Sys2Proof.Laws

/-- The message that a command carries. -/
def msgOf : Instr → Option Msg
  | .requestIngress _ m _ => some m
  | .sPortRequest m => some m
  | .snpAck _ m => some m
  | .compAck _ m => some m
  | .dataHome _ m => some m
  | .wbData _ m => some m
  | .unmatchedAnswer _ m => some m
  | .unexpectedMessage _ m => some m
  | .tempRpt _ m => some m
  | _ => none

/-- The message of a well-formed command has the shape of R28. -/
def WfShape.Statement (i : Instr) : Prop :=
  i.wf = true → ∀ m, msgOf i = some m → m.beats.length ≤ 3 ∧ m.be.length = m.beats.length

theorem msg_shape {m : Msg} (h : m.wf = true) : m.beats.length ≤ 3 ∧ m.be.length = m.beats.length := by
  simpa [Msg.wf] using h

theorem WfShape.requestIngress (p : DPort) (m : Msg) (qc : BitVec 4) : WfShape.Statement (.requestIngress p m qc) := fun h _ e => by cases e; exact msg_shape h
theorem WfShape.sPortRequest (m : Msg) : WfShape.Statement (.sPortRequest m) := fun h _ e => by cases e; exact msg_shape h
theorem WfShape.creditLend (p : DPort) (qwant : BitVec 16) : WfShape.Statement (.creditLend p qwant) := fun _ _ e => by cases e
theorem WfShape.rd (p : Port) : WfShape.Statement (.rd p) := fun _ _ e => by cases e
theorem WfShape.wr (p : Port) : WfShape.Statement (.wr p) := fun _ _ e => by cases e
theorem WfShape.red (p : DPort) : WfShape.Statement (.red p) := fun _ _ e => by cases e
theorem WfShape.atom (p : DPort) : WfShape.Statement (.atom p) := fun _ _ e => by cases e
theorem WfShape.twait (p : DPort) : WfShape.Statement (.twait p) := fun _ _ e => by cases e
theorem WfShape.tread (p : DPort) : WfShape.Statement (.tread p) := fun _ _ e => by cases e
theorem WfShape.chainRd : WfShape.Statement .chainRd := fun _ _ e => by cases e
theorem WfShape.maceSub (p : DPort) : WfShape.Statement (.maceSub p) := fun _ _ e => by cases e
theorem WfShape.rdShr (p : DPort) : WfShape.Statement (.rdShr p) := fun _ _ e => by cases e
theorem WfShape.rdUnq (p : DPort) : WfShape.Statement (.rdUnq p) := fun _ _ e => by cases e
theorem WfShape.upgrade (p : DPort) : WfShape.Statement (.upgrade p) := fun _ _ e => by cases e
theorem WfShape.wb (p : DPort) : WfShape.Statement (.wb p) := fun _ _ e => by cases e
theorem WfShape.evict (p : DPort) : WfShape.Statement (.evict p) := fun _ _ e => by cases e
theorem WfShape.atomC (p : DPort) : WfShape.Statement (.atomC p) := fun _ _ e => by cases e
theorem WfShape.rdOnce (p : DPort) : WfShape.Statement (.rdOnce p) := fun _ _ e => by cases e
theorem WfShape.regAccess (p : DPort) : WfShape.Statement (.regAccess p) := fun _ _ e => by cases e
theorem WfShape.regTimeout (l : RegLoc) (k : Nat) : WfShape.Statement (.regTimeout l k) := fun _ _ e => by cases e
theorem WfShape.snpAck (p : DPort) (m : Msg) : WfShape.Statement (.snpAck p m) := fun h _ e => by cases e; exact msg_shape h
theorem WfShape.compAck (p : DPort) (m : Msg) : WfShape.Statement (.compAck p m) := fun h _ e => by cases e; exact msg_shape h
theorem WfShape.dataHome (p : DPort) (m : Msg) : WfShape.Statement (.dataHome p m) := fun h _ e => by cases e; exact msg_shape h
theorem WfShape.wbData (p : DPort) (m : Msg) : WfShape.Statement (.wbData p m) := fun h _ e => by cases e; exact msg_shape h
theorem WfShape.hteDeferredWrite (h : Fin 256) : WfShape.Statement (.hteDeferredWrite h) := fun _ _ e => by cases e
theorem WfShape.hteRelookup (k : Nat) : WfShape.Statement (.hteRelookup k) := fun _ _ e => by cases e
theorem WfShape.homeTimeout (h : Fin 256) : WfShape.Statement (.homeTimeout h) := fun _ _ e => by cases e
theorem WfShape.unmatchedAnswer (p : DPort) (m : Msg) : WfShape.Statement (.unmatchedAnswer p m) := fun h _ e => by cases e; exact msg_shape h
theorem WfShape.unexpectedMessage (p : DPort) (m : Msg) : WfShape.Statement (.unexpectedMessage p m) := fun h _ e => by cases e; exact msg_shape h
theorem WfShape.tempRpt (p : DPort) (m : Msg) : WfShape.Statement (.tempRpt p m) := fun h _ e => by cases e; exact msg_shape h
theorem WfShape.heldRequestRepresent (p : DPort) (k : Nat) : WfShape.Statement (.heldRequestRepresent p k) := fun _ _ e => by cases e
theorem WfShape.mCommandIssue : WfShape.Statement .mCommandIssue := fun _ _ e => by cases e
theorem WfShape.mCreditReturn (write : Bool) : WfShape.Statement (.mCreditReturn write) := fun _ _ e => by cases e
theorem WfShape.mReadData (e : Fin 1024) (d : Line) (poi : BitVec 2) : WfShape.Statement (.mReadData e d poi) := fun _ _ e => by cases e
theorem WfShape.fillInstall (e : Fin 1024) : WfShape.Statement (.fillInstall e) := fun _ _ e => by cases e
theorem WfShape.mWriteAck (t : MTag) (err : Bool) : WfShape.Statement (.mWriteAck t err) := fun _ _ e => by cases e
theorem WfShape.sealMacReadData (e : Fin 1024) (status : BitVec 3) (mac : BitVec 64) : WfShape.Statement (.sealMacReadData e status mac) := fun _ _ e => by cases e
theorem WfShape.macWriteComp (txid : BitVec 16) (status : BitVec 3) : WfShape.Statement (.macWriteComp txid status) := fun _ _ e => by cases e
theorem WfShape.prefetchFill : WfShape.Statement .prefetchFill := fun _ _ e => by cases e
theorem WfShape.exactStep : WfShape.Statement .exactStep := fun _ _ e => by cases e
theorem WfShape.twaitRelease (k : Nat) : WfShape.Statement (.twaitRelease k) := fun _ _ e => by cases e
theorem WfShape.tallyDeadline (k : Nat) : WfShape.Statement (.tallyDeadline k) := fun _ _ e => by cases e
theorem WfShape.rehashSweepStep : WfShape.Statement .rehashSweepStep := fun _ _ e => by cases e
theorem WfShape.sedgeSweepStep : WfShape.Statement .sedgeSweepStep := fun _ _ e => by cases e
theorem WfShape.conversionSweepStep : WfShape.Statement .conversionSweepStep := fun _ _ e => by cases e
theorem WfShape.commitApply : WfShape.Statement .commitApply := fun _ _ e => by cases e
theorem WfShape.fenAllocZeroed (k : Nat) : WfShape.Statement (.fenAllocZeroed k) := fun _ _ e => by cases e
theorem WfShape.fenFreeReclaim (k : Nat) : WfShape.Statement (.fenFreeReclaim k) := fun _ _ e => by cases e
theorem WfShape.transferLineIssue (seg : Fin 64) : WfShape.Statement (.transferLineIssue seg) := fun _ _ e => by cases e
theorem WfShape.transferLineResponse (txid : BitVec 16) (status : BitVec 3) (d : Line) : WfShape.Statement (.transferLineResponse txid status d) := fun _ _ e => by cases e
theorem WfShape.flipReady (seg : Fin 64) : WfShape.Statement (.flipReady seg) := fun _ _ e => by cases e
theorem WfShape.flipEffect (seg : Fin 64) : WfShape.Statement (.flipEffect seg) := fun _ _ e => by cases e
theorem WfShape.regionOpen (rid : Fin 16) : WfShape.Statement (.regionOpen rid) := fun _ _ e => by cases e
theorem WfShape.resolveReady (rid : Fin 16) : WfShape.Statement (.resolveReady rid) := fun _ _ e => by cases e
theorem WfShape.resolveStart (rid : Fin 16) : WfShape.Statement (.resolveStart rid) := fun _ _ e => by cases e
theorem WfShape.resolveLineWrite (rid : Fin 16) : WfShape.Statement (.resolveLineWrite rid) := fun _ _ e => by cases e
theorem WfShape.resolveDeadline (rid : Fin 16) : WfShape.Statement (.resolveDeadline rid) := fun _ _ e => by cases e
theorem WfShape.maceIndexRead (slot : Fin 8) : WfShape.Statement (.maceIndexRead slot) := fun _ _ e => by cases e
theorem WfShape.maceIndexResponse (txid : BitVec 16) (status : BitVec 3) (d : Line) : WfShape.Statement (.maceIndexResponse txid status d) := fun _ _ e => by cases e
theorem WfShape.maceElementIssue : WfShape.Statement .maceElementIssue := fun _ _ e => by cases e
theorem WfShape.maceElement (slot : Fin 8) (id : Nat) : WfShape.Statement (.maceElement slot id) := fun _ _ e => by cases e
theorem WfShape.maceEnd (slot : Fin 8) : WfShape.Statement (.maceEnd slot) := fun _ _ e => by cases e
theorem WfShape.maceRecordComp (txid : BitVec 16) (status : BitVec 3) : WfShape.Statement (.maceRecordComp txid status) := fun _ _ e => by cases e
theorem WfShape.getInfo : WfShape.Statement .getInfo := fun _ _ e => by cases e
theorem WfShape.setTable : WfShape.Statement .setTable := fun _ _ e => by cases e
theorem WfShape.getTable : WfShape.Statement .getTable := fun _ _ e => by cases e
theorem WfShape.commit : WfShape.Statement .commit := fun _ _ e => by cases e
theorem WfShape.commitCancel : WfShape.Statement .commitCancel := fun _ _ e => by cases e
theorem WfShape.fenAlloc : WfShape.Statement .fenAlloc := fun _ _ e => by cases e
theorem WfShape.fenFree : WfShape.Statement .fenFree := fun _ _ e => by cases e
theorem WfShape.fenLoad : WfShape.Statement .fenLoad := fun _ _ e => by cases e
theorem WfShape.fenFlush : WfShape.Statement .fenFlush := fun _ _ e => by cases e
theorem WfShape.fenFlip : WfShape.Statement .fenFlip := fun _ _ e => by cases e
theorem WfShape.accOpen : WfShape.Statement .accOpen := fun _ _ e => by cases e
theorem WfShape.accResolve : WfShape.Statement .accResolve := fun _ _ e => by cases e
theorem WfShape.bankOffline : WfShape.Statement .bankOffline := fun _ _ e => by cases e
theorem WfShape.bankOnline : WfShape.Statement .bankOnline := fun _ _ e => by cases e
theorem WfShape.bankTrim : WfShape.Statement .bankTrim := fun _ _ e => by cases e
theorem WfShape.bankSweepStep (b : Fin 64) : WfShape.Statement (.bankSweepStep b) := fun _ _ e => by cases e
theorem WfShape.bankTrimCalibrationDone (b : Fin 64) (setting : Option (BitVec 8)) : WfShape.Statement (.bankTrimCalibrationDone b setting) := fun _ _ e => by cases e
theorem WfShape.ctrRead : WfShape.Statement .ctrRead := fun _ _ e => by cases e
theorem WfShape.ctrLoad : WfShape.Statement .ctrLoad := fun _ _ e => by cases e
theorem WfShape.ctrZero : WfShape.Statement .ctrZero := fun _ _ e => by cases e
theorem WfShape.ctrStop : WfShape.Statement .ctrStop := fun _ _ e => by cases e
theorem WfShape.ctrStart : WfShape.Statement .ctrStart := fun _ _ e => by cases e
theorem WfShape.nativeSampleSubject (n : Fin 64) : WfShape.Statement (.nativeSampleSubject n) := fun _ _ e => by cases e
theorem WfShape.nativeSampleExpiry (n : Fin 64) : WfShape.Statement (.nativeSampleExpiry n) := fun _ _ e => by cases e
theorem WfShape.dumpNow : WfShape.Statement .dumpNow := fun _ _ e => by cases e
theorem WfShape.dumpRingReset : WfShape.Statement .dumpRingReset := fun _ _ e => by cases e
theorem WfShape.dump : WfShape.Statement .dump := fun _ _ e => by cases e
theorem WfShape.periodicSample (n : Fin 64) : WfShape.Statement (.periodicSample n) := fun _ _ e => by cases e
theorem WfShape.sampleWrite : WfShape.Statement .sampleWrite := fun _ _ e => by cases e
theorem WfShape.dmaWriteComp (txid : BitVec 16) (status : BitVec 3) : WfShape.Statement (.dmaWriteComp txid status) := fun _ _ e => by cases e
theorem WfShape.tierTempGauge (readings : BitVec 64) : WfShape.Statement (.tierTempGauge readings) := fun _ _ e => by cases e
theorem WfShape.traceDmaWrite (b : Fin 4) : WfShape.Statement (.traceDmaWrite b) := fun _ _ e => by cases e
theorem WfShape.traceIdleFlush (b : Fin 4) : WfShape.Statement (.traceIdleFlush b) := fun _ _ e => by cases e
theorem WfShape.traceDmaComp (txid : BitVec 16) (status : BitVec 3) : WfShape.Statement (.traceDmaComp txid status) := fun _ _ e => by cases e
theorem WfShape.traceTriggerCmd : WfShape.Statement .traceTriggerCmd := fun _ _ e => by cases e
theorem WfShape.traceRestart : WfShape.Statement .traceRestart := fun _ _ e => by cases e
theorem WfShape.traceFlush : WfShape.Statement .traceFlush := fun _ _ e => by cases e
theorem WfShape.traceStop : WfShape.Statement .traceStop := fun _ _ e => by cases e
theorem WfShape.watchRead : WfShape.Statement .watchRead := fun _ _ e => by cases e
theorem WfShape.watchClear : WfShape.Statement .watchClear := fun _ _ e => by cases e
theorem WfShape.watchArm : WfShape.Statement .watchArm := fun _ _ e => by cases e
theorem WfShape.watchDisarm : WfShape.Statement .watchDisarm := fun _ _ e => by cases e
theorem WfShape.watchScan : WfShape.Statement .watchScan := fun _ _ e => by cases e
theorem WfShape.watchScanStep : WfShape.Statement .watchScanStep := fun _ _ e => by cases e
theorem WfShape.drainHalt : WfShape.Statement .drainHalt := fun _ _ e => by cases e
theorem WfShape.drainHaltDone : WfShape.Statement .drainHaltDone := fun _ _ e => by cases e
theorem WfShape.drainClean : WfShape.Statement .drainClean := fun _ _ e => by cases e
theorem WfShape.drainCleanSweepStep : WfShape.Statement .drainCleanSweepStep := fun _ _ e => by cases e
theorem WfShape.drainEmpty : WfShape.Statement .drainEmpty := fun _ _ e => by cases e
theorem WfShape.drainEmptySweepStep : WfShape.Statement .drainEmptySweepStep := fun _ _ e => by cases e
theorem WfShape.resume : WfShape.Statement .resume := fun _ _ e => by cases e
theorem WfShape.inspectLine : WfShape.Statement .inspectLine := fun _ _ e => by cases e
theorem WfShape.wfgSnapshot : WfShape.Statement .wfgSnapshot := fun _ _ e => by cases e
theorem WfShape.snapshotWriteComp (txid : BitVec 16) (status : BitVec 3) : WfShape.Statement (.snapshotWriteComp txid status) := fun _ _ e => by cases e
theorem WfShape.fwLoad : WfShape.Statement .fwLoad := fun _ _ e => by cases e
theorem WfShape.fwActivate : WfShape.Statement .fwActivate := fun _ _ e => by cases e
theorem WfShape.fwReady : WfShape.Statement .fwReady := fun _ _ e => by cases e
theorem WfShape.activationRevert : WfShape.Statement .activationRevert := fun _ _ e => by cases e
theorem WfShape.watchdogExpiry : WfShape.Statement .watchdogExpiry := fun _ _ e => by cases e
theorem WfShape.stewardTrap : WfShape.Statement .stewardTrap := fun _ _ e => by cases e
theorem WfShape.tenantSwitch : WfShape.Statement .tenantSwitch := fun _ _ e => by cases e
theorem WfShape.tenantSweepStep : WfShape.Statement .tenantSweepStep := fun _ _ e => by cases e
theorem WfShape.sealKeyLoad : WfShape.Statement .sealKeyLoad := fun _ _ e => by cases e
theorem WfShape.sealKeyErase : WfShape.Statement .sealKeyErase := fun _ _ e => by cases e
theorem WfShape.invalidCommand : WfShape.Statement .invalidCommand := fun _ _ e => by cases e
theorem WfShape.cmdWhileBusy (k : Nat) : WfShape.Statement (.cmdWhileBusy k) := fun _ _ e => by cases e
theorem WfShape.mailboxDataWrite (k : Nat) : WfShape.Statement (.mailboxDataWrite k) := fun _ _ e => by cases e
theorem WfShape.mailboxDataRead (k : Nat) : WfShape.Statement (.mailboxDataRead k) := fun _ _ e => by cases e
theorem WfShape.dresetAbort (k : Nat) : WfShape.Statement (.dresetAbort k) := fun _ _ e => by cases e
theorem WfShape.mailboxStreamTimeout (t : Fin 16) : WfShape.Statement (.mailboxStreamTimeout t) := fun _ _ e => by cases e
theorem WfShape.evqPop (k : Nat) : WfShape.Statement (.evqPop k) := fun _ _ e => by cases e
theorem WfShape.errPop (k : Nat) : WfShape.Statement (.errPop k) := fun _ _ e => by cases e
theorem WfShape.fatalClr (k : Nat) : WfShape.Statement (.fatalClr k) := fun _ _ e => by cases e
theorem WfShape.alertClear (k : Nat) : WfShape.Statement (.alertClear k) := fun _ _ e => by cases e
theorem WfShape.registerWrite (k : Nat) : WfShape.Statement (.registerWrite k) := fun _ _ e => by cases e
theorem WfShape.regulationWindowEnd (c : Fin 16) : WfShape.Statement (.regulationWindowEnd c) := fun _ _ e => by cases e
theorem WfShape.patrolScrubStep : WfShape.Statement .patrolScrubStep := fun _ _ e => by cases e
theorem WfShape.leakDecay : WfShape.Statement .leakDecay := fun _ _ e => by cases e
theorem WfShape.live : WfShape.Statement .live := fun _ _ e => by cases e
theorem WfShape.ftValid (run : List FtSample) : WfShape.Statement (.ftValid run) := fun _ _ e => by cases e
theorem WfShape.ftInvalid : WfShape.Statement .ftInvalid := fun _ _ e => by cases e
theorem WfShape.pmGrant : WfShape.Statement .pmGrant := fun _ _ e => by cases e
theorem WfShape.powerTransitionDone : WfShape.Statement .powerTransitionDone := fun _ _ e => by cases e
theorem WfShape.porstAssert : WfShape.Statement .porstAssert := fun _ _ e => by cases e
theorem WfShape.porstRelease (chip : BitVec 14) (sreqid : BitVec 12) : WfShape.Statement (.porstRelease chip sreqid) := fun _ _ e => by cases e
theorem WfShape.bootWord (data : BitVec 32) : WfShape.Statement (.bootWord data) := fun _ _ e => by cases e
theorem WfShape.drstAssert : WfShape.Statement .drstAssert := fun _ _ e => by cases e
theorem WfShape.drstRelease : WfShape.Statement .drstRelease := fun _ _ e => by cases e
theorem WfShape.supplyFail : WfShape.Statement .supplyFail := fun _ _ e => by cases e
theorem WfShape.egressHeaderTransfer (p : DPort) (ordy : BitVec 5) : WfShape.Statement (.egressHeaderTransfer p ordy) := fun _ _ e => by cases e
theorem WfShape.eventNotice : WfShape.Statement .eventNotice := fun _ _ e => by cases e
theorem WfShape.inspectLineRecord : WfShape.Statement .inspectLineRecord := fun _ _ e => by cases e

end Sys2Proof.Laws
end

