-- ==== Sys2Proof/Tests/Slice0.lean ====
section
/-! SUPPORT. Tests: the checks of WellFormed refuse ill-formed commands; for each obligation with hypotheses a state and operands that meet them
(its theorem is named test_hyp_…); examples of the standards that the spec names. Expected values come from the spec, never from the model. -/

open Sys2Proof Sys2Proof.Machine

namespace Sys2Proof.Tests

set_option Elab.async false


/-! ### Ill-formed commands -/

def badMsg : Msg := { hdr := 0, beats := [0, 0, 0, 0], be := [0, 0, 0, 0] }
def noEnables : Msg := { hdr := 0, beats := [0], be := [] }

theorem test_wf_requestIngress : (Instr.requestIngress .d0 badMsg 0).wf = false ∧ (Instr.requestIngress .d0 noEnables 0).wf = false := by decide
theorem test_wf_sPortRequest : (Instr.sPortRequest badMsg).wf = false := by decide
theorem test_wf_answers : (Instr.snpAck .d0 badMsg).wf = false ∧ (Instr.compAck .d0 badMsg).wf = false ∧ (Instr.dataHome .d0 badMsg).wf = false ∧
    (Instr.wbData .d0 badMsg).wf = false ∧ (Instr.unmatchedAnswer .d1 badMsg).wf = false ∧ (Instr.unexpectedMessage .d1 badMsg).wf = false ∧
    (Instr.tempRpt .d1 badMsg).wf = false := by decide
theorem test_wf_regTimeout : (Instr.regTimeout .d0 16).wf = false ∧ (Instr.regTimeout .d0 15).wf = true ∧ (Instr.regTimeout .hw 16).wf = true := by decide
theorem test_wf_heldRequestRepresent : (Instr.heldRequestRepresent .d0 128).wf = false ∧ (Instr.heldRequestRepresent .d0 127).wf = true := by decide
theorem test_wf_tally : (Instr.twaitRelease 256).wf = false ∧ (Instr.tallyDeadline 256).wf = false ∧ (Instr.twaitRelease 255).wf = true := by decide
theorem test_wf_fenAllocZeroed : (Instr.fenAllocZeroed 64).wf = false ∧ (Instr.fenAllocZeroed 63).wf = true := by decide

/-! ### States -/

/-- A state whose stores are in canonical form, as a check. -/
def canon (s : State) : Bool :=
  swf (fun _ => TagE.zero) s.arr.tags && swf (fun _ => 0) s.arr.data && swf (fun _ => 0) s.arr.plru && swf (fun _ => Power.off) s.pw.dom &&
  swf (fun _ => Bank.reset) s.banks && swf tblDflt s.gen.live && swf tblDflt s.gen.shadow &&
  (s.gen.armed.all fun a => swf tblDflt a.cand) && (s.gen.wait.all fun a => swf tblDflt a.cand) &&
  swf (fun _ => 0) s.d0.q && swf (fun _ => 0) s.d1.q && swf (fun _ => 0) s.d0.owed && swf (fun _ => 0) s.d1.owed && swf (fun _ => 0) s.tal.val &&
  swf (fun _ => SedgeE.zero) s.home.sedge && swf (fun _ => 0) s.home.splru && swf (fun _ => PredE.zero) s.home.pred &&
  swf (fun _ => Win.zero) s.regul.win && swf (fun _ => 0) s.regul.levels && swf (fun _ => Key.zero) s.keys && swf (fun _ => Ctr.reset) s.ctr.ctr &&
  swf (fun _ => 0) s.ctr.f && swf (fun _ => TBuf.reset) s.peat.bufs && swf (fun _ => Wat.zero) s.peat.wat && swf (fun _ => Mbx.reset) s.mbx

theorem canon_ok {s : State} (h : canon s = true) : Canonical s := by
  simp only [canon, Bool.and_eq_true, Option.all_eq_true] at h
  constructor <;> first | exact h.2 | simp only [h] | exact fun a e => h.1.1.1.1.1.1.1.1.1.1.1.1.1.1.1.1.1.2 a e | exact h.1.1.1.1.1.1.1.1.1.1.1.1.1.1.1.1.2

/-- A slice in service: every domain ON, PRESENT 1, FT valid, its image ready. -/
def svc : State :=
  { State.reset with
    clk := { Clock.reset with sclk := 5000, run := 4000, ft := 1000, bus := 1000, ftv := true, seen := true }
    pins := { Pins.reset with porstN := true, present := true, irdy0 := true, irdy1 := true, liveAt := 4744 }
    pw := { dom := (List.range 78).map fun n => (n, Power.on), wants := [], bring := false }
    core := { Core.reset with sup := true, run := true } }

theorem test_svc_canonical : canon svc = true ∧ coreRuns svc = true := by decide +kernel


/-! ### Requests and ports -/

/-- The message of a request, its header from fields (low bit, width, value). -/
def req (op vc sp addr len : Nat) (more : List (Nat × Nat × Nat)) (beats : List (BitVec 512)) (be : List (BitVec 64)) : Msg :=
  { hdr := pack 256 ([(250, 6, op), (248, 2, sp), (245, 3, vc), (134, 8, len), (0, 44, addr)] ++ more), beats := beats, be := be }

/-- The request of a message as the service state classifies it. -/
def cls (p : Port) (m : Msg) (l : Option FenLoc) : Req := mkReq svc p .port m l none

/-- The only entry of D0 is request `r`. -/
def onD0 (r : Req) (s : State) : State := { s with d0 := { s.d0 with ing := [newEntry r 0] } }

/-- The oldest S request is `r`. -/
def onS (r : Req) (s : State) : State := { s with sq := [r] }

theorem presents_d0 {s : State} {r : Req} (h : r.port = .d0 ∧ yields s .d0 r = false ∧ (selectReq s .d0).map (·.2.1.req) = some r) :
    Presents s .d0 r := by
  obtain ⟨hp, hy, h⟩ := h
  cases hs : selectReq s .d0 with
  | none => simp [hs] at h
  | some x => exact ⟨hp, hy, x, hs, by simpa [hs] using h⟩

theorem presents_s {s : State} {r : Req} (h : r.port = .s ∧ s.sq.head? = some r) : Presents s .s r := ⟨h.1, h.2⟩

theorem takes_d0 {s : State} {c : Instr} {r : Req}
    (h : r.src = .port ∧ stepOf c = some (.d0, hOpcode r.msg) ∧ r.port = .d0 ∧ yields s .d0 r = false ∧
      (selectReq s .d0).map (·.2.1.req) = some r) : Takes s c r :=
  ⟨h.1, .inl ⟨_, h.2.1, rfl, presents_d0 h.2.2⟩⟩

/-- What `TakesMem` says beside `Takes`. -/
def memOk (s : State) (r : Req) (op : Nat) : Bool :=
  hOpcode r.msg == op && r.fen.isNone && s.bad.isEmpty && (hteInH s (hLine r.msg)).isNone && (sedgeFind s (hLine r.msg)).isNone

theorem takes_mem {s : State} {c : Instr} {r : Req} {op : Nat} (h : Takes s c r) (m : memOk s r op = true) : TakesMem s c r op := by
  simp only [memOk, Bool.and_eq_true, beq_iff_eq, Option.isNone_iff_eq_none, List.isEmpty_iff] at m
  exact ⟨h, m.1.1.1.1, m.1.1.1.2, m.1.1.2, m.1.2, m.2⟩

theorem takes_mem0 {s : State} {c : Instr} {r : Req} {op : Nat}
    (h : (r.src = .port ∧ stepOf c = some (.d0, hOpcode r.msg) ∧ r.port = .d0 ∧ yields s .d0 r = false ∧
      (selectReq s .d0).map (·.2.1.req) = some r) ∧ memOk s r op = true) : TakesMem s c r op := takes_mem (takes_d0 h.1) h.2

/-- Class 15's reserve is one entry less than at reset, so that the common room is 1. -/
def roomy : State := { svc with gen := { svc.gen with live := tblSet [] 2 15 (tblReset 2 15 - 2 ^ 32) } }

/-- D0 with a free credit of class 0, and with no room at all. -/
def credited : State := { svc with d0 := { svc.d0 with q := [(0, 1)] } }
def crowded : State := { svc with d0 := { svc.d0 with q := [(1, 128)] } }

def all64 : BitVec 64 := BitVec.allOnes 64
def mRd : Msg := req Op.rd Vc.req 0 0x12345600 64 [] [] []
def mRegRd : Msg := req Op.rd Vc.req 2 0x10 4 [] [] []

theorem test_hyp_placed_credit : hVc mRd = Vc.req ∧ takesReq credited .d0 = true ∧ classify credited .d0 mRd = .req (cls .d0 mRd none) ∧
    creditHeld credited.d0 0 = true := by decide +kernel
theorem test_hyp_placed_common : takesReq roomy .d1 = true ∧ classify roomy .d1 mRd = .req (cls .d1 mRd none) ∧ creditHeld roomy.d1 0 = false ∧
    commonRoom roomy.t roomy.d1 = true := by decide +kernel
theorem test_hyp_placed_skid : takesReq crowded .d0 = true ∧ classify crowded .d0 mRd = .req (cls .d0 mRd none) ∧ creditHeld crowded.d0 0 = false ∧
    commonRoom crowded.t crowded.d0 = false := by decide +kernel

/-- A REG queue of 15. -/
def regBusy : State := { svc with d0 := { svc.d0 with regq := List.replicate 15 { port := .d0, msg := mRegRd, tc := 0, at_ := 0 } } }
theorem test_hyp_placed_reg : takesReq regBusy .d0 = true ∧ hVc mRegRd = Vc.req ∧ classify regBusy .d0 mRegRd = .reg 0 ∧ (portGet regBusy .d0).regq.length < 16 := by
  decide +kernel

/-- A full REG queue: the request takes an ingress entry. -/
def regFull : State := { svc with d0 := { svc.d0 with regq := List.replicate 16 { port := .d0, msg := mRegRd, tc := 0, at_ := 0 } } }
theorem test_hyp_placed_regFull : takesReq regFull .d0 = true ∧ classify regFull .d0 mRegRd = .reg 0 ∧ 16 ≤ (portGet regFull .d0).regq.length := by
  decide +kernel

/-- A single segment 5 of one granule in frame 903, of context 0, with way group 7 Fen. -/
def seg5 : Seg :=
  { id := 5, owner := 0, tcmask := 1, dual := false, lo := 0, loB := false, gran := 1, fa := [903], fb := [], bken := true, bpa := 0x100, flip := none }
def fenSvc : State :=
  { svc with gen := { svc.gen with live := tblSet [] Tid.part 0 0x00400281 }, fen := { svc.fen with segs := [seg5] },
             arr := { svc.arr with tags := [(frameKey 903 3, { TagE.zero with v := true })] } }
def fenAt : FenLoc := fenLoc seg5 false 0x180
def mFen (op len : Nat) (more : List (Nat × Nat × Nat)) (b : List (BitVec 512)) (be : List (BitVec 64)) : Msg :=
  req op Vc.req 1 (5 * 2 ^ 26 + 0x180) len more b be

theorem test_hyp_placed_s : fenSvc.pins.present = true ∧ classify fenSvc .s (mFen Op.rd 128 [] [] []) = .req (cls .s (mFen Op.rd 128 [] [] []) (some fenAt)) := by
  decide +kernel

theorem test_hyp_refused : hVc (req 0x3F Vc.req 0 0 0 [] [] []) = Vc.req ∧ classify svc .d0 (req 0x3F Vc.req 0 0 0 [] [] []) = .refuse St.unsupported ∧
    classify svc .d0 (req Op.rd Vc.req 0 0 0 [] [] []) = .zero ∧ classify svc .s (req Op.rd Vc.req 0 0 64 [] [] []) = .refuse St.unsupported ∧
    classify fenSvc .s (mFen Op.rd 0 [] [] []) = .zero := by decide +kernel

/-- Requests of memory at PA 0x40, each of which breaks step 1 in its own way. -/
def broken : List Msg :=
  [req Op.rd Vc.req 0 0x40 64 [(44, 1, 1)] [] [], req Op.twait Vc.req 0 0 0 [] [2 ^ 48] [all64], req 0x3F Vc.req 0 0x40 64 [] [] [],
    req Op.chainRd Vc.req 1 0 0 [] [0] [all64], req Op.rd Vc.req 0 0x40 64 [(205, 14, 1)] [] [], req Op.wr Vc.req 0 0x40 64 [] [] [],
    req Op.rd Vc.req 3 0x40 64 [] [] [], req Op.red Vc.req 2 0x40 4 [] [0] [all64], req Op.rd Vc.req 1 (2 ^ 32) 64 [] [] [],
    req Op.rdOnce Vc.req 1 0 64 [] [] [], req Op.rd Vc.req 2 0 16 [] [] [], req Op.rd Vc.req 2 4 8 [] [] [], req Op.rd Vc.req 2 (2 ^ 16) 4 [] [] [],
    req Op.rd Vc.req 0 0x40 65 [] [] [], req Op.red Vc.req 0 0x40 4 [(142, 4, 6)] [0] [all64], req Op.red Vc.req 0 0x41 4 [(146, 4, 14)] [0] [all64],
    req Op.atom Vc.req 0 0x40 0 [(142, 4, 10)] [0] [all64], req Op.atomC Vc.req 0 0x42 0 [(146, 4, 14)] [0] [all64],
    req Op.evict Vc.req 0 0x40 0 [(219, 14, 1)] [] [], req Op.maceSub Vc.req 0 0 0 [] [1, 2 ^ 511] [all64, all64]]
/-- What each of them breaks. -/
def breach (i : Nat) (m : Msg) : Bool :=
  match i with
  | 0 => hRsv m != 0 | 1 => !payloadOk m | 2 => !isReqOp (hOpcode m) | 3 => hOpcode m == Op.chainRd | 4 => hDst m != chipN svc
  | 5 => m.beats.length != beatsWanted m | 6 => hAspace m == 3 | 7 => hAspace m == 2 && hOpcode m == Op.red
  | 8 => hAspace m == 1 && decide (2 ^ 32 ≤ hAddr m) | 9 => hAspace m == 1 && hOpcode m == Op.rdOnce | 10 => hAspace m == 2 && hLen m == 16
  | 11 => hAspace m == 2 && hAddr m % hLen m != 0 | 12 => hAspace m == 2 && decide (2 ^ 16 ≤ hAddr m) | 13 => decide (128 < hOff m + hLen m)
  | 14 => !redComboOk (hFmt m) (hOp m) | 15 => !redShapeOk m | 16 => !atomComboOk (hFmt m) (hOp m) | 17 => hAddr m % atomSize (hFmt m) != 0
  | 18 => isCohOp (hOpcode m) && hSrc m != chipN svc | _ => hOpcode m == Op.maceSub && !descOk (msgDesc m)
theorem test_hyp_ingress : broken.length = 20 ∧ (broken.zipIdx.all fun x => hVc x.1 == Vc.req && breach x.2 x.1) = true ∧ takesReq svc .d0 = true := by
  decide +kernel
theorem test_hyp_ingress_class : hVc (req Op.rd Vc.rsp 0 0x40 64 [] [] []) ≠ Vc.req ∧ svc.pins.present = true ∧
    isReqOp (hOpcode (req Op.rd Vc.rsp 0 0x40 64 [] [] [])) = true := by decide +kernel

/-- REQID 9 is of context 2 and agent 6, REQID 8 of none; regions of PA 0x10000 for context 0 alone, of 0x20000 read-only, of 0x30000 sealed. -/
def ruled : State :=
  let g := tblSet (tblSet [] Tid.reqmap 9 0x80106020) Tid.reqmap 8 0
  let g := tblSet (tblSet g Tid.rat 0 (2 ^ 112 + 2 ^ 64 + 2 ^ 36)) Tid.rat 1 (0xFFFF * 2 ^ 112 + 2 ^ 107 + 2 ^ 64 + 2 * 2 ^ 36)
  { svc with gen := { svc.gen with live := tblSet g Tid.rat 2 (4 * 2 ^ 112 + 2 ^ 106 + 2 ^ 64 + 3 * 2 ^ 36) } }
/-- A message of REQID 9 with its context. -/
def of9 (op sp addr len : Nat) (l : List (Nat × Nat × Nat)) : Msg := req op Vc.req sp addr len ([(233, 12, 9), (201, 4, 2)] ++ l) [] []
theorem known {s : State} {m : Msg} (h : hVc m = Vc.req ∧ takesReq s .d0 = true ∧ ingressOk s .d0 m = true ∧ rmV s.t (hReqid m) = true ∧
    hTc m = rmTc s.t (hReqid m)) : Known s .d0 m :=
  let ⟨vc, takes, ok, known, tc⟩ := h; ⟨vc, takes, ok, known, tc⟩
theorem test_hyp_denied : ingressOk ruled .d0 (req Op.rd Vc.req 0 0x40 64 [(233, 12, 8)] [] []) = true ∧ rmV ruled.t 8 = false ∧
    ingressOk ruled .d0 (req Op.rd Vc.req 0 0x40 64 [(233, 12, 9)] [] []) = true ∧ rmTc ruled.t 9 = 2 := by decide +kernel
theorem test_hyp_denied_reg : Known ruled .d0 (of9 Op.rd 2 0x100 4 []) ∧ regPermits 2 0x100 false = false := ⟨known (by decide +kernel), by decide +kernel⟩
theorem test_hyp_denied_mem : Known ruled .d0 (of9 Op.rdShr 0 0x80000 0 [(120, 8, 7)]) ∧ Known ruled .d0 (of9 Op.rd 0 0x10000 64 []) ∧
    Known ruled .d0 (of9 Op.rdUnq 0 0x20000 0 [(120, 8, 6)]) ∧ Known ruled .d0 (of9 Op.rd 0 0x30000 64 []) ∧ rmCagent ruled.t 9 = 6 ∧
    ratPermits ruled.t 0x10000 2 = false ∧ (ratAttr ruled.t 0x20000).ro = true ∧ (ratAttr ruled.t 0x30000).sealed = true ∧
    tenMacsize ruled.t 2 = 0 :=
  ⟨known (by decide +kernel), known (by decide +kernel), known (by decide +kernel), known (by decide +kernel), by decide +kernel⟩
/-- The same slice with segment 5, and with region 2 of 40 elements on its first two lines. -/
def region40 : Region :=
  { rid := 2, seg := 5, rfmt := 1, n := 40, rbase := 0, doff := 0x8000, frames := [905], opener := 0, mbx := 0, nten := true, ntally := 9, opened := true,
    openFt := 0, openRun := 0, res := none }
def ruledFen (g : Seg) : State := { ruled with fen := { ruled.fen with segs := [g], regions := [region40] } }
def seg5for2 : Seg := { seg5 with tcmask := 4 }
def fen9 (op off len : Nat) (l : List (Nat × Nat × Nat)) (b : List (BitVec 512)) (be : List (BitVec 64)) : Msg :=
  req op Vc.req 1 (5 * 2 ^ 26 + off) len ([(233, 12, 9), (201, 4, 2)] ++ l) b be
theorem test_hyp_denied_fen : Known ruled .d0 (fen9 Op.rd 0 64 [] [] []) ∧ segFind ruled 5 = none ∧ Known (ruledFen seg5) .d0 (fen9 Op.rd 0 64 [] [] []) ∧
    nbit seg5.tcmask.toNat 2 = false ∧ Known (ruledFen seg5for2) .d0 (fen9 Op.rd 0x10000 64 [] [] []) ∧ seg5for2.gran * 65536 ≤ 0x10000 :=
  ⟨known (by decide +kernel), by decide +kernel, known (by decide +kernel), by decide +kernel, known (by decide +kernel), by decide +kernel⟩
def seg5dual : Seg := { seg5for2 with dual := true, fb := [904], lo := 2 }
theorem test_hyp_stale : Known (ruledFen seg5dual) .d0 (fen9 Op.rd 0 64 [(150, 2, 1)] [] []) ∧ segFind (ruledFen seg5dual) 5 = some seg5dual ∧
    nbit seg5dual.tcmask.toNat 2 = true ∧ copyOf (ruledFen seg5dual) seg5dual 1 = none := ⟨known (by decide +kernel), by decide +kernel⟩
/-- A RED of FP32 at element 40, which is past the region, and one that takes a minimum at element 39. -/
def redOut : Msg := fen9 Op.red 0xA0 4 [(146, 4, 1)] [0] [BitVec.ofNat 64 (0xF * 2 ^ 32)]
def redMin : Msg := fen9 Op.red 0x9C 4 [(146, 4, 1), (142, 4, 1)] [0] [BitVec.ofNat 64 (0xF * 2 ^ 28)]
theorem test_hyp_region : Known (ruledFen seg5for2) .d0 redOut ∧ Known (ruledFen seg5for2) .d0 redMin ∧
    (regionAt (ruledFen seg5for2) 5 0xA0).map Region.rid = some 2 ∧ (regionAt (ruledFen seg5for2) 5 0x9C).map Region.rid = some 2 ∧
    (match msgAsk redOut with | .arith b el => b && (el 1).any (fun n => 40 ≤ n) | .plain => false) = true ∧
    (match msgAsk redMin with | .arith b _ => !b | .plain => false) = true :=
  ⟨known (by decide +kernel), known (by decide +kernel), by decide +kernel⟩
theorem test_hyp_fixed : Known ruled .d0 (of9 Op.rd 0 0x40000 64 []) ∧ memPermits ruled 0x40000 2 false = true ∧
    isZeroLen (of9 Op.rd 0 0x40000 64 []) = false ∧ isZeroLen (of9 Op.rd 0 0x40000 0 []) = true ∧ Known ruled .d0 (of9 Op.rd 0 0x40000 0 []) :=
  ⟨known (by decide +kernel), by decide +kernel, by decide +kernel, by decide +kernel, known (by decide +kernel)⟩
theorem test_hyp_fixed_fen : Known (ruledFen seg5dual) .d0 (fen9 Op.rd 0xFF80 128 [(150, 2, 3)] [] []) ∧
    copyOf (ruledFen seg5dual) seg5dual 3 = some true ∧ 0xFF80 < seg5dual.gran * 65536 := ⟨known (by decide +kernel), by decide +kernel⟩

theorem test_hyp_lend : roomy.pins.present = true ∧ commonRoom roomy.t (portGet roomy .d0) = true ∧
    lendTo roomy (portGet roomy .d0) 0x8000 = some (15, true) ∧ swf (fun _ => 0) (portGet roomy .d0).q = true ∧
    swf (fun _ => 0) (portGet roomy .d0).owed = true := by decide +kernel
/-- A request held for a miss entry, of which all are free again. -/
def held : State := { svc with d0 := { svc.d0 with ing := [{ newEntry (cls .d0 mRd none) 0 with hold := some .missFull, held := true }] } }
theorem test_hyp_held : (portGet held .d0).ing[0]?.bind Ing.hold = some .missFull ∧ holdOver held (cls .d0 mRd none) .missFull = true ∧
    held.srv.halt = false := by decide +kernel


/-! ### Steps at the tag pipes -/

/-- The line of PA 0x12345600, and its way 4 in the array. -/
def theLine : LAddr := lineAddr 0x12345600
def theKey : Nat := wkey (liveSet svc theLine) 4
def theTag : TagE := { TagE.zero with v := true, lo := theLine.extractLsb' 0 14, tag := theLine.extractLsb' 14 23 }

/-- The slice holds the line, its first byte 5 and its fifth 7. -/
def hit : State := { svc with arr := { tags := [(theKey, theTag)], data := [(theKey, 0x0700000005)], plru := [] } }

def mem (op len : Nat) (more : List (Nat × Nat × Nat)) (b : List (BitVec 512)) (be : List (BitVec 64)) : Msg := req op Vc.req 0 0x12345600 len more b be
def rq (op len : Nat) (more : List (Nat × Nat × Nat)) (b : List (BitVec 512)) (be : List (BitVec 64)) : Req := cls .d0 (mem op len more b be) none

def rRd : Req := rq Op.rd 64 [] [] []
def rRdOnce : Req := rq Op.rdOnce 128 [] [] []
def rWr : Req := rq Op.wr 8 [(152, 1, 1), (153, 12, 9)] [0x1122] [0xFF]
def rWrWhole : Req := rq Op.wr 128 [] [1, 2] [all64, all64]
/-- An I32 ADD of 3 to the line's second word, and an I32 swap with RET. -/
def rRed : Req := rq Op.red 8 [(146, 4, 14), (142, 4, 0)] [0x0000000300000000] [0xF0]
def rAtom : Req := rq Op.atom 0 [(146, 4, 14), (142, 4, 6), (133, 1, 1)] [9] [all64]

theorem test_theKey : theKey = 32 * 0x283D + 4 := by decide +kernel

theorem test_hyp_readHit : TakesMem (onD0 rRd hit) (.rd .d0) rRd Op.rd ∧ placeOf (onD0 rRd hit) (hLine rRd.msg) = .way theKey :=
  ⟨takes_mem0 (by decide +kernel), by decide +kernel⟩
theorem test_hyp_readOnceHit : TakesMem (onD0 rRdOnce hit) (.rdOnce .d0) rRdOnce Op.rdOnce ∧ placeOf (onD0 rRdOnce hit) (hLine rRdOnce.msg) = .way theKey :=
  ⟨takes_mem0 (by decide +kernel), by decide +kernel⟩

/-- The home looks the read up again. -/
theorem test_hyp_relookup : TakesMem { hit with home := { hit.home with relook := [rRd] } } (.hteRelookup 0) rRd Op.rd :=
  takes_mem ⟨rfl, .inr ⟨0, by decide +kernel⟩⟩ (by decide +kernel)

theorem test_hyp_writeHit : TakesMem (onD0 rWr hit) (.wr .d0) rWr Op.wr ∧ rWr.poi = false ∧ Canonical (onD0 rWr hit) ∧
    placeOf (onD0 rWr hit) (hLine rWr.msg) = .way theKey ∧ hTen rWr.msg = true ∧ maskCount (wrMask rWr.msg) = 8 :=
  ⟨takes_mem0 (by decide +kernel), rfl, canon_ok (by decide +kernel), by decide +kernel⟩

/-- The same in a WTHRU region. -/
def rWrThru : Req := { rWr with attr := { rWr.attr with wpol := 2 } }
theorem test_hyp_writeThru : TakesMem (onD0 rWrThru hit) (.wr .d0) rWrThru Op.wr ∧ placeOf (onD0 rWrThru hit) (hLine rWrThru.msg) = .way theKey :=
  ⟨takes_mem0 (by decide +kernel), by decide +kernel⟩

/-- The line in Mire entry 3; every way of its set dirty, and Mire full; no way that may be used. -/
def inMire : MireE := { id := 3, line := theLine, data := 5, poi := false, sealed := false, tc := 0, qc := 0, sent := false, redirty := false, macOut := false }
def mired : State := { svc with mp := { MPort.reset with mire := [inMire] } }
def dirtySet : State :=
  { svc with arr := { svc.arr with tags := (List.range 32).map fun w => (wkey 0x283D w, { TagE.zero with v := true, d := true, tag := BitVec.ofNat 23 (w + 1) }) } }
def noBanks : State := { svc with pw := { svc.pw with dom := ((List.range 14).map fun n => (64 + n, Power.on)) } }
def mireBusy : State := { dirtySet with mp := { MPort.reset with mire := (List.range 64).map fun i => { inMire with id := i, line := BitVec.ofNat 37 i } } }

theorem test_hyp_mire : TakesMem (onD0 rRd mired) (.rd .d0) rRd Op.rd ∧ placeOf (onD0 rRd mired) (hLine rRd.msg) = .mire inMire ∧
    TakesMem (onD0 rWr mired) (.wr .d0) rWr Op.wr ∧ placeOf (onD0 rWr mired) (hLine rWr.msg) = .mire inMire ∧ canon (onD0 rWr mired) = true ∧
    TakesMem (onD0 rRed mired) (.red .d0) rRed Op.red ∧ placeOf (onD0 rRed mired) (hLine rRed.msg) = .mire inMire ∧ inMire.poi = false :=
  ⟨takes_mem0 (by decide +kernel), by decide +kernel, takes_mem0 (by decide +kernel),
    by decide +kernel, by decide +kernel, takes_mem0 (by decide +kernel), by decide +kernel, rfl⟩

/-- A miss entry of the line that waits to read it. -/
def entry : Miss := missFor svc rRd
def missing : State := { svc with mp := { MPort.reset with miss := [entry] } }
theorem test_hyp_attach : TakesMem (onD0 rRd missing) (.rd .d0) rRd Op.rd ∧ TakesMem (onD0 rRed missing) (.red .d0) rRed Op.red ∧
    TakesMem (onD0 rWr missing) (.wr .d0) rWr Op.wr ∧ canon (onD0 rWr missing) = true ∧ placeOf missing theLine = .miss entry ∧ missTakes entry = true ∧
    missRoom entry = true ∧ missFilled entry = false :=
  ⟨takes_mem0 (by decide +kernel), takes_mem0 (by decide +kernel),
    takes_mem0 (by decide +kernel), by decide +kernel⟩

theorem test_hyp_around : TakesMem (onD0 rWrThru svc) (.wr .d0) rWrThru Op.wr ∧ placeOf (onD0 rWrThru svc) theLine = .absent ∧ rWrThru.attr.wpol ≠ 0 ∧
    missRefuse (onD0 rWrThru svc) rWrThru = none ∧ canon (onD0 rWrThru svc) = true :=
  ⟨takes_mem0 (by decide +kernel), by decide +kernel⟩
/-- What a write of the whole line finds in its set: a victim, and whether it is dirty and Mire full. -/
def wholeVictim (s : State) : Option (Nat × Bool × Bool) :=
  (victim s rWrWhole.qc.toNat rWrWhole.tc.toNat (instSet s (hLine rWrWhole.msg) rWrWhole.set.toNat)).map fun w =>
    let e := tagGet s (wkey (instSet s (hLine rWrWhole.msg) rWrWhole.set.toNat) w)
    (w, e.v && e.d, mireFull s)
theorem test_hyp_whole : TakesMem (onD0 rWrWhole svc) (.wr .d0) rWrWhole Op.wr ∧ TakesMem (onD0 rWrWhole dirtySet) (.wr .d0) rWrWhole Op.wr ∧
    TakesMem (onD0 rWrWhole noBanks) (.wr .d0) rWrWhole Op.wr ∧ TakesMem (onD0 rWrWhole mireBusy) (.wr .d0) rWrWhole Op.wr :=
  ⟨takes_mem0 (by decide +kernel), takes_mem0 (by decide +kernel),
    takes_mem0 (by decide +kernel), takes_mem0 (by decide +kernel)⟩
theorem test_hyp_whole_victims : rWrWhole.attr.wpol = 0 ∧ wrMask rWrWhole.msg = fullMask ∧ wholeVictim (onD0 rWrWhole svc) = some (0, false, false) ∧
    wholeVictim (onD0 rWrWhole dirtySet) = some (0, true, false) ∧ wholeVictim (onD0 rWrWhole noBanks) = none ∧
    wholeVictim (onD0 rWrWhole mireBusy) = some (0, true, true) := by decide +kernel
theorem test_hyp_whole_absent : ([svc, dirtySet, noBanks, mireBusy].all fun s => canon (onD0 rWrWhole s) && decide (placeOf (onD0 rWrWhole s) theLine = .absent) &&
    (missRefuse (onD0 rWrWhole s) rWrWhole).isNone) = true := by decide +kernel

theorem test_hyp_redHit : TakesMem (onD0 rRed hit) (.red .d0) rRed Op.red ∧ rRed.poi = false ∧ Canonical (onD0 rRed hit) ∧
    placeOf (onD0 rRed hit) (hLine rRed.msg) = .way theKey ∧ (tagGet (onD0 rRed hit) theKey).poi = false :=
  ⟨takes_mem0 (by decide +kernel), rfl, canon_ok (by decide +kernel), by decide +kernel⟩
theorem test_hyp_atomHit : TakesMem (onD0 rAtom hit) (.atom .d0) rAtom Op.atom ∧ Canonical (onD0 rAtom hit) ∧
    placeOf (onD0 rAtom hit) (hLine rAtom.msg) = .way theKey ∧ (tagGet (onD0 rAtom hit) theKey).poi = false :=
  ⟨takes_mem0 (by decide +kernel), canon_ok (by decide +kernel), by decide +kernel⟩

/-- What Clove makes of them: 7 + 3 in the second word; the swapped word, and the old value. -/
theorem test_red_adds : lineNat (applyOp rRed.msg (dataGet hit theKey)).1 4 4 = 10 := by decide +kernel
theorem test_atom_swaps : lineNat (applyOp rAtom.msg (dataGet hit theKey)).1 0 4 = 9 ∧ retVal rAtom.msg (applyOp rAtom.msg (dataGet hit theKey)).2.1 = 5 := by
  decide +kernel

theorem test_hyp_miss : TakesMem (onD0 rRd svc) (.rd .d0) rRd Op.rd ∧ rRd.poi = false ∧ placeOf (onD0 rRd svc) (hLine rRd.msg) = .absent ∧
    missRefuse (onD0 rRd svc) rRd = none :=
  ⟨takes_mem0 (by decide +kernel), by decide +kernel⟩
theorem test_hyp_miss_wr : TakesMem (onD0 rWr svc) (.wr .d0) rWr Op.wr ∧ placeOf (onD0 rWr svc) (hLine rWr.msg) = .absent ∧
    missRefuse (onD0 rWr svc) rWr = none ∧ rWr.attr.wpol = 0 ∧ wrMask rWr.msg ≠ fullMask :=
  ⟨takes_mem0 (by decide +kernel), by decide +kernel⟩

/-- Every line of the request's bank that its cap lets be open is open; the line's miss entry takes no request, or has as many as it may. -/
def capped : Req := { rRd with cap := 0 }
def entryAround : Miss := { entry with kind := .around, st := .writeOut }
def entryFull : Miss := { entry with nAtt := 16 }
def missingAs (e : Miss) : State := { svc with mp := { MPort.reset with miss := [e] } }
theorem test_hyp_miss_held : stepOf (.rd .d0) = some (.d0, Op.rd) ∧ (selectReq (onD0 capped svc) .d0).map (·.2.1) = some (newEntry capped 0) ∧
    yields (onD0 capped svc) .d0 capped = false ∧ placeOf (onD0 capped svc) (hLine capped.msg) = .absent ∧
    missRefuse (onD0 capped svc) capped = some .bankCap ∧ memOk (onD0 capped svc) capped Op.rd = true := by decide +kernel
theorem test_hyp_miss_closed : ([entryAround, entryFull].all fun e => decide ((selectReq (onD0 rRd (missingAs e)) .d0).map (·.2.1) = some (newEntry rRd 0)) &&
    !yields (onD0 rRd (missingAs e)) .d0 rRd && decide (placeOf (onD0 rRd (missingAs e)) theLine = .miss e) && memOk (onD0 rRd (missingAs e)) rRd Op.rd) = true ∧
    missTakes entryAround = false ∧ missTakes entryFull = true ∧ missRoom entryFull = false := by decide +kernel

/-- Requests of the Fen line of segment 5 at 0x180, which is line 3 of frame 903. -/
def fq (p : Port) (op len : Nat) (more : List (Nat × Nat × Nat)) (b : List (BitVec 512)) (be : List (BitVec 64)) : Req := cls p (mFen op len more b be) (some fenAt)
def fenOk (s : State) (r : Req) : Bool :=
  r.fen == some fenAt && r.exact.isNone && !r.poi && s.bad.isEmpty && canon s && !(tagGet s (locKey fenAt)).poi && !keyRetired s (locKey fenAt)

theorem test_hyp_fen_rd : Takes (onD0 (fq .d0 Op.rd 128 [] [] []) fenSvc) (.rd .d0) (fq .d0 Op.rd 128 [] [] []) ∧
    fenOk (onD0 (fq .d0 Op.rd 128 [] [] []) fenSvc) (fq .d0 Op.rd 128 [] [] []) = true :=
  ⟨takes_d0 (by decide +kernel), by decide +kernel⟩
theorem test_hyp_fen_wr : Takes (onD0 (fq .d0 Op.wr 8 [] [1] [0xFF]) fenSvc) (.wr .d0) (fq .d0 Op.wr 8 [] [1] [0xFF]) ∧
    fenOk (onD0 (fq .d0 Op.wr 8 [] [1] [0xFF]) fenSvc) (fq .d0 Op.wr 8 [] [1] [0xFF]) = true :=
  ⟨takes_d0 (by decide +kernel), by decide +kernel⟩
theorem test_hyp_fen_atom : Takes (onD0 (fq .d0 Op.atom 0 [(146, 4, 14)] [9] [all64]) fenSvc) (.atom .d0) (fq .d0 Op.atom 0 [(146, 4, 14)] [9] [all64]) ∧
    fenOk (onD0 (fq .d0 Op.atom 0 [(146, 4, 14)] [9] [all64]) fenSvc) (fq .d0 Op.atom 0 [(146, 4, 14)] [9] [all64]) = true :=
  ⟨takes_d0 (by decide +kernel), by decide +kernel⟩

/-- The scheduled plane reads the line for a chain of one engine. -/
def rChain : Req := fq .s Op.chainRd 0 [(128, 5, 1)] [3] [all64]
theorem test_hyp_fen_s : Takes (onS (fq .s Op.rd 128 [] [] []) fenSvc) (.rd .s) (fq .s Op.rd 128 [] [] []) :=
  ⟨rfl, .inl ⟨_, rfl, by decide +kernel, presents_s (by decide +kernel)⟩⟩
theorem test_hyp_chain : (onS rChain fenSvc).sq.head? = some rChain ∧ rChain.port = .s ∧ rChain.src = .port ∧ hOpcode rChain.msg = Op.chainRd ∧
    classify fenSvc .s rChain.msg = .req rChain ∧ fenOk (onS rChain fenSvc) rChain = true := by decide +kernel


/-! ### Tallies -/

def rTread : Req := cls .d0 (req Op.tread Vc.req 0 0 0 [(153, 12, 9)] [] []) none
def rTwait (thresh : Nat) : Req := cls .d0 (req Op.twait Vc.req 0 0 0 [(153, 12, 9)] [BitVec.ofNat 512 (thresh + 500 * 2 ^ 64)] [all64]) none
def wait (slot thresh : Nat) (b : Bool) : Parked :=
  { slot := slot, req := rTwait thresh, tally := 9, thresh := BitVec.ofNat 48 thresh, deadline := 500, reported := false, parkFt := 0, parkRun := 0,
    by_ := if b then some (1, 2) else none, val := b2n b, due := none }
/-- Tally 9 at 1; of two waits the second has been passed. -/
def waits : State := { svc with tal := { val := [(9, 1)], adds := [], parked := [wait 0 5 false, wait 1 1 true] } }
def waits256 : State := { svc with tal := { val := [], adds := [], parked := List.replicate 256 (wait 0 5 false) } }

theorem test_hyp_tread : Presents (onD0 rTread waits) .d0 rTread ∧ hOpcode rTread.msg = Op.tread ∧ classify waits .d0 rTread.msg = .req rTread :=
  ⟨presents_d0 (by decide +kernel), by decide +kernel⟩
theorem test_hyp_twait_passed : Presents (onD0 (rTwait 1) waits) .d0 (rTwait 1) ∧ passed (tallyVal waits 9) (twThresh (rTwait 1).msg) = true :=
  ⟨presents_d0 (by decide +kernel), by decide +kernel⟩
theorem test_hyp_twait_parks : Presents (onD0 (rTwait 2) waits) .d0 (rTwait 2) ∧ passed (tallyVal waits 9) (twThresh (rTwait 2).msg) = false ∧
    waits.tal.parked.length < 256 ∧ losslessRoom (parkEv (rTwait 2)) (onD0 (rTwait 2) waits) = true ∧ classify waits .d0 (rTwait 2).msg = .req (rTwait 2) :=
  ⟨presents_d0 (by decide +kernel), by decide +kernel⟩
theorem test_hyp_twait_full : Presents (onD0 (rTwait 2) waits256) .d0 (rTwait 2) ∧ passed (tallyVal waits256 9) 2 = false ∧ 256 ≤ waits256.tal.parked.length :=
  ⟨presents_d0 (by decide +kernel), by decide +kernel⟩
theorem test_hyp_release : waits.tal.parked[1]? = some (wait 1 1 true) ∧ releasable waits (wait 1 1 true) = true ∧
    (waits.tal.parked.take 1).any (releasable waits) = false ∧ waits.bad = [] ∧ (wait 1 1 true).due = none := by decide +kernel
/-- The same with a report still due: its deadline was reached at FT 900 with tally 9 at 0. -/
def waitDue : Parked := { wait 1 1 true with due := some (900, 0) }
def waitsDue : State := { svc with tal := { val := [(9, 1)], adds := [], parked := [wait 0 5 false, waitDue] } }
theorem test_hyp_release_due : waitsDue.tal.parked[1]? = some waitDue ∧ releasable waitsDue waitDue = true ∧
    (waitsDue.tal.parked.take 1).any (releasable waitsDue) = false ∧ waitsDue.bad = [] ∧ waitsDue.log.notices.length < 64 := by decide +kernel
theorem test_hyp_deadline : waitsDue.tal.parked[1]?.bind Parked.due = some (900, 0) ∧ waitsDue.tal.parked[0]? = some (wait 0 5 false) ∧
    (wait 0 5 false).due = none := by decide +kernel
theorem test_hyp_deadline_lost : 64 ≤ { waitsDue with log := { waitsDue.log with notices := List.replicate 64 (.error 0) } }.log.notices.length := by decide +kernel

/-! ### The home -/

/-- The line's entry in Sedge set 0x83D, and a coherent request of agent 6. -/
def theEntry : Nat := 8 * 0x83D
def withE (e : SedgeE) (s : State) : State := { s with home := { s.home with sedge := [(theEntry, e)] } }
def ownedBy5 : SedgeE := ownE (sedgeNew svc theLine) 5
def sharedBy6 : SedgeE := addSharer (addSharer (sedgeNew svc theLine) 6) 9
def coh (op : Nat) (ro : Bool) : Req :=
  let r := rq op 128 [(120, 8, 6)] [] []
  { r with attr := { r.attr with ro := ro } }
def rAtomC : Req := rq Op.atomC 0 [(146, 4, 14), (142, 4, 0), (120, 8, 6)] [9] [all64]

theorem test_hyp_coherent_shr : TakesMem (onD0 (coh Op.rdShr true) hit) (.rdShr .d0) (coh Op.rdShr true) Op.rdShr ∧
    placeOf (onD0 (coh Op.rdShr true) hit) theLine = .way theKey ∧ hteFree hit = true ∧
    sedgeRoom (onD0 (coh Op.rdShr true) hit) (liveSet hit theLine) = .free theEntry ∧ hLine (coh Op.rdShr true).msg = theLine :=
  ⟨takes_mem0 (by decide +kernel), by decide +kernel⟩
theorem test_hyp_coherent_unq : TakesMem (onD0 (coh Op.rdUnq false) hit) (.rdUnq .d0) (coh Op.rdUnq false) Op.rdUnq ∧
    placeOf (onD0 (coh Op.rdUnq false) hit) theLine = .way theKey :=
  ⟨takes_mem0 (by decide +kernel), by decide +kernel⟩
theorem test_hyp_coherent_upgrade : TakesMem (onD0 (coh Op.upgrade false) hit) (.upgrade .d0) (coh Op.upgrade false) Op.upgrade :=
  takes_mem0 (by decide +kernel)

def homeOk (s : State) (r : Req) : Bool := r.fen.isNone && s.bad.isEmpty && (hteInH s (hLine r.msg)).isNone && hteFree s && canon s

theorem test_hyp_forward_shr : Takes (onD0 (coh Op.rdShr true) (withE ownedBy5 svc)) (.rdShr .d0) (coh Op.rdShr true) ∧
    homeOk (onD0 (coh Op.rdShr true) (withE ownedBy5 svc)) (coh Op.rdShr true) = true ∧ sedgeFind (withE ownedBy5 svc) theLine = some theEntry ∧ ownedBy5.st = 2 :=
  ⟨takes_d0 (by decide +kernel), by decide +kernel⟩
theorem test_hyp_forward_unq : Takes (onD0 (coh Op.rdUnq false) (withE { addSharer ownedBy5 9 with st := 3 } svc)) (.rdUnq .d0) (coh Op.rdUnq false) ∧
    homeOk (onD0 (coh Op.rdUnq false) (withE { addSharer ownedBy5 9 with st := 3 } svc)) (coh Op.rdUnq false) = true ∧
    sedgeFind (withE { addSharer ownedBy5 9 with st := 3 } svc) theLine = some theEntry ∧ invSet svc { addSharer ownedBy5 9 with st := 3 } = [9] :=
  ⟨takes_d0 (by decide +kernel), by decide +kernel⟩
theorem test_hyp_upgrade : Takes (onD0 (coh Op.upgrade false) (withE sharedBy6 svc)) (.upgrade .d0) (coh Op.upgrade false) ∧
    homeOk (onD0 (coh Op.upgrade false) (withE sharedBy6 svc)) (coh Op.upgrade false) = true ∧ sedgeFind (withE sharedBy6 svc) theLine = some theEntry ∧
    sharedBy6.st = 1 ∧ sharedBy6.cv = false ∧ isSharer sharedBy6 6 = true ∧ invSet svc sharedBy6 = [6, 9] :=
  ⟨takes_d0 (by decide +kernel), by decide +kernel⟩

/-- A WB and an EVICT of agent 6, which owns the line, shares it, or is not recorded. -/
def ownedBy6 : SedgeE := ownE (sedgeNew svc theLine) 6
theorem test_hyp_wb : Takes (onD0 (coh Op.wb false) (withE ownedBy6 svc)) (.wb .d0) (coh Op.wb false) ∧
    homeOk (onD0 (coh Op.wb false) (withE ownedBy6 svc)) (coh Op.wb false) = true ∧ sedgeFind (withE ownedBy6 svc) theLine = some theEntry ∧
    isOwner ownedBy6 6 = true ∧ fwdHtes (withE ownedBy6 svc) theLine 6 = [] :=
  ⟨takes_d0 (by decide +kernel), by decide +kernel⟩
theorem test_hyp_wb_stale : Takes (onD0 (coh Op.wb false) svc) (.wb .d0) (coh Op.wb false) ∧ homeOk (onD0 (coh Op.wb false) svc) (coh Op.wb false) = true ∧
    sedgeFind (onD0 (coh Op.wb false) svc) theLine = none :=
  ⟨takes_d0 (by decide +kernel), by decide +kernel⟩
theorem test_hyp_evict : Takes (onD0 (coh Op.evict false) (withE ownedBy6 svc)) (.evict .d0) (coh Op.evict false) ∧
    homeOk (onD0 (coh Op.evict false) (withE ownedBy6 svc)) (coh Op.evict false) = true :=
  ⟨takes_d0 (by decide +kernel), by decide +kernel⟩
theorem test_hyp_evict_sharer : Takes (onD0 (coh Op.evict false) (withE sharedBy6 svc)) (.evict .d0) (coh Op.evict false) ∧ isSharer sharedBy6 6 = true ∧
    isOwner sharedBy6 6 = false :=
  ⟨takes_d0 (by decide +kernel), by decide +kernel⟩
theorem test_hyp_evict_stale : Takes (onD0 (coh Op.evict false) (withE ownedBy5 svc)) (.evict .d0) (coh Op.evict false) ∧ isOwner ownedBy5 6 = false ∧
    isSharer ownedBy5 6 = false :=
  ⟨takes_d0 (by decide +kernel), by decide +kernel⟩

/-- The predictor has seen the line contended, or not. -/
def seen (c : BitVec 3) (s : State) : State :=
  { s with home := { s.home with pred := [(predIdx theLine, { v := true, tag := predTag theLine, last := 1, c := c })] } }
def rAtomCThru : Req := { rAtomC with attr := { rAtomC.attr with wpol := 2 } }
def nearly (r : Req) (s : State) : Bool := hteFree s && (predict (hLine r.msg) (hCagent r.msg) true false s).1
theorem test_hyp_atom_near : TakesMem (onD0 rAtomC (seen 5 hit)) (.atomC .d0) rAtomC Op.atomC ∧ canon (onD0 rAtomC (seen 5 hit)) = true ∧
    placeOf (onD0 rAtomC (seen 5 hit)) theLine = .way theKey ∧ nearly rAtomC (seen 5 hit) = true :=
  ⟨takes_mem0 (by decide +kernel), by decide +kernel⟩
theorem test_hyp_atom_near_thru : TakesMem (onD0 rAtomCThru (seen 5 hit)) (.atomC .d0) rAtomCThru Op.atomC ∧ rAtomCThru.poi = false ∧
    hLine rAtomCThru.msg = theLine := ⟨takes_mem0 (by decide +kernel), by decide +kernel⟩
theorem test_hyp_atom_near_miss : TakesMem (onD0 rAtomC (seen 5 svc)) (.atomC .d0) rAtomC Op.atomC ∧ nearly rAtomC (seen 5 svc) = true ∧
    placeOf (onD0 rAtomC (seen 5 svc)) theLine = .absent ∧ missRefuse (onD0 rAtomC (seen 5 svc)) rAtomC = none :=
  ⟨takes_mem0 (by decide +kernel), by decide +kernel⟩

theorem takes_held {s : State} {c : Instr} {r : Req} {j : Nat}
    (h : (r.src = .port ∧ stepOf c = some (.d0, hOpcode r.msg) ∧ r.port = .d0 ∧ yields s .d0 r = false ∧
      (selectReq s .d0).map (·.2.1.req) = some r) ∧ r.fen = none ∧ s.bad = [] ∧ pdOn s 68 = true ∧ hteInH s (hLine r.msg) = none ∧
      sedgeFind s (hLine r.msg) = some j ∧ hteFree s = true) : TakesHeld s c r j := by
  constructor <;> first | exact takes_d0 h.1 | simp only [h]
/-- The line is owned by agent 5, which agent 9 shares it with or not; or it is shared by agents 6 and 9. -/
def ownedE : State := withE ownedBy5 svc
def ownedO : State := withE { addSharer ownedBy5 9 with st := 3 } svc
def shared : State := withE sharedBy6 hit
theorem test_hyp_reclaim_read : TakesHeld (onD0 rRd ownedE) (.rd .d0) rRd theEntry ∧ TakesHeld (onD0 rRdOnce ownedO) (.rdOnce .d0) rRdOnce theEntry ∧
    (sedgeGet ownedE theEntry).st = 2 ∧ (sedgeGet ownedO theEntry).st = 3 :=
  ⟨takes_held (by decide +kernel), takes_held (by decide +kernel), by decide +kernel⟩
theorem test_hyp_reclaim_write : TakesHeld (onD0 rWrWhole ownedO) (.wr .d0) rWrWhole theEntry ∧ wrWhole rWrWhole.msg = true ∧
    invSet ownedO (sedgeGet ownedO theEntry) = [9] ∧ TakesHeld (onD0 rWr ownedE) (.wr .d0) rWr theEntry ∧ wrWhole rWr.msg = false :=
  ⟨takes_held (by decide +kernel), by decide +kernel, by decide +kernel, takes_held (by decide +kernel), by decide +kernel⟩
theorem test_hyp_reclaim_op : TakesHeld (onD0 rRed ownedO) (.red .d0) rRed theEntry ∧ TakesHeld (onD0 rAtomC ownedE) (.atomC .d0) rAtomC theEntry ∧
    (predict theLine 6 true (otherHolder (some ownedBy5) 6) (onD0 rAtomC ownedE)).1 = true :=
  ⟨takes_held (by decide +kernel), takes_held (by decide +kernel), by decide +kernel⟩
theorem test_hyp_reclaim_shared : TakesHeld (onD0 rAtom shared) (.atom .d0) rAtom theEntry ∧ TakesHeld (onD0 rWr shared) (.wr .d0) rWr theEntry ∧
    sharedBy6.st = 1 ∧ invSet shared sharedBy6 = [6, 9] := ⟨takes_held (by decide +kernel), takes_held (by decide +kernel), by decide +kernel⟩
theorem test_hyp_shared_read : TakesHeld (onD0 rRd shared) (.rd .d0) rRd theEntry ∧ TakesHeld (onD0 (coh Op.rdShr false) shared) (.rdShr .d0) (coh Op.rdShr false) theEntry ∧
    placeOf shared theLine = .way theKey ∧ hLine (coh Op.rdShr false).msg = theLine := ⟨takes_held (by decide +kernel), takes_held (by decide +kernel), by decide +kernel⟩
theorem test_hyp_shared_owned : TakesHeld (onD0 (coh Op.rdUnq false) shared) (.rdUnq .d0) (coh Op.rdUnq false) theEntry ∧
    TakesHeld (onD0 rAtomC (seen 1 shared)) (.atomC .d0) rAtomC theEntry ∧
    (predict theLine 6 true (otherHolder (some sharedBy6) 6) (onD0 rAtomC (seen 1 shared))).1 = false :=
  ⟨takes_held (by decide +kernel), takes_held (by decide +kernel), by decide +kernel⟩
theorem test_hyp_atom_far : TakesMem (onD0 rAtomC (seen 1 hit)) (.atomC .d0) rAtomC Op.atomC ∧ hteFree (seen 1 hit) = true ∧ nearly rAtomC (seen 1 hit) = false ∧
    placeOf (onD0 rAtomC (seen 1 hit)) theLine = .way theKey ∧ sedgeRoom (seen 1 hit) (liveSet hit theLine) = .free theEntry :=
  ⟨takes_mem0 (by decide +kernel), by decide +kernel⟩
theorem test_hyp_atom_far_owned : TakesHeld (onD0 rAtomC (seen 1 ownedO)) (.atomC .d0) rAtomC theEntry ∧
    (predict theLine 6 true (otherHolder (some (sedgeGet ownedO theEntry)) 6) (onD0 rAtomC (seen 1 ownedO))).1 = false :=
  ⟨takes_held (by decide +kernel), by decide +kernel⟩

/-- The line's set of Sedge, full of entries of other lines. -/
def crowdedBy (e : SedgeE) : State :=
  { svc with home := { svc.home with sedge := (List.range 8).map fun w => (theEntry + w, { e with tag := BitVec.ofNat 23 (w + 1) }) } }
theorem test_hyp_room : TakesMem (onD0 (coh Op.rdUnq false) (crowdedBy ownedBy5)) (.rdUnq .d0) (coh Op.rdUnq false) Op.rdUnq ∧
    sedgeRoom (crowdedBy ownedBy5) (liveSet (crowdedBy ownedBy5) theLine) = .victim theEntry ∧ ownedBy5.ov = true :=
  ⟨takes_mem0 (by decide +kernel), by decide +kernel⟩
theorem test_hyp_room_shared : TakesMem (onD0 (coh Op.rdShr true) (crowdedBy sharedBy6)) (.rdShr .d0) (coh Op.rdShr true) Op.rdShr ∧
    sedgeRoom (crowdedBy sharedBy6) (liveSet (crowdedBy sharedBy6) theLine) = .victim theEntry ∧ hteFree (crowdedBy sharedBy6) = true :=
  ⟨takes_mem0 (by decide +kernel), by decide +kernel⟩
theorem test_hyp_room_none : TakesMem (onD0 (coh Op.upgrade false) (crowdedBy { ownedBy5 with st := 4 })) (.upgrade .d0) (coh Op.upgrade false) Op.upgrade ∧
    sedgeRoom (crowdedBy { ownedBy5 with st := 4 }) (liveSet svc theLine) = .allH := ⟨takes_mem0 (by decide +kernel), by decide +kernel⟩

/-- A transaction of agent 6's request that awaits COMP_ACK; one that awaits agents 8 and 9; one that awaits 9 alone. -/
def tx (op : Nat) (kind : HKind) : Hte := hteNew svc (coh op false) theLine kind 0
def withH (h : Hte) (s : State) : State := { s with home := { s.home with htes := [h] } }
def answer (op vc agent : Nat) (res : Nat) : Msg :=
  let two := op = Op.dataHome ∨ op = Op.wbData
  { hdr := pack 256 [(250, 6, op), (245, 3, vc), (120, 8, agent), (44, 64, res), (0, 44, 0x12345600)], beats := if two then [1, 2] else [],
    be := if two then [all64, all64] else [] }
def hAck : Hte := { tx Op.rdShr .rdShr with a := true }
def hInv : Hte := { tx Op.upgrade .upgrade with a := true, k := [8, 9], grant := true }
def hLast : Hte := { hInv with k := [9] }

theorem answers_home {s : State} {m : Msg} {op vc : Nat} {h : Hte} (e : s.pins.present = true ∧ hOpcode m = op ∧ hVc m = vc ∧ answerHte s m = some h ∧
    hteGet s h.id = some h ∧ answerBeats m = true ∧ s.bad = []) : AnswersHome s m op vc h := by
  constructor <;> simp only [e]

theorem test_hyp_compAck : AnswersHome (withH hAck svc) (answer Op.compAck Vc.rsp 6 0) Op.compAck Vc.rsp hAck ∧ (∀ x ∈ (withH hAck svc).home.htes, hAck.id ∉ x.q) :=
  ⟨answers_home (by decide +kernel), by decide +kernel⟩
theorem test_hyp_snpAck : AnswersHome (withH hInv svc) (answer Op.snpAck Vc.rsp 9 0) Op.snpAck Vc.rsp hInv ∧ hInv.k.filter (· ≠ BitVec.ofNat 8 9) ≠ [] :=
  ⟨answers_home (by decide +kernel), by decide +kernel⟩
theorem test_hyp_snpAck_last : AnswersHome (withH hLast svc) (answer Op.snpAck Vc.rsp 9 0) Op.snpAck Vc.rsp hLast ∧ hLast.h = false ∧ hLast.grant = true :=
  ⟨answers_home (by decide +kernel), by decide +kernel⟩

/-- A WB that awaits its data; a BACK_INV that awaits its owner; a write that found no room. -/
def hWb : Hte := { tx Op.wb .wb with h := true, w := some 6 }
def hBi : Hte := { tx Op.rdOnce .backInv with h := true, k := [5], biOwner := some 5 }
def hDef : Hte := { tx Op.wb .wb with h := true, got := some { d := 1, dirty := true, poi := false, agent := 6, reqid := 0 } }
theorem test_hyp_wbData : AnswersHome (withH hWb hit) (answer Op.wbData Vc.dat 6 1) Op.wbData Vc.dat hWb ∧ Canonical (withH hWb hit) ∧
    hStatus (answer Op.wbData Vc.dat 6 1) = St.ok ∧ hWb.k = [] ∧ hWb.qWait = false ∧ placeOf (withH hWb hit) hWb.line = .way theKey :=
  ⟨answers_home (by decide +kernel), canon_ok (by decide +kernel), by decide +kernel⟩
theorem test_hyp_dataHome : AnswersHome (withH hBi hit) (answer Op.dataHome Vc.dat 5 1) Op.dataHome Vc.dat hBi ∧ hBi.k = [BitVec.ofNat 8 (hCagent (answer Op.dataHome Vc.dat 5 1))] ∧
    placeOf (withH hBi hit) hBi.line = .way theKey :=
  ⟨answers_home (by decide +kernel), by decide +kernel⟩
theorem test_hyp_deferred : hteGet (withH hDef hit) 0 = some hDef ∧ hReady hDef = true ∧ canon (withH hDef hit) = true ∧ (withH hDef hit).bad = [] ∧
    placeOf (withH hDef hit) hDef.line = .way theKey := by decide +kernel

/-- A forward that no agent has answered for the home timeout. -/
def late : State := { withH hAck svc with clk := { svc.clk with run := 20000000 } }
theorem test_hyp_homeTimeout : hteGet late 0 = some hAck ∧ hteExpired late hAck = true ∧ hAck.h = false ∧ (∀ x ∈ late.home.htes, 0 ∉ x.q) := by decide +kernel
/-- A BACK_INV that its owner never answered, of a line that the array holds, and of one that it does not; a PULL's, with a request that waits. -/
def lateH (h : Hte) (s : State) : State := { withH h (withE { ownedBy5 with st := 4 } s) with clk := { svc.clk with run := 20000000 } }
def hPull : Hte := { tx Op.rd .reclaim with h := true, d := some 5, after := some (afterRead ownedBy5), held := [coh Op.rdUnq false] }
theorem test_hyp_homeTimeout_H : hteGet (lateH hBi hit) 0 = some hBi ∧ hteExpired (lateH hBi hit) hBi = true ∧ hBi.h = true ∧ hBi.got = none ∧
    canon (lateH hBi hit) = true ∧ placeOf (lateH hBi hit) hBi.line = .way theKey ∧ hBi.biOwner.isSome = true ∧ hBi.held = [] ∧
    placeOf (lateH hBi svc) hBi.line = .absent := by decide +kernel
theorem test_hyp_homeTimeout_pull : hteGet (lateH hPull hit) 0 = some hPull ∧ hteExpired (lateH hPull hit) hPull = true ∧ hPull.got = none ∧
    (hPull.held.all fun r => decide (r.src = .port)) = true ∧ (hInv.d.isSome || hInv.w.isSome || hInv.biOwner.isSome) = false := by decide +kernel
theorem test_hyp_unmatched : isAnswer (answer Op.compAck Vc.rsp 6 0) = true ∧ answerBeats (answer Op.compAck Vc.rsp 6 0) = true ∧
    answerHte svc (answer Op.compAck Vc.rsp 6 0) = none ∧ pdOn svc 76 = true := by decide +kernel
theorem test_hyp_unexpected : hVc (answer 0x3F Vc.ctl 6 0) ≠ Vc.req ∧ isReqOp (hOpcode (answer 0x3F Vc.ctl 6 0)) = false ∧
    isAnswer (answer 0x3F Vc.ctl 6 0) = false ∧ hOpcode (answer Op.tempRpt Vc.ctl 6 0) = Op.tempRpt ∧ hVc (answer Op.tempRpt Vc.ctl 6 0) = Vc.ctl ∧
    (answer Op.tempRpt Vc.ctl 6 0).beats = [] := by decide +kernel


/-! ### Memory port and fills -/

/-- A miss entry of the read; the M port with it, and with the line in Mire that waits to be written back. -/
def mRead : Miss := missFor svc rRd
def reading : State := { svc with mp := { MPort.reset with rcr := 1, wcr := 1, miss := [mRead] } }
def writing : State := { svc with mp := { MPort.reset with wcr := 1, mire := [inMire], writes := [(0, .mire 3)] } }

theorem test_hyp_mRead : reading.mp.rcr ≠ 0 ∧ readPick reading = some mRead ∧ mRead.sealed = false ∧ writeReady reading = none := by decide +kernel
theorem test_hyp_mRead_turn : readPick { reading with mp := { reading.mp with mire := [inMire], writes := [(0, .wthru 9 0 0 false false 0 0)] } } = some mRead ∧
    reading.mp.mire.length < 48 ∧ reading.mp.wrTurn = false := by decide +kernel
theorem test_hyp_mWrite : writing.mp.wcr ≠ 0 ∧ writeReady writing = some (0, .mire 3) ∧ writing.mp.rcr = 0 ∧
    (workInfo writing (.mire 3)).map (fun w => (w.line, w.sealed, w.poi)) = some (theLine, false, false) := by decide +kernel
theorem test_hyp_mIdle : svc.mp.rcr = 0 ∧ svc.mp.wcr = 0 ∧ svc.pins.porstN = true ∧ svc.pins.drstN = true := by decide +kernel

/-- The read has left, and awaits its data; in a sealed region, its MAC. -/
def mAwait : Miss := { mRead with st := .waitData }
def mSealed : Miss := { mAwait with sealed := true, mdata := some (5, 0) }
def awaiting (x : Miss) : State := { svc with mp := { MPort.reset with miss := [x] }, srv := { svc.srv with own := [{ txid := 4, kind := .macRead 0 }] } }

def awaitsOk (s : State) (i : Nat) (x : Miss) (r : Req) : Bool :=
  s.mp.miss.find? (·.id = i) == some x && x.kind == .read && x.att == [.read r] && r.src == .port && x.attr.ralloc != 1 && s.bad.isEmpty &&
    !listed s x.line && !x.hpoi
theorem awaits_read {s : State} {i : Nat} {x : Miss} {r : Req} (h : awaitsOk s i x r = true) : AwaitsRead s i x r := by
  simp only [awaitsOk, Bool.and_eq_true, beq_iff_eq, bne_iff_ne, Bool.not_eq_true', List.isEmpty_iff] at h
  constructor <;> simp only [h, ne_eq, not_false_eq_true]

theorem test_hyp_readData : AwaitsRead (awaiting mAwait) 0 mAwait rRd ∧ mAwait.st = .waitData ∧ mAwait.mdata = none ∧ mAwait.sealed = false :=
  ⟨awaits_read (by decide +kernel), by decide +kernel⟩
theorem test_hyp_macRead : AwaitsRead (awaiting mSealed) 0 mSealed rRd ∧ mSealed.mdata = some (5, 0) ∧
    (awaiting mSealed).srv.own.find? (fun o => o.kind == .macRead 0) = some { txid := 4, kind := .macRead 0 } :=
  ⟨awaits_read (by decide +kernel), by decide +kernel⟩

/-- The filled line waits for a way: one is empty; all hold dirty lines; none may be used. -/
def mFilled : Miss := { mRead with st := .waitInstall, att := [], buf := 5 }
def filled (s : State) : State := { s with mp := { MPort.reset with miss := [mFilled] } }

/-- The victim for the filled line, whether it is dirty, and whether Mire is full. -/
def fillVictim (s : State) : Option (Nat × Bool × Bool) :=
  let x := instSet s mFilled.line mFilled.set.toNat
  (victim s mFilled.qc.toNat mFilled.tc.toNat x).map fun w => (w, (tagGet s (wkey x w)).v && (tagGet s (wkey x w)).d, mireFull s)
theorem test_hyp_install : (filled svc).mp.miss.find? (·.id = 0) = some mFilled ∧ mFilled.st = .waitInstall ∧ mFilled.wrote = false ∧
    ([svc, dirtySet, noBanks].all fun s => canon (filled s)) = true := by decide +kernel
theorem test_hyp_install_victims : fillVictim (filled svc) = some (0, false, false) ∧ fillVictim (filled dirtySet) = some (0, true, false) ∧
    fillVictim { mireBusy with mp := { mireBusy.mp with miss := [mFilled] } } = some (0, true, true) ∧ fillVictim (filled noBanks) = none := by decide +kernel
/-- A fill that a WTHRU write reached; one whose write-back data is newer than memory. -/
def mWrote : Miss := { mFilled with wrote := true, thru := [{ data := 7, mask := 1, poi := false }] }
theorem test_hyp_install_wrote : mWrote.wrote = true ∧ (thruWork mWrote 3).length = 1 ∧ missDirty { mWrote with dirty := true } = true := by decide +kernel

/-- Writes that await their acknowledgement. -/
def cleaning : CleanW := { slot := 63, line := theLine, key := theKey, data := 5, poi := false, sealed := false, tc := 0, qc := 0, ackOut := true, macOut := false }
def acks : State :=
  { svc with mp := { MPort.reset with mire := [inMire], miss := [{ mRead with kind := .around, st := .writeOut }], clean := [cleaning],
                                      outW := [(.mire 3, theLine, 0), (.around 0, theLine, 0), (.clean 63, theLine, 0), (.wthru, theLine, 0)] },
             srv := { svc.srv with own := [{ txid := 4, kind := .macWrite theLine 0 }] } }
theorem test_hyp_ack_mire : acks.mp.outW.any (fun x => x.1 == .mire 3) = true ∧ acks.mp.mire.find? (·.id = 3) = some inMire ∧ inMire.macOut = false ∧
    inMire.redirty = false ∧ acks.mp.writes.any (fun w => w.2 == .mire 3) = false ∧ acks.srv.drain = none := by decide +kernel
theorem test_hyp_ack_around : acks.mp.outW.any (fun x => x.1 == .around 0) = true := by decide +kernel
theorem test_hyp_ack_clean : acks.mp.outW.any (fun x => x.1 == .clean 63) = true ∧ acks.mp.clean.find? (·.slot = 63) = some cleaning ∧
    cleaning.macOut = false := by decide +kernel
theorem test_hyp_ack_failed : acks.mp.outW.find? (fun x => x.1 == .wthru) = some (.wthru, theLine, 0) ∧ listed acks theLine = false ∧
    acks.mp.plist.length < 256 ∧ acks.log.notices.length < 64 := by decide +kernel
theorem test_hyp_macWrite : ownFind acks 4 = some (.macWrite theLine 0) := by decide +kernel
theorem test_unmatched_stops : (∀ x, svc.mp.miss.find? (·.id = 3) = some x → x.st ≠ .waitData ∨ x.mdata ≠ none) ∧ (∀ x ∈ svc.mp.outW, x.1 ≠ .wthru) := by
  simp [svc, State.reset, MPort.reset]

/-! ### Prefetcher and exact mode -/

def cand (at_ : Nat) : Cand := { line := theLine, trig := rRd, at_ := at_ }
theorem test_hyp_prefetch : candOk (cand 5000) { svc with pf := { svc.pf with cands := [cand 5000] } } = true ∧ candOk (cand 4935) svc = false ∧
    candOk (cand 4936) svc = true := by decide +kernel

/-- Region 2 of 40 FP32 elements on segment 5, its accumulators in frame 905; the last contribution of an exact RED, the number 1.0. -/
def region2 : Region := region40
def one : Contr := { n := 33, cls := 0, neg := false, m := 2 ^ 23, sh := 126 }
def exactR : ExactReq := { req := fq .d0 Op.red 4 [(146, 4, 1)] [0] [0xF], rid := 2, todo := [one], poi := false, met := false, bytes := 4 }
def exactS : State := { fenSvc with fen := { fenSvc.fen with regions := [region2], exactQ := [exactR] } }
theorem test_hyp_exact : exactS.fen.exactQ = [exactR] ∧ regionFind exactS 2 = some region2 ∧ exactR.todo = [one] ∧ exactS.bad = [] ∧ canon exactS = true ∧
    (groupKeys region2 (one.n / 32)).Nodup ∧
    (∀ k ∈ groupKeys region2 (one.n / 32), (tagGet exactS k).poi = false ∧ keyRetired exactS k = false) := by decide +kernel

/-! ### Sweeps and generations -/

theorem sweep_room {s : State} (h : s.bad = [] ∧ s.mp.clean = [] ∧ s.mp.mire.length ≤ 32 ∧ canon s = true) : SweepRoom s := ⟨h.1, h.2.1, h.2.2.1, canon_ok h.2.2.2⟩

/-- A rehash in its last step, a conversion of way group 7, a drain, on an array with a dirty set. -/
def rehashing : State := { dirtySet with gen := { dirtySet.gen with rehash := some { hOld := [], apos := 16383, spos := 4096, vics := [] } } }
def converting : State := { dirtySet with gen := { dirtySet.gen with conv := some { wgs := 0x80, pos := 0 } } }
def draining (m : DrainMode) : State := { dirtySet with srv := { dirtySet.srv with drain := some { newDrain m with pos := 32 * 0x283D } } }

theorem test_hyp_rehash : SweepRoom rehashing ∧ rehashing.gen.rehash = some { hOld := [], apos := 16383, spos := 4096, vics := [] } := ⟨sweep_room (by decide +kernel), rfl⟩
theorem test_hyp_convert : SweepRoom converting ∧ converting.gen.conv = some { wgs := 0x80, pos := 0 } := ⟨sweep_room (by decide +kernel), rfl⟩
theorem test_hyp_drain : SweepRoom (draining .empty) ∧ SweepRoom (draining .clean) ∧ 32 * 0x283D + 32 < sweepEnd ∧
    holdsCache (draining .clean) 0 = true := ⟨sweep_room (by decide +kernel), sweep_room (by decide +kernel), by decide +kernel⟩

/-- The Sedge sweep at the set of an entry that was placed under the old matrix. -/
def sedgeSweep : State :=
  { withE { ownedBy5 with hg := true } svc with gen := { svc.gen with rehash := some { hOld := hashRows svc.t, apos := 0, spos := 0x83D, vics := [] } } }
theorem test_hyp_sedgeSweep : sedgeSweep.gen.rehash = some { hOld := hashRows svc.t, apos := 0, spos := 0x83D, vics := [] } ∧ sedgeSweep.bad = [] ∧
    (sedgeGet sedgeSweep (skey 0x83D 0)).st ≠ 0 ∧ (sedgeGet sedgeSweep (skey 0x83D 0)).hg ≠ sedgeSweep.gen.hg := by decide +kernel
theorem test_hyp_sedgeSweep_set : ∀ w < 8, (sedgeGet sedgeSweep (skey 0x83D w)).st ≠ 0 → (sedgeGet sedgeSweep (skey 0x83D w)).hg ≠ sedgeSweep.gen.hg →
    liveSet sedgeSweep (sedgeLine sedgeSweep (skey 0x83D w)) % 4096 = 0x83D := by decide +kernel

/-- An armed COMMIT of the reset tables; one of another hash, with a line in the array. -/
def armed (c : Tables) (s : State) : State := { s with gen := { s.gen with armed := some { target := 1000, cand := c, gen := 1 } } }
def otherHash : Tables := tblSet [] Tid.hash 0 1
theorem test_hyp_commit : (armed [] svc).gen.armed = some { target := 1000, cand := [], gen := 1 } ∧ commitDue (armed [] svc) { target := 1000, cand := [], gen := 1 } = true ∧
    firstRefused [bindBad (armed [] svc) [], hashBad (armed [] svc) []] = none ∧ svc.pins.porstN = true ∧ svc.clk.ft.toNat + 2 < 2 ^ 64 := by decide +kernel
theorem test_hyp_commit_early : commitDue (armed [] svc) { target := 1001, cand := [], gen := 1 } = false := by decide +kernel
theorem test_hyp_commit_fails : firstRefused [bindBad (armed otherHash hit) otherHash, hashBad (armed otherHash hit) otherHash] =
    some { code := Mc.estate, tab := 4, ent := 0 } := by decide +kernel


/-! ### Fen commands -/

/-- Mailbox `t`'s command, with its arguments, is at the head of the start queue. -/
def cmd (t op : Nat) (args : List (BitVec 32)) (s : State) : State :=
  { s with startQ := [t], mbx := [(t, { Mbx.reset with busy := true, phase := .queued, op := BitVec.ofNat 8 op, larg := args ++ List.replicate (16 - args.length) 0 })] }

theorem heads {s : State} {op t : Nat} (h : coreRuns s = true ∧ s.startQ = [t] ∧ (mbxGet s t).op.toNat = op) : Heads s op t [] := ⟨h.1, h.2.1, h.2.2⟩

/-- An argument word from fields (low bit, width, value). -/
def w32 (l : List (Nat × Nat × Nat)) : BitVec 32 := pack 32 l

/-- FEN_ALLOC of segment 6, dual, one granule, from mailbox 3. -/
def allocS : State := cmd 3 0x10 [w32 [(24, 6, 6), (18, 1, 1), (0, 11, 1)], w32 [(0, 16, 8)]] fenSvc
theorem test_hyp_fenAlloc : Heads allocS 0x10 3 [] ∧ (argF allocS 3 1 0 16 &&& (0xFFFF - 2 ^ 3) = 0) ∧
    argRsv allocS 3 [(0, 30, 2), (0, 20, 4), (0, 11, 5), (1, 24, 8), (2, 28, 3)] = false ∧ argF allocS 3 0 0 11 = 1 ∧ commitArmed allocS = false ∧
    allocS.pins.present = true ∧ argB allocS 3 0 19 = false ∧ segTaken allocS (argF allocS 3 0 24 6) = false ∧ framesAsked allocS 3 = 2 ∧
    2 ≤ (freeFrames allocS (argF allocS 3 1 16 8)).length :=
  ⟨heads (by decide +kernel), by decide +kernel⟩

/-- A segment being zeroed, and freed frames that wait. -/
def zeroS : State := { fenSvc with fen := { fenSvc.fen with zeroing := [{ seg := { seg5 with id := 6, fa := [1023] }, mbx := 3 }], reclaims := [[1022]] } }
theorem test_hyp_fenZeroed : zeroS.fen.zeroing[0]? = some { seg := { seg5 with id := 6, fa := [1023] }, mbx := 3 } ∧ canon zeroS = true ∧
    (∀ f ∈ segFrames { seg5 with id := 6, fa := [1023] }, f < 1024) := by decide +kernel
theorem test_hyp_fenReclaim : zeroS.fen.reclaims[0]? = some [1022] ∧ (∀ l ∈ waitingLocs zeroS, l.frame ∉ [1022]) ∧ (∀ f ∈ [1022], f < 1024) := by decide +kernel

def freeS : State := cmd 0 0x11 [5] fenSvc
theorem test_hyp_fenFree : Heads freeS 0x11 0 [] ∧ segPerm freeS 0 (argF freeS 0 0 0 6) = true ∧ argF freeS 0 0 6 26 = 0 ∧
    segFind freeS (argF freeS 0 0 0 6) = some seg5 ∧ xferOn freeS (argF freeS 0 0 0 6) = false ∧ (∀ r ∈ freeS.fen.regions, r.seg ≠ argF freeS 0 0 0 6) :=
  ⟨heads (by decide +kernel), by decide +kernel⟩

/-- FEN_LOAD and FEN_FLUSH of the last line of segment 5. -/
def moveS (op : Nat) : State := cmd 0 op [w32 [(24, 6, 5)], 0xFF80, 1] fenSvc
theorem transfer_ok {s : State} {t : Nat} {g : Seg} {b : Bool} (h : segPerm s t (argF s t 0 24 6) = true ∧ argF s t 2 0 20 ≠ 0 ∧
    argRsv s t [(0, 30, 2), (0, 18, 6), (0, 13, 3), (1, 26, 6), (2, 20, 12)] = false ∧ argF s t 1 0 26 % 128 = 0 ∧ argF s t 1 0 26 + 128 * argF s t 2 0 20 ≤ 2 ^ 26 ∧
    s.pins.present = true ∧ segFind s (argF s t 0 24 6) = some g ∧ argF s t 1 0 26 + 128 * argF s t 2 0 20 ≤ g.gran * 65536 ∧ g.bken = true ∧ g.flip = none ∧
    xferOn s (argF s t 0 24 6) = false ∧ copyOf s g (BitVec.ofNat 2 (argF s t 0 16 2)) = some b) : TransferOk s t g b := by
  constructor <;> simp only [h, ne_eq, not_false_eq_true]
theorem test_hyp_fenLoad : TransferOk (moveS 0x12) 0 seg5 false ∧ Heads (moveS 0x12) 0x12 0 [] := ⟨transfer_ok (by decide +kernel), heads (by decide +kernel)⟩
theorem test_hyp_fenFlush : TransferOk (moveS 0x13) 0 seg5 false ∧ Heads (moveS 0x13) 0x13 0 [] := ⟨transfer_ok (by decide +kernel), heads (by decide +kernel)⟩

/-- A transfer whose line at 0x180 is next, and one that awaits it. -/
def moving5 (load : Bool) (infl : List Nat) : Xfer :=
  { seg := 5, load := load, mbx := 0, copyB := false, ten := true, tally := 9, off := 0x180, lines := 2, next := 0, infl := infl, fail := none }
def movingS (x : Xfer) : State :=
  { fenSvc with fen := { fenSvc.fen with xfers := [x] }, srv := { fenSvc.srv with own := [{ txid := 7, kind := .xfer 5 0x180 }] } }
theorem test_hyp_lineIssue : (movingS (moving5 true [])).fen.xfers.find? (·.seg = 5) = some (moving5 true []) ∧ segFind (movingS (moving5 true [])) 5 = some seg5 ∧
    (moving5 true []).next < (moving5 true []).lines ∧ (tagGet (movingS (moving5 false [])) (locKey (fenLoc seg5 false 0x180))).poi = false ∧
    keyRetired (movingS (moving5 false [])) (locKey (fenLoc seg5 false 0x180)) = false := by decide +kernel
theorem test_hyp_lineResponse : ownFind (movingS (moving5 true [0x180])) 7 = some (.xfer 5 0x180) ∧ canon (movingS (moving5 true [0x180])) = true ∧
    (movingS (moving5 true [0x180])).fen.xfers.find? (·.seg = 5) = some (moving5 true [0x180]) := by decide +kernel

/-- A dual segment, its flip armed on a tally that has passed, and then ready. -/
def dual (f : Option Flip) : Seg := { seg5 with dual := true, fb := [904], lo := 2, flip := f }
def flip (r : Option Nat) : Flip := { rten := true, rtally := 9, thresh := 1, nten := true, ntally := 10, readyAt := r, armFt := 900, armRun := 0 }
def flipS (f : Option Flip) : State := { fenSvc with fen := { fenSvc.fen with segs := [dual f] }, tal := { val := [(9, 1)], adds := [], parked := [] } }
def flipCmdS : State := cmd 0 0x14 [w32 [(24, 6, 5), (31, 1, 1)], 9, 1] (flipS none)
theorem test_hyp_fenFlip : Heads flipCmdS 0x14 0 [] ∧ segPerm flipCmdS 0 (argF flipCmdS 0 0 24 6) = true ∧
    argRsv flipCmdS 0 [(0, 30, 1), (0, 13, 11), (1, 12, 20), (3, 16, 16)] = false ∧ segFind flipCmdS (argF flipCmdS 0 0 24 6) = some (dual none) ∧
    xferOn flipCmdS (argF flipCmdS 0 0 24 6) = false :=
  ⟨heads (by decide +kernel), by decide +kernel⟩
theorem test_hyp_flipReady : segFind (flipS (some (flip none))) 5 = some (dual (some (flip none))) ∧
    flipCanReady (flipS (some (flip none))) (dual (some (flip none))) (flip none) = true := by decide +kernel
theorem test_hyp_flipEffect : flipCanTake (flipS (some (flip (some 4990)))) (dual (some (flip (some 4990)))) (flip (some 4990)) = true ∧
    canon (flipS (some (flip (some 4990)))) = true := by decide +kernel

/-! ### Exact regions -/

/-- ACC_OPEN of 32 FP32 elements: window 0, results in the segment's last line. -/
def openS : State := cmd 0 0x20 [w32 [(24, 6, 5), (16, 4, 1)], 0, 32, 0xFF80] fenSvc
theorem test_hyp_accOpen : Heads openS 0x20 0 [] ∧ RegionOk openS 0 seg5 :=
  ⟨heads (by decide +kernel), by constructor <;> decide +kernel⟩

def opening : State := { exactS with fen := { fenSvc.fen with regions := [{ region2 with opened := false }] } }
theorem test_hyp_regionOpen : regionFind opening 2 = some { region2 with opened := false } ∧ regionCanOpen opening { region2 with opened := false } = true ∧
    opening.bad = [] ∧ canon opening = true ∧ (∀ f ∈ region2.frames, f < 1024) := by decide +kernel

def resolve : Resolve :=
  { discard := false, rten := true, nten := true, ntally := 10, rtally := 9, thresh := 1, deadline := 950, reported := false, due := none, readyAt := none, start := false,
    next := 0, armFt := 900, armRun := 0 }
/-- The region with a resolve, and tally 9 at `v`. -/
def resS (x : Resolve) (v : List (Nat × BitVec 48)) : State := { fenSvc with fen := { fenSvc.fen with regions := [{ region2 with res := some x }] }, tal := { val := v, adds := [], parked := [] } }

def resolveS : State := cmd 0 0x21 [w32 [(16, 4, 2), (31, 1, 1)], 9, 1] { fenSvc with fen := { fenSvc.fen with regions := [region2] } }
theorem test_hyp_accResolve : Heads resolveS 0x21 0 [] ∧ regionFind resolveS (argF resolveS 0 0 16 4) = some region2 ∧
    argRsv resolveS 0 [(0, 20, 10), (0, 13, 3), (1, 12, 20), (3, 16, 16)] = false ∧ region2.opened = true ∧ region2.res = none :=
  ⟨heads (by decide +kernel), by decide +kernel⟩
theorem test_hyp_resolveReady : resolveOf (resS resolve [(9, 1)]) 2 = some ({ region2 with res := some resolve }, resolve) ∧
    resolveCanReady (resS resolve [(9, 1)]) { region2 with res := some resolve } resolve = true := by decide +kernel
/-- The end of an SCLK has found the deadline reached, with tally 9 at 0. -/
def dueR : Resolve := { resolve with due := some (960, 0) }
theorem test_hyp_resolveDeadline : resolveOf (resS dueR []) 2 = some ({ region2 with res := some dueR }, dueR) ∧ dueR.due = some (960, 0) ∧
    resolveOf (resS resolve []) 2 = some ({ region2 with res := some resolve }, resolve) ∧ resolve.due = none := by decide +kernel

/-- T was in SCLK 4990. -/
def readyR (d : Bool) : Resolve := { resolve with readyAt := some 4990, discard := d }
theorem test_hyp_resolveStart : resolveOf (resS (readyR false) []) 2 = some ({ region2 with res := some (readyR false) }, readyR false) ∧
    contribOpen (resS (readyR false) []) 2 = false ∧ 4990 < (resS (readyR false) []).clk.sclk ∧ resolveOf (resS (readyR true) []) 2 = some ({ region2 with res := some (readyR true) }, readyR true) ∧
    resolveCanEnd (resS (readyR true) []) { region2 with res := some (readyR true) } (readyR true) = true ∧ canon (resS (readyR true) []) = true := by decide +kernel

/-- The first and the last line of the results: 40 elements take two lines. -/
def started (n : Nat) : Resolve := { resolve with readyAt := some 4990, start := true, next := n }
def lineOk (n : Nat) : Bool :=
  let s := resS (started n) []
  let r := { region2 with res := some (started n) }
  decide (resolveOf s 2 = some (r, started n)) && decide (segFind s r.seg = some seg5) && s.bad.isEmpty && canon s && decide (r.rfmt.toNat ≤ 3) &&
    !keyRetired s (locKey (fenLoc seg5 false (r.doff + 128 * n)))
theorem test_hyp_resolveLine : lineOk 0 = true ∧ destLines region2 = 2 ∧ lineOk 1 = true ∧
    resolveCanEnd (resS (started 1) []) { region2 with res := some (started 1) } (started 1) = true := by decide +kernel
theorem test_hyp_resolveLine_groups : ∀ n < 40, ∀ k ∈ groupKeys region2 (n / 32), (tagGet (resS (started 0) []) k).poi = false ∧
    keyRetired (resS (started 0) []) k = false := by decide +kernel


/-! ### Mace -/

/-- A gather of one row of 64 B of a table in memory into DATA: 4 B indices at 0x1000, the only one 2, rows 128 B apart. -/
def descBits (more : List (Nat × Nat × Nat)) : BitVec 1024 :=
  pack 1024 ([(0, 24, 1), (50, 2, 1), (54, 2, 1), (64, 44, 0x1000), (128, 64, 2), (192, 44, 0x12345500), (256, 14, 64), (288, 24, 128), (320, 44, 0x40),
    (416, 24, 64)] ++ more)
def rMace : Req := cls .d0 (req Op.maceSub Vc.req 0 0 0 [] [(descBits []).extractLsb' 0 512, (descBits []).extractLsb' 512 512] [all64, all64]) none
def desc (slot : Nat) (bits : BitVec 1024) : Desc :=
  { slot := slot, req := rMace, d := bits, idx := [], k := 0, rowOff := 0, infl := [], nextId := 0, rows := [], faults := 0, done := 0, pads := 0, firstK := none,
    fkind := 0, fstat := 0, stopped := false, ending := false, endFt := 0 }
def maceS (l : List Desc) (s : State) : State := { s with mace := { descs := l, rr := 7 } }

theorem test_hyp_maceSub : Presents (onD0 rMace svc) .d0 rMace ∧ hOpcode rMace.msg = Op.maceSub ∧ svc.mace.descs.length < 8 ∧ classify svc .d0 rMace.msg = .req rMace :=
  ⟨presents_d0 (by decide +kernel), by decide +kernel⟩
theorem test_hyp_maceSub_full : Presents (onD0 rMace (maceS ((List.range 8).map fun i => desc i 0) svc)) .d0 rMace ∧
    8 ≤ (maceS ((List.range 8).map fun i => desc i 0) svc).mace.descs.length :=
  ⟨presents_d0 (by decide +kernel), by decide +kernel⟩

theorem active_desc {s : State} {d : Desc} (h : descFind s d.slot = some d ∧ (∀ x ∈ s.mace.descs, x.slot = d.slot → x = d) ∧ d.ending = false ∧ d.stopped = false ∧
    s.bad = []) : ActiveDesc s d := by
  constructor <;> first | exact h.2.1 | simp only [h]

def d2 : Desc := desc 2 (descBits [])
theorem test_hyp_indexRead : ActiveDesc (maceS [d2] svc) d2 ∧ Md.ispace d2.n = false ∧ d2.idx.length < 8 ∧ d2.k < Md.count d2.n ∧
    idxNext d2 ≤ (Md.ibase d2.n + (Md.count d2.n - 1) * Md.iwBytes d2.n) / 128 ∧ 128 * idxNext d2 < 2 ^ 44 ∧
    memPermits (maceS [d2] svc) (if idxNext d2 = idxFirst d2 then Md.ibase d2.n + d2.k * Md.iwBytes d2.n else 128 * idxNext d2) d2.req.tc.toNat false = true :=
  ⟨active_desc (by decide +kernel), by decide +kernel⟩
def dWait : Desc := { d2 with idx := [(32, .wait)] }
def indexing : State := { maceS [dWait] svc with srv := { svc.srv with own := [{ txid := 3, kind := .maceIdx 2 32 }] } }
theorem test_hyp_indexResponse : ownFind indexing 3 = some (.maceIdx dWait.slot 32) ∧ ActiveDesc indexing dWait ∧ (32, IdxSt.wait) ∈ dWait.idx :=
  ⟨by decide +kernel, active_desc (by decide +kernel), by decide +kernel⟩

/-- Its index has been read. -/
def dIdx : Desc := { d2 with idx := [(32, .held 2)] }
theorem test_hyp_elementIssue : ActiveDesc (maceS [dIdx] svc) dIdx ∧ svc.srv.halt = false ∧ Md.kind dIdx.n = 0 ∧ Md.dkind dIdx.n = 1 ∧ Md.tspace dIdx.n = false ∧
    dIdx.k + 1 = Md.count dIdx.n ∧ indexAt dIdx = .val 2 ∧ 2 ≤ Md.ilast dIdx.n ∧ 1 ≤ Md.rowlen dIdx.n ∧
    (Md.tbase dIdx.n + 2 * Md.tstride dIdx.n) % 128 + Md.rowlen dIdx.n ≤ 128 ∧ Md.tbase dIdx.n + 2 * Md.tstride dIdx.n + Md.rowlen dIdx.n ≤ 2 ^ 44 ∧
    Md.xbase dIdx.n + dIdx.k * Md.xpitch dIdx.n + Md.rowlen dIdx.n ≤ 2 ^ 44 ∧
    memPermits (maceS [dIdx] svc) (Md.tbase dIdx.n + 2 * Md.tstride dIdx.n) dIdx.req.tc.toNat false = true :=
  ⟨active_desc (by decide +kernel), by decide +kernel⟩

/-- Its element, for the line at 0x12345600, has been issued. -/
def elem0 : Elem :=
  { id := 0, k := 0, off := 0, taddr := 0x12345600, paddr := 0x40, len := 64, pad := false, src := none, todo := [{ line := 0, loc := none, exact := none, busy := false }],
    req := elemReq svc d2 (.mace 2 0) (elemMsg svc d2 Op.rd 0 64 0x12345600 0 true) none none false, taken := false, stepped := false, poi := false, fail := none }
def dElem : Desc := { d2 with k := 1, infl := [elem0], rows := [{ k := 0, issued := true, faulted := false, pad := false }], nextId := 1 }
theorem test_hyp_element : ActiveDesc (maceS [dElem] hit) dElem ∧ Md.kind dElem.n = 0 ∧ hOpcode elem0.req.msg = Op.rd ∧ elem0.req.fen = none ∧
    hteInH (maceS [dElem] hit) (hLine elem0.req.msg) = none ∧ sedgeFind (maceS [dElem] hit) (hLine elem0.req.msg) = none ∧
    placeOf (maceS [dElem] hit) (hLine elem0.req.msg) = .way theKey ∧ (tagGet (maceS [dElem] hit) theKey).poi = false :=
  ⟨active_desc (by decide +kernel), by decide +kernel⟩

/-- Descriptors of a kind and destination whose partner rows begin at `x`, on a table line in the array and line 3 of segment 5. -/
def descOf (kind dk : Nat) (dadd : Bool) (x : Nat) : Desc :=
  { desc 2 (pack 1024 [(0, 24, 1), (50, 2, dk), (54, 2, 1), (61, 1, b2n dadd), (62, 2, kind), (56, 4, 14), (64, 44, 0x1000), (128, 64, 2), (192, 44, 0x12345500),
      (256, 14, 64), (288, 24, 128), (320, 44, x), (416, 24, 64)]) with k := 1, nextId := 1, rows := [{ k := 0, issued := true, faulted := false, pad := false }] }
def fenX : Nat := 5 * 2 ^ 26 + 0x180
def hitFen : State :=
  { fenSvc with arr := { tags := sset (fun _ => TagE.zero) fenSvc.arr.tags theKey theTag, data := [(theKey, 0x0700000005)], plru := [] } }
/-- An element of it: what it has read, its partner lines to do, whether its table line is read, and the opcode of its table access. -/
def elemAt (d : Desc) (op : Nat) (src : Option Line) (todo : List PLine) (read : Bool) (pa : Nat) : Elem :=
  { id := 0, k := 0, off := 0, taddr := 0x12345600, paddr := pa, len := 64, pad := false, src := src.map fun x => (x, false), todo := todo,
    req := elemReq svc d (.mace 2 0) (elemMsg svc d op 0 64 0x12345600 (src.getD 0) true) none none false, taken := read, stepped := read, poi := false,
    fail := none }
def fenLine : PLine := { line := fenX / 128, loc := some fenAt, exact := none, busy := false }
def memLine : PLine := { line := 0, loc := none, exact := none, busy := false }
def elemS (d : Desc) (e : Elem) : State := maceS [{ d with infl := [e] }] hitFen
theorem sound_elem {s : State} {d : Desc} {e : Elem} (h : (descFind s d.slot = some d ∧ (∀ x ∈ s.mace.descs, x.slot = d.slot → x = d) ∧ d.ending = false ∧
    d.stopped = false ∧ s.bad = []) ∧ d.slot = 2 ∧ d.infl = [e] ∧ e.fail = none ∧ e.poi = false ∧ (e.src.all fun x => !x.2) = true) : SoundElem s 2 d e := by
  constructor <;> first | exact active_desc h.1 | exact h.2.1 | simp only [h] | (intro x hx; have u := h.2.2.2.2.2; rw [hx] at u; simpa using u)

/-- A scatter whose source is to be read, one whose source is read, and a scatter-add. -/
def scatter (kind : Nat) (e : Elem) : Desc := { descOf kind 0 false fenX with infl := [e] }
def eSource : Elem := elemAt (descOf 1 0 false fenX) Op.wr none [fenLine] false fenX
def eWrite : Elem := elemAt (descOf 1 0 false fenX) Op.wr (some 0x1234) [] false fenX
def eAdd : Elem := elemAt (descOf 2 0 false fenX) Op.red (some 0x300000002) [] false fenX
theorem test_hyp_maceSource : SoundElem (elemS (descOf 1 0 false fenX) eSource) 2 (scatter 1 eSource) eSource ∧ Md.kind (scatter 1 eSource).n = 1 ∧
    eSource.todo = [fenLine] ∧ (tagGet (elemS (descOf 1 0 false fenX) eSource) (locKey fenAt)).poi = false ∧ keyRetired hitFen (locKey fenAt) = false :=
  ⟨sound_elem (by decide +kernel), by decide +kernel⟩
theorem test_hyp_maceWrite : SoundElem (elemS (descOf 1 0 false fenX) eWrite) 2 (scatter 1 eWrite) eWrite ∧ hOpcode eWrite.req.msg = Op.wr ∧ canon hitFen = true ∧
    placeOf (elemS (descOf 1 0 false fenX) eWrite) (hLine eWrite.req.msg) = .way theKey :=
  ⟨sound_elem (by decide +kernel), by decide +kernel⟩
theorem test_hyp_maceAdd : SoundElem (elemS (descOf 2 0 false fenX) eAdd) 2 (scatter 2 eAdd) eAdd ∧ hOpcode eAdd.req.msg = Op.red ∧ Md.kind (scatter 2 eAdd).n = 2 ∧
    (tagGet hitFen theKey).poi = false ∧ hteInH hitFen theLine = none ∧ sedgeFind hitFen theLine = none :=
  ⟨sound_elem (by decide +kernel), by decide +kernel⟩

/-- A gather whose table line is read: into the Fen, added to it, into DATA. -/
def eFen (dadd : Bool) : Elem := elemAt (descOf 0 0 dadd fenX) Op.rd (some 0x300000002) [fenLine] true fenX
def eData : Elem := elemAt (descOf 0 1 false 0x40) Op.rd (some 0x300000002) [memLine] true 0x40
theorem test_hyp_maceFen : SoundElem (elemS (descOf 0 0 false fenX) (eFen false)) 2 { descOf 0 0 false fenX with infl := [eFen false] } (eFen false) ∧
    SoundElem (elemS (descOf 0 0 true fenX) (eFen true)) 2 { descOf 0 0 true fenX with infl := [eFen true] } (eFen true) ∧
    Md.dadd (descOf 0 0 true fenX).n = true ∧ Md.dkind (descOf 0 0 true fenX).n = 0 :=
  ⟨sound_elem (by decide +kernel), sound_elem (by decide +kernel), by decide +kernel⟩
theorem test_hyp_maceData : SoundElem (elemS (descOf 0 1 false 0x40) eData) 2 { descOf 0 1 false 0x40 with infl := [eData] } eData ∧
    eData.paddr = Md.xbase (descOf 0 1 false 0x40).n + eData.k * Md.xpitch (descOf 0 1 false 0x40).n ∧ eData.len = Md.rowlen (descOf 0 1 false 0x40).n ∧
    memLine.line = eData.paddr / 128 ∧ eData.paddr % 128 + eData.len ≤ 128 ∧ eData.taddr % 128 + eData.len ≤ 128 :=
  ⟨sound_elem (by decide +kernel), by decide +kernel⟩

/-- The index that names no row. -/
def padOf (kind : Nat) : Desc := { descOf kind (b2n (kind = 0)) false 0x40 with k := 0, nextId := 0, rows := [], idx := [(32, .held 0xFFFFFFFF)] }
theorem test_hyp_macePads : ActiveDesc (maceS [padOf 0] svc) (padOf 0) ∧ ActiveDesc (maceS [padOf 1] svc) (padOf 1) ∧ indexAt (padOf 0) = .pad ∧
    (padOf 0).k + 1 = Md.count (padOf 0).n ∧ Md.dkind (padOf 0).n = 1 ∧ Md.kind (padOf 1).n = 1 ∧ indexAt (padOf 1) = .pad ∧ 1 ≤ Md.rowlen (padOf 0).n :=
  ⟨active_desc (by decide +kernel), active_desc (by decide +kernel), by decide +kernel⟩

/-- Every index handled: without a record, and with one in memory, asked for or written. -/
def dEnd (rec : Bool) : Desc := { desc 2 (descBits [(557, 1, b2n rec), (512, 44, 0x2000), (47, 1, 1), (32, 12, 9)]) with k := 1 }
theorem test_hyp_maceEnd : ActiveDesc (maceS [dEnd false] svc) (dEnd false) ∧ Md.count (dEnd false).n ≤ 1 ∧ canon (maceS [dEnd false] svc) = true ∧
    Md.cren (dEnd false).n = false ∧ Md.cren (dEnd true).n = true ∧ Md.cspace (dEnd true).n = false ∧ ActiveDesc (maceS [dEnd true] svc) (dEnd true) :=
  ⟨active_desc (by decide +kernel), by decide +kernel, by decide +kernel, by decide +kernel, by decide +kernel, by decide +kernel, active_desc (by decide +kernel)⟩
def recording : State := { maceS [{ dEnd true with ending := true }] svc with srv := { svc.srv with own := [{ txid := 3, kind := .maceRec 2 }] } }
theorem test_hyp_maceRecord : ownFind recording 3 = some (.maceRec 2) ∧ descFind recording 2 = some { dEnd true with ending := true } ∧ recording.bad = [] ∧
    canon recording = true ∧ recording.log.notices.length < 64 := by decide +kernel

/-! ### Reset, presence and time -/

theorem test_hyp_tick : svc.pending = [] := rfl
theorem test_hyp_canonical_step : Canonical svc ∧ step { svc with pending := [.pmGrant] } = .next svc := ⟨canon_ok (by decide +kernel), rfl⟩
theorem test_hyp_present_step : PresentSafe svc ∧ svc.pins.present = true := ⟨fun _ => by decide +kernel, rfl⟩

/-- FT has passed window, scrub and leak instants; class 3 has a floor that it did not reach. -/
def later : State := { svc with clk := { svc.clk with ft := 0x40010000 }, regul := { svc.regul with on := true, win := [(3, { Win.zero with demand := 100 })] } }
def floored : State := { later with gen := { later.gen with live := tblSet [] Tid.class_ 3 (tblReset 2 3 + 2 ^ 88) } }
theorem test_hyp_windowEnd : winDue later 3 = true ∧ canon later = true ∧ clsFloor later.t 3 = 0 := by decide +kernel
theorem test_hyp_windowMissed : winDue floored 3 = true ∧ canon floored = true ∧ clsFloor floored.t 3 ≠ 0 ∧
    (winGet floored 3).served < min (64 * clsFloor floored.t 3) (winGet floored 3).demand ∧ floored.log.notices.length < 64 := by decide +kernel
theorem test_hyp_scrub : scrubDue later = true ∧ later.bad = [] ∧ later.srv.leakK ≠ ftN later / 2 ^ 30 := by decide +kernel
theorem test_hyp_live : svc.pins.present = true ∧ svc.pins.liveAt + 256 ≤ svc.clk.sclk := by decide +kernel

def timeless (seen : Bool) : State := { svc with clk := { svc.clk with ftv := false, seen := seen } }
/-- Samples of the FT bus from `a` on, 3 ticks apart: FT_COUNT is the Gray code of the time. -/
def sample (n : Nat) : FtSample := { sync := true, count := BitVec.ofNat 64 (n ^^^ (n / 2)) }
def ftRun (a n : Nat) : List FtSample := (List.range n).map fun i => sample (a + 3 * i)
theorem test_hyp_ftValid : (timeless true).pins.porstN = true ∧ (timeless true).clk.ftv = false ∧ ftRunOk 1000 (ftRun 500 343) = true ∧
    (ftEnds (ftRun 500 343)).2 = 1526 ∧ canon (timeless true) = true ∧ (timeless true).pins.present = true ∧ (timeless false).clk.seen = false := by decide +kernel
theorem test_hyp_ftValid_not : ftRunOk 1000 (ftRun 500 342) = false ∧ ftRunOk 1527 (ftRun 500 343) = false := by decide +kernel
def sampled (l : List FtSample) : State := { svc with clk := { svc.clk with ftIn := l } }
theorem test_hyp_ftInvalid : (sampled [sample 497, sample 500, sample 504]).clk.ftIn = [sample 497] ++ sample 500 :: sample 504 :: [] ∧
    grayDecode (sample 500).count + 3 < grayDecode (sample 504).count ∧ ftSteady (sampled [sample 500, sample 504]).clk.ftIn = false ∧
    ftSteady [sample 500, { sample 501 with sync := false }] = false := by decide +kernel
theorem test_hyp_ftInvalid_not : (sampled [sample 500, sample 503]).clk.ftIn.all FtSample.sync = true ∧ grayDecode (sample 500).count = 500 ∧
    grayDecode (sample 503).count = 503 ∧ ftSteady (sampled [sample 500, sample 503]).clk.ftIn = true := by decide +kernel

/-- PD63 is the last domain of the bring-up, and moves to ON; PD77 moves to OFF. -/
def rising : State :=
  { svc with
    pins := { svc.pins with present := false, pmReq := true, pmGnt := true, pmPd := 63, pmTo := 2 }
    pw := { dom := (List.range 78).filterMap fun n => if n = 63 then none else some (n, Power.on), wants := [], bring := true } }
def sealOff : State := { svc with pins := { svc.pins with pmReq := true, pmGnt := true, pmPd := 77, pmTo := 0 } }
theorem test_hyp_power : rising.pins.pmReq = true ∧ rising.pins.pmGnt = true ∧ rising.pins.pmPd < 78 ∧ canon rising = true ∧ rising.pins.present = false ∧
    (rising.pw.bring && rising.core.run && powered rising && decide (rising.pins.downAt ≤ rising.clk.sclk)) = true ∧
    (bringOrder.all fun n => n == 63 || pdOn rising n) = true := by decide +kernel
theorem test_hyp_power_seal : sealOff.pins.pmPd = 77 ∧ codePow sealOff.pins.pmTo ≠ .on ∧ canon sealOff = true := by decide +kernel

theorem test_hyp_porst : svc.pins.porstN = true ∧ State.reset.pins.porstN = false ∧ svc.pins.drstN = true ∧ svc.pins.vddCore = true ∧ canon svc = true := by decide +kernel
theorem test_hyp_drstRelease : { svc with pins := { svc.pins with drstN := false } }.pins.drstN = false ∧ svc.core.run = true ∧ State.reset.core.run = false := by
  decide +kernel

/-- Images of eight words: LENGTH 8, and LENGTH too large; the ninth boot word is the check value. -/
def image (n : BitVec 32) : List (BitVec 32) := [0x57464C42, 0x10000, 0x100, n, 0, 0, 0, 0]
def booting (l : List (BitVec 32)) : State := { State.reset with core := { Core.reset with boot := some l }, pins := { Pins.reset with porstN := true, bootReq := true } }
theorem test_hyp_boot : (booting []).core.boot = some [] ∧ ([] : List (BitVec 32)).length + 1 < 8 := by decide +kernel
theorem test_hyp_boot_more : fwWord (image 8) 3 ≤ 24576 ∧ (image 8).dropLast.length < fwWord (image 8) 3 := by decide +kernel
theorem test_hyp_boot_long : 8 ≤ (image 24577).dropLast.length + 1 ∧ 24576 < fwWord ((image 24577).dropLast ++ [0]) 3 := by decide +kernel
theorem test_hyp_boot_end : fwWord (image 8 ++ [0]) 3 = 8 ∧ 8 ≤ (image 8).length ∧ imageStatus ((image 8 ++ [0]).take 8) 8 (fwWord (image 8 ++ [0]) 8) ≠ Mc.ok ∧
    imageStatus ((image 8 ++ [BitVec.ofNat 32 (crc32 (image 8))]).take 8) 8 (fwWord (image 8 ++ [BitVec.ofNat 32 (crc32 (image 8))]) 8) = Mc.ok := by decide +kernel

/-- CRC-32 of the bytes "12345678", by the algorithm that the spec names (log 16): 0x9AE0DAAF. -/
theorem test_crc32 : crc32 [0x34333231, 0x38373635] = 0x9AE0DAAF := by decide +kernel


/-! ### Egress and the register window -/

/-- A COMP of status OK that answers `mRd` on D0, which waits for an HTE whose last step it is. -/
def leaving : State :=
  let s := compTo .d0 mRd (subjMsg svc mRd) St.ok 0 svc
  { s with log := { s.log with fatalEff := true } }
theorem test_hyp_header : ∃ o, (portGet leaving .d0).out[0]? = some o ∧ nbit (0x1F : BitVec 5).toNat (hVc o.msg) = true ∧ o.subj ≠ none ∧
    hStatus o.msg = St.ok ∧ leaving.log.fatalEff = true ∧ leaving.home.htes.all (fun h => !h.done) = true ∧ hOpcode o.msg = Op.comp := by
  refine ⟨(leaving.d0.out.headD ⟨mRd, none, .none⟩), ?_⟩; decide +kernel
def theHte : Hte := { hteNew svc (cls .d0 mRd none) (hLine mRd) .rdOnce 5 with done := true }
/-- The same with an HTE that only waits for this COMP. -/
def closing : State :=
  { leaving with home := { leaving.home with htes := [theHte] },
                 log := { leaving.log with fatalEff := false } }
theorem test_hyp_header_hte : ∃ o h, (portGet closing .d0).out[0]? = some o ∧ nbit (0x1F : BitVec 5).toNat (hVc o.msg) = true ∧ hOpcode o.msg = Op.comp ∧
    closing.home.htes.find? (fun h => h.done && ofOpener h o.msg && hSrc h.req.msg == hDst o.msg) = some h ∧ closing.log.fatalEff = false := by
  refine ⟨(closing.d0.out.headD ⟨mRd, none, .none⟩), (closing.home.htes.headD theHte), ?_⟩; decide +kernel

/-- REG-space requests of 4 B: a RD, and a WR of `v`. -/
def regRd (a : Nat) : RegReq := { port := .d0, msg := req Op.rd Vc.req 2 a 4 [] [] [], tc := 0, at_ := 0 }
def regWr (a v : Nat) : RegReq :=
  { port := .d0, msg := req Op.wr Vc.req 2 a 4 [] [BitVec.ofNat 512 (v * 2 ^ (8 * (a % 64)))] [BitVec.ofNat 64 (15 * 2 ^ (a % 64))], tc := 0, at_ := 0 }
def queued (l : List RegReq) : State := { svc with d0 := { svc.d0 with regq := l } }
def window (l : List RegReq) (s : State) : State := { s with regHw := l }
theorem test_hyp_window_read : (portGet (queued [regRd 0x10]) .d0).regq = [regRd 0x10] ∧ isWr (regRd 0x10).msg = false ∧ dataMbx (regRd 0x10).msg = none ∧
    inCtrWindow (regRd 0x10).msg = false := by decide +kernel
theorem test_hyp_window_counter : (portGet (queued [regRd 0x2008]) .d0).regq = [regRd 0x2008] ∧ isWr (regRd 0x2008).msg = false ∧
    inCtrWindow (regRd 0x2008).msg = true ∧ pdOn (queued [regRd 0x2008]) 76 = true := by decide +kernel
theorem test_hyp_window_waits : (portGet (queued [regWr 0x104 1]) .d0).regq = [regWr 0x104 1] ∧ isWr (regWr 0x104 1).msg = true ∧
    dataMbx (regRd 0x10C0).msg = some 0 := by decide +kernel
/-- 10,000,000 ticks on. -/
def lateReg : State := { queued [regRd 0x10] with clk := { svc.clk with run := 10000000 } }
theorem test_hyp_window_timeout : (regAt lateReg .d0)[0]? = some (regRd 0x10) ∧ Config.timeoutTicks ≤ lateReg.clk.run - (regRd 0x10).at_ := by decide +kernel

theorem word {r : RegReq} {a v : Nat} (h : hLen r.msg = 4 ∧ hAddr r.msg = a ∧ regWord r.msg a = v) : WordWrite r.msg a v := ⟨h.1, h.2.1, h.2.2⟩
def writes (a v : Nat) (c : Instr) : Prop :=
  (window [regWr a v] svc).regHw[0]? = some (regWr a v) ∧ writeRow 0 (regKind (window [regWr a v] svc) (regWr a v).msg) = some c ∧
    WordWrite (regWr a v).msg a v
theorem test_hyp_evqPop : writes 0x164 1 (.evqPop 0) := ⟨rfl, by decide +kernel, word (by decide +kernel)⟩
theorem test_hyp_errPop : writes 0x1A4 1 (.errPop 0) := ⟨rfl, by decide +kernel, word (by decide +kernel)⟩
theorem test_hyp_fatalClr : writes 0x1A8 1 (.fatalClr 0) := ⟨rfl, by decide +kernel, word (by decide +kernel)⟩
theorem test_hyp_alert : writes 0x124 7 (.alertClear 0) := ⟨rfl, by decide +kernel, word (by decide +kernel)⟩
theorem test_hyp_intStat : writes 0x100 0xFFFFFFFF (.registerWrite 0) := ⟨rfl, by decide +kernel, word (by decide +kernel)⟩
theorem test_hyp_cmd : writes 0x1F00 0x00120001 (.registerWrite 0) ∧ (mbxGet (window [regWr 0x1F00 1] svc) 15).busy = false :=
  ⟨⟨rfl, by decide +kernel, word (by decide +kernel)⟩, by decide +kernel⟩
/-- Mailbox 3 is BUSY with a command. -/
def busy3 (m : Mbx) : State := { svc with mbx := [(3, { m with busy := true })] }
theorem test_hyp_cmd_busy : writeRow 0 (regKind (window [regWr 0x1300 1] (busy3 Mbx.reset)) (regWr 0x1300 1).msg) = some (.cmdWhileBusy 0) ∧
    WordWrite (regWr 0x1300 1).msg 0x1300 1 ∧ (mbxGet (window [regWr 0x1300 1] (busy3 Mbx.reset)) 3).busy = true :=
  ⟨by decide +kernel, word (by decide +kernel), by decide +kernel⟩

/-! ### Streams of the mailboxes -/

def dataAt (t : Nat) (wr : Bool) (m : Mbx) : State := window [if wr then regWr (0x10C0 + 0x100 * t) 0xAB else regRd (0x10C0 + 0x100 * t)] { svc with mbx := [(t, m)] }
theorem atWindow {s : State} {k : Nat} {r : RegReq} {x : RegKind} (h : s.regHw[k]? = some r ∧ regKind s r.msg = x) : AtWindow s k r x := ⟨h.1, h.2⟩
theorem test_hyp_dataWrite : AtWindow (dataAt 3 true Mbx.reset) 0 (regWr 0x13C0 0xAB) (.dataWrite 3) ∧
    (mbxGet (dataAt 3 true Mbx.reset) 3).inF.length + (regWords (regWr 0x13C0 0xAB).msg).length ≤ 64 ∧ ∀ n, (mbxGet (dataAt 3 true Mbx.reset) 3).phase ≠ .input n :=
  ⟨atWindow (by decide +kernel), by decide +kernel, fun n h => MPhase.noConfusion h⟩
/-- The same while the core is in reset. -/
def dataOff (t : Nat) (wr : Bool) (m : Mbx) : State := { dataAt t wr m with core := { Core.reset with run := false } }
theorem test_hyp_dataWrite_first : firstData 0 (dataAt 3 true Mbx.reset) = true ∧ coreRuns (dataAt 3 true Mbx.reset) = true ∧
    firstData 0 (dataOff 3 true Mbx.reset) = true ∧ coreRuns (dataOff 3 true Mbx.reset) = false := by decide +kernel
/-- A command that has taken all its `n` words but one. -/
def wants (op n : Nat) (args got : List (BitVec 32)) : Mbx :=
  { Mbx.reset with busy := true, phase := .input n, op := BitVec.ofNat 8 op, larg := args ++ List.replicate (16 - args.length) 0, got := got }
/-- SET_TABLE of entry 7 of T_REQMAP. -/
def setting : State := dataAt 0 true (wants 2 1 [w32 [(16, 8, 3), (0, 12, 7)], 1] [])
theorem test_hyp_dataWrite_more : (mbxGet (dataAt 3 true (wants 2 2 [] [])) 3).phase = .input 2 ∧ (mbxGet (dataAt 3 true (wants 2 2 [] [])) 3).inF = [] ∧
    (mbxGet (dataAt 3 true (wants 2 2 [] [])) 3).got.length + (dataWritten (regWr 0x13C0 0xAB)).length < 2 := by decide +kernel
theorem test_hyp_dataWrite_table : AtWindow setting 0 (regWr 0x10C0 0xAB) (.dataWrite 0) ∧ (mbxGet setting 0).phase = .input 1 ∧ (mbxGet setting 0).inF = [] ∧
    (mbxGet setting 0).got.length + (dataWritten (regWr 0x10C0 0xAB)).length = 1 ∧ (mbxGet setting 0).op = 2 ∧ commitArmed setting = false ∧
    (∀ e ∈ (entriesOf (tblWords (argF setting 0 0 16 8)) (argF setting 0 1 0 13) ((mbxGet setting 0).got ++ dataWritten (regWr 0x10C0 0xAB))).zipIdx,
      e.1 &&& tblRsv (argF setting 0 0 16 8) (argF setting 0 0 0 12 + e.2) = 0) :=
  ⟨atWindow (by decide +kernel), by decide +kernel⟩
/-- FW_LOAD of eight words, the last of which is written. -/
def okImage : List (BitVec 32) := [0x57464C42, 0x10000, 0x100, 8, 0, 0, 0]
def loadAt (m : Mbx) : State := window [regWr 0x10C0 0] { svc with mbx := [(0, m)] }
def loading : State := loadAt (wants 0x70 8 [8, BitVec.ofNat 32 (crc32 (okImage ++ [0]))] okImage)
theorem test_hyp_dataWrite_fw : AtWindow loading 0 (regWr 0x10C0 0) (.dataWrite 0) ∧ (mbxGet loading 0).phase = .input 8 ∧ (mbxGet loading 0).inF = [] ∧
    (mbxGet loading 0).got.length + (dataWritten (regWr 0x10C0 0)).length = 8 ∧ (mbxGet loading 0).op = 0x70 ∧
    imageStatus ((mbxGet loading 0).got ++ dataWritten (regWr 0x10C0 0)) 8 (mArg loading 0 1) = Mc.ok :=
  ⟨atWindow (by decide +kernel), by decide +kernel⟩

/-- A command whose last word of output is read, and one with no command. -/
def showing (ph : MPhase) : State := dataAt 0 false { Mbx.reset with busy := true, phase := ph, op := 3, outF := [7], got := [1] }
theorem test_hyp_dataRead : AtWindow (showing .output) 0 (regRd 0x10C0) (.dataRead 0) ∧ canon (showing .output) = true ∧ hLen (regRd 0x10C0).msg = 4 ∧
    (mbxGet (showing .output) 0).outF = [7] ∧ (mbxGet (showing .output) 0).phase = .output ∧ (mbxGet (showing .output) 0).pend = [] ∧
    (showing .output).srv.insp = [] ∧ (mbxGet (showing .work) 0).phase ≠ .output := ⟨atWindow (by decide +kernel), by decide +kernel⟩
theorem test_hyp_dataRead_first : firstData 0 (showing .output) = true ∧ coreRuns (showing .output) = true ∧ coreRuns (dataOff 0 false (mbxGet (showing .output) 0)) = false ∧
    firstData 0 (dataOff 0 false (mbxGet (showing .output) 0)) = true := by decide +kernel
theorem test_hyp_dataRead_none : AtWindow (dataAt 15 false { Mbx.reset with op := 1 }) 0 (regRd 0x1FC0) (.dataRead 15) ∧ canon (dataAt 15 false { Mbx.reset with op := 1 }) = true ∧
    (mbxGet (dataAt 15 false { Mbx.reset with op := 1 }) 15).outF = [] ∧ (mbxGet (dataAt 15 false { Mbx.reset with op := 1 }) 15).busy = false :=
  ⟨atWindow (by decide +kernel), by decide +kernel⟩

/-- DRESET of mailbox 3, which runs no stream, or waits for input. -/
def aborting (m : Mbx) : State := window [regWr 0x13C8 1] { svc with mbx := [(3, m)] }
def waiting3 : Mbx := { wants 0x81 24 [] [] with inF := [] }
theorem test_hyp_abort : AtWindow (aborting { Mbx.reset with inF := [5] }) 0 (regWr 0x13C8 1) (.abort 3) ∧ canon (aborting { Mbx.reset with inF := [5] }) = true ∧
    onStream (mbxGet (aborting { Mbx.reset with inF := [5] }) 3) = false := ⟨atWindow (by decide +kernel), by decide +kernel⟩
theorem test_hyp_abort_stream : AtWindow (aborting waiting3) 0 (regWr 0x13C8 1) (.abort 3) ∧ canon (aborting waiting3) = true ∧
    onStream (mbxGet (aborting waiting3) 3) = true := ⟨atWindow (by decide +kernel), by decide +kernel⟩
def stale : State := { svc with clk := { svc.clk with run := 1000000000 }, mbx := [(15, waiting3)] }
theorem test_hyp_streamTimeout : onStream (mbxGet stale (15 : Fin 16).val) = true ∧ Config.streamTicks ≤ stale.clk.run - (mbxGet stale (15 : Fin 16).val).wait := by
  decide +kernel

/-- Notices that wait, with an event queue of `n` records. -/
def noticed (n : Notice) (k : Nat) : State := { svc with log := { svc.log with notices := [n], evq := List.replicate k (1, 0) } }
theorem test_hyp_notice : coreRuns (noticed (.event 2 9) 255) = true ∧ (noticed (.event 2 9) 255).log.notices = [.event 2 9] ∧
    (noticed (.event 2 9) 255).log.evq.length < 256 ∧ noticeCause (2 : BitVec 8).toNat = some Cause.guaranteeMiss ∧
    256 ≤ (noticed (.event 2 9) 256).log.evq.length ∧ (noticed (.error 9) 0).log.errs = [] := by decide +kernel


/-! ### Commands of the mailboxes -/

theorem test_hyp_getInfo : Heads (cmd 15 0x01 [] svc) 0x01 15 [] := heads (by decide +kernel)
theorem test_hyp_eperm : (.tenantSwitch, 0x80, anySub) ∈ hostOnly ∧ Heads (cmd 15 0x80 [] svc) 0x80 15 [] ∧ anySub (cmd 15 0x80 [] svc) 15 = true :=
  ⟨by simp [hostOnly], heads (by decide +kernel), rfl⟩
theorem test_hyp_eperm_sub : (.traceFlush, 0x50, traceSub 3) ∈ hostOnly ∧ Heads (cmd 1 0x50 [3] svc) 0x50 1 [] ∧ traceSub 3 (cmd 1 0x50 [3] svc) 1 = true :=
  ⟨by simp [hostOnly], heads (by decide +kernel), by decide +kernel⟩
theorem test_hyp_eperm_drain : (.drainEmpty, 0x60, drainSub 2) ∈ hostOnly ∧ Heads (cmd 9 0x60 [2] svc) 0x60 9 [] ∧ drainSub 2 (cmd 9 0x60 [2] svc) 9 = true :=
  ⟨by simp [hostOnly], heads (by decide +kernel), by decide +kernel⟩
theorem test_hyp_invalid : coreRuns (cmd 1 0xFF [] svc) = true ∧ (cmd 1 0xFF [] svc).startQ = [1] ∧ (mbxGet (cmd 1 0xFF [] svc) 1).op.toNat ∉ knownOps := by
  decide +kernel

theorem tableArgs {s : State} {l : List (Nat × Nat × Nat)} (h : argF s 0 1 0 13 ≠ 0 ∧ argRsv s 0 l = false ∧
    argF s 0 0 0 12 + argF s 0 1 0 13 ≤ tblEntries (argF s 0 0 16 8)) : TableArgs s l := ⟨h.1, h.2.1, h.2.2⟩
/-- SET_TABLE of the last entry of T_REQMAP, its word there or not; GET_TABLE of the same. -/
def setS (l : List (BitVec 32)) : State :=
  let s := cmd 0 0x02 [w32 [(16, 8, 3), (0, 12, 4095)], 1] svc
  { s with mbx := [(0, { mbxGet s 0 with inF := l })] }
def getS : State := cmd 0 0x03 [w32 [(31, 1, 1), (16, 8, 3), (0, 12, 4095)], 1] svc
theorem test_hyp_setTable : Heads (setS []) 0x02 0 [] ∧ TableArgs (setS []) [(0, 24, 8), (0, 12, 4), (1, 13, 19)] ∧ commitArmed (setS []) = false ∧
    (mbxGet (setS []) 0).inF.length < argF (setS []) 0 1 0 13 * tblWords (argF (setS []) 0 0 16 8) :=
  ⟨heads (by decide +kernel), tableArgs (by decide +kernel), by decide +kernel⟩
theorem test_hyp_setTable_now : Heads (setS [0x80000003]) 0x02 0 [] ∧ TableArgs (setS [0x80000003]) [(0, 24, 8), (0, 12, 4), (1, 13, 19)] ∧
    argF (setS [0x80000003]) 0 1 0 13 * tblWords (argF (setS [0x80000003]) 0 0 16 8) ≤ (mbxGet (setS [0x80000003]) 0).inF.length ∧
    (∀ e ∈ (entriesOf 1 1 [(0x80000003 : BitVec 32)]).zipIdx, e.1 &&& tblRsv 3 (4095 + e.2) = 0) :=
  ⟨heads (by decide +kernel), tableArgs (by decide +kernel), by decide +kernel⟩
theorem test_hyp_getTable : Heads getS 0x03 0 [] ∧ TableArgs getS [(0, 24, 7), (0, 12, 4), (1, 13, 19)] := ⟨heads (by decide +kernel), tableArgs (by decide +kernel)⟩

/-- COMMIT of shadow tables that equal the live ones but for one entry. -/
def commitS (l : List (Nat × Nat × Nat)) (args : List (BitVec 32)) : State :=
  let s := cmd 0 0x04 args svc
  { s with gen := { s.gen with shadow := l.foldl (fun g e => tblSet g e.1 e.2.1 e.2.2) s.gen.live } }
theorem test_hyp_commitCmd : Heads (commitS [] [0, 5000]) 0x04 0 [] ∧ argB (commitS [] [0, 5000]) 0 0 0 = false ∧ argF (commitS [] [0, 5000]) 0 0 1 31 = 0 ∧
    commitArmed (commitS [] [0, 5000]) = false ∧ (commitS [] [0, 5000]).pins.present = true ∧
    commitCheck (commitS [] [0, 5000]) (commitS [] [0, 5000]).gen.shadow = none ∧
    (needs (commitS [] [0, 5000]).gen.shadow).all (pdHeld (commitS [] [0, 5000])) = true :=
  ⟨heads (by decide +kernel), by decide +kernel⟩
/-- PD75 is OFF, and the candidate has a watch window. -/
def commitWaits : State :=
  let s := commitS [(Tid.watch, 0, 2 ^ 174 + 2 ^ 172)] [0, 5000]
  { s with pw := { s.pw with dom := s.pw.dom.filter (·.1 ≠ 75) } }
theorem test_hyp_commit_waits : commitCheck commitWaits commitWaits.gen.shadow = none ∧
    (needs commitWaits.gen.shadow).all (pdHeld commitWaits) = false ∧ commitArmed commitWaits = false := by decide +kernel
/-- A class whose floor lies above its cap cannot be. -/
def commitBad : State := commitS [(Tid.part, 0, 0)] [0, 5000]
theorem test_hyp_commit_refused : ∃ f, commitCheck commitBad commitBad.gen.shadow = some f := by
  refine ⟨(commitCheck commitBad commitBad.gen.shadow).getD ⟨0, 0, 0⟩, ?_⟩; decide +kernel
def armedS : State := { commitS [] [1] with gen := { svc.gen with armed := some { target := 5000, cand := [], gen := 1 } } }
theorem test_hyp_cancel : Heads armedS 0x04 0 [] ∧ argB armedS 0 0 0 = true ∧ argF armedS 0 0 1 31 = 0 ∧ (commitS [] [1]).gen.armed = none ∧
    armedS.gen.armed = some { target := 5000, cand := [], gen := 1 } ∧ commitDue armedS { target := 5000, cand := [], gen := 1 } = false ∧
    commitDue armedS { target := 1000, cand := [], gen := 1 } = true :=
  ⟨heads (by decide +kernel), by decide +kernel⟩

/-! ### Firmware -/

theorem test_hyp_fwLoad : Heads (cmd 0 0x70 [24576, 0] svc) 0x70 0 [] ∧ argF (cmd 0 0x70 [24576, 0] svc) 0 0 0 15 ≤ 24576 ∧
    1 ≤ argF (cmd 0 0x70 [24576, 0] svc) 0 0 0 15 ∧ argRsv (cmd 0 0x70 [24576, 0] svc) 0 [(0, 15, 17)] = false ∧
    runsOp (cmd 0 0x70 [24576, 0] svc) 0 0x70 = false ∧ runsOp (cmd 0 0x70 [24576, 0] svc) 0 0x71 = false ∧
    (mbxGet (cmd 0 0x70 [24576, 0] svc) 0).inF.length < argF (cmd 0 0x70 [24576, 0] svc) 0 0 0 15 :=
  ⟨heads (by decide +kernel), by decide +kernel⟩
def activateS : State := cmd 0 0x71 [] { svc with core := { svc.core with valb := true } }
theorem test_hyp_fwActivate : Heads activateS 0x71 0 [] ∧ argRsv activateS 0 [(0, 0, 32)] = false ∧ inactiveValid activateS = true ∧
    otherRuns activateS 0 = false ∧ commitArmed activateS = false := ⟨heads (by decide +kernel), by decide +kernel⟩
/-- A new image has run for `n` ticks without a report of ready. -/
def activated (n : Nat) : State :=
  { svc with core := { svc.core with sup := false, act := some { mbx := 0, at_ := 1, reverted := false } }, clk := { svc.clk with run := n } }
theorem test_hyp_revert : (activated 50000001).core.act = some { mbx := 0, at_ := 1, reverted := false } ∧ (activated 50000001).core.sup = false ∧
    Config.activateTicks ≤ (activated 50000001).clk.run - 1 ∧ (activated 2).core.run = true := by decide +kernel
def hung : State := { svc with clk := { svc.clk with run := 10000000 } }
theorem test_hyp_watchdog : hung.core.run = true ∧ 10000000 ≤ hung.clk.run - hung.core.wdAt ∧ activating svc = false ∧ svc.core.run = true := by decide +kernel
theorem test_hyp_ready : (activated 2).core.run = true ∧ (activated 2).core.sup = false ∧ (activated 2).pw.bring = false ∧ canon (activated 2) = true := by
  decide +kernel

/-! ### Bank service, live service -/

theorem bankCmd {s : State} {op : Nat} {l : List (Nat × Nat × Nat)} (h : Heads s op 0 []) (r : argRsv s 0 l = false ∧ commitArmed s = false ∧ bankOps s < 8 ∧
    s.pins.present = true) : BankCmd s op [] l := by constructor <;> first | assumption | simp only [r]
theorem test_hyp_bankOffline : BankCmd (cmd 0 0x30 [63] svc) 0x30 [] [(0, 7, 25)] ∧ bankBusy (cmd 0 0x30 [63] svc) (argF (cmd 0 0x30 [63] svc) 0 0 0 6) = false :=
  ⟨bankCmd (heads (by decide +kernel)) (by decide +kernel), by decide +kernel⟩
theorem test_hyp_bankTrim : BankCmd (cmd 0 0x32 [0] svc) 0x32 [] [(0, 6, 26)] ∧ bankBusy (cmd 0 0x32 [0] svc) (argF (cmd 0 0x32 [0] svc) 0 0 0 6) = false :=
  ⟨bankCmd (heads (by decide +kernel)) (by decide +kernel), by decide +kernel⟩
/-- Bank 63 is retired, or bank 63's domain is OFF. -/
def retiredS : State := cmd 0 0x31 [127] { svc with banks := [(63, { Bank.reset with retired := true })] }
def offS : State := cmd 0 0x31 [63] { svc with pw := { svc.pw with dom := svc.pw.dom.filter (·.1 ≠ 63) } }
theorem test_hyp_bankOnline : BankCmd retiredS 0x31 [] [(0, 7, 25)] ∧ onlineBad retiredS (argF retiredS 0 0 0 6) (argB retiredS 0 0 6) = false ∧
    pdHeld retiredS (argF retiredS 0 0 0 6) = true ∧ canon retiredS = true := ⟨bankCmd (heads (by decide +kernel)) (by decide +kernel), by decide +kernel⟩
theorem test_hyp_bankOnline_off : BankCmd offS 0x31 [] [(0, 7, 25)] ∧ onlineBad offS (argF offS 0 0 0 6) (argB offS 0 0 6) = false ∧
    pdHeld offS (argF offS 0 0 0 6) = false ∧ canon offS = true := ⟨bankCmd (heads (by decide +kernel)) (by decide +kernel), by decide +kernel⟩
def sweeping (n : Nat) (i : Option Nat) : State :=
  { svc with banks := [(5, { Bank.reset with op := if i = none then some { kind := .trim, mbx := 0, pos := n, wb := 0, inv := 0 } else none, sweep := i })] }
theorem test_hyp_bankSweep : SweepRoom (sweeping 8191 none) ∧ holdsCache (sweeping 8191 none) ((5 : Fin 64).val % 32) = true ∧
    (bankGet (sweeping 8191 none) (5 : Fin 64).val).sweep = none ∧
    (bankGet (sweeping 8191 none) (5 : Fin 64).val).op = some { kind := .trim, mbx := 0, pos := 8191, wb := 0, inv := 0 } :=
  ⟨sweep_room (by decide +kernel), by decide +kernel⟩
theorem test_hyp_retireSweep : SweepRoom (sweeping 0 (some 8190)) ∧ (bankGet (sweeping 0 (some 8190)) (5 : Fin 64).val).sweep = some 8190 ∧
    holdsCache (sweeping 0 (some 8190)) ((5 : Fin 64).val % 32) = true ∧ (bankGet (sweeping 0 (some 8190)) (5 : Fin 64).val).op = none :=
  ⟨sweep_room (by decide +kernel), by decide +kernel⟩
theorem test_hyp_calibration : (bankGet (sweeping 8192 none) (5 : Fin 64).val).op = some { kind := .trim, mbx := 0, pos := 8192, wb := 0, inv := 0 } ∧
    canon (sweeping 8192 none) = true ∧ (bankGet (sweeping 8192 none) (5 : Fin 64).val).retired = false := by decide +kernel

theorem drainCmd {s : State} {m : Nat} (h : (coreRuns s = true ∧ s.startQ = [0] ∧ (mbxGet s 0).op.toNat = 0x60) ∧ argF s 0 0 0 2 = m ∧
    argRsv s 0 [(0, 2, 30)] = false ∧ commitArmed s = false ∧ s.pins.present = true ∧ s.srv.drain = none) : DrainCmd s m [] := by
  constructor <;> first | exact heads h.1 | simp only [h]
def drainS (m : BitVec 32) : State := cmd 0 0x60 [m] svc
theorem test_hyp_drainCmd : DrainCmd (drainS 0) 0 [] ∧ DrainCmd (drainS 1) 1 [] ∧ DrainCmd (drainS 2) 2 [] ∧ svc.srv.halt = false ∧ svc.srv.allocOff = false :=
  ⟨drainCmd (by decide +kernel), drainCmd (by decide +kernel),
    drainCmd (by decide +kernel), by decide +kernel⟩
def halting : State := { svc with srv := { svc.srv with halt := true, drain := some (newDrain .halt) } }
theorem test_hyp_haltDone : halting.srv.drain = some (newDrain .halt) ∧ (newDrain .halt).mode = .halt ∧ canon halting = true := by decide +kernel
def resumeS (h : Bool) (a : Option Armed) : State := cmd 0 0x63 [] { svc with srv := { svc.srv with halt := h }, gen := { svc.gen with armed := a } }
theorem test_hyp_resume : Heads (resumeS true none) 0x63 0 [] ∧ commitArmed (resumeS true none) = false ∧ (resumeS true none).pins.present = true ∧
    (resumeS true none).srv.halt = true := ⟨heads (by decide +kernel), by decide +kernel⟩
theorem test_hyp_resume_refused : Heads (resumeS false none) 0x63 0 [] ∧ commitArmed (resumeS false none) = false ∧ (resumeS false none).srv.allocOff = false ∧
    Heads (resumeS true armedS.gen.armed) 0x63 0 [] ∧ (resumeS true armedS.gen.armed).gen.armed ≠ none :=
  ⟨heads (by decide +kernel), by decide +kernel, by decide +kernel, heads (by decide +kernel), by decide +kernel⟩

/-- INSPECT_LINE of the last two ways, of the last line of memory, of segment 5, and of a region. -/
def inspS (kind : Nat) (lo hi n : BitVec 32) (s : State) : State := cmd 0 0x61 [BitVec.ofNat 32 kind, lo, hi, n] s
theorem inspect {s : State} (h : argF s 0 3 0 11 ≠ 0 ∧ argF s 0 3 0 11 ≤ 1024 ∧ argRsv s 0 [(0, 6, 26), (0, 2, 2), (2, 12, 20), (3, 11, 21)] = false ∧
    argRsv s 0 (locRsv (argF s 0 0 0 2)) = false ∧ s.pins.present = true) (k : ∃ n < 4, argF s 0 0 0 2 = n ∧
      (n = 0 ∧ inspLoc s % 2 ^ 19 + argF s 0 3 0 11 ≤ 2 ^ 19 ∨ n = 1 ∧ inspLoc s % 128 = 0 ∧ inspLoc s + 128 * argF s 0 3 0 11 ≤ 2 ^ 44 ∨
       n = 2 ∧ inspLoc s % 128 = 0 ∧ (∃ g c, segFind s (inspLoc s / 2 ^ 26) = some g ∧ copyOf s g (BitVec.ofNat 2 (argF s 0 0 4 2)) = some c ∧
         inspLoc s % 2 ^ 26 + 128 * argF s 0 3 0 11 ≤ g.gran * 65536) ∨
       n = 3 ∧ ∃ r, regionFind s (fld (inspLoc s) 20 4) = some r ∧ r.opened = true ∧ inspLoc s % 2 ^ 19 + argF s 0 3 0 11 ≤ 10 * windowLines r)) :
    InspectArgs s := by
  obtain ⟨a, b, c, d, g⟩ := h
  obtain ⟨n, -, e, f⟩ := k
  constructor <;> first | assumption | (intro h; rw [e] at h; subst h; first | (simp at f; done) | simpa using f)
theorem test_hyp_inspect_ways : Heads (inspS 0 0x7FFFE 0 2 svc) 0x61 0 [] ∧ InspectArgs (inspS 0 0x7FFFE 0 2 svc) :=
  ⟨heads (by decide +kernel), inspect (by decide +kernel) ⟨0, by decide +kernel, by decide +kernel, .inl (by decide +kernel)⟩⟩
theorem test_hyp_inspect_mem : InspectArgs (inspS 1 0xFFFFFF80 0xFFF 1 svc) :=
  inspect (by decide +kernel) ⟨1, by decide +kernel, by decide +kernel, .inr (.inl (by decide +kernel))⟩
theorem test_hyp_inspect_segment : InspectArgs (inspS 2 (0x14000000 + 0xFF80) 0 1 fenSvc) :=
  inspect (by decide +kernel) ⟨2, by decide +kernel, by decide +kernel, Or.inr (Or.inr (Or.inl ⟨rfl, by decide +kernel, seg5, false, by decide +kernel⟩))⟩
theorem test_hyp_inspect_region : InspectArgs (inspS 3 0x200009 0 1 exactS) :=
  inspect (by decide +kernel) ⟨3, by decide +kernel, by decide +kernel, Or.inr (Or.inr (Or.inr ⟨rfl, region2, by decide +kernel⟩))⟩

/-- Mailbox 0 shows the first of two ways. -/
def inspecting (d : Nat) : State :=
  { svc with srv := { svc.srv with insp := [{ mbx := 0, kind := 0, loc := 4, epoch := 0, count := 2, done := d }] },
             mbx := [(0, { Mbx.reset with busy := true, phase := .output, op := 0x61 })] }
theorem test_hyp_inspectRecord : (inspecting 1).srv.insp.find? (fun x => (mbxGet (inspecting 1) x.mbx).pend.isEmpty) =
      some { mbx := 0, kind := 0, loc := 4, epoch := 0, count := 2, done := 1 } ∧ canon (inspecting 1) = true ∧
    (mbxGet (inspecting 1) 0).outF.length ≤ 24 ∧ (mbxGet (inspecting 1) 0).phase = .output ∧ (mbxGet (inspecting 1) 0).op ≠ 3 ∧
    (inspecting 0).srv.insp.find? (fun x => (mbxGet (inspecting 0) x.mbx).pend.isEmpty) =
      some { mbx := 0, kind := 0, loc := 4, epoch := 0, count := 2, done := 0 } := by decide +kernel

def snapS : State := cmd 0 0x62 [0x1000, 0, 0x80] svc
theorem test_hyp_snapshot : Heads snapS 0x62 0 [] ∧ 0x1000 = mArg snapS 0 0 + 2 ^ 32 * argF snapS 0 1 0 12 ∧ mArg snapS 0 2 ≠ 0 ∧
    argRsv snapS 0 [(1, 12, 20)] = false ∧ 0x1000 % 128 = 0 ∧ mArg snapS 0 2 % 128 = 0 ∧ snapS.pins.present = true ∧ snapS.srv.snap = none :=
  ⟨heads (by decide +kernel), by decide +kernel⟩
def snapping (l : List Line) : State :=
  { svc with srv := { svc.srv with snap := some { mbx := 0, addr := 0x1000, todo := l, bytes := 0, trunc := false, cft := 900 }, own := [{ txid := 7, kind := .snap }] } }
theorem test_hyp_snapshotComp : ownFind (snapping [1, 2]) 7 = some .snap ∧ canon (snapping [1, 2]) = true ∧ canon (snapping [1]) = true ∧
    (snapping [1]).srv.snap = some { mbx := 0, addr := 0x1000, todo := [1], bytes := 0, trunc := false, cft := 900 } ∧ 0x1000 + 128 < 2 ^ 44 := by decide +kernel

/-! ### Tenants and keys -/

/-- TENANT_SWITCH of context 9, with erasure of its key. -/
def tenantS : State := cmd 0 0x80 [w32 [(0, 4, 9), (6, 1, 1)]] svc
theorem test_hyp_tenant : Heads tenantS 0x80 0 [] ∧ 9 = argF tenantS 0 0 0 4 ∧ argRsv tenantS 0 [(0, 7, 25)] = false ∧ commitArmed tenantS = false ∧
    tenantS.pins.present = true ∧ rmAnyTc tenantS.t 9 = false ∧ tenantAgents tenantS 9 = false ∧ tenantS.srv.tsw = none ∧ tenantS.bad = [] :=
  ⟨heads (by decide +kernel), by decide +kernel⟩
def tswAt (stage pos : Nat) (discard clr free : Bool) : Tsw :=
  { t := 9, mbx := 0, discard := discard, fenfree := free, clrkey := clr, stage := stage, pos := pos, wb := 0, inv := 0, regs := 0, segs := 0 }
def switching (w : Tsw) (s : State) : State := { s with srv := { s.srv with tsw := some w } }
theorem settled_none {s : State} (h : s.tal.parked = [] ∧ s.fen.regions = []) : Settled s :=
  ⟨fun w hw => by simp [h.1] at hw, fun r hr => by simp [h.2] at hr⟩
theorem test_hyp_settled : Settled tenantS ∧ Settled (switching (tswAt 1 0 false true true) svc) :=
  ⟨settled_none (by decide +kernel), settled_none (by decide +kernel)⟩
/-- A wait of context 9, and one that has passed already. -/
def parked9 : State := { tenantS with tal := { tenantS.tal with parked := [{ wait 0 5 false with req := { rTwait 5 with tc := 9 } }] } }
theorem test_hyp_tenantParked : Heads parked9 0x80 0 [] ∧ Settled parked9 ∧ parked9.bad = [] ∧ (parked9.tal.parked.map fun w => w.req.tc) = [9] :=
  ⟨heads (by decide +kernel), ⟨by decide +kernel, by decide +kernel⟩, by decide +kernel⟩
/-- A request of context 9 waits on D0. -/
def busy9 : State := { svc with d0 := { svc.d0 with regq := [{ regRd 0x10 with tc := 9 }] } }
theorem test_hyp_tenantWaits : (switching (tswAt 1 0 false true true) busy9).srv.tsw = some (tswAt 1 0 false true true) ∧
    (∀ x ∈ (switching (tswAt 1 0 false true true) busy9).tal.parked, x.req.tc ≠ 9) ∧ tenantBusy (switching (tswAt 1 0 false true true) busy9) 9 = true ∧
    tenantBusy (switching (tswAt 1 0 false true true) svc) 9 = false ∧ tenantBusy (switching (tswAt 1 0 false true false) svc) 9 = false := by decide +kernel
theorem test_hyp_tenantFen : fenBusy (switching (tswAt 2 0 false true true) svc) (tswAt 2 0 false true true).t.toNat = false := by decide +kernel
theorem test_hyp_tenantSweep : SweepRoom (switching (tswAt 3 16382 false true true) svc) ∧ SweepRoom (switching (tswAt 3 16383 false true true) svc) ∧
    SweepRoom (switching (tswAt 3 16382 true true true) svc) ∧ SweepRoom (switching (tswAt 3 16383 false false true) svc) :=
  ⟨sweep_room (by decide +kernel), sweep_room (by decide +kernel), sweep_room (by decide +kernel),
    sweep_room (by decide +kernel)⟩
theorem test_hyp_tenantKey : sealedHeld (switching (tswAt 4 16384 false true true) svc) (tswAt 4 16384 false true true).t.toNat = false ∧
    canon (switching (tswAt 4 16384 false true true) svc) = true := by decide +kernel

theorem sealCmd {s : State} {t op : Nat} (h : Heads s 0x81 t []) (r : (t = 0 ∨ argF s t 0 0 4 = t) ∧ argF s t 0 4 2 = op ∧ argRsv s t [(0, 6, 26)] = false ∧
    s.pins.present = true ∧ pdHeld s 77 = true ∧ sealedHeld s (argF s t 0 0 4) = false) : SealCmd s t op [] := by
  constructor <;> first | assumption | simp only [r]
/-- SEAL_KEY of context 15 by its own mailbox, with its words. -/
def sealS (op : Nat) : State :=
  let s := cmd 15 0x81 [w32 [(0, 4, 15), (4, 2, op)]] svc
  { s with mbx := [(15, { mbxGet s 15 with inF := (List.range 24).map (BitVec.ofNat 32) })] }
theorem test_hyp_seal : SealCmd (sealS 1) 15 1 [] ∧ 24 ≤ (mbxGet (sealS 1) 15).inF.length ∧
    keyWords (mbxGet (sealS 1) 15).inF 0 ≠ keyWords (mbxGet (sealS 1) 15).inF 8 := ⟨sealCmd (heads (by decide +kernel)) (by decide +kernel), by decide +kernel⟩
theorem test_hyp_seal_erase : SealCmd (sealS 2) 15 2 [] ∧ canon (sealS 2) = true := ⟨sealCmd (heads (by decide +kernel)) (by decide +kernel), by decide +kernel⟩


/-! ### Counters, samples and dumps -/

/-- A bit field of an entry: low bit and value. -/
def ent (l : List (Nat × Nat)) : Nat := l.foldl (fun a f => a + f.2 * 2 ^ f.1) 0
def entS (t i : Nat) (l : List (Nat × Nat)) (s : State) : State := { s with gen := { s.gen with live := tblSet s.gen.live t i (ent l) } }

theorem ctrCmd_ok {s : State} {t op : Nat} (h : coreRuns s = true ∧ s.startQ = [t] ∧ (mbxGet s t).op.toNat = 0x40) 
    (r : argF s t 0 16 4 = op ∧ (∀ n ∈ ctrRange s t, ctrPerm s t n = true) ∧ argF s t 0 8 7 ≠ 0 ∧
    argRsv s t [(0, 20, 12), (0, 15, 1), (0, 7, 1), (2, 16, 16), (4, 16, 16)] = false ∧ argF s t 0 0 7 + argF s t 0 8 7 ≤ (if op = 0 then 72 else 64) ∧
    pdOn s 76 = true) : CtrCmd s t op [] := by
  constructor <;> first | exact heads h | exact r.2.1 | simp only [r, ne_eq, not_false_eq_true]
/-- CTR_CONFIG of the last counters, from mailbox 0, or of counter 9 from its owner's. -/
def ctrS (op first n : Nat) : State := cmd 0 0x40 [w32 [(16, 4, op), (8, 7, n), (0, 7, first)], 5] svc
def ctrOwn : State := cmd 3 0x40 [w32 [(16, 4, 2), (8, 7, 1), (0, 7, 9)]] (entS Tid.ctr 9 [(4, 3)] svc)
theorem test_hyp_ctrRead : CtrCmd (ctrS 0 64 8) 0 0 [] := ctrCmd_ok (by decide +kernel) (by decide +kernel)
theorem test_hyp_ctrLoad : CtrCmd (ctrS 1 62 2) 0 1 [] ∧ canon (ctrS 1 62 2) = true := ⟨ctrCmd_ok (by decide +kernel) (by decide +kernel), by decide +kernel⟩
theorem test_hyp_ctrZero : CtrCmd ctrOwn 3 2 [] := ctrCmd_ok (by decide +kernel) (by decide +kernel)
theorem test_hyp_ctrStop : CtrCmd (ctrS 3 63 1) 0 3 [] ∧ canon (ctrS 3 63 1) = true := ⟨ctrCmd_ok (by decide +kernel) (by decide +kernel), by decide +kernel⟩
theorem test_hyp_ctrStart : CtrCmd (ctrS 4 63 1) 0 4 [] ∧ canon (ctrS 4 63 1) = true := ⟨ctrCmd_ok (by decide +kernel) (by decide +kernel), by decide +kernel⟩
/-- A CTR_CONFIG READ of all the counters awaits the end of its SCLK. -/
def ctrWaits : State :=
  let s := ctrS 0 0 72
  { s with startQ := [], ctr := { s.ctr with caps := [.read 0] }, mbx := [(0, { mbxGet s 0 with phase := .work })] }
theorem test_hyp_capture : ctrWaits.ctr.caps = [.read 0] ∧ (mbxGet ctrWaits 0).phase = .work ∧ (mbxGet ctrWaits 0).op = 0x40 ∧ (mbxGet ctrWaits 0).outF = [] ∧
    coreRuns ctrWaits = true ∧ (∀ x ∈ ctrWaits.srv.insp, x.mbx ≠ 0) := by decide +kernel

def native (j : Option (Subj × Nat)) : NatPend := { n := 63, sclk := 4700, ft := 900, val := 7, ovf := false, rc := false, subj := j }
def sampling (j : Option (Subj × Nat)) : State := { svc with ctr := { svc.ctr with native := [native j] } }
theorem test_hyp_native : (sampling (some (subjNone, 0))).ctr.native.find? (fun x => x.n == (63 : Fin 64).val && x.subj.isSome) = some (native (some (subjNone, 0))) ∧
    (sampling none).ctr.native.find? (fun x => x.n == (63 : Fin 64).val && x.subj.isNone && decide (x.sclk + 256 < (sampling none).clk.sclk)) =
      some (native none) := by decide +kernel
theorem test_hyp_periodic : periodicDue (entS Tid.ctr 63 [(104, 1)] svc) (63 : Fin 64).val = true := by decide +kernel
/-- A sample ring of two lines at 0x2000, and records. -/
def ringed (l : List Rec) : State :=
  let s := entS Tid.dump 0 [(17, 0x40), (12, 1), (160, 1), (59, 0x80), (54, 4), (96, 3), (10, 1)] svc
  { s with ctr := { s.ctr with samp := l } }
theorem test_hyp_sampleWrite : (ringed [5]).ctr.samp = [5] ∧ ringFlight (ringed [5]) < 8 ∧ pdOn (ringed [5]) 76 = true ∧
    dpSbase (ringed [5]).t * 128 + 32 * (ringed [5]).ctr.snext < 2 ^ 44 := by decide +kernel
def gauging : State := { later with ctr := { later.ctr with gaugeK := 0 } }
theorem test_hyp_gauge : gauging.clk.ftv = true ∧ pdOn gauging 76 = true ∧ gauging.ctr.gaugeK ≠ ftN gauging / 65536 ∧ canon gauging = true := by decide +kernel

def dumpCmd (op : Nat) : State := cmd 0 0x41 [BitVec.ofNat 32 op] (ringed [])
theorem test_hyp_dumpNow : Heads (dumpCmd 1) 0x41 0 [] ∧ argF (dumpCmd 1) 0 0 0 4 = 1 ∧ pdOn (dumpCmd 1) 76 = true :=
  ⟨heads (by decide +kernel), by decide +kernel⟩
theorem test_hyp_dumpReset : Heads (dumpCmd 2) 0x41 0 [] ∧ argF (dumpCmd 2) 0 0 0 4 = 2 ∧ pdOn (dumpCmd 2) 76 = true :=
  ⟨heads (by decide +kernel), by decide +kernel⟩
/-- One dump's write is outstanding; and a line waits behind `n` others. -/
def dumping (k : OwnKind) : State := { ringed [] with srv := { svc.srv with own := [{ txid := 7, kind := k }] } }
def dumpingMore (n : Nat) : State :=
  { ringed [] with srv := { svc.srv with own := (List.range n).map fun i => { txid := BitVec.ofNat 16 i, kind := .dump 0x4000 3 } },
                   ctr := { (ringed []).ctr with dump := { (ringed []).ctr.dump with q := [⟨0x5000, 3, 9⟩] } } }
theorem test_hyp_dump : dumpDue (ringed []) = true ∧ dumpBusy (ringed []) = false ∧ dumpDue (dumping (.dump 0x4000 3)) = true ∧
    dumpBusy (dumping (.dump 0x4000 3)) = true := by decide +kernel
def capturing (s : State) : State := { s with ctr := { s.ctr with caps := [.dump] } }
theorem test_hyp_dumpTaken : (capturing (ringed [])).ctr.caps = [.dump] := rfl
theorem test_hyp_dumpComp : ownFind (dumping (.dump 0x4000 3)) 7 = some (.dump 0x4000 3) ∧ (dumping (.dump 0x4000 3)).ctr.dump.q = [] ∧
    ownFind (dumping (.sample 0x2000 3)) 7 = some (.sample 0x2000 3) ∧ dpDint (ringed []).t = true ∧ dpDint svc.t = false := by decide +kernel
theorem test_hyp_dumpMore : ownFind (dumpingMore 8) 7 = some (.dump 0x4000 3) ∧ ringFlight (dumpingMore 8) ≤ 8 ∧
    (dumpingMore 8).ctr.dump.q = [⟨0x5000, 3, 9⟩] ∧ 0x5000 % 128 = 0 ∧ 0x5000 < 2 ^ 44 := by decide +kernel

/-! ### Trace and watch -/

/-- Buffer 3 is enabled and has a ring of 32 B records at 0x8000. -/
def tracing (x : TBuf) (s : State) : State :=
  let s := entS Tid.trace 3 [(219, 0x100), (198, 4), (6, 1), (118, 0xFFFF)] s
  { s with peat := { s.peat with bufs := [(3, x)] } }
def buf3 (l : List (Nat × Rec)) (i : Nat) : TBuf := { TBuf.reset with st := 1, loc := l, tidx := i, lastRun := 0 }
/-- A whole line and a record, and one record that has stayed for 1,024 ticks. -/
def buf5 : TBuf := buf3 [(0, 1), (1, 2), (2, 3), (3, 4), (4, 5)] 5
theorem test_hyp_traceDma : traceMay (tracing buf5 svc) (3 : Fin 4).val false = true ∧ (bufGet (tracing buf5 svc) 3).pend = none ∧
    (headLine (bufGet (tracing buf5 svc) 3)).1 = (0, 1) :: [(1, 2), (2, 3), (3, 4)] ∧ tcRbase (tcE (tracing buf5 svc).t 3) * 128 + 32 * 0 < 2 ^ 44 ∧
    canon (tracing buf5 svc) = true := by decide +kernel
theorem test_hyp_traceIdle : traceMay (tracing (buf3 [(4, 5)] 5) svc) (3 : Fin 4).val true = true ∧ (headLine (bufGet (tracing (buf3 [(4, 5)] 5) svc) 3)).2 = false ∧
    tracePart (tracing (buf3 [(4, 5)] 5) svc) 3 = true ∧ (headLine (bufGet (tracing (buf3 [(4, 5)] 5) svc) 3)).1 = (4, 5) :: [] ∧
    canon (tracing (buf3 [(4, 5)] 5) svc) = true := by decide +kernel
def traced : State := { tracing buf5 svc with srv := { svc.srv with own := [{ txid := 7, kind := .trace 3 0x8000 4 }] } }
theorem test_hyp_traceComp : ownFind traced 7 = some (.trace 3 0x8000 4) ∧ (bufGet traced 3).pend = none ∧ bufRuns (bufGet traced 3) = true ∧
    traced.log.notices.length < 64 := by decide +kernel

/-- A COMMIT that changes buffer 3's entry. -/
def traceCommit : State := armed [] (tracing buf5 svc)
theorem test_hyp_traceRestarts : traceCommit.pins.porstN = true ∧ traceCommit.clk.ft.toNat + 2 < 2 ^ 64 ∧ commitDue traceCommit { target := 1000, cand := [], gen := 1 } = true ∧ canon traceCommit = true ∧
    firstRefused [bindBad traceCommit [], hashBad traceCommit []] = none ∧ entDiff traceCommit.t [] Tid.trace 3 = true ∧
    entDiff traceCommit.t [] Tid.trace 0 = false := by decide +kernel

theorem traceCmd {s : State} {op : Nat} (h : coreRuns s = true ∧ s.startQ = [0] ∧ (mbxGet s 0).op.toNat = 0x50) (r : argF s 0 0 0 4 = op ∧ argRsv s 0 [(0, 8, 24)] = false ∧ s.pins.present = true ∧
    pdOn s 75 = true) : TraceCmd s op [] := by
  constructor <;> first | exact heads h | simp only [r]
def traceS (op : Nat) (x : TBuf) : State := cmd 0 0x50 [w32 [(0, 4, op), (7, 1, 1)]] (tracing x svc)
theorem test_hyp_traceTrigger : TraceCmd (traceS 1 buf5) 1 [] ∧ traceNamed (traceS 1 buf5) 3 = true := ⟨traceCmd (by decide +kernel) (by decide +kernel), by decide +kernel⟩
theorem test_hyp_traceRestart : TraceCmd (traceS 2 { buf5 with st := 3 }) 2 [] ∧ (bufGet (traceS 2 { buf5 with st := 3 }) 3).st = 3 :=
  ⟨traceCmd (by decide +kernel) (by decide +kernel), by decide +kernel⟩
def full8 (s : State) : State := { s with srv := { s.srv with own := (List.range 32).map fun i => { txid := BitVec.ofNat 16 i, kind := .trace (i % 4) 0 4 } } }
theorem test_hyp_traceFlush : TraceCmd (traceS 3 buf5) 3 [] ∧ traceNamed (traceS 3 buf5) 3 = true ∧ (bufGet (traceS 3 buf5) 3).loc ≠ [] ∧
    (bufGet (traceS 3 buf5) 3).pend = none ∧ traceNamed (traceS 3 buf5) 2 = false ∧ 8 ≤ traceFlight (full8 (traceS 3 buf5)) 3 :=
  ⟨traceCmd (by decide +kernel) (by decide +kernel), by decide +kernel⟩
theorem test_hyp_traceStop : TraceCmd (full8 (traceS 4 buf5)) 4 [] ∧ traceNamed (full8 (traceS 4 buf5)) 3 = true ∧
    bufRuns (bufGet (full8 (traceS 4 buf5)) 3) = true ∧ (bufGet (full8 (traceS 4 buf5)) 3).pend = none :=
  ⟨traceCmd (by decide +kernel) (by decide +kernel), by decide +kernel⟩
/-- An empty buffer, whose STOP asks for its cause. -/
def stopEmpty : State := entS Tid.trace 3 [(219, 0x100), (198, 4), (6, 1), (118, 0xFFFF), (9, 1)] (traceS 4 (buf3 [] 0))
theorem test_hyp_traceStop_empty : TraceCmd stopEmpty 4 [] ∧ (bufGet stopEmpty 3).loc = [] ∧ traceFlight stopEmpty 3 = 0 ∧ tcStopint (tcE stopEmpty.t 3) = true :=
  ⟨traceCmd (by decide +kernel) (by decide +kernel), by decide +kernel⟩

/-- Window 15 over two lines of segment 5, of context 3. -/
def watched (s : State) : State := entS Tid.watch 15 [(215, (5 * 2 ^ 26 + 0x180) / 8), (174, 32), (172, 1), (168, 1), (105, 3)] s
def watchS (t op : Nat) : State := cmd t 0x51 [w32 [(0, 4, op), (4, 4, 15)]] (watched fenSvc)
theorem watchCmd {s : State} {t op : Nat} (h : coreRuns s = true ∧ s.startQ = [t] ∧ (mbxGet s t).op.toNat = 0x51) (r : argF s t 0 0 4 = op ∧ (t = 0 ∨ waOwner (waE s.t (watWin s t)) = t) ∧
    argRsv s t [(0, 10, 22)] = false ∧ s.pins.present = true ∧ pdOn s 75 = true ∧ waLength (waE s.t (watWin s t)) ≠ 0 ∧
    waAspace (waE s.t (watWin s t)) ≠ 0 ∧ s.peat.scan = none) : WatchCmd s t op [] := by
  constructor <;> first | exact heads h | exact r.2.1 | simp only [r, ne_eq, not_false_eq_true, and_self, implies_true]
theorem test_hyp_watchRead : WatchCmd (watchS 3 0) 3 0 [] ∧ (watchS 3 0).srv.insp = [] := ⟨watchCmd (by decide +kernel) (by decide +kernel), rfl⟩
theorem test_hyp_watchClear : WatchCmd (watchS 3 1) 3 1 [] ∧ canon (watchS 3 1) = true := ⟨watchCmd (by decide +kernel) (by decide +kernel), by decide +kernel⟩
theorem test_hyp_watchArm : WatchCmd (watchS 0 2) 0 2 [] ∧ canon (watchS 0 2) = true := ⟨watchCmd (by decide +kernel) (by decide +kernel), by decide +kernel⟩
theorem test_hyp_watchDisarm : WatchCmd (watchS 0 3) 0 3 [] ∧ canon (watchS 0 3) = true := ⟨watchCmd (by decide +kernel) (by decide +kernel), by decide +kernel⟩
theorem test_hyp_watchScan : WatchCmd (watchS 3 4) 3 4 [] ∧ scanCopy (watchS 3 4) (waE (watchS 3 4).t (watWin (watchS 3 4) 3))
    (BitVec.ofNat 2 (argF (watchS 3 4) 3 0 8 2)) = some (seg5, false) := ⟨watchCmd (by decide +kernel) (by decide +kernel), by decide +kernel⟩
/-- The SCAN of window 15 at its first line, and at its last. -/
def scanAt (n : Nat) : Scan := { newScan (watchS 3 4) 3 seg5 false with pos := 5 * 2 ^ 26 + 0x180 + 128 * n }
def scanning (n : Nat) : State := { watched fenSvc with peat := { fenSvc.peat with scan := some (scanAt n) } }
theorem test_hyp_scanStep : (scanning 0).peat.scan = some (scanAt 0) ∧ segFind (scanning 0) (scanAt 0).seg = some seg5 ∧ (scanning 0).bad = [] ∧
    keyRetired (scanning 0) (locKey (fenLoc seg5 (scanAt 0).copyB ((scanAt 0).pos % 2 ^ 26))) = false ∧
    (tagGet (scanning 0) (locKey (fenLoc seg5 (scanAt 0).copyB ((scanAt 0).pos % 2 ^ 26)))).poi = false ∧ canon (scanning 0) = true ∧
    (scanAt 0).pos + 128 < (waBase (scanAt 0).ent.toNat + waLength (scanAt 0).ent.toNat) * 8 ∧
    (waBase (scanAt 1).ent.toNat + waLength (scanAt 1).ent.toNat) * 8 ≤ (scanAt 1).pos + 128 := by decide +kernel

/-! ### One SCLK -/

theorem test_hyp_sclk : svc.pending = [] ∧ svc.clk.ftv = true ∧ svc.clk.bus.toNat + 4 < 2 ^ 64 ∧ svc.clk.ft.toNat ≤ svc.clk.bus.toNat + 2 ∧
    svc.clk.bus.toNat ≤ svc.clk.ft.toNat + 2 ∧ State.reset.clk.ftv = false := by decide +kernel
/-- A report that brings the tier of channel 9 to level 5. -/
def mTemp : Msg := { hdr := pack 256 [(250, 6, Op.tempRpt), (44, 6, 9), (52, 8, 77), (60, 3, 5)], beats := [], be := [] }
def heated : State := { svc with regul := { svc.regul with rpts := [(.d1, mTemp)] } }
theorem test_hyp_reports : heated.pending = [] ∧ heated.pins.porstN = true ∧ heated.regul.rpts = [(.d1, mTemp)] ∧
    levelOf heated (fld (hResult mTemp) 0 6) ≠ fld (hResult mTemp) 16 3 ∧ heated.log.notices.length < 64 := by decide +kernel
/-- The sum of the reservations, with no entry reserved beyond QRES. -/
def reserves (s : State) (p : DPort) : Nat := (List.range 16).foldl (fun a k => a + max (qGet (portGet s p) k) (clsQres s.t k)) 0
theorem test_hyp_credits : svc.pw.bring = false ∧ svc.gen.armed = none ∧ canon svc = true ∧ canon crowded = true ∧ reserves svc .d1 ≤ 128 ∧
    128 < reserves crowded .d0 ∧ qGet (portGet svc .d1) 15 < clsQres svc.t 15 := by decide +kernel
/-- Counter 63 counts SCLK. -/
def counting : State := entS Tid.ctr 63 [(103, 1), (16, 0xFFFF), (8, 1)] svc
theorem test_hyp_counted : counting.pending = [] ∧ pdOn counting 76 = true ∧ canon counting = true ∧ counting.ctr.occ = [] ∧ counting.ctr.rst = [] ∧
    counting.ctr.cls = [] ∧ ctEvent (ctE counting.t 63) = 1 ∧ ctEn (ctE counting.t 63) = true ∧ (ctrGet counting 63).run = true ∧
    ctPasses (ctE counting.t 63) .u subjNone = true ∧ chained counting 63 = false ∧ (ctrGet counting 63).val.toNat + 1 < 2 ^ 48 := by decide +kernel
/-- Three waits: one whose tally has passed its threshold, one at its deadline, and one before it. -/
def waitsAt : State := { svc with tal := { svc.tal with parked := [wait 0 0 false, { wait 1 5 false with deadline := 1000 }, { wait 2 5 false with deadline := 1001 }] } }
theorem test_hyp_marked : waitsAt.pending = [] ∧ waitsAt.pins.porstN = true ∧ (∀ w ∈ waitsAt.tal.parked, w.by_ = none ∧ w.due = none) ∧
    waitsAt.tal.parked.map (fun w => passed (tallyVal waitsAt w.tally.toNat) w.thresh.toNat) = [true, false, false] ∧
    waitsAt.tal.parked.map (fun w => decide (w.deadline ≠ 0 ∧ w.deadline ≤ waitsAt.clk.ft)) = [true, true, false] := by decide +kernel

/-! ### The algorithms, by their standards' examples -/

/-- AES-256 of FIPS 197, Appendix C.3 (log 16). -/
theorem test_aes : Aes.encrypt (Aes.roundKeys (List.range 32)) ((List.range 16).map (· * 17)) =
    [0x8e, 0xa2, 0xb7, 0xca, 0x51, 0x67, 0x45, 0xbf, 0xea, 0xfc, 0x49, 0x90, 0x4b, 0x49, 0x60, 0x89] := by decide +kernel

end Sys2Proof.Tests
end

section
/-! SUPPORT. Proofs of the architecture family: what a frame says of each part, and the fields of a response. -/

namespace Sys2Proof.Machine

-- One declaration after the other: the threads of declarations that wait for one another exhaust the memory that a compile may take.
set_option Elab.async false

/-! ### Frames, part by part -/

section
variable {l : List Part} {s t u : State}

/-- An operation that changes less than a frame allows. -/
theorem OnlyChanges.le (h : OnlyChanges l s u) (m : List Part) (k : l ⊆ m := by decide) : OnlyChanges m s u := h.mono k

/-- Two operations of one frame, the first of which changes less. -/
theorem OnlyChanges.then {m : List Part} (h : OnlyChanges m s t) (k : OnlyChanges l t u) (j : l ⊆ m := by decide) : OnlyChanges m s u :=
  h.trans (k.mono j)

theorem OnlyChanges.clk (h : OnlyChanges l s u) (k : .clk ∉ l := by decide) : u.clk = s.clk := h.same .clk k
theorem OnlyChanges.pins (h : OnlyChanges l s u) (k : .pins ∉ l := by decide) : u.pins = s.pins := h.same .pins k
theorem OnlyChanges.gen (h : OnlyChanges l s u) (k : .gen ∉ l := by decide) : u.gen = s.gen := h.same .gen k
theorem OnlyChanges.arr (h : OnlyChanges l s u) (k : .arr ∉ l := by decide) : u.arr = s.arr := h.same .arr k
theorem OnlyChanges.mp (h : OnlyChanges l s u) (k : .mp ∉ l := by decide) : u.mp = s.mp := h.same .mp k
theorem OnlyChanges.tal (h : OnlyChanges l s u) (k : .tal ∉ l := by decide) : u.tal = s.tal := h.same .tal k
theorem OnlyChanges.home (h : OnlyChanges l s u) (k : .home ∉ l := by decide) : u.home = s.home := h.same .home k
theorem OnlyChanges.log (h : OnlyChanges l s u) (k : .log ∉ l := by decide) : u.log = s.log := h.same .log k
theorem OnlyChanges.ints (h : OnlyChanges l s u) (k : .ints ∉ l := by decide) : u.ints = s.ints := h.same .ints k
theorem OnlyChanges.srv (h : OnlyChanges l s u) (k : .srv ∉ l := by decide) : u.srv = s.srv := h.same .srv k
theorem OnlyChanges.bad (h : OnlyChanges l s u) (k : .bad ∉ l := by decide) : u.bad = s.bad := h.same .bad k

/-- What leaves the ports alone leaves the messages that wait for egress. -/
theorem OnlyChanges.out (h : OnlyChanges l s u) (p : Port) (k : outPart p ∉ l := by decide) : outOf u p = outOf s p := by
  cases p with
  | d0 => exact congrArg PortSt.out (h.same .d0 k)
  | d1 => exact congrArg PortSt.out (h.same .d1 k)
  | s => exact h.same .sout k

theorem OnlyChanges.port (h : OnlyChanges l s u) (p : DPort) (k : portPart p ∉ l := by decide) : portGet u p = portGet s p := by
  cases p with
  | d0 => exact h.same .d0 k
  | d1 => exact h.same .d1 k

end

/-- A frame of one part that a state update meets at sight. -/
theorem arrOnly (x : ArraySt) (s : State) : OnlyChanges [.arr] s { s with arr := x } :=
  ⟨fun q hq => by cases q <;> first | rfl | exact absurd (by simp) hq⟩
theorem mpOnly (x : MPort) (s : State) : OnlyChanges [.mp] s { s with mp := x } :=
  ⟨fun q hq => by cases q <;> first | rfl | exact absurd (by simp) hq⟩
theorem talOnly (x : TallySt) (s : State) : OnlyChanges [.tal] s { s with tal := x } :=
  ⟨fun q hq => by cases q <;> first | rfl | exact absurd (by simp) hq⟩
theorem homeOnly (x : HomeSt) (s : State) : OnlyChanges [.home] s { s with home := x } :=
  ⟨fun q hq => by cases q <;> first | rfl | exact absurd (by simp) hq⟩
theorem pfOnly (x : Prefetch) (s : State) : OnlyChanges [.pf] s { s with pf := x } :=
  ⟨fun q hq => by cases q <;> first | rfl | exact absurd (by simp) hq⟩
theorem sqOnly (x : List Req) (s : State) : OnlyChanges [.sq] s { s with sq := x } :=
  ⟨fun q hq => by cases q <;> first | rfl | exact absurd (by simp) hq⟩
theorem soutOnly (x : List Out) (s : State) : OnlyChanges [.sout] s { s with sout := x } :=
  ⟨fun q hq => by cases q <;> first | rfl | exact absurd (by simp) hq⟩
theorem regHwOnly (x : List RegReq) (s : State) : OnlyChanges [.regHw] s { s with regHw := x } :=
  ⟨fun q hq => by cases q <;> first | rfl | exact absurd (by simp) hq⟩

/-- State `s` with the parts of `l` as they are in `u`. -/
def blend (l : List Part) (s u : State) : State where
  pending := if .pending ∈ l then u.pending else s.pending
  clk := if .clk ∈ l then u.clk else s.clk
  pins := if .pins ∈ l then u.pins else s.pins
  pw := if .pw ∈ l then u.pw else s.pw
  banks := if .banks ∈ l then u.banks else s.banks
  gen := if .gen ∈ l then u.gen else s.gen
  arr := if .arr ∈ l then u.arr else s.arr
  mp := if .mp ∈ l then u.mp else s.mp
  pf := if .pf ∈ l then u.pf else s.pf
  d0 := if .d0 ∈ l then u.d0 else s.d0
  d1 := if .d1 ∈ l then u.d1 else s.d1
  sq := if .sq ∈ l then u.sq else s.sq
  sout := if .sout ∈ l then u.sout else s.sout
  regHw := if .regHw ∈ l then u.regHw else s.regHw
  fen := if .fen ∈ l then u.fen else s.fen
  tal := if .tal ∈ l then u.tal else s.tal
  home := if .home ∈ l then u.home else s.home
  regul := if .regul ∈ l then u.regul else s.regul
  mace := if .mace ∈ l then u.mace else s.mace
  keys := if .keys ∈ l then u.keys else s.keys
  ctr := if .ctr ∈ l then u.ctr else s.ctr
  peat := if .peat ∈ l then u.peat else s.peat
  mbx := if .mbx ∈ l then u.mbx else s.mbx
  startQ := if .startQ ∈ l then u.startQ else s.startQ
  core := if .core ∈ l then u.core else s.core
  ints := if .ints ∈ l then u.ints else s.ints
  log := if .log ∈ l then u.log else s.log
  srv := if .srv ∈ l then u.srv else s.srv
  bad := if .bad ∈ l then u.bad else s.bad

/-- What a frame leaves is known whole: what is read of the other parts is read of the state before. -/
theorem OnlyChanges.eq_blend {l : List Part} {s u : State} (h : OnlyChanges l s u) : u = blend l s u := by
  have e : ∀ {α : Type} (p : Part) (a b : α), (p ∉ l → a = b) → a = if p ∈ l then a else b := fun p a b k => by split <;> simp_all
  cases s; cases u
  simp only [blend, State.mk.injEq]
  exact ⟨
    e .pending _ _ (h.same .pending), e .clk _ _ (h.same .clk), e .pins _ _ (h.same .pins),
    e .pw _ _ (h.same .pw), e .banks _ _ (h.same .banks), e .gen _ _ (h.same .gen),
    e .arr _ _ (h.same .arr), e .mp _ _ (h.same .mp), e .pf _ _ (h.same .pf),
    e .d0 _ _ (h.same .d0), e .d1 _ _ (h.same .d1), e .sq _ _ (h.same .sq),
    e .sout _ _ (h.same .sout), e .regHw _ _ (h.same .regHw), e .fen _ _ (h.same .fen),
    e .tal _ _ (h.same .tal), e .home _ _ (h.same .home), e .regul _ _ (h.same .regul),
    e .mace _ _ (h.same .mace), e .keys _ _ (h.same .keys), e .ctr _ _ (h.same .ctr),
    e .peat _ _ (h.same .peat), e .mbx _ _ (h.same .mbx), e .startQ _ _ (h.same .startQ),
    e .core _ _ (h.same .core), e .ints _ _ (h.same .ints), e .log _ _ (h.same .log),
    e .srv _ _ (h.same .srv), e .bad _ _ (h.same .bad)⟩

/-! ### Fields of a header -/

theorem fld_lt (x lo w : Nat) : fld x lo w < 2 ^ w := Nat.mod_lt _ (Nat.two_pow_pos w)

@[simp] theorem fld_mod (x lo w : Nat) : fld x lo w % 2 ^ w = fld x lo w := Nat.mod_mod _ _

theorem testBit_fld (x lo w i : Nat) : (fld x lo w).testBit i = (decide (i < w) && x.testBit (lo + i)) := by
  simp [fld, Nat.testBit_mod_two_pow, Nat.testBit_shiftRight]

/-- Bit `i` of a record stands in the field that covers it. -/
theorem testBit_packNat (fs : List (Nat × Nat × Nat)) (i : Nat) :
    (packNat fs).testBit i = fs.any fun f => decide (f.1 ≤ i) && (decide (i - f.1 < f.2.1) && f.2.2.testBit (i - f.1)) := by
  have step : ∀ (l : List (Nat × Nat × Nat)) (a : Nat), (l.foldl (fun a f => a ||| ((f.2.2 % 2 ^ f.2.1) <<< f.1)) a).testBit i =
      (a.testBit i || l.any fun f => decide (f.1 ≤ i) && (decide (i - f.1 < f.2.1) && f.2.2.testBit (i - f.1))) := by
    intro l
    induction l with
    | nil => simp
    | cons f l ih =>
      intro a
      rw [List.foldl_cons, ih, List.any_cons, Nat.testBit_or, Nat.testBit_shiftLeft, Nat.testBit_mod_two_pow, Bool.or_assoc]
  rw [packNat, step, Nat.zero_testBit, Bool.false_or]

/-- A field of a record reads back what was packed into it, where the other fields stand beside it. -/
theorem fld_packNat {fs : List (Nat × Nat × Nat)} {lo w v : Nat} (m : (lo, w, v) ∈ fs)
    (d : ∀ f ∈ fs, f = (lo, w, v) ∨ f.1 + f.2.1 ≤ lo ∨ lo + w ≤ f.1) : fld (packNat fs) lo w = v % 2 ^ w := by
  refine Nat.eq_of_testBit_eq fun i => ?_
  rw [testBit_fld, testBit_packNat, Nat.testBit_mod_two_pow]
  by_cases hi : i < w
  · rw [Bool.eq_iff_iff]
    simp only [hi, decide_true, Bool.true_and, List.any_eq_true, Bool.and_eq_true, decide_eq_true_eq]
    constructor
    · rintro ⟨f, hf, h1, h2, h3⟩
      rcases d f hf with rfl | h | h
      · simpa using h3
      · omega
      · omega
    · exact fun h => ⟨_, m, Nat.le_add_right _ _, by simpa using hi, by simpa using h⟩
  · simp [hi]

theorem fld_pack {n : Nat} {fs : List (Nat × Nat × Nat)} {lo w v : Nat} (m : (lo, w, v) ∈ fs)
    (d : ∀ f ∈ fs, f = (lo, w, v) ∨ f.1 + f.2.1 ≤ lo ∨ lo + w ≤ f.1) (k : lo + w ≤ n) : fld (pack n fs).toNat lo w = v % 2 ^ w := by
  rw [← fld_packNat m d]
  refine Nat.eq_of_testBit_eq fun i => ?_
  simp only [testBit_fld, pack, BitVec.toNat_ofNat, Nat.testBit_mod_two_pow]
  by_cases hi : i < w
  · simp [hi, show lo + i < n by omega]
  · simp [hi]

/-- Each field of Table 2.2 stands at its place in the response that answers message `m`. -/
theorem rspMsg_fields (s : State) (p : Port) (m : Msg) (x : Rsp) :
    hOpcode (rspMsg s p m x) = x.op % 2 ^ 6 ∧ hStatus (rspMsg s p m x) = x.status % 2 ^ 3 ∧ hDst (rspMsg s p m x) = hSrc m ∧
    hSrc (rspMsg s p m x) = chipN s ∧ hTxid (rspMsg s p m x) = hTxid m ∧ hReqid (rspMsg s p m x) = hReqid m ∧ hWtag (rspMsg s p m x) = hWtag m ∧
    hTc (rspMsg s p m x) = hTc m ∧ hAspace (rspMsg s p m x) = hAspace m ∧ hAddr (rspMsg s p m x) = hAddr m ∧
    hResult (rspMsg s p m x) = x.result % 2 ^ 64 := by
  have c : chipN s % 2 ^ 14 = chipN s := Nat.mod_eq_of_lt s.pins.chipId.isLt
  have f : ∀ {lo w v}, (lo, w, v) ∈ _ → _ → lo + w ≤ 256 → fld (rspMsg s p m x).hdr.toNat lo w = v % 2 ^ w := @fld_pack 256 _
  refine ⟨f (v := x.op) ?_ ?_ ?_, f (v := x.status) ?_ ?_ ?_, (f (v := hSrc m) ?_ ?_ ?_).trans (fld_mod ..), (f (v := chipN s) ?_ ?_ ?_).trans c,
    (f (v := hTxid m) ?_ ?_ ?_).trans (fld_mod ..), (f (v := hReqid m) ?_ ?_ ?_).trans (fld_mod ..), (f (v := hWtag m) ?_ ?_ ?_).trans (fld_mod ..),
    (f (v := hTc m) ?_ ?_ ?_).trans (fld_mod ..), (f (v := hAspace m) ?_ ?_ ?_).trans (fld_mod ..), (f (v := hAddr m) ?_ ?_ ?_).trans (fld_mod ..),
    f (v := x.result) ?_ ?_ ?_⟩
  all_goals simp

end Sys2Proof.Machine
end

section
namespace Sys2Proof.Machine

-- One declaration after the other: the threads of declarations that wait for one another exhaust the memory that a compile may take.
set_option Elab.async false

/-! ### Answers -/

/-- The message queued last on every port of `t` is queued last in `u`, but for what its leaving does. -/
structure SameLast (t u : State) : Prop where
  pins : u.pins = t.pins
  last : ∀ p o, (outOf t p).getLast? = some o → ∃ o', (outOf u p).getLast? = some o' ∧ o'.msg = o.msg ∧ o'.subj = o.subj

theorem SameLast.of_out {t u : State} (h : u.pins = t.pins) (k : ∀ p, outOf u p = outOf t p) : SameLast t u :=
  ⟨h, fun p o e => ⟨o, (k p).symm ▸ e, rfl, rfl⟩⟩

theorem SameLast.trans {s t u : State} (h : SameLast s t) (k : SameLast t u) : SameLast s u := by
  refine ⟨k.pins.trans h.pins, fun p o e => ?_⟩
  obtain ⟨o1, e1, m1, j1⟩ := h.last p o e
  obtain ⟨o2, e2, m2, j2⟩ := k.last p o1 e1
  exact ⟨o2, e2, m2.trans m1, j2.trans j1⟩

/-- What leaves the ports and pins alone leaves the last messages. -/
theorem OnlyChanges.sameLast {l : List Part} {t u : State} (h : OnlyChanges l t u) (k : ∀ p ∈ [Part.pins, .d0, .d1, .sout], p ∉ l := by decide) :
    SameLast t u := .of_out (h.pins (k _ (by simp))) fun p => h.out p (k _ (by cases p <;> simp [outPart]))

theorem Answers.carry {t u : State} {p : Port} {m : Msg} {op st : Nat} {o : Out} (h : Answers t p m op st o) (k : SameLast t u) :
    ∃ o', Answers u p m op st o' ∧ o'.msg = o.msg := by
  obtain ⟨o', e, hm, hj⟩ := k.last p o h.last
  refine ⟨o', ⟨e, ?_, ?_, ?_, ?_, ?_, ?_, ?_, ?_, ?_, ?_, hj ▸ h.response⟩, hm⟩ <;> rw [hm]
  · exact h.op
  · exact h.status
  · exact h.dst
  · rw [h.src, chipN, chipN, k.pins]
  · exact h.txid
  · exact h.reqid
  · exact h.wtag
  · exact h.tc
  · exact h.space
  · exact h.addr

/-- A response answers its message with the opcode and the status it is given (R34). -/
theorem respond_answers (p : Port) (m : Msg) (j : Subj) (x : Rsp) (s : State) (ho : x.op < 2 ^ 6) (hs : x.status < 2 ^ 3) :
    ∃ o, Answers (respond p m j x s) p m x.op x.status o ∧ hResult o.msg = x.result % 2 ^ 64 ∧ o.msg.beats = x.beats := by
  obtain ⟨e1, e2, e3, e4, e5, e6, e7, e8, e9, e10, e11⟩ := rspMsg_fields s p m x
  have c : (respond p m j x s).pins = s.pins := (respond_only p m j x s).same .pins (by cases p <;> decide)
  refine ⟨{ msg := rspMsg s p m x, subj := some j, post := .none }, ⟨?_, ?_, ?_, e3, ?_, e5, e6, e7, e8, e9, e10, nofun⟩, e11, rfl⟩
  · rw [respond, emit_out, List.getLast?_append, List.getLast?_singleton, Option.some_or]
  · rw [e1, Nat.mod_eq_of_lt ho]
  · rw [e2, Nat.mod_eq_of_lt hs]
  · rw [e4, chipN, chipN, c]

theorem compTo_answers (p : Port) (m : Msg) (j : Subj) (st n : Nat) (s : State) (hs : st < 2 ^ 3) :
    ∃ o, Answers (compTo p m j st n s) p m Op.comp st o ∧ hResult o.msg = n % 2 ^ 64 ∧ o.msg.beats = [] :=
  respond_answers p m j { op := Op.comp, vc := Vc.rsp, status := st, result := n } s (show Op.comp < 2 ^ 6 by decide) hs

theorem dataTo_answers (p : Port) (m : Msg) (j : Subj) (st ep n : Nat) (d : Line) (s : State) (hs : st < 2 ^ 3) :
    ∃ o, Answers (dataTo p m j st ep n d s) p m Op.data st o ∧ o.msg.beats = spanData (hOff m) (hLen m) d := by
  obtain ⟨o, h, _, hb⟩ := respond_answers p m j
    { op := Op.data, vc := Vc.dat, status := st, map := beatMap (hOff m) (hLen m), epoch := ep, result := n,
      beats := spanData (hOff m) (hLen m) d } s (show Op.data < 2 ^ 6 by decide) hs
  exact ⟨o, h, hb⟩

theorem poiSt_lt (b : Bool) : poiSt b < 2 ^ 3 := by cases b <;> decide

/-! ### Counts, watch windows and the prefetcher -/

theorem foldl_only {α : Type} {l : List Part} {f : State → α → State} (h : ∀ s a, OnlyChanges l s (f s a)) (xs : List α) (s : State) :
    OnlyChanges l s (xs.foldl f s) := by
  induction xs generalizing s with
  | nil => exact .refl _ _
  | cons x xs ih => exact (h s x).trans (ih _)

theorem bankWaits_only (j : Subj) (q : Nat) (s : State) : OnlyChanges [.ctr] s (bankWaits j q s) := .ite (ctrOnly _ s) (.refl _ s)
theorem reqSlot_only (q : Nat) (b : Bool) (j : Subj) (s : State) : OnlyChanges [.ctr] s (reqSlot q b j s) := (ctrOnly _ s).trans (useSlot_only ..)
theorem cloveOcc_only (r : Req) (v : FpEv) (s : State) : OnlyChanges [.ctr] s (cloveOcc r v s) :=
  ((((((occR_only ..).trans (occR_only ..)).trans (occR_only ..)).trans (occR_only ..)).trans (occR_only ..)).trans (occR_only ..)).trans (occR_only ..)
theorem recvBeats_only (m : Msg) (s : State) : OnlyChanges [.ctr] s (recvBeats m s) := fctr_only ..
theorem passes_only (p : Port) (j : Subj) (s : State) : OnlyChanges [.ctr] s (passes p j s) :=
  (occP_only p 0x10 j 1 s).trans (.ite (ctrOnly ..) (.refl ..))

theorem watSet_only (w : Nat) (x : Wat) (s : State) : OnlyChanges [.peat] s (watSet w x s) := peatOnly _ s

theorem watFire_only (w n : Nat) (a : Acc) (s : State) : OnlyChanges [.peat, .ints, .log, .d0] s (watFire w n a s) :=
  ((((watSet_only ..).le _).then (raise_only ..)).then (notice_only ..)).then (traceEv_only ..) |>.then (trigger_only ..)

theorem watUpdate_only (w : Nat) (a : Acc) (s : State) : OnlyChanges [.peat, .ints, .log, .d0] s (watUpdate w a s) := by
  unfold watUpdate
  dsimp only
  split
  · exact .refl _ _
  · split
    · exact ((watSet_only ..).le _).then (watFire_only ..)
    · exact (watSet_only ..).le _

/-- An access touches the watch windows, and what their firing raises (R321, R322). -/
theorem watchAcc_only (a : Acc) (s : State) : OnlyChanges [.peat, .ints, .log, .d0] s (watchAcc a s) :=
  .ite (foldl_only (fun _ _ => .ite (.refl _ _) (watUpdate_only ..)) _ _) (.refl _ _)

theorem candAdd_only (r : Req) (l : LAddr) (s : State) : OnlyChanges [.pf, .ctr] s (candAdd r l s) := .ite ((occR_only ..).le _) ((pfOnly ..).le _)

theorem candRun_only (r : Req) (l : LAddr) (d : Int) (n k : Nat) (s : State) : OnlyChanges [.pf, .ctr] s (candRun r l d n k s) := by
  induction n generalizing k s with
  | zero => exact .refl _ _
  | succ n ih =>
    unfold candRun
    split
    · exact .ite ((candAdd_only ..).trans (ih ..)) (.refl _ _)
    · exact .refl _ _

theorem streamCheck_clean (i : Nat) (s : State) (h : s.bad = []) : streamCheck i s = s := by simp [streamCheck, h]

/-- Training touches the streams and the candidates (R79). -/
theorem train_only (r : Req) (s : State) (h : s.bad = []) : OnlyChanges [.pf, .ctr] s (train r s) := by
  unfold train
  dsimp only
  rw [streamCheck_clean _ s h]
  split
  · exact .refl _ _
  · split
    · next x _ =>
      have h1 := ((occR_only 0x30 r 1 s).le [.pf, .ctr]).then (pfOnly { (occR 0x30 r 1 s).pf with
        streams := (occR 0x30 r 1 s).pf.streams.eraseIdx (s.pf.streams.findIdx fun x =>
          x.reqid == BitVec.ofNat 12 (hReqid r.msg) && x.wtag == BitVec.ofNat 20 (hWtag r.msg)) ++ [streamStep x (hLine r.msg)] } _)
      exact h1.trans (.ite (candRun_only ..) (.refl _ _))
    · exact ((occR_only ..).le _).then (pfOnly ..)

/-! ### Storage without errors -/

theorem setCheck_clean (j : Option Subj) (x : Nat) (s : State) (h : s.bad = []) : setCheck j x s = s := by rw [setCheck, if_pos h]

theorem lookCheck_clean (j : Option Subj) (l : LAddr) (s : State) (h : s.bad = []) : lookCheck j l s = s :=
  List.foldl_fixed' (f := fun s x => setCheck j x s) (fun x => setCheck_clean j x s h) _

theorem sedgeCheck_clean (j : Option Subj) (x : Nat) (s : State) (h : s.bad = []) : sedgeCheck j x s = s := by rw [sedgeCheck, if_pos h]

theorem badWords_clean (f : Fin 16 → Site) (s : State) (h : s.bad = []) : badWords s f = [] := by simp [badWords, h]

theorem wayCheck_clean (j : Option Subj) (k : Nat) (s : State) (h : s.bad = []) : wayCheck j k s = (false, s) := by
  simp [wayCheck, dataErrs, badWords_clean _ s h]

theorem mireCheck_clean (i : Nat) (j : Option Subj) (s : State) (h : s.bad = []) : mireCheck i j s = s := by
  simp [mireCheck, ctlUse_clean _ _ s h, badWords_clean _ s h]

theorem missCheck_clean (i : Nat) (j : Option Subj) (s : State) (h : s.bad = []) : missCheck i j s = s := by
  simp [missCheck, ctlUse_clean _ _ s h, badWords_clean _ s h]

theorem predCheck_clean (i : Nat) (s : State) (h : s.bad = []) : predCheck i s = s := by simp [predCheck, h]

theorem dropData_clean (k : Nat) (s : State) (h : s.bad = []) : dropData k s = s := by cases s; subst h; rfl

/-- Looking a frame line up, on a bank in service, reads it (Table 17.2). -/
theorem frameRead_clean (j : Option Subj) (k : Nat) (s : State) (h : s.bad = []) (b : keyRetired s k = false) :
    frameRead j k s = ((dataGet s k, (tagGet s k).poi), s) := by
  simp [frameRead, setCheck_clean _ _ s h, wayCheck_clean _ _ s h, b]

/-! ### Lines of the array -/

/-- The array's stores are in canonical form. -/
structure ArrWf (s : State) : Prop where
  tags : swf (fun _ => TagE.zero) s.arr.tags = true
  data : swf (fun _ => 0) s.arr.data = true

theorem Canonical.arrWf {s : State} (h : Canonical s) : ArrWf s := ⟨h.tags, h.data⟩

theorem ArrWf.of_arr {s t : State} (h : ArrWf s) (e : t.arr = s.arr) : ArrWf t := ⟨e ▸ h.tags, e ▸ h.data⟩
theorem ArrWf.tagSet {s : State} (h : ArrWf s) (k : Nat) (e : TagE) : ArrWf (tagSet k e s) := ⟨swf_sset _ _ _ _ h.tags, h.data⟩
theorem ArrWf.dataPut {s : State} (h : ArrWf s) (k : Nat) (d : Line) (m : Mask) : ArrWf (dataPut k d m s) := ⟨h.tags, swf_sset _ _ _ _ h.data⟩
theorem ArrWf.plruTouch {s : State} (h : ArrWf s) (j k : Nat) : ArrWf (plruTouch j k s) := ⟨h.tags, h.data⟩

/-- From `s` to `u` the way at `k` has come to hold tag `e` and line `d`; every other way is as it was. -/
structure LineAt (s u : State) (k : Nat) (e : TagE) (d : Line) : Prop where
  tag : tagGet u k = e
  tags : TagsBut s u k
  data : dataGet u k = d
  datas : DataBut s u k

theorem LineAt.trans {s t u : State} {k : Nat} {e e' : TagE} {d d' : Line} (h : LineAt s t k e d) (g : LineAt t u k e' d') : LineAt s u k e' d' :=
  ⟨g.tag, fun j hj => (g.tags j hj).trans (h.tags j hj), g.data, fun j hj => (g.datas j hj).trans (h.datas j hj)⟩

/-- Tags and data are read of the array alone. -/
theorem tagGet_arr {s t : State} (h : t.arr = s.arr) (k : Nat) : tagGet t k = tagGet s k := by rw [tagGet, tagGet, h]
theorem dataGet_arr {s t : State} (h : t.arr = s.arr) (k : Nat) : dataGet t k = dataGet s k := by rw [dataGet, dataGet, h]

theorem LineAt.congr {s s' u u' : State} {k : Nat} {e : TagE} {d : Line} (h : LineAt s u k e d) (hs : s'.arr = s.arr) (hu : u'.arr = u.arr) :
    LineAt s' u' k e d :=
  ⟨(tagGet_arr hu k).trans h.tag, fun j hj => by rw [tagGet_arr hu, tagGet_arr hs, h.tags j hj], (dataGet_arr hu k).trans h.data,
    fun j hj => by rw [dataGet_arr hu, dataGet_arr hs, h.datas j hj]⟩

theorem LineAt.same {s u : State} (k : Nat) (h : u.arr = s.arr) : LineAt s u k (tagGet s k) (dataGet s k) :=
  ⟨tagGet_arr h k, fun j _ => tagGet_arr h j, dataGet_arr h k, fun j _ => dataGet_arr h j⟩

theorem tagSet_lineAt {s : State} (h : ArrWf s) (k : Nat) (e : TagE) : LineAt s (tagSet k e s) k e (dataGet s k) :=
  ⟨sget_sset _ _ _ _ none h.tags, fun _ hj => sget_sset_ne _ _ _ hj, rfl, fun _ _ => rfl⟩

theorem dataPut_lineAt {s : State} (h : ArrWf s) (k : Nat) (d : Line) (m : Mask) :
    LineAt s (dataPut k d m s) k (tagGet s k) (lineMerge (dataGet s k) d m) :=
  ⟨rfl, fun _ _ => rfl, sget_sset _ _ _ _ none h.data, fun _ hj => sget_sset_ne _ _ _ hj⟩

/-- A way written with a tag and with bytes of a line. -/
theorem putLine_lineAt {s : State} (h : ArrWf s) (k : Nat) (e : TagE) (d : Line) (m : Mask) :
    LineAt s (dataPut k d m (tagSet k e s)) k e (lineMerge (dataGet s k) d m) := by
  have g := tagSet_lineAt h k e
  have w := g.trans (dataPut_lineAt (h.tagSet k e) k d m)
  rwa [g.tag, g.data] at w

theorem tagSet_only (k : Nat) (e : TagE) (s : State) : OnlyChanges [.arr] s (tagSet k e s) := arrOnly _ s
theorem plruTouch_only (j k : Nat) (s : State) : OnlyChanges [.arr] s (plruTouch j k s) := arrOnly _ s
theorem dataPut_only (k : Nat) (d : Line) (m : Mask) (s : State) (h : s.bad = []) : OnlyChanges [.arr] s (dataPut k d m s) := by
  have e : dataPut k d m s = { s with arr := { s.arr with data := sset (fun _ => 0) s.arr.data k (lineMerge (dataGet s k) d m) } } := by
    cases s; subst h; rfl
  exact e ▸ arrOnly _ s

theorem demandHit_only (r : Req) (k : Nat) (s : State) : OnlyChanges [.arr, .ctr] s (demandHit r k s) :=
  OnlyChanges.then (.ite (((tagSet_only ..).le _).then (occR_only ..)) (.refl _ _)) (plruTouch_only ..)

/-- The replacement bits are no part of a way's tag and line. -/
theorem LineAt.plru {s u : State} {k : Nat} {e : TagE} {d : Line} (h : LineAt s u k e d) (i j : Nat) : LineAt s (plruTouch i j u) k e d :=
  ⟨h.tag, h.tags, h.data, h.datas⟩

/-- A demand hit clears PF, and leaves the line (R62, R63). -/
theorem demandHit_lineAt (r : Req) (k : Nat) {s : State} (h : ArrWf s) :
    LineAt s (demandHit r k s) k { tagGet s k with pf := false } (dataGet s k) := by
  unfold demandHit
  dsimp only
  by_cases e : (tagGet s k).pf = true
  · rw [if_pos e]
    exact ((tagSet_lineAt h k _).congr rfl ((occR_only 0x33 r 1 _).arr)).plru _ _
  · rw [if_neg e, show ({ tagGet s k with pf := false } : TagE) = tagGet s k by rw [← Bool.eq_false_iff.mpr e]]
    exact (LineAt.same k rfl).plru _ _

theorem demandHit_wf (r : Req) (k : Nat) {s : State} (h : ArrWf s) : ArrWf (demandHit r k s) := by
  unfold demandHit
  dsimp only
  split
  · exact ((h.tagSet k _).of_arr ((occR_only 0x33 r 1 _).arr)).plruTouch _ _
  · exact h.plruTouch _ _

/-- A whole line written replaces the one before. -/
theorem lineMerge_full (d x : Line) : lineMerge d x fullMask = x := by
  have e : (BitVec.ofNat 1024 (spreadMask 128 fullMask.toNat) : Line) = BitVec.allOnes 1024 := by decide +kernel
  simp only [lineMerge, e, BitVec.and_allOnes, BitVec.not_allOnes, BitVec.and_zero, BitVec.or_zero]

theorem maskCount_full : maskCount fullMask = 128 := by decide +kernel

end Sys2Proof.Machine
end

section
namespace Sys2Proof.Machine

-- One declaration after the other: the threads of declarations that wait for one another exhaust the memory that a compile may take.
set_option Elab.async false

/-! ### Ports -/

@[simp] theorem skidIn_out (x : PortSt) : (skidIn x).out = x.out := by
  unfold skidIn
  split
  · split <;> rfl
  · rfl

@[simp] theorem creditBack_out (g : Tables) (c : Nat) (x : PortSt) : (creditBack g c x).out = x.out := by
  unfold creditBack
  dsimp only
  split <;> rfl

@[simp] theorem creditBack_ing (g : Tables) (c : Nat) (x : PortSt) : (creditBack g c x).ing = x.ing := by
  unfold creditBack
  dsimp only
  split <;> rfl

@[simp] theorem creditBack_regq (g : Tables) (c : Nat) (x : PortSt) : (creditBack g c x).regq = x.regq := by
  unfold creditBack
  dsimp only
  split <;> rfl

@[simp] theorem regMove_out (p : DPort) (g : Tables) (x : PortSt) : (regMove p g x).out = x.out := by
  unfold regMove
  dsimp only
  split
  · rfl
  · split
    · rfl
    · rw [creditBack_out]

@[simp] theorem portMoves_out (p : DPort) (g : Tables) (n : Nat) (x : PortSt) : (portMoves p g n x).out = x.out := by
  induction n generalizing x with
  | zero => exact skidIn_out x
  | succ n ih => rw [portMoves, ih, regMove_out, skidIn_out]

theorem outOf_dport (s : State) (p : DPort) : outOf s (dport p) = (portGet s p).out := by cases p <;> rfl

/-- A D port whose messages stay leaves every port's messages. -/
theorem portSet_out {p : DPort} {x : PortSt} {s : State} (h : x.out = (portGet s p).out) (q : Port) : outOf (portSet p x s) q = outOf s q := by
  cases p <;> cases q <;> first | rfl | exact h

theorem popIng_sameLast (p : DPort) (i : Nat) (s : State) : SameLast s (popIng p i s) := by
  refine .of_out ((popIng_only p i s).pins (by cases p <;> decide)) fun q => ?_
  unfold popIng
  dsimp only
  split
  · rfl
  · exact portSet_out (by simp) q

theorem regFill_only (p : DPort) (s : State) : OnlyChanges [portPart p] s (regFill p s) := portSet_only ..

/-! ### Arrivals (O5) -/

/-- What classification reads is no count: it finds the same of a message after an event is counted. -/
theorem classify_counted {s u : State} (h : OnlyChanges [.ctr] s u) (p : Port) (m : Msg) : classify u p m = classify s p m := by
  rw [h.eq_blend]; rfl

theorem counted_t {s u : State} (h : OnlyChanges [.ctr] s u) : u.t = s.t := congrArg GenSt.live h.gen

/-- A request that takes a place takes the one that R229 and R331 give it, and no message leaves. -/
theorem placeIng_placed (p : DPort) (r : Req) (c : BitVec 4) (s : State) :
    Placed s.t (portGet s p) (portGet (placeIng p r c s) p) (newEntry r c) ∧ (portGet (placeIng p r c s) p).out = (portGet s p).out ∧
      (portGet (placeIng p r c s) p).regq = (portGet s p).regq := by
  unfold placeIng Placed newEntry
  dsimp only
  rw [counted_t (occR_only 0x19 r 1 s)]
  by_cases h : creditHeld (portGet s p) c.toNat = true
  · by_cases n : (portGet s p).ing.length < 128 <;> simp [h, n, skidPays, qSet]
  · by_cases k : commonRoom s.t (portGet s p) = true ∧ (portGet s p).ing.length < 128
    · simp [h, k, qSet]
    · have k' : (commonRoom s.t (portGet s p) && decide ((portGet s p).ing.length < 128)) = false := by simpa using k
      simp [h, k, k']

/-- The counts of an arrival, before it is classified. -/
def arrived (p : DPort) (m : Msg) (qc : BitVec 4) (s : State) : State :=
  let s := recvBeats m s
  if BitVec.ofNat 4 (rmQc s.t (hReqid m)) ≠ qc then occP (dport p) 0x18 (subjMsg s m) 1 s else s

theorem arrived_only (p : DPort) (m : Msg) (qc : BitVec 4) (s : State) : OnlyChanges [.ctr] s (arrived p m qc s) :=
  (recvBeats_only m s).trans (.ite (occP_only ..) (.refl ..))

/-- A request on class REQ that a port takes is classified, and served accordingly. -/
theorem execRequestIngress_taken {p : DPort} {m : Msg} {s : State} (qc : BitVec 4) (hv : hVc m = Vc.req) (ht : takesReq s p = true) :
    exec (.requestIngress p m qc) s = .next (match classify s (dport p) m with
      | .refuse st => creditPass p m qc.toNat (refuseMsg (dport p) m st (arrived p m qc s))
      | .zero => creditPass p m qc.toNat (zeroMsg (dport p) m (arrived p m qc s))
      | .reg tc => regArrive p m tc qc (arrived p m qc s)
      | .req r => placeIng p r qc (addDemand r (demandBytes m) (passClass r (arrived p m qc s)))) := by
  rw [← classify_counted (arrived_only p m qc s)]
  show execRequestIngress p m qc s = _
  rw [execRequestIngress, if_pos hv, if_pos ht]
  rfl

theorem requestPlaced_entry (p : DPort) (m : Msg) (qc : BitVec 4) (s : State) (r : Req) (hv : hVc m = Vc.req) (ht : takesReq s p = true)
    (hc : classify s (dport p) m = .req r) :
    ∃ u, exec (.requestIngress p m qc) s = .next u ∧ Placed s.t (portGet s p) (portGet u p) (newEntry r qc) ∧
      outOf u (dport p) = outOf s (dport p) ∧ OnlyChanges [portPart p, .regul, .ctr] s u := by
  have h : OnlyChanges [.regul, .ctr] s (addDemand r (demandBytes m) (passClass r (arrived p m qc s))) :=
    (((arrived_only p m qc s).le _).then (passes_only ..)).then (addDemand_only ..)
  refine ⟨_, by rw [execRequestIngress_taken qc hv ht, hc], ?_⟩
  obtain ⟨hp, ho, -⟩ := placeIng_placed p r qc (addDemand r (demandBytes m) (passClass r (arrived p m qc s)))
  rw [h.port p (by cases p <;> decide)] at hp ho
  refine ⟨?_, by rw [outOf_dport, ho, outOf_dport], (h.mono (by simp)).trans ((placeIng_only ..).mono (by simp))⟩
  rwa [show State.t _ = s.t from congrArg GenSt.live h.gen] at hp

theorem requestPlaced_reg (p : DPort) (m : Msg) (qc : BitVec 4) (s : State) (tc : BitVec 4) (hv : hVc m = Vc.req) (ht : takesReq s p = true)
    (hc : classify s (dport p) m = .reg tc) (hl : (portGet s p).regq.length < 16) :
    ∃ u, exec (.requestIngress p m qc) s = .next u ∧
      (portGet u p).regq = (portGet s p).regq ++ [{ port := p, msg := m, tc := tc, at_ := s.clk.run }] ∧
      (portGet u p).ing = (portGet s p).ing ∧ (portGet u p).out = (portGet s p).out ∧ OnlyChanges [portPart p, .ctr] s u := by
  have a := arrived_only p m qc s
  have h := a.trans (passes_only (dport p) (subjMsg (arrived p m qc s) m) _)
  refine ⟨_, by rw [execRequestIngress_taken qc hv ht, hc], ?_⟩
  dsimp only [regArrive]
  rw [a.port p (by cases p <;> decide), if_pos hl]
  generalize hx : ({ portGet s p with regq := (portGet s p).regq ++ [_] } : PortSt) = x
  have c : ∀ t, (portGet (creditPass p m qc.toNat (portSet p x t)) p).regq = x.regq ∧
      (portGet (creditPass p m qc.toNat (portSet p x t)) p).ing = x.ing ∧ (portGet (creditPass p m qc.toNat (portSet p x t)) p).out = x.out := by
    intro t
    unfold creditPass
    dsimp only
    split
    · simp
    · rw [(occP_only ..).port p (by cases p <;> decide), portGet_portSet]; exact ⟨rfl, rfl, rfl⟩
  obtain ⟨c1, c2, c3⟩ := c (passes (dport p) (subjMsg (arrived p m qc s) m) (arrived p m qc s))
  refine ⟨c1.trans ?_, c2.trans (hx ▸ rfl), c3.trans (hx ▸ rfl), ((h.mono (by simp)).trans ((portSet_only ..).mono (by simp))).trans (creditPass_only ..)⟩
  rw [← hx, h.clk]

theorem requestPlaced_regFull (p : DPort) (m : Msg) (qc : BitVec 4) (s : State) (tc : BitVec 4) (hv : hVc m = Vc.req) (ht : takesReq s p = true)
    (hc : classify s (dport p) m = .reg tc) (hl : 16 ≤ (portGet s p).regq.length) :
    ∃ u r, exec (.requestIngress p m qc) s = .next u ∧ r.msg = m ∧ r.tc = tc ∧ Placed s.t (portGet s p) (portGet u p) (newEntry r qc) ∧
      (portGet u p).regq = (portGet s p).regq ∧ (portGet u p).out = (portGet s p).out ∧ OnlyChanges [portPart p, .ctr] s u := by
  have a := arrived_only p m qc s
  have h := a.trans (passes_only (dport p) (subjMsg (arrived p m qc s) m) _)
  let v := passes (dport p) (subjMsg (arrived p m qc s) m) (arrived p m qc s)
  let r : Req := { mkReq v (dport p) .port m none none with tc := tc, at_ := v.clk.run }
  refine ⟨_, r, by rw [execRequestIngress_taken qc hv ht, hc], rfl, rfl, ?_⟩
  dsimp only [regArrive]
  rw [a.port p (by cases p <;> decide), if_neg (Nat.not_lt.mpr hl)]
  obtain ⟨hp, ho, hq⟩ := placeIng_placed p r qc v
  rw [h.port p (by cases p <;> decide)] at hp ho hq
  rw [counted_t h] at hp
  exact ⟨hp, hq, ho, (h.mono (by simp)).trans (placeIng_only ..)⟩

theorem requestPlaced_s (m : Msg) (s : State) (r : Req) (hp : s.pins.present = true) (hc : classify s .s m = .req r) :
    ∃ u, exec (.sPortRequest m) s = .next u ∧ u.sq = s.sq ++ [r] ∧ OnlyChanges [.sq, .ctr] s u := by
  have a := recvBeats_only m s
  have h := a.trans (passes_only r.port (subjReq r) _)
  refine ⟨_, rfl, ?_⟩
  rw [if_pos hp]
  dsimp only [ingressS]
  rw [classify_counted a, hc]
  exact ⟨congrArg (· ++ [r]) (h.same .sq (by decide)), (h.le _).then (sqOnly ..)⟩

/-- Settles O5: a request classified as one that waits takes its place, by the three outcomes that leave it waiting on a D port and the one on S. -/
theorem requestPlaced : Obligations.RequestPlaced :=
  ⟨requestPlaced_entry, requestPlaced_reg, requestPlaced_regFull, requestPlaced_s⟩

end Sys2Proof.Machine
end

section
namespace Sys2Proof.Machine

-- One declaration after the other: the threads of declarations that wait for one another exhaust the memory that a compile may take.
set_option Elab.async false

/-! ### What the step of a request changes -/

/-- From `s` to `u` a request's step has changed what any step may change, and of the rest no more than `l`; the home is as it was. -/
structure Acts (l : List Part) (s u : State) : Prop where
  frame : OnlyChanges (l ++ stepParts) s u
  home : SameHome s u

theorem OnlyChanges.acts {m : List Part} {s u : State} (h : OnlyChanges m s u) (l : List Part) (k : m ⊆ l ++ stepParts := by decide)
    (n : .home ∉ m := by decide) : Acts l s u := by
  refine ⟨h.mono k, ?_⟩
  rw [SameHome, h.home n]
  exact ⟨rfl, rfl, rfl⟩

theorem Acts.trans {l : List Part} {s t u : State} (h : Acts l s t) (k : Acts l t u) : Acts l s u :=
  ⟨h.frame.trans k.frame, k.home.1.trans h.home.1, k.home.2.1.trans h.home.2.1, k.home.2.2.trans h.home.2.2⟩

theorem Acts.le {l : List Part} {s u : State} (h : Acts l s u) (m : List Part) (k : l ++ stepParts ⊆ m ++ stepParts := by decide) : Acts m s u :=
  ⟨h.frame.mono k, h.home⟩

theorem Acts.then {l m : List Part} {s t u : State} (h : Acts m s t) (k : Acts l t u) (j : l ++ stepParts ⊆ m ++ stepParts := by decide) : Acts m s u :=
  h.trans (k.le m j)

/-- An operation that the home and the other parts do not meet follows a step's. -/
theorem Acts.andThen {l m : List Part} {s t u : State} (h : Acts m s t) (k : OnlyChanges l t u) (j : l ⊆ m ++ stepParts := by decide)
    (n : .home ∉ l := by decide) : Acts m s u := h.trans (k.acts m j n)

/-- What a step finds is what it found before any such change. -/
theorem Acts.placeOf {s u : State} (h : Acts [] s u) (l : LAddr) : placeOf u l = placeOf s l := by rw [h.frame.eq_blend]; rfl
theorem Acts.mireFind {s u : State} (h : Acts [] s u) (l : LAddr) : mireFind u l = mireFind s l := by rw [h.frame.eq_blend]; rfl
theorem Acts.missRefuse {s u : State} (h : Acts [] s u) (r : Req) : missRefuse u r = missRefuse s r := by rw [h.frame.eq_blend]; rfl
theorem Acts.missNew {s u : State} (h : Acts [] s u) (r : Req) (k : MissKind) (x : MissSt) (b : Line) (m : Mask) :
    missNew u r k x b m = missNew s r k x b m := by rw [h.frame.eq_blend]; rfl
theorem Acts.victim {s u : State} (h : Acts [] s u) (c t x : Nat) : victim u c t x = victim s c t x := by rw [h.frame.eq_blend]; rfl
theorem Acts.instSet {s u : State} (h : Acts [] s u) (l : LAddr) (x : Nat) : instSet u l x = instSet s l x := by rw [h.frame.eq_blend]; rfl
theorem Acts.keyRetired {s u : State} (h : Acts [] s u) (k : Nat) : keyRetired u k = keyRetired s k := by rw [h.frame.eq_blend]; rfl

theorem hteInH_congr {s u : State} (h : SameHome s u) (l : LAddr) : hteInH u l = hteInH s l := by rw [hteInH, hteInH, h.2.2]

theorem sedgeFind_congr {s u : State} (g : u.gen = s.gen) (h : SameHome s u) (l : LAddr) : sedgeFind u l = sedgeFind s l := by
  have e : sedgeFind u l = sedgeFind { s with gen := u.gen, home := { s.home with sedge := u.home.sedge } } l := rfl
  rw [e, g, h.1]

/-! ### Commands that perform the step of a request -/

theorem portPick_only (p : DPort) (i : Nat) (g : Ing) (f : Bool) (s : State) (h : s.bad = []) :
    OnlyChanges [portPart p, .pf, .ctr] s (portPick p i g f s) := by
  have k : OnlyChanges [portPart p, .pf, .ctr] s (if f then occR 0xA3 g.req 1 s else portSet p { portGet s p with rrPick := g.req.qc } s) :=
    .ite ((occR_only ..).mono (by simp)) ((portSet_only ..).mono (by simp))
  have n : ∀ {l}, l = [portPart p, Part.pf, .ctr] → .bad ∉ l := by rintro _ rfl; cases p <;> decide
  refine .ite k (k.trans (OnlyChanges.trans ((portSet_only ..).mono (by simp)) ((train_only _ _ ?_).mono (by simp))))
  rw [(portSet_only ..).bad (by cases p <;> decide), k.bad (n rfl), h]

theorem reedMark_sameLast (t : Nat) (m : Msg) (n : Nat) (s : State) : SameLast s (reedMark t m n s) := by
  refine ⟨rfl, fun p o e => ?_⟩
  cases p with
  | d0 => exact ⟨o, e, rfl, rfl⟩
  | d1 => exact ⟨o, e, rfl, rfl⟩
  | s =>
    simp only [outOf, reedMark, List.getLast?_append, List.getLast?_map] at e ⊢
    rw [← List.take_append_drop n s.sout, List.getLast?_append] at e
    cases h : (s.sout.drop n).getLast? with
    | none => rw [h, Option.none_or] at e; exact ⟨o, e, rfl, rfl⟩
    | some x => rw [h, Option.some_or] at e; cases e; exact ⟨_, rfl, rfl, rfl⟩

/-- A state is reached from which `f` makes the step, and what follows a step that is done leaves what it did. -/
def Runs (s : State) (f : State → StepRes) (u : State) : Prop :=
  ∃ s', Acts [] s s' ∧ ∀ t, f s' = .done t → Acts [] t u ∧ SameLast t u

theorem portStep_runs {p : DPort} {op : Nat} {s : State} {r : Req} (hb : s.bad = []) (ho : hOpcode r.msg = op) (hy : yields s p r = false)
    (hs : ∃ x, selectReq s p = some x ∧ x.2.1.req = r) : Runs s (reqStep r) (portStep p op s) := by
  obtain ⟨⟨i, g, f⟩, hx, rfl⟩ := hs
  refine ⟨portPick p i g f s, (portPick_only p i g f s hb).acts [] (by cases p <;> decide) (by cases p <;> decide), fun t ht => ?_⟩
  dsimp only at ho hy ht
  have e : portStep p op s = popIng p i (bankWaits (subjReq g.req) (reqPipe t g.req) (reqSlot (reqPipe t g.req) true (subjReq g.req) t)) := by
    simp [portStep, hx, ho, hy, ht, portEnd]
  have c := (reqSlot_only (reqPipe t g.req) true (subjReq g.req) t).trans (bankWaits_only (subjReq g.req) (reqPipe t g.req) _)
  rw [e]
  exact ⟨(c.acts []).trans ((popIng_only ..).acts [] (by cases p <;> decide) (by cases p <;> decide)), c.sameLast.trans (popIng_sameLast ..)⟩

theorem sStep_runs {op : Nat} {s : State} {r : Req} (ho : hOpcode r.msg = op) (hs : s.sq.head? = some r) : Runs s (reqStep r) (sStep op s) := by
  obtain ⟨rest, hq⟩ : ∃ rest, s.sq = r :: rest := by
    cases h : s.sq with
    | nil => rw [h] at hs; cases hs
    | cons x l => rw [h] at hs; cases hs; exact ⟨l, rfl⟩
  refine ⟨{ s with sq := rest }, (sqOnly rest s).acts [], fun t ht => ?_⟩
  have e : sStep op s = reedMark r.at_ r.msg s.sout.length (bankWaits (subjReq r) (reqPipe t r) (reqSlot (reqPipe t r) true (subjReq r) t)) := by
    simp only [sStep, hq, ho, ht, ne_eq, not_true_eq_false, if_false]
  have c := (reqSlot_only (reqPipe t r) true (subjReq r) t).trans (bankWaits_only (subjReq r) (reqPipe t r) _)
  rw [e]
  exact ⟨(c.acts []).trans ((soutOnly _ _).acts []), c.sameLast.trans (reedMark_sameLast ..)⟩

theorem relookAt_runs {k : Nat} {s : State} {r : Req} (hr : s.home.relook[k]? = some r) (hh : s.srv.halt = false)
    (hl : (s.home.relook.take k).any (sameLine r) = false) : Runs s (reqStep r) (relookAt k s) := by
  refine ⟨{ s with home := { s.home with relook := s.home.relook.eraseIdx k } }, ⟨(homeOnly _ s).mono (by decide), rfl, rfl, rfl⟩, fun t ht => ?_⟩
  have e : relookAt k s = reqSlot (reqPipe t r) true (subjReq r) t := by simp only [relookAt, hr, hh, hl, ht, Bool.or_self, Bool.false_eq_true, if_false]
  rw [e]
  exact ⟨(reqSlot_only ..).acts [], (reqSlot_only ..).sameLast⟩

/-- The rows of the tag pipes perform the step that their port selects. -/
theorem exec_stepOf {c : Instr} {x : Port × Nat} (h : stepOf c = some x) (s : State) : exec c s = .next (anyStep x.1 x.2 s) := by
  unfold stepOf at h
  split at h <;> cases h <;> first | rfl | (next p => cases p <;> rfl)

/-- A command that takes a request's step makes it (R20, R94, R172, R227). -/
theorem exec_takes {s : State} {c : Instr} {r : Req} (h : Takes s c r) (hb : s.bad = []) : ∃ u, exec c s = .next u ∧ Runs s (reqStep r) u := by
  obtain ⟨-, ⟨⟨p, op⟩, hx, ho, -, hp⟩ | ⟨k, rfl, hr, hh, hl⟩⟩ := h
  · refine ⟨_, exec_stepOf hx s, ?_⟩
    cases p with
    | d0 => exact portStep_runs hb ho hp.1 hp.2
    | d1 => exact portStep_runs hb ho hp.1 hp.2
    | s => exact sStep_runs ho hp
  · exact ⟨_, rfl, relookAt_runs hr hh hl⟩

/-! ### The home finds nothing of the line -/

theorem enginePredict_acts (r : Req) (s : State) (h : s.bad = []) : Acts [] s (enginePredict r s) ∧ SameLast s (enginePredict r s) := by
  unfold enginePredict
  dsimp only
  split
  · rw [predict, predCheck_clean _ s h]
    exact ⟨⟨(homeOnly _ s).mono (by decide), rfl, rfl, rfl⟩, (homeOnly _ s).sameLast⟩
  · exact ⟨⟨.refl _ _, rfl, rfl, rfl⟩, .of_out rfl fun _ => rfl⟩

/-- The requests that the home lets by where it holds nothing of their line. -/
def Ungated (op : Nat) : Prop := op = Op.rd ∨ op = Op.wr ∨ op = Op.red ∨ op = Op.atom ∨ op = Op.rdOnce

theorem reqStep_ungated {s : State} {r : Req} {t : State} (op : Ungated (hOpcode r.msg)) (hf : r.fen = none) (hb : s.bad = [])
    (hh : hteInH s (hLine r.msg) = none) (he : sedgeFind s (hLine r.msg) = none) (hm : memAccess r s = .done t) (ht : t.bad = []) :
    ∃ u, reqStep r s = .done u ∧ Acts [] t u ∧ SameLast t u := by
  have hs : (candSets s (hLine r.msg)).foldl (fun s x => sedgeCheck (some (subjReq r)) x s) s = s :=
    List.foldl_fixed' (f := fun s x => sedgeCheck (some (subjReq r)) x s) (fun x => sedgeCheck_clean _ x s hb) _
  by_cases c : hOpcode r.msg = Op.rdOnce
  · have hr : memRead r .plain s = .done t := by simpa [memAccess, c, Op.rdOnce, Op.wr, Op.red, Op.atom, Op.atomC] using hm
    refine ⟨occR 0x80 r 1 t, ?_, (occR_only ..).acts [], (occR_only ..).sameLast⟩
    simp [reqStep, hf, c, isCohOp, homeStep, hs, hh, he, homeRdOnce, hr, Op.rdOnce, Op.rdShr, Op.rdUnq, Op.upgrade, Op.atomC]
  · have n : isCohOp (hOpcode r.msg) = false := by
      rcases op with h | h | h | h | h <;> first | exact absurd h c | (rw [h]; rfl)
    by_cases d : pdOn s 68 = true
    · refine ⟨_, ?_, enginePredict_acts r t ht⟩
      simp [reqStep, hf, n, homeGate, d, hs, hh, he, gateGo, hm]
    · exact ⟨t, by simp [reqStep, hf, n, homeGate, d, hm], ⟨.refl _ _, rfl, rfl, rfl⟩, .of_out rfl fun _ => rfl⟩

/-- A MEM request whose line the home holds nothing of performs its access (R182). -/
theorem exec_takesMem {s : State} {c : Instr} {r : Req} {op : Nat} (h : TakesMem s c r op) (ho : Ungated op) :
    ∃ u, exec c s = .next u ∧ ∃ s', Acts [] s s' ∧ ∀ t, memAccess r s' = .done t → t.bad = [] → Acts [] t u ∧ SameLast t u := by
  obtain ⟨takes, opcode, mem, clean, noH, noEntry⟩ := h
  obtain ⟨u, hu, s', hs, ht⟩ := exec_takes takes clean
  refine ⟨u, hu, s', hs, fun t hm hb => ?_⟩
  obtain ⟨v, hv, a, l⟩ := reqStep_ungated (opcode ▸ ho) mem (hs.frame.bad.trans clean) ((hteInH_congr hs.home _).trans noH)
    ((sedgeFind_congr hs.frame.gen hs.home _).trans noEntry) hm hb
  obtain ⟨b, k⟩ := ht v hv
  exact ⟨a.trans b, l.trans k⟩

end Sys2Proof.Machine
end

section
namespace Sys2Proof.Machine

-- One declaration after the other: the threads of declarations that wait for one another exhaust the memory that a compile may take.
set_option Elab.async false

/-! ### Ends of accesses -/

/-- From `s` to `u` request `r` of a port has completed: `n` bytes are in its tally, and COMP goes out last with a status and a result. -/
structure Completed (s u : State) (r : Req) (n st res : Nat) : Prop where
  tally : TallyOf s u r.msg n
  answer : ∃ o, Answers u r.port r.msg Op.comp st o ∧ hResult o.msg = res

theorem TallyOf.congr {s s' u u' : State} {m : Msg} {n : Nat} (h : TallyOf s u m n) (hs : s'.tal = s.tal) (hu : u'.tal = u.tal) :
    TallyOf s' u' m n := by
  unfold TallyOf TallyGrows tallyVal at *
  rwa [hs, hu]

/-- A completion stands for what is done around it, where that leaves tallies and answers. -/
theorem Completed.wrap {s t u v : State} {r : Req} {n st res : Nat} (h : Completed t u r n st res) (hs : s.tal = t.tal) (hv : v.tal = u.tal)
    (k : SameLast u v) : Completed s v r n st res := by
  obtain ⟨o, a, e⟩ := h.answer
  obtain ⟨o', a', e'⟩ := a.carry k
  exact ⟨h.tally.congr hs hv, o', a', by rw [e', e]⟩

theorem outPart_step (p : Port) : [outPart p] ⊆ stepParts := by cases p <;> decide
theorem outPart_home (p : Port) : Part.home ∉ [outPart p] := by cases p <;> decide
theorem outPart_tal (p : Port) : Part.tal ∉ [outPart p] := by cases p <;> decide

theorem respond_acts (p : Port) (m : Msg) (j : Subj) (x : Rsp) (s : State) : Acts [] s (respond p m j x s) :=
  (respond_only p m j x s).acts [] (outPart_step p) (outPart_home p)

theorem watchAcc_acts (a : Acc) (s : State) : Acts [] s (watchAcc a s) := (watchAcc_only a s).acts []

theorem tallyAdd_clean_only (t n : Nat) (j : Option Subj) (o : Nat) (s : State) (h : s.bad = []) : OnlyChanges [.tal, .ctr] s (tallyAdd t n j o s) := by
  have e := tallyUse_clean t j s h
  cases j <;> (rw [tallyAdd, e]; exact ((talOnly _ s).le _).then (occAt_only ..))

theorem reqTally_acts (r : Req) (n : Nat) (s : State) (h : s.bad = []) : Acts [.tal] s (reqTally r n s) :=
  OnlyChanges.acts (.ite (tallyAdd_clean_only _ _ _ _ s h) (.refl _ _)) [.tal]

section
variable {r : Req} {s : State}

theorem deliverComp_acts (hr : r.src = .port) (b : Bool) (x ep : Nat) : Acts [] s (deliverComp r b x ep s) := by
  rw [deliverComp, hr]; exact respond_acts ..

theorem deliverComp_completed (hr : r.src = .port) {t : State} {n : Nat} (h : TallyOf s t r.msg n) (b : Bool) (x ep : Nat) :
    Completed s (deliverComp r b x ep t) r n (poiSt b) (x % 2 ^ 64) := by
  refine ⟨h.congr rfl (deliverComp_acts hr b x ep).frame.tal, ?_⟩
  rw [deliverComp, hr]
  obtain ⟨o, a, e, -⟩ := respond_answers r.port r.msg (subjReq r) { op := Op.comp, vc := Vc.rsp, status := poiSt b, result := x, epoch := ep } t
    (show Op.comp < 2 ^ 6 by decide) (poiSt_lt b)
  exact ⟨o, a, e⟩

/-- A read is answered with its span, and changes nothing else (R41). -/
theorem deliverRead_acts (hr : r.src = .port) (ep : Nat) (d : Line) (b : Bool) : Acts [] s (deliverRead r ep d b s) := by
  rw [deliverRead, hr]
  exact (OnlyChanges.acts (.ite (occR_only ..) (.refl _ _)) []).trans (respond_acts ..)

theorem deliverRead_answers (hr : r.src = .port) (ep : Nat) (d : Line) (b : Bool) :
    ∃ o, Answers (deliverRead r ep d b s) r.port r.msg Op.data (poiSt b) o ∧ o.msg.beats = spanData (hOff r.msg) (hLen r.msg) d := by
  rw [deliverRead, hr]
  exact dataTo_answers _ _ _ _ _ _ _ _ (poiSt_lt b)

theorem writeEnd_acts (hr : r.src = .port) (hb : s.bad = []) (ep : Nat) (m : Mask) (a : Line) (w : BitVec 16) (b : Bool) :
    Acts [.tal] s (writeEnd r ep m a w b s) := by
  have h := ((occR_only 0x17 r (maskCount m) s).acts []).trans (watchAcc_acts { accReq r (spanLen r.msg) m a with judge := w } _)
  exact ((h.le _).then (reqTally_acts r (maskCount m) _ (h.frame.bad.trans hb))).then (deliverComp_acts hr ..)

/-- A write ends with the bytes written in its tally and with COMP (R22, R45). -/
theorem writeEnd_completed (hr : r.src = .port) (hb : s.bad = []) (hc : swf (fun _ => 0) s.tal.val = true) (ep : Nat) (m : Mask) (a : Line)
    (w : BitVec 16) (b : Bool) : Completed s (writeEnd r ep m a w b s) r (maskCount m) (poiSt b) 0 := by
  have h := ((occR_only 0x17 r (maskCount m) s).acts []).trans (watchAcc_acts { accReq r (spanLen r.msg) m a with judge := w } _)
  have t := reqTally_of r (maskCount m) _ (show swf (fun _ => 0) _ = true from h.frame.tal ▸ hc) (h.frame.bad.trans hb)
  exact deliverComp_completed hr (t.congr h.frame.tal.symm rfl) b 0 ep

theorem opOn_acts (hr : r.src = .port) (hb : s.bad = []) (ep : Nat) (d : Line) (f : Bool) : Acts [.tal] s (opOn r ep d false f s).2.2 := by
  have h := ((cloveOcc_only r (applyOp r.msg d).2.2.1 s).acts []).trans
    (watchAcc_acts { accReq r (spanLen r.msg) (applyOp r.msg d).2.2.2 (applyOp r.msg d).1 with now := f } _)
  exact ((h.le _).then (reqTally_acts r (maskCount (applyOp r.msg d).2.2.2) _ (h.frame.bad.trans hb))).then (deliverComp_acts hr ..)

/-- An operation on a line that is not poisoned ends with the bytes of the elements that take part in its tally, and with COMP (R117, R130). -/
theorem opOn_completed (hr : r.src = .port) (hb : s.bad = []) (hc : swf (fun _ => 0) s.tal.val = true) (ep : Nat) (d : Line) (f : Bool) :
    Completed s (opOn r ep d false f s).2.2 r (maskCount (applyOp r.msg d).2.2.2) St.ok (retVal r.msg (applyOp r.msg d).2.1 % 2 ^ 64) := by
  have h := ((cloveOcc_only r (applyOp r.msg d).2.2.1 s).acts []).trans
    (watchAcc_acts { accReq r (spanLen r.msg) (applyOp r.msg d).2.2.2 (applyOp r.msg d).1 with now := f } _)
  have t := reqTally_of r (maskCount (applyOp r.msg d).2.2.2) _ (show swf (fun _ => 0) _ = true from h.frame.tal ▸ hc) (h.frame.bad.trans hb)
  exact deliverComp_completed hr (t.congr h.frame.tal.symm rfl) false _ ep

end

/-- The stores that a line's access writes are in canonical form. -/
structure StoreWf (s : State) : Prop where
  arr : ArrWf s
  tal : swf (fun _ => 0) s.tal.val = true

theorem Canonical.storeWf {s : State} (h : Canonical s) : StoreWf s := ⟨h.arrWf, h.tal⟩

theorem Acts.storeWf {s u : State} (h : Acts [] s u) (w : StoreWf s) : StoreWf u := ⟨w.arr.of_arr h.frame.arr, h.frame.tal ▸ w.tal⟩

/-! ### FEN space (O12) -/

theorem fenCount_only (r : Req) (s : State) : OnlyChanges [.regul, .ctr] s (fenCount r s) := by
  unfold fenCount
  refine .ite ((occR_only ..).le _) (.ite (((occR_only ..).le _).trans (addServed_only ..)) (addServed_only ..))

/-- A write to a frame line that is not poisoned leaves its tag, and writes its bytes. -/
theorem frameWrite_lineAt {s : State} (h : ArrWf s) {k : Nat} (d : Line) (m : Mask) (c : Bool) (hr : keyRetired s k = false)
    (hp : (tagGet s k).poi = false) : LineAt s (frameWrite k d m c false s) k (tagGet s k) (lineMerge (dataGet s k) d m) := by
  have e : ({ tagGet s k with poi := false || ((tagGet s k).poi && !c) } : TagE) = tagGet s k := by rw [hp, Bool.false_and, Bool.or_self, ← hp]
  have w := putLine_lineAt h k ({ tagGet s k with poi := false || ((tagGet s k).poi && !c) }) d m
  rw [e] at w
  rw [frameWrite, hr, if_neg Bool.false_ne_true]
  dsimp only
  rwa [e]

theorem frameWrite_only (k : Nat) (d : Line) (m : Mask) (c x : Bool) (s : State) (h : s.bad = []) : OnlyChanges [.arr] s (frameWrite k d m c x s) :=
  .ite (.refl _ _) ((tagSet_only ..).trans (dataPut_only _ _ _ _ h))

theorem LineAt.tag_same {s u : State} {k : Nat} {d : Line} (h : LineAt s u k (tagGet s k) d) (j : Nat) : tagGet u j = tagGet s j := by
  by_cases e : j = k
  · rw [e]; exact h.tag
  · exact h.tags j e

section
variable {s : State} {r : Req} {l : FenLoc} (hr : r.src = .port) (hx : r.exact = none) (hp : r.poi = false) (hb : s.bad = [])
  (hd : keyRetired s (locKey l) = false)
include hr hx hp hb hd

omit hp in
theorem fenStep_rd (ho : hOpcode r.msg = Op.rd) (hl : (tagGet s (locKey l)).poi = false) :
    ∃ t o, fenStep r l s = .done t ∧ Acts [] s t ∧ Answers t r.port r.msg Op.data St.ok o ∧
      o.msg.beats = spanData (hOff r.msg) (hLen r.msg) (dataGet s (locKey l)) := by
  have c := (fenCount_only r s).acts []
  have f := frameRead_clean (some (subjReq r)) (locKey l) (fenCount r s) (c.frame.bad.trans hb) ((c.keyRetired _).trans hd)
  rw [dataGet_arr c.frame.arr, tagGet_arr c.frame.arr, hl] at f
  obtain ⟨o, a, e⟩ := deliverRead_answers (s := watchAcc (accReq r (spanLen r.msg) 0 (dataGet s (locKey l))) (fenCount r s)) hr l.epoch.toNat
    (dataGet s (locKey l)) false
  refine ⟨_, o, ?_, (c.trans (watchAcc_acts ..)).trans (deliverRead_acts hr l.epoch.toNat (dataGet s (locKey l)) false), a, e⟩
  simp [fenStep, hx, ho, f, Op.rd, Op.wr, Op.red, Op.atom, Op.chainRd]

theorem fenStep_wr (hc : StoreWf s) (ho : hOpcode r.msg = Op.wr) (hl : (tagGet s (locKey l)).poi = false) :
    ∃ t, fenStep r l s = .done t ∧ Acts [.arr, .tal] s t ∧ Completed s t r (maskCount (wrMask r.msg)) St.ok 0 ∧
      LineAt s t (locKey l) (tagGet s (locKey l)) (lineMerge (dataGet s (locKey l)) (msgLine r.msg) (wrMask r.msg)) := by
  have c := (fenCount_only r s).acts []
  have cb := c.frame.bad.trans hb
  have ct := (c.keyRetired (locKey l)).trans hd
  have w := frameWrite_lineAt (hc.arr.of_arr c.frame.arr) (msgLine r.msg) (wrMask r.msg) (wrMask r.msg == fullMask) ct
    ((congrArg TagE.poi (tagGet_arr c.frame.arr _)).trans hl)
  have g := frameWrite_only (locKey l) (msgLine r.msg) (wrMask r.msg) (wrMask r.msg == fullMask) false (fenCount r s) cb
  generalize hv : frameWrite (locKey l) (msgLine r.msg) (wrMask r.msg) (wrMask r.msg == fullMask) false (fenCount r s) = v at w g
  have vb := g.bad.trans cb
  have e := writeEnd_acts (s := v) hr vb l.epoch.toNat (wrMask r.msg) (dataGet v (locKey l)) (BitVec.allOnes 16) false
  have d := writeEnd_completed (s := v) hr vb (by rw [g.tal, c.frame.tal]; exact hc.tal) l.epoch.toNat (wrMask r.msg) (dataGet v (locKey l))
    (BitVec.allOnes 16) false
  refine ⟨_, ?_, ((c.le _).andThen g).then e, d.wrap (g.tal.trans c.frame.tal).symm rfl (.of_out rfl fun _ => rfl), ?_⟩
  · simp [fenStep, hx, ho, hp, setCheck_clean _ _ _ cb, ct, tagGet_arr c.frame.arr, hl, reqWrite, hv]
  · rw [tagGet_arr c.frame.arr, dataGet_arr c.frame.arr] at w
    exact w.congr c.frame.arr.symm e.frame.arr

theorem fenStep_op (hc : StoreWf s) (ho : hOpcode r.msg = Op.red ∨ hOpcode r.msg = Op.atom) (hl : (tagGet s (locKey l)).poi = false) :
    ∃ t, fenStep r l s = .done t ∧ Acts [.arr, .tal] s t ∧
      Completed s t r (maskCount (applyOp r.msg (dataGet s (locKey l))).2.2.2) St.ok (retVal r.msg (applyOp r.msg (dataGet s (locKey l))).2.1 % 2 ^ 64) ∧
      LineAt s t (locKey l) (tagGet s (locKey l))
        (lineMerge (dataGet s (locKey l)) (applyOp r.msg (dataGet s (locKey l))).1 (applyOp r.msg (dataGet s (locKey l))).2.2.2) := by
  have c := (fenCount_only r s).acts []
  have cb := c.frame.bad.trans hb
  have ct := (c.keyRetired (locKey l)).trans hd
  have f := frameRead_clean (some (subjReq r)) (locKey l) (fenCount r s) cb ct
  rw [dataGet_arr c.frame.arr, tagGet_arr c.frame.arr, hl] at f
  have e := opOn_acts (s := fenCount r s) hr cb l.epoch.toNat (dataGet s (locKey l)) true
  have d := opOn_completed (s := fenCount r s) hr cb (by rw [c.frame.tal]; exact hc.tal) l.epoch.toNat (dataGet s (locKey l)) true
  generalize hv : (opOn r l.epoch.toNat (dataGet s (locKey l)) false true (fenCount r s)).2.2 = v at e d
  have va : v.arr = s.arr := e.frame.arr.trans c.frame.arr
  have vb := e.frame.bad.trans cb
  have vk : keyRetired v (locKey l) = false := by rw [← ct, e.frame.eq_blend]; rfl
  have w := frameWrite_lineAt (hc.arr.of_arr va) (applyOp r.msg (dataGet s (locKey l))).1 (applyOp r.msg (dataGet s (locKey l))).2.2.2 false vk
    ((congrArg TagE.poi (tagGet_arr va _)).trans hl)
  have g := frameWrite_only (locKey l) (applyOp r.msg (dataGet s (locKey l))).1 (applyOp r.msg (dataGet s (locKey l))).2.2.2 false false v vb
  refine ⟨_, ?_, ((c.le _).then e).andThen g, d.wrap c.frame.tal.symm g.tal g.sameLast, ?_⟩
  · have no : hOpcode r.msg ≠ Op.wr := by rcases ho with h | h <;> rw [h] <;> decide
    have x1 : (opOn r l.epoch.toNat (dataGet s (locKey l)) false true (fenCount r s)).1 = (applyOp r.msg (dataGet s (locKey l))).1 := rfl
    have x2 : (opOn r l.epoch.toNat (dataGet s (locKey l)) false true (fenCount r s)).2.1 = (applyOp r.msg (dataGet s (locKey l))).2.2.2 := rfl
    simp [fenStep, hx, ho, no, hp, f, ← hv, x1, x2]
  · rw [tagGet_arr va, dataGet_arr va] at w
    exact w.congr va.symm rfl

end

theorem fenAccess : FenAccess := by
  intro c s r l ht hf hx hp hb hc hl hd
  obtain ⟨u, hu, s', q, hs⟩ := exec_takes ht hb
  have qb := q.frame.bad.trans hb
  have qd := (q.keyRetired (locKey l)).trans hd
  have qw := q.storeWf hc.storeWf
  have ql : (tagGet s' (locKey l)).poi = false := (congrArg TagE.poi (tagGet_arr q.frame.arr _)).trans hl
  have step : reqStep r s' = fenStep r l s' := by rw [reqStep, hf]
  rw [step] at hs
  refine ⟨fun ho => ?_, fun ho => ?_, fun ho => ?_⟩
  · obtain ⟨t, o, et, at_, a, eb⟩ := fenStep_rd ht.1 hx qb qd ho ql
    obtain ⟨au, k⟩ := hs t et
    obtain ⟨o', a', e'⟩ := a.carry k
    have f := (q.trans at_).trans au
    exact ⟨u, o', hu, a', by rw [e', eb, dataGet_arr q.frame.arr], f.home, f.frame⟩
  · obtain ⟨t, et, at_, d, w⟩ := fenStep_wr ht.1 hx hp qb qd qw ho ql
    obtain ⟨au, k⟩ := hs t et
    obtain ⟨tal, o, a, -⟩ := d.wrap q.frame.tal.symm au.frame.tal k
    have f := ((q.le _).trans at_).then au
    rw [dataGet_arr q.frame.arr, tagGet_arr q.frame.arr] at w
    have w' := w.congr q.frame.arr.symm au.frame.arr
    exact ⟨u, o, hu, a, w'.data, w'.datas, w'.tag_same, tal, f.home, f.frame⟩
  · obtain ⟨t, et, at_, d, w⟩ := fenStep_op ht.1 hx hp qb qd qw ho ql
    obtain ⟨au, k⟩ := hs t et
    rw [dataGet_arr q.frame.arr] at d w
    obtain ⟨tal, o, a, -⟩ := d.wrap q.frame.tal.symm au.frame.tal k
    have f := ((q.le _).trans at_).then au
    rw [tagGet_arr q.frame.arr] at w
    have w' := w.congr q.frame.arr.symm au.frame.arr
    exact ⟨u, o, hu, a, w'.data, w'.datas, w'.tag_same, tal, f.home, f.frame⟩

/-- The message that a CHAIN_RD sends to the first engine of its chain (R47). -/
theorem chainData_fields (r : Req) (ep : Nat) (d : Line) (b : Bool) (s : State) : ∃ o, chainData r ep d b s = emit .s o s ∧
    hOpcode o.msg = Op.chainData ∧ hReqid o.msg = chainEntry r.msg 0 ∧ hStatus o.msg = poiSt b ∧ hTxid o.msg = hTxid r.msg ∧
    o.msg.beats = [lineBeat d 0, lineBeat d 1, r.msg.beats.getD 0 0] := by
  refine ⟨_, rfl, ?_, ?_, ?_, ?_, rfl⟩
  · exact fld_pack (v := Op.chainData) (by simp) (by simp) (by decide)
  · exact (fld_pack (v := chainEntry r.msg 0) (by simp) (by simp) (by decide)).trans (fld_mod ..)
  · exact (fld_pack (v := poiSt b) (by simp) (by simp) (by decide)).trans (Nat.mod_eq_of_lt (poiSt_lt b))
  · exact (fld_pack (v := hTxid r.msg) (by simp) (by simp) (by decide)).trans (fld_mod ..)

theorem chainReadSendsLine : ChainReadSendsLine := by
  intro s r l hq hp hsrc ho hf hx hpoi hb hd
  obtain ⟨rest, hl⟩ : ∃ rest, s.sq = r :: rest := by
    cases h : s.sq with
    | nil => rw [h] at hq; cases hq
    | cons x l => rw [h] at hq; cases hq; exact ⟨l, rfl⟩
  let s0 : State := { s with sq := rest }
  let s1 := fenCount r s0
  have c1 : OnlyChanges [.ctr] s0 s1 := by
    simp only [s1, fenCount, hp, hsrc, beq_self_eq_true, Bool.and_self, if_true]
    exact occR_only ..
  let s2 := watchAcc (accReq r (spanLen r.msg) 0 (dataGet s (locKey l))) s1
  have c2 := (c1.le [.peat, .ints, .log, .d0, .ctr]).then (watchAcc_only (accReq r (spanLen r.msg) 0 (dataGet s (locKey l))) s1)
  have f := frameRead_clean (some (subjReq r)) (locKey l) s1 (c1.bad.trans hb) (by rw [← hd, c1.eq_blend]; rfl)
  rw [dataGet_arr (s := s) c1.arr, tagGet_arr (s := s) c1.arr] at f
  obtain ⟨o, e, fo, fr, fs, ft, fb⟩ := chainData_fields r l.epoch.toNat (dataGet s (locKey l)) (tagGet s (locKey l)).poi s2
  have step : reqStep r s0 = .done (emit .s o s2) := by
    rw [← e]
    simp [reqStep, hf, fenStep, hx, ho, f, s1, s2, Op.chainRd, Op.wr, Op.red, Op.atom]
  let v := bankWaits (subjReq r) (reqPipe (emit .s o s2) r) (reqSlot (reqPipe (emit .s o s2) r) true (subjReq r) (emit .s o s2))
  have cv : OnlyChanges [.ctr] (emit .s o s2) v := (reqSlot_only ..).trans (bankWaits_only ..)
  have run : exec .chainRd s = .next (reedMark r.at_ r.msg s.sout.length v) := by
    show Host.Outcome.next (sStep Op.chainRd s) = _
    simp [sStep, hl, ho, step, s0, v]
  have out : v.sout = s.sout ++ [o] := (cv.same .sout (by decide)).trans (congrArg (· ++ [o]) (c2.same .sout (by decide)))
  refine ⟨_, { o with post := .reed r.at_ (reedBound r.msg) }, run, ?_, ?_, fo, fr, fs, ft, fb, ?_⟩
  · rw [hl]
    exact (cv.same .sq (by decide)).trans (c2.same .sq (by decide))
  · simp [reedMark, out]
  · have g := ((sqOnly rest s).le [.sq, .sout, .d0, .ctr, .peat, .ints, .log]).then c2
    exact ((g.then (emit_only .s o s2)).then cv).then (soutOnly _ _)

/-- Settles O12: a request in FEN space acts on its frame line in its step, and CHAIN_RD sends its line once. -/
theorem fenReadsAndWrites : Obligations.FenReadsAndWrites := ⟨fenAccess, chainReadSendsLine⟩

end Sys2Proof.Machine
end

section
namespace Sys2Proof.Machine

-- One declaration after the other: the threads of declarations that wait for one another exhaust the memory that a compile may take.
set_option Elab.async false

/-! ### Writes of MEM lines (O9) -/

theorem plistDrop_eq (l : LAddr) (s : State) : plistDrop l s = { s with mp := { s.mp with plist := s.mp.plist.filter (· ≠ l) } } := by
  unfold plistDrop
  by_cases h : listed s l = true
  · rw [if_pos h]
  · rw [if_neg h]
    have e : s.mp.plist.filter (· ≠ l) = s.mp.plist := List.filter_eq_self.mpr fun a ha => by
      simp only [ne_eq, decide_not, Bool.not_eq_true', decide_eq_false_iff_not]
      rintro rfl
      exact h (List.contains_iff_mem.mpr ha)
    rw [e]

/-- The part of a write's step that takes its line off the poison list, if it clears poison (R358). -/
def listDrop (r : Req) (s : State) : State := if wrMask r.msg == fullMask && !r.poi then plistDrop (hLine r.msg) s else s

theorem listDrop_eq {r : Req} (hp : r.poi = false) (s : State) :
    listDrop r s = { s with mp := { s.mp with plist := listAfter s (hLine r.msg) (wrMask r.msg) } } := by
  unfold listDrop listAfter
  by_cases h : wrMask r.msg = fullMask
  · simp [h, hp, plistDrop_eq]
  · simp [h]

theorem listDrop_only {r : Req} (hp : r.poi = false) (s : State) : OnlyChanges [.mp] s (listDrop r s) := by
  rw [listDrop_eq hp]; exact mpOnly ..

theorem listDrop_mp {r : Req} (hp : r.poi = false) {s t : State} (h : t.mp = s.mp) :
    (listDrop r t).mp = { s.mp with plist := listAfter s (hLine r.msg) (wrMask r.msg) } := by
  rw [listDrop_eq hp, listAfter, listAfter, h]

/-- Shares and counts of a request that is served. -/
def countServed (r : Req) (e : Nat) (s : State) : State := addServed r (spanLen r.msg) (occR e r 1 s)

theorem countServed_only (r : Req) (e : Nat) (s : State) : OnlyChanges [.regul, .ctr] s (countServed r e s) :=
  ((occR_only ..).le _).trans (addServed_only ..)

/-- The bytes of a write enter the way at `k`, and in a WTHRU region wait to leave on M (Table 3.6, R73). -/
def wroteAt (r : Req) (k : Nat) (s : State) : State :=
  let e := tagGet s k
  let x := writeOn (dataGet s k) (msgLine r.msg) (wrMask r.msg) (wrMask r.msg == fullMask && !r.poi) e.poi
  let s := dataPut k (msgLine r.msg) (wrMask r.msg) (tagSet k { e with poi := x.2, d := e.d || r.attr.wpol != 2 } s)
  if r.attr.wpol == 2 then sendThru r x.1 (wrMask r.msg) x.2 e.sealed e.qc e.tc s else s

/-- The tag of a way after a write that finds tag `e`. -/
def wroteTag (r : Req) (e : TagE) : TagE :=
  { e with poi := e.poi && wrMask r.msg != fullMask, d := e.d || r.attr.wpol != 2 }

theorem wroteAt_spec {r : Req} (hp : r.poi = false) {k : Nat} {s : State} (hb : s.bad = []) (hw : ArrWf s) :
    OnlyChanges [.arr, .mp] s (wroteAt r k s) ∧
    LineAt s (wroteAt r k s) k (wroteTag r (tagGet s k)) (lineMerge (dataGet s k) (msgLine r.msg) (wrMask r.msg)) ∧
    (wroteAt r k s).mp = if r.attr.wpol = 2 then
      { s.mp with wseq := s.mp.wseq + 1, writes := s.mp.writes ++ [(s.mp.wseq, .wthru (hLine r.msg) (lineMerge (dataGet s k) (msgLine r.msg) (wrMask r.msg))
        (if (tagGet s k).sealed then fullMask else wrMask r.msg) ((tagGet s k).poi && wrMask r.msg != fullMask) (tagGet s k).sealed (tagGet s k).qc
        (tagGet s k).tc)] } else s.mp := by
  have hc : (wrMask r.msg == fullMask && !r.poi) = !(wrMask r.msg != fullMask) := by simp [hp, bne]
  unfold wroteAt wroteTag writeOn
  dsimp only
  rw [hc, Bool.not_not]
  have w := putLine_lineAt hw k { tagGet s k with poi := (tagGet s k).poi && wrMask r.msg != fullMask, d := (tagGet s k).d || r.attr.wpol != 2 }
    (msgLine r.msg) (wrMask r.msg)
  have o : OnlyChanges [.arr] s (dataPut k (msgLine r.msg) (wrMask r.msg) (tagSet k { tagGet s k with
      poi := (tagGet s k).poi && wrMask r.msg != fullMask, d := (tagGet s k).d || r.attr.wpol != 2 } s)) :=
    (tagSet_only ..).trans (dataPut_only k _ _ _ hb)
  by_cases h : r.attr.wpol = 2
  · rw [if_pos (beq_iff_eq.mpr h), if_pos h]
    exact ⟨(o.le _).then (mpOnly ..), w.congr rfl rfl, rfl⟩
  · rw [if_neg (by simpa using h), if_neg h]
    exact ⟨o.le _, w, rfl⟩

section
variable {s : State} {r : Req} (hr : r.src = .port) (hp : r.poi = false) (hb : s.bad = []) (hw : StoreWf s)
include hr hp hb hw

theorem memWrite_way {k : Nat} (hl : placeOf s (hLine r.msg) = .way k) : ∃ t, memWrite r s = .done t ∧ Acts [.arr, .mp, .tal] s t ∧
    Completed s t r (maskCount (wrMask r.msg)) (poiSt ((tagGet s k).poi && wrMask r.msg != fullMask)) 0 ∧
    LineAt s t k (wroteTag r { tagGet s k with pf := false }) (lineMerge (dataGet s k) (msgLine r.msg) (wrMask r.msg)) ∧
    t.mp = if r.attr.wpol = 2 then
      { s.mp with plist := listAfter s (hLine r.msg) (wrMask r.msg), wseq := s.mp.wseq + 1,
                  writes := s.mp.writes ++ [(s.mp.wseq, .wthru (hLine r.msg) (lineMerge (dataGet s k) (msgLine r.msg) (wrMask r.msg))
        (if (tagGet s k).sealed then fullMask else wrMask r.msg) ((tagGet s k).poi && wrMask r.msg != fullMask) (tagGet s k).sealed (tagGet s k).qc
        (tagGet s k).tc)] } else { s.mp with plist := listAfter s (hLine r.msg) (wrMask r.msg) } := by
  let s1 := countServed r 0x22 (demandHit r k s)
  let s2 := listDrop r s1
  have o1 : OnlyChanges [.arr, .regul, .ctr] s s1 := ((demandHit_only r k s).le _).then (countServed_only ..)
  have o2 : OnlyChanges [.arr, .mp, .regul, .ctr] s s2 := (o1.le _).then (listDrop_only hp s1)
  have a2 : s2.arr = (demandHit r k s).arr := (listDrop_only hp s1).arr.trans (countServed_only r 0x22 _).arr
  have l2 : LineAt s s2 k { tagGet s k with pf := false } (dataGet s k) := (demandHit_lineAt r k hw.arr).congr rfl a2
  obtain ⟨o3, l3, m3⟩ := wroteAt_spec hp (k := k) (o2.bad.trans hb) ((demandHit_wf r k hw.arr).of_arr a2)
  rw [l2.tag, l2.data] at l3 m3
  rw [listDrop_mp hp o1.mp] at m3
  let s3 := wroteAt r k s2
  have b3 : s3.bad = [] := o3.bad.trans (o2.bad.trans hb)
  have t3 : s3.tal = s.tal := o3.tal.trans o2.tal
  have hc : (wrMask r.msg == fullMask && !r.poi) = !(wrMask r.msg != fullMask) := by simp [hp, bne]
  let d := lineMerge (dataGet s k) (msgLine r.msg) (wrMask r.msg)
  let x := (tagGet s k).poi && wrMask r.msg != fullMask
  have e4 := writeEnd_acts (s := s3) hr b3 0 (wrMask r.msg) d (BitVec.allOnes 16) x
  have d4 := writeEnd_completed (s := s3) hr b3 (t3 ▸ hw.tal) 0 (wrMask r.msg) d (BitVec.allOnes 16) x
  refine ⟨writeEnd r 0 (wrMask r.msg) d (BitVec.allOnes 16) x s3, ?_, ?_, d4.wrap t3.symm rfl (.of_out rfl fun _ => rfl),
    (l2.trans l3).congr rfl e4.frame.arr, e4.frame.mp.trans m3⟩
  · have q : writeOn (dataGet s2 k) (msgLine r.msg) (wrMask r.msg) (wrMask r.msg == fullMask && !r.poi) (tagGet s2 k).poi = (d, x) := by
      rw [l2.tag, l2.data, writeOn, hc, Bool.not_not]
    have f : memWrite r s = .done (writeEnd r 0 (wrMask r.msg)
        (writeOn (dataGet s2 k) (msgLine r.msg) (wrMask r.msg) (wrMask r.msg == fullMask && !r.poi) (tagGet s2 k).poi).1 (BitVec.allOnes 16)
        (writeOn (dataGet s2 k) (msgLine r.msg) (wrMask r.msg) (wrMask r.msg == fullMask && !r.poi) (tagGet s2 k).poi).2 s3) := by
      unfold memWrite
      dsimp only
      rw [lookCheck_clean _ _ s hb, hl]
      rfl
    rw [f, q]
  · exact (((o2.le [.arr, .mp, .regul, .ctr]).then o3).acts [.arr, .mp, .tal]).then e4

end
end Sys2Proof.Machine
end

section
namespace Sys2Proof.Machine

-- One declaration after the other: the threads of declarations that wait for one another exhaust the memory that a compile may take.
set_option Elab.async false

/-! ### Installing a line (R65 to R67, R78) -/

theorem countLeave_only (e : TagE) (s : State) : OnlyChanges [.ctr] s (countLeave e s) := .ite (occ_only ..) (.refl _ _)

/-- From `s` to `t` Mire has taken the line of the way at `k`, and its write-back waits for M (R67, R76). -/
structure ToMire (s t : State) (k : Nat) (m : MireE) : Prop where
  mp : t.mp = { s.mp with mire := s.mp.mire ++ [m], writes := s.mp.writes ++ [(s.mp.wseq, .mire m.id)], wseq := s.mp.wseq + 1 }
  line : m.line = (tagGet s k).line
  data : m.data = dataGet s k
  poi : m.poi = (tagGet s k).poi
  sealed : m.sealed = (tagGet s k).sealed

/-- From `s` to `t` the line of the way at `k` has left: a dirty one is in Mire, one that is not is dropped (R67). -/
structure Left (s t : State) (k : Nat) : Prop where
  frame : OnlyChanges [.arr, .mp, .ctr] s t
  wf : ArrWf t
  tags : TagsBut s t k
  datas : DataBut s t k
  clean : ((tagGet s k).v && (tagGet s k).d) = false → t.mp = s.mp
  dirty : ((tagGet s k).v && (tagGet s k).d) = true → ∃ m, ToMire s t k m

theorem evictWay_left {s : State} (hb : s.bad = []) (hw : ArrWf s) (k : Nat) : Left s (evictWay k s).2 k := by
  have z := tagSet_lineAt hw k TagE.zero
  have zb : (tagSet k TagE.zero s).bad = [] := hb
  unfold evictWay
  dsimp only
  by_cases v : (tagGet s k).v = true
  · by_cases d : (tagGet s k).d = true
    · rw [if_neg (by simp [v]), if_pos d, wayCheck_clean _ _ s hb, dropData_clean k _ zb]
      have o : OnlyChanges [.ctr] (mirePush (tagGet s k) (dataGet s k) (tagSet k TagE.zero s)) _ :=
        (countLeave_only (tagGet s k) _).trans (occ_only 0x28 .p (subjLine (tagGet s k).qc (tagGet s k).tc) 1 _)
      refine ⟨((tagSet_only k _ s).le [.arr, .mp, .ctr]).then ((mpOnly _ _).le [.mp, .ctr] |>.then o), (hw.tagSet k _).of_arr o.arr, ?_, ?_, ?_, ?_⟩
      · exact fun j hj => (tagGet_arr o.arr j).trans (z.tags j hj)
      · exact fun j hj => (dataGet_arr o.arr j).trans (z.datas j hj)
      · simp [v, d]
      · exact fun _ => ⟨_, o.mp, rfl, rfl, rfl, rfl⟩
    · rw [if_neg (by simp [v]), if_neg d, dropData_clean k _ zb]
      have o : OnlyChanges [.ctr] (tagSet k TagE.zero s) _ :=
        (countLeave_only (tagGet s k) _).trans (occ_only 0x27 .p (subjLine (tagGet s k).qc (tagGet s k).tc) 1 _)
      refine ⟨((tagSet_only k _ s).le [.arr, .mp, .ctr]).then o, (hw.tagSet k _).of_arr o.arr, ?_, ?_, fun _ => o.mp, ?_⟩
      · exact fun j hj => (tagGet_arr o.arr j).trans (z.tags j hj)
      · exact fun j hj => (dataGet_arr o.arr j).trans (z.datas j hj)
      · simp [d]
  · rw [if_pos (by simp [v])]
    exact ⟨.refl _ _, hw, fun _ _ => rfl, fun _ _ => rfl, fun _ => rfl, by simp [v]⟩

/-- The tag that a line is installed with (Table 3.3). -/
def instTag (i : Inst) : TagE :=
  { lo := i.line.extractLsb' 0 14, tc := i.tc, qc := i.qc, clv := false, pf := i.pf, sealed := i.sealed, poi := i.poi, d := i.d, v := true,
    tag := i.line.extractLsb' 14 23 }

theorem installAt_spec (k : Nat) (i : Inst) {s : State} (hb : s.bad = []) (hw : ArrWf s) :
    OnlyChanges [.arr] s (installAt k i s) ∧ LineAt s (installAt k i s) k (instTag i) i.data := by
  have o : OnlyChanges [.arr] s (dataPut k i.data fullMask (tagSet k (instTag i) s)) := (tagSet_only ..).trans (dataPut_only _ _ _ _ hb)
  have w := putLine_lineAt hw k (instTag i) i.data fullMask
  rw [lineMerge_full] at w
  unfold installAt
  dsimp only
  split
  · exact ⟨o.trans (plruTouch_only ..), w.plru _ _⟩
  · exact ⟨o, w⟩

/-- From `s` to `t` a line has taken the way at `k`, and the line that was there has left. -/
structure Installed (s t : State) (k : Nat) (i : Inst) : Prop where
  frame : OnlyChanges [.arr, .mp, .ctr] s t
  line : LineAt s t k (instTag i) i.data
  clean : ((tagGet s k).v && (tagGet s k).d) = false → t.mp = s.mp
  dirty : ((tagGet s k).v && (tagGet s k).d) = true → ∃ m, ToMire s t k m

section
variable {s : State} {i : Inst} (hb : s.bad = [])
include hb

theorem tryInstall_ok (hw : ArrWf s) {w k : Nat} (hv : victim s i.qc.toNat i.tc.toNat (instSet s i.line i.set) = some w)
    (hk : k = wkey (instSet s i.line i.set) w) (hm : ((tagGet s k).v && (tagGet s k).d && mireFull s) = false) :
    ∃ t, tryInstall i s = .ok t ∧ Installed s t k i := by
  subst hk
  have l := evictWay_left hb hw (wkey (instSet s i.line i.set) w)
  obtain ⟨o, a⟩ := installAt_spec (wkey (instSet s i.line i.set) w) i (l.frame.bad.trans hb) l.wf
  refine ⟨_, ?_, l.frame.then o, ⟨a.tag, fun j hj => (a.tags j hj).trans (l.tags j hj), a.data, fun j hj => (a.datas j hj).trans (l.datas j hj)⟩,
    fun h => o.mp.trans (l.clean h), fun h => ?_⟩
  · unfold tryInstall
    dsimp only
    rw [setCheck_clean _ _ s hb, hv]
    dsimp only
    rw [hm, if_neg Bool.false_ne_true]
  · obtain ⟨m, t⟩ := l.dirty h
    exact ⟨m, o.mp.trans t.mp, t.line, t.data, t.poi, t.sealed⟩

theorem tryInstall_mireWait {w : Nat} (hv : victim s i.qc.toNat i.tc.toNat (instSet s i.line i.set) = some w)
    (hm : ((tagGet s (wkey (instSet s i.line i.set) w)).v && (tagGet s (wkey (instSet s i.line i.set) w)).d && mireFull s) = true) :
    tryInstall i s = .mireWait := by
  unfold tryInstall
  dsimp only
  rw [setCheck_clean _ _ s hb, hv]
  dsimp only
  rw [hm, if_pos rfl]

theorem tryInstall_noVictim (hv : victim s i.qc.toNat i.tc.toNat (instSet s i.line i.set) = none) : tryInstall i s = .noVictim := by
  unfold tryInstall
  dsimp only
  rw [setCheck_clean _ _ s hb, hv]

end

/-! ### Writes of lines that the slice does not hold (Table 3.6, R66, R72, R78) -/

/-- What a write of a whole line installs (R66). -/
def wholeInst (r : Req) : Inst where
  line := hLine r.msg
  data := msgLine r.msg
  set := r.set.toNat
  qc := r.qc
  tc := r.tc
  pf := false
  sealed := r.attr.sealed
  poi := false
  d := true
  touch := true
  who := some (subjReq r)

/-- The miss entry in which a write of a whole line waits for Mire (R78). -/
def wholeMiss (s : State) (r : Req) : Miss := { missNew s r .whole .waitInstall (msgLine r.msg) fullMask with dirty := true, wrote := true }

/-- The miss entry that a partial write opens (R72). -/
def partMiss (s : State) (r : Req) : Miss :=
  { missNew s r .partialWr .waitIssue (lineMerge 0 (msgLine r.msg) (wrMask r.msg)) (wrMask r.msg) with
    att := [.write r (msgLine r.msg) (wrMask r.msg) false], dirty := true, wrote := true }

section
variable {s : State} {r : Req} (hr : r.src = .port) (hp : r.poi = false) (hb : s.bad = []) (hw : StoreWf s)
include hr hb hw

/-- A write-around takes a miss entry and waits to leave on M; the write completes. -/
theorem writeAround_done (hn : missRefuse s r = none) : ∃ t, writeAround r (msgLine r.msg) (wrMask r.msg) s = .done t ∧ Acts [.mp, .tal] s t ∧
    Completed s t r (maskCount (wrMask r.msg)) St.ok 0 ∧
    t.mp = { s.mp with miss := s.mp.miss ++ [aroundFor s r], wseq := s.mp.wseq + 1,
                       writes := s.mp.writes ++ [(s.mp.wseq, .around (aroundFor s r).id)] } := by
  let s1 := mwPush (.around (aroundFor s r).id) (missAdd (aroundFor s r) s)
  let d := lineMerge (Config.unseen (aroundFor s r).line s.clk.sclk) (msgLine r.msg) (wrMask r.msg)
  have o : OnlyChanges [.mp] s s1 := mpOnly ..
  have a := writeEnd_acts (s := s1) hr (o.bad.trans hb) 0 (wrMask r.msg) d (BitVec.allOnes 16) false
  have c := writeEnd_completed (s := s1) hr (o.bad.trans hb) hw.tal 0 (wrMask r.msg) d (BitVec.allOnes 16) false
  refine ⟨writeEnd r 0 (wrMask r.msg) d (BitVec.allOnes 16) false s1, ?_, (o.acts [.mp, .tal]).then a, c.wrap rfl rfl (.of_out rfl fun _ => rfl),
    a.frame.mp⟩
  rw [writeAround, hn]
  rfl

include hp

omit hr hb hw in
/-- The end of a write that goes around the array: counts and shares, and the poison list. -/
theorem listDrop_counted {t : State} {n st : Nat} (x : MPort) (v : Nat) (h : Acts [.mp, .tal] s t) (c : Completed s t r n st 0)
    (hm : t.mp = x) (hx : x.plist = s.mp.plist) :
    Acts [.mp, .tal] s (listDrop r (countServed r v t)) ∧ Completed s (listDrop r (countServed r v t)) r n st 0 ∧
      (listDrop r (countServed r v t)).mp = { x with plist := listAfter s (hLine r.msg) (wrMask r.msg) } := by
  have o := countServed_only r v t
  have d := listDrop_only hp (countServed r v t)
  refine ⟨h.andThen ((o.le [.mp, .regul, .ctr]).then d), c.wrap rfl (d.tal.trans o.tal) (o.sameLast.trans d.sameLast), ?_⟩
  rw [listDrop_eq hp, o.mp.trans hm, listAfter, listAfter, o.mp.trans hm, hx]

omit hr hp hw in
theorem memWrite_absent (hl : placeOf s (hLine r.msg) = .absent) : memWrite r s =
    if r.attr.wpol != 0 then
      match writeAround r (msgLine r.msg) (wrMask r.msg) s with
      | .done s => .done (listDrop r (countServed r 0x23 s))
      | x => x
    else if wrMask r.msg == fullMask then
      match tryInstall (wholeInst r) s with
      | .ok s => .done (writeEnd r 0 (wrMask r.msg) (msgLine r.msg) (BitVec.allOnes 16) false (listDrop r (countServed r 0x23 s)))
      | .noVictim =>
        match writeAround r (msgLine r.msg) (wrMask r.msg) s with
        | .done s => .done (listDrop r (countServed r 0x23 (occR 0x26 r 1 s)))
        | x => x
      | .mireWait =>
        match missRefuse s r with
        | some h => .hold h s
        | none => .done (writeEnd r 0 (wrMask r.msg) (msgLine r.msg) (BitVec.allOnes 16) false (listDrop r (countServed r 0x23
            (missAdd (wholeMiss s r) s))))
    else
      match missRefuse s r with
      | some h => .hold h s
      | none => .done (writeEnd r 0 (wrMask r.msg) (msgLine r.msg) (fullWords (wrMask r.msg)) false (countServed r 0x23
          (missAdd (partMiss s r) s))) := by
  unfold memWrite
  dsimp only
  rw [lookCheck_clean _ _ s hb, hl]
  rfl

/-- A WR that goes around the array, by its region's policy or for want of a way. -/
theorem memWrite_around (hl : placeOf s (hLine r.msg) = .absent) (hn : missRefuse s r = none)
    (hv : r.attr.wpol ≠ 0 ∨ wrMask r.msg = fullMask ∧ victim s r.qc.toNat r.tc.toNat (instSet s (hLine r.msg) r.set.toNat) = none) :
    ∃ t, memWrite r s = .done t ∧ Acts [.mp, .tal] s t ∧ Completed s t r (maskCount (wrMask r.msg)) St.ok 0 ∧ WentAround s t r := by
  obtain ⟨t, e, a, c, m⟩ := writeAround_done hr hb hw hn
  rw [memWrite_absent hb hl]
  by_cases p : r.attr.wpol = 0
  · obtain ⟨hf, hv⟩ := hv.resolve_left (not_not_intro p)
    rw [if_neg (by simp [p]), if_pos (by simp [hf]), tryInstall_noVictim (i := wholeInst r) hb hv, e]
    have o := occR_only 0x26 r 1 t
    have c1 := c.wrap (s := s) rfl o.tal o.sameLast
    have m1 := o.mp.trans m
    obtain ⟨a', c', m'⟩ := listDrop_counted hp _ 0x23 (a.andThen o) c1 m1 rfl
    exact ⟨_, rfl, a', c', m'⟩
  · rw [if_pos (by simpa using p), e]
    obtain ⟨a', c', m'⟩ := listDrop_counted hp _ 0x23 a c m rfl
    exact ⟨_, rfl, a', c', m'⟩

/-- A write of the whole line that takes a way. -/
theorem memWrite_install (hl : placeOf s (hLine r.msg) = .absent) (h0 : r.attr.wpol = 0) (hf : wrMask r.msg = fullMask) {w k : Nat}
    (hv : victim s r.qc.toNat r.tc.toNat (instSet s (hLine r.msg) r.set.toNat) = some w) (hk : k = wkey (instSet s (hLine r.msg) r.set.toNat) w)
    (hm : ((tagGet s k).v && (tagGet s k).d && mireFull s) = false) : ∃ t x, memWrite r s = .done t ∧ Acts [.arr, .mp, .tal] s t ∧
      Completed s t r 128 St.ok 0 ∧ Installed s x k (wholeInst r) ∧ t.arr = x.arr ∧
      t.mp = { x.mp with plist := listAfter s (hLine r.msg) (wrMask r.msg) } := by
  obtain ⟨x, e, i⟩ := tryInstall_ok (i := wholeInst r) hb hw.arr hv hk hm
  have xp : x.mp.plist = s.mp.plist := by
    cases h : (tagGet s k).v && (tagGet s k).d with
    | false => rw [i.clean h]
    | true => obtain ⟨m, t⟩ := i.dirty h; rw [t.mp]
  have o := countServed_only r 0x23 x
  have d := listDrop_only hp (countServed r 0x23 x)
  have f : OnlyChanges [.arr, .mp, .regul, .ctr] s (listDrop r (countServed r 0x23 x)) := ((i.frame.le _).then o).then d
  have a := writeEnd_acts (s := listDrop r (countServed r 0x23 x)) hr (f.bad.trans hb) 0 (wrMask r.msg) (msgLine r.msg) (BitVec.allOnes 16) false
  have c := writeEnd_completed (s := listDrop r (countServed r 0x23 x)) hr (f.bad.trans hb) (by rw [f.tal]; exact hw.tal) 0 (wrMask r.msg)
    (msgLine r.msg) (BitVec.allOnes 16) false
  rw [show maskCount (wrMask r.msg) = 128 by rw [hf, maskCount_full]] at c
  refine ⟨_, x, ?_, (f.acts [.arr, .mp, .tal]).then a, c.wrap f.tal.symm rfl (.of_out rfl fun _ => rfl), i, (a.frame.arr.trans d.arr).trans o.arr, ?_⟩
  · rw [memWrite_absent hb hl, if_neg (by simp [h0]), if_pos (by simp [hf]), e]
  · rw [a.frame.mp, listDrop_eq hp, o.mp, listAfter, listAfter, o.mp, xp]

/-- A write of the whole line that waits in a miss entry while Mire is full. -/
theorem memWrite_mireWait (hl : placeOf s (hLine r.msg) = .absent) (h0 : r.attr.wpol = 0) (hf : wrMask r.msg = fullMask) {w : Nat}
    (hv : victim s r.qc.toNat r.tc.toNat (instSet s (hLine r.msg) r.set.toNat) = some w)
    (hm : ((tagGet s (wkey (instSet s (hLine r.msg) r.set.toNat) w)).v && (tagGet s (wkey (instSet s (hLine r.msg) r.set.toNat) w)).d && mireFull s)
      = true) (hn : missRefuse s r = none) : ∃ t, memWrite r s = .done t ∧ Acts [.mp, .tal] s t ∧ Completed s t r 128 St.ok 0 ∧
      t.mp = { s.mp with plist := listAfter s (hLine r.msg) (wrMask r.msg), miss := s.mp.miss ++
        [wholeMiss s r] } := by
  let x := missAdd (wholeMiss s r) s
  have o := countServed_only r 0x23 x
  have d := listDrop_only hp (countServed r 0x23 x)
  have f : OnlyChanges [.mp, .regul, .ctr] s (listDrop r (countServed r 0x23 x)) := (((mpOnly _ s).le _).then o).then d
  have a := writeEnd_acts (s := listDrop r (countServed r 0x23 x)) hr (f.bad.trans hb) 0 (wrMask r.msg) (msgLine r.msg) (BitVec.allOnes 16) false
  have c := writeEnd_completed (s := listDrop r (countServed r 0x23 x)) hr (f.bad.trans hb) (by rw [f.tal]; exact hw.tal) 0 (wrMask r.msg)
    (msgLine r.msg) (BitVec.allOnes 16) false
  rw [show maskCount (wrMask r.msg) = 128 by rw [hf, maskCount_full]] at c
  refine ⟨_, ?_, (f.acts [.mp, .tal]).then a, c.wrap f.tal.symm rfl (.of_out rfl fun _ => rfl), ?_⟩
  · rw [memWrite_absent hb hl, if_neg (by simp [h0]), if_pos (by simp [hf]), tryInstall_mireWait (i := wholeInst r) hb hv hm, hn]
  · rw [a.frame.mp, listDrop_eq hp, o.mp, listAfter, listAfter, o.mp]; rfl

end
end Sys2Proof.Machine
end

section
namespace Sys2Proof.Machine

-- One declaration after the other: the threads of declarations that wait for one another exhaust the memory that a compile may take.
set_option Elab.async false

/-! ### Accesses to Mire and to miss entries that wait (R21, R77) -/

theorem lmod_lmod {α : Type} (p : α → Bool) (f g : α → α) (h : ∀ x, p (f x) = p x) (l : List α) :
    lmod p g (lmod p f l) = lmod p (fun x => g (f x)) l := by
  simp only [lmod, List.map_map]
  refine List.map_congr_left fun x _ => ?_
  by_cases q : p x = true <;> simp [q, h]

theorem lmod_congr {α : Type} {p : α → Bool} {f g : α → α} {l : List α} (h : ∀ x ∈ l, p x = true → f x = g x) : lmod p f l = lmod p g l :=
  List.map_congr_left fun x hx => by by_cases q : p x = true <;> simp [q, h x hx]

/-- A line whose place is Mire is found there. -/
theorem mireFind_of_placeOf {s : State} {l : LAddr} {m : MireE} (h : placeOf s l = .mire m) : mireFind s l = some m := by
  unfold placeOf at h
  split at h
  · cases h
  · split at h
    · next e => cases h; exact e
    · split at h <;> cases h

theorem mireMod_only (i : Nat) (f : MireE → MireE) (s : State) : OnlyChanges [.mp] s (mireMod i f s) := mpOnly _ s
theorem missMod_only (i : Nat) (f : Miss → Miss) (s : State) : OnlyChanges [.mp] s (missMod i f s) := mpOnly _ s

/-- The access that a read is counted for and watched as. -/
def readAcc (r : Req) (d : Line) (s : State) : State := watchAcc (accReq r (spanLen r.msg) 0 d) s

theorem readAcc_acts (r : Req) (d : Line) (s : State) : Acts [] s (readAcc r d s) := watchAcc_acts ..

/-- Counts of a request that is served where event `e` and, before it, event `k` count. -/
def countBoth (r : Req) (e k : Nat) (s : State) : State := countServed r e (occR k r 1 s)

theorem countBoth_only (r : Req) (e k : Nat) (s : State) : OnlyChanges [.regul, .ctr] s (countBoth r e k s) :=
  ((occR_only ..).le _).then (countServed_only ..)

/-- A write of the line that Mire entry `m` holds, counted already (R77, R353). -/
def mireWritten (r : Req) (m : MireE) (s : State) : State :=
  let x := writeOn m.data (msgLine r.msg) (wrMask r.msg) (wrMask r.msg == fullMask && !r.poi) m.poi
  writeEnd r 0 (wrMask r.msg) x.1 (BitVec.allOnes 16) x.2
    (mireMod m.id (fun n => { n with data := x.1, poi := x.2, redirty := n.redirty || n.sent || n.macOut }) s)

/-- A Clove operation on the line that Mire entry `m` holds, counted already (R77, R354). -/
def opMire (r : Req) (m : MireE) (s : State) : State :=
  let x := opOn r 0 m.data m.poi true s
  mireMod m.id (fun n => { n with data := x.1, redirty := n.redirty || ((n.sent || n.macOut) && !n.poi) }) x.2.2

/-- A request attaches to miss entry `i` to wait there for its fill, and is counted (R21). -/
def attach (r : Req) (v i : Nat) (a : AttOp) (s : State) : State :=
  readAcc r 0 (missMod i (fun e => { e with att := e.att ++ [a] }) (countBoth r v 0x25 (missMod i (fun e => { e with nAtt := e.nAtt + 1 }) s)))

theorem attach_spec (r : Req) (v i : Nat) (a : AttOp) (s : State) : Acts [.mp] s (attach r v i a s) ∧
    (attach r v i a s).mp =
      { s.mp with miss := lmod (·.id = i) (fun x => { x with nAtt := x.nAtt + 1, att := x.att ++ [a] }) s.mp.miss } := by
  let s1 := missMod i (fun e => { e with nAtt := e.nAtt + 1 }) s
  have c2 := countBoth_only r v 0x25 s1
  have c3 := (((missMod_only ..).le [.mp, .regul, .ctr]).then c2).then (missMod_only i (fun e => { e with att := e.att ++ [a] }) (countBoth r v 0x25 s1))
  have x := readAcc_acts r 0 (missMod i (fun e => { e with att := e.att ++ [a] }) (countBoth r v 0x25 s1))
  refine ⟨(c3.acts [.mp]).then x, ?_⟩
  rw [attach, x.frame.mp]
  show ({ (countBoth r v 0x25 s1).mp with miss := lmod _ _ (countBoth r v 0x25 s1).mp.miss } : MPort) = _
  rw [c2.mp]
  have q := lmod_lmod (fun x : Miss => decide (x.id = i)) (fun e => { e with nAtt := e.nAtt + 1 }) (fun e => { e with att := e.att ++ [a] })
    (fun _ => rfl) s.mp.miss
  exact congrArg (fun l => ({ s.mp with miss := l } : MPort)) q

section
variable {s : State} {r : Req} (hr : r.src = .port) (hb : s.bad = [])
include hb

include hr in
theorem memRead_mire {m : MireE} (hl : placeOf s (hLine r.msg) = .mire m) : ∃ t o, memRead r .plain s = .done t ∧ Acts [] s t ∧
    Answers t r.port r.msg Op.data (poiSt m.poi) o ∧ o.msg.beats = spanData (hOff r.msg) (hLen r.msg) m.data := by
  have c := countBoth_only r 0x20 0x24 s
  obtain ⟨o, a, e⟩ := deliverRead_answers (s := readAcc r m.data (countBoth r 0x20 0x24 s)) hr 0 m.data m.poi
  refine ⟨_, o, ?_, ((c.acts []).trans (readAcc_acts ..)).trans (deliverRead_acts hr 0 m.data m.poi), a, e⟩
  unfold memRead
  dsimp only
  rw [lookCheck_clean _ _ s hb, hl]
  dsimp only
  rw [mireCheck_clean _ _ s hb, mireFind_of_placeOf hl]
  rfl

include hr in
theorem memWrite_mire {m : MireE} (hp : r.poi = false) (hw : StoreWf s) (hl : placeOf s (hLine r.msg) = .mire m) :
    ∃ t, memWrite r s = .done t ∧ Acts [.mp, .tal] s t ∧
      Completed s t r (maskCount (wrMask r.msg)) (poiSt (m.poi && wrMask r.msg != fullMask)) 0 ∧
      t.mp = { s.mp with plist := listAfter s (hLine r.msg) (wrMask r.msg),
                         mire := lmod (·.id = m.id) (fun x => { x with data := lineMerge m.data (msgLine r.msg) (wrMask r.msg),
                                                                       poi := m.poi && wrMask r.msg != fullMask,
                                                                       redirty := x.redirty || x.sent || x.macOut }) s.mp.mire } := by
  have hc : (wrMask r.msg == fullMask && !r.poi) = !(wrMask r.msg != fullMask) := by simp [hp, bne]
  let s1 := countBoth r 0x22 0x24 s
  have c1 := countBoth_only r 0x22 0x24 s
  let s2 := listDrop r s1
  have c2 := (c1.le [.mp, .regul, .ctr]).then (listDrop_only hp s1)
  have m2 : s2.mp = _ := listDrop_mp hp c1.mp
  have f2 : mireFind s2 (hLine r.msg) = some m := by
    rw [← mireFind_of_placeOf hl, mireFind, mireFind, m2]
  let s3 := mireMod m.id (fun n => { n with data := lineMerge m.data (msgLine r.msg) (wrMask r.msg), poi := m.poi && wrMask r.msg != fullMask,
                                            redirty := n.redirty || n.sent || n.macOut }) s2
  have c3 := c2.then (mireMod_only m.id _ s2 : OnlyChanges [.mp] s2 s3)
  have b3 := c3.bad.trans hb
  have e := writeEnd_acts (s := s3) hr b3 0 (wrMask r.msg) (lineMerge m.data (msgLine r.msg) (wrMask r.msg)) (BitVec.allOnes 16)
    (m.poi && wrMask r.msg != fullMask)
  have d := writeEnd_completed (s := s3) hr b3 (c3.tal ▸ hw.tal) 0 (wrMask r.msg) (lineMerge m.data (msgLine r.msg) (wrMask r.msg))
    (BitVec.allOnes 16) (m.poi && wrMask r.msg != fullMask)
  refine ⟨_, ?_, (c3.acts [.mp, .tal]).then e, d.wrap c3.tal.symm rfl (.of_out rfl fun _ => rfl), ?_⟩
  · have f : memWrite r s = .done (mireWritten r ((mireFind (mireCheck m.id (some (subjReq r)) s2) (hLine r.msg)).getD m)
        (mireCheck m.id (some (subjReq r)) s2)) := by
      unfold memWrite
      dsimp only
      rw [lookCheck_clean _ _ s hb, hl]
      rfl
    rw [f, mireCheck_clean _ _ s2 (c2.bad.trans hb), f2, Option.getD_some, mireWritten, writeOn, hc, Bool.not_not]
  · rw [e.frame.mp]
    show ({ s2.mp with mire := _ } : MPort) = _
    rw [m2]

include hr in
theorem memOp_mire {m : MireE} (hw : StoreWf s) (hl : placeOf s (hLine r.msg) = .mire m) (hm : m.poi = false)
    (hu : ∀ x ∈ s.mp.mire, x.id = m.id → x = m) : ∃ t, memOp r s = .done t ∧ Acts [.mp, .tal] s t ∧
      Completed s t r (maskCount (applyOp r.msg m.data).2.2.2) St.ok (retVal r.msg (applyOp r.msg m.data).2.1 % 2 ^ 64) ∧
      t.mp = { s.mp with mire := lmod (·.id = m.id) (fun x => { x with
        data := (applyOp r.msg m.data).1, redirty := x.redirty || x.sent || x.macOut }) s.mp.mire } := by
  let s1 := countBoth r 0x22 0x24 s
  have c1 := countBoth_only r 0x22 0x24 s
  have b1 := c1.bad.trans hb
  have f1 : mireFind s1 (hLine r.msg) = some m := by rw [← mireFind_of_placeOf hl, mireFind, mireFind, c1.mp]
  have e := opOn_acts (s := s1) hr b1 0 m.data true
  have d := opOn_completed (s := s1) hr b1 (c1.tal ▸ hw.tal) 0 m.data true
  have f : memOp r s = .done (opMire r ((mireFind (mireCheck m.id (some (subjReq r)) s1) (hLine r.msg)).getD m)
      (mireCheck m.id (some (subjReq r)) s1)) := by
    simp only [memOp, lookCheck_clean _ _ s hb, hl]
    rfl
  rw [f, mireCheck_clean _ _ s1 b1, f1, Option.getD_some, opMire, hm]
  have c3 := mireMod_only m.id (fun n => { n with
    data := (opOn r 0 m.data false true s1).1, redirty := n.redirty || ((n.sent || n.macOut) && !n.poi) }) (opOn r 0 m.data false true s1).2.2
  refine ⟨_, rfl, ((c1.acts [.mp, .tal]).then e).andThen c3, d.wrap c1.tal.symm c3.tal c3.sameLast, ?_⟩
  show ({ (opOn r 0 m.data false true s1).2.2.mp with mire := lmod _ _ (opOn r 0 m.data false true s1).2.2.mp.mire } : MPort) = _
  rw [e.frame.mp, c1.mp]
  refine congrArg (fun l => ({ s.mp with mire := l } : MPort)) (lmod_congr fun x hx hi => ?_)
  rw [hu x hx (of_decide_eq_true hi), hm, Bool.not_false, Bool.and_true, Bool.or_assoc]
  rfl

section
variable {e : Miss} (hl : placeOf s (hLine r.msg) = .miss e) (ht : missTakes e = true) (hm : missRoom e = true) (hf : missFilled e = false)
include hl ht hm hf

theorem memRead_miss : ∃ t, memRead r .plain s = .done t ∧ Acts [.mp] s t ∧
    t.mp = { s.mp with miss := lmod (·.id = e.id) (fun x => { x with nAtt := x.nAtt + 1, att := x.att ++ [.read r] }) s.mp.miss } := by
  obtain ⟨a, h⟩ := attach_spec r 0x21 e.id (.read r) s
  refine ⟨_, ?_, a, h⟩
  unfold memRead
  dsimp only
  rw [lookCheck_clean _ _ s hb, hl]
  dsimp only
  rw [ht, hm, hf]
  rfl

theorem memOp_miss : ∃ t, memOp r s = .done t ∧ Acts [.mp] s t ∧
    t.mp = { s.mp with miss := lmod (·.id = e.id) (fun x => { x with nAtt := x.nAtt + 1, att := x.att ++ [.op r] }) s.mp.miss } := by
  obtain ⟨a, h⟩ := attach_spec r 0x23 e.id (.op r) s
  refine ⟨_, ?_, a, h⟩
  simp only [memOp, lookCheck_clean _ _ s hb, hl, ht, hm, hf]
  rfl

include hr in
theorem memWrite_miss (hp : r.poi = false) (hw : StoreWf s) : ∃ t, memWrite r s = .done t ∧ Acts [.mp, .tal] s t ∧
    Completed s t r (maskCount (wrMask r.msg)) (poiSt (attPoi e.att && wrMask r.msg != fullMask)) 0 ∧
    t.mp = { s.mp with plist := listAfter s (hLine r.msg) (wrMask r.msg),
                       miss := lmod (·.id = e.id) (fun x => { missWrite (msgLine r.msg) (wrMask r.msg) (wrMask r.msg == fullMask) (r.attr.wpol == 2) x with
        nAtt := x.nAtt + 1, att := x.att ++ [.write r (msgLine r.msg) (wrMask r.msg) (wrMask r.msg == fullMask)] }) s.mp.miss } := by
  have hc : (wrMask r.msg == fullMask && !r.poi) = (wrMask r.msg == fullMask) := by simp [hp]
  let s1 := missMod e.id (fun x => { x with nAtt := x.nAtt + 1 }) s
  let s2 := countBoth r 0x23 0x25 s1
  have c2 := ((missMod_only ..).le [.mp, .regul, .ctr]).then (countBoth_only r 0x23 0x25 s1)
  let s3 := listDrop r s2
  have c3 := c2.then (listDrop_only hp s2)
  have m3 : s3.mp = { s1.mp with plist := listAfter s (hLine r.msg) (wrMask r.msg) } := listDrop_mp hp (countBoth_only r 0x23 0x25 s1).mp
  let s4 := missMod e.id (fun x => { missWrite (msgLine r.msg) (wrMask r.msg) (wrMask r.msg == fullMask) (r.attr.wpol == 2) x with
    att := x.att ++ [.write r (msgLine r.msg) (wrMask r.msg) (wrMask r.msg == fullMask)] }) s3
  have c4 := c3.then (missMod_only e.id _ s3 : OnlyChanges [.mp] s3 s4)
  have b4 := c4.bad.trans hb
  have x := writeEnd_acts (s := s4) hr b4 0 (wrMask r.msg) (msgLine r.msg) (fullWords (wrMask r.msg)) (attPoi e.att && !(wrMask r.msg == fullMask))
  have d := writeEnd_completed (s := s4) hr b4 (c4.tal ▸ hw.tal) 0 (wrMask r.msg) (msgLine r.msg) (fullWords (wrMask r.msg))
    (attPoi e.att && !(wrMask r.msg == fullMask))
  refine ⟨_, ?_, (c4.acts [.mp, .tal]).then x, d.wrap c4.tal.symm rfl (.of_out rfl fun _ => rfl), ?_⟩
  · unfold memWrite
    dsimp only
    rw [lookCheck_clean _ _ s hb, hl]
    dsimp only
    rw [ht, hm, hf, reqWrite]
    dsimp only
    rw [hc]
    simp only [Bool.not_true, Bool.false_eq_true, if_false]
    simp only [s4, s3, listDrop, hc]
    rfl
  · rw [x.frame.mp]
    show ({ s3.mp with miss := lmod _ _ s3.mp.miss } : MPort) = _
    rw [m3]
    have q := lmod_lmod (fun x : Miss => decide (x.id = e.id)) (fun x => { x with nAtt := x.nAtt + 1 }) (fun x =>
      { missWrite (msgLine r.msg) (wrMask r.msg) (wrMask r.msg == fullMask) (r.attr.wpol == 2) x with
        att := x.att ++ [.write r (msgLine r.msg) (wrMask r.msg) (wrMask r.msg == fullMask)] }) (fun _ => rfl) s.mp.miss
    exact congrArg (fun l => ({ s.mp with plist := listAfter s (hLine r.msg) (wrMask r.msg), miss := l } : MPort)) q

end
end
end Sys2Proof.Machine
end

section
namespace Sys2Proof.Machine

-- One declaration after the other: the threads of declarations that wait for one another exhaust the memory that a compile may take.
set_option Elab.async false

/-! ### The writes of O9 -/

section
variable {s : State} {r : Req}

theorem memAccess_wr (hp : r.poi = false) (ho : hOpcode r.msg = Op.wr) {t : State} (h : memWrite r s = .done t) : memAccess r s = .done t := by
  simp [memAccess, ho, h, hp]

theorem memAccess_op (hp : r.poi = false) (ho : hOpcode r.msg = Op.red ∨ hOpcode r.msg = Op.atom) {t : State} (h : memOp r s = .done t) :
    memAccess r s = .done t := by
  have n : hOpcode r.msg ≠ Op.wr := by rcases ho with h | h <;> rw [h] <;> decide
  simp [memAccess, ho, n, h, hp]

theorem memAccess_rd (ho : hOpcode r.msg = Op.rd ∨ hOpcode r.msg = Op.rdOnce) : memAccess r s = memRead r .plain s := by
  rcases ho with h | h <;> rw [memAccess, h] <;> rfl

end

theorem Acts.listAfter {s u : State} (h : Acts [] s u) (l : LAddr) (m : Mask) : listAfter u l m = listAfter s l m := by
  rw [Machine.listAfter, Machine.listAfter, h.frame.mp]

theorem writeInArray : WriteInArray := by
  intro c s r k ht hp hc hl
  obtain ⟨u, hu, s', q, hs⟩ := exec_takesMem ht (.inr (.inl rfl))
  have qb := q.frame.bad.trans ht.clean
  obtain ⟨t, et, a, d, w, m⟩ := memWrite_way ht.takes.1 hp qb (q.storeWf hc.storeWf) ((q.placeOf _).trans hl)
  obtain ⟨au, g⟩ := hs t (memAccess_wr hp ht.opcode et) (a.frame.bad.trans qb)
  rw [tagGet_arr q.frame.arr, dataGet_arr q.frame.arr] at w m
  rw [tagGet_arr q.frame.arr] at d
  rw [q.listAfter, q.frame.mp] at m
  obtain ⟨tal, o, an, res⟩ := d.wrap q.frame.tal.symm au.frame.tal g
  have w' := w.congr q.frame.arr.symm au.frame.arr
  have f := ((q.le _).trans a).then au
  exact ⟨u, o, hu, w'.data, w'.datas, w'.tag, w'.tags, tal, an, res, au.frame.mp.trans m, f.home, f.frame⟩

theorem mireServes : MireServes := by
  intro c s r m op ht hp hc hl
  refine ⟨fun h => ?_, fun h => ?_, fun h hm hu => ?_⟩
  · obtain ⟨u, hu, s', q, hs⟩ := exec_takesMem ht (by rcases h with h | h <;> simp [Ungated, h])
    have qb := q.frame.bad.trans ht.clean
    obtain ⟨t, o, et, a, an, eb⟩ := memRead_mire ht.takes.1 qb ((q.placeOf _).trans hl)
    rw [← memAccess_rd (ht.opcode ▸ h)] at et
    obtain ⟨au, g⟩ := hs t et (a.frame.bad.trans qb)
    obtain ⟨o', an', e'⟩ := an.carry g
    have f := (q.trans a).trans au
    exact ⟨u, o', hu, an', by rw [e', eb], f.frame.mp, f.home, f.frame⟩
  · subst h
    obtain ⟨u, hu, s', q, hs⟩ := exec_takesMem ht (.inr (.inl rfl))
    have qb := q.frame.bad.trans ht.clean
    obtain ⟨t, et, a, d, em⟩ := memWrite_mire ht.takes.1 qb hp (q.storeWf hc.storeWf) ((q.placeOf _).trans hl)
    obtain ⟨au, g⟩ := hs t (memAccess_wr hp ht.opcode et) (a.frame.bad.trans qb)
    obtain ⟨tal, o, an, -⟩ := d.wrap q.frame.tal.symm au.frame.tal g
    rw [q.listAfter, q.frame.mp] at em
    have f := ((q.le _).trans a).then au
    exact ⟨u, o, hu, an, au.frame.mp.trans em, tal, f.home, f.frame⟩
  · obtain ⟨u, hu', s', q, hs⟩ := exec_takesMem ht (by rcases h with h | h <;> simp [Ungated, h])
    have qb := q.frame.bad.trans ht.clean
    obtain ⟨t, et, a, d, em⟩ := memOp_mire ht.takes.1 qb (q.storeWf hc.storeWf) ((q.placeOf _).trans hl) hm (by rw [q.frame.mp]; exact hu)
    obtain ⟨au, g⟩ := hs t (memAccess_op hp (ht.opcode ▸ h) et) (a.frame.bad.trans qb)
    obtain ⟨tal, o, an, res⟩ := d.wrap q.frame.tal.symm au.frame.tal g
    rw [q.frame.mp] at em
    have f := ((q.le _).trans a).then au
    exact ⟨u, o, hu', an, au.frame.mp.trans em, res, tal, f.home, f.frame⟩

theorem missAttaches : MissAttaches := by
  intro c s r e op ht hp hc hl htk hrm hfl
  refine ⟨fun h => ?_, fun h => ?_⟩
  · obtain ⟨u, hu, s', q, hs⟩ := exec_takesMem ht (by rcases h with h | h | h | h <;> simp [Ungated, h])
    have qb := q.frame.bad.trans ht.clean
    have ql := (q.placeOf _).trans hl
    obtain ⟨t, et, a, em⟩ : ∃ t, memAccess r s' = .done t ∧ Acts [.mp] s' t ∧ t.mp = { s'.mp with miss := lmod (·.id = e.id) (fun x => { x with
        nAtt := x.nAtt + 1, att := x.att ++ [if op = Op.red ∨ op = Op.atom then .op r else .read r] }) s'.mp.miss } := by
      by_cases k : op = Op.red ∨ op = Op.atom
      · obtain ⟨t, et, a, em⟩ := memOp_miss qb ql htk hrm hfl
        rw [if_pos k]
        exact ⟨t, memAccess_op hp (ht.opcode ▸ k) et, a, em⟩
      · obtain ⟨t, et, a, em⟩ := memRead_miss qb ql htk hrm hfl
        rw [if_neg k]
        rw [← memAccess_rd (ht.opcode ▸ (or_assoc.mpr h).resolve_right k)] at et
        exact ⟨t, et, a, em⟩
    obtain ⟨au, -⟩ := hs t et (a.frame.bad.trans qb)
    rw [q.frame.mp] at em
    have f := ((q.le _).trans a).then au
    exact ⟨u, hu, au.frame.mp.trans em, f.home, f.frame⟩
  · subst h
    obtain ⟨u, hu, s', q, hs⟩ := exec_takesMem ht (.inr (.inl rfl))
    have qb := q.frame.bad.trans ht.clean
    obtain ⟨t, et, a, d, em⟩ := memWrite_miss ht.takes.1 qb ((q.placeOf _).trans hl) htk hrm hfl hp (q.storeWf hc.storeWf)
    obtain ⟨au, g⟩ := hs t (memAccess_wr hp ht.opcode et) (a.frame.bad.trans qb)
    obtain ⟨tal, o, an, -⟩ := d.wrap q.frame.tal.symm au.frame.tal g
    rw [q.listAfter, q.frame.mp] at em
    have f := ((q.le _).trans a).then au
    exact ⟨u, o, hu, au.frame.mp.trans em, an, tal, f.home, f.frame⟩

theorem Acts.mireFull {s u : State} (h : Acts [] s u) : mireFull u = mireFull s := by rw [Machine.mireFull, Machine.mireFull, h.frame.mp]
theorem Acts.tagGet {s u : State} (h : Acts [] s u) (k : Nat) : tagGet u k = tagGet s k := tagGet_arr h.frame.arr k

/-- A write that goes around the array is told of the state that its command found. -/
theorem Acts.wentAround {s s' t u : State} {r : Req} (h : Acts [] s s') (w : WentAround s' t r) (k : Acts [] t u) : WentAround s u r := by
  have e : aroundFor s' r = aroundFor s r := by rw [aroundFor, aroundFor, h.missNew]
  rw [WentAround, h.listAfter, e, h.frame.mp] at w
  exact k.frame.mp.trans w

/-- What a line's leaving does is told of the state before, where the array and the M port are as they were. -/
theorem Installed.congr {s s' t : State} {k : Nat} {i : Inst} (h : Installed s' t k i) (q : Acts [] s s') :
    LineAt s t k (instTag i) i.data ∧ (((tagGet s k).v && (tagGet s k).d) = false → t.mp = s.mp) ∧
      (((tagGet s k).v && (tagGet s k).d) = true → ∃ m, ToMire s t k m) := by
  obtain ⟨-, l, c, d⟩ := h
  rw [q.tagGet] at c d
  refine ⟨l.congr q.frame.arr.symm rfl, fun e => (c e).trans q.frame.mp, fun e => ?_⟩
  obtain ⟨m, w, x1, x2, x3, x4⟩ := d e
  exact ⟨m, by rw [w, q.frame.mp], by rw [x1, q.tagGet], by rw [x2, dataGet_arr q.frame.arr], by rw [x3, q.tagGet], by rw [x4, q.tagGet]⟩

theorem writeMisses : WriteMisses := by
  intro c s r ht hp hc hl
  obtain ⟨u, hu, s', q, hs⟩ := exec_takesMem ht (.inr (.inl rfl))
  have qb := q.frame.bad.trans ht.clean
  have qw := q.storeWf hc.storeWf
  have ql := (q.placeOf _).trans hl
  have around : missRefuse s r = none → (r.attr.wpol ≠ 0 ∨ wrMask r.msg = fullMask ∧
      victim s r.qc.toNat r.tc.toNat (instSet s (hLine r.msg) r.set.toNat) = none) → ∃ o, WentAround s u r ∧
      Answers u r.port r.msg Op.comp St.ok o ∧ TallyOf s u r.msg (maskCount (wrMask r.msg)) ∧ SameHome s u ∧
      OnlyChanges (.mp :: .tal :: stepParts) s u := by
    intro hn hv
    obtain ⟨t, et, a, d, w⟩ := memWrite_around ht.takes.1 hp qb qw ql ((q.missRefuse r).trans hn) (by rw [q.victim, q.instSet]; exact hv)
    obtain ⟨au, g⟩ := hs t (memAccess_wr hp ht.opcode et) (a.frame.bad.trans qb)
    obtain ⟨tal, o, an, -⟩ := d.wrap q.frame.tal.symm au.frame.tal g
    have f := ((q.le _).trans a).then au
    exact ⟨o, q.wentAround w au, an, tal, f.home, f.frame⟩
  refine ⟨fun h0 hn => ?_, fun h0 hf => ⟨fun w k hv hk hm => ?_, fun hv hn => ?_, fun w hv hm hn => ?_⟩⟩
  · obtain ⟨o, h⟩ := around hn (.inl h0)
    exact ⟨u, o, hu, h⟩
  · obtain ⟨t, x, et, a, d, i, ea, em⟩ := memWrite_install (k := k) ht.takes.1 hp qb qw ql h0 hf (by rw [q.victim, q.instSet]; exact hv)
      (by rw [q.instSet]; exact hk) (by rw [q.tagGet, q.mireFull]; exact hm)
    obtain ⟨au, g⟩ := hs t (memAccess_wr hp ht.opcode et) (a.frame.bad.trans qb)
    obtain ⟨tal, o, an, -⟩ := d.wrap q.frame.tal.symm au.frame.tal g
    obtain ⟨l, ic, id⟩ := i.congr q
    have w' := l.congr rfl (au.frame.arr.trans ea)
    have f := ((q.le _).trans a).then au
    have um : u.mp = { x.mp with plist := listAfter s (hLine r.msg) (wrMask r.msg) } := by rw [au.frame.mp, em, q.listAfter]
    refine ⟨u, o, hu, w'.tag, w'.tags, w'.data, w'.datas, by rw [um], ?_, fun e => ?_, fun e => ?_, an, tal, f.home, f.frame⟩
    · rw [um]
      cases e : (tagGet s k).v && (tagGet s k).d with
      | false => rw [ic e]
      | true => obtain ⟨m, wm⟩ := id e; rw [wm.mp]
    · rw [um, ic e]; exact ⟨rfl, rfl⟩
    · obtain ⟨m, wm⟩ := id e
      exact ⟨m, by rw [um, wm.mp], wm.line, wm.data, wm.poi, wm.sealed, by rw [um, wm.mp]⟩
  · obtain ⟨o, h⟩ := around hn (.inr ⟨hf, hv⟩)
    rw [hf, maskCount_full] at h
    exact ⟨u, o, hu, h⟩
  · obtain ⟨t, et, a, d, em⟩ := memWrite_mireWait ht.takes.1 hp qb qw ql h0 hf (by rw [q.victim, q.instSet]; exact hv)
      (by rw [q.instSet, q.tagGet, q.mireFull]; exact hm) ((q.missRefuse r).trans hn)
    obtain ⟨au, g⟩ := hs t (memAccess_wr hp ht.opcode et) (a.frame.bad.trans qb)
    obtain ⟨tal, o, an, -⟩ := d.wrap q.frame.tal.symm au.frame.tal g
    have f := ((q.le _).trans a).then au
    have um := au.frame.mp.trans em
    exact ⟨u, o, wholeMiss s' r, hu, by rw [um, q.frame.mp], rfl, rfl, rfl, rfl, by rw [um, q.frame.mp], an, tal, f.home, f.frame⟩

/-- Settles O9: a write acts where its line is, and the array, Mire and the miss entries that wait serve theirs. -/
theorem writeHit : Obligations.WriteHit := ⟨writeInArray, mireServes, missAttaches, writeMisses⟩

end Sys2Proof.Machine
end

section
namespace Sys2Proof.Machine

-- One declaration after the other: the threads of declarations that wait for one another exhaust the memory that a compile may take.
set_option Elab.async false

/-! ### Tally waits (O13) -/

/-- No stream is trained with a request to the tallies (R79). -/
theorem train_tally {r : Req} (h : isTallyOp (hOpcode r.msg) = true) (s : State) : train r s = s := by
  have o : hOpcode r.msg = Op.twait ∨ hOpcode r.msg = Op.tread := by simpa [isTallyOp] using h
  unfold train
  dsimp only
  rcases o with o | o <;> rw [o] <;> rfl

section
variable (p : DPort) (i : Nat) (g : Ing) (f : Bool) (s : State) (h : isTallyOp (hOpcode g.req.msg) = true)
include h

theorem portPick_only_tally : OnlyChanges [portPart p, .ctr] s (portPick p i g f s) := by
  have k : OnlyChanges [portPart p, .ctr] s (if f then occR 0xA3 g.req 1 s else portSet p { portGet s p with rrPick := g.req.qc } s) :=
    .ite ((occR_only ..).mono (by simp)) ((portSet_only ..).mono (by simp))
  refine k.trans (.ite (.refl _ _) ?_)
  rw [train_tally h]
  exact (portSet_only ..).mono (by simp)

theorem portPick_out_tally (q : Port) : outOf (portPick p i g f s) q = outOf s q := by
  have k : outOf (if f then occR 0xA3 g.req 1 s else portSet p { portGet s p with rrPick := g.req.qc } s) q = outOf s q := by
    cases f
    · exact portSet_out (by rfl) q
    · exact (occR_only 0xA3 g.req 1 s).out q (by cases q <;> decide)
  rw [← k]
  unfold portPick
  dsimp only
  rw [train_tally h]
  cases g.trained
  · exact portSet_out (by rfl) q
  · rfl

end

/-- A D port's own request that R231 selects passes to what `f` does with it, and its entry frees. -/
theorem portPass_presents {p : DPort} {op : Nat} {f : Req → State → Option State} {s : State} {r : Req} (hs : Presents s (dport p) r)
    (ho : hOpcode r.msg = op) (ht : isTallyOp op = true) : ∃ i s', OnlyChanges [portPart p, .ctr] s s' ∧ outOf s' (dport p) = outOf s (dport p) ∧
      ∀ t, f r s' = some t → portPass p op f s = popIng p i t := by
  obtain ⟨i, g, fl, hx, rfl⟩ : ∃ i g fl, selectReq s p = some (i, g, fl) ∧ g.req = r := by
    cases p <;> (obtain ⟨-, -, ⟨i, g, fl⟩, hx, e⟩ := hs; exact ⟨i, g, fl, hx, e⟩)
  refine ⟨i, _, portPick_only_tally p i g fl s (ho ▸ ht), portPick_out_tally p i g fl s (ho ▸ ht) _, fun t h => ?_⟩
  simp [portPass, hx, ho, h]

theorem popIng_out (p : DPort) (i : Nat) (s : State) (q : Port) : outOf (popIng p i s) q = outOf s q := by
  unfold popIng
  dsimp only
  split
  · rfl
  · exact portSet_out (by simp) q

theorem tallyVal_congr {s u : State} (h : u.tal = s.tal) (t : Nat) : tallyVal u t = tallyVal s t := by rw [tallyVal, tallyVal, h]

/-- What a TWAIT that parks leaves in the list (R207). -/
def parkedAs (s : State) (r : Req) : Parked where
  slot := (lowest 256 fun i => s.tal.parked.all (·.slot ≠ i)).getD 0
  req := r
  tally := BitVec.ofNat 12 (hTally r.msg)
  thresh := BitVec.ofNat 48 (twThresh r.msg)
  deadline := BitVec.ofNat 64 (twDeadline r.msg)
  reported := false
  parkFt := s.clk.ft
  parkRun := s.clk.run
  by_ := none
  val := 0
  due := none

section
variable {s : State} {r : Req} (hb : s.bad = [])
include hb

theorem twaitAt_passed (h : passed (tallyVal s (hTally r.msg)) (twThresh r.msg) = true) :
    twaitAt r s = some (twaitComp r St.ok (occR 0x91 r 1 s)) := by
  simp [twaitAt, tallyUse_clean _ _ s hb, h]

theorem twaitAt_full (h : passed (tallyVal s (hTally r.msg)) (twThresh r.msg) = false) (hl : 256 ≤ s.tal.parked.length) :
    twaitAt r s = some (compTo r.port r.msg (subjReq r) St.retry 0 (occR 0x14 r 1 s)) := by
  simp [twaitAt, tallyUse_clean _ _ s hb, h, hl]

theorem twaitAt_parks (h : passed (tallyVal s (hTally r.msg)) (twThresh r.msg) = false) (hl : s.tal.parked.length < 256)
    (hr : losslessRoom (parkEv r) s = true) :
    twaitAt r s = some (traceEv (parkEv r) (occR 0x92 r 1 { s with tal := { s.tal with parked := s.tal.parked ++ [parkedAs s r] } })) := by
  simp only [twaitAt, tallyUse_clean _ _ s hb, h, Nat.not_le.mpr hl, hr]
  rfl

end

theorem portPart_ctr {p : DPort} {q : Part} (h : q ≠ .d0 ∧ q ≠ .d1 ∧ q ≠ .ctr := by decide) : q ∉ [portPart p, .ctr] := by
  cases p <;> simp [portPart, h]

theorem tallyVal_mod (s : State) (t : Nat) : tallyVal s t % 2 ^ 64 = tallyVal s t :=
  Nat.mod_eq_of_lt ((BitVec.isLt _).trans (by decide))

/-- A D port's step on a tally ends with COMP: the port and counts change, and COMP is queued last. -/
theorem passComp {p : DPort} {s s' : State} (q : OnlyChanges [portPart p, .ctr] s s') (m : Msg) (j : Subj) {st : Nat} (h : st < 2 ^ 3) (n i : Nat) :
    OnlyChanges [portPart p, .ctr] s (popIng p i (compTo (dport p) m j st n s')) ∧
      ∃ o, Answers (popIng p i (compTo (dport p) m j st n s')) (dport p) m Op.comp st o ∧ hResult o.msg = n % 2 ^ 64 := by
  have k := compTo_only (dport p) m j st n s'
  rw [show [outPart (dport p)] = [portPart p] by cases p <;> rfl] at k
  refine ⟨(q.trans (k.mono (by simp))).trans ((popIng_only ..).mono (by simp)), ?_⟩
  obtain ⟨o, a, e, -⟩ := compTo_answers (dport p) m j st n s' h
  obtain ⟨o', a', e'⟩ := a.carry (popIng_sameLast p i _)
  exact ⟨o', a', by rw [e', e]⟩

theorem tallyRead : TallyRead := by
  intro p s r hs hr hb
  have hq : r.port = dport p := hs.1
  refine ⟨fun ho => ?_, fun ho hp => ?_⟩
  · obtain ⟨i, s', q, -, run⟩ := portPass_presents (f := fun r s => some (twaitComp r St.ok (tallyUse (hTally r.msg) (some (subjReq r)) s))) hs ho rfl
    have e := run _ rfl
    rw [tallyUse_clean _ _ s' ((q.same .bad portPart_ctr).trans hb), twaitComp, hq, tallyVal_congr (q.same .tal portPart_ctr)] at e
    obtain ⟨f, o, a, res⟩ := passComp q r.msg (subjReq r) (st := St.ok) (by decide) (tallyVal s (hTally r.msg)) i
    exact ⟨_, o, congrArg Host.Outcome.next e, a, by rw [res, tallyVal_mod], f.same .tal portPart_ctr, f⟩
  · obtain ⟨i, s', q, -, run⟩ := portPass_presents (f := twaitAt) hs ho rfl
    have v := tallyVal_congr (q.same .tal portPart_ctr) (hTally r.msg)
    have e := run _ (twaitAt_passed ((q.same .bad portPart_ctr).trans hb) (by rw [v]; exact hp))
    rw [twaitComp, hq, tallyVal_congr (s := s) ((occR_only 0x91 r 1 s').tal.trans (q.same .tal portPart_ctr))] at e
    obtain ⟨f, o, a, res⟩ := passComp (q.trans ((occR_only 0x91 r 1 s').mono (by simp))) r.msg (subjReq r) (st := St.ok) (by decide)
      (tallyVal s (hTally r.msg)) i
    exact ⟨_, o, congrArg Host.Outcome.next e, a, by rw [res, tallyVal_mod], f.same .tal portPart_ctr, f⟩

theorem waitParks : WaitParks := by
  intro p s r hs hr ho hb hp
  have hq : r.port = dport p := hs.1
  obtain ⟨i, s', q, out, run⟩ := portPass_presents (f := twaitAt) hs ho rfl
  have qb := (q.same .bad portPart_ctr).trans hb
  have qt : s'.tal = s.tal := q.same .tal portPart_ctr
  have v := tallyVal_congr qt (hTally r.msg)
  refine ⟨fun hl hroom => ?_, fun hl => ?_⟩
  · have room : losslessRoom (parkEv r) s' = true := by
      rw [← hroom, q.eq_blend]
      cases p <;> rfl
    have e := run _ (twaitAt_parks qb (by rw [v]; exact hp) (by rw [qt]; exact hl) room)
    let x : State := { s' with tal := { s'.tal with parked := s'.tal.parked ++ [parkedAs s' r] } }
    have c : OnlyChanges [.tal, .ctr, .peat] s' (traceEv (parkEv r) (occR 0x92 r 1 x)) :=
      (((talOnly _ s').le _).then (occR_only 0x92 r 1 x)).then (traceEv_only ..)
    have f : OnlyChanges [portPart p, .tal, .ctr, .peat] s (popIng p i (traceEv (parkEv r) (occR 0x92 r 1 x))) :=
      ((q.mono (by simp)).trans (c.mono (by simp))).trans ((popIng_only ..).mono (by simp))
    refine ⟨_, parkedAs s' r, congrArg Host.Outcome.next e, ?_, rfl, ?_, ?_, ?_, rfl, rfl, rfl, ?_, f⟩
    · rw [(popIng_only p i _).same .tal (by cases p <;> decide), (traceEv_only ..).tal, (occR_only 0x92 r 1 x).tal, ← qt]
    · exact Nat.mod_eq_of_lt (fld_lt ..)
    · exact Nat.mod_eq_of_lt (fld_lt ..)
    · exact Nat.mod_eq_of_lt (fld_lt ..)
    · rw [popIng_out, ← out]
      exact c.out _ (by cases p <;> decide)
  · have e := run _ (twaitAt_full qb (by rw [v]; exact hp) (by rw [qt]; exact hl))
    rw [hq] at e
    obtain ⟨f, o, a, res⟩ := passComp (q.trans ((occR_only 0x14 r 1 s').mono (by simp))) r.msg (subjReq r) (st := St.retry) (by decide) 0 i
    exact ⟨_, o, congrArg Host.Outcome.next e, a, res, f⟩

/-! ### Releases and deadline reports (R208, R210) -/

/-- What a notice leaves in the log: it queues, or is counted lost (R14). -/
theorem notice_lost (n : Notice) (s : State) (h : 64 ≤ s.log.notices.length) :
    (notice n s).log = { s.log with evLost := s.log.evLost + 1 } := by
  rw [notice, if_neg (Nat.not_lt.mpr h)]
  exact (raise_only ..).log

/-- The parked waits with the report of wait `w` raised. -/
def reportedOf (s : State) (w : Parked) : TallySt :=
  { s.tal with parked := lmod (·.slot = w.slot) (fun y => { y with reported := true, due := none }) s.tal.parked }

/-- The TALLY_DEADLINE notice of a wait that was found due. -/
def deadlineNotice (w : Parked) (x : BitVec 64 × BitVec 48) : Notice :=
  .event 1 (deadlineRec x w.tally.toNat w.thresh.toNat (hReqid w.req.msg) (hSrc w.req.msg) (hTxid w.req.msg) 0 0 (hWtag w.req.msg))

section
variable {k : Nat} {s : State} {w : Parked} (hk : s.tal.parked[k]? = some w)
include hk

theorem twaitDeadlineAt_idle (h : w.due = none) : twaitDeadlineAt k s = s := by simp [twaitDeadlineAt, hk, h]

theorem twaitDeadlineAt_due (hb : s.bad = []) {x} (h : w.due = some x) : (twaitDeadlineAt k s).tal = reportedOf s w ∧
    (s.log.notices.length < 64 → (twaitDeadlineAt k s).log = { s.log with notices := s.log.notices ++ [deadlineNotice w x] }) ∧
    (64 ≤ s.log.notices.length → (twaitDeadlineAt k s).log = { s.log with evLost := s.log.evLost + 1 }) ∧
    OnlyChanges [.tal, .log, .ints, .d0, .ctr, .peat] s (twaitDeadlineAt k s) := by
  let t : State := { s with tal := reportedOf s w }
  let u := notice (deadlineNotice w x) (occU 0x95 1 t)
  obtain ⟨v, e⟩ : ∃ v, twaitDeadlineAt k s = traceEv v u := by
    simp only [twaitDeadlineAt, hk, h, ctlUse_clean _ _ s hb]
    exact ⟨_, rfl⟩
  have c : OnlyChanges [.tal, .ctr] s (occU 0x95 1 t) := ((talOnly _ s).le _).then (occU_only 0x95 1 t)
  have n : OnlyChanges [.log, .ints, .d0] _ u := notice_only ..
  have f := traceEv_only v u
  rw [e]
  refine ⟨(f.tal.trans n.tal).trans (occU_only 0x95 1 t).tal, fun hl => ?_, fun hl => ?_, ((c.le _).then n).then f⟩
  · rw [f.log, ← c.log, show u = _ from notice_room _ _ (by rw [c.log]; exact hl)]
  · rw [f.log, notice_lost _ _ (by rw [c.log]; exact hl), c.log]

end

theorem deadlineReported : DeadlineReported := by
  intro k s w hk hb
  refine ⟨fun x hx => ?_, fun hn => congrArg Host.Outcome.next (twaitDeadlineAt_idle hk hn)⟩
  obtain ⟨t, room, lost, f⟩ := twaitDeadlineAt_due hk hb hx
  exact ⟨_, rfl, t, fun h => by rw [room h]; exact ⟨rfl, rfl⟩, fun h => by rw [lost h]; exact ⟨rfl, rfl⟩, f⟩

theorem waitReleased : WaitReleased := by
  intro k s w hk hw hn hb
  let d := twaitDeadlineAt k s
  have fd : OnlyChanges [.tal, .log, .ints, .d0, .ctr, .peat] s d := by
    cases h : w.due with
    | none => rw [show d = s from twaitDeadlineAt_idle hk h]; exact .refl _ _
    | some x => exact (twaitDeadlineAt_due hk hb h).2.2.2
  let t : State := { d with tal := { d.tal with parked := d.tal.parked.eraseIdx k } }
  let u := traceEv (releaseEv d w) (occR 0x93 w.req 1 t)
  have e : releaseAt k s = compTo w.req.port w.req.msg (subjReq w.req) St.ok w.val.toNat u := by
    simp only [releaseAt, hk, hw, hn, show twaitDeadlineAt k s = d from rfl, ctlUse_clean _ _ d (fd.bad.trans hb)]
    rfl
  have fu : OnlyChanges [.ctr, .peat] t u := ((occR_only 0x93 w.req 1 t).le _).then (traceEv_only ..)
  have fc := compTo_only w.req.port w.req.msg (subjReq w.req) St.ok w.val.toNat u
  obtain ⟨o, a, res, -⟩ := compTo_answers w.req.port w.req.msg (subjReq w.req) St.ok w.val.toNat u (by decide)
  have ct : (releaseAt k s).tal = { d.tal with parked := d.tal.parked.eraseIdx k } := by
    rw [e]; exact (fc.tal (outPart_tal _)).trans fu.tal
  have cl : (releaseAt k s).log = d.log := by
    rw [e]; exact (fc.log (by cases w.req.port <;> decide)).trans fu.log
  have f : OnlyChanges [.tal, .d0, .d1, .sout, .ctr, .peat, .log, .ints] s (releaseAt k s) := by
    rw [e]
    exact ((((fd.le _).then (talOnly _ d)).then fu)).trans (fc.mono (by cases w.req.port <;> decide))
  refine ⟨_, o, rfl, e ▸ a, by rw [res]; exact Nat.mod_eq_of_lt (w.val.isLt.trans (by decide)), fun h => ?_, fun x h => ?_, f⟩
  · rw [ct, cl, show d = s from twaitDeadlineAt_idle hk h]
    exact ⟨rfl, rfl⟩
  · obtain ⟨dt, room, -, -⟩ := twaitDeadlineAt_due hk hb h
    exact ⟨by rw [ct, show d.tal = _ from dt]; rfl, fun l => by rw [cl, show d.log = _ from room l]; rfl⟩

/-- Settles O13: TREAD and TWAIT answer or park, a passed wait is released, and a deadline is reported once. -/
theorem tallyWaits : Obligations.TallyWaits := ⟨tallyRead, waitParks, waitReleased, deadlineReported⟩

end Sys2Proof.Machine
end

section
namespace Sys2Proof.Machine

-- One declaration after the other: the threads of declarations that wait for one another exhaust the memory that a compile may take.
set_option Elab.async false

/-! ### Miss entries on a tally store that is not in canonical form (O11) -/

/-- A WR of 8 bytes of a MEM line, which counts them in tally 9. -/
def talliedWr : Msg :=
  { hdr := pack 256 [(250, 6, Op.wr), (245, 3, Vc.req), (153, 12, 9), (152, 1, 1), (134, 8, 8), (0, 44, 0x12345600)], beats := [0x1122], be := [0xFF] }

/-- A slice in service whose tally store has tally 9 twice, the first 8 short of its wrap; no reset or command makes such a store. -/
def twiceTallied : State :=
  { State.reset with
    clk := { Clock.reset with sclk := 5000, run := 4000, ft := 1000, bus := 1000, ftv := true, seen := true }
    pins := { Pins.reset with porstN := true, present := true, irdy0 := true, irdy1 := true, liveAt := 4744 }
    pw := { dom := (List.range 78).map fun n => (n, Power.on), wants := [], bring := false }
    core := { Core.reset with sup := true, run := true }
    tal := { State.reset.tal with val := [(9, BitVec.ofNat 48 (2 ^ 48 - 8)), (9, 5)] } }

/-- The WR as the slice classifies it. -/
def talliedReq : Req := mkReq twiceTallied .d0 .port talliedWr none none

/-- The slice with the WR next on D0. -/
def wrapTally : State := { twiceTallied with d0 := { twiceTallied.d0 with ing := [newEntry talliedReq 0] } }

theorem wrapTally_presents : Presents wrapTally .d0 talliedReq :=
  ⟨by decide +kernel, by decide +kernel, (0, newEntry talliedReq 0, false), by decide +kernel⟩

theorem wrapTally_takesMem : TakesMem wrapTally (.wr .d0) talliedReq Op.wr :=
  ⟨⟨rfl, .inl ⟨(.d0, Op.wr), rfl, by decide +kernel, wrapTally_presents⟩⟩, by decide +kernel, by decide +kernel, by decide +kernel, by decide +kernel,
    by decide +kernel⟩

/-- The wrapped sum is 0, whose entry leaves the store, and the second entry of the tally is read. -/
theorem wrapTally_reads_five : (match exec (.wr .d0) wrapTally with | .next u => tallyVal u 9 | _ => 0) = 5 := by decide +kernel

theorem wrapTally_next {u : State} (h : exec (.wr .d0) wrapTally = .next u) : tallyVal u 9 = 5 := by
  have k := wrapTally_reads_five
  rwa [h] at k

theorem wrapTally_expects : (hTen talliedReq.msg = true ∧ countsTally talliedReq.msg = true) ∧ maskCount (wrMask talliedReq.msg) = 8 ∧
    hTally talliedReq.msg = 9 ∧ tallyVal wrapTally 9 = 2 ^ 48 - 8 := by decide +kernel

theorem wrapTally_not_grown {u : State} (h : exec (.wr .d0) wrapTally = .next u) {P : Prop} :
    ¬ (TallyOf wrapTally u talliedReq.msg (maskCount (wrMask talliedReq.msg)) ∧ P) := by
  obtain ⟨counted, n, t, v⟩ := wrapTally_expects
  rw [n, TallyOf, if_pos ⟨counted, by decide⟩, t, TallyGrows, v, wrapTally_next h]
  rintro ⟨⟨e, -⟩, -⟩
  exact absurd e (by decide)

theorem wrapTally_misses : talliedReq.poi = false ∧ placeOf wrapTally (hLine talliedReq.msg) = .absent ∧ missRefuse wrapTally talliedReq = none ∧
    talliedReq.attr.wpol = 0 ∧ wrMask talliedReq.msg ≠ fullMask := by decide +kernel

/-- Refutes O11: on a tally store that holds a tally twice, which its premises do not exclude, a WR whose bytes carry the tally past its wrap
leaves the second entry's value, and not the sum. -/
theorem not_missEntries : ¬ Obligations.MissEntries := by
  rintro ⟨h, -⟩
  obtain ⟨poi, absent, free, wpol, part⟩ := wrapTally_misses
  obtain ⟨u, hu, -, -, -, tally, -⟩ := h _ _ _ _ wrapTally_takesMem poi absent free (.inr (.inr (.inr (.inr ⟨rfl, wpol, part⟩))))
  exact wrapTally_not_grown hu (tally rfl)

end Sys2Proof.Machine
end

section
namespace Sys2Proof.Machine

-- One declaration after the other: the threads of declarations that wait for one another exhaust the memory that a compile may take.
set_option Elab.async false

/-! ### A DATA read of no bytes (O46) -/

/-- A RD of mailbox 0's DATA whose LEN is 0, in the register hardware; a port answers one without sending it there, but a state may hold it. -/
def emptyRead : RegReq where
  port := .d0
  msg := { hdr := pack 256 [(250, 6, Op.rd), (245, 3, Vc.req), (248, 2, 2), (0, 44, 0x10C0)], beats := [], be := [] }
  tc := 0
  at_ := 0

def emptyReadHeld : State := { State.reset with regHw := [emptyRead] }

theorem emptyReadHeld_canonical : Canonical emptyReadHeld where
  tags := rfl
  data := rfl
  plru := rfl
  dom := rfl
  banks := rfl
  live := rfl
  shadow := rfl
  armed := nofun
  wait := nofun
  q0 := rfl
  q1 := rfl
  owed0 := rfl
  owed1 := rfl
  tal := rfl
  sedge := rfl
  splru := rfl
  pred := rfl
  win := rfl
  levels := rfl
  keys := rfl
  ctr := rfl
  f := rfl
  bufs := rfl
  wat := rfl
  mbx := rfl

theorem emptyReadHeld_reads : AtWindow emptyReadHeld 0 emptyRead (.dataRead 0) ∧ firstData 0 emptyReadHeld = true ∧
    (mbxGet emptyReadHeld 0).outF = [] ∧ (mbxGet emptyReadHeld 0).busy = false :=
  ⟨⟨by decide +kernel, by decide +kernel⟩, by decide +kernel⟩

/-- Its answer has no beat, and the statement asks the beat of a span of 4 B. -/
theorem emptyReadHeld_answer : (match exec (.mailboxDataRead 0) emptyReadHeld with | .next u => u.d0.out.map (·.msg.beats) | _ => []) = [[]] ∧
    spanData (hOff emptyRead.msg) 4 0 = [0] := by decide +kernel

/-- Refutes O46: a DATA read of no bytes is answered without a beat, and a span of 4 B has one. -/
theorem not_mailboxStreams : ¬ Obligations.MailboxStreams := by
  rintro ⟨⟨-, h⟩, -⟩
  obtain ⟨row, first, empty, idle⟩ := emptyReadHeld_reads
  obtain ⟨-, none⟩ := h 0 0 emptyReadHeld emptyRead row first emptyReadHeld_canonical
  obtain ⟨u, o, hu, answer, beats, -⟩ := none empty idle
  obtain ⟨out, span⟩ := emptyReadHeld_answer
  rw [hu] at out
  have last : (u.d0.out.map (·.msg.beats)).getLast? = some o.msg.beats := by
    rw [List.getLast?_map]
    exact congrArg (Option.map _) answer.last
  rw [show u.d0.out.map (·.msg.beats) = [[]] from out, beats, span] at last
  cases last

end Sys2Proof.Machine
end

section
namespace Sys2Proof.Machine

-- One declaration after the other: the threads of declarations that wait for one another exhaust the memory that a compile may take.
set_option Elab.async false

/-! ### Requests of the register window (O45) -/

theorem regRead_portSet (p : DPort) (x : PortSt) (s : State) (o : Nat) : regRead (portSet p x s) o = regRead s o := by cases p <;> rfl

theorem regFill_out (p : DPort) (s : State) (q : Port) : outOf (regFill p s) q = outOf s q := portSet_out (by simp) q

theorem pdOn_pw {s u : State} (h : u.pw = s.pw) (n : Nat) : pdOn u n = pdOn s n := by rw [pdOn, pdOn, pdState, pdState, h]

/-- The register hardware takes the oldest request of port `p`'s REG queue, and `rest` stay. -/
def regTaken (p : DPort) (rest : List RegReq) (s : State) : State := regFill p (portSet p { portGet s p with regq := rest } s)

section
variable (p : DPort) (rest : List RegReq) (s : State)

theorem regTaken_only : OnlyChanges [portPart p] s (regTaken p rest s) := (portSet_only ..).trans (regFill_only ..)

theorem regTaken_out (q : Port) : outOf (regTaken p rest s) q = outOf s q := (regFill_out ..).trans (portSet_out (by rfl) q)

theorem regTaken_port_out : (portGet (regTaken p rest s) p).out = (portGet s p).out := by
  rw [← outOf_dport, ← outOf_dport, regTaken_out]

theorem regRead_regTaken (o : Nat) : regRead (regTaken p rest s) o = regRead s o := by
  rw [regTaken, regFill, regRead_portSet, regRead_portSet]

theorem execRegAccess_eq {r : RegReq} (h : (portGet s p).regq = r :: rest) : exec (.regAccess p) s = .next (
    if isWr r.msg || (dataMbx r.msg).isSome then { regTaken p rest s with regHw := s.regHw ++ [r] }
    else if inCtrWindow r.msg && pdOn s 76 then capAt (.win r) (regTaken p rest s)
    else regAnswer r ((regWords r.msg).map (regRead s)) (regTaken p rest s)) := by
  have w : (regTaken p rest s).regHw = s.regHw := (regTaken_only ..).same .regHw (by cases p <;> decide)
  have d : pdOn (regTaken p rest s) 76 = pdOn s 76 := pdOn_pw ((regTaken_only p rest s).same .pw (by cases p <;> decide)) 76
  have e : (regWords r.msg).map (regRead (regTaken p rest s)) = (regWords r.msg).map (regRead s) :=
    List.map_congr_left fun o _ => regRead_regTaken p rest s o
  show execRegAccess p s = _
  unfold execRegAccess
  dsimp only
  rw [h]
  dsimp only
  rw [show regFill p (portSet p { portGet s p with regq := rest } s) = regTaken p rest s from rfl, w, d, e]

end

theorem compTo_only_dport (p : DPort) (m : Msg) (j : Subj) (st n : Nat) (s : State) : OnlyChanges [.d0, .d1] s (compTo (dport p) m j st n s) :=
  (compTo_only ..).mono (by cases p <;> decide)

theorem regAnswer_only (r : RegReq) (l : List Nat) (s : State) : OnlyChanges [portPart r.port, .ctr] s (regAnswer r l s) := by
  have k := dataTo_only (dport r.port) r.msg { subjMsg s r.msg with tc := r.tc } St.ok 0 0
    (linePut 0 (hOff r.msg) (hLen r.msg) (l.foldr (fun x a => x + 2 ^ 32 * a) 0))
    (occP (dport r.port) 0x16 { subjMsg s r.msg with tc := r.tc } (hLen r.msg) s)
  rw [show [outPart (dport r.port)] = [portPart r.port] by cases r.port <;> rfl] at k
  exact ((occP_only ..).mono (by simp)).trans (k.mono (by simp))

theorem setRegAt_only (l : List RegReq) (s : State) (x : RegLoc) : OnlyChanges [.d0, .d1, .regHw] s (setRegAt l s x) := by
  cases x with
  | d0 => exact ((portSet_only .d0 { s.d0 with regq := l } s).le _).then (regFill_only .d0 _)
  | d1 => exact ((portSet_only .d1 { s.d1 with regq := l } s).le _).then (regFill_only .d1 _)
  | hw => exact (regHwOnly ..).le _

theorem setRegAt_regHw (l : List RegReq) (s : State) {x : RegLoc} (h : x ≠ .hw) : (setRegAt l s x).regHw = s.regHw := by
  cases x with
  | d0 => exact (regFill_only .d0 { s with d0 := { s.d0 with regq := l } }).same .regHw (by decide)
  | d1 => exact (regFill_only .d1 { s with d1 := { s.d1 with regq := l } }).same .regHw (by decide)
  | hw => exact absurd rfl h

theorem registerRequests : RegisterRequests := by
  refine ⟨fun p s r rest hq hr => ⟨fun hw hd hc => ?_, fun hw hc hd => ?_, fun h => ?_⟩, fun l k s r hk ht => ?_⟩
  · have f := regTaken_only p rest s
    obtain ⟨o, a, b⟩ := dataTo_answers (dport r.port) r.msg { subjMsg (regTaken p rest s) r.msg with tc := r.tc } St.ok 0 0
      (linePut 0 (hOff r.msg) (hLen r.msg) (regValue s r.msg))
      (occP (dport r.port) 0x16 { subjMsg (regTaken p rest s) r.msg with tc := r.tc } (hLen r.msg) (regTaken p rest s)) (by decide)
    have e := execRegAccess_eq p rest s hq
    rw [if_neg (by simp [hw, hd]), if_neg (by rcases hc with h | h <;> simp [h])] at e
    have g := regAnswer_only r ((regWords r.msg).map (regRead s)) (regTaken p rest s)
    rw [hr] at a g
    exact ⟨_, o, e, by rw [regAnswer, hr]; exact a, b, (f.mono (by simp)).trans g⟩
  · have dm : dataMbx r.msg = none := by
      simp only [inCtrWindow, Bool.and_eq_true, decide_eq_true_eq] at hc
      rw [dataMbx, if_neg (by omega)]
    have f := regTaken_only p rest s
    have e := execRegAccess_eq p rest s hq
    rw [if_neg (by simp [hw, dm]), if_pos (by simp [hc, hd])] at e
    refine ⟨_, e, ?_, regTaken_port_out p rest s, (f.mono (by simp)).trans ((ctrOnly _ _).mono (by simp))⟩
    show ({ (regTaken p rest s).ctr with caps := (regTaken p rest s).ctr.caps ++ [.win r] } : CtrSt) = _
    rw [f.same .ctr (by cases p <;> decide)]
  · have e := execRegAccess_eq p rest s hq
    rw [if_pos (by simpa [Option.isSome_iff_ne_none] using h)] at e
    exact ⟨_, e, rfl, regTaken_port_out p rest s, ((regTaken_only p rest s).mono (by simp)).trans ((regHwOnly _ _).mono (by simp))⟩
  · let t := setRegAt ((regAt s l).eraseIdx k) s l
    have f : OnlyChanges [.d0, .d1, .regHw] s t := setRegAt_only ..
    obtain ⟨o, a, -, b⟩ := compTo_answers (dport r.port) r.msg { subjMsg t r.msg with tc := r.tc } St.timeout 0 t (by decide)
    have g := compTo_only_dport r.port r.msg { subjMsg t r.msg with tc := r.tc } St.timeout 0 t
    have w := g.same .regHw (by decide)
    refine ⟨regComp r St.timeout t, o, ?_, a, b, fun h => ?_, fun h => ?_, f.then g⟩
    · show execRegTimeout l k s = _
      simp only [execRegTimeout, hk, ht, if_true]
      rfl
    · rw [regComp, w]; subst h; rfl
    · rw [regComp, w]; exact setRegAt_regHw _ _ h

/-! ### Writes of registers (R256 to R259, R285, R366, R367) -/

theorem setInts_en (i : Ints) (s : State) : (setInts i s).ints.en = i.en := by
  unfold setInts
  dsimp only
  split
  · unfold sendIntr
    dsimp only
    split <;> rfl
  · rfl

theorem setInts_regHw (i : Ints) (x : List RegReq) (s : State) : setInts i { s with regHw := x } = { setInts i s with regHw := x } := by
  unfold setInts
  dsimp only
  split
  · unfold sendIntr
    dsimp only
    split <;> rfl
  · rfl

theorem mbxWrite_regHw (t o v : Nat) (x : List RegReq) (s : State) : mbxWrite t o v { s with regHw := x } = { mbxWrite t o v s with regHw := x } := by
  have e : mbxGet { s with regHw := x } t = mbxGet s t := rfl
  unfold mbxWrite
  dsimp only
  rw [e]
  split
  · split <;> rfl
  · split
    · rfl
    · split <;> rfl

/-- A write of the interrupt, event and error registers meets no request that waits in the hardware. -/
theorem intWrite_regHw (o v : Nat) (x : List RegReq) (s : State) : intWrite o v { s with regHw := x } = { intWrite o v s with regHw := x } := by
  unfold intWrite
  dsimp only
  split
  case h_1 | h_2 | h_3 | h_4 => exact setInts_regHw ..
  case h_12 => unfold fatalClear; dsimp only; split <;> rfl
  all_goals rfl

theorem regWrite_regHw (o v : Nat) (x : List RegReq) (s : State) : regWrite o v { s with regHw := x } = { regWrite o v s with regHw := x } := by
  unfold regWrite
  split
  · rfl
  · split
    · exact intWrite_regHw ..
    · split
      · exact mbxWrite_regHw ..
      · rfl

theorem writeWords_regHw (m : Msg) (x : List RegReq) (s : State) : writeWords m { s with regHw := x } = { writeWords m s with regHw := x } := by
  unfold writeWords
  induction regWords m generalizing s with
  | nil => rfl
  | cons o l ih => rw [List.foldl_cons, List.foldl_cons, regWrite_regHw, ih]

/-- What a write of registers may change. -/
def regParts : List Part := [.mbx, .startQ, .log, .ints, .pins, .d0]

theorem intWrite_only (o v : Nat) (s : State) : OnlyChanges regParts s (intWrite o v s) := by
  have i : ∀ x, OnlyChanges regParts s (setInts x s) := fun x => (setInts_only x s).le _
  have j : ∀ x, OnlyChanges regParts s { s with ints := x } := fun x =>
    ⟨fun q hq => by cases q <;> first | rfl | exact absurd (by decide) hq⟩
  have l : ∀ x, OnlyChanges regParts s { s with log := x } := fun x => (logOnly x s).mono (by decide)
  unfold intWrite
  dsimp only
  split
  case h_1 | h_2 | h_3 | h_4 => exact i _
  case h_5 | h_6 | h_7 | h_8 => exact j _
  case h_9 => exact ⟨fun q hq => by cases q <;> first | rfl | exact absurd (by decide) hq⟩
  case h_10 | h_11 => exact l _
  case h_12 => exact .ite (l _) (.refl _ _)
  case h_13 => exact .refl _ _

theorem mbxWrite_only (t o v : Nat) (s : State) : OnlyChanges regParts s (mbxWrite t o v s) := by
  have m : ∀ x, OnlyChanges regParts s (mbxSet t x s) := fun x => (mbxSet_only t x s).le _
  unfold mbxWrite
  refine .ite (.ite (m _) ?_) (.ite (m _) (.ite (m _) (.refl _ _)))
  exact ⟨fun q hq => by cases q <;> first | rfl | exact absurd (by decide) hq⟩

theorem regWrite_only (o v : Nat) (s : State) : OnlyChanges regParts s (regWrite o v s) :=
  .ite (.refl _ _) (.ite (intWrite_only ..) (.ite (mbxWrite_only ..) (.refl _ _)))

theorem writeWords_only (m : Msg) (s : State) : OnlyChanges regParts s (writeWords m s) := foldl_only (fun s o => regWrite_only o _ s) _ s

/-- A WR of one word writes that word. -/
theorem WordWrite.writes {m : Msg} {a v : Nat} (h : WordWrite m a v) (s : State) : writeWords m s = regWrite a v s := by
  obtain ⟨len, addr, value⟩ := h
  simp [writeWords, regWords, len, addr, value]

/-- The rows of the register writes perform one write (R256). -/
theorem exec_writeRow {k : Nat} {s : State} {r : RegReq} {c : Instr} (hk : s.regHw[k]? = some r) (hc : writeRow k (regKind s r.msg) = some c) :
    exec c s = .next (regDone r { writeWords r.msg s with regHw := s.regHw.eraseIdx k }) := by
  have run : ∀ sel : RegKind → Bool, sel (regKind s r.msg) = true →
      hwRun k sel hwWrite s = regDone r { writeWords r.msg s with regHw := s.regHw.eraseIdx k } := fun sel h => by
    simp only [hwRun, hk, h, if_true, hwWrite, writeWords_regHw]
  generalize hx : regKind s r.msg = x at hc run
  cases x <;> cases hc <;> exact congrArg Host.Outcome.next (run _ rfl)

theorem regDone_only (r : RegReq) (s : State) : OnlyChanges [.d0, .d1, .ctr] s (regDone r s) :=
  ((occP_only ..).le _).then (compTo_only_dport ..)

theorem regDone_answers (r : RegReq) (s : State) : ∃ o, Answers (regDone r s) (dport r.port) r.msg Op.comp St.ok o ∧ o.msg.beats = [] := by
  obtain ⟨o, a, -, b⟩ := compTo_answers (dport r.port) r.msg
    { subjMsg (occP (dport r.port) 0x17 { subjMsg s r.msg with tc := r.tc } (hLen r.msg) s) r.msg with tc := r.tc } St.ok 0
    (occP (dport r.port) 0x17 { subjMsg s r.msg with tc := r.tc } (hLen r.msg) s) (by decide)
  exact ⟨o, a, b⟩

/-- A value that a store takes is read back where it is not the default. -/
theorem mbxGet_mbxSet_self (t : Nat) {m : Mbx} (s : State) (h : m ≠ Mbx.reset) : mbxGet (mbxSet t m s) t = m := sget_sset_self _ _ _ h

theorem mbx_ne_reset {m : Mbx} (h : m.busy = true) : m ≠ Mbx.reset := by
  rintro rfl
  cases h

/-- A write of CMD stands at offset 0 of the mailbox's window (Table 13.4). -/
theorem regWrite_cmd {t : Nat} (h : t < 16) (v : Nat) (s : State) :
    regWrite (0x1000 + 0x100 * t) v s = if (mbxGet s t).busy then cmdOver t s else cmdWrite t v s := by
  rw [regWrite, if_neg (by omega), if_neg (by omega), if_pos (by omega), show (0x1000 + 0x100 * t - 0x1000) / 0x100 = t by omega,
    show (0x1000 + 0x100 * t) % 0x100 = 0 by omega]
  rfl

theorem registersWritten : RegistersWritten := by
  intro k s r c hk hc
  have e := exec_writeRow hk hc
  generalize hw : writeWords r.msg s = w at e ⊢
  have f : OnlyChanges regParts s w := hw ▸ writeWords_only r.msg s
  have d := regDone_only r { w with regHw := s.regHw.eraseIdx k }
  obtain ⟨o, a, b⟩ := regDone_answers r { w with regHw := s.regHw.eraseIdx k }
  have mbx := d.same .mbx (by decide)
  have startQ := d.same .startQ (by decide)
  have get : ∀ j, mbxGet (regDone r { w with regHw := s.regHw.eraseIdx k }) j = mbxGet w j := fun j => by rw [mbxGet, mbxGet, mbx]
  have one : ∀ {a v}, WordWrite r.msg a v → w = regWrite a v s := fun h => hw.symm.trans (h.writes s)
  refine ⟨_, o, e, a, b, d.same .regHw (by decide), mbx, startQ, d.log, d.ints, d.pins, ((f.le _).then (regHwOnly _ w)).then d,
    fun v h => ?_, fun v h => ?_, fun v h => ?_, fun v h => ?_, fun v h => ?_, fun t v ht h => ⟨fun j hj => ?_, fun busy => ?_, fun idle => ?_⟩⟩
  · rw [d.log]; exact congrArg State.log (one h)
  · rw [d.log]; exact congrArg State.log (one h)
  · rw [d.log]
    refine (congrArg State.log (one h)).trans (?_ : (fatalClear v s).log = _)
    unfold fatalClear
    split <;> rfl
  · rw [d.ints, d.pins]
    exact ⟨congrArg State.ints (one h), congrArg State.pins (one h)⟩
  · rw [d.ints, show State.ints { w with regHw := s.regHw.eraseIdx k } = w.ints from rfl, one h]
    exact ⟨setInts_stat .., setInts_en .., setInts_mbx ..⟩
  · rw [get, one h, regWrite_cmd ht]
    split <;> exact mbxGet_mbxSet_ne _ _ hj
  · rw [get, startQ, show State.startQ { w with regHw := s.regHw.eraseIdx k } = w.startQ from rfl, one h, regWrite_cmd ht, if_pos busy]
    exact ⟨mbxGet_mbxSet_self t s (mbx_ne_reset busy), rfl⟩
  · rw [get, startQ, show State.startQ { w with regHw := s.regHw.eraseIdx k } = w.startQ from rfl, one h, regWrite_cmd ht, if_neg (by simp [idle])]
    have m := mbxGet_mbxSet_self t (m := { mbxGet s t with
      cmd := BitVec.ofNat 8 v, op := BitVec.ofNat 8 v, larg := (mbxGet s t).arg, seqL := (mbxGet s t).seq, res := List.replicate 16 0, busy := true,
      ovr := false, phase := .queued, outF := [], got := [], pend := [], wait := s.clk.run }) { s with startQ := s.startQ ++ [t] } (mbx_ne_reset rfl)
    rw [show cmdWrite t v s = mbxSet t _ _ from rfl, m]
    exact ⟨rfl, rfl, rfl, rfl, rfl, rfl, rfl, rfl⟩

/-- Settles O45: the register window answers reads, performs writes, and times out what waits too long. -/
theorem windowServes : Obligations.WindowServes := ⟨registerRequests, registersWritten⟩

end Sys2Proof.Machine
end

section
namespace Sys2Proof.Machine

-- One declaration after the other: the threads of declarations that wait for one another exhaust the memory that a compile may take.
set_option Elab.async false

/-! ### Fills install (O21: R65, R66, R73, R78) -/

/-- The write on M that one WTHRU write in miss entry `e` becomes. -/
def thruWrite (e : Miss) (p : Piece) : MWork := .wthru e.line p.data (if e.sealed then fullMask else p.mask) (p.poi || e.poi) e.sealed e.qc e.tc

theorem thruFold_eq (e : Miss) (l : List Piece) (s : State) : l.foldl (fun s p => mwPush (thruWrite e p) s) s =
    { s with mp := { s.mp with writes := s.mp.writes ++ (l.zipIdx).map fun p => (s.mp.wseq + p.2, thruWrite e p.1),
                               wseq := s.mp.wseq + l.length } } := by
  induction l generalizing s with
  | nil => simp
  | cons p l ih =>
    rw [List.foldl_cons, ih, List.zipIdx_cons, List.zipIdx_succ]
    simp [mwPush, Nat.add_assoc, Nat.add_comm 1, Function.comp_def]

/-- The bytes of the WTHRU writes in an entry wait for M in order (R73). -/
theorem thruSend_eq (e : Miss) (s : State) : thruSend e s =
    { s with mp := { s.mp with writes := s.mp.writes ++ thruWork e s.mp.wseq, wseq := s.mp.wseq + e.thru.length } } := thruFold_eq e e.thru s

/-- What a filled entry installs. -/
def fillInst (x : Miss) : Inst where
  line := x.line
  data := x.buf
  set := x.set.toNat
  qc := x.qc
  tc := x.tc
  pf := x.kind == .prefetch && x.nAtt == 0
  sealed := x.sealed
  poi := x.poi
  d := missDirty x
  touch := (if x.kind == .prefetch && x.nAtt == 0 then !x.pfIns && x.attr.ralloc != 2 else x.attr.ralloc != 2) || x.kind == .whole
  who := x.opener.map subjReq

/-- The tag-pipe slot that an install uses. -/
def fillSlot (x : Miss) (s : State) : State :=
  useSlot (instSet s x.line x.set.toNat) (!(x.kind == .prefetch && x.nAtt == 0))
    (if x.kind == .prefetch && x.nAtt == 0 then none else x.opener.map subjReq) s

theorem fillSlot_only (x : Miss) (s : State) : OnlyChanges [.ctr] s (fillSlot x s) := useSlot_only ..

/-- The count of a fill that finds no way. -/
def fillBypass (x : Miss) (s : State) : State := match x.opener with | some r => occR 0x26 r 1 s | none => occU 0x26 1 s

theorem fillBypass_only (x : Miss) (s : State) : OnlyChanges [.ctr] s (fillBypass x s) := by
  unfold fillBypass
  split
  · exact occR_only ..
  · exact occU_only ..

section
variable {s : State} {e : Fin 1024} {x : Miss} (hx : s.mp.miss.find? (·.id = e.val) = some x) (hst : x.st = .waitInstall) (hb : s.bad = [])
include hx hst hb

theorem execFillInstall_eq : exec (.fillInstall e) s = .next (match tryInstall (fillInst x) s with
    | .ok s => fillSlot x (thruSend x (missDrop e.val s))
    | .mireWait => s
    | .noVictim =>
      if x.wrote then
        mwPush (.around e.val) (missMod e.val (fun e => { e with st := .writeOut, mask := fullMask, thru := [] }) (fillSlot x (fillBypass x s)))
      else missDrop e.val (fillSlot x (fillBypass x s))) := by
  have id : x.id = e.val := by simpa using List.find?_some hx
  show execFillInstall e s = _
  simp only [execFillInstall, hx, hst, beq_self_eq_true, if_true, fillInstallAt, missCheck_clean _ _ s hb, id, Option.getD_some]
  rfl

/-- A fill that finds a way, with room for the line that leaves it. -/
theorem fill_installs (hw : ArrWf s) {w k : Nat} (hv : victim s x.qc.toNat x.tc.toNat (instSet s x.line x.set.toNat) = some w)
    (hk : k = wkey (instSet s x.line x.set.toNat) w) (hm : ((tagGet s k).v && (tagGet s k).d && mireFull s) = false) :
    ∃ u t, exec (.fillInstall e) s = .next u ∧ Installed s t k (fillInst x) ∧ u.arr = t.arr ∧ OnlyChanges [.arr, .mp, .ctr] s u ∧
      u.mp = { t.mp with miss := t.mp.miss.filter (·.id ≠ e.val), writes := t.mp.writes ++ thruWork x t.mp.wseq,
                         wseq := t.mp.wseq + x.thru.length } := by
  obtain ⟨t, et, i⟩ := tryInstall_ok (i := fillInst x) hb hw hv hk hm
  have q := execFillInstall_eq hx hst hb
  rw [et] at q
  have m : (thruSend x (missDrop e.val t)).mp = _ := congrArg State.mp (thruSend_eq x (missDrop e.val t))
  have o : OnlyChanges [.mp] t (thruSend x (missDrop e.val t)) := by
    rw [thruSend_eq]
    exact (mpOnly _ t).trans (mpOnly _ _)
  have c := fillSlot_only x (thruSend x (missDrop e.val t))
  exact ⟨_, t, q, i, c.arr.trans o.arr, (i.frame.then o).then c, c.mp.trans m⟩

end

theorem fillInstalled : FillInstalled := by
  rintro e s x set hx hst hb hc rfl
  refine ⟨fun w hv hd => ?_, fun w hv hd hf => ?_, fun w hv hd hf => ?_, fun hv => ?_⟩
  · obtain ⟨u, t, eu, i, a, f, m⟩ := fill_installs hx hst hb hc.arrWf hv rfl (by rw [hd]; rfl)
    have l := i.line.congr rfl a
    rw [i.clean hd] at m
    exact ⟨u, eu, l.data, l.tag, l.datas, l.tags, m, f⟩
  · obtain ⟨u, t, eu, i, a, f, m⟩ := fill_installs hx hst hb hc.arrWf hv rfl (by rw [hf, Bool.and_false])
    have l := i.line.congr rfl a
    obtain ⟨y, ym⟩ := i.dirty hd
    rw [ym.mp] at m
    exact ⟨u, y, eu, l.data, l.tag, l.datas, l.tags, by rw [m], ym.line, ym.data, ym.poi, by rw [m, List.append_assoc]; rfl, by rw [m], f⟩
  · rw [execFillInstall_eq hx hst hb, tryInstall_mireWait (i := fillInst x) hb hv (by rw [hf, Bool.and_true]; exact hd)]
  · have q := execFillInstall_eq hx hst hb
    rw [tryInstall_noVictim (i := fillInst x) hb hv] at q
    have c : OnlyChanges [.ctr] s (fillSlot x (fillBypass x s)) := (fillBypass_only ..).trans (fillSlot_only ..)
    cases h : x.wrote with
    | true =>
      rw [h, if_pos rfl] at q
      refine ⟨_, q, ?_, (c.le _).then ((mpOnly _ _).trans (mpOnly _ _))⟩
      rw [if_pos rfl, ← c.mp]
      rfl
    | false =>
      rw [h, if_neg Bool.false_ne_true] at q
      refine ⟨_, q, ?_, (c.le _).then (mpOnly _ _)⟩
      rw [if_neg Bool.false_ne_true, ← c.mp]
      rfl

/-! ### Fills are served (O21: R21, R252, R357) -/

theorem lmod_find {i : Nat} {f : Miss → Miss} (hf : ∀ x, x.id = i → (f x).id = i) {l : List Miss} {x : Miss} (h : l.find? (·.id = i) = some x) :
    (lmod (·.id = i) f l).find? (·.id = i) = some (f x) := by
  induction l with
  | nil => cases h
  | cons a l ih =>
    by_cases e : a.id = i
    · rw [List.find?_cons_of_pos (by simpa using e)] at h
      cases h
      simp [lmod, e, hf]
    · rw [List.find?_cons_of_neg (by simpa using e)] at h
      have k := ih h
      rw [lmod] at k
      simpa [lmod, e] using k

theorem lmod_filter {i : Nat} {f : Miss → Miss} (hf : ∀ x, x.id = i → (f x).id = i) (l : List Miss) :
    (lmod (·.id = i) f l).filter (·.id ≠ i) = l.filter (·.id ≠ i) := by
  induction l with
  | nil => rfl
  | cons a l ih =>
    rw [lmod] at ih ⊢
    by_cases e : a.id = i <;> simp_all

/-- The entry of a read that its fill has served: the line, poisoned or not, and nothing of the accesses it waited with. -/
def servedMiss (x : Miss) (d : Line) (poi : Bool) : Miss :=
  { x with buf := d, mask := 0, poi := poi, wrote := false, dirty := false, thru := [], st := .waitInstall, att := [] }

section
variable {s : State} {i : Nat} {x : Miss} {r : Req}

/-- A fill for one read is delivered, and its entry waits to install. -/
theorem AwaitsRead.served (h : AwaitsRead s i x r) (d : Line) (p : Bool) :
    fillServe i d p s = missMod i (fun _ => servedMiss x d p) (deliverRead r 0 d p s) := by
  obtain ⟨found, kind, att, port, keeps, -, unlisted, sound⟩ := h
  have k : x.attr.ralloc ≠ 1#2 := keeps
  simp [fillServe, found, k, att, unlisted, sound, replay, fillStart, servedMiss]

theorem deliverRead_frame (hr : r.src = .port) (d : Line) (p : Bool) (s : State) : OnlyChanges [.d0, .d1, .sout, .ctr] s (deliverRead r 0 d p s) := by
  rw [deliverRead, hr]
  exact (OnlyChanges.ite ((occR_only ..).le _) (.refl _ _)).trans ((dataTo_only ..).mono (by cases r.port <;> decide))

theorem AwaitsRead.readServed (h : AwaitsRead s i x r) (d : Line) (p : Bool) :
    ReadServed s (fillServe i d p s) i x r d p ∧ OnlyChanges [.mp, .d0, .d1, .sout, .ctr] s (fillServe i d p s) := by
  have f := deliverRead_frame (r := r) h.port d p s
  have m := missMod_only i (fun _ => servedMiss x d p) (deliverRead r 0 d p s)
  have id : x.id = i := by simpa using List.find?_some h.found
  obtain ⟨o, a, b⟩ := deliverRead_answers (s := s) h.port 0 d p
  obtain ⟨o', a', b'⟩ := a.carry m.sameLast
  rw [h.served]
  have e : (missMod i (fun _ => servedMiss x d p) (deliverRead r 0 d p s)).mp.miss = lmod (·.id = i) (fun _ => servedMiss x d p) s.mp.miss := by
    rw [← f.mp]; rfl
  refine ⟨⟨⟨o', a', by rw [b', b]⟩, ⟨servedMiss x d p, ?_, rfl, rfl, rfl, rfl, rfl, rfl⟩, ?_⟩, (f.le _).then m⟩
  · rw [e, lmod_find (f := fun _ => servedMiss x d p) (fun _ _ => id) h.found]
  · rw [e, lmod_filter (f := fun _ => servedMiss x d p) (fun _ _ => id)]

/-- What a change of an entry, an error record and counts leave of the wait. -/
theorem AwaitsRead.carry {t : State} (h : AwaitsRead s i x r) {l : List Part} (k : OnlyChanges l s t) (hm : .mp ∉ l := by decide)
    (hb : .bad ∉ l := by decide) : AwaitsRead t i x r := by
  obtain ⟨found, kind, att, port, keeps, clean, unlisted, sound⟩ := h
  exact ⟨by rw [k.mp hm]; exact found, kind, att, port, keeps, by rw [k.bad hb]; exact clean, by rw [listed, k.mp hm]; exact unlisted, sound⟩

theorem AwaitsRead.mod (h : AwaitsRead s i x r) {f : Miss → Miss} (hf : ∀ x, (f x).id = x.id ∧ (f x).kind = x.kind ∧ (f x).att = x.att ∧
    (f x).attr = x.attr ∧ (f x).line = x.line ∧ (f x).hpoi = x.hpoi) : AwaitsRead (missMod i f s) i (f x) r := by
  obtain ⟨found, kind, att, port, keeps, clean, unlisted, sound⟩ := h
  obtain ⟨-, fk, fa, ft, fl, fh⟩ := hf x
  exact ⟨lmod_find (fun y hy => (hf y).1.trans hy) found, fk.trans kind, fa.trans att, port, ft ▸ keeps, clean, fl ▸ unlisted, fh.trans sound⟩

/-- What is served after a change of its entry is served of the entry before. -/
theorem ReadServed.of_mod {t u : State} {f : Miss → Miss} {d : Line} {p : Bool} (h : ReadServed t u i (f x) r d p)
    (hm : t.mp.miss = lmod (·.id = i) f s.mp.miss) (hf : ∀ y, (f y).id = y.id) (hl : (f x).line = x.line) : ReadServed s u i x r d p := by
  obtain ⟨a, ⟨y, fy, ly, h⟩, rest⟩ := h
  exact ⟨a, ⟨y, fy, ly.trans hl, h⟩, by rw [rest, hm, lmod_filter fun y hy => (hf y).trans hy]⟩

end

/-- The entry as the data of its read from M, or its MAC, finds it. -/
def withData (d : Line) (p : BitVec 2) (x : Miss) : Miss := { x with mdata := some (d, p) }
def withMac (st : BitVec 3) (mac : BitVec 64) (x : Miss) : Miss := { x with mac := some (st, mac) }

/-- The error record of a fill that M gives poisoned, or whose MAC is not good (R252, R357). -/
def fillErr (x : Miss) (c : Nat) : ErrInfo :=
  { cause := c, sev := 1, page := true, aspace := 0, laddr := x.line.toNat, tc := x.tc.toNat, who := x.opener.bind whoReq }

/-- Whether a sealed line's MAC is good (R252). -/
def macGood (s : State) (x : Miss) (d : Line) (st : BitVec 3) (mac : BitVec 64) : Bool :=
  st == 0 && sealMac (keyGet s x.tc.toNat).km (sealTweak x.tc.toNat (chipN s) x.line.toNat) d == mac

section
variable {s : State} {i : Nat} {x : Miss} {r : Req} (h : AwaitsRead s i x r)
include h

theorem fillTry_plain {d : Line} {p : BitVec 2} (hd : x.mdata = some (d, p)) (hs : x.sealed = false) :
    fillTry i s = fillServe i d (p != 0) (if p = 0 then s else logErr (fillErr x 0x10) s) := by
  simp only [fillTry, missCheck_clean _ _ s h.clean, h.found, hd, hs]
  rfl

theorem fillTry_sealed {d : Line} {st : BitVec 3} {mac : BitVec 64} (hd : x.mdata = some (d, 0)) (hs : x.sealed = true)
    (hm : x.mac = some (st, mac)) : ∃ t, OnlyChanges [.ctr, .log, .ints, .d0] s t ∧ fillTry i s = fillServe i
      (xtsOpen (keyGet s x.tc.toNat).k1 (keyGet s x.tc.toNat).k2 (sealTweak x.tc.toNat (chipN s) x.line.toNat) d) (!macGood s x d st mac) t := by
  have e : fillTry i s = fillServe i
      (xtsOpen (keyGet s x.tc.toNat).k1 (keyGet s x.tc.toNat).k2 (sealTweak x.tc.toNat (chipN s) x.line.toNat) d) (!macGood s x d st mac)
      (if macGood s x d st mac then s else match x.opener with
        | some r => occR 0xC3 r 1 (logErr (fillErr x 0x12) s)
        | none => occU 0xC3 1 (logErr (fillErr x 0x12) s)) := by
    simp only [fillTry, missCheck_clean _ _ s h.clean, h.found, hd, hs, hm]
    rfl
  refine ⟨_, .ite (.refl _ _) ?_, e⟩
  have l := (logErr_only (fillErr x 0x12) s).le [.ctr, .log, .ints, .d0]
  split
  · exact l.then (occR_only ..)
  · exact l.then (occU_only ..)

end

theorem fillServed : FillServed := by
  refine ⟨fun e d p s x r h hst hn hs => ?_, fun e st mac d s x r o h hd hs ho => ?_⟩
  · have g := h.mod (f := withData d p) fun _ => ⟨rfl, rfl, rfl, rfl, rfl, rfl⟩
    let t := missMod e.val (withData d p) s
    let v := if p = 0 then t else logErr (fillErr (withData d p x) 0x10) t
    have lv : OnlyChanges [.log, .ints, .d0] t v := .ite (.refl _ _) (logErr_only ..)
    obtain ⟨a, f⟩ := (g.carry lv).readServed d (p != 0)
    have q : exec (.mReadData e d p) s = .next (fillTry e.val t) := by
      show execMReadData e d p s = _
      simp only [execMReadData, h.found, hst, hn]
      rfl
    rw [fillTry_plain g (d := d) (p := p) rfl hs] at q
    have m : v.mp.miss = lmod (·.id = e.val) (withData d p) s.mp.miss := congrArg MPort.miss lv.mp
    exact ⟨_, q, a.of_mod m (fun _ => rfl) rfl, (((missMod_only e.val (withData d p) s).le _).then lv).then f⟩
  · have k := ownDrop_only o.txid s
    have g := (h.carry k).mod (f := withMac st mac) fun _ => ⟨rfl, rfl, rfl, rfl, rfl, rfl⟩
    let t := missMod e.val (withMac st mac) (ownDrop o.txid s)
    obtain ⟨v, lv, ev⟩ := fillTry_sealed g (d := d) (st := st) (mac := mac) hd hs rfl
    obtain ⟨a, f⟩ := (g.carry lv).readServed (xtsOpen (keyGet s x.tc.toNat).k1 (keyGet s x.tc.toNat).k2 (sealTweak x.tc.toNat (chipN s) x.line.toNat) d)
      (!macGood s x d st mac)
    have q : exec (.sealMacReadData e st mac) s = .next (fillTry e.val t) := by
      show execSealMacReadData e st mac s = _
      rw [execSealMacReadData, ho]
      rfl
    have m : v.mp.miss = lmod (·.id = e.val) (withMac st mac) s.mp.miss := congrArg MPort.miss lv.mp
    have all := (((k.le [.mp, .d0, .d1, .sout, .ctr, .log, .ints, .srv]).then (missMod_only e.val (withMac st mac) (ownDrop o.txid s))).then lv).then f
    exact ⟨_, q.trans (congrArg _ ev), a.of_mod m (fun _ => rfl) rfl, (f.srv.trans lv.srv), all⟩

/-- Settles O21: data from M answers its read and waits to install, and a filled line takes its victim's way. -/
theorem fillsLand : Obligations.FillsLand := ⟨fillServed, fillInstalled⟩

end Sys2Proof.Machine
end

section
namespace Sys2Proof.Machine

-- One declaration after the other: the threads of declarations that wait for one another exhaust the memory that a compile may take.
set_option Elab.async false

/-! ### The end of an SCLK before its time passes (O27) -/

/-- What the end of an SCLK may change before its time passes, but for the home. -/
def endParts : List Part := [.pins, .d0, .d1, .sout, .fen, .tal, .regul, .ctr, .peat, .mbx, .ints, .log, .srv, .bad]

/-- From `s` to `u` the end of an SCLK has gone on, and no Sedge entry has changed. -/
structure Ends (s u : State) : Prop where
  frame : OnlyChanges (.home :: endParts) s u
  sedge : u.home.sedge = s.home.sedge

theorem Ends.refl (s : State) : Ends s s := ⟨.refl _ _, rfl⟩
theorem Ends.trans {s t u : State} (h : Ends s t) (k : Ends t u) : Ends s u := ⟨h.frame.trans k.frame, k.sedge.trans h.sedge⟩

theorem OnlyChanges.ends {l : List Part} {s u : State} (h : OnlyChanges l s u) (k : l ⊆ endParts := by decide) : Ends s u :=
  ⟨h.mono fun _ x => List.mem_cons_of_mem _ (k x), congrArg HomeSt.sedge (h.home fun x => absurd (k x) (by decide))⟩

theorem Ends.ite {s t u : State} {c : Prop} [Decidable c] (h : Ends s t) (k : Ends s u) : Ends s (if c then t else u) := by split <;> assumption

theorem Ends.foldl {α : Type} {f : State → α → State} (h : ∀ s a, Ends s (f s a)) (l : List α) (s : State) : Ends s (l.foldl f s) := by
  induction l generalizing s with
  | nil => exact .refl _
  | cons x l ih => exact (h s x).trans (ih _)

/-! #### The response that leaves on S -/

theorem htesOnly (l : List Hte) (s : State) : Ends s { s with home := { s.home with htes := l } } :=
  ⟨(homeOnly _ s).mono (by decide), rfl⟩

theorem respond_ends (p : Port) (m : Msg) (j : Subj) (x : Rsp) (s : State) : Ends s (respond p m j x s) :=
  (respond_only p m j x s).ends (by cases p <;> decide)

theorem hteClose_ends (id : Nat) (s : State) : Ends s (hteClose id s) := by
  refine (htesOnly _ s).trans (.foldl (fun s h => ?_) _ _)
  exact .ite (.ite (.ite ((htesOnly ..).trans (respond_ends ..)) ((htesOnly ..).trans (respond_ends ..))) (htesOnly ..)) (.refl _)

theorem hteLeft_ends (m : Msg) (s : State) : Ends s (hteLeft m s) := by
  unfold hteLeft
  refine .ite ?_ (.refl _)
  split
  · exact hteClose_ends ..
  · exact .refl _

theorem outLeft_s_ends (o : Out) (s : State) : Ends s (outLeft .s o s) := by
  have c : ∀ e j t, Ends t (occP .s e j 1 t) := fun e j t => (occP_only .s e j 1 t).ends
  have left : ∀ t, Ends s t → Ends s (hteLeft o.msg (fctr 6 (64 * o.msg.beats.length) t)) := fun t h =>
    (h.trans (fctr_only ..).ends).trans (hteLeft_ends ..)
  unfold outLeft
  cases o.subj with
  | none => cases o.post <;> exact left s (.refl s)
  | some j =>
    have h := left _ (.ite (c := hStatus (asSent s o) == St.poison) (c 0xC2 j s) (.refl s))
    cases o.post with
    | none => exact h
    | maceData slot k line => exact h
    | reed at_ bound => exact .ite (h.trans (c ..)) h

theorem sTick_ends (s : State) : Ends s (sTick s) := by
  unfold sTick
  split
  · exact OnlyChanges.ends (l := [.pins]) ⟨fun q hq => by cases q <;> first | rfl | exact absurd (by simp) hq⟩
  · exact (OnlyChanges.ends (l := [.pins, .sout]) ⟨fun q hq => by cases q <;> first | rfl | exact absurd (by simp) hq⟩).trans (outLeft_s_ends ..)

/-! #### Temperature reports -/

theorem regulOnly (x : RegulSt) (s : State) : OnlyChanges [.regul] s { s with regul := x } :=
  ⟨fun q hq => by cases q <;> first | rfl | exact absurd (by simp) hq⟩

theorem winNote_only (s : State) : OnlyChanges [.regul] s (winNote s) := foldl_only (fun _ _ => winSet_only ..) _ _
theorem winStart_only (c : Nat) (t : FT) (s : State) : OnlyChanges [.regul] s (winStart c t s) := winSet_only ..

theorem tempReport_only (m : Msg) (o : Nat) (s : State) : OnlyChanges [.regul, .ctr, .log, .ints, .d0, .peat] s (tempReport m o s) := by
  unfold tempReport
  dsimp only
  have r := (regulOnly { s.regul with levels := sset (fun _ => 0) s.regul.levels (fld (hResult m) 0 6) (BitVec.ofNat 3 (fld (hResult m) 16 3)) } s).le
    [.regul, .ctr, .log, .ints, .d0, .peat]
  refine .ite r ?_
  refine OnlyChanges.then ?_ (trigger_only ..)
  refine OnlyChanges.then ?_ (traceEv_only ..)
  refine OnlyChanges.then ?_ (notice_only ..)
  exact (r.then (winNote_only _)).then (occU_only ..)

theorem rptTick_ends (s : State) : Ends s (rptTick s) := by
  have r := (regulOnly { s.regul with rpts := [] } s).ends
  exact r.trans (foldl_only (fun _ _ => tempReport_only ..) _ _).ends

/-! #### Tally waits -/

theorem regionMod_only (i : Nat) (f : Region → Region) (s : State) : OnlyChanges [.fen] s (regionMod i f s) :=
  ⟨fun q hq => by cases q <;> first | rfl | exact absurd (by simp) hq⟩

/-- What reports and releases of waits may change. -/
def waitParts : List Part := [.fen, .tal, .bad, .pins, .log, .ints, .d0, .d1, .sout, .ctr, .peat]

theorem twaitDeadlineAt_only (k : Nat) (s : State) : OnlyChanges waitParts s (twaitDeadlineAt k s) := by
  unfold twaitDeadlineAt
  split
  · exact .refl _ _
  · split
    · exact .refl _ _
    · exact (((((ctlUse_only ..).le waitParts).then (talOnly ..)).then (occU_only ..)).then (notice_only ..)).then (traceEv_only ..)

theorem resolveDeadlineAt_only (i : Nat) (s : State) : OnlyChanges waitParts s (resolveDeadlineAt i s) := by
  unfold resolveDeadlineAt
  split
  · exact .refl _ _
  · split
    · exact .refl _ _
    · split
      · exact .refl _ _
      · exact ((((regionMod_only ..).le waitParts).then (occU_only ..)).then (notice_only ..)).then (traceEv_only ..)

theorem compTo_any (p : Port) (m : Msg) (j : Subj) (st n : Nat) (s : State) : OnlyChanges [.d0, .d1, .sout] s (compTo p m j st n s) :=
  (compTo_only ..).mono (by cases p <;> decide)

theorem releaseAt_only (k : Nat) (s : State) : OnlyChanges waitParts s (releaseAt k s) := by
  unfold releaseAt
  split
  · exact .refl _ _
  · refine .ite (.refl _ _) ?_
    refine OnlyChanges.then ?_ (compTo_any ..)
    refine OnlyChanges.then ?_ (traceEv_only ..)
    refine OnlyChanges.then ?_ (occR_only ..)
    exact ((twaitDeadlineAt_only ..).then (ctlUse_only ..)).then (talOnly ..)

theorem releaseAll_only (n : Nat) (s : State) : OnlyChanges waitParts s (releaseAll n s) := by
  induction n generalizing s with
  | zero => exact .refl _ _
  | succ n ih =>
    unfold releaseAll
    split
    · exact (releaseAt_only ..).trans (ih _)
    · exact .refl _ _

theorem reportAll_only (s : State) : OnlyChanges waitParts s (reportAll s) :=
  (foldl_only (f := fun s k => twaitDeadlineAt k s) (fun s k => twaitDeadlineAt_only k s) (List.range s.tal.parked.length) s).trans
    (foldl_only (f := fun s i => resolveDeadlineAt i s) (fun s i => resolveDeadlineAt_only i s) (List.range 16) _)

theorem tallyTick_ends (s : State) : Ends s (tallyTick s) := by
  have r := (reportAll_only s).trans (releaseAll_only 256 (reportAll s))
  unfold tallyTick
  generalize releaseAll 256 (reportAll s) = t at r ⊢
  have e : OnlyChanges [.tal, .fen] t { t with
      tal := { t.tal with parked := t.tal.parked.map (waitEnd t), adds := [] },
      fen := { t.fen with regions := t.fen.regions.map fun r => { r with res := r.res.map (resolveWaitEnd t r) } } } :=
    ⟨fun q hq => by cases q <;> first | rfl | exact absurd (by simp) hq⟩
  exact r.ends.trans e.ends

/-! #### Counters -/

theorem pipeTick_only (s : State) (p : Nat) : OnlyChanges [.ctr] s (pipeTick s p) := by
  unfold pipeTick
  split
  · dsimp only
    split
    · exact (OnlyChanges.trans (ctrOnly ..) (fctr_only ..)).trans (occAt_only ..)
    · exact (OnlyChanges.trans (ctrOnly ..) (fctr_only ..)).trans (occAt_only ..)
  · split
    · exact (fctr_only ..).trans (occAt_only ..)
    · exact (fctr_only ..).trans (occAt_only ..)

theorem slotTick_only (s : State) : OnlyChanges [.ctr] s (slotTick s) :=
  .ite ((fctr_only 0 1 s).trans (foldl_only pipeTick_only [0, 1, 2, 3] (fctr 0 1 s))) (ctrOnly ..)

theorem levelTick_only (s : State) : OnlyChanges [.ctr] s (levelTick s) := by
  unfold levelTick
  dsimp only
  refine OnlyChanges.trans ?_ (occU_only ..)
  refine OnlyChanges.trans ?_ (occU_only ..)
  refine OnlyChanges.trans ?_ (occU_only ..)
  refine OnlyChanges.trans ?_ (occU_only ..)
  exact (occU_only ..).trans (occU_only ..)

theorem settle_only (s : State) : OnlyChanges [.ctr] s (settle s) := .ite (.refl _ _) (ctrOnly ..)

theorem sampTake_only (n p : Nat) (r : Option Rec) (s : State) : OnlyChanges [.ctr] s (sampTake n p r s) := ctrOnly ..
theorem sampPush_only (r : Rec) (s : State) : OnlyChanges [.ctr] s (sampPush r s) := .ite (.refl _ _) (.ite (ctrOnly ..) (ctrOnly ..))

theorem ovfSample_only (s : State) (x : Nat × Option (Subj × Nat)) : OnlyChanges [.ctr] s (ovfSample s x) := by
  unfold ovfSample
  dsimp only
  refine .ite (ctrOnly ..) (.ite ?_ (.refl _ _))
  split
  · exact sampTake_only ..
  · exact .refl _ _

theorem ovfTick_only (s : State) : OnlyChanges [.ctr, .log, .ints, .d0, .peat] s (ovfTick s) := by
  have f := (foldl_only ovfSample_only s.ctr.ovl s).le [.ctr, .log, .ints, .d0, .peat]
  unfold ovfTick
  dsimp only
  refine .ite f ?_
  refine OnlyChanges.then ?_ (trigger_only ..)
  refine OnlyChanges.then ?_ (notice_only ..)
  exact f.then (raise_only ..)

theorem segTick_only (s : State) : OnlyChanges [.ctr] s (segTick s) := foldl_only (fun _ _ => .ite (sampTake_only ..) (.refl _ _)) _ _

theorem sampTick_only (s : State) : OnlyChanges [.ctr] s (sampTick s) := .ite (.refl _ _) (foldl_only (fun _ _ => sampPush_only ..) _ _)

theorem resetTick_only (s : State) : OnlyChanges [.ctr] s (resetTick s) := ctrOnly ..

/-- What the captures of an SCLK may change. -/
def capParts : List Part := [.ctr, .mbx, .ints, .d0, .d1, .srv]

theorem dumpPump_only (n : Nat) (s : State) : OnlyChanges capParts s (dumpPump n s) := by
  induction n generalizing s with
  | zero => exact .refl _ _
  | succ n ih =>
    unfold dumpPump
    split
    · exact .refl _ _
    · exact .ite (.refl _ _) ((((ctrOnly ..).le capParts).then (ownSend_only ..)).trans (ih _))

theorem capDo_only (c : CapReq) (s : State) : OnlyChanges capParts s (capDo c s) := by
  cases c with
  | read t => exact .ite ((mbxOut_only ..).le _) (.refl _ _)
  | dump => exact ((ctrOnly ..).le _).trans (dumpPump_only 8 _)
  | win r => exact (regAnswer_only ..).mono (by cases r.port <;> decide)

theorem capTick_only (s : State) : OnlyChanges capParts s (capTick s) :=
  ((ctrOnly { s.ctr with caps := [] } s).le _).trans (foldl_only (fun s c => capDo_only c s) s.ctr.caps _)

theorem ctrTick_ends (s : State) : Ends s (ctrTick s) := by
  have a := (slotTick_only s).trans (levelTick_only (slotTick s))
  have b := a.trans (settle_only (levelTick (slotTick s)))
  have c := b.ends.trans (ovfTick_only (settle (levelTick (slotTick s)))).ends
  have d := c.trans (segTick_only (ovfTick (settle (levelTick (slotTick s))))).ends
  have e := d.trans (sampTick_only (segTick (ovfTick (settle (levelTick (slotTick s)))))).ends
  have f := e.trans (capTick_only (sampTick (segTick (ovfTick (settle (levelTick (slotTick s))))))).ends
  exact f.trans (resetTick_only (capTick (sampTick (segTick (ovfTick (settle (levelTick (slotTick s)))))))).ends

/-! #### Trace buffers and ports -/

/-- What the trace buffers may change at the end of an SCLK. -/
def bufParts : List Part := [.peat, .log, .ints, .d0, .srv]

theorem bufSet_only (b : Nat) (x : TBuf) (s : State) : OnlyChanges bufParts s (bufSet b x s) := (peatOnly ..).le _
theorem bufSettle_only (b : Nat) (s : State) : OnlyChanges bufParts s (bufSettle b s) := .ite (bufSet_only ..) (.refl _ _)

theorem bufStop_only (b : Nat) (s : State) : OnlyChanges bufParts s (bufStop b s) := by
  unfold bufStop
  refine .ite (.refl _ _) (OnlyChanges.trans ?_ (bufSettle_only ..))
  exact .ite (((bufSet_only ..).then (notice_only ..)).then (raise_only ..)) (bufSet_only ..)

theorem bufPut_only (b ty : Nat) (body : BitVec 152) (s : State) : OnlyChanges bufParts s (bufPut b ty body s) :=
  .ite ((bufSet_only ..).trans (bufStop_only ..)) (bufSet_only ..)

theorem dropTry_only (b : Nat) (s : State) : OnlyChanges bufParts s (dropTry b s) := by
  unfold dropTry
  dsimp only
  split
  · exact .refl _ _
  · exact .ite ((bufSet_only ..).trans (bufPut_only ..)) (.refl _ _)

theorem bufOffer_only (b ty : Nat) (body : BitVec 152) (s : State) : OnlyChanges bufParts s (bufOffer b ty body s) := by
  have d := dropTry_only b s
  unfold bufOffer
  exact .ite d (.ite d (.ite (d.trans (bufPut_only ..)) (d.trans (bufSet_only ..))))

theorem srvOnly (x : LiveSt) (s : State) : OnlyChanges [.srv] s { s with srv := x } :=
  ⟨fun q hq => by cases q <;> first | rfl | exact absurd (by simp) hq⟩

theorem bufTrigger_only (b src win : Nat) (s : State) : OnlyChanges bufParts s (bufTrigger b src win s) := by
  have h : OnlyChanges bufParts s (if tcHalttrig (tcE s.t b) then { s with srv := { s.srv with halt := true } } else s) :=
    .ite ((srvOnly ..).le _) (.refl _ _)
  unfold bufTrigger
  refine .ite (.refl _ _) (.ite ?_ (h.trans (bufOffer_only ..)))
  exact ((h.trans (dropTry_only ..)).trans (bufSet_only ..)).trans (bufOffer_only ..)

theorem bufScan_only (b : Nat) (s : State) : OnlyChanges bufParts s (bufScan b s) := by
  unfold bufScan
  dsimp only
  have f := (dropTry_only b s).trans (foldl_only (f := fun t v => if tevPasses (tcE s.t b) v then bufOffer b v.type.toNat v.body t else t)
    (fun _ _ => .ite (bufOffer_only ..) (.refl _ _)) (tevOrder (dropTry b s)) (dropTry b s))
  split
  · exact f.trans (bufTrigger_only ..)
  · exact f

theorem peatEnd_ends (s : State) : Ends s (peatEnd s) := by
  have scan : OnlyChanges bufParts s
      (if pdOn s 75 then (List.range 4).foldl (fun s b => if (bufGet s b).st == 0 then s else bufScan b s) s else s) :=
    .ite (foldl_only (f := fun s b => if (bufGet s b).st == 0 then s else bufScan b s) (fun _ _ => .ite (.refl _ _) (bufScan_only ..)) _ _) (.refl _ _)
  exact .ite (.refl _) (scan.trans ((peatOnly ..).le _)).ends

theorem portTick_ends (s : State) : Ends s (portTick s) := by
  unfold portTick
  refine .ite (.refl _) (OnlyChanges.ends (l := [.d0, .d1, .pins]) ⟨fun q hq => ?_⟩)
  cases q <;> first | rfl | exact absurd (by simp) hq

end Sys2Proof.Machine
end

section
namespace Sys2Proof.Machine

-- One declaration after the other: the threads of declarations that wait for one another exhaust the memory that a compile may take.
set_option Elab.async false

/-! ### The instant of a COMMIT (O27: R24, R268, R270) -/

/-- An agent or the lines that forbid a candidate are found in the tables, the array and Sedge. -/
theorem refused_congr {s u : State} (g : u.gen = s.gen) (a : u.arr = s.arr) (h : u.home.sedge = s.home.sedge) (c : Tables) :
    firstRefused [bindBad u c, hashBad u c] = firstRefused [bindBad s c, hashBad s c] := by
  have e : firstRefused [bindBad u c, hashBad u c] =
      firstRefused [bindBad { s with gen := u.gen, arr := u.arr, home := { s.home with sedge := u.home.sedge } } c,
        hashBad { s with gen := u.gen, arr := u.arr, home := { s.home with sedge := u.home.sedge } } c] := rfl
  rw [e, g, a, h]

/-- What the pieces of a new generation may change beside the tables, the array and the datapath's own service. -/
def applyParts : List Part := [.gen, .arr, .srv, .regul, .ctr, .peat]

/-- From `s` to `u` a piece of a new generation has been applied; the generation itself stays, and allocation as it was allowed. -/
structure Applies (s u : State) : Prop where
  frame : OnlyChanges applyParts s u
  live : u.gen.live = s.gen.live
  shadow : u.gen.shadow = s.gen.shadow
  gen : u.gen.gen = s.gen.gen
  alloc : u.srv.allocOff = s.srv.allocOff

theorem Applies.refl (s : State) : Applies s s := ⟨.refl _ _, rfl, rfl, rfl, rfl⟩
theorem Applies.trans {s t u : State} (h : Applies s t) (k : Applies t u) : Applies s u :=
  ⟨h.frame.trans k.frame, k.live.trans h.live, k.shadow.trans h.shadow, k.gen.trans h.gen, k.alloc.trans h.alloc⟩

theorem OnlyChanges.applies {l : List Part} {s u : State} (h : OnlyChanges l s u) (k : l ⊆ [.arr, .regul, .ctr, .peat] := by decide) : Applies s u :=
  have g := h.gen fun x => absurd (k x) (by decide)
  have v := h.srv fun x => absurd (k x) (by decide)
  ⟨h.mono fun _ x => (by decide : [Part.arr, .regul, .ctr, .peat] ⊆ applyParts) (k x), congrArg GenSt.live g, congrArg GenSt.shadow g,
    congrArg GenSt.gen g, congrArg LiveSt.allocOff v⟩

theorem Applies.ite {s t u : State} {c : Prop} [Decidable c] (h : Applies s t) (k : Applies s u) : Applies s (if c then t else u) := by
  split <;> assumption

theorem genOnly (x : GenSt) (s : State) : OnlyChanges [.gen] s { s with gen := x } :=
  ⟨fun q hq => by cases q <;> first | rfl | exact absurd (by simp) hq⟩

theorem applyHash_applies (old : Tables) (s : State) : Applies s (applyHash old s) :=
  .ite (.refl _) ⟨(genOnly ..).le _, rfl, rfl, rfl, rfl⟩

theorem applyPart_applies (old : Tables) (s : State) : Applies s (applyPart old s) := by
  have h : Applies s (if partScrub old = partScrub s.t then s else { s with srv := { s.srv with scrubG := s.clk.ft, scrubK := 0 } }) :=
    .ite (.refl _) ⟨(srvOnly ..).le _, rfl, rfl, rfl, rfl⟩
  unfold applyPart
  refine .ite (h.trans ⟨(genOnly ..).le _, rfl, rfl, rfl, rfl⟩) (.ite (h.trans (arrOnly ..).applies) h)

theorem winRestart_only (s : State) : OnlyChanges [.regul] s (winRestart s) :=
  (regulOnly { s.regul with on := true } s).trans
    (foldl_only (f := fun s c => winStart c s.clk.ft s) (fun _ _ => winStart_only ..) (List.range 16) _)

theorem applyClass_applies (old : Tables) (s : State) : Applies s (applyClass old s) :=
  .ite (winRestart_only s).applies (.ite (winNote_only s).applies (.refl _))

theorem ctrPut_only (n : Nat) (c : Ctr) (s : State) : OnlyChanges [.ctr] s (ctrPut n c s) := ctrOnly ..

theorem applyCtr_applies (old : Tables) (s : State) : Applies s (applyCtr old s) := by
  have f := foldl_only (l := [.ctr]) (f := fun s n =>
    if !entDiff old s.t Tid.ctr n then s
    else
      let s := { s with ctr := { s.ctr with rst := s.ctr.rst ++ [{ n := n, val := 0, zl := false, commit := true }] } }
      if ctPeriod (ctE old n) = ctPeriod (ctE s.t n) then s else ctrPut n { ctrGet s n with p0 := s.clk.ft, pk := 1 } s)
    (fun s n => .ite (.refl _ _) (.ite (ctrOnly _ s) ((ctrOnly _ s).trans (ctrPut_only ..)))) (List.range 64) s
  exact .ite f.applies (f.trans (ctrOnly ..)).applies

theorem bufStart_only (b : Nat) (s : State) : OnlyChanges [.peat] s (bufStart b s) := peatOnly ..
theorem watStart_only (w : Nat) (s : State) : OnlyChanges [.peat] s (watStart w s) := (watSet_only ..).trans (watSet_only ..)

theorem applyPeat_applies (old : Tables) (s : State) : Applies s (applyPeat old s) :=
  ((foldl_only (f := fun s b => if entDiff old s.t Tid.trace b then bufStart b s else s) (fun _ _ => .ite (bufStart_only ..) (.refl _ _)) (List.range 4) s).trans
    (foldl_only (f := fun s w => if entDiff old s.t Tid.watch w then watStart w s else s) (fun _ _ => .ite (watStart_only ..) (.refl _ _)) (List.range 16) _)).applies

/-- What windows that end in the instant's SCLK may change. -/
def winParts : List Part := [.regul, .log, .ints, .d0, .ctr, .peat]

theorem winEnd_only (c : Nat) (s : State) : OnlyChanges winParts s (winEnd c s) := by
  unfold winEnd
  dsimp only
  refine OnlyChanges.then ?_ (winStart_only ..)
  refine .ite ?_ (.refl _ _)
  refine OnlyChanges.then ?_ (trigger_only ..)
  refine OnlyChanges.then ?_ (traceEv_only ..)
  refine OnlyChanges.then ?_ (notice_only ..)
  exact (occ_only ..).le _

theorem genEnd_only (n : Nat) (f : Refused) (s : State) : OnlyChanges [.gen, .ints, .d0] s (genEnd n f s) := by
  unfold genEnd
  exact ((genOnly ..).le _).then (raise_only ..)

theorem genEnd_gen (n : Nat) (f : Refused) (s : State) : (genEnd n f s).gen =
    { s.gen with armed := none, last := BitVec.ofNat 2 n, ftab := BitVec.ofNat 8 f.tab, fcode := BitVec.ofNat 4 f.code,
                 fent := BitVec.ofNat 12 f.ent, gft := s.clk.ft } := (raise_only _ _).gen

/-- A raised cause stands in BRL_INT_STAT. -/
theorem raise_getLsbD (c : Nat) (h : c < 32) (s : State) : (raise c s).ints.stat.getLsbD c = true := by
  rw [raise_stat, BitVec.getLsbD_or, BitVec.getLsbD_ofNat]
  simp [h, Nat.testBit_two_pow_self]

/-- The generation as the instant leaves it: the candidate, whole. -/
structure Applied (a : Armed) (s u : State) : Prop where
  frame : OnlyChanges (.log :: .ints :: .d0 :: applyParts) s u
  live : u.gen.live = a.cand
  shadow : u.gen.shadow = a.cand
  gen : u.gen.gen = a.gen
  armed : u.gen.armed = none
  last : u.gen.last = 0
  gft : u.gen.gft = s.clk.ft
  stat : u.ints.stat.getLsbD Cause.genDone = true
  alloc : u.srv.allocOff = false

theorem genApply_applied (a : Armed) (s : State) : Applied a s (genApply a s) := by
  unfold genApply
  dsimp only
  have w := foldl_only (l := winParts) (f := fun s c => if winDue s c then winEnd c s else s) (fun s c => .ite (winEnd_only c s) (.refl _ _)) (List.range 16) s
  generalize (List.range 16).foldl (fun s c => if winDue s c then winEnd c s else s) s = t at w ⊢
  let v : State := { t with gen := { t.gen with live := a.cand, shadow := a.cand, gen := a.gen }, srv := { t.srv with allocOff := false } }
  have fv : OnlyChanges [.gen, .srv] t v := ⟨fun q hq => by cases q <;> first | rfl | exact absurd (by simp) hq⟩
  have p := (((applyHash_applies t.t v).trans (applyPart_applies t.t _)).trans (applyClass_applies t.t _)).trans
    ((applyCtr_applies t.t _).trans (applyPeat_applies t.t _))
  show Applied a s (genEnd 0 noRefusal (applyPeat t.t (applyCtr t.t (applyClass t.t (applyPart t.t (applyHash t.t v))))))
  generalize applyPeat t.t (applyCtr t.t (applyClass t.t (applyPart t.t (applyHash t.t v)))) = x at p ⊢
  have e := genEnd_only 0 noRefusal x
  have g := genEnd_gen 0 noRefusal x
  have f : OnlyChanges (.log :: .ints :: .d0 :: applyParts) s x := ((w.le _).then fv).then p.frame
  refine ⟨f.then e, ?_, ?_, ?_, ?_, ?_, ?_, raise_getLsbD _ (by decide) _, ?_⟩
  · rw [g]; exact p.live
  · rw [g]; exact p.shadow
  · rw [g]; exact p.gen
  · rw [g]
  · rw [g]; rfl
  · rw [g]; exact congrArg Clock.ft f.clk
  · rw [e.srv]; exact p.alloc

/-! ### The SCLK of the instant goes on -/

/-- What the rest of the SCLK may change. -/
def laterParts : List Part := [.clk, .pins, .life, .pw, .d0, .d1, .regul, .ctr, .log, .ints, .srv, .bad]

/-- From `s` to `u` the SCLK has gone on: FT and the SCLK stand, allocation is as it was allowed, and no cause has fallen. -/
structure Later (s u : State) : Prop where
  frame : OnlyChanges laterParts s u
  ft : u.clk.ft = s.clk.ft
  sclk : u.clk.sclk = s.clk.sclk
  alloc : u.srv.allocOff = s.srv.allocOff
  stat : ∀ c, s.ints.stat.getLsbD c = true → u.ints.stat.getLsbD c = true

theorem Later.refl (s : State) : Later s s := ⟨.refl _ _, rfl, rfl, rfl, fun _ => id⟩
theorem Later.trans {s t u : State} (h : Later s t) (k : Later t u) : Later s u :=
  ⟨h.frame.trans k.frame, k.ft.trans h.ft, k.sclk.trans h.sclk, k.alloc.trans h.alloc, fun c x => k.stat c (h.stat c x)⟩

theorem Later.ite {s t u : State} {c : Prop} [Decidable c] (h : Later s t) (k : Later s u) : Later s (if c then t else u) := by split <;> assumption

theorem Later.foldl {α : Type} {f : State → α → State} (h : ∀ s a, Later s (f s a)) (l : List α) (s : State) : Later s (l.foldl f s) := by
  induction l generalizing s with
  | nil => exact .refl _
  | cons x l ih => exact (h s x).trans (ih _)

theorem OnlyChanges.later {l : List Part} {s u : State} (h : OnlyChanges l s u)
    (k : l ⊆ [.pins, .life, .pw, .d0, .d1, .regul, .ctr, .log, .bad] := by decide) : Later s u :=
  have c := h.clk fun x => absurd (k x) (by decide)
  ⟨h.mono fun _ x => (by decide : [Part.pins, .life, .pw, .d0, .d1, .regul, .ctr, .log, .bad] ⊆ laterParts) (k x), congrArg Clock.ft c,
    congrArg Clock.sclk c, congrArg LiveSt.allocOff (h.srv fun x => absurd (k x) (by decide)),
    fun _ x => (h.ints fun y => absurd (k y) (by decide)).symm ▸ x⟩

theorem raise_later (c : Nat) (s : State) : Later s (raise c s) := by
  have r := raise_only c s
  refine ⟨r.le _, congrArg Clock.ft r.clk, congrArg Clock.sclk r.clk, congrArg LiveSt.allocOff r.srv, fun i h => ?_⟩
  rw [raise_stat, BitVec.getLsbD_or, h, Bool.true_or]

theorem logLater (x : LogSt) (s : State) : Later s { s with log := x } :=
  OnlyChanges.later (l := [.log]) ⟨fun q hq => by cases q <;> first | rfl | exact absurd (by simp) hq⟩

theorem eventLost_later (s : State) : Later s (eventLost s) := (logLater ..).trans (raise_later ..)
theorem evqPush_later (k : Nat) (r : Rec) (s : State) : Later s (evqPush k r s) := .ite (logLater ..) (eventLost_later ..)
theorem notice_later (n : Notice) (s : State) : Later s (notice n s) := .ite (logLater ..) (eventLost_later ..)

theorem errArrive_later (r : Rec) (s : State) : Later s (errArrive r s) := by
  unfold errArrive
  dsimp only
  split
  · refine .ite ((logLater ..).trans (raise_later ..)) (.ite (((logLater ..).trans (evqPush_later ..)).trans (raise_later ..)) ?_)
    exact (logLater ..).trans (raise_later ..)
  · exact ((logLater ..).trans (evqPush_later ..)).trans (raise_later ..)

theorem fatalErr_later (i : ErrInfo) (s : State) : Later s (fatalErr i s) := by
  unfold fatalErr
  refine .ite (notice_later ..) ?_
  refine Later.trans ?_ (errArrive_later ..)
  refine Later.trans ?_ (raise_later ..)
  exact OnlyChanges.later (l := [.pins, .log]) ⟨fun q hq => by cases q <;> first | rfl | exact absurd (by simp) hq⟩

theorem badOnly (x : List Site) (s : State) : OnlyChanges [.bad] s { s with bad := x } :=
  ⟨fun q hq => by cases q <;> first | rfl | exact absurd (by simp) hq⟩

theorem ctlUse_later (x : Site) (j : Option Subj) (s : State) : Later s (ctlUse x j s) :=
  .ite ((badOnly ..).later.trans (fatalErr_later ..)) (.refl _)

theorem tableTick_later (s : State) : Later s (tableTick s) := by
  unfold tableTick
  exact .ite (.refl _) (.foldl (fun _ _ => ctlUse_later ..) _ _)

theorem want_only (n : Nat) (p : Power) (s : State) : OnlyChanges [.pw] s (want n p s) :=
  .ite (.refl _ _) ⟨fun q hq => by cases q <;> first | rfl | exact absurd (by simp) hq⟩

theorem pmTick_later (s : State) : Later s (pmTick s) := by
  have w : OnlyChanges [.pw] s (wantOffs s) :=
    foldl_only (f := fun s n => if pdState s n != .off && !moving s n && offNeeded s n then want n .off s else s)
      (fun _ _ => .ite (want_only ..) (.refl _ _)) _ _
  have r : ∀ t, OnlyChanges [.pw, .pins, .life] t (pmRequest t) := fun t => by
    unfold pmRequest
    split <;> exact ⟨fun q hq => by cases q <;> first | rfl | exact absurd (by simp) hq⟩
  unfold pmTick
  refine .ite (.refl _) (.ite (OnlyChanges.later (l := [.pins]) ⟨fun q hq => ?_⟩) (w.later.trans (r _).later))
  cases q <;> first | rfl | exact absurd (by simp) hq

theorem sendIntr_later (s : State) : Later s (sendIntr s) := by
  have r := sendIntr_only s
  exact ⟨r.le _, congrArg Clock.ft r.clk, congrArg Clock.sclk r.clk, congrArg LiveSt.allocOff r.srv, fun i h => by rw [sendIntr_ints_stat]; exact h⟩

theorem ftFirst_later (s : State) : Later s (ftFirst s) := by
  unfold ftFirst
  refine Later.trans ?_ (winRestart_only _).later
  exact ⟨⟨fun q hq => by cases q <;> first | rfl | exact absurd (by decide) hq⟩, rfl, rfl, rfl, fun _ => id⟩

theorem liveSend_later (k : BitVec 16) (s : State) : Later s (liveSend k s) := by
  unfold liveSend
  exact ((emit_only .d0 _ s).later (by decide)).trans ((emit_only .d1 _ _).later (by decide))

/-- The state as PRESENT rises, before the first LIVE leaves (R345). -/
def risen (s : State) : State :=
  { s with ctr := { CtrSt.reset with caps := s.ctr.caps }, clk := { s.clk with rel := s.clk.sclk }, pw := { s.pw with bring := false },
           d0 := portEnable s.t s.d0, d1 := portEnable s.t s.d1,
           pins := { s.pins with present := true, irdy0 := true, irdy1 := true, liveAt := s.clk.sclk, liveCnt := 1 } }

theorem risen_later (s : State) : Later s (risen s) :=
  ⟨⟨fun q hq => by cases q <;> first | exact absurd (by decide) hq | rfl⟩, rfl, rfl, rfl, fun _ => id⟩

/-- An INTR may leave with the first LIVE. -/
def riseIntr (s : State) : State := if intPending s then sendIntr s else s

theorem presentRise_eq (s : State) : presentRise s =
    if (riseIntr (liveSend 0 (risen s))).clk.ftv then ftFirst (riseIntr (liveSend 0 (risen s))) else riseIntr (liveSend 0 (risen s)) := rfl

theorem presentRise_later (s : State) : Later s (presentRise s) := by
  have h := (risen_later s).trans (liveSend_later 0 (risen s))
  rw [presentRise_eq]
  generalize liveSend 0 (risen s) = t at h ⊢
  have i : Later s (riseIntr t) := .ite (h.trans (sendIntr_later t)) h
  exact .ite (i.trans (ftFirst_later _)) i

theorem presentTry_later (s : State) : Later s (presentTry s) := .ite (presentRise_later s) (.refl s)

/-! ### The tick at the instant -/

/-- The state as its SCLK ends, before time passes. -/
def endOf (s : State) : State := portTick (peatEnd (ctrTick (tallyTick (rptTick (sTick s)))))

theorem endOf_ends (s : State) : Ends s (endOf s) := by
  have a := ((sTick_ends s).trans (rptTick_ends _)).trans (tallyTick_ends (rptTick (sTick s)))
  have b := a.trans (ctrTick_ends (tallyTick (rptTick (sTick s))))
  have c := b.trans (peatEnd_ends (ctrTick (tallyTick (rptTick (sTick s)))))
  exact c.trans (portTick_ends (peatEnd (ctrTick (tallyTick (rptTick (sTick s))))))

theorem tick_eq {s : State} (h : s.pins.porstN = true) : tick s = presentTry (pmTick (tableTick (commitTick (timeTick (endOf s))))) := by
  rw [tick, h]; rfl

/-- What the passing of time may change. -/
theorem timeTick_only (s : State) : OnlyChanges [.clk, .bad, .ints, .log] s (timeTick s) :=
  ⟨fun q hq => by cases q <;> first | rfl | exact absurd (by simp) hq⟩

theorem clockTick_sclk (c : Clock) : (clockTick c).sclk = c.sclk + 1 := by unfold clockTick; split <;> rfl

/-- FT does not fall in a tick, while it is not about to wrap (R26). -/
theorem clockTick_ft {c : Clock} (h : c.ft.toNat + 2 < 2 ^ 64) : (clockTick c).ftv = c.ftv ∧ c.ft ≤ (clockTick c).ft := by
  unfold clockTick
  split
  · refine ⟨rfl, ?_⟩
    dsimp only
    generalize hn : min 2 (min (max (Config.ftStep c.sclk).val (c.bus.toNat + (Config.busStep c.sclk).val - 2 - c.ft.toNat))
      (c.bus.toNat + (Config.busStep c.sclk).val + 2 - c.ft.toNat)) = n
    have n2 : n ≤ 2 := hn ▸ Nat.min_le_left ..
    rw [BitVec.le_def, BitVec.toNat_add, BitVec.toNat_ofNat, Nat.mod_eq_of_lt (show n < 2 ^ 64 by omega), Nat.mod_eq_of_lt (by omega)]
    omega
  · exact ⟨rfl, BitVec.le_refl _⟩

theorem commitDue_timeTick {s t : State} {a : Armed} (c : t.clk = s.clk) (d : commitDue s a = true) (h : s.clk.ft.toNat + 2 < 2 ^ 64) :
    commitDue (timeTick t) a = true := by
  obtain ⟨v, f⟩ := clockTick_ft h
  simp only [commitDue, Bool.and_eq_true, decide_eq_true_eq] at d ⊢
  obtain ⟨d1, d2⟩ := d
  show (clockTick t.clk).ftv = true ∧ a.target ≤ (clockTick t.clk).ft
  rw [c]
  exact ⟨v.trans d1, BitVec.le_trans d2 f⟩

theorem laterTick_later (s : State) : Later s (presentTry (pmTick (tableTick s))) :=
  ((tableTick_later s).trans (pmTick_later _)).trans (presentTry_later _)

/-- The part of the state that neither the end of the SCLK nor the generation's step reaches, as the next SCLK's start finds it. -/
structure Reaches (s y : State) (a : Armed) : Prop where
  gen : y.gen = s.gen
  arr : y.arr = s.arr
  due : commitDue y a = true
  sclk : y.clk.sclk = s.clk.sclk + 1
  refused : firstRefused [bindBad y a.cand, hashBad y a.cand] = firstRefused [bindBad s a.cand, hashBad s a.cand]
  frame : OnlyChanges (.clk :: .home :: endParts) s y

theorem timeTick_reaches {s : State} {a : Armed} (d : commitDue s a = true) (h : s.clk.ft.toNat + 2 < 2 ^ 64) : Reaches s (timeTick (endOf s)) a := by
  have e := endOf_ends s
  have t := timeTick_only (endOf s)
  have f : OnlyChanges (.clk :: .home :: endParts) s (timeTick (endOf s)) := (e.frame.le _).then t
  refine ⟨f.gen, f.arr, commitDue_timeTick e.frame.clk d h, ?_, refused_congr f.gen f.arr ?_ _, f⟩
  · exact (clockTick_sclk _).trans (by rw [e.frame.clk])
  · exact (congrArg HomeSt.sedge t.home).trans e.sedge

theorem exec_commitApply_due {s : State} {a : Armed} (ha : s.gen.armed = some a) (hp : s.pins.porstN = true) (d : commitDue s a = true)
    (h : s.clk.ft.toNat + 2 < 2 ^ 64) :
    exec .commitApply s = .next (presentTry (pmTick (tableTick (genInstant a (timeTick (endOf s)))))) := by
  have r := timeTick_reaches d h
  show execCommitApply s = _
  rw [execCommitApply, ha]
  dsimp only
  rw [d, hp, Bool.and_self, if_pos rfl, tick_eq hp, commitTick, r.gen, ha]
  dsimp only
  rw [r.due, if_pos rfl]

/-- Settles O27: the first SCLK at or past the target of an armed COMMIT starts with the whole candidate, or the COMMIT fails whole. -/
theorem commitTakesEffect : Obligations.CommitTakesEffect := by
  intro s a ha hp
  refine ⟨fun d => ?_, fun d h => ⟨fun n => ?_, fun f n => ?_⟩⟩
  · show execCommitApply s = _
    simp [execCommitApply, ha, d]
  · obtain ⟨-, -, -, sclk, refused, fy⟩ := timeTick_reaches d h
    have e := exec_commitApply_due ha hp d h
    rw [genInstant, refused, n] at e
    dsimp only at e
    have g := genApply_applied a (timeTick (endOf s))
    have l := laterTick_later (genApply a (timeTick (endOf s)))
    have lg := l.frame.gen
    have fu := ((fy.le (.clk :: .home :: .gen :: .arr :: .life :: .pw :: endParts)).then g.frame).then l.frame
    refine ⟨_, e, by rw [lg, g.live], by rw [lg, g.shadow], by rw [lg, g.gen], by rw [lg, g.armed], by rw [lg, g.last], ?_, l.stat _ g.stat,
      l.alloc.trans g.alloc, ?_, fu.same .pending (by decide), fu.mp, fu.same .banks (by decide), fu.same .core (by decide), fu.same .keys (by decide)⟩
    · rw [lg, g.gft, l.ft, g.frame.clk]
    · rw [l.sclk, g.frame.clk, sclk]
  · obtain ⟨gen, -, -, sclk, refused, fy⟩ := timeTick_reaches d h
    have e := exec_commitApply_due ha hp d h
    rw [genInstant, refused, n] at e
    dsimp only at e
    have g := genEnd_only 2 f (timeTick (endOf s))
    have l := laterTick_later (genEnd 2 f (timeTick (endOf s)))
    have fu := ((fy.le (.clk :: .home :: .gen :: .life :: .pw :: endParts)).then g).then l.frame
    refine ⟨_, e, ?_, l.stat _ (raise_getLsbD _ (by decide) _), ?_, fu.same .pending (by decide), fu.arr, fu.mp, fu.same .banks (by decide),
      fu.same .core (by decide), fu.same .keys (by decide)⟩
    · rw [l.frame.gen, genEnd_gen, gen, l.ft, g.clk]
      rfl
    · rw [l.sclk, g.clk, sclk]

end Sys2Proof.Machine
end

section
namespace Sys2Proof.Machine

-- One declaration after the other: the threads of declarations that wait for one another exhaust the memory that a compile may take.
set_option Elab.async false

/-! ### Reads that hit the array (O8) -/

theorem findIn_valid {s : State} {l : LAddr} {x k : Nat} (h : findIn s l x = some k) : (tagGet s k).v = true := by
  obtain ⟨w, hw, rfl⟩ := Option.map_eq_some_iff.mp h
  have e := List.find?_some hw
  simp only [Bool.and_eq_true] at e
  exact e.1.1

/-- The way that holds a line is valid. -/
theorem placeOf_valid {s : State} {l : LAddr} {k : Nat} (h : placeOf s l = .way k) : (tagGet s k).v = true := by
  cases hf : findWay s l with
  | none =>
    rw [placeOf, hf] at h
    dsimp only at h
    split at h
    · cases h
    · split at h <;> cases h
  | some j =>
    rw [placeOf, hf] at h
    cases h
    obtain ⟨x, -, hx⟩ := List.exists_of_findSome?_eq_some hf
    exact findIn_valid hx

/-- A demand hit of a valid way clears PF, and leaves the line (R62, R63), in any store. -/
theorem demandHit_valid (r : Req) {k : Nat} {s : State} (h : (tagGet s k).v = true) :
    LineAt s (demandHit r k s) k { tagGet s k with pf := false } (dataGet s k) := by
  unfold demandHit
  dsimp only
  by_cases e : (tagGet s k).pf = true
  · rw [if_pos e]
    have w : LineAt s (tagSet k { tagGet s k with pf := false } s) k { tagGet s k with pf := false } (dataGet s k) :=
      ⟨sget_sset_self _ _ _ fun z => absurd (congrArg TagE.v z) (by simp [h, TagE.zero]), fun _ hj => sget_sset_ne _ _ _ hj, rfl, fun _ _ => rfl⟩
    exact (w.congr rfl ((occR_only 0x33 r 1 _).arr)).plru _ _
  · rw [if_neg e, show ({ tagGet s k with pf := false } : TagE) = tagGet s k by rw [← Bool.eq_false_iff.mpr e]]
    exact (LineAt.same k rfl).plru _ _

theorem demandHit_data (r : Req) (k : Nat) (s : State) : (demandHit r k s).arr.data = s.arr.data := by
  unfold demandHit
  dsimp only
  split
  · have e := (occR_only 0x33 r 1 (tagSet k { tagGet s k with pf := false } s)).arr
    exact (congrArg ArraySt.data e).trans rfl
  · rfl

/-- What a read of the way at `k` does before its data leaves: a demand hit, counted and watched. -/
structure HitMade (s v : State) (r : Req) (k : Nat) : Prop where
  frame : OnlyChanges [.arr, .regul, .ctr, .peat, .ints, .log, .d0] s v
  arr : v.arr = (demandHit r k s).arr

/-- A read whose line the array holds hits its way (R63). -/
theorem memRead_way {s : State} {r : Req} {k : Nat} (hb : s.bad = []) (hl : placeOf s (hLine r.msg) = .way k) (as_ : ReadAs) :
    ∃ v, memRead r as_ s = .done (readEnd r as_ (dataGet s k) (tagGet s k).poi v) ∧ HitMade s v r k := by
  have served : ∀ n, HitMade s (readAcc r (dataGet s k) (addServed r n (occR 0x20 r 1 (demandHit r k s)))) r k := by
    intro n
    have c := ((occR_only 0x20 r 1 (demandHit r k s)).le [.regul, .ctr, .peat, .ints, .log, .d0]).then (addServed_only r n _)
    have f := c.then (watchAcc_only (accReq r (spanLen r.msg) 0 (dataGet s k)) _)
    exact ⟨((demandHit_only r k s).le _).then f, f.arr⟩
  have f : ∀ n, OnlyChanges [.regul, .ctr] (demandHit r k s) (addServed r n (occR 0x20 r 1 (demandHit r k s))) :=
    fun n => ((occR_only ..).le _).then (addServed_only ..)
  have w := demandHit_valid r (placeOf_valid hl)
  refine ⟨_, ?_, served (match as_ with | .plain => spanLen r.msg | .coh _ _ => if hOpcode r.msg == Op.upgrade then 0 else 128)⟩
  simp only [memRead, lookCheck_clean _ _ s hb, hl, wayCheck_clean _ _ s hb, Bool.false_eq_true, if_false]
  rw [dataGet_arr (f _).arr, tagGet_arr (f _).arr, w.tag, w.data]
  rfl

section
variable {s : State} {r : Req} {k : Nat}

theorem HitMade.line {v : State} (h : HitMade s v r k) (hv : (tagGet s k).v = true) :
    LineAt s v k { tagGet s k with pf := false } (dataGet s k) := (demandHit_valid r hv).congr rfl h.arr

theorem HitMade.data {v : State} (h : HitMade s v r k) : v.arr.data = s.arr.data :=
  (congrArg ArraySt.data h.arr).trans (demandHit_data r k s)

end

/-- Settles O8: the read hits the way of its line, and its answer leaves with what the way holds. -/
theorem readHit : Obligations.ReadHit := by
  intro c s r k ht hl
  obtain ⟨op, ho, ht⟩ : ∃ op, (op = Op.rd ∨ op = Op.rdOnce) ∧ TakesMem s c r op := by
    rcases ht with h | h
    · exact ⟨_, .inl rfl, h⟩
    · exact ⟨_, .inr rfl, h⟩
  obtain ⟨u, hu, s', q, hs⟩ := exec_takesMem ht (by rcases ho with h | h <;> simp [Ungated, h])
  have qb := q.frame.bad.trans ht.clean
  have ql := (q.placeOf _).trans hl
  obtain ⟨v, ev, hv⟩ := memRead_way qb ql .plain
  rw [← memAccess_rd (ht.opcode ▸ ho)] at ev
  have a := deliverRead_acts (s := v) ht.takes.1 0 (dataGet s' k) (tagGet s' k).poi
  obtain ⟨o, an, eb⟩ := deliverRead_answers (s := v) ht.takes.1 0 (dataGet s' k) (tagGet s' k).poi
  obtain ⟨au, g⟩ := hs _ ev (a.frame.bad.trans (hv.frame.bad.trans qb))
  have e := (au.frame.arr.trans a.frame.arr)
  have w := (hv.line (placeOf_valid ql)).congr q.frame.arr.symm e
  obtain ⟨o', an', e'⟩ := an.carry g
  rw [q.tagGet] at w an'
  have f : Acts [.arr] s u := (((q.le _).then (hv.frame.acts [.arr])).then a).then au
  exact ⟨u, o', hu, an', by rw [e', eb, dataGet_arr q.frame.arr], (congrArg ArraySt.data e).trans (hv.data.trans (congrArg _ q.frame.arr)), w.tag, w.tags,
    f.home, f.frame⟩

end Sys2Proof.Machine
end

section
namespace Sys2Proof.Machine

-- One declaration after the other: the threads of declarations that wait for one another exhaust the memory that a compile may take.
set_option Elab.async false

/-! ### Clove operations that hit the array (O10) -/

/-- The tag of a way, not poisoned, after a Clove operation that finds tag `e` (R62, Table 3.6). -/
def opTag (r : Req) (e : TagE) : TagE := { e with pf := false, d := e.d || r.attr.wpol != 2 }

/-- The M port after a Clove operation on a way with tag `e` has left bytes `m` of line `d`: in a WTHRU region they wait to leave (R73). -/
def opMem (r : Req) (e : TagE) (d : Line) (m : Mask) (x : MPort) : MPort :=
  if r.attr.wpol = 2 ∧ m ≠ 0 then
    { x with wseq := x.wseq + 1,
             writes := x.writes ++ [(x.wseq, .wthru (hLine r.msg) d (if e.sealed then fullMask else m) false e.sealed e.qc e.tc)] }
  else x

/-- The result of a Clove operation enters the way at `k`, whose tag it found to be `e`. -/
def opLeaves (r : Req) (k : Nat) (e : TagE) (d : Line) (m : Mask) (s : State) : State :=
  let s := dataPut k d m (tagSet k { e with d := e.d || (!(r.attr.wpol == 2) && !e.poi) } s)
  if r.attr.wpol == 2 && m != 0 then sendThru r d m e.poi e.sealed e.qc e.tc s else s

theorem opLeaves_spec (r : Req) (k : Nat) (d : Line) (m : Mask) {e : TagE} {s : State} (hb : s.bad = []) (hw : ArrWf s) (hp : e.poi = false) :
    OnlyChanges [.arr, .mp] s (opLeaves r k e d m s) ∧
    LineAt s (opLeaves r k e d m s) k { e with d := e.d || r.attr.wpol != 2 } (lineMerge (dataGet s k) d m) ∧
    (opLeaves r k e d m s).mp = opMem r e d m s.mp := by
  have w := putLine_lineAt hw k { e with d := e.d || r.attr.wpol != 2 } d m
  have o : OnlyChanges [.arr] s (dataPut k d m (tagSet k { e with d := e.d || r.attr.wpol != 2 } s)) := (tagSet_only ..).trans (dataPut_only _ _ _ _ hb)
  have x : (!(r.attr.wpol == 2) && !e.poi) = (r.attr.wpol != 2) := by rw [hp, Bool.not_false, Bool.and_true]; rfl
  unfold opLeaves opMem
  dsimp only
  rw [x]
  by_cases h : r.attr.wpol = 2 ∧ m ≠ 0
  · rw [if_pos (by simpa using h), if_pos h]
    refine ⟨(o.le _).then (mpOnly ..), w.congr rfl rfl, ?_⟩
    rw [hp]
    rfl
  · rw [if_neg (by simpa using h), if_neg h]
    exact ⟨o.le _, w, rfl⟩

/-- A Clove operation that hits the way at `k`, not poisoned, acts on its line in its step (R126, R130). -/
theorem memOp_way {s : State} {r : Req} {k : Nat} (hr : r.src = .port) (hb : s.bad = []) (hw : StoreWf s) (hl : placeOf s (hLine r.msg) = .way k)
    (hp : (tagGet s k).poi = false) : ∃ t, memOp r s = .done t ∧ Acts [.arr, .mp, .tal] s t ∧
    Completed s t r (maskCount (applyOp r.msg (dataGet s k)).2.2.2) St.ok (retVal r.msg (applyOp r.msg (dataGet s k)).2.1 % 2 ^ 64) ∧
    LineAt s t k (opTag r (tagGet s k)) (lineMerge (dataGet s k) (applyOp r.msg (dataGet s k)).1 (applyOp r.msg (dataGet s k)).2.2.2) ∧
    t.mp = opMem r (tagGet s k) (applyOp r.msg (dataGet s k)).1 (applyOp r.msg (dataGet s k)).2.2.2 s.mp := by
  let x := applyOp r.msg (dataGet s k)
  let e := { tagGet s k with pf := false }
  let s1 := countServed r 0x22 (demandHit r k s)
  have o1 : OnlyChanges [.arr, .regul, .ctr] s s1 := ((demandHit_only r k s).le _).then (countServed_only ..)
  have a1 : s1.arr = (demandHit r k s).arr := (countServed_only r 0x22 _).arr
  have l1 : LineAt s s1 k e (dataGet s k) := (demandHit_lineAt r k hw.arr).congr rfl a1
  have b1 := o1.bad.trans hb
  let s2 := (opOn r 0 (dataGet s k) false true s1).2.2
  have o2 : Acts [.tal] s1 s2 := opOn_acts hr b1 0 (dataGet s k) true
  have d2 : Completed s1 s2 r (maskCount x.2.2.2) St.ok (retVal r.msg x.2.1 % 2 ^ 64) := opOn_completed hr b1 (o1.tal ▸ hw.tal) 0 (dataGet s k) true
  have l2 : LineAt s s2 k e (dataGet s k) := l1.congr rfl o2.frame.arr
  obtain ⟨o3, l3, m3⟩ := opLeaves_spec r k x.1 x.2.2.2 (e := e) (o2.frame.bad.trans b1) ((demandHit_wf r k hw.arr).of_arr (o2.frame.arr.trans a1)) hp
  rw [l2.data] at l3
  rw [o2.frame.mp, o1.mp] at m3
  refine ⟨opLeaves r k e x.1 x.2.2.2 s2, ?_, ((o1.acts [.arr, .mp, .tal]).then o2).andThen o3, d2.wrap o1.tal.symm o3.tal o3.sameLast, l2.trans l3, m3⟩
  have f : memOp r s = .done (opLeaves r k (tagGet s1 k) (opOn r 0 (dataGet s1 k) (tagGet s1 k).poi true s1).1
      (opOn r 0 (dataGet s1 k) (tagGet s1 k).poi true s1).2.1 (opOn r 0 (dataGet s1 k) (tagGet s1 k).poi true s1).2.2) := by
    simp only [memOp, lookCheck_clean _ _ s hb, hl, wayCheck_clean _ _ s hb]
    rfl
  rw [f, l1.tag, l1.data, show e.poi = false from hp]
  rfl

/-- Settles O10: the operation acts on the way of its line, and completes with its bytes in the tally and the old value. -/
theorem cloveHit : Obligations.CloveHit := by
  intro c s r k ht hpoi hc hl hp
  obtain ⟨op, ho, ht⟩ : ∃ op, (op = Op.red ∨ op = Op.atom) ∧ TakesMem s c r op := by
    rcases ht with h | h
    · exact ⟨_, .inl rfl, h⟩
    · exact ⟨_, .inr rfl, h⟩
  obtain ⟨u, hu, s', q, hs⟩ := exec_takesMem ht (by rcases ho with h | h <;> simp [Ungated, h])
  have qb := q.frame.bad.trans ht.clean
  obtain ⟨t, et, a, d, w, m⟩ := memOp_way ht.takes.1 qb (q.storeWf hc.storeWf) ((q.placeOf _).trans hl) (by rw [q.tagGet]; exact hp)
  obtain ⟨au, g⟩ := hs t (memAccess_op hpoi (ht.opcode ▸ ho) et) (a.frame.bad.trans qb)
  rw [dataGet_arr q.frame.arr] at d w m
  rw [q.tagGet] at w m
  rw [q.frame.mp] at m
  obtain ⟨tal, o, an, res⟩ := d.wrap q.frame.tal.symm au.frame.tal g
  have w' := w.congr q.frame.arr.symm au.frame.arr
  have f := ((q.le _).trans a).then au
  have m' := au.frame.mp.trans m
  refine ⟨u, o, hu, w'.data, w'.datas, w'.tag, w'.tags, tal, an, res, ?_, ?_, fun n => ?_, f.home, f.frame⟩
  · rw [m', opMem]; split <;> rfl
  · rw [m', opMem]; split <;> rfl
  · rw [m', opMem, if_neg fun x => n x.1]

end Sys2Proof.Machine
end

section
namespace Sys2Proof.Machine

-- One declaration after the other: the threads of declarations that wait for one another exhaust the memory that a compile may take.
set_option Elab.async false

/-! ### Mace submissions (O34: R49, R145, R37) -/

/-- While fewer than `n` numbers are in use, the lowest number that none uses is below `n`. -/
theorem lowest_free {α : Type} (f : α → Nat) {l : List α} {n : Nat} (h : l.length < n) :
    (lowest n fun i => l.all fun x => decide (f x ≠ i)).getD 0 < n ∧ ∀ x ∈ l, f x ≠ (lowest n fun i => l.all fun x => decide (f x ≠ i)).getD 0 := by
  cases e : lowest n fun i => l.all fun x => decide (f x ≠ i) with
  | some i =>
    have a := List.find?_some e
    simp only [List.all_eq_true, decide_eq_true_eq] at a
    exact ⟨List.mem_range.mp (List.mem_of_find?_eq_some e), a⟩
  | none =>
    have all : ∀ i < n, ∃ x ∈ l, f x = i := by simpa [lowest] using e
    have sub : List.range n ⊆ l.map f := fun i hi => List.mem_map.mpr (all i (List.mem_range.mp hi))
    have le := (List.subperm_of_subset List.nodup_range sub).length_le
    rw [List.length_range, List.length_map] at le
    exact absurd h (Nat.not_lt.mpr le)

/-- The prefetcher trains with reads alone (R79). -/
theorem train_other {r : Req} (h : hOpcode r.msg ≠ Op.rd ∧ hOpcode r.msg ≠ Op.rdOnce) (s : State) : train r s = s := by
  simp [train, h]

theorem portPick_untrained (p : DPort) (i : Nat) (g : Ing) (f : Bool) (s : State) (h : hOpcode g.req.msg ≠ Op.rd ∧ hOpcode g.req.msg ≠ Op.rdOnce) :
    OnlyChanges [portPart p, .ctr] s (portPick p i g f s) := by
  have k : OnlyChanges [portPart p, .ctr] s (if f then occR 0xA3 g.req 1 s else portSet p { portGet s p with rrPick := g.req.qc } s) :=
    .ite ((occR_only ..).mono (by simp)) ((portSet_only ..).mono (by simp))
  refine k.trans (.ite (.refl _ _) ?_)
  rw [train_other h]
  exact (portSet_only ..).mono (by simp)

/-- What MACE_SUB leaves in a free slot (R145). -/
def descOf (s : State) (r : Req) : Desc where
  slot := (lowest 8 fun i => s.mace.descs.all (·.slot ≠ i)).getD 0
  req := r
  d := msgTwo r.msg
  idx := []
  k := 0
  rowOff := 0
  infl := []
  nextId := 0
  rows := []
  faults := 0
  done := 0
  pads := 0
  firstK := none
  fkind := 0
  fstat := 0
  stopped := false
  ending := false
  endFt := 0

theorem maceOnly (x : MaceSt) (s : State) : OnlyChanges [.mace] s { s with mace := x } :=
  ⟨fun q hq => by cases q <;> first | rfl | exact absurd (by simp) hq⟩

/-- A MACE_SUB is answered, and its entry frees, whatever the slots hold. -/
theorem exec_maceSub {p : DPort} {s : State} {r : Req} (hs : Presents s (dport p) r) (ho : hOpcode r.msg = Op.maceSub) :
    ∃ i s', OnlyChanges [portPart p, .ctr] s s' ∧ exec (.maceSub p) s = .next (popIng p i (
      if 8 ≤ s'.mace.descs.length then compTo (dport p) r.msg (subjReq r) St.retry 0 (occR 0x14 r 1 s')
      else compTo (dport p) r.msg (subjReq r) St.ok 0 (occR 0x70 r 1 { s' with mace := { s'.mace with descs := s'.mace.descs ++ [descOf s' r] } }))) := by
  have hq := hs.1
  obtain ⟨i, g, fl, hx, rfl⟩ : ∃ i g fl, selectReq s p = some (i, g, fl) ∧ g.req = r := by
    cases p <;> (obtain ⟨-, -, ⟨i, g, fl⟩, hx, e⟩ := hs; exact ⟨i, g, fl, hx, e⟩)
  refine ⟨i, portPick p i g fl s, portPick_untrained p i g fl s (by rw [ho]; decide), congrArg Host.Outcome.next ?_⟩
  simp only [portPass, hx, ho, ne_eq, not_true_eq_false, if_false, hq]
  by_cases h : 8 ≤ (portPick p i g fl s).mace.descs.length
  · simp only [h, if_true]
  · simp only [h, if_false]
    rfl

theorem maceSubmitted : MaceSubmitted := by
  intro p s r hs hr ho
  obtain ⟨i, s', q, run⟩ := exec_maceSub hs ho
  have qm : s'.mace = s.mace := q.same .mace portPart_ctr
  refine ⟨fun h => ?_, fun h => ?_⟩
  · obtain ⟨low, free⟩ := lowest_free Desc.slot h
    let x : State := { s' with mace := { s'.mace with descs := s'.mace.descs ++ [descOf s' r] } }
    obtain ⟨f, o, a, -⟩ := passComp ((occR_only 0x70 r 1 x).mono (by simp)) r.msg (subjReq r) (p := p) (st := St.ok) (by decide) 0 i
    rw [if_neg (by rw [qm]; exact Nat.not_le.mpr h)] at run
    have slot : (descOf s' r).slot = (lowest 8 fun i => s.mace.descs.all (·.slot ≠ i)).getD 0 := by rw [descOf, qm]
    have g : OnlyChanges [portPart p, .mace, .ctr] s x := (q.mono (by simp)).trans ((maceOnly _ s').mono (by simp))
    refine ⟨_, o, descOf s' r, run, a, ?_, slot ▸ low, slot ▸ free, rfl, rfl, rfl, rfl, rfl, rfl, g.trans (f.mono (by simp))⟩
    rw [f.same .mace portPart_ctr, ← qm]
  · obtain ⟨f, o, a, -⟩ := passComp (q.trans ((occR_only 0x14 r 1 s').mono (by simp))) r.msg (subjReq r) (st := St.retry) (by decide) 0 i
    rw [if_pos (by rw [qm]; exact h)] at run
    exact ⟨_, o, run, a, f⟩

/-! ### The index stream (O34: R148, R150) -/

theorem lmod_same {α : Type} {p : α → Bool} {f : α → α} {l : List α} (h : ∀ x ∈ l, p x = true → f x = x) : lmod p f l = l := by
  refine (List.map_congr_left fun x hx => ?_).trans (List.map_id l)
  by_cases e : p x = true
  · rw [if_pos e, h x hx e, id]
  · rw [if_neg e, id]

theorem descMod_only (i : Nat) (f : Desc → Desc) (s : State) : OnlyChanges [.mace] s (descMod i f s) := maceOnly ..

section
variable {s : State} {d : Desc} (h : ActiveDesc s d)
include h

/-- A change of the only descriptor of a slot is told of that descriptor. -/
theorem ActiveDesc.lmod_eq (f : Desc → Desc) :
    lmod (·.slot = d.slot) f s.mace.descs = lmod (·.slot = d.slot) (fun _ => f d) s.mace.descs :=
  lmod_congr fun x hx e => by rw [h.only x hx (of_decide_eq_true e)]

/-- A descriptor with no element in flight and no row open is tidy. -/
theorem ActiveDesc.tidy_eq (hi : d.infl = []) (hw : d.rows = []) : tidy d.slot s = s := by
  have e : elemFaults d.slot s = s := by simp [elemFaults, h.found, hi]
  rw [tidy, e, descMod]
  dsimp only
  rw [lmod_same fun x hx e => ?_]
  rw [h.only x hx (of_decide_eq_true e)]
  obtain ⟨slot, req, dd, idx, k, ro, infl, nx, rows, fa, dn, pa, fk, fkd, fs, st, en, ef⟩ := d
  subst hi hw
  rfl

/-- The index line that a descriptor holds or awaits as `v`. -/
theorem ActiveDesc.setIdx_mace (j : Nat) (v : IdxSt) :
    (setIdx_ d.slot j v s).mace = { s.mace with descs := lmod (·.slot = d.slot) (fun _ => idxPut d j v) s.mace.descs } :=
  congrArg (fun l => ({ s.mace with descs := l } : MaceSt)) (h.lmod_eq _)

end

/-- The fields of a RD of a whole line of the slice's own (R88). -/
theorem ownRead_spec (j : Nat) (hj : 128 * j < 2 ^ 44) (k : OwnKind) (s : State) : ∃ o,
    (ownRead (BitVec.ofNat 37 j) k s).d0 = { s.d0 with out := s.d0.out ++ [o] } ∧ hOpcode o.msg = Op.rd ∧ hAddr o.msg = 128 * j ∧
      hLen o.msg = 128 ∧ hTxid o.msg = s.srv.ownTx.toNat := by
  have a : (BitVec.ofNat 37 j).toNat * 128 % 2 ^ 44 = 128 * j := by rw [BitVec.toNat_ofNat]; omega
  refine ⟨_, rfl, ?_, ?_, ?_, ?_⟩
  · exact fld_pack (v := Op.rd) (by simp) (by simp) (by decide)
  · exact (fld_pack (v := (BitVec.ofNat 37 j).toNat * 128) (by simp) (by simp) (by decide)).trans a
  · exact fld_pack (v := 128) (by simp) (by simp) (by decide)
  · exact (fld_pack (v := s.srv.ownTx.toNat) (by simp) (by simp) (by decide)).trans (Nat.mod_eq_of_lt s.srv.ownTx.isLt)

theorem indexRead_reads {s : State} {d : Desc} (h : ActiveDesc s d) (hsp : Md.ispace d.n = false) (hi : d.idx.length < 8) (hk : d.k < Md.count d.n)
    (hl : idxNext d ≤ (Md.ibase d.n + (Md.count d.n - 1) * Md.iwBytes d.n) / 128) (ha : 128 * idxNext d < 2 ^ 44)
    (hm : memPermits s (if idxNext d = idxFirst d then Md.ibase d.n + d.k * Md.iwBytes d.n else 128 * idxNext d) d.req.tc.toNat false = true) :
    indexRead d.slot s = ownRead (BitVec.ofNat 37 (idxNext d)) (.maceIdx d.slot (idxNext d)) (setIdx_ d.slot (idxNext d) .wait s) := by
  have next : d.idx.foldl (fun a x => max a (x.1 + 1)) ((Md.ibase d.n + d.k * Md.iwBytes d.n) / 128) = idxNext d := rfl
  have first : (Md.ibase d.n + d.k * Md.iwBytes d.n) / 128 = idxFirst d := rfl
  unfold indexRead
  rw [h.found]
  dsimp only
  rw [ctlUse_clean _ _ s h.clean, next, first, hm, hsp, h.goes, h.runs, if_neg (by simp; omega), if_neg (by decide), if_neg (by simp; omega)]

theorem maceIndexRead : MaceIndexRead := by
  refine ⟨fun i s d h hs hf hw hsp hi hk hl ha hm => ?_, fun tx st x s d j ho h hj => ?_⟩
  · obtain ⟨o, out, op, ad, ln, tx⟩ := ownRead_spec (idxNext d) ha (.maceIdx d.slot (idxNext d)) (setIdx_ d.slot (idxNext d) .wait s)
    have run : exec (.maceIndexRead i) s = .next (ownRead (BitVec.ofNat 37 (idxNext d)) (.maceIdx d.slot (idxNext d)) (setIdx_ d.slot (idxNext d) .wait s)) := by
      show Host.Outcome.next (indexRead i.val (tidy i.val s)) = _
      rw [← hs, h.tidy_eq hf hw, indexRead_reads h hsp hi hk hl ha hm]
    refine ⟨_, o, run, out, op, ad, ln, tx, by rw [← hs]; rfl, ?_, ((descMod_only ..).le _).then (ownSend_only ..)⟩
    rw [← hs]
    exact h.setIdx_mace (idxNext d) .wait
  · have any : (d.idx.any fun i => i.1 == j && i.2 == IdxSt.wait) = true := List.any_eq_true.mpr ⟨_, hj, by simp⟩
    have run : exec (.maceIndexResponse tx st x) s = .next (setIdx_ d.slot j (if st = 0 then .held x else .bad st) (ownDrop tx s)) := by
      show execMaceIndexResponse tx st x s = _
      have f : descFind (ownDrop tx s) d.slot = some d := h.found
      simp only [execMaceIndexResponse, ho, f, any, if_true]
    have h' : ActiveDesc (ownDrop tx s) d := ⟨h.found, h.only, h.goes, h.runs, h.clean⟩
    exact ⟨_, run, rfl, h'.setIdx_mace j _, ((ownDrop_only tx s).le _).then (descMod_only ..)⟩

/-- Settles O34: MACE_SUB takes a slot that none uses or is refused, and the next index line is read ahead. -/
theorem maceStarts : Obligations.MaceStarts := ⟨maceSubmitted, maceIndexRead⟩

end Sys2Proof.Machine
end

section
namespace Sys2Proof.Machine

-- One declaration after the other: the threads of declarations that wait for one another exhaust the memory that a compile may take.
set_option Elab.async false

/-! ### Messages that the slice sinks, and TEMP_RPT (O20: R29, R51, R186, R375) -/

theorem fctr_occ (k n : Nat) (s : State) : (fctr k n s).ctr.occ = s.ctr.occ := by
  unfold fctr
  split <;> rfl

/-- An occurrence that is counted as nothing's. -/
theorem occU_occ {e n : Nat} {s : State} (hn : n ≠ 0) (h : pdOn s 76 = true) :
    (occU e n s).ctr.occ = s.ctr.occ ++ [{ ev := BitVec.ofNat 8 e, kind := .u, subj := subjNone, n := n, ord := 7 }] := by
  simp [occU, occ, occAt, hn, h]

theorem otherMessages : OtherMessages := by
  refine ⟨fun p m s hp ha hb hn ho => ?_, fun p m s hp hv hr ha ht ho => ?_, fun p m s hp ho hv => ?_⟩
  · have c : OnlyChanges [.ctr] s (useSlot (pipeOf s (hLine m)) false none (recvBeats m s)) := (recvBeats_only m s).trans (useSlot_only ..)
    refine ⟨occU 0x89 1 (useSlot (pipeOf s (hLine m)) false none (recvBeats m s)), ?_, ?_, c.trans (occU_only ..)⟩
    · show execUnmatchedAnswer p m s = _
      simp only [execUnmatchedAnswer, hp, ha, hb, hn, Option.isNone_none, Bool.and_self, if_true]
    · rw [occU_occ Nat.one_ne_zero (by rw [pdOn_pw (c.same .pw (by decide)), ho])]
      exact congrArg (· ++ _) (fctr_occ ..)
  · have c := recvBeats_only m s
    refine ⟨occU 0x89 1 (recvBeats m s), ?_, ?_, c.trans (occU_only ..)⟩
    · show execUnexpectedMessage p m s = _
      have t : (hOpcode m == Op.tempRpt && hVc m == Vc.ctl) = false := by simpa using ht
      simp [execUnexpectedMessage, hp, hv, hr, ha, t]
    · rw [occU_occ Nat.one_ne_zero (by rw [pdOn_pw (c.same .pw (by decide)), ho])]
      exact congrArg (· ++ _) (fctr_occ ..)
  · have c := recvBeats_only m s
    have run : exec (.tempRpt p m) s = .next (if m.beats.isEmpty then
        { recvBeats m s with regul := { (recvBeats m s).regul with rpts := (recvBeats m s).regul.rpts ++ [(p, m)] } } else recvBeats m s) := by
      show execTempRpt p m s = _
      simp only [execTempRpt, hp, ho, hv, beq_self_eq_true, Bool.and_self, if_true]
    have r : (recvBeats m s).regul = s.regul := c.same .regul (by decide)
    by_cases b : m.beats = []
    · rw [b, List.isEmpty_nil, if_pos rfl, r] at run
      exact ⟨_, run, by rw [if_pos b], (c.le _).then (regulOnly ..)⟩
    · rw [if_neg (by simpa using b)] at run
      exact ⟨_, run, by rw [if_neg b, r], c.le _⟩

end Sys2Proof.Machine
end

section
namespace Sys2Proof.Machine

-- One declaration after the other: the threads of declarations that wait for one another exhaust the memory that a compile may take.
set_option Elab.async false

/-! ### Messages and notices that only join those that wait -/

/-- From `s` to `u` no message that waits for egress and no notice has been taken away, and the chip keeps its ID. -/
structure Adds (s u : State) : Prop where
  chip : u.pins.chipId = s.pins.chipId
  notices : s.log.notices.length ≤ u.log.notices.length
  out : ∀ p o, o ∈ outOf s p → o ∈ outOf u p

theorem Adds.refl (s : State) : Adds s s := ⟨rfl, le_rfl, fun _ _ => id⟩
theorem Adds.trans {s t u : State} (h : Adds s t) (k : Adds t u) : Adds s u :=
  ⟨k.chip.trans h.chip, h.notices.trans k.notices, fun p o m => k.out p o (h.out p o m)⟩

theorem Adds.ite {s t u : State} {c : Prop} [Decidable c] (h : Adds s t) (k : Adds s u) : Adds s (if c then t else u) := by split <;> assumption

theorem Adds.foldl {α : Type} {f : State → α → State} (h : ∀ s a, Adds s (f s a)) (l : List α) (s : State) : Adds s (l.foldl f s) := by
  induction l generalizing s with
  | nil => exact .refl _
  | cons x l ih => exact (h s x).trans (ih _)

/-- What leaves the ports, the pins and the log alone takes no message away. -/
theorem OnlyChanges.adds {l : List Part} {s u : State} (h : OnlyChanges l s u)
    (k : ∀ p ∈ [Part.pins, .log, .d0, .d1, .sout], p ∉ l := by decide) : Adds s u :=
  ⟨by rw [h.pins (k _ (by simp))], by rw [h.log (k _ (by simp))], fun p o m => by
    rw [h.out p (k _ (by cases p <;> simp [outPart]))]; exact m⟩

theorem emit_adds (p : Port) (o : Out) (s : State) : Adds s (emit p o s) := by
  refine ⟨by cases p <;> rfl, by cases p <;> exact le_rfl, fun q x m => ?_⟩
  cases p <;> cases q <;> first | exact m | exact List.mem_append_left _ m

theorem emit_mem (p : Port) (o : Out) (s : State) : o ∈ outOf (emit p o s) p := by
  rw [emit_out]
  exact List.mem_append_right _ (List.mem_singleton_self o)

theorem log_adds {x : LogSt} {s : State} (h : s.log.notices.length ≤ x.notices.length) : Adds s { s with log := x } :=
  ⟨rfl, h, fun p _ m => by cases p <;> exact m⟩

theorem ints_adds (x : Ints) (s : State) : Adds s { s with ints := x } := ⟨rfl, le_rfl, fun p _ m => by cases p <;> exact m⟩

theorem sendIntr_adds (s : State) : Adds s (sendIntr s) := .ite ((ints_adds ..).trans (emit_adds ..)) (.refl _)

theorem setInts_adds (i : Ints) (s : State) : Adds s (setInts i s) := .ite ((ints_adds ..).trans (sendIntr_adds _)) (ints_adds ..)

theorem raise_adds (c : Nat) (s : State) : Adds s (raise c s) := setInts_adds ..
theorem eventLost_adds (s : State) : Adds s (eventLost s) := (log_adds (by exact le_rfl)).trans (raise_adds ..)
theorem evqPush_adds (k : Nat) (r : Rec) (s : State) : Adds s (evqPush k r s) := .ite (log_adds (by exact le_rfl)) (eventLost_adds s)
theorem notice_adds (n : Notice) (s : State) : Adds s (notice n s) := .ite (log_adds (by simp)) (eventLost_adds s)
theorem logErr_adds (i : ErrInfo) (s : State) : Adds s (logErr i s) := notice_adds ..

theorem errArrive_adds (r : Rec) (s : State) : Adds s (errArrive r s) := by
  unfold errArrive
  dsimp only
  split
  · exact .ite ((log_adds (by exact le_rfl)).trans (raise_adds ..))
      (.ite (((log_adds (by exact le_rfl)).trans (evqPush_adds ..)).trans (raise_adds ..)) ((log_adds (by exact le_rfl)).trans (raise_adds ..)))
  · exact ((log_adds (by exact le_rfl)).trans (evqPush_adds ..)).trans (raise_adds ..)

theorem fatal_adds (x : Pins) (l : LogSt) (s : State) (hx : x.chipId = s.pins.chipId) (hl : s.log.notices.length ≤ l.notices.length) :
    Adds s { s with pins := x, log := l } := ⟨hx, hl, fun p _ m => by cases p <;> exact m⟩

theorem fatalErr_adds (i : ErrInfo) (s : State) : Adds s (fatalErr i s) :=
  .ite (notice_adds ..) (((fatal_adds _ _ s (by exact rfl) (by exact le_rfl)).trans (raise_adds ..)).trans (errArrive_adds ..))

theorem respond_adds (p : Port) (m : Msg) (j : Subj) (x : Rsp) (s : State) : Adds s (respond p m j x s) := emit_adds ..

/-- A response is made of its message and the chip's ID alone. -/
theorem Adds.rspMsg {s u : State} (h : Adds s u) (p : Port) (m : Msg) (x : Rsp) : rspMsg u p m x = rspMsg s p m x := by
  rw [Machine.rspMsg, Machine.rspMsg, chipN, chipN, h.chip]

/-- A notice that finds room is one more. -/
theorem notice_grows (n : Notice) {s : State} (h : s.log.notices.length < 64) : s.log.notices.length < (notice n s).log.notices.length := by
  rw [notice_room n s h]
  simp

/-! ### Requests refused after their ingress (R185, R199) -/

theorem reqFail_only (r : Req) (st : Nat) (s : State) : OnlyChanges [.mace, .d0, .d1, .sout] s (reqFail r st s) := by
  unfold reqFail
  split
  · exact (maceOnly ..).le _
  · exact .refl _ _
  · exact .refl _ _
  · exact (compTo_any ..).le _

theorem reqFail_adds (r : Req) (st : Nat) (s : State) : Adds s (reqFail r st s) := by
  unfold reqFail
  split
  · exact (maceOnly ..).adds
  · exact .refl _
  · exact .refl _
  · exact respond_adds ..

/-- A request of a port that is refused is answered with the status (R185). -/
theorem reqFail_answers {r : Req} (h : r.src = .port) (st : Nat) (s : State) :
    ∃ o ∈ outOf (reqFail r st s) r.port, o.msg = rspMsg s r.port r.msg { op := Op.comp, vc := Vc.rsp, status := st } := by
  rw [reqFail, h]
  exact ⟨_, emit_mem .., rfl⟩

/-- Every request of a list that is refused is answered. -/
theorem reqFails_answer {l : List Req} {r : Req} (m : r ∈ l) (h : r.src = .port) (st : Nat) (s : State) :
    ∃ o ∈ outOf (l.foldl (fun s r => reqFail r st s) s) r.port, o.msg = rspMsg s r.port r.msg { op := Op.comp, vc := Vc.rsp, status := st } := by
  induction l generalizing s with
  | nil => cases m
  | cons x l ih =>
    rcases List.mem_cons.mp m with rfl | m
    · obtain ⟨o, ho, e⟩ := reqFail_answers h st s
      exact ⟨o, (Adds.foldl (fun s r => reqFail_adds r st s) l _).out _ _ ho, e⟩
    · obtain ⟨o, ho, e⟩ := ih m (reqFail x st s)
      exact ⟨o, ho, e.trans ((reqFail_adds x st s).rspMsg ..)⟩

/-! ### The records and the poison of a home timeout (R359, R364) -/

theorem timeoutRecs_only (h : Hte) (b : Bool) (l : List (BitVec 8)) (s : State) : OnlyChanges [.log, .ints, .d0] s (timeoutRecs h b l s) :=
  .ite (logErr_only ..) (foldl_only (fun _ _ => logErr_only ..) _ _)

theorem timeoutRecs_adds (h : Hte) (b : Bool) (l : List (BitVec 8)) (s : State) : Adds s (timeoutRecs h b l s) :=
  .ite (logErr_adds ..) (.foldl (fun _ _ => logErr_adds ..) _ _)

/-- At least one HOME_TIMEOUT record is noticed, where a notice finds room. -/
theorem timeoutRecs_grows (h : Hte) (b : Bool) (l : List (BitVec 8)) {s : State} (n : s.log.notices.length < 64) :
    s.log.notices.length < (timeoutRecs h b l s).log.notices.length := by
  cases l with
  | nil => exact notice_grows _ n
  | cons c l => exact (notice_grows _ n).trans_le (Adds.foldl (fun _ _ => logErr_adds ..) l _).notices

theorem plistAdd_only (l : LAddr) (i : ErrInfo) (s : State) : OnlyChanges [.mp, .pins, .log, .ints, .d0] s (plistAdd l i s) := by
  refine .ite (.ite ((logErr_only ..).le _) (.refl _ _)) (.ite ?_ (((logErr_only ..).le _).then (fatalErr_only ..)))
  exact ((mpOnly _ s).le _).then (logErr_only ..)

theorem plistAdd_adds (l : LAddr) (i : ErrInfo) (s : State) : Adds s (plistAdd l i s) :=
  .ite (.ite (logErr_adds ..) (.refl _)) (.ite ((mpOnly _ s).adds.trans (logErr_adds ..)) ((logErr_adds ..).trans (fatalErr_adds ..)))

/-- A line enters the poison list while it has room (R358). -/
theorem plistAdd_mem (l : LAddr) (i : ErrInfo) {s : State} (h : s.mp.plist.length < 256) : l ∈ (plistAdd l i s).mp.plist := by
  unfold plistAdd
  by_cases m : listed s l = true
  · rw [if_pos m]
    have e : (if i.cause = 0x11 then logErr i s else s).mp = s.mp := OnlyChanges.mp (.ite (logErr_only i s) (.refl _ s))
    rw [e]
    exact List.contains_iff_mem.mp m
  · rw [if_neg m, if_pos h, (logErr_only ..).mp]
    exact List.mem_append_right _ (List.mem_singleton_self l)

theorem homePoison_only (l : LAddr) (tc : BitVec 4) (who : Option (Nat × Nat)) (s : State) :
    OnlyChanges [.arr, .mp, .pins, .log, .ints, .d0] s (homePoison l tc who s) := by
  unfold homePoison
  dsimp only
  split
  · exact (tagSet_only ..).le _
  · exact (mpOnly ..).le _
  · exact .ite ((plistAdd_only ..).le _) (.ite ((mpOnly ..).le _) ((mpOnly ..).le _))
  · exact (plistAdd_only ..).le _

theorem homePoison_adds (l : LAddr) (tc : BitVec 4) (who : Option (Nat × Nat)) (s : State) : Adds s (homePoison l tc who s) := by
  unfold homePoison
  dsimp only
  split
  · exact (tagSet_only ..).adds
  · exact (mpOnly ..).adds
  · exact .ite (plistAdd_adds ..) (.ite (mpOnly ..).adds (mpOnly ..).adds)
  · exact plistAdd_adds ..

/-- The home poisons the way that holds the line (R359). -/
theorem homePoison_way {l : LAddr} {k : Nat} {s : State} (h : placeOf s l = .way k) (hw : ArrWf s) (tc : BitVec 4) (who : Option (Nat × Nat)) :
    LineAt s (homePoison l tc who s) k { tagGet s k with poi := true, d := true } (dataGet s k) := by
  rw [homePoison, h]
  exact tagSet_lineAt hw k _

/-- The home lists a line that the slice does not hold (R358, R359). -/
theorem homePoison_absent {l : LAddr} {s : State} (h : placeOf s l = .absent) (n : s.mp.plist.length < 256) (tc : BitVec 4) (who : Option (Nat × Nat)) :
    l ∈ (homePoison l tc who s).mp.plist := by
  rw [homePoison, h]
  exact plistAdd_mem l _ n

end Sys2Proof.Machine
end

section
namespace Sys2Proof.Machine

-- One declaration after the other: the threads of declarations that wait for one another exhaust the memory that a compile may take.
set_option Elab.async false

/-! ### Home transactions by their number -/

/-- Changing the elements that `p` picks, by what keeps them picked, changes the first of them found. -/
theorem lmod_find? {α : Type} {p : α → Bool} {f : α → α} (hf : ∀ x, p x = true → p (f x) = true) (l : List α) :
    (lmod p f l).find? p = (l.find? p).map f := by
  induction l with
  | nil => rfl
  | cons x l ih =>
    by_cases h : p x = true
    · simp [lmod, h, hf x h]
    · simpa [lmod, h] using ih

/-- The elements that `p` does not pick stay. -/
theorem lmod_filter_not {α : Type} {p : α → Bool} {f : α → α} (hf : ∀ x, p x = true → p (f x) = true) (l : List α) :
    (lmod p f l).filter (fun x => !p x) = l.filter (fun x => !p x) := by
  induction l with
  | nil => rfl
  | cons x l ih =>
    by_cases h : p x = true
    · simpa [lmod, h, hf x h] using ih
    · simpa [lmod, h] using ih

theorem hteGet_id {s : State} {i : Nat} {h : Hte} (e : hteGet s i = some h) : h.id = i := by simpa using List.find?_some e

theorem hteMod_get {s : State} {i : Nat} {h x : Hte} (e : hteGet s i = some h) (hx : x.id = i) : hteGet (hteMod i (fun _ => x) s) i = some x := by
  have f := lmod_find? (p := fun x : Hte => decide (x.id = i)) (f := fun _ => x) (fun _ _ => by simpa using hx) s.home.htes
  exact f.trans (by rw [show s.home.htes.find? (fun x => decide (x.id = i)) = some h from e]; rfl)

theorem hteMod_filter {s : State} {i : Nat} {x : Hte} (hx : x.id = i) :
    (hteMod i (fun _ => x) s).home.htes.filter (·.id ≠ i) = s.home.htes.filter (·.id ≠ i) := by
  have f := lmod_filter_not (p := fun x : Hte => decide (x.id = i)) (f := fun _ => x) (fun _ _ => by simpa using hx) s.home.htes
  simp only [ne_eq, decide_not]
  exact f

theorem foldl_idle {α β : Type} {f : β → α → β} {b : β} {l : List α} (h : ∀ x ∈ l, f b x = b) : l.foldl f b = b := by
  induction l with
  | nil => rfl
  | cons x l ih =>
    rw [List.foldl_cons, h x List.mem_cons_self]
    exact ih fun y hy => h y (List.mem_cons_of_mem _ hy)

/-- An HTE closes alone where no other waits for it (R190). -/
theorem hteClose_alone {s : State} {i : Nat} (h : ∀ x ∈ s.home.htes, i ∉ x.q) : hteClose i s = hteDrop i s := by
  refine foldl_idle fun x hx => ?_
  rw [if_neg]
  have m := h x (List.mem_filter.mp hx).1
  simp [m]

/-! ### A home timeout without H (R185, R199) -/

/-- The slot and the count of a home timeout. -/
def timeoutStart (h : Hte) (s : State) : State := occR 0x88 h.req 1 (useSlot (pipeOf s h.line) false none s)

theorem timeoutStart_only (h : Hte) (s : State) : OnlyChanges [.ctr] s (timeoutStart h s) := (useSlot_only ..).trans (occR_only ..)

/-- HOME_TIMEOUT ends an HTE that has expired. -/
theorem exec_homeTimeout {i : Fin 256} {s : State} {h : Hte} (hg : hteGet s i.val = some h) (he : hteExpired s h = true) :
    exec (.homeTimeout i) s = .next (homeTimeoutAt h (useSlot (pipeOf s h.line) false none s)) := by
  show execHomeTimeout i s = _
  simp only [execHomeTimeout, hg, he, if_true]

theorem homeOnly_drop (i : Nat) (s : State) : OnlyChanges [.home] s (hteDrop i s) := homeOnly ..

theorem homeTimeoutAnswers : HomeTimeoutAnswers := by
  intro i s h hg he hh hq hb
  have c := timeoutStart_only h s
  have r := timeoutRecs_only h false h.k (timeoutStart h s)
  let t := respond h.req.port h.req.msg (subjReq h.req) { op := Op.data, vc := Vc.dat, status := St.timeout, result := gstOf h }
    (timeoutRecs h false h.k (timeoutStart h s))
  have rt := respond_only h.req.port h.req.msg (subjReq h.req) { op := Op.data, vc := Vc.dat, status := St.timeout, result := gstOf h }
    (timeoutRecs h false h.k (timeoutStart h s))
  have f : OnlyChanges [.log, .ints, .d0, .d1, .sout, .ctr] s t := ((c.le _).then r).trans (rt.mono (by cases h.req.port <;> decide))
  obtain ⟨o, a, -, eb⟩ := respond_answers h.req.port h.req.msg (subjReq h.req)
    { op := Op.data, vc := Vc.dat, status := St.timeout, result := gstOf h } (timeoutRecs h false h.k (timeoutStart h s))
    (show Op.data < 2 ^ 6 by decide) (show St.timeout < 2 ^ 3 by decide)
  have run : exec (.homeTimeout i) s = .next (hteDrop i.val t) := by
    rw [exec_homeTimeout hg he, homeTimeoutAt]
    dsimp only
    rw [ctlUse_clean _ _ _ (show (useSlot (pipeOf s h.line) false none s).bad = [] from hb), hh, hteGet_id hg]
    exact congrArg Host.Outcome.next (hteClose_alone (s := t) (by rw [f.home]; exact hq))
  obtain ⟨o', a', e'⟩ := a.carry (homeOnly_drop i.val t).sameLast
  refine ⟨_, o', run, a', by rw [e', eb], ?_, fun n => ?_, ((f.le _).then (homeOnly_drop i.val t))⟩
  · rw [← f.home]; rfl
  · rw [← c.log] at n ⊢
    exact (timeoutRecs_grows h false h.k n).trans_eq (congrArg _ (congrArg _ (rt.log (by cases h.req.port <;> decide)))).symm

/-! ### A home timeout of a line in H (R185, R199, R359) -/

/-- The Sedge store is in canonical form. -/
def SedgeWf (s : State) : Prop := swf (fun _ => SedgeE.zero) s.home.sedge = true

/-- What an H state leaves of its line's entry (R193 step 3). -/
theorem sedgeLeave_left {s : State} (hw : SedgeWf s) (l : LAddr) (after : Option SedgeE) : EntryLeft s (sedgeLeave l after s) l after := by
  have put : ∀ (j : Nat) (e : SedgeE), sedgeGet (sedgeSet j e s) j = e ∧ SedgeBut s (sedgeSet j e s) j :=
    fun j e => ⟨sget_sset _ _ _ _ none hw, fun i hi => sget_sset_ne _ _ _ hi⟩
  unfold sedgeLeave
  cases hf : sedgeFind s l with
  | none => exact ⟨fun _ => rfl, fun j hj => absurd (hf.symm.trans hj) nofun⟩
  | some k =>
    refine ⟨fun hn => absurd (hf.symm.trans hn) nofun, fun j hj => ?_⟩
    cases hf.symm.trans hj
    cases after with
    | none => exact put k SedgeE.zero
    | some a =>
      have e : leftEntry (sedgeGet s k) (some a) = if a.st == 1 then settleS { a with hg := (sedgeGet s k).hg, shi := (sedgeGet s k).shi, tag := (sedgeGet s k).tag }
          else { a with hg := (sedgeGet s k).hg, shi := (sedgeGet s k).shi, tag := (sedgeGet s k).tag } := by simp [leftEntry]
      rw [e]
      exact put k _

theorem EntryLeft.congr {s s' u u' : State} {l : LAddr} {after : Option SedgeE} (h : EntryLeft s' u' l after) (hg : s'.gen = s.gen)
    (hs : s'.home.sedge = s.home.sedge) (hu : u.home.sedge = u'.home.sedge) : EntryLeft s u l after := by
  have f : sedgeFind s l = sedgeFind s' l := by
    have e : sedgeFind s' l = sedgeFind { s with gen := s'.gen, home := { s.home with sedge := s'.home.sedge } } l := rfl
    rw [e, hg, hs]
  have gs : ∀ j, sedgeGet s j = sedgeGet s' j := fun j => by rw [sedgeGet, sedgeGet, hs]
  have gu : ∀ j, sedgeGet u j = sedgeGet u' j := fun j => by rw [sedgeGet, sedgeGet, hu]
  refine ⟨fun n => by rw [hu, h.1 (f ▸ n), hs], fun j e => ?_⟩
  obtain ⟨a, b⟩ := h.2 j (f ▸ e)
  exact ⟨by rw [gu, gs, a], fun i hi => by rw [gu, gs, b i hi]⟩

theorem sedgeLeave_home (l : LAddr) (after : Option SedgeE) (s : State) :
    ∃ x, sedgeLeave l after s = { s with home := { s.home with sedge := x } } := by
  unfold sedgeLeave
  split
  · exact ⟨_, rfl⟩
  · cases after <;> exact ⟨_, rfl⟩

/-- Where a line is depends on the tables, the array and the M port alone. -/
theorem placeOf_congr {s u : State} (hg : u.gen = s.gen) (ha : u.arr = s.arr) (hm : u.mp = s.mp) (l : LAddr) : placeOf u l = placeOf s l := by
  have e : placeOf u l = placeOf { s with gen := u.gen, arr := u.arr, mp := u.mp } l := rfl
  rw [e, hg, ha, hm]

/-- An owner was asked for the line's data (R199). -/
def dataOwed (h : Hte) : Bool := h.d.isSome || h.w.isSome || h.biOwner.isSome

/-- The records of a home timeout in H, and the poison of its line (R359, R364). -/
def timeoutMarks (h : Hte) (s : State) : State :=
  let s := timeoutRecs h (dataOwed h) (h.k ++ h.d.toList ++ h.w.toList) s
  if dataOwed h then homePoison h.line h.req.tc (whoReq h.req) s else s

/-- The answers to the request of a home transaction in H that times out, and to those that wait for its line (R199). -/
def timeoutFails (h : Hte) (s : State) : State :=
  h.held.foldl (fun s r => reqFail r St.timeout s) (if h.kind = .wb then s else reqFail h.req St.timeout s)

/-- The home transaction in H that has timed out awaits nothing more. -/
def timedOut (s : State) (h : Hte) : Hte := { h with kind := .wb, k := [], d := none, w := none, biOwner := none, held := [], after := afterTimeout s h }

theorem timeoutMarks_only (h : Hte) (s : State) : OnlyChanges [.arr, .mp, .pins, .log, .ints, .d0] s (timeoutMarks h s) :=
  have r := (timeoutRecs_only h (dataOwed h) (h.k ++ h.d.toList ++ h.w.toList) s).le [.arr, .mp, .pins, .log, .ints, .d0]
  .ite (r.then (homePoison_only ..)) r

theorem timeoutMarks_adds (h : Hte) (s : State) : Adds s (timeoutMarks h s) :=
  .ite ((timeoutRecs_adds ..).trans (homePoison_adds ..)) (timeoutRecs_adds ..)

theorem timeoutMarks_grows (h : Hte) {s : State} (n : s.log.notices.length < 64) : s.log.notices.length < (timeoutMarks h s).log.notices.length := by
  have g := timeoutRecs_grows h (dataOwed h) (h.k ++ h.d.toList ++ h.w.toList) n
  exact g.trans_le (Adds.ite (homePoison_adds ..) (.refl _)).notices

theorem timeoutMarks_owed {h : Hte} (ho : dataOwed h = true) (s : State) : ∃ t, OnlyChanges [.log, .ints, .d0] s t ∧
    timeoutMarks h s = homePoison h.line h.req.tc (whoReq h.req) t :=
  ⟨_, timeoutRecs_only h true (h.k ++ h.d.toList ++ h.w.toList) s, by simp only [timeoutMarks, ho, if_true]⟩

/-- Where an owner was asked for the data, the way that holds the line is poisoned (R359). -/
theorem timeoutMarks_way {h : Hte} {s : State} {k : Nat} (ho : dataOwed h = true) (hk : placeOf s h.line = .way k) (hw : ArrWf s) :
    LineAt s (timeoutMarks h s) k { tagGet s k with poi := true, d := true } (dataGet s k) := by
  obtain ⟨t, r, e⟩ := timeoutMarks_owed ho s
  have w := homePoison_way ((placeOf_congr r.gen r.arr r.mp h.line).trans hk) (hw.of_arr r.arr) h.req.tc (whoReq h.req)
  rw [← e, tagGet_arr r.arr, dataGet_arr r.arr] at w
  exact w.congr r.arr.symm rfl

/-- Where an owner was asked for the data, a line that the slice does not hold is listed (R359). -/
theorem timeoutMarks_absent {h : Hte} {s : State} (ho : dataOwed h = true) (ha : placeOf s h.line = .absent) (hl : s.mp.plist.length < 256) :
    h.line ∈ (timeoutMarks h s).mp.plist := by
  obtain ⟨t, r, e⟩ := timeoutMarks_owed ho s
  rw [e]
  exact homePoison_absent ((placeOf_congr r.gen r.arr r.mp h.line).trans ha) (by rw [r.mp]; exact hl) _ _

theorem timeoutMarks_unowed {h : Hte} {s : State} (ho : dataOwed h = false) : OnlyChanges [.log, .ints, .d0] s (timeoutMarks h s) := by
  simp only [timeoutMarks, ho, Bool.false_eq_true, if_false]
  exact timeoutRecs_only ..

theorem timeoutFails_only (h : Hte) (s : State) : OnlyChanges [.mace, .d0, .d1, .sout] s (timeoutFails h s) :=
  OnlyChanges.trans (.ite (.refl _ _) (reqFail_only ..)) (foldl_only (fun _ _ => reqFail_only ..) _ _)

theorem timeoutFails_adds (h : Hte) (s : State) : Adds s (timeoutFails h s) :=
  Adds.trans (.ite (.refl _) (reqFail_adds ..)) (.foldl (fun _ _ => reqFail_adds ..) _ _)

/-- What a home timeout in H does, where no data was received: it closes the HTE with the entry that Table 9.7 leaves. -/
theorem homeTimeoutAt_inH {s : State} {i : Nat} {h : Hte} (hg : hteGet s i = some h) (hh : h.h = true) (hn : h.got = none) (hb : s.bad = []) :
    homeTimeoutAt h s = (
      let t := timeoutFails h (timeoutMarks h (occR 0x88 h.req 1 s))
      relookAdd [] (hteDrop i (sedgeLeave h.line (afterTimeout t h) (hteMod i (fun _ => timedOut t h) t)))) := by
  have id := hteGet_id hg
  subst id
  let t := timeoutFails h (timeoutMarks h (occR 0x88 h.req 1 s))
  have f : OnlyChanges [.arr, .mp, .pins, .log, .ints, .d0, .mace, .d1, .sout, .ctr] s t :=
    (((occR_only 0x88 h.req 1 s).le _).then (timeoutMarks_only h _)).then (timeoutFails_only h _)
  have g : hteGet (hteMod h.id (fun _ => timedOut t h) t) h.id = some (timedOut t h) :=
    hteMod_get (h := h) (by rw [hteGet, f.home]; exact hg) rfl
  have e : homeTimeoutAt h s = hEnd h.id (hteMod h.id (fun _ => timedOut t h) t) := by
    rw [homeTimeoutAt]
    dsimp only
    rw [ctlUse_clean _ _ s hb, if_neg (by simp [hh])]
    rfl
  rw [e, hEnd, g]
  dsimp only
  rw [hData, show (timedOut t h).got = none from hn]
  rfl

theorem homeTimeoutInH : HomeTimeoutInH := by
  intro i s h hg he hh hn hb hc
  let s1 := timeoutStart h s
  let s2 := timeoutMarks h s1
  let t := timeoutFails h s2
  have f1 := timeoutStart_only h s
  have f2 := timeoutMarks_only h s1
  have f3 := timeoutFails_only h s2
  have f : OnlyChanges [.arr, .mp, .pins, .log, .ints, .d0, .mace, .d1, .sout, .ctr] s t := ((f1.le _).then f2).then f3
  let v := hteMod i.val (fun _ => timedOut t h) t
  obtain ⟨x, ex⟩ := sedgeLeave_home h.line (afterTimeout t h) v
  let u := relookAdd [] (hteDrop i.val (sedgeLeave h.line (afterTimeout t h) v))
  have run : exec (.homeTimeout i) s = .next u := by
    rw [exec_homeTimeout hg he, homeTimeoutAt_inH (s := useSlot (pipeOf s h.line) false none s) hg hh hn hb]
    rfl
  have eu : u = { t with home := u.home } := by
    simp only [u, ex]
    rfl
  have fu : OnlyChanges [.home] t u := eu ▸ homeOnly _ t
  have after : afterTimeout t h = afterTimeout s h := by
    have e : afterTimeout t h = afterTimeout { s with gen := t.gen, home := t.home } h := rfl
    rw [e, f.gen, f.home]
  have sedge : v.home.sedge = s.home.sedge := show t.home.sedge = _ by rw [f.home]
  have entry := (sedgeLeave_left (s := v) (by rw [SedgeWf, sedge]; exact hc.sedge) h.line (afterTimeout t h)).congr (s := s) (u := u) f.gen sedge rfl
  have marked : OnlyChanges [.mace, .d0, .d1, .sout, .home] s2 u := (f3.le _).then fu
  have adds : Adds s u := ((f1.adds.trans (timeoutMarks_adds h s1)).trans (timeoutFails_adds h s2)).trans fu.adds
  have from2 : ∀ r : Req, ∀ o : Out, o.msg = rspMsg s2 r.port r.msg { op := Op.comp, vc := Vc.rsp, status := St.timeout } →
      o.msg = rspMsg s r.port r.msg { op := Op.comp, vc := Vc.rsp, status := St.timeout } :=
    fun r o e => e.trans ((f1.adds.trans (timeoutMarks_adds h s1)).rspMsg ..)
  refine ⟨u, run, ?_, ?_, after ▸ entry, fun hk hp hl => ?_, fun r hr hp => ?_, fun ho k hk => ?_, fun ho ha hl => ?_, fun ho => ?_, fun n => ?_,
    (f.le _).then fu⟩
  · have e := hteMod_filter (s := t) (i := i.val) (x := timedOut t h) (show h.id = i.val from hteGet_id hg)
    rw [f.home] at e
    simp only [u, ex]
    exact e
  · simp only [u, ex]
    show t.home.relook = s.home.relook
    rw [f.home]
  · obtain ⟨o, ho, e⟩ := reqFail_answers hp St.timeout s2
    refine ⟨o, ?_, from2 _ o e⟩
    have et : t = reqFail h.req St.timeout s2 := by simp only [t, timeoutFails, hl, if_neg hk, List.foldl_nil]
    exact fu.adds.out _ _ (et ▸ ho)
  · obtain ⟨o, ho, e⟩ := reqFails_answer hr hp St.timeout (if h.kind = .wb then s2 else reqFail h.req St.timeout s2)
    have a : Adds s2 (if h.kind = .wb then s2 else reqFail h.req St.timeout s2) := .ite (.refl _) (reqFail_adds ..)
    exact ⟨o, fu.adds.out _ _ ho, from2 r o (e.trans (a.rspMsg ..))⟩
  · have w := timeoutMarks_way (s := s1) ho ((placeOf_congr f1.gen f1.arr f1.mp h.line).trans hk) (hc.arrWf.of_arr f1.arr)
    rw [tagGet_arr f1.arr, dataGet_arr f1.arr] at w
    have w' := w.congr f1.arr.symm marked.arr
    exact ⟨w'.tag, w'.tags⟩
  · rw [marked.mp]
    exact timeoutMarks_absent (s := s1) ho ((placeOf_congr f1.gen f1.arr f1.mp h.line).trans ha) (by rw [f1.mp]; exact hl)
  · have r := f1.le [.log, .ints, .d0, .ctr] |>.then (timeoutMarks_unowed (s := s1) ho)
    exact ⟨marked.arr.trans r.arr, marked.mp.trans r.mp⟩
  · rw [← f1.log] at n ⊢
    exact (timeoutMarks_grows h n).trans_le ((timeoutFails_adds h s2).trans fu.adds).notices

/-- Settles O20: what has waited for the home timeout ends, and what the slice does not expect is counted alone. -/
theorem homeSinks : Obligations.HomeSinks := ⟨homeTimeoutAnswers, homeTimeoutInH, otherMessages⟩

end Sys2Proof.Machine
end

section
namespace Sys2Proof.Machine

-- One declaration after the other: the threads of declarations that wait for one another exhaust the memory that a compile may take.
set_option Elab.async false

/-! ### Steps that take their request, whether they are done or attach it -/

/-- The state of a step that takes its request: performed, or attached to an HTE (R172); none of one that ends in a hold. -/
def StepRes.taken : StepRes → Option State
  | .done t => some t
  | .attached t => some t
  | .hold _ _ => none

/-- What a command does before it makes its request's step: of the home, the list of second lookups alone changes. -/
structure Before (s s' : State) : Prop where
  acts : Acts [] s s'
  pred : s'.home.pred = s.home.pred

/-- What follows a step that takes its request: counts, and the request's place. The messages that wait for egress stay. -/
structure After (t u : State) : Prop where
  frame : OnlyChanges [.d0, .d1, .sout, .ctr] t u
  last : SameLast t u
  dOut : ∀ p : DPort, outOf u (dport p) = outOf t (dport p)
  out : ∀ p, ∀ o ∈ outOf t p, ∃ o' ∈ outOf u p, o'.msg = o.msg

theorem OnlyChanges.before {l : List Part} {s u : State} (h : OnlyChanges l s u) (k : l ⊆ stepParts := by decide) (n : .home ∉ l := by decide) :
    Before s u := ⟨h.acts [] k n, by rw [h.home n]⟩

theorem OnlyChanges.afterStep {t u : State} (h : OnlyChanges [.d0, .d1, .sout, .ctr] t u) (k : ∀ p, outOf u p = outOf t p) : After t u :=
  ⟨h, .of_out h.pins k, fun p => k (dport p), fun p o m => ⟨o, by rw [k p]; exact m, rfl⟩⟩

theorem After.trans {s t u : State} (h : After s t) (k : After t u) : After s u := by
  refine ⟨h.frame.trans k.frame, h.last.trans k.last, fun p => (k.dOut p).trans (h.dOut p), fun p o m => ?_⟩
  obtain ⟨o1, m1, e1⟩ := h.out p o m
  obtain ⟨o2, m2, e2⟩ := k.out p o1 m1
  exact ⟨o2, m2, e2.trans e1⟩

theorem OnlyChanges.ctrAfter {t u : State} (h : OnlyChanges [.ctr] t u) : After t u :=
  (h.le _).afterStep fun p => h.out p (by cases p <;> decide)

theorem After.agent {t u : State} (h : After t u) (c : Nat) : outOf u (agentPort c) = outOf t (agentPort c) := by
  unfold agentPort
  split
  · exact h.dOut .d0
  · exact h.dOut .d1

theorem popIng_after (p : DPort) (i : Nat) (s : State) : After s (popIng p i s) :=
  ((popIng_only p i s).mono (by cases p <;> decide)).afterStep (popIng_out p i s)

theorem portEnd_after (p : DPort) (i : Nat) (g : Ing) {x : StepRes} {t : State} (h : x.taken = some t) : After t (portEnd p i g x) := by
  cases x with
  | done s =>
    cases h
    exact ((reqSlot_only ..).trans (bankWaits_only ..)).ctrAfter.trans (popIng_after ..)
  | attached s =>
    cases h
    exact (reqSlot_only ..).ctrAfter.trans (popIng_after ..)
  | hold _ _ => cases h

theorem reedMark_after (n : Nat) (m : Msg) (k : Nat) (s : State) : After s (reedMark n m k s) := by
  refine ⟨(soutOnly _ s).le _, reedMark_sameLast .., fun p => by cases p <;> rfl, fun p o h => ?_⟩
  cases p with
  | d0 => exact ⟨o, h, rfl⟩
  | d1 => exact ⟨o, h, rfl⟩
  | s =>
    have h : o ∈ s.sout.take k ++ s.sout.drop k := by rw [List.take_append_drop]; exact h
    rcases List.mem_append.mp h with h | h
    · exact ⟨o, List.mem_append_left _ h, rfl⟩
    · exact ⟨_, List.mem_append_right _ (List.mem_map_of_mem h), rfl⟩

/-- A command that takes a request's step makes it from a state where the home is as it was, and then frees the request's place (R20, R94, R172). -/
theorem exec_taken {s : State} {c : Instr} {r : Req} (h : Takes s c r) (hb : s.bad = []) :
    ∃ u s', exec c s = .next u ∧ Before s s' ∧ ∀ t, (reqStep r s').taken = some t → After t u := by
  have port : ∀ (p : DPort) (op : Nat), hOpcode r.msg = op → yields s p r = false → (∃ x, selectReq s p = some x ∧ x.2.1.req = r) →
      ∃ s', Before s s' ∧ ∀ t, (reqStep r s').taken = some t → After t (portStep p op s) := by
    rintro p op ho hy ⟨⟨i, g, f⟩, hx, rfl⟩
    refine ⟨portPick p i g f s, (portPick_only p i g f s hb).before (by cases p <;> decide) (by cases p <;> decide), fun t ht => ?_⟩
    dsimp only at ho hy
    have e : portStep p op s = portEnd p i g (reqStep g.req (portPick p i g f s)) := by simp [portStep, hx, ho, hy]
    exact e ▸ portEnd_after p i g ht
  obtain ⟨-, ⟨⟨p, op⟩, hx, ho, -, hp⟩ | ⟨k, rfl, hr, hh, hl⟩⟩ := h
  · obtain ⟨s', b, a⟩ : ∃ s', Before s s' ∧ ∀ t, (reqStep r s').taken = some t → After t (anyStep p op s) := by
      cases p with
      | d0 => exact port .d0 op ho hp.1 hp.2
      | d1 => exact port .d1 op ho hp.1 hp.2
      | s =>
        obtain ⟨rest, hq⟩ := List.head?_eq_some_iff.mp hp
        refine ⟨{ s with sq := rest }, (sqOnly rest s).before, fun t ht => ?_⟩
        have e : sStep op s = reedMark r.at_ r.msg s.sout.length (bankWaits (subjReq r) (reqPipe t r) (reqSlot (reqPipe t r) true (subjReq r) t)) := by
          simp only [sStep, hq, ho, ne_eq, not_true_eq_false, if_false]
          cases hs : reqStep r { s with sq := rest } <;> rw [hs] at ht <;> cases ht <;> rfl
        show After t (sStep op s)
        exact e ▸ ((reqSlot_only ..).trans (bankWaits_only ..)).ctrAfter.trans (reedMark_after ..)
    exact ⟨_, s', exec_stepOf hx s, b, a⟩
  · refine ⟨relookAt k s, { s with home := { s.home with relook := s.home.relook.eraseIdx k } }, rfl,
      ⟨⟨(homeOnly _ s).mono (by decide), rfl, rfl, rfl⟩, rfl⟩, fun t ht => ?_⟩
    have e : relookAt k s = reqSlot (reqPipe t r) true (subjReq r) t := by
      simp only [relookAt, hr, hh, hl, Bool.or_self, Bool.false_eq_true, if_false]
      cases hs : reqStep r { s with home := { s.home with relook := s.home.relook.eraseIdx k } } <;> rw [hs] at ht <;> cases ht <;> rfl
    exact e ▸ (reqSlot_only ..).ctrAfter

/-! ### What the home does for a request -/

/-- The row of Table 8.5 that a coherent request takes, before it is counted. -/
def homeAct (r : Req) (ent : Option Nat) (s : State) : StepRes :=
  if hOpcode r.msg == Op.rdShr then homeRdShr r ent s
  else if hOpcode r.msg == Op.rdUnq then homeRdUnq r ent id s
  else if hOpcode r.msg == Op.upgrade then homeUpgrade r ent s
  else if hOpcode r.msg == Op.atomC then homeAtomC r ent s
  else if hOpcode r.msg == Op.rdOnce then homeRdOnce r ent s
  else if hOpcode r.msg == Op.wb then homeWb r ent s
  else homeEvict r ent s

/-- The checks of the Sedge sets in which a line may be find no error (Table 17.1). -/
theorem sedgeChecks_clean {s : State} (j : Option Subj) (l : LAddr) (hb : s.bad = []) : (candSets s l).foldl (fun s x => sedgeCheck j x s) s = s :=
  List.foldl_fixed' (f := fun s x => sedgeCheck j x s) (fun x => sedgeCheck_clean _ x s hb) _

section
variable {s : State} {r : Req} (hf : r.fen = none) (hb : s.bad = []) (hn : hteInH s (hLine r.msg) = none)
include hf hb hn

/-- A coherent request of a line that is not in H is served by its row, and counted (R169). -/
theorem reqStep_coherent (ho : isCohOp (hOpcode r.msg) = true) {t : State} (h : (homeAct r (sedgeFind s (hLine r.msg)) s).taken = some t) :
    ∃ t', (reqStep r s).taken = some t' ∧ OnlyChanges [.ctr] t t' := by
  have e : reqStep r s = match homeAct r (sedgeFind s (hLine r.msg)) s with | .done s => .done (occR 0x80 r 1 s) | x => x := by
    simp only [reqStep, hf, ho, if_true, homeStep, sedgeChecks_clean _ _ hb, hn]
    rfl
  rw [e]
  cases x : homeAct r (sedgeFind s (hLine r.msg)) s with
  | done v => rw [x] at h; cases h; exact ⟨_, rfl, occR_only ..⟩
  | attached v => rw [x] at h; cases h; exact ⟨_, rfl, .refl _ _⟩
  | hold _ _ => rw [x] at h; cases h

/-- Another request that finds an entry of its line, not in H, is served by its row of Table 8.6. -/
theorem reqStep_entry (ho : isCohOp (hOpcode r.msg) = false) (hd : pdOn s 68 = true) {j : Nat} (hj : sedgeFind s (hLine r.msg) = some j) :
    reqStep r s = gateEntry r j s := by
  simp only [reqStep, hf, ho, Bool.false_eq_true, if_false, homeGate, hd, Bool.not_true, sedgeChecks_clean _ _ hb, hn, hj]

end

end Sys2Proof.Machine
end

section
namespace Sys2Proof.Machine

-- One declaration after the other: the threads of declarations that wait for one another exhaust the memory that a compile may take.
set_option Elab.async false

/-! ### What a step finds at the home is what it found before its request was taken -/

section
variable {s u : State}

theorem SameHome.sedgeGet (h : SameHome s u) (j : Nat) : sedgeGet u j = sedgeGet s j := by rw [Machine.sedgeGet, Machine.sedgeGet, h.1]
theorem SameHome.hteFree (h : SameHome s u) : hteFree u = hteFree s := by rw [Machine.hteFree, Machine.hteFree, h.2.2]

theorem SameHome.sedgeRoom (h : SameHome s u) (x : Nat) : sedgeRoom u x = sedgeRoom s x := by
  have e : Machine.sedgeRoom u x = Machine.sedgeRoom { s with home := { s.home with sedge := u.home.sedge, splru := u.home.splru } } x := rfl
  rw [e, h.1, h.2.1]

theorem SameHome.sedgeLine (h : SameHome s u) (g : u.gen = s.gen) (j : Nat) : sedgeLine u j = sedgeLine s j := by
  have e : Machine.sedgeLine u j = Machine.sedgeLine { s with gen := u.gen, home := { s.home with sedge := u.home.sedge } } j := rfl
  rw [e, g, h.1]

theorem SameHome.sedgeBut {v : State} {j : Nat} (h : SameHome s u) (k : SedgeBut u v j) : SedgeBut s v j :=
  fun i hi => (k i hi).trans (h.sedgeGet i)

theorem Acts.invSet (h : Acts [] s u) (e : SedgeE) : invSet u e = invSet s e := by rw [h.frame.eq_blend]; rfl
theorem Acts.liveSet (h : Acts [] s u) (l : LAddr) : liveSet u l = liveSet s l := by rw [h.frame.eq_blend]; rfl
theorem Acts.sedgeNew (h : Acts [] s u) (l : LAddr) : sedgeNew u l = sedgeNew s l := by rw [h.frame.eq_blend]; rfl

/-- The predictor places an ATOM_C as it did. -/
theorem Before.predict (h : Before s u) (hb : s.bad = []) (l : LAddr) (a : Nat) (b o : Bool) : (predict l a b o u).1 = (predict l a b o s).1 := by
  simp only [Machine.predict, predCheck_clean _ _ hb, predCheck_clean _ _ (h.acts.frame.bad.trans hb), h.pred]

end

/-! ### FWD-class messages -/

/-- The message that `fwdSend` queues (R173). -/
def fwdOut (s : State) (op a : Nat) (l : LAddr) (h : Hte) (own keep ownr : Bool) : Out :=
  let m := h.req.msg
  let hd := if own then reqHdr op 0 Vc.fwd (sreqN s) (chipN s) (chipN s) 0 h.id 0 0 a (l.toNat * 128) keep ownr
    else reqHdr op 0 Vc.fwd (hReqid m) (hSrc m) (chipN s) (hTc m) (hTxid m) (hWtag m) 0 a (l.toNat * 128) keep ownr
  { msg := { hdr := hd, beats := [], be := [] }, subj := none, post := .none }

section
variable (op a : Nat) (l : LAddr) (h : Hte) (own keep ownr : Bool) (s : State)

theorem fwdSend_only : OnlyChanges [.d0, .d1, .ctr, .peat] s (fwdSend op a l h own keep ownr s) := by
  have e : ∀ p ∈ [Port.d0, .d1], ∀ o, OnlyChanges [.d0, .d1, .ctr, .peat] s (emit p o s) := by
    intro p hp o
    rcases List.mem_pair.mp hp with rfl | rfl <;> exact (emit_only ..).le _
  exact ((e _ (by split <;> simp) _).then (occR_only ..)).then (traceEv_only ..)

theorem fwdSend_adds : Adds s (fwdSend op a l h own keep ownr s) :=
  ((emit_adds ..).trans (occR_only ..).adds).trans (traceEv_only ..).adds

theorem fwdSend_mem : fwdOut s op a l h own keep ownr ∈ outOf (fwdSend op a l h own keep ownr s) (agentPort a) :=
  ((occR_only _ h.req 1 _).adds.trans (traceEv_only ..).adds).out _ _ (emit_mem (agentPort a) _ s)

end

/-- One message to each agent of a list. -/
def fwdAll (op : Nat) (ts : List Nat) (l : LAddr) (h : Hte) (own : Bool) (w : Nat → Bool) (s : State) : State :=
  ts.foldl (fun s c => fwdSend op c l h own false (w c) s) s

section
variable (op : Nat) (ts : List Nat) (l : LAddr) (h : Hte) (own : Bool) (w : Nat → Bool) (s : State)

theorem fwdAll_only : OnlyChanges [.d0, .d1, .ctr, .peat] s (fwdAll op ts l h own w s) := foldl_only (fun _ _ => fwdSend_only ..) _ _
theorem fwdAll_adds : Adds s (fwdAll op ts l h own w s) := .foldl (fun _ _ => fwdSend_adds ..) _ _

end

theorem fwdOut_congr {s u : State} (h : u.pins = s.pins) (op a : Nat) (l : LAddr) (x : Hte) (own keep ownr : Bool) :
    fwdOut u op a l x own keep ownr = fwdOut s op a l x own keep ownr := by
  simp only [fwdOut, chipN, sreqN, h]

theorem fwdAll_mem {op : Nat} {ts : List Nat} {l : LAddr} {h : Hte} {own : Bool} {w : Nat → Bool} {x : Nat} (m : x ∈ ts) (s : State) :
    fwdOut s op x l h own false (w x) ∈ outOf (fwdAll op ts l h own w s) (agentPort x) := by
  induction ts generalizing s with
  | nil => cases m
  | cons y ts ih =>
    rcases List.mem_cons.mp m with rfl | m
    · exact (fwdAll_adds op ts l h own w _).out _ _ (fwdSend_mem ..)
    · have e := ih m (fwdSend op y l h own false (w y) s)
      rwa [fwdOut_congr (fwdSend_only ..).pins] at e

/-! ### A line enters H -/

/-- From `s` to `t` entry `j` has gone to H, and HTE `h` is new. -/
structure Opened (s t : State) (h : Hte) (j : Nat) : Prop where
  entry : sedgeGet t j = { sedgeGet s j with st := 4 }
  others : SedgeBut s t j
  htes : t.home.htes = s.home.htes ++ [h]
  frame : OnlyChanges [.home, .d0, .d1, .ctr, .peat] s t

theorem hteGet_new {s : State} {h : Hte} {l : List Hte} (e : s.home.htes = l ++ [h]) (n : ∀ x ∈ l, x.id ≠ h.id) : hteGet s h.id = some h := by
  have f : l.find? (fun x => decide (x.id = h.id)) = none := List.find?_eq_none.mpr fun x hx => by simpa using n x hx
  rw [hteGet, e, List.find?_append, f, Option.none_or]
  simp

/-- A new HTE takes a number that none has. -/
theorem hteNew_fresh {s : State} (hf : hteFree s = true) (r : Req) (l : LAddr) (k : HKind) (st : BitVec 3) :
    ∀ x ∈ s.home.htes, x.id ≠ (hteNew s r l k st).id := fun x hx =>
  (lowest_free Hte.id (by simpa [hteFree] using hf)).2 x hx

/-- The opening of an H state that awaits an answer sends its messages, and H stays (R193). -/
theorem hOpen_opened {s : State} {h : Hte} {send : State → State} (j : Nat) (n : ∀ x ∈ s.home.htes, x.id ≠ h.id) (hw : hReady { h with h := true } = false)
    (hs : ∀ x, OnlyChanges [.d0, .d1, .ctr, .peat] x (send x)) :
    ∃ v, hOpen h j send s = send v ∧ OnlyChanges [.home] s v ∧ Opened s (send v) { h with h := true } j := by
  let v := sedgeSet j { sedgeGet s j with st := 4 } (hteAdd { h with h := true } s)
  have hv : OnlyChanges [.home] s v := homeOnly _ s
  have e : (send v).home = v.home := (hs v).home
  have g : hteGet (send v) h.id = some { h with h := true } := hteGet_new (h := { h with h := true }) (by rw [e]; rfl) n
  have se : ∀ i, sedgeGet (send v) i = sedgeGet v i := fun i => by rw [sedgeGet, sedgeGet, e]
  refine ⟨v, ?_, hv, ⟨?_, fun i hi => (se i).trans (sget_sset_ne _ _ _ hi), by rw [e]; rfl, (hv.le _).then (hs v)⟩⟩
  · show hTry h.id (send v) = send v
    simp only [hTry, g, hw, Bool.false_eq_true, if_false]
  · refine (se j).trans (sget_sset_self _ _ _ fun z => ?_)
    exact absurd (congrArg SedgeE.st z) (by simp [SedgeE.zero])

end Sys2Proof.Machine
end

section
namespace Sys2Proof.Machine

-- One declaration after the other: the threads of declarations that wait for one another exhaust the memory that a compile may take.
set_option Elab.async false

/-! ### What a step of the home does besides: demand, counts and the predictor -/

/-- `adj` leaves the home's entries and transactions, and of the rest changes windows and counts alone. -/
def Adjusts (adj : State → State) : Prop := ∀ s, s.bad = [] → OnlyChanges [.regul, .ctr, .home] s (adj s) ∧ SameHome s (adj s)

theorem SameHome.refl (s : State) : SameHome s s := ⟨rfl, rfl, rfl⟩
theorem SameHome.trans {s t u : State} (h : SameHome s t) (k : SameHome t u) : SameHome s u :=
  ⟨k.1.trans h.1, k.2.1.trans h.2.1, k.2.2.trans h.2.2⟩
theorem OnlyChanges.sameHome {l : List Part} {s u : State} (h : OnlyChanges l s u) (n : .home ∉ l := by decide) : SameHome s u := by
  rw [SameHome, h.home n]
  exact SameHome.refl s

theorem adjusts_id : Adjusts id := fun s _ => ⟨.refl _ s, SameHome.refl s⟩

theorem setPred_only (p : Store PredE) (s : State) : OnlyChanges [.home] s (setPred p s) := homeOnly ..

theorem enginePredict_adjusts (r : Req) : Adjusts (enginePredict r) := by
  intro s hb
  unfold enginePredict
  dsimp only
  split
  · rw [predict, predCheck_clean _ s hb]
    exact ⟨(homeOnly _ s).le _, SameHome.refl s⟩
  · exact adjusts_id s hb

theorem reclaimAdj_adjusts (r : Req) : Adjusts (reclaimAdj r) := fun s hb =>
  have ⟨f, h⟩ := enginePredict_adjusts r s hb
  ⟨f.then (occR_only ..), h.trans (occR_only 0x84 r 1 _).sameHome⟩

theorem nearAdj_adjusts (r : Req) (p : Store PredE) : Adjusts (nearAdj r p) := fun s _ =>
  ⟨((setPred_only p s).le _).then (occR_only ..), SameHome.trans ⟨rfl, rfl, rfl⟩ (occR_only 0x85 r 1 (setPred p s)).sameHome⟩

theorem farAdj_adjusts (r : Req) (p : Store PredE) : Adjusts (farAdj r p) := fun s _ =>
  have w := (addDemand_only r (128 - atomSize (hFmt r.msg)) (setPred p s)).le [.regul, .ctr] |>.then (occR_only 0x86 r 1 _)
  ⟨((setPred_only p s).le _).then w, SameHome.trans ⟨rfl, rfl, rfl⟩ w.sameHome⟩

/-- An ATOM_C is performed where the predictor places it (R179). -/
theorem homeAtomC_eq {s : State} (hb : s.bad = []) (r : Req) (ent : Option Nat) :
    ∃ p, homeAtomC r ent s =
      if (predict (hLine r.msg) (hCagent r.msg) true (otherHolder (ent.map (sedgeGet s)) (hCagent r.msg)) s).1 then atomNear r ent p s
      else homeRdUnq r ent (farAdj r p) s := by
  rw [homeAtomC, predCheck_clean _ _ hb]
  exact ⟨_, rfl⟩

/-! ### A request of a line that has an entry -/

/-- The home's step for a request whose line has entry `j` (Tables 8.5 and 8.6). -/
def heldAct (r : Req) (j : Nat) (s : State) : StepRes :=
  if isCohOp (hOpcode r.msg) then homeAct r (some j) s else gateEntry r j s

section
variable {s : State} {c : Instr} {r : Req} {j : Nat}

/-- A command that takes a coherent request of a line not in H performs its row (R169). -/
theorem exec_home (ht : Takes s c r) (hf : r.fen = none) (hb : s.bad = []) (hn : hteInH s (hLine r.msg) = none)
    (ho : isCohOp (hOpcode r.msg) = true) : ∃ u s', exec c s = .next u ∧ Before s s' ∧
    ∀ t, (homeAct r (sedgeFind s (hLine r.msg)) s').taken = some t → After t u := by
  obtain ⟨u, s', hu, b, a⟩ := exec_taken ht hb
  refine ⟨u, s', hu, b, fun t e => ?_⟩
  rw [← sedgeFind_congr b.acts.frame.gen b.acts.home] at e
  obtain ⟨t', e', f⟩ := reqStep_coherent hf (b.acts.frame.bad.trans hb) ((hteInH_congr b.acts.home _).trans hn) ho e
  exact f.ctrAfter.trans (a _ e')

theorem TakesHeld.runs (h : TakesHeld s c r j) :
    ∃ u s', exec c s = .next u ∧ Before s s' ∧ ∀ t, (heldAct r j s').taken = some t → After t u := by
  unfold heldAct
  cases ho : isCohOp (hOpcode r.msg) with
  | true =>
    have e := exec_home h.takes h.mem h.clean h.noH ho
    rwa [h.entry] at e
  | false =>
    obtain ⟨u, s', hu, b, a⟩ := exec_taken h.takes h.clean
    refine ⟨u, s', hu, b, fun t e => a t ?_⟩
    rw [reqStep_entry h.mem (b.acts.frame.bad.trans h.clean) ((hteInH_congr b.acts.home _).trans h.noH) ho
      ((pdOn_pw (b.acts.frame.same .pw (by decide)) 68).trans h.home) ((sedgeFind_congr b.acts.frame.gen b.acts.home _).trans h.entry)]
    exact e

end

/-! ### Reclaims (Table 8.6) -/

section
variable {s : State} {r : Req} {j : Nat} {pull : Option Bool} {ts : List Nat} {after : Option SedgeE}

theorem takeSend_only (e : SedgeE) (l : LAddr) (h : Hte) (pull : Option Bool) (ts : List Nat) (s : State) :
    OnlyChanges [.d0, .d1, .ctr, .peat] s (takeSend e l h pull ts s) := by
  have t := fun x => fwdAll_only Op.inv ts l h true (isOwner e) x
  cases pull with
  | none => exact t s
  | some keep => exact (fwdSend_only ..).trans (t _)

/-- The home takes charge of the line of an access: it awaits the owner's data or the answers to INVs (R193). -/
theorem homeTake_inCharge {kind : HKind} {invs : List Nat} {io : Bool} {adj : State → State} (hf : hteFree s = true) (hb : s.bad = [])
    (ha : Adjusts adj) (ht : ts = invs ++ (if io && (sedgeGet s j).ov then [(sedgeGet s j).owner.toNat] else [])) (hn : pull.isSome = true ∨ ts ≠ []) :
    ∃ t, homeTake r kind j pull invs io after adj s = .done t ∧ InCharge s t r j pull ts after := by
  subst ht
  let e := sedgeGet s j
  let l := hLine r.msg
  let ts := invs ++ (if io && e.ov then [e.owner.toNat] else [])
  let h : Hte := { hteNew s r l kind e.st with k := ts.map (BitVec.ofNat 8), d := if pull.isSome then some e.owner else none, after := after }
  let s1 := splruTouch j (adj s)
  obtain ⟨f, sh⟩ := ha s hb
  have f1 : OnlyChanges [.regul, .ctr, .home] s s1 := f.then (homeOnly ..)
  have n : ∀ x ∈ s1.home.htes, x.id ≠ h.id := by
    rw [show s1.home.htes = s.home.htes from sh.2.2]
    exact hteNew_fresh hf r l kind e.st
  have w : hReady { h with h := true } = false := by
    rcases hn with p | p
    · simp [hReady, h, p]
    · have k : h.k.isEmpty = false := by rw [List.isEmpty_map, List.isEmpty_eq_false_iff]; exact p
      simp [hReady, k]
  obtain ⟨v, ev, fv, o⟩ := hOpen_opened j n w (takeSend_only e l h pull ts)
  have sg : ∀ i, sedgeGet s1 i = sedgeGet s i := fun i => sh.sedgeGet i
  have pv := fv.pins.trans f1.pins
  refine ⟨takeSend e l h pull ts v, ?_, ⟨by rw [o.entry, sg], fun i hi => (o.others i hi).trans (sg i),
    ⟨_, o.htes.trans (by rw [show s1.home.htes = s.home.htes from sh.2.2]), rfl, rfl, rfl, rfl, rfl, rfl, rfl, rfl, ?_, ?_⟩, (f1.le _).then o.frame⟩⟩
  · rw [homeTake, if_neg (by simp [hf])]
    exact congrArg StepRes.done ev
  · rintro keep rfl
    refine (fwdAll_adds Op.inv ts l h true (isOwner e) _).out _ _ ?_
    have m := fwdSend_mem Op.pull e.owner.toNat l h true keep false v
    rwa [fwdOut_congr pv] at m
  · intro x hx
    have m : ∀ v', v'.pins = v.pins → fwdOut s Op.inv x l h true false (isOwner e x) ∈ outOf (fwdAll Op.inv ts l h true (isOwner e) v') (agentPort x) := by
      intro v' p
      have m := fwdAll_mem (op := Op.inv) (l := l) (h := h) (own := true) (w := isOwner e) hx v'
      rwa [fwdOut_congr (p.trans pv)] at m
    cases pull with
    | none => exact m v rfl
    | some keep => exact m _ (fwdSend_only ..).pins

end

/-- What a command does around the step that takes charge leaves the line in charge. -/
theorem InCharge.carry {s s' t u : State} {r : Req} {j : Nat} {pull : Option Bool} {ts : List Nat} {after : Option SedgeE}
    (h : InCharge s' t r j pull ts after) (b : Before s s') (a : After t u) : InCharge s u r j pull ts after := by
  obtain ⟨x, htes, req, line, inH, acts, k, d, w, left, pulls, invs⟩ := h.hte
  have sh := b.acts.home
  have sg := sh.sedgeGet
  have home := a.frame.home
  have gu : ∀ i, sedgeGet u i = sedgeGet t i := fun i => by rw [sedgeGet, sedgeGet, home]
  have same : ∀ op a keep w, homeMsg s' op a x.id (hLine r.msg) keep w = homeMsg s op a x.id (hLine r.msg) keep w := fun op a keep w => by
    simp only [homeMsg, chipN, sreqN, b.acts.frame.pins]
  refine ⟨by rw [gu, h.entry, sg], fun i hi => (gu i).trans ((h.others i hi).trans (sg i)),
    ⟨x, by rw [home, htes, sh.2.2], req, line, inH, acts, k, by rw [d, sg], w, left, fun keep e => ?_, fun y m => ?_⟩,
    (b.acts.frame.trans h.frame).trans (a.frame.le _)⟩
  · have m := pulls keep e
    rwa [sg, same, ← a.agent] at m
  · have m := invs y m
    rwa [sg, same, ← a.agent] at m

/-- The access of a held line waits for what the home asked for (R182, R193). -/
theorem TakesHeld.inCharge {s : State} {c : Instr} {r : Req} {j : Nat} {pull : Option Bool} {invs ts : List Nat} {io : Bool} {after : Option SedgeE}
    (h : TakesHeld s c r j)
    (act : ∀ s', Before s s' → ∃ kind adj, Adjusts adj ∧ heldAct r j s' = homeTake r kind j pull invs io after adj s')
    (ht : ts = invs ++ (if io && (sedgeGet s j).ov then [(sedgeGet s j).owner.toNat] else [])) (hn : pull.isSome = true ∨ ts ≠ []) :
    ∃ u, exec c s = .next u ∧ InCharge s u r j pull ts after := by
  obtain ⟨u, s', hu, b, a⟩ := h.runs
  obtain ⟨kind, adj, ha, e⟩ := act s' b
  obtain ⟨t, et, i⟩ := homeTake_inCharge (s := s') (r := r) (j := j) (pull := pull) (after := after) (kind := kind) (b.acts.home.hteFree.trans h.free)
    (b.acts.frame.bad.trans h.clean) ha (by rw [b.acts.home.sedgeGet]; exact ht) hn
  exact ⟨u, hu, i.carry b (a t (by rw [e, et]; rfl))⟩

section
variable {s s' : State} {r : Req} {j : Nat} {e : SedgeE}

/-- The home serves an ATOM_C that the predictor places near of a line that agents hold when it has reclaimed it (R180, Table 8.5). -/
theorem heldAct_near (b : Before s s') (hb : s.bad = []) (he : e = sedgeGet s j) (ho : hOpcode r.msg = Op.atomC)
    (hp : (predict (hLine r.msg) (hCagent r.msg) true (otherHolder (some e) (hCagent r.msg)) s).1 = true) :
    ∃ p, heldAct r j s' = homeTake r .atomNear j (if e.st == 1 then none else some false) (invSet s e) false none (nearAdj r p) s' := by
  obtain ⟨p, ep⟩ := homeAtomC_eq (b.acts.frame.bad.trans hb) r (some j)
  refine ⟨p, ?_⟩
  rw [Option.map_some, b.acts.home.sedgeGet, ← he, b.predict hb, hp, if_pos rfl, atomNear, b.acts.home.sedgeGet, ← he, b.acts.invSet] at ep
  rw [← ep, heldAct, ho, homeAct, ho]
  rfl

/-- Another access than a read reclaims the line of its entry (Table 8.6). -/
theorem heldAct_reclaim (b : Before s s') (he : e = sedgeGet s j) (hs : r.src = .port) (hw : hOpcode r.msg = Op.wr ∨ hOpcode r.msg = Op.red ∨ hOpcode r.msg = Op.atom) :
    heldAct r j s' =
      if e.st == 1 then homeTake r .reclaim j none (invSet s e) false none (reclaimAdj r) s'
      else if hOpcode r.msg == Op.wr && wrWhole r.msg then homeTake r .reclaim j none (invSet s e) true none (reclaimAdj r) s'
      else homeTake r .reclaim j (some false) (invSet s e) false none (reclaimAdj r) s' := by
  have c : isCohOp (hOpcode r.msg) = false ∧ (hOpcode r.msg == Op.rd) = false := by rcases hw with h | h | h <;> rw [h] <;> exact ⟨rfl, rfl⟩
  simp only [heldAct, c, Bool.false_eq_true, if_false, gateEntry, b.acts.home.sedgeGet, b.acts.invSet, ← he, hs, ofMace, Bool.not_false, Bool.and_true]

/-- A read of an owned line reclaims it, and lets the owner keep a copy. -/
theorem heldAct_read (b : Before s s') (he : e = sedgeGet s j) (ho : hOpcode r.msg = Op.rd ∨ hOpcode r.msg = Op.rdOnce) (hs : (e.st == 1) = false) :
    ∃ kind adj, Adjusts adj ∧ heldAct r j s' = homeTake r kind j (some true) [] false (some (afterRead e)) adj s' := by
  rcases ho with ho | ho
  · refine ⟨.reclaim, _, reclaimAdj_adjusts r, ?_⟩
    rw [heldAct, ho, gateEntry, ho]
    simp only [b.acts.home.sedgeGet, ← he, hs]
    rfl
  · refine ⟨.rdOnce, _, adjusts_id, ?_⟩
    rw [heldAct, ho, homeAct, ho]
    show homeRdOnce r (some j) s' = _
    simp only [homeRdOnce, b.acts.home.sedgeGet, ← he, hs]
    rfl

end

theorem lineReclaimed : LineReclaimed := by
  intro c s r j e h he
  have port := h.takes.1
  have held : e.st = 2 ∨ e.st = 3 → (e.st == 1) = false := by rintro (k | k) <;> rw [k] <;> rfl
  refine ⟨fun ho hs => ?_, fun ho hw hs hn => ?_, fun ho hs => ?_, fun ho hs hn => ?_⟩
  · exact h.inCharge (fun s' b => heldAct_read b he ho (held hs)) rfl (.inl rfl)
  · refine h.inCharge (io := true) (invs := invSet s e) (fun s' b => ⟨.reclaim, _, reclaimAdj_adjusts r, ?_⟩) (by rw [he, Bool.true_and]) (.inr hn)
    rw [heldAct_reclaim b he port (.inl ho), held hs, hw, ho]
    rfl
  · refine h.inCharge (invs := invSet s e) (io := false) (fun s' b => ?_) (by simp) (.inl rfl)
    have part : (hOpcode r.msg = Op.wr ∨ hOpcode r.msg = Op.red ∨ hOpcode r.msg = Op.atom) → (hOpcode r.msg == Op.wr && wrWhole r.msg) = false →
        ∃ kind adj, Adjusts adj ∧ heldAct r j s' = homeTake r kind j (some false) (invSet s e) false none adj s' := fun o w =>
      ⟨_, _, reclaimAdj_adjusts r, by rw [heldAct_reclaim b he port o, held hs, w]; rfl⟩
    rcases ho with ⟨ho, hw⟩ | ho | ho | ⟨ho, hp⟩
    · exact part (.inl ho) (by rw [hw, Bool.and_false])
    · exact part (.inr (.inl ho)) (by rw [ho]; rfl)
    · exact part (.inr (.inr ho)) (by rw [ho]; rfl)
    · obtain ⟨p, ep⟩ := heldAct_near b h.clean he ho hp
      rw [held hs] at ep
      exact ⟨_, _, nearAdj_adjusts r p, ep⟩
  · refine h.inCharge (invs := invSet s e) (io := false) (fun s' b => ?_) (by simp) (.inr hn)
    rcases (or_assoc.trans (or_congr_right or_assoc)).mpr ho with hw | ⟨ho, hp⟩
    · exact ⟨.reclaim, _, reclaimAdj_adjusts r, by rw [heldAct_reclaim b he port hw, hs]; rfl⟩
    · obtain ⟨p, ep⟩ := heldAct_near b h.clean he ho hp
      rw [hs] at ep
      exact ⟨_, _, nearAdj_adjusts r p, ep⟩

end Sys2Proof.Machine
end

section
namespace Sys2Proof.Machine

-- One declaration after the other: the threads of declarations that wait for one another exhaust the memory that a compile may take.
set_option Elab.async false

/-! ### Room in the Sedge (R166, R167) -/

section
variable {s : State} {c : Instr} {r : Req} {op : Nat}

/-- A coherent request of a line that has no entry performs its row of Table 8.5. -/
theorem TakesMem.runs (h : TakesMem s c r op) (ho : isCohOp op = true) :
    ∃ u s', exec c s = .next u ∧ Before s s' ∧ ∀ t, (homeAct r none s').taken = some t → After t u := by
  have e := exec_home h.takes h.mem h.clean h.noH (h.opcode ▸ ho)
  rwa [h.noEntry] at e

/-- A coherent read of a line that has no entry needs one. -/
theorem homeAct_room (ho : hOpcode r.msg = Op.rdShr ∨ hOpcode r.msg = Op.rdUnq ∨ hOpcode r.msg = Op.upgrade) (s : State) :
    ∃ k, homeAct r none s = withRoom r k s := by
  rcases ho with h | h | h <;> exact ⟨_, by rw [homeAct, h]; rfl⟩

/-- A victim's holders are told to give up its line, which stays in H until they have (R166). -/
theorem backInvalidate_opened {j : Nat} {ts : List Nat} (r : Req) (hf : hteFree s = true)
    (ht : ts = invSet s (sedgeGet s j) ++ (if (sedgeGet s j).ov then [(sedgeGet s j).owner.toNat] else [])) (hn : ts ≠ []) :
    ∃ t h, backInvalidate r j s = .attached t ∧ Opened s t h j ∧ h.req = r ∧ h.line = sedgeLine s j ∧ h.kind = .backInv ∧ h.h = true ∧
      h.k = ts.map (BitVec.ofNat 8) ∧ ∀ x ∈ ts, ∃ w, homeMsg s Op.backInv x h.id (sedgeLine s j) false w ∈ outOf t (agentPort x) := by
  subst ht
  let e := sedgeGet s j
  let l := sedgeLine s j
  let ow := if e.ov then [e.owner.toNat] else []
  let ts := invSet s e ++ ow
  let h : Hte := { hteNew s r l .backInv e.st with k := ts.map (BitVec.ofNat 8), biOwner := if e.ov then some e.owner else none }
  have k : h.k.isEmpty = false := by rw [List.isEmpty_map, List.isEmpty_eq_false_iff]; exact hn
  obtain ⟨v, ev, fv, o⟩ := hOpen_opened (h := h) j (hteNew_fresh hf r l .backInv e.st) (by simp [hReady, k])
    (fun x => fwdAll_only Op.backInv ts l h true ow.contains x)
  refine ⟨_, _, ?_, o, rfl, rfl, rfl, rfl, rfl, fun x m => ⟨ow.contains x, ?_⟩⟩
  · rw [backInvalidate, if_neg (by simp [hf]), ← ev]
    rfl
  · have q := fwdAll_mem (op := Op.backInv) (l := l) (h := h) (own := true) (w := ow.contains) m v
    rwa [fwdOut_congr fv.pins] at q

end

theorem roomMade : RoomMade := by
  intro c s r op ht ho
  have hc : isCohOp op = true := by rcases ho with h | h | h <;> rw [h] <;> rfl
  obtain ⟨u, s', hu, b, a⟩ := ht.runs hc
  have sh := b.acts.home
  obtain ⟨k, ek⟩ := homeAct_room (r := r) (by rw [ht.opcode]; exact ho) s'
  rw [ek, withRoom, sh.sedgeRoom, b.acts.liveSet] at a
  refine ⟨fun j ts hr hf he hn => ?_, fun hr => ?_⟩
  · rw [hr] at a
    obtain ⟨t, h, e, o, req, line, kind, inH, waits, msgs⟩ := backInvalidate_opened (s := s') (j := j) (ts := ts) r (sh.hteFree.trans hf)
      (by rw [b.acts.invSet, sh.sedgeGet]; exact he) hn
    have au := a t (by dsimp only; rw [e]; rfl)
    have gu : ∀ i, sedgeGet u i = sedgeGet t i := fun i => by rw [sedgeGet, sedgeGet, au.frame.home]
    have ln := sh.sedgeLine b.acts.frame.gen j
    refine ⟨u, h, hu, by rw [gu, o.entry, sh.sedgeGet], fun i hi => (gu i).trans (sh.sedgeBut o.others i hi), by rw [au.frame.home, o.htes, sh.2.2], req,
      line.trans ln, kind, inH, waits, fun x m => ?_, ((b.acts.frame.then o.frame).then au.frame)⟩
    obtain ⟨w, q⟩ := msgs x m
    refine ⟨w, ?_⟩
    rw [au.agent, ← ln]
    simpa only [homeMsg, chipN, sreqN, b.acts.frame.pins] using q
  · rw [hr] at a
    have au := a _ rfl
    obtain ⟨o, an, res, -⟩ := compTo_answers r.port r.msg (subjReq r) St.retry 0 (occR 0x14 r 1 s') (by decide)
    obtain ⟨o', an', e'⟩ := an.carry au.last
    have f := (b.acts.andThen (occR_only 0x14 r 1 s')).trans (respond_acts r.port r.msg (subjReq r) { op := Op.comp, vc := Vc.rsp, status := St.retry, result := 0 } _)
    have f' := f.trans (au.frame.acts [])
    exact ⟨u, o', hu, an', by rw [e', res]; rfl, f'.home, f'.frame⟩

end Sys2Proof.Machine
end

section
namespace Sys2Proof.Machine

-- One declaration after the other: the threads of declarations that wait for one another exhaust the memory that a compile may take.
set_option Elab.async false

/-! ### Rows of Table 8.5 that take no line to H -/

/-- From `s` to `u` the home has performed row `a` for request `r` (R169, R172): its HTE is new, its entry is as the row leaves it, and its messages are queued. -/
structure RowDone (l : List Part) (s u : State) (r : Req) (a : CohAct) : Prop where
  hte : ∃ h, u.home.htes = s.home.htes ++ [h] ∧ h.req = r ∧ h.line = hLine r.msg ∧ h.a = true ∧ h.h = false ∧ h.k = a.invs.map (BitVec.ofNat 8) ∧
    h.grant = (a.grant && !a.invs.isEmpty)
  entry : sedgeGet u a.key = a.entry
  others : SedgeBut s u a.key
  fwd : ∀ op x, a.fwd = some (op, x) → forwardOf s op x r.msg (hLine r.msg) false ∈ outOf u (agentPort x)
  invs : ∀ x ∈ a.invs, forwardOf s Op.inv x r.msg (hLine r.msg) (a.owner == some x) ∈ outOf u (agentPort x)
  frame : OnlyChanges (l ++ stepParts) s u

section
variable {l m : List Part} {s t u : State} {r : Req} {a : CohAct}

/-- A row stands for what is done before it, where that leaves the home's entries and transactions. -/
theorem RowDone.since (h : RowDone l t u r a) (k : Acts m s t) (p : t.pins = s.pins) (j : l ++ stepParts ⊆ m ++ stepParts := by decide) :
    RowDone m s u r a := by
  obtain ⟨x, htes, rest⟩ := h.hte
  have same : ∀ op y w, forwardOf t op y r.msg (hLine r.msg) w = forwardOf s op y r.msg (hLine r.msg) w := fun op y w => by
    simp only [forwardOf, chipN, p]
  exact ⟨⟨x, by rw [htes, k.home.2.2], rest⟩, h.entry, k.home.sedgeBut h.others, fun op y e => same op y false ▸ h.fwd op y e,
    fun y e => same Op.inv y _ ▸ h.invs y e, k.frame.trans (h.frame.mono j)⟩

/-- A row stands for what follows its step. -/
theorem RowDone.upto (h : RowDone l s t r a) (k : After t u) : RowDone l s u r a := by
  have gu : ∀ i, sedgeGet u i = sedgeGet t i := fun i => by rw [sedgeGet, sedgeGet, k.frame.home]
  exact ⟨by rw [k.frame.home]; exact h.hte, (gu _).trans h.entry, fun i hi => (gu i).trans (h.others i hi), fun op y e => by rw [k.agent]; exact h.fwd op y e,
    fun y e => by rw [k.agent]; exact h.invs y e, h.frame.trans (k.frame.mono fun p hp => List.mem_append_right _ ((by decide : [Part.d0, .d1, .sout, .ctr] ⊆ stepParts) hp))⟩

end

theorem cohFwd_only (r : Req) (a : CohAct) (h : Hte) (s : State) : OnlyChanges [.d0, .d1, .ctr, .peat] s (cohFwd r a h s) := by
  unfold cohFwd
  split
  · exact fwdSend_only ..
  · exact .refl _ _

theorem cohFwd_adds (r : Req) (a : CohAct) (h : Hte) (s : State) : Adds s (cohFwd r a h s) := by
  unfold cohFwd
  split
  · exact fwdSend_adds ..
  · exact .refl _

/-- The newest entry of a table alone has its number. -/
theorem hteMod_new {s : State} {h : Hte} {l : List Hte} (e : s.home.htes = l ++ [h]) (n : ∀ x ∈ l, x.id ≠ h.id) (f : Hte → Hte) :
    (hteMod h.id f s).home.htes = l ++ [f h] := by
  show lmod _ f s.home.htes = _
  rw [e, lmod, List.map_append]
  refine congrArg₂ _ (lmod_same fun x m i => absurd (of_decide_eq_true i) (n x m)) ?_
  simp

/-- The row's GRANT, when no INV is awaited. -/
def cohGrant (a : CohAct) (h : Hte) (s : State) : State :=
  if a.grant && a.invs.isEmpty then grantSend h (hteMod h.id (fun h => { h with grant := false }) s) else s

theorem grantSend_only (h : Hte) (s : State) : OnlyChanges [.d0, .d1, .sout] s (grantSend h s) :=
  (respond_only ..).mono (by cases h.req.port <;> decide)

theorem cohGrant_only (a : CohAct) (h : Hte) (s : State) : OnlyChanges [.home, .d0, .d1, .sout] s (cohGrant a h s) :=
  .ite (OnlyChanges.trans ((homeOnly ..).le _) ((grantSend_only ..).le _)) (.refl _ _)

theorem cohGrant_adds (a : CohAct) (h : Hte) (s : State) : Adds s (cohGrant a h s) :=
  .ite (Adds.trans (OnlyChanges.adds (l := [.home]) (homeOnly ..)) (respond_adds ..)) (.refl _)

theorem cohGrant_sedge (a : CohAct) (h : Hte) (s : State) : (cohGrant a h s).home.sedge = s.home.sedge := by
  unfold cohGrant
  split
  · rw [(grantSend_only h _).home]; rfl
  · rfl

/-- A GRANT that has left is no longer owed. -/
theorem cohGrant_htes {a : CohAct} {h : Hte} {s : State} {l : List Hte} (e : s.home.htes = l ++ [h]) (n : ∀ x ∈ l, x.id ≠ h.id) (g : h.grant = a.grant) :
    (cohGrant a h s).home.htes = l ++ [{ h with grant := a.grant && !a.invs.isEmpty }] := by
  unfold cohGrant
  cases i : a.grant && a.invs.isEmpty with
  | true =>
    obtain ⟨ag, ai⟩ := Bool.and_eq_true_iff.mp i
    rw [if_pos rfl, (grantSend_only h _).home, hteMod_new e n, ai, Bool.not_true, Bool.and_false]
  | false =>
    have k : (a.grant && !a.invs.isEmpty) = h.grant := by
      rw [g]
      cases ag : a.grant with
      | false => rfl
      | true => rw [ag] at i; simpa using i
    rw [if_neg nofun, e, k]

section
variable {s : State} {r : Req} {a : CohAct} {adj : State → State}

/-- A row's HTE, entry and messages (R169, R172); a row that sends no message leaves those queued as they are. -/
theorem cohFin_done (hb : s.bad = []) (hf : hteFree s = true) (ha : Adjusts adj) (hz : a.entry.st ≠ 0) :
    RowDone [] s (cohFin r a adj s) r a ∧ Adds s (cohFin r a adj s) ∧
      (a.fwd = none → a.invs = [] → a.grant = false → SameLast s (cohFin r a adj s)) := by
  let h := cohHte r a s
  let s0 := splruTouch a.key (sedgeSet a.key a.entry (hteAdd h s))
  let s1 := adj s0
  let s2 := cohFwd r a h s1
  let s3 := fwdAll Op.inv a.invs (hLine r.msg) h false (a.owner == some ·) s2
  let s4 := cohGrant a h s3
  obtain ⟨f1, sh⟩ := ha s0 hb
  have f01 : OnlyChanges [.regul, .ctr, .home] s s1 := OnlyChanges.trans ((homeOnly ..).le _) f1
  have f2 : OnlyChanges [.d0, .d1, .ctr, .peat] s1 s2 := cohFwd_only ..
  have f3 : OnlyChanges [.d0, .d1, .ctr, .peat] s2 s3 := fwdAll_only ..
  have f4 : OnlyChanges [.home, .d0, .d1, .sout] s3 s4 := cohGrant_only ..
  have frame : OnlyChanges stepParts s s4 := (((f01.le _).then f2).then f3).then f4
  have a34 : Adds s3 s4 := cohGrant_adds ..
  have a24 : Adds s2 s4 := (fwdAll_adds ..).trans a34
  have h31 : s3.home = s1.home := (f2.trans f3).home
  have htes : s4.home.htes = s.home.htes ++ [{ h with grant := a.grant && !a.invs.isEmpty }] :=
    cohGrant_htes (by rw [h31]; exact sh.2.2) (hteNew_fresh hf r (hLine r.msg) a.kind (sedgeGet s a.key).st) rfl
  have sg : ∀ i, sedgeGet s4 i = sedgeGet s0 i := fun i => by
    rw [sedgeGet, cohGrant_sedge, h31, sh.1]
    rfl
  refine ⟨⟨⟨_, htes, rfl, rfl, rfl, rfl, rfl, rfl⟩, (sg _).trans (sget_sset_self _ _ _ fun z => ?_), fun i hi => (sg i).trans (sget_sset_ne _ _ _ hi),
    fun op x e => ?_, fun x m => ?_, frame⟩, ((f01.adds.trans (cohFwd_adds ..)).trans a24), fun ef ei eg => ?_⟩
  · exact hz (congrArg SedgeE.st z)
  · refine a24.out _ _ ?_
    have q := fwdSend_mem op x (hLine r.msg) h false false false s1
    rw [fwdOut_congr f01.pins] at q
    have e2 : s2 = fwdSend op x (hLine r.msg) h false false false s1 := by simp only [s2, cohFwd, e]
    exact e2 ▸ q
  · refine a34.out _ _ ?_
    have q := fwdAll_mem (op := Op.inv) (l := hLine r.msg) (h := h) (own := false) (w := (a.owner == some ·)) m s2
    rw [fwdOut_congr (f2.pins.trans f01.pins)] at q
    exact q
  · have e2 : s2 = s1 := by simp only [s2, cohFwd, ef]
    have e4 : s4 = s1 := by
      simp only [s4, cohGrant, eg, Bool.false_and, Bool.false_eq_true, if_false, s3, fwdAll, ei, List.foldl_nil, e2]
    exact (e4 ▸ f01.sameLast : SameLast s s4)

/-- A row without a read. -/
theorem cohAct_unread (hb : s.bad = []) (hf : hteFree s = true) (ha : Adjusts adj) (hz : a.entry.st ≠ 0) (hr : a.read = none) :
    ∃ t, cohAct r a adj s = .done t ∧ RowDone [] s t r a := by
  let v := if a.fwd.isSome && hOpcode r.msg != Op.upgrade then addServed r 128 s else s
  have fv : OnlyChanges [.regul, .ctr] s v := .ite (addServed_only ..) (.refl _ s)
  have f : OnlyChanges [.regul, .ctr, .peat, .ints, .log, .d0] s (watchAcc (accReq r 128 0 0) v) := (fv.le _).then (watchAcc_only ..)
  obtain ⟨d, -⟩ := cohFin_done (r := r) (a := a) (f.bad.trans hb) (f.sameHome.hteFree.trans hf) ha hz
  refine ⟨_, ?_, d.since (f.acts []) f.pins⟩
  rw [cohAct, if_neg (by simp [hf]), hr]

end

/-- A response is made of its message and the pins alone. -/
theorem rspMsg_pins {s u : State} (h : u.pins = s.pins) (p : Port) (m : Msg) (x : Rsp) : rspMsg u p m x = rspMsg s p m x := by
  rw [rspMsg, rspMsg, chipN, chipN, h]

/-- The answer with the whole line at `k` of the array, and GST and GPEND (Table 8.4). -/
def lineRsp (s : State) (k g : Nat) (p : Bool) : Rsp :=
  { op := Op.data, vc := Vc.dat, status := poiSt (tagGet s k).poi, map := 3, result := g + 4 * b2n p,
    beats := [lineBeat (dataGet s k) 0, lineBeat (dataGet s k) 1] }

/-- From `s` to `u` the home has performed row `a` for request `r`, with the line that it read at `k` of the array: with `g` and `p` as GST and GPEND (Table 8.4). -/
structure Granted (s u : State) (r : Req) (k : Nat) (a : CohAct) (g : Nat) (p : Bool) : Prop where
  row : RowDone [.arr] s u r a
  data : u.arr.data = s.arr.data
  tag : LineAt s u k { tagGet s k with pf := false } (dataGet s k)
  out : ∃ o ∈ outOf u r.port, o.msg = rspMsg s r.port r.msg (lineRsp s k g p)
  last : a.fwd = none → a.invs = [] → a.grant = false → ∃ o, Answers u r.port r.msg Op.data (poiSt (tagGet s k).poi) o ∧
    hResult o.msg = (g + 4 * b2n p) % 2 ^ 64 ∧ o.msg.beats = [lineBeat (dataGet s k) 0, lineBeat (dataGet s k) 1]

/-- A row that reads its line from the array. -/
theorem cohAct_way {s : State} {r : Req} {k : Nat} {a : CohAct} {adj : State → State} {g : Nat} {p : Bool} (hb : s.bad = []) (hf : hteFree s = true)
    (hl : placeOf s (hLine r.msg) = .way k) (ha : Adjusts adj) (hz : a.entry.st ≠ 0) (hr : a.read = some (g, p)) :
    ∃ t, cohAct r a adj s = .done t ∧ Granted s t r k a g p := by
  obtain ⟨v, ev, hv⟩ := memRead_way hb hl (.coh g p)
  let x := lineRsp s k g p
  let t := respond r.port r.msg (subjReq r) x v
  have f : Acts [.arr] s t := (hv.frame.acts [.arr]).then (respond_acts r.port r.msg (subjReq r) x v)
  have pins : t.pins = s.pins := f.frame.pins
  have arr : t.arr = v.arr := (respond_acts r.port r.msg (subjReq r) x v).frame.arr
  obtain ⟨d, ad, q⟩ := cohFin_done (r := r) (a := a) (f.frame.bad.trans hb) (f.home.hteFree.trans hf) ha hz
  obtain ⟨o, an, res, beats⟩ := respond_answers r.port r.msg (subjReq r) x v (show Op.data < 2 ^ 6 by decide) (poiSt_lt (tagGet s k).poi)
  refine ⟨_, ?_, d.since f pins, ?_, (hv.line (placeOf_valid hl)).congr rfl (d.frame.arr.trans arr), ?_, fun ef ei eg => ?_⟩
  · rw [cohAct, if_neg (by simp [hf]), hr]
    dsimp only
    rw [ev]
    rfl
  · rw [d.frame.arr, arr, hv.data]
  · exact ⟨_, ad.out _ _ (emit_mem ..), rspMsg_pins hv.frame.pins r.port r.msg x⟩
  · obtain ⟨o', an', e'⟩ := an.carry (q ef ei eg)
    exact ⟨o', an', (congrArg hResult e').trans res, (congrArg Msg.beats e').trans beats⟩

theorem Granted.carry {s s' t u : State} {r : Req} {k : Nat} {a : CohAct} {g : Nat} {p : Bool} (h : Granted s' t r k a g p) (b : Before s s')
    (c : After t u) : Granted s u r k a g p := by
  have arr := b.acts.frame.arr
  have tg : tagGet s' k = tagGet s k := b.acts.tagGet k
  have dg : dataGet s' k = dataGet s k := dataGet_arr arr k
  refine ⟨(h.row.since (b.acts.le [.arr]) b.acts.frame.pins).upto c, by rw [c.frame.arr, h.data, arr], ?_, ?_, fun ef ei eg => ?_⟩
  · have w := h.tag.congr arr.symm c.frame.arr
    rwa [tg, dg] at w
  · obtain ⟨o, m, e⟩ := h.out
    obtain ⟨o', m', e'⟩ := c.out _ o m
    refine ⟨o', m', ?_⟩
    rw [e', e, lineRsp, tg, dg, rspMsg_pins b.acts.frame.pins]
    rfl
  · obtain ⟨o, an, res, beats⟩ := h.last ef ei eg
    obtain ⟨o', an', e'⟩ := an.carry c.last
    rw [tg, dg] at *
    exact ⟨o', an', by rw [e', res], by rw [e', beats]⟩

end Sys2Proof.Machine
end

section
namespace Sys2Proof.Machine

-- One declaration after the other: the threads of declarations that wait for one another exhaust the memory that a compile may take.
set_option Elab.async false

/-! ### Reads of lines that agents share, and far ATOM_Cs (Table 8.5, R179) -/

theorem addSharer_st (e : SedgeE) (c : Nat) : (addSharer e c).st = e.st := by
  unfold addSharer withGroups
  dsimp only
  split
  · rfl
  · split
    · rfl
    · split
      · rfl
      · split
        · split <;> rfl
        · rfl

/-- The row of a RD_UNQ, or of an ATOM_C that the predictor places far, of a line with entry `e` at `j`. -/
def unqAct (s : State) (r : Req) (j : Nat) (e : SedgeE) : CohAct :=
  let invs := (invSet s e).filter (· ≠ hCagent r.msg)
  { kind := .rdUnq, key := j, entry := ownE e (hCagent r.msg), read := if e.st == 1 then some (2, !invs.isEmpty) else none,
    fwd := if e.st == 1 then none else some (Op.fwdUnq, e.owner.toNat), invs := invs, owner := none, grant := e.st != 1 || !invs.isEmpty, only := false }

/-- The row of a RD_SHR of a line that agents share, with entry `e` at `j`. -/
def shrAct (r : Req) (j : Nat) (e : SedgeE) : CohAct :=
  { kind := .rdShr, key := j, entry := addSharer e (hCagent r.msg), read := some (0, false), fwd := none, invs := [], owner := none, grant := false, only := false }

/-- The row of a RD_UNQ of a line without an entry, which takes entry `j`. -/
def newUnqAct (s : State) (r : Req) (j : Nat) : CohAct :=
  { kind := .rdUnq, key := j, entry := ownE (sedgeNew s (hLine r.msg)) (hCagent r.msg), read := some (2, false), fwd := none, invs := [], owner := none,
    grant := false, only := false }

section
variable {s s' : State} {r : Req} {j : Nat} {e : SedgeE}

theorem heldAct_rdShr (b : Before s s') (he : e = sedgeGet s j) (hs : e.st = 1) (ho : hOpcode r.msg = Op.rdShr) :
    heldAct r j s' = cohAct r (shrAct r j e) id s' := by
  rw [heldAct, ho, homeAct, ho]
  show homeRdShr r (some j) s' = _
  rw [homeRdShr, b.acts.home.sedgeGet, ← he, hs]
  rfl

theorem homeRdUnq_some (b : Before s s') (he : e = sedgeGet s j) (adj : State → State) :
    homeRdUnq r (some j) adj s' = cohAct r (unqAct s r j e) adj s' := by
  rw [homeRdUnq, unqAct, b.acts.home.sedgeGet, ← he, b.acts.invSet]

/-- RD_UNQ, or a far ATOM_C, which is served as one (R179). -/
theorem heldAct_unq (b : Before s s') (hb : s.bad = []) (he : e = sedgeGet s j) (ho : hOpcode r.msg = Op.rdUnq ∨ hOpcode r.msg = Op.atomC ∧
      (predict (hLine r.msg) (hCagent r.msg) true (otherHolder (some e) (hCagent r.msg)) s).1 = false) :
    ∃ adj, Adjusts adj ∧ heldAct r j s' = cohAct r (unqAct s r j e) adj s' := by
  rcases ho with ho | ⟨ho, hp⟩
  · refine ⟨id, adjusts_id, ?_⟩
    rw [heldAct, ho, homeAct, ho]
    exact homeRdUnq_some b he id
  · obtain ⟨p, ep⟩ := homeAtomC_eq (b.acts.frame.bad.trans hb) r (some j)
    refine ⟨_, farAdj_adjusts r p, ?_⟩
    rw [Option.map_some, b.acts.home.sedgeGet, ← he, b.predict hb, hp, if_neg nofun, homeRdUnq_some b he] at ep
    rw [← ep, heldAct, ho, homeAct, ho]
    rfl

end

section
variable {s : State} {c : Instr} {r : Req} {j k : Nat} {a : CohAct}

/-- A row of a held line whose copy the array has. -/
theorem TakesHeld.granted {g : Nat} {p : Bool} (h : TakesHeld s c r j) (hl : placeOf s (hLine r.msg) = .way k)
    (act : ∀ s', Before s s' → ∃ adj, Adjusts adj ∧ heldAct r j s' = cohAct r a adj s') (hz : a.entry.st ≠ 0) (hr : a.read = some (g, p)) :
    ∃ u, exec c s = .next u ∧ Granted s u r k a g p := by
  obtain ⟨u, s', hu, b, af⟩ := h.runs
  obtain ⟨adj, ha, e⟩ := act s' b
  obtain ⟨t, et, d⟩ := cohAct_way (b.acts.frame.bad.trans h.clean) (b.acts.home.hteFree.trans h.free) ((b.acts.placeOf _).trans hl) ha hz hr
  exact ⟨u, hu, d.carry b (af t (by rw [e, et]; rfl))⟩

/-- A row of a held line that reads nothing. -/
theorem TakesHeld.forwarded (h : TakesHeld s c r j) (act : ∀ s', Before s s' → ∃ adj, Adjusts adj ∧ heldAct r j s' = cohAct r a adj s')
    (hz : a.entry.st ≠ 0) (hr : a.read = none) : ∃ u, exec c s = .next u ∧ RowDone [] s u r a := by
  obtain ⟨u, s', hu, b, af⟩ := h.runs
  obtain ⟨adj, ha, e⟩ := act s' b
  obtain ⟨t, et, d⟩ := cohAct_unread (b.acts.frame.bad.trans h.clean) (b.acts.home.hteFree.trans h.free) ha hz hr
  exact ⟨u, hu, (d.since b.acts b.acts.frame.pins).upto (af t (by rw [e, et]; rfl))⟩

end

/-- A line without an entry is granted from the array to an ATOM_C that is placed far, with a free entry (R168, R179). -/
theorem farGranted {s : State} {c : Instr} {r : Req} {k j : Nat} (h : TakesMem s c r Op.atomC) (hl : placeOf s (hLine r.msg) = .way k)
    (hf : hteFree s = true) (hr : sedgeRoom s (liveSet s (hLine r.msg)) = .free j)
    (hp : (predict (hLine r.msg) (hCagent r.msg) true false s).1 = false) : ∃ u, exec c s = .next u ∧ Granted s u r k (newUnqAct s r j) 2 false := by
  obtain ⟨u, s', hu, b, af⟩ := h.runs rfl
  have hb := b.acts.frame.bad.trans h.clean
  obtain ⟨p, ep⟩ := homeAtomC_eq hb r none
  have e : homeAct r none s' = cohAct r (newUnqAct s r j) (farAdj r p) s' := by
    rw [Option.map_none, otherHolder, b.predict h.clean, hp, if_neg nofun] at ep
    rw [homeAct, h.opcode]
    refine ep.trans ?_
    rw [homeRdUnq]
    dsimp only
    rw [withRoom, b.acts.home.sedgeRoom, b.acts.liveSet, hr, b.acts.sedgeNew]
    rfl
  obtain ⟨t, et, d⟩ := cohAct_way hb (b.acts.home.hteFree.trans hf) ((b.acts.placeOf _).trans hl) (farAdj_adjusts r p)
    (show (newUnqAct s r j).entry.st ≠ 0 from nofun) rfl
  exact ⟨u, hu, d.carry b (af t (by rw [e, et]; rfl))⟩

/-- A read of a line that agents share is answered from the array; its entry stays (R63, R163). -/
theorem sharedRead {s : State} {c : Instr} {r : Req} {j k : Nat} (h : TakesHeld s c r j) (ho : hOpcode r.msg = Op.rd ∨ hOpcode r.msg = Op.rdOnce)
    (hs : (sedgeGet s j).st = 1) (hl : placeOf s (hLine r.msg) = .way k) : ∃ u o, exec c s = .next u ∧
    Answers u r.port r.msg Op.data (poiSt (tagGet s k).poi) o ∧ o.msg.beats = spanData (hOff r.msg) (hLen r.msg) (dataGet s k) ∧
    u.home.sedge = s.home.sedge ∧ u.home.htes = s.home.htes ∧ u.arr.data = s.arr.data ∧ OnlyChanges (.arr :: stepParts) s u := by
  obtain ⟨u, s', hu, b, af⟩ := h.runs
  obtain ⟨v, ev, hv⟩ := memRead_way (b.acts.frame.bad.trans h.clean) ((b.acts.placeOf _).trans hl) .plain
  let t := deliverRead r 0 (dataGet s' k) (tagGet s' k).poi v
  have a : Acts [] v t := deliverRead_acts h.takes.1 0 (dataGet s' k) (tagGet s' k).poi
  obtain ⟨o, an, beats⟩ := deliverRead_answers (s := v) h.takes.1 0 (dataGet s' k) (tagGet s' k).poi
  have e : heldAct r j s' = .done (splruTouch j t) := by
    have hit : hitRead j r s' = .done (splruTouch j t) := by rw [hitRead, ev]; rfl
    rw [← hit]
    rcases ho with ho | ho
    · rw [heldAct, ho, gateEntry, ho, b.acts.home.sedgeGet, hs]; rfl
    · rw [heldAct, ho, homeAct, ho]
      show homeRdOnce r (some j) s' = _
      rw [homeRdOnce, b.acts.home.sedgeGet, hs]; rfl
  have au := af _ (by rw [e]; rfl)
  have f : Acts [.arr] s t := ((b.acts.le [.arr]).then (hv.frame.acts [.arr])).then a
  have touch : OnlyChanges [.home] t (splruTouch j t) := homeOnly ..
  obtain ⟨o1, an1, e1⟩ := an.carry (touch.sameLast.trans au.last)
  rw [b.acts.tagGet] at an1
  rw [dataGet_arr b.acts.frame.arr] at beats
  refine ⟨u, o1, hu, an1, by rw [e1, beats], ?_, ?_, ?_, (f.frame.then touch).then au.frame⟩
  · rw [au.frame.home]; exact f.home.1
  · rw [au.frame.home]; exact f.home.2.2
  · rw [au.frame.arr, touch.arr, a.frame.arr, hv.data, b.acts.frame.arr]

theorem sharersServed : SharersServed := by
  intro c s r j k e ts h he hs hl ht
  refine ⟨fun ho => sharedRead h ho (he ▸ hs) hl, fun ho => ?_, fun ho => ?_⟩
  · obtain ⟨u, hu, d⟩ := h.granted hl (fun s' b => ⟨_, adjusts_id, heldAct_rdShr b he hs ho⟩)
      (show (addSharer e (hCagent r.msg)).st ≠ 0 by rw [addSharer_st, hs]; decide) rfl
    obtain ⟨o, an, res, beats⟩ := d.last rfl rfl rfl
    obtain ⟨x, htes, req, line, acts, inH, waits, grant⟩ := d.row.hte
    exact ⟨u, o, x, hu, an, beats, res, d.row.entry, d.row.others, htes, req, line, acts, inH, waits, grant, d.data, d.row.frame⟩
  · subst ht
    have one : (e.st == 1) = true := by rw [hs]; rfl
    obtain ⟨u, hu, d⟩ := h.granted hl (fun s' b => heldAct_unq b h.clean he ho) (show (unqAct s r j e).entry.st ≠ 0 from nofun)
      (by simp only [unqAct, one, if_true]; rfl)
    obtain ⟨o, m, em⟩ := d.out
    obtain ⟨x, htes, req, line, acts, inH, waits, grant⟩ := d.row.hte
    refine ⟨u, o, x, hu, m, em, d.row.invs, d.row.entry, d.row.others, htes, req, line, acts, inH, waits, grant.trans ?_, d.data, d.row.frame⟩
    simp [unqAct, hs]

theorem atomFar : AtomFar := by
  refine ⟨fun c s r k j h hl hf hr hp => ?_, fun c s r j e h he hs ho hp => ?_⟩
  · obtain ⟨u, hu, d⟩ := farGranted h hl hf hr hp
    obtain ⟨o, an, res, beats⟩ := d.last rfl rfl rfl
    obtain ⟨x, htes, req, -, acts, inH, waits, -⟩ := d.row.hte
    exact ⟨u, o, x, hu, an, beats, res, d.row.entry, d.row.others, htes, req, acts, inH, waits, d.data, d.row.frame⟩
  · have n : (e.st == 1) = false := by rcases hs with k | k <;> rw [k] <;> rfl
    obtain ⟨u, hu, d⟩ := h.forwarded (fun s' b => heldAct_unq b h.clean he (.inr ⟨ho, hp⟩)) (show (unqAct s r j e).entry.st ≠ 0 from nofun)
      (by simp only [unqAct, n, Bool.false_eq_true, if_false])
    obtain ⟨x, htes, req, -, acts, inH, waits, -⟩ := d.hte
    exact ⟨u, x, hu, d.fwd _ _ (by simp only [unqAct, n, Bool.false_eq_true, if_false]), d.entry, d.others, htes, req, acts, inH, waits, d.frame⟩

end Sys2Proof.Machine
end

section
namespace Sys2Proof.Machine

-- One declaration after the other: the threads of declarations that wait for one another exhaust the memory that a compile may take.
set_option Elab.async false

/-! ### Near ATOM_Cs of lines that no agent holds (R126, R179, R180) -/

/-- A part that turns out to be as it was is no part of the frame. -/
theorem OnlyChanges.drop {p : Part} {l m : List Part} {s u : State} (h : OnlyChanges l s u) (k : p.same s u) (j : l ⊆ p :: m := by decide) :
    OnlyChanges m s u :=
  ⟨fun q hq => if e : q = p then e ▸ k else h.same q fun hl => (List.mem_cons.mp (j hl)).elim e hq⟩

/-- From `t`, where the operation of request `r` has been performed, to `u`: the home of `s` has an HTE more, which waits only for the COMP to leave (Table 8.3). -/
structure NearEnded (s t u : State) (r : Req) : Prop where
  sedge : u.home.sedge = s.home.sedge
  hte : ∃ h, u.home.htes = s.home.htes ++ [h] ∧ h.req = r ∧ h.done = true
  last : SameLast t u
  frame : OnlyChanges stepParts t u

/-- An ATOM_C that the predictor places near performs its operation in its step. -/
theorem exec_near {s : State} {c : Instr} {r : Req} (h : TakesMem s c r Op.atomC) (hf : hteFree s = true)
    (hp : (predict (hLine r.msg) (hCagent r.msg) true false s).1 = true) :
    ∃ u s', exec c s = .next u ∧ Before s s' ∧ ∀ l t, memOp r s' = .done t → Acts l s' t → .bad ∉ l → NearEnded s t u r := by
  obtain ⟨u, s', hu, b, af⟩ := h.runs rfl
  refine ⟨u, s', hu, b, fun l t et a n => ?_⟩
  have hb := b.acts.frame.bad.trans h.clean
  obtain ⟨p, ep⟩ := homeAtomC_eq hb r none
  rw [Option.map_none, otherHolder, b.predict h.clean, hp, if_pos rfl, atomNear, b.acts.home.hteFree, hf, et] at ep
  have e : homeAct r none s' = .done (openDone r .atomNear (nearAdj r p t)) := by
    rw [homeAct, h.opcode]
    exact ep
  obtain ⟨f, sh⟩ := nearAdj_adjusts r p t ((a.frame.bad (by simp [n, stepParts])).trans hb)
  have o : OnlyChanges [.home] (nearAdj r p t) (openDone r .atomNear (nearAdj r p t)) := homeOnly ..
  have w := f.then o
  have au := af _ (by rw [e]; rfl)
  have home := (b.acts.home.trans a.home).trans sh
  let x : Hte := { hteNew (nearAdj r p t) r (hLine r.msg) .atomNear 0 with done := true }
  have hx : u.home.htes = s.home.htes ++ [x] := by
    rw [au.frame.home]
    exact congrArg (· ++ [x]) home.2.2
  exact ⟨by rw [au.frame.home]; exact home.1, ⟨x, hx, rfl, rfl⟩, w.sameLast.trans au.last, (w.le _).then au.frame⟩

/-- An operation on a line that is nowhere in the slice reads it into a new miss entry first (R75, R126). -/
theorem memOp_absent {s : State} {r : Req} (hb : s.bad = []) (hl : placeOf s (hLine r.msg) = .absent) (hm : missRefuse s r = none) :
    ∃ t, memOp r s = .done t ∧ Acts [.mp] s t ∧ t.mp = { s.mp with miss := s.mp.miss ++ [{ missNew s r .read .waitIssue 0 0 with att := [.op r] }] } := by
  let s1 := missAdd { missNew s r .read .waitIssue 0 0 with att := [.op r] } s
  let s2 := countServed r 0x23 s1
  have f2 := countServed_only r 0x23 s1
  have f3 := watchAcc_acts (accReq r (spanLen r.msg) 0 0) s2
  refine ⟨watchAcc (accReq r (spanLen r.msg) 0 0) s2, ?_, ((OnlyChanges.acts (mpOnly _ s : OnlyChanges [.mp] s s1) [.mp]).andThen f2).then f3, ?_⟩
  · simp only [memOp, lookCheck_clean _ _ s hb, hl, hm]
    rfl
  · rw [f3.frame.mp, f2.mp]
    rfl

/-- An ATOM_C adds to no tally (R45). -/
theorem TallyOf.atomC {s u : State} {m : Msg} {n : Nat} (h : TallyOf s u m n) (ho : hOpcode m = Op.atomC) : u.tal = s.tal := by
  unfold TallyOf at h
  rwa [if_neg (by simp [countsTally, ho, Op.atomC, Op.wr, Op.red, Op.atom])] at h

theorem nearOnArray : NearOnArray := by
  intro c s r h hpoi hc hf hp
  obtain ⟨u, s', hu, b, end_⟩ := exec_near h hf hp
  have hb := b.acts.frame.bad.trans h.clean
  have arr := b.acts.frame.arr
  have mp := b.acts.frame.mp
  refine ⟨fun k hl hk => ?_, fun hl hm => ?_⟩
  · obtain ⟨t, et, a, d, w, m⟩ := memOp_way h.takes.1 hb (b.acts.storeWf hc.storeWf) ((b.acts.placeOf _).trans hl) (by rw [b.acts.tagGet]; exact hk)
    obtain ⟨sedge, ⟨x, htes, req, done⟩, last, frame⟩ := end_ _ t et a (by decide)
    obtain ⟨o, an, res⟩ := d.answer
    obtain ⟨o', an', e'⟩ := an.carry last
    rw [dataGet_arr arr] at w m res
    rw [b.acts.tagGet] at w m
    rw [mp] at m
    have w' := w.congr arr.symm frame.arr
    have f : OnlyChanges (.arr :: .mp :: stepParts) s' t := a.frame.drop (p := .tal) (d.tally.atomC h.opcode)
    refine ⟨u, o', x, hu, an', w'.data, w'.datas, ?_, w'.tags, ?_, by rw [e', res], sedge, htes, req, done, (b.acts.frame.le _ |>.trans f).then frame⟩
    · exact w'.tag
    · rw [frame.mp, m]
      rfl
  · obtain ⟨t, et, a, m⟩ := memOp_absent hb ((b.acts.placeOf _).trans hl) ((b.acts.missRefuse _).trans hm)
    obtain ⟨sedge, ⟨x, htes, req, done⟩, -, frame⟩ := end_ _ t et a (by decide)
    refine ⟨u, x, hu, ?_, sedge, htes, req, done, (b.acts.frame.le _ |>.trans a.frame).then frame⟩
    rw [frame.mp, m, mp, b.acts.missNew]

end Sys2Proof.Machine

namespace Sys2Proof

/-- Settles O17: the rows of Tables 8.5 and 8.6 for near and far ATOM_Cs, for accesses and reads of held lines, and for a full Sedge set. -/
theorem atomNear : Obligations.AtomNear :=
  ⟨Machine.nearOnArray, Machine.lineReclaimed, Machine.sharersServed, Machine.atomFar, Machine.roomMade⟩

end Sys2Proof
end

section
/-! SUPPORT. The canonical form of the stores, kept by every operation: one lemma per operation, that names the operations it is made of. -/

namespace Sys2Proof.Machine

-- One declaration after the other: the threads of declarations that wait for one another exhaust the memory that a compile may take.
set_option Elab.async false

section
variable {s t : State}

/-! ### How operations compose -/

theorem Canonical.ite {c : Prop} [Decidable c] (h : Canonical s) (k : Canonical t) : Canonical (if c then s else t) := by split <;> assumption

theorem Canonical.when {c : Prop} [Decidable c] (h : Canonical s) (k : Canonical s → Canonical t) : Canonical (if c then t else s) := .ite (k h) h

theorem Canonical.unless {c : Prop} [Decidable c] (h : Canonical s) (k : Canonical s → Canonical t) : Canonical (if c then s else t) := .ite h (k h)

theorem Canonical.foldl {α : Type} {f : State → α → State} {l : List α} (h : Canonical s) (hf : ∀ {t a}, Canonical t → Canonical (f t a)) :
    Canonical (l.foldl f s) := List.foldlRecOn l f h fun _ k _ _ => hf k

theorem Canonical.foldlSnd {α β : Type} {f : β × State → α → β × State} {x : β × State} {l : List α} (h : Canonical x.2)
    (hf : ∀ {y a}, Canonical y.2 → Canonical (f y a).2) : Canonical (l.foldl f x).2 :=
  List.foldlRecOn (motive := fun y => Canonical y.2) l f h fun _ k _ _ => hf k

/-- The state that a tag-pipe step ends in. -/
def StepRes.state : StepRes → State
  | .done s | .hold _ s | .attached s => s

theorem Canonical.ends {x y : StepRes} (h : Canonical x.state) (e : x = y) : Canonical y.state := e ▸ h

/-- The state that an operation answers, if it answers one, is in canonical form. -/
def SomeCanonical : Option State → Prop
  | some s => Canonical s
  | none => True

theorem SomeCanonical.get {o : Option State} (h : SomeCanonical o) (e : o = some s) : Canonical s := by subst e; exact h

/-- The state with a line installed, if it is, is in canonical form. -/
def OkCanonical : InstRes → Prop
  | .ok s => Canonical s
  | _ => True

theorem OkCanonical.get {x : InstRes} (h : OkCanonical x) (e : x = .ok s) : Canonical s := by subst e; exact h

/-- The state that a command leads to, if it leads to one, is in canonical form. -/
def NextCanonical : Out3 → Prop
  | .next s => Canonical s
  | _ => True

/-! ### A part of the state replaced -/

theorem Canonical.withPending {x : List Instr} (h : Canonical s) : Canonical { s with pending := x } := { h with }
theorem Canonical.withClk {x : Clock} (h : Canonical s) : Canonical { s with clk := x } := { h with }
theorem Canonical.withPins {x : Pins} (h : Canonical s) : Canonical { s with pins := x } := { h with }
theorem Canonical.withMp {x : MPort} (h : Canonical s) : Canonical { s with mp := x } := { h with }
theorem Canonical.withPf {x : Prefetch} (h : Canonical s) : Canonical { s with pf := x } := { h with }
theorem Canonical.withSq {x : List Req} (h : Canonical s) : Canonical { s with sq := x } := { h with }
theorem Canonical.withSout {x : List Out} (h : Canonical s) : Canonical { s with sout := x } := { h with }
theorem Canonical.withRegHw {x : List RegReq} (h : Canonical s) : Canonical { s with regHw := x } := { h with }
theorem Canonical.withFen {x : FenSt} (h : Canonical s) : Canonical { s with fen := x } := { h with }
theorem Canonical.withMace {x : MaceSt} (h : Canonical s) : Canonical { s with mace := x } := { h with }
theorem Canonical.withStartQ {x : List Nat} (h : Canonical s) : Canonical { s with startQ := x } := { h with }
theorem Canonical.withCore {x : Core} (h : Canonical s) : Canonical { s with core := x } := { h with }
theorem Canonical.withInts {x : Ints} (h : Canonical s) : Canonical { s with ints := x } := { h with }
theorem Canonical.withLog {x : LogSt} (h : Canonical s) : Canonical { s with log := x } := { h with }
theorem Canonical.withSrv {x : LiveSt} (h : Canonical s) : Canonical { s with srv := x } := { h with }
theorem Canonical.withBad {x : List Site} (h : Canonical s) : Canonical { s with bad := x } := { h with }

/-! A part that holds stores, its stores left as they are. -/

theorem Canonical.withPw {x : PowerSt} (h : Canonical s) (e : x.dom = s.pw.dom := by rfl) :
    Canonical { s with pw := x } := { h with dom := e ▸ h.dom }
theorem Canonical.withGen {x : GenSt} (h : Canonical s) (e0 : x.live = s.gen.live := by rfl) (e1 : x.shadow = s.gen.shadow := by rfl)
    (e2 : x.armed = s.gen.armed := by rfl) (e3 : x.wait = s.gen.wait := by rfl) :
    Canonical { s with gen := x } := { h with live := e0 ▸ h.live, shadow := e1 ▸ h.shadow, armed := e2 ▸ h.armed, wait := e3 ▸ h.wait }
theorem Canonical.withD0 {x : PortSt} (h : Canonical s) (e0 : x.q = s.d0.q := by rfl) (e1 : x.owed = s.d0.owed := by rfl) :
    Canonical { s with d0 := x } := { h with q0 := e0 ▸ h.q0, owed0 := e1 ▸ h.owed0 }
theorem Canonical.withD1 {x : PortSt} (h : Canonical s) (e0 : x.q = s.d1.q := by rfl) (e1 : x.owed = s.d1.owed := by rfl) :
    Canonical { s with d1 := x } := { h with q1 := e0 ▸ h.q1, owed1 := e1 ▸ h.owed1 }
theorem Canonical.withTal {x : TallySt} (h : Canonical s) (e : x.val = s.tal.val := by rfl) :
    Canonical { s with tal := x } := { h with tal := e ▸ h.tal }
theorem Canonical.withHome {x : HomeSt} (h : Canonical s) (e0 : x.sedge = s.home.sedge := by rfl) (e1 : x.splru = s.home.splru := by rfl)
    (e2 : x.pred = s.home.pred := by rfl) :
    Canonical { s with home := x } := { h with sedge := e0 ▸ h.sedge, splru := e1 ▸ h.splru, pred := e2 ▸ h.pred }
theorem Canonical.withRegul {x : RegulSt} (h : Canonical s) (e0 : x.win = s.regul.win := by rfl)
    (e1 : x.levels = s.regul.levels := by rfl) :
    Canonical { s with regul := x } := { h with win := e0 ▸ h.win, levels := e1 ▸ h.levels }
theorem Canonical.withCtr {x : CtrSt} (h : Canonical s) (e0 : x.ctr = s.ctr.ctr := by rfl) (e1 : x.f = s.ctr.f := by rfl) :
    Canonical { s with ctr := x } := { h with ctr := e0 ▸ h.ctr, f := e1 ▸ h.f }
theorem Canonical.withPeat {x : PeatSt} (h : Canonical s) (e0 : x.bufs = s.peat.bufs := by rfl) (e1 : x.wat = s.peat.wat := by rfl) :
    Canonical { s with peat := x } := { h with bufs := e0 ▸ h.bufs, wat := e1 ▸ h.wat }

/-! ### Base -/

theorem Canonical.setPd {n : Nat} {p : Power} (h : Canonical s) : Canonical (setPd n p s) := { h with dom := swf_sset _ _ _ _ h.dom }

theorem Canonical.bankSet {b : Nat} {k : Bank} (h : Canonical s) : Canonical (bankSet b k s) := { h with banks := swf_sset _ _ _ _ h.banks }

/-- The credit counts of a port are in canonical form. -/
structure PortCanonical (x : PortSt) : Prop where
  q : swf (fun _ => 0) x.q = true
  owed : swf (fun _ => 0) x.owed = true

theorem Canonical.port (h : Canonical s) (p : DPort) : PortCanonical (portGet s p) := by
  cases p
  · exact ⟨h.q0, h.owed0⟩
  · exact ⟨h.q1, h.owed1⟩

theorem Canonical.portSet {p : DPort} {x : PortSt} (h : Canonical s) (hx : PortCanonical x) : Canonical (portSet p x s) := by
  cases p
  · exact { h with q0 := hx.q, owed0 := hx.owed }
  · exact { h with q1 := hx.q, owed1 := hx.owed }

theorem Canonical.emit {p : Port} {o : Out} (h : Canonical s) : Canonical (emit p o s) := by
  unfold Machine.emit
  dsimp only
  split
  exacts [h.withD0, h.withD1, h.withSout]

theorem Canonical.occAt {ord ev : Nat} {k : OccKind} {j : Subj} {n : Nat} (h : Canonical s) : Canonical (occAt ord ev k j n s) :=
  h.unless (·.withCtr)

theorem Canonical.bankWaits {r : Subj} {pipe : Nat} (h : Canonical s) : Canonical (bankWaits r pipe s) := h.when (·.withCtr)

theorem Canonical.occ {ev : Nat} {k : OccKind} {j : Subj} {n : Nat} (h : Canonical s) : Canonical (occ ev k j n s) := h.occAt

theorem Canonical.occP {p : Port} {ev : Nat} {j : Subj} {n : Nat} (h : Canonical s) : Canonical (occP p ev j n s) := h.occAt

theorem Canonical.occR {ev : Nat} {r : Req} {n : Nat} (h : Canonical s) : Canonical (occR ev r n s) := .ite h.occ h.occAt

theorem Canonical.occU {ev n : Nat} (h : Canonical s) : Canonical (occU ev n s) := h.occ

theorem Canonical.fctr {k n : Nat} (h : Canonical s) : Canonical (fctr k n s) := h.unless ({ · with f := swf_sset _ _ _ _ h.f })

theorem Canonical.useSlot {pipe : Nat} {retired : Bool} {j : Option Subj} (h : Canonical s) : Canonical (useSlot pipe retired j s) := h.withCtr

theorem Canonical.reqSlot {pipe : Nat} {retired : Bool} {j : Subj} (h : Canonical s) : Canonical (reqSlot pipe retired j s) := h.withCtr.useSlot

/-! ### Flags -/

theorem Canonical.sendIntr (h : Canonical s) : Canonical (sendIntr s) := h.when (·.withInts.emit)

theorem Canonical.setInts {i : Ints} (h : Canonical s) : Canonical (setInts i s) := h.withInts.when (·.sendIntr)

theorem Canonical.raise {c : Nat} (h : Canonical s) : Canonical (raise c s) := h.setInts

theorem Canonical.raiseMbx {t : Nat} (h : Canonical s) : Canonical (raiseMbx t s) := h.setInts

theorem Canonical.raiseAlert {b : Nat} (h : Canonical s) : Canonical (raiseAlert b s) := .raise { h with }

theorem Canonical.eventLost (h : Canonical s) : Canonical (eventLost s) := h.withLog.raise

theorem Canonical.evqPush {kind : Nat} {r : Rec} (h : Canonical s) : Canonical (evqPush kind r s) := .ite h.withLog h.eventLost

theorem Canonical.notice {n : Notice} (h : Canonical s) : Canonical (notice n s) := .ite h.withLog h.eventLost

theorem Canonical.errArrive {r : Rec} (h : Canonical s) : Canonical (errArrive r s) := by
  unfold Machine.errArrive
  dsimp only
  split
  exacts [.ite h.withLog.raise (.ite h.withLog.evqPush.raise h.withLog.raise), h.withLog.evqPush.raise]

theorem Canonical.fatalErr {i : ErrInfo} (h : Canonical s) : Canonical (fatalErr i s) := .ite h.notice (.errArrive (.raise { h with }))

theorem Canonical.logErr {i : ErrInfo} (h : Canonical s) : Canonical (logErr i s) := h.notice

theorem Canonical.ctlUse {x : Site} {j : Option Subj} (h : Canonical s) : Canonical (ctlUse x j s) := h.when (·.withBad.fatalErr)

/-! ### Ops -/

theorem Canonical.respond {p : Port} {m : Msg} {j : Subj} {x : Rsp} (h : Canonical s) : Canonical (respond p m j x s) := h.emit

theorem Canonical.compTo {p : Port} {m : Msg} {j : Subj} {st result : Nat} (h : Canonical s) : Canonical (compTo p m j st result s) := h.respond

theorem Canonical.dataTo {p : Port} {m : Msg} {j : Subj} {st epoch result : Nat} {d : Line} (h : Canonical s) :
    Canonical (dataTo p m j st epoch result d s) := h.respond

theorem Canonical.cohData {p : Port} {m : Msg} {j : Subj} {st gst : Nat} {gpend : Bool} {d : Line} (h : Canonical s) :
    Canonical (cohData p m j st gst gpend d s) := h.respond

theorem Canonical.winSet {c : Nat} {w : Win} (h : Canonical s) : Canonical (winSet c w s) := { h with win := swf_sset _ _ _ _ h.win }

theorem Canonical.addDemand {r : Req} {n : Nat} (h : Canonical s) : Canonical (addDemand r n s) := h.winSet

theorem Canonical.addServed {r : Req} {n : Nat} (h : Canonical s) : Canonical (addServed r n s) := by
  unfold Machine.addServed
  dsimp only
  split
  exacts [h, h, h.winSet.occR]

theorem Canonical.bufSet {b : Nat} {x : TBuf} (h : Canonical s) : Canonical (bufSet b x s) := { h with bufs := swf_sset _ _ _ _ h.bufs }

theorem Canonical.traceEv {v : TEv} (h : Canonical s) : Canonical (traceEv v s) := h.when (·.withPeat)

theorem Canonical.trigger {src win bufs : Nat} (h : Canonical s) : Canonical (trigger src win bufs s) := h.when (·.withPeat)

theorem Canonical.tallyUse {t : Nat} {j : Option Subj} (h : Canonical s) : Canonical (tallyUse t j s) :=
  h.when fun h => .ctlUse { h with tal := swf_sset _ _ _ _ h.tal }

theorem Canonical.tallyAdd {t n : Nat} {j : Option Subj} {ord : Nat} (h : Canonical s) : Canonical (tallyAdd t n j ord s) := by
  have hu := h.tallyUse (t := t) (j := j)
  cases j with
  | some x => exact .occAt { hu with tal := swf_sset _ _ _ _ hu.tal }
  | none => exact .occAt { hu with tal := swf_sset _ _ _ _ hu.tal }

theorem Canonical.reqTally {r : Req} {n : Nat} (h : Canonical s) : Canonical (reqTally r n s) := h.when (·.tallyAdd)

theorem Canonical.plistAdd {l : LAddr} {i : ErrInfo} (h : Canonical s) : Canonical (plistAdd l i s) :=
  .ite (h.when (·.logErr)) (.ite h.withMp.logErr h.logErr.fatalErr)

theorem Canonical.plistDrop {l : LAddr} (h : Canonical s) : Canonical (plistDrop l s) := h.when (·.withMp)

theorem Canonical.ownSend {op addr len : Nat} {beats : List (BitVec 512)} {be : List (BitVec 64)} {k : OwnKind} (h : Canonical s) :
    Canonical (ownSend op addr len beats be k s) := by
  unfold Machine.ownSend
  exact h.withSrv.emit

theorem Canonical.ownRead {l : LAddr} {k : OwnKind} (h : Canonical s) : Canonical (ownRead l k s) := h.ownSend

theorem Canonical.ownWriteLine {l : LAddr} {d : Line} {k : OwnKind} (h : Canonical s) : Canonical (ownWriteLine l d k s) := h.ownSend

theorem Canonical.ownWritePart {addr n : Nat} {d : Line} {k : OwnKind} (h : Canonical s) : Canonical (ownWritePart addr n d k s) := h.ownSend

theorem Canonical.ownDrop {tx : BitVec 16} (h : Canonical s) : Canonical (ownDrop tx s) := h.withSrv

/-! ### Mailbox -/

theorem Canonical.mbxSet {t : Nat} {m : Mbx} (h : Canonical s) : Canonical (mbxSet t m s) := { h with mbx := swf_sset _ _ _ _ h.mbx }

theorem Canonical.mbxDone {t code : Nat} {res : List Nat} (h : Canonical s) : Canonical (mbxDone t code res s) := h.mbxSet.raiseMbx

theorem Canonical.mbxWork {t : Nat} (h : Canonical s) : Canonical (mbxWork t s) := h.mbxSet

theorem Canonical.mbxFill {t : Nat} (h : Canonical s) : Canonical (mbxFill t s) := h.mbxSet

theorem Canonical.mbxOutTry {t : Nat} (h : Canonical s) : Canonical (mbxOutTry t s) := .ite h (h.mbxFill.when (·.mbxDone))

theorem Canonical.mbxOut {t : Nat} {words res : List Nat} (h : Canonical s) : Canonical (mbxOut t words res s) := h.mbxSet.mbxOutTry

/-! ### Watch -/

theorem Canonical.watSet {w : Nat} {x : Wat} (h : Canonical s) : Canonical (watSet w x s) := { h with wat := swf_sset _ _ _ _ h.wat }

theorem Canonical.watFire {w word : Nat} {a : Acc} (h : Canonical s) : Canonical (watFire w word a s) := h.watSet.raise.notice.traceEv.trigger

theorem Canonical.watUpdate {w : Nat} {a : Acc} (h : Canonical s) : Canonical (watUpdate w a s) := by
  unfold Machine.watUpdate
  dsimp only
  split
  · exact h
  · split
    exacts [h.watSet.watFire, h.watSet]

theorem Canonical.watchAcc {a : Acc} (h : Canonical s) : Canonical (watchAcc a s) := .ite (.foldl h (fun h => h.unless (·.watUpdate))) h

end
end Sys2Proof.Machine
end

section
/-! SUPPORT. The canonical form of the stores: the array and the home. -/

namespace Sys2Proof.Machine

-- One declaration after the other: the threads of declarations that wait for one another exhaust the memory that a compile may take.
set_option Elab.async false

section
variable {s t : State}

/-! ### Array -/

theorem Canonical.tagSet {k : Nat} {e : TagE} (h : Canonical s) : Canonical (tagSet k e s) := { h with tags := swf_sset _ _ _ _ h.tags }

theorem Canonical.dataPut {k : Nat} {d : Line} {m : Mask} (h : Canonical s) : Canonical (dataPut k d m s) := { h with data := swf_sset _ _ _ _ h.data }

theorem Canonical.endTrim {b : Nat} (h : Canonical s) : Canonical (endTrim b s) := by
  unfold Machine.endTrim
  dsimp only
  split
  exacts [h.when (·.bankSet.raise.mbxDone), h]

theorem Canonical.retireBank {b : Nat} (h : Canonical s) : Canonical (retireBank b s) := .ite h (.endTrim (.foldl h.bankSet (·.tagSet)))

theorem Canonical.retireReport {b : Nat} (h : Canonical s) : Canonical (retireReport b s) := h.logErr.raise

theorem Canonical.bankErr {b n : Nat} (h : Canonical s) : Canonical (bankErr b n s) := h.bankSet.when (·.retireBank)

theorem Canonical.tagCheck {j : Option Subj} {k : Nat} (h : Canonical s) : Canonical (tagCheck j k s) :=
  .ite (.ite (h.when (·.withBad.occU)).withBad.tagSet.fatalErr (h.when (·.withBad.occU)).withBad.tagSet.logErr) (h.when (·.withBad.occU))

theorem Canonical.setCheck {j : Option Subj} {set : Nat} (h : Canonical s) : Canonical (setCheck j set s) := by
  unfold Machine.setCheck
  extract_lets s'
  have hs : Canonical s' := .foldl h (·.tagCheck)
  clear_value s'
  exact .ite h (hs.when ({ · with plru := swf_sset _ _ _ _ hs.plru }))

theorem Canonical.lookCheck {j : Option Subj} {l : LAddr} (h : Canonical s) : Canonical (lookCheck j l s) := .foldl h (·.setCheck)

theorem Canonical.dropData {k : Nat} (h : Canonical s) : Canonical (dropData k s) := h.withBad

theorem Canonical.countLeave {e : TagE} (h : Canonical s) : Canonical (countLeave e s) := h.when (·.occ)

theorem Canonical.poisonGroup {r : Region} {g : Nat} (h : Canonical s) : Canonical (poisonGroup r g s) := .foldl h (·.tagSet)

theorem Canonical.wayFound {j : Option Subj} {k : Nat} (h : Canonical s) : Canonical (wayFound j k s).2 := by
  unfold Machine.wayFound
  dsimp only
  split
  · exact h
  · split
    · split
      · exact h.tagSet.logErr
      · exact h.tagSet.countLeave
    · split
      · refine .logErr ?_
        split
        exacts [h.poisonGroup, h]
      · exact h.tagSet.logErr

theorem Canonical.wayCheck {j : Option Subj} {k : Nat} (h : Canonical s) : Canonical (wayCheck j k s).2 := by
  unfold Machine.wayCheck
  dsimp only
  split
  · exact h
  · exact h.dataPut.dropData.occU.wayFound.bankErr

theorem Canonical.plruTouch {set way : Nat} (h : Canonical s) : Canonical (plruTouch set way s) := { h with plru := swf_sset _ _ _ _ h.plru }

theorem Canonical.mireMod {i : Nat} {f : MireE → MireE} (h : Canonical s) : Canonical (mireMod i f s) := h.withMp

theorem Canonical.mwPush {w : MWork} (h : Canonical s) : Canonical (mwPush w s) := h.withMp

theorem Canonical.mirePush {e : TagE} {d : Line} (h : Canonical s) : Canonical (mirePush e d s) := h.withMp.mwPush

theorem Canonical.mireCheck {i : Nat} {j : Option Subj} (h : Canonical s) : Canonical (mireCheck i j s) := by
  unfold Machine.mireCheck
  dsimp only
  split
  · exact h.ctlUse
  · split
    exacts [h.ctlUse.mireMod.withBad.occU.unless (·.mireMod.logErr), h.ctlUse.mireMod.withBad.occU]

theorem Canonical.evictWay {k : Nat} (h : Canonical s) : Canonical (evictWay k s).2 := by
  unfold Machine.evictWay
  dsimp only
  split
  · exact h
  · split
    · exact h.wayCheck.tagSet.dropData.mirePush.countLeave.occ
    · exact h.tagSet.dropData.countLeave.occ

theorem Canonical.missMod {i : Nat} {f : Miss → Miss} (h : Canonical s) : Canonical (missMod i f s) := h.withMp

theorem Canonical.missDrop {i : Nat} (h : Canonical s) : Canonical (missDrop i s) := h.withMp

theorem Canonical.missAdd {e : Miss} (h : Canonical s) : Canonical (missAdd e s) := h.withMp

theorem Canonical.missCheck {i : Nat} {j : Option Subj} (h : Canonical s) : Canonical (missCheck i j s) := by
  unfold Machine.missCheck
  dsimp only
  split
  · exact h.ctlUse
  · split
    exacts [h.ctlUse.missMod.withBad.occU.unless (·.missMod.logErr), h.ctlUse.missMod.withBad.occU]

/-! ### Data -/

theorem Canonical.elemMod {slot id : Nat} {f : Elem → Elem} (h : Canonical s) : Canonical (elemMod slot id f s) := h.withMace

theorem Canonical.deliverRead {r : Req} {epoch : Nat} {d : Line} {poi : Bool} (h : Canonical s) : Canonical (deliverRead r epoch d poi s) := by
  unfold Machine.deliverRead
  dsimp only
  split
  exacts [h.elemMod, h, h, (h.when (·.occR)).dataTo]

theorem Canonical.deliverComp {r : Req} {poi : Bool} {result epoch : Nat} (h : Canonical s) : Canonical (deliverComp r poi result epoch s) := by
  unfold Machine.deliverComp
  split
  exacts [h.elemMod, h.elemMod, h, h.respond]

theorem Canonical.reqFail {r : Req} {st : Nat} (h : Canonical s) : Canonical (reqFail r st s) := by
  unfold Machine.reqFail
  split
  exacts [h.elemMod, h, h, h.compTo]

theorem Canonical.cloveOcc {r : Req} {v : FpEv} (h : Canonical s) : Canonical (cloveOcc r v s) := h.occR.occR.occR.occR.occR.occR.occR

theorem Canonical.opOn {r : Req} {epoch : Nat} {old : Line} {poi fresh : Bool} (h : Canonical s) :
    Canonical (opOn r epoch old poi fresh s).2.2 := (h.unless (·.cloveOcc)).watchAcc.reqTally.deliverComp

theorem Canonical.sendThru {r : Req} {d : Line} {m : Mask} {poi sealed : Bool} {qc tc : BitVec 4} (h : Canonical s) :
    Canonical (sendThru r d m poi sealed qc tc s) := h.mwPush

theorem Canonical.installAt {k : Nat} {i : Inst} (h : Canonical s) : Canonical (installAt k i s) := h.tagSet.dataPut.when (·.plruTouch)

theorem Canonical.tryInstall {i : Inst} (h : Canonical s) : OkCanonical (tryInstall i s) := by
  unfold Machine.tryInstall
  dsimp only
  split
  · exact trivial
  · split
    · exact trivial
    · exact h.setCheck.evictWay.installAt

theorem Canonical.readEnd {r : Req} {as_ : ReadAs} {d : Line} {poi : Bool} (h : Canonical s) : Canonical (readEnd r as_ d poi s) := by
  unfold Machine.readEnd
  split
  exacts [h.deliverRead, h.cohData]

theorem Canonical.demandHit {r : Req} {k : Nat} (h : Canonical s) : Canonical (demandHit r k s) := (h.when (·.tagSet.occR)).plruTouch

theorem Canonical.memRead {r : Req} {as_ : ReadAs} (h : Canonical s) : Canonical (memRead r as_ s).state := by
  unfold Machine.memRead
  dsimp only
  split
  · split
    · exact h.lookCheck.wayCheck
    · exact h.lookCheck.wayCheck.demandHit.occR.addServed.watchAcc.readEnd
  · exact h.lookCheck.mireCheck.occR.occR.addServed.watchAcc.readEnd
  · split
    · exact h.lookCheck
    · split
      · exact h.lookCheck
      · split
        · exact h.lookCheck.missMod.occR.occR.addServed.missCheck.watchAcc.readEnd
        · exact h.lookCheck.missMod.occR.occR.addServed.missMod.watchAcc
  · split
    exacts [h.lookCheck, h.lookCheck.missAdd.occR.addServed.watchAcc]

theorem Canonical.writeEnd {r : Req} {epoch : Nat} {m : Mask} {after : Line} {known : BitVec 16} {poi : Bool} (h : Canonical s) :
    Canonical (writeEnd r epoch m after known poi s) := h.occR.watchAcc.reqTally.deliverComp

theorem Canonical.writeAround {r : Req} {d : Line} {m : Mask} (h : Canonical s) : Canonical (writeAround r d m s).state := by
  unfold Machine.writeAround
  dsimp only
  split
  exacts [h, h.missAdd.mwPush.writeEnd]

theorem Canonical.memWrite {r : Req} (h : Canonical s) : Canonical (memWrite r s).state := by
  unfold Machine.memWrite
  dsimp only
  split
  · exact ((h.lookCheck.demandHit.occR.addServed.when (·.plistDrop)).tagSet.dataPut.when (·.sendThru)).writeEnd
  · exact (h.lookCheck.occR.occR.addServed.when (·.plistDrop)).mireCheck.mireMod.writeEnd
  · split
    · exact h.lookCheck
    · split
      · exact h.lookCheck
      · split
        · exact (h.lookCheck.missMod.occR.occR.addServed.when (·.plistDrop)).missCheck.missMod.writeEnd
        · exact (h.lookCheck.missMod.occR.occR.addServed.when (·.plistDrop)).missMod.writeEnd
  · split
    · split
      · next e => exact (h.lookCheck.writeAround.ends e).occR.addServed.when (·.plistDrop)
      · exact h.lookCheck.writeAround
    · split
      · split
        · next e => exact ((h.lookCheck.tryInstall.get e).occR.addServed.when (·.plistDrop)).writeEnd
        · split
          · next e => exact (h.lookCheck.writeAround.ends e).occR.occR.addServed.when (·.plistDrop)
          · exact h.lookCheck.writeAround
        · split
          exacts [h.lookCheck, (h.lookCheck.missAdd.occR.addServed.when (·.plistDrop)).writeEnd]
      · split
        exacts [h.lookCheck, h.lookCheck.missAdd.occR.addServed.writeEnd]

theorem Canonical.memOp {r : Req} (h : Canonical s) : Canonical (memOp r s).state := by
  unfold Machine.memOp
  extract_lets
  split
  · extract_lets
    split
    · exact h.lookCheck.wayCheck
    · exact h.lookCheck.wayCheck.demandHit.occR.addServed.opOn.tagSet.dataPut.when (·.sendThru)
  · exact h.lookCheck.occR.occR.addServed.mireCheck.opOn.mireMod
  · split
    · exact h.lookCheck
    · split
      · exact h.lookCheck
      · extract_lets
        split
        · exact h.lookCheck.missMod.occR.occR.addServed.missCheck.opOn.missMod
        · exact h.lookCheck.missMod.occR.occR.addServed.missMod.watchAcc
  · split
    exacts [h.lookCheck, h.lookCheck.missAdd.occR.addServed.watchAcc]

theorem Canonical.taintLine {r : Req} (h : Canonical s) : Canonical (taintLine r s) := by
  unfold Machine.taintLine
  dsimp only
  split
  exacts [h.withMp.tagSet, h.withMp.mireMod, .ite h.withMp.missMod h.withMp.missMod, h.withMp]

theorem Canonical.memAccess {r : Req} (h : Canonical s) : Canonical (memAccess r s).state := by
  unfold Machine.memAccess
  dsimp only
  split
  · have ha : Canonical (if hOpcode r.msg == Op.wr then Machine.memWrite r s else Machine.memOp r s).state := by
      split
      exacts [h.memWrite, h.memOp]
    split
    · next e => exact (ha.ends e).when (·.taintLine)
    · exact ha
  · exact h.memRead

theorem Canonical.replay {x : Miss × State} {a : AttOp} (h : Canonical x.2) : Canonical (replay x a).2 := by
  unfold Machine.replay
  split
  exacts [h.deliverRead, h.cohData, h.watchAcc, h.opOn, h, h]

theorem Canonical.fillServe {i : Nat} {d : Line} {poi : Bool} (h : Canonical s) : Canonical (fillServe i d poi s) := by
  unfold Machine.fillServe
  dsimp only
  split
  · exact h
  · next e _ =>
    have hx : Canonical (e.att.foldl Machine.replay (fillStart d (poi || listed s e.line) e, s)).2 := .foldlSnd h (·.replay)
    exact .ite hx.missDrop hx.missMod

/-! ### Sedge -/

theorem Canonical.sedgeSet {k : Nat} {e : SedgeE} (h : Canonical s) : Canonical (sedgeSet k e s) := { h with sedge := swf_sset _ _ _ _ h.sedge }

theorem Canonical.sedgeCheck {j : Option Subj} {x : Nat} (h : Canonical s) : Canonical (sedgeCheck j x s) :=
  h.unless fun h => .foldl (h.when ({ · with splru := swf_sset _ _ _ _ h.splru })) fun h => (h.when (·.withBad.occU)).when (·.withBad.sedgeSet.fatalErr)

theorem Canonical.splruTouch {k : Nat} (h : Canonical s) : Canonical (splruTouch k s) := { h with splru := swf_sset _ _ _ _ h.splru }

theorem Canonical.hteMod {x : Nat} {f : Hte → Hte} (h : Canonical s) : Canonical (hteMod x f s) := h.withHome

theorem Canonical.hteDrop {x : Nat} (h : Canonical s) : Canonical (hteDrop x s) := h.withHome

theorem Canonical.hteAdd {x : Hte} (h : Canonical s) : Canonical (hteAdd x s) := h.withHome

theorem Canonical.fwdSend {op target : Nat} {l : LAddr} {x : Hte} {own keep ownr : Bool} (h : Canonical s) :
    Canonical (fwdSend op target l x own keep ownr s) := h.emit.occR.traceEv

theorem Canonical.grantSend {x : Hte} (h : Canonical s) : Canonical (grantSend x s) := h.respond

theorem Canonical.predCheck {i : Nat} (h : Canonical s) : Canonical (predCheck i s) := h.when ({ · with pred := swf_sset _ _ _ _ h.pred })

theorem Canonical.predict {l : LAddr} {agent : Nat} {atomC other : Bool} (h : Canonical s) : Canonical (predict l agent atomC other s).2 :=
  let h := h.predCheck (i := predIdx l)
  { h with pred := swf_sset _ _ _ _ h.pred }

/-! ### Home -/

theorem Canonical.homeWatch {r : Req} {g : HData} {l : LAddr} (h : Canonical s) : Canonical (homeWatch r g l s) := h.watchAcc

theorem Canonical.homeWrite {r0 : Req} {l : LAddr} {g : HData} (h : Canonical s) : SomeCanonical (homeWrite r0 l g s) := by
  unfold Machine.homeWrite
  dsimp only
  split
  · exact ((h.lookCheck.demandHit.tagSet.dataPut.when (·.sendThru)).unless (·.plistDrop)).homeWatch
  · exact (h.lookCheck.mireMod.unless (·.plistDrop)).homeWatch
  · split
    · exact trivial
    · split
      · exact (h.lookCheck.missMod.missMod.unless (·.plistDrop)).homeWatch
      · exact (h.lookCheck.missMod.missMod.unless (·.plistDrop)).homeWatch
  · split
    · split
      exacts [trivial, (h.lookCheck.missAdd.mwPush.unless (·.plistDrop)).homeWatch]
    · split
      · next e => exact ((h.lookCheck.tryInstall.get e).unless (·.plistDrop)).homeWatch
      · split
        exacts [trivial, (h.lookCheck.occR.missAdd.mwPush.unless (·.plistDrop)).homeWatch]
      · split
        exacts [trivial, (h.lookCheck.missAdd.unless (·.plistDrop)).homeWatch]

theorem Canonical.homePoison {l : LAddr} {tc : BitVec 4} {who : Option (Nat × Nat)} (h : Canonical s) : Canonical (homePoison l tc who s) := by
  unfold Machine.homePoison
  dsimp only
  split
  exacts [h.tagSet, h.mireMod, .ite h.plistAdd (.ite h.missMod h.missMod), h.plistAdd]

theorem Canonical.sedgeLeave {l : LAddr} {after : Option SedgeE} (h : Canonical s) : Canonical (sedgeLeave l after s) := by
  unfold Machine.sedgeLeave
  dsimp only
  split
  · exact h
  · split
    exacts [h.sedgeSet, h.sedgeSet]

theorem Canonical.relookAdd {l : List Req} (h : Canonical s) : Canonical (relookAdd l s) := h.withHome

theorem Canonical.hData {x : Hte} (h : Canonical s) : SomeCanonical (hData x s) := by
  unfold Machine.hData
  split
  exacts [h.homeWrite, h]

theorem Canonical.hAccess {x : Hte} (h : Canonical s) : Canonical (hAccess x s) := by
  unfold Machine.hAccess
  dsimp only
  split
  · next e => exact (h.memAccess.ends e).hteMod
  · next e => exact .ite (h.memAccess.ends e).sedgeLeave.hteMod.relookAdd (h.memAccess.ends e).sedgeLeave.hteDrop.relookAdd
  · next e => exact .ite (h.memAccess.ends e).sedgeLeave.hteMod.relookAdd (h.memAccess.ends e).sedgeLeave.hteDrop.relookAdd

theorem Canonical.hFinish {x : Hte} (h : Canonical s) : Canonical (hFinish x s) := by
  unfold Machine.hFinish
  split
  exacts [h.sedgeLeave.hteDrop.relookAdd, h.sedgeLeave.hteDrop.relookAdd, h.hAccess]

theorem Canonical.hEnd {id : Nat} (h : Canonical s) : Canonical (hEnd id s) := by
  unfold Machine.hEnd
  split
  · exact h
  · split
    · exact h
    · next e => exact (h.hData.get e).hFinish

theorem Canonical.hTry {id : Nat} (h : Canonical s) : Canonical (hTry id s) := by
  unfold Machine.hTry
  split
  exacts [h.when (·.hEnd), h]

theorem Canonical.hAttach {r : Req} {x : Hte} (h : Canonical s) : Canonical (hAttach r x s).state := by
  unfold Machine.hAttach
  dsimp only
  split
  · exact h.ctlUse
  · exact h.ctlUse.hteMod.traceEv

theorem Canonical.hOpen {x : Hte} {k : Nat} {send : State → State} (h : Canonical s) (hsend : ∀ {t}, Canonical t → Canonical (send t)) :
    Canonical (hOpen x k send s) := (hsend h.hteAdd.sedgeSet).hTry

theorem Canonical.backInvs {ts ow : List Nat} {l : LAddr} {x : Hte} (h : Canonical s) : Canonical (backInvs ts ow l x s) := .foldl h (·.fwdSend)

theorem Canonical.backInvalidate {r : Req} {k : Nat} (h : Canonical s) : Canonical (backInvalidate r k s).state := by
  unfold Machine.backInvalidate
  dsimp only
  split
  · exact h
  · exact .hOpen h (·.backInvs)

theorem Canonical.cohFwd {r : Req} {a : CohAct} {x : Hte} (h : Canonical s) : Canonical (cohFwd r a x s) := by
  unfold Machine.cohFwd
  split
  exacts [h.fwdSend, h]

theorem Canonical.cohInvs {r : Req} {a : CohAct} {x : Hte} (h : Canonical s) : Canonical (cohInvs r a x s) :=
  .when (.foldl h (·.fwdSend)) (·.hteMod.grantSend)

theorem Canonical.cohFin {r : Req} {a : CohAct} {adj : State → State} (h : Canonical s) (hadj : ∀ {t}, Canonical t → Canonical (adj t)) :
    Canonical (cohFin r a adj s) := (hadj h.hteAdd.sedgeSet.splruTouch).cohFwd.cohInvs

theorem Canonical.cohAct {r : Req} {a : CohAct} {adj : State → State} (h : Canonical s) (hadj : ∀ {t}, Canonical t → Canonical (adj t)) :
    Canonical (cohAct r a adj s).state := by
  unfold Machine.cohAct
  split
  · exact h
  · split
    · exact .cohFin (h.when (·.addServed)).watchAcc hadj
    · split
      · next e => exact .cohFin (h.memRead.ends e) hadj
      · exact h.memRead

theorem Canonical.withRoom {r : Req} {k : Nat → StepRes} (h : Canonical s) (hk : ∀ {a}, Canonical (k a).state) : Canonical (withRoom r k s).state := by
  unfold Machine.withRoom
  split
  exacts [hk, h.backInvalidate, h.occR.compTo]

theorem Canonical.homeRdShr {r : Req} {ent : Option Nat} (h : Canonical s) : Canonical (homeRdShr r ent s).state := by
  unfold Machine.homeRdShr
  dsimp only
  split
  exacts [.withRoom h (.cohAct h id), .cohAct h id]

theorem Canonical.homeRdUnq {r : Req} {ent : Option Nat} {adj : State → State} (h : Canonical s) (hadj : ∀ {t}, Canonical t → Canonical (adj t)) :
    Canonical (homeRdUnq r ent adj s).state := by
  unfold Machine.homeRdUnq
  dsimp only
  split
  exacts [.withRoom h (.cohAct h hadj), .cohAct h hadj]

theorem Canonical.homeUpgrade {r : Req} {ent : Option Nat} (h : Canonical s) : Canonical (homeUpgrade r ent s).state := by
  unfold Machine.homeUpgrade
  dsimp only
  split
  · exact .homeRdUnq h id
  · split
    · exact .cohAct h id
    · exact .homeRdUnq h id

theorem Canonical.takeSend {e : SedgeE} {l : LAddr} {x : Hte} {pull : Option Bool} {ts : List Nat} (h : Canonical s) :
    Canonical (takeSend e l x pull ts s) := by
  unfold Machine.takeSend
  dsimp only
  refine .foldl ?_ (fun h => ?_)
  · split
    exacts [h.fwdSend, h]
  · exact h.fwdSend

theorem Canonical.homeTake {r : Req} {kind : HKind} {j : Nat} {pull : Option Bool} {invs : List Nat} {invOwner : Bool} {after : Option SedgeE}
    {adj : State → State} (h : Canonical s) (hadj : ∀ {t}, Canonical t → Canonical (adj t)) :
    Canonical (homeTake r kind j pull invs invOwner after adj s).state := by
  unfold Machine.homeTake
  dsimp only
  split
  · exact h
  · exact .hOpen (hadj h).splruTouch (·.takeSend)

theorem Canonical.openDone {r : Req} {kind : HKind} (h : Canonical s) : Canonical (openDone r kind s) := h.hteAdd

theorem Canonical.setPred {p : Store PredE} (h : Canonical s) (hp : swf (fun _ => PredE.zero) p = true) : Canonical (setPred p s) := { h with pred := hp }

theorem Canonical.nearAdj {r : Req} {p : Store PredE} (h : Canonical s) (hp : swf (fun _ => PredE.zero) p = true) : Canonical (nearAdj r p s) :=
  (h.setPred hp).occR

theorem Canonical.farAdj {r : Req} {p : Store PredE} (h : Canonical s) (hp : swf (fun _ => PredE.zero) p = true) : Canonical (farAdj r p s) :=
  (h.setPred hp).addDemand.occR

theorem Canonical.atomNear {r : Req} {ent : Option Nat} {p : Store PredE} (h : Canonical s) (hp : swf (fun _ => PredE.zero) p = true) :
    Canonical (Machine.atomNear r ent p s).state := by
  unfold Machine.atomNear
  dsimp only
  split
  · exact .homeTake h (·.nearAdj hp)
  · split
    · exact h
    · split
      · next e => exact ((h.memOp.ends e).nearAdj hp).openDone
      · exact h.memOp

theorem Canonical.homeAtomC {r : Req} {ent : Option Nat} (h : Canonical s) : Canonical (homeAtomC r ent s).state := by
  unfold Machine.homeAtomC
  dsimp only
  split
  · exact h.predCheck.atomNear h.predCheck.predict.pred
  · exact .homeRdUnq h.predCheck (·.farAdj h.predCheck.predict.pred)

theorem Canonical.hitRead {j : Nat} {r : Req} (h : Canonical s) : Canonical (hitRead j r s).state := by
  unfold Machine.hitRead
  split
  · next e => exact (h.memRead.ends e).splruTouch
  · exact h.memRead

theorem Canonical.homeRdOnce {r : Req} {ent : Option Nat} (h : Canonical s) : Canonical (homeRdOnce r ent s).state := by
  unfold Machine.homeRdOnce
  dsimp only
  split
  · exact h.memRead
  · split
    · exact h.hitRead
    · exact .homeTake h id

theorem Canonical.relComp {r : Req} {stale : Bool} (h : Canonical s) : Canonical (relComp r stale s) := h.respond

theorem Canonical.wbPullSend {r : Req} (h : Canonical s) : Canonical (wbPullSend r s) := h.respond

theorem Canonical.homeEvict {r : Req} {ent : Option Nat} (h : Canonical s) : Canonical (homeEvict r ent s).state := by
  unfold Machine.homeEvict
  extract_lets
  split
  · exact h
  · split
    · exact h.relComp.openDone
    · extract_lets
      split
      · split
        · exact h.splruTouch.sedgeSet.relComp.openDone
        · exact h.splruTouch.sedgeSet.hteAdd
      · exact h.splruTouch.relComp.openDone

theorem Canonical.wbTake {r : Req} {j : Nat} (h : Canonical s) : Canonical (wbTake r j s) := .hOpen h.splruTouch fun h => by
  split
  exacts [h.wbPullSend, h]

theorem Canonical.homeWb {r : Req} {ent : Option Nat} (h : Canonical s) : Canonical (homeWb r ent s).state := by
  unfold Machine.homeWb
  dsimp only
  split
  · exact h
  · split
    · exact h.addServed.relComp
    · split
      · exact h.addServed.wbTake
      · split
        · exact h.addServed.homeEvict
        · exact h.addServed.splruTouch.relComp

theorem Canonical.homeStep {r : Req} (h : Canonical s) : Canonical (homeStep r s).state := by
  unfold Machine.homeStep
  extract_lets l o s' ent res
  have hs : Canonical s' := .foldl h (·.sedgeCheck)
  have hr : Canonical res.state := by
    unfold res
    split_ifs
    exacts [hs.homeRdShr, .homeRdUnq hs id, hs.homeUpgrade, hs.homeAtomC, hs.homeRdOnce, hs.homeWb, hs.homeEvict]
  clear_value res
  split
  · exact hs.hAttach
  · cases res with
    | done => exact hr.occR
    | _ => exact hr

theorem Canonical.enginePredict {r : Req} (h : Canonical s) : Canonical (enginePredict r s) := h.when (·.predict)

theorem Canonical.gateGo {r : Req} (h : Canonical s) : Canonical (gateGo r s).state := by
  unfold Machine.gateGo
  split
  · next e => exact (h.memAccess.ends e).enginePredict
  · exact h.memAccess

theorem Canonical.reclaimAdj {r : Req} (h : Canonical s) : Canonical (reclaimAdj r s) := h.enginePredict.occR

theorem Canonical.gateEntry {r : Req} {j : Nat} (h : Canonical s) : Canonical (gateEntry r j s).state := by
  unfold Machine.gateEntry
  dsimp only
  split
  · split
    · exact h.hitRead
    · exact .homeTake h (·.reclaimAdj)
  · split
    · exact .homeTake h (·.reclaimAdj)
    · split
      · exact .homeTake h (·.reclaimAdj)
      · exact .homeTake h (·.reclaimAdj)

theorem Canonical.homeGate {r : Req} (h : Canonical s) : Canonical (homeGate r s).state := by
  unfold Machine.homeGate
  dsimp only
  split
  · exact h.memAccess
  · split
    · exact .hAttach (.foldl h (·.sedgeCheck))
    · split
      exacts [.gateGo (.foldl h (·.sedgeCheck)), .gateEntry (.foldl h (·.sedgeCheck))]

theorem Canonical.hteClose {id : Nat} (h : Canonical s) : Canonical (hteClose id s) :=
  .foldl h.hteDrop (fun h => .ite (.ite (.ite h.hteMod.wbPullSend h.hteMod.relComp) h.hteMod) h)

theorem Canonical.snpAckAt {x : Hte} {m : Msg} (h : Canonical s) : Canonical (snpAckAt x m s) := by
  unfold Machine.snpAckAt
  dsimp only
  split
  exacts [h.ctlUse.hteMod, .ite h.ctlUse.hteMod.hTry (h.ctlUse.hteMod.when (·.hteMod.grantSend))]

theorem Canonical.homeDataAt {x : Hte} {m : Msg} (h : Canonical s) : Canonical (homeDataAt x m s) := (h.ctlUse.when (·.logErr)).hteMod.hTry

theorem Canonical.timeoutRecs {x : Hte} {poi : Bool} {l : List (BitVec 8)} (h : Canonical s) : Canonical (timeoutRecs x poi l s) :=
  .ite h.logErr (.foldl h (·.logErr))

theorem Canonical.homeTimeoutAt {x : Hte} (h : Canonical s) : Canonical (homeTimeoutAt x s) :=
  .ite h.ctlUse.occR.timeoutRecs.respond.hteClose (.hEnd (.hteMod (.foldl ((h.ctlUse.occR.timeoutRecs.when (·.homePoison)).unless (·.reqFail)) (·.reqFail))))

end
end Sys2Proof.Machine
end

section
/-! SUPPORT. The canonical form of the stores: Fen, classification, prefetch, the ports and M. -/

namespace Sys2Proof.Machine

-- One declaration after the other: the threads of declarations that wait for one another exhaust the memory that a compile may take.
set_option Elab.async false

section
variable {s t : State}

/-! ### Fen -/

theorem Canonical.zeroFrames {fs : List Nat} {tc : BitVec 4} (h : Canonical s) : Canonical (zeroFrames fs tc s) :=
  .foldl { h with data := swf_filter _ _ _ h.data } (·.tagSet)

theorem Canonical.dropFrames {fs : List Nat} (h : Canonical s) : Canonical (dropFrames fs s) := .foldl h (·.tagSet)

theorem Canonical.segMod {i : Nat} {f : Seg → Seg} (h : Canonical s) : Canonical (segMod i f s) := h.withFen

theorem Canonical.frameRead {j : Option Subj} {k : Nat} (h : Canonical s) : Canonical (frameRead j k s).2 := by
  unfold Machine.frameRead
  dsimp only
  split
  · exact h.setCheck
  · exact h.setCheck.wayCheck

theorem Canonical.frameWrite {k : Nat} {d : Line} {m : Mask} {clears taint : Bool} (h : Canonical s) : Canonical (frameWrite k d m clears taint s) :=
  h.unless (·.tagSet.dataPut)

theorem Canonical.regionMod {i : Nat} {f : Region → Region} (h : Canonical s) : Canonical (regionMod i f s) := h.withFen

theorem Canonical.accWrite {r : Region} {n v : Nat} (h : Canonical s) : Canonical (accWrite r n v s) := .foldl h (·.dataPut)

theorem Canonical.groupCheck {j : Option Subj} {r : Region} {g : Nat} (h : Canonical s) : Canonical (groupCheck j r g s).2 :=
  .foldlSnd h (·.frameRead)

theorem Canonical.contribute {q : ExactReq} {r : Region} {c : Contr} (h : Canonical s) : Canonical (contribute q r c s).2 := by
  unfold Machine.contribute
  dsimp only
  split
  · exact h.groupCheck.poisonGroup
  · exact (h.groupCheck.when (·.occR)).occR.accWrite

theorem Canonical.exactPush {r : Req} {rid : Nat} {taint : Bool} (h : Canonical s) : Canonical (exactPush r rid taint s).state := by
  unfold Machine.exactPush
  dsimp only
  split
  · exact h
  · exact h.addServed.watchAcc.withFen

theorem Canonical.exactPop (h : Canonical s) : Canonical (exactPop s) := { h with }

theorem Canonical.exactOne (h : Canonical s) : Canonical (exactOne s) := by
  unfold Machine.exactOne
  split
  · exact h
  · next q _ _ =>
    extract_lets s'
    have hs : Canonical s' := h.ctlUse
    split
    · exact hs.exactPop
    · next r _ =>
      extract_lets x
      have hx : Canonical x.2 := .foldlSnd hs (·.contribute)
      exact .ite hx.exactPop.reqTally.deliverComp hx.withFen

theorem Canonical.chainData {r : Req} {epoch : Nat} {d : Line} {poi : Bool} (h : Canonical s) : Canonical (chainData r epoch d poi s) := by
  unfold Machine.chainData
  exact h.emit

theorem Canonical.fenCount {r : Req} (h : Canonical s) : Canonical (fenCount r s) := .ite h.occR (.ite h.occR.addServed h.addServed)

theorem Canonical.fenStep {r : Req} {l : FenLoc} (h : Canonical s) : Canonical (fenStep r l s).state := by
  unfold Machine.fenStep
  dsimp only
  split
  · split
    · next e => exact (h.exactPush.ends e).when (·.occR)
    · exact h.exactPush
  · split
    · exact h.fenCount.setCheck.frameWrite.writeEnd
    · split
      · exact h.fenCount.frameRead.opOn.frameWrite
      · split
        · exact h.fenCount.frameRead.watchAcc.chainData
        · exact h.fenCount.frameRead.watchAcc.deliverRead

theorem Canonical.xferMod {seg : Nat} {f : Xfer → Xfer} (h : Canonical s) : Canonical (xferMod seg f s) := h.withFen

theorem Canonical.xferEnd {seg : Nat} (h : Canonical s) : Canonical (xferEnd seg s) := by
  unfold Machine.xferEnd
  dsimp only
  split
  · exact h
  · split
    · exact h
    · split
      exacts [h.withFen.mbxDone, h.withFen.mbxDone]

theorem Canonical.xferIssue {x : Xfer} {g : Seg} (h : Canonical s) : Canonical (xferIssue x g s) :=
  .ite h.xferMod.ownRead (.ite h.useSlot.frameRead.xferMod.xferEnd h.useSlot.frameRead.xferMod.ownWriteLine)

theorem Canonical.xferAnswer {x : Xfer} {g : Seg} {off st : Nat} {d : Line} (h : Canonical s) : Canonical (xferAnswer x g off st d s) :=
  .xferEnd (.unless (.ite (.ite (h.xferMod.useSlot.setCheck.frameWrite.watchAcc.when (·.tallyAdd)) h.xferMod)
    (.ite (h.xferMod.when (·.tallyAdd)) h.xferMod)) (·.xferMod))

theorem Canonical.flipTake {g : Seg} {f : Flip} (h : Canonical s) : Canonical (flipTake g f s) := (h.segMod.when (·.tallyAdd)).traceEv

theorem Canonical.regionOpenAt {r : Region} (h : Canonical s) : Canonical (regionOpenAt r s) :=
  (h.zeroFrames.regionMod.when (·.tallyAdd)).traceEv.mbxDone

theorem Canonical.resolveEnd {r : Region} {x : Resolve} (h : Canonical s) : Canonical (resolveEnd r x s) :=
  (h.withFen.when (·.tallyAdd)).traceEv.dropFrames

theorem Canonical.resolveOcc {f acc v : Nat} {poi : Bool} (h : Canonical s) : Canonical (resolveOcc f acc v poi s) := h.occU.occU.occU.occU.occU

/-- One group of elements checked: what comes of it is added to the groups that are bad. -/
def groupNoted (r : Region) (x : List Nat × State) (g : Nat) : List Nat × State :=
  let z := groupCheck none r g x.2
  (if z.1 then g :: x.1 else x.1, z.2)

theorem Canonical.groupNoted {r : Region} {x : List Nat × State} {g : Nat} (h : Canonical x.2) : Canonical (groupNoted r x g).2 := by
  dsimp only [Machine.groupNoted]
  exact h.groupCheck

theorem Canonical.resolveLine {r : Region} {i : Nat} (h : Canonical s) : Canonical (resolveLine r i s) := by
  unfold Machine.resolveLine
  split
  · exact h
  · extract_lets f sz per ns groups y
    have hy : Canonical y.2 := .foldlSnd (f := Machine.groupNoted r) (x := ([], s)) h (·.groupNoted)
    clear_value y
    exact .watchAcc (.frameWrite (.setCheck (.useSlot (.foldl hy (·.resolveOcc)))))

/-! ### Regul -/

theorem Canonical.winStart {c : Nat} {t : FT} (h : Canonical s) : Canonical (winStart c t s) := h.winSet

theorem Canonical.winRestart (h : Canonical s) : Canonical (winRestart s) := .foldl h.withRegul (·.winStart)

theorem Canonical.winNote (h : Canonical s) : Canonical (winNote s) := .foldl h (·.winSet)

theorem Canonical.winEnd {c : Nat} (h : Canonical s) : Canonical (winEnd c s) := (h.when (·.occ.notice.traceEv.trigger)).winStart

theorem Canonical.tempReport {m : Msg} {ord : Nat} (h : Canonical s) : Canonical (tempReport m ord s) :=
  .unless { h with levels := swf_sset _ _ _ _ h.levels } (·.winNote.occU.notice.traceEv.trigger)

/-! ### Classify -/

theorem Canonical.refuseMsg {p : Port} {m : Msg} {st : Nat} (h : Canonical s) : Canonical (refuseMsg p m st s) := h.occP.compTo

theorem Canonical.passes {p : Port} {j : Subj} (h : Canonical s) : Canonical (passes p j s) := h.occP.when (·.withCtr)

theorem Canonical.zeroMsg {p : Port} {m : Msg} (h : Canonical s) : Canonical (zeroMsg p m s) := h.passes.compTo

theorem Canonical.passClass {r : Req} (h : Canonical s) : Canonical (passClass r s) := h.passes

/-! ### Prefetch -/

theorem Canonical.streamCheck {i : Nat} (h : Canonical s) : Canonical (streamCheck i s) := .ite { h with } h

theorem Canonical.candAdd {r : Req} {l : LAddr} (h : Canonical s) : Canonical (candAdd r l s) := .ite h.occR h.withPf

theorem Canonical.candRun {r : Req} {l : LAddr} {d : Int} {n k : Nat} (h : Canonical s) : Canonical (candRun r l d n k s) := by
  induction n generalizing k s with
  | zero => exact h
  | succ n ih =>
    unfold Machine.candRun
    split
    exacts [h.candAdd |> ih |> fun k => .ite k h, h]

theorem Canonical.train {r : Req} (h : Canonical s) : Canonical (train r s) := by
  unfold Machine.train
  dsimp only
  split
  · exact h
  · split
    exacts [h.streamCheck.occR.withPf.when (·.candRun), h.streamCheck.occR.withPf]

/-! ### Ports -/

/-! The credits of a port (R227, R229, R331). -/

section
variable {x : PortSt}

theorem PortCanonical.qSet {c n : Nat} (h : PortCanonical x) : PortCanonical (qSet c n x) := { h with q := swf_sset _ _ _ _ h.q }
theorem PortCanonical.owedSet {c n : Nat} (h : PortCanonical x) : PortCanonical (owedSet c n x) := { h with owed := swf_sset _ _ _ _ h.owed }
theorem PortCanonical.grantCredit {c : Nat} (h : PortCanonical x) : PortCanonical (grantCredit c x) := h.qSet.owedSet
theorem PortCanonical.creditBack {g : Tables} {c : Nat} (h : PortCanonical x) : PortCanonical (creditBack g c x) := by
  unfold Machine.creditBack
  dsimp only
  split
  exacts [h.qSet.grantCredit, h.qSet]
theorem PortCanonical.skidPays {c : Nat} (h : PortCanonical x) : PortCanonical (skidPays c x) := h.qSet
theorem PortCanonical.skidIn (h : PortCanonical x) : PortCanonical (skidIn x) := by
  unfold Machine.skidIn
  split
  · split
    exacts [{ h.qSet with }, h]
  · exact h
theorem PortCanonical.regMove {p : DPort} {g : Tables} (h : PortCanonical x) : PortCanonical (regMove p g x) := by
  unfold Machine.regMove
  dsimp only
  split
  · exact h
  · split
    exacts [h, .creditBack { h with }]
theorem PortCanonical.portMoves {p : DPort} {g : Tables} {n : Nat} (h : PortCanonical x) : PortCanonical (portMoves p g n x) := by
  induction n generalizing x with
  | zero => exact h.skidIn
  | succ n ih => exact ih h.skidIn.regMove
theorem PortCanonical.foldl {α : Type} {f : PortSt → α → PortSt} {l : List α} (h : PortCanonical x)
    (hf : ∀ {y a}, PortCanonical y → PortCanonical (f y a)) : PortCanonical (l.foldl f x) := List.foldlRecOn l f h fun _ k _ _ => hf k

end

theorem Canonical.popIng {p : DPort} {i : Nat} (h : Canonical s) : Canonical (popIng p i s) := by
  unfold Machine.popIng
  dsimp only
  split
  exacts [h, h.portSet (.portMoves (.creditBack { h.port p with }))]

theorem Canonical.recvBeats {m : Msg} (h : Canonical s) : Canonical (recvBeats m s) := h.fctr

theorem Canonical.creditPass {p : DPort} {m : Msg} {c : Nat} (h : Canonical s) : Canonical (creditPass p m c s) :=
  .ite (h.portSet (h.port p).creditBack) h.occP

theorem Canonical.placeIng {p : DPort} {r : Req} {c : BitVec 4} (h : Canonical s) : Canonical (placeIng p r c s) := by
  unfold Machine.placeIng
  dsimp only
  refine .ite (h.portSet ?_) (.ite (h.occR.portSet { (h.port p).qSet with }) (h.occR.portSet { h.port p with }))
  split
  exacts [{ h.port p with }, { (h.port p).skidPays with }]

theorem Canonical.regArrive {p : DPort} {m : Msg} {tc qc : BitVec 4} (h : Canonical s) : Canonical (regArrive p m tc qc s) :=
  .ite (.creditPass (h.passes.portSet { h.port p with })) h.passes.placeIng

theorem Canonical.regFill {p : DPort} (h : Canonical s) : Canonical (regFill p s) := h.portSet (h.port p).portMoves

theorem Canonical.ingressD {p : DPort} {m : Msg} {qc : BitVec 4} (h : Canonical s) : Canonical (ingressD p m qc s) := by
  unfold Machine.ingressD
  dsimp only
  split
  · exact (h.recvBeats.when (·.occP)).refuseMsg.creditPass
  · exact (h.recvBeats.when (·.occP)).zeroMsg.creditPass
  · exact (h.recvBeats.when (·.occP)).regArrive
  · exact (h.recvBeats.when (·.occP)).passClass.addDemand.placeIng

theorem Canonical.reedMark {t : Nat} {m : Msg} {n : Nat} (h : Canonical s) : Canonical (reedMark t m n s) := h.withSout

theorem Canonical.ingressS {m : Msg} (h : Canonical s) : Canonical (ingressS m s) := by
  unfold Machine.ingressS
  dsimp only
  split
  exacts [h.recvBeats.refuseMsg.reedMark, h.recvBeats.zeroMsg.reedMark, h.recvBeats, h.recvBeats.passClass.withSq]

theorem Canonical.reqStep {r : Req} (h : Canonical s) : Canonical (reqStep r s).state := by
  unfold Machine.reqStep
  split
  · exact h.fenStep
  · split
    · exact h.homeStep
    · exact h.homeGate

theorem Canonical.holdCount {x : Hold} {r : Req} (h : Canonical s) : Canonical (holdCount x r s) := by
  unfold Machine.holdCount
  dsimp only
  split
  exacts [h.occR.occR, h.occR.occR, h.occR.occR, h.occR.occR, h.occR.occR, h.occR, h.occR]

theorem Canonical.portEnd {p : DPort} {i : Nat} {g : Ing} {x : StepRes} (h : Canonical x.state) : Canonical (portEnd p i g x) := by
  cases x with
  | done t => exact (Canonical.reqSlot h).bankWaits.popIng
  | attached t => exact (Canonical.reqSlot h).popIng
  | hold w t =>
    have hy : Canonical (if g.held then Machine.holdCount w g.req (Machine.reqSlot (reqPipe t g.req) false (subjReq g.req) t) else
      Machine.traceEv (holdEv (Machine.holdCount w g.req (Machine.reqSlot (reqPipe t g.req) false (subjReq g.req) t)) w g.req)
        (Machine.holdCount w g.req (Machine.reqSlot (reqPipe t g.req) false (subjReq g.req) t))) :=
      .unless (.holdCount (.reqSlot h)) (·.traceEv)
    exact hy.portSet { hy.port p with }

theorem Canonical.portPick {p : DPort} {i : Nat} {g : Ing} {floor : Bool} (h : Canonical s) : Canonical (portPick p i g floor s) := by
  unfold Machine.portPick
  extract_lets src s'
  have hs : Canonical s' := .ite h.occR (h.portSet { h.port p with })
  exact hs.unless fun hs => .train (hs.portSet { hs.port p with })

theorem Canonical.portStep {p : DPort} {op : Nat} (h : Canonical s) : Canonical (portStep p op s) := by
  unfold Machine.portStep
  split
  exacts [h, h.unless (·.portPick.reqStep.portEnd)]

theorem Canonical.sStep {op : Nat} (h : Canonical s) : Canonical (sStep op s) := by
  unfold Machine.sStep
  split
  · exact h
  · split
    · exact h
    · split
      · next e => exact (h.withSq.reqStep.ends e).reqSlot.bankWaits.reedMark
      · next e => exact (h.withSq.reqStep.ends e).reqSlot.bankWaits.reedMark
      · next e => exact (h.withSq.reqStep.ends e).reqSlot.bankWaits.reedMark

/-! ### Mport -/

theorem Canonical.keySet {t : Nat} {k : Key} (h : Canonical s) : Canonical (keySet t k s) := { h with keys := swf_sset _ _ _ _ h.keys }

theorem Canonical.macSend {t : Nat} {l : LAddr} {mac : BitVec 64} {k : OwnKind} (h : Canonical s) : Canonical (macSend t l mac k s) := h.ownWritePart

theorem Canonical.setMCmd {w : BitVec 64} {d : Option (Line × Mask)} (h : Canonical s) : Canonical (setMCmd w d s) := h.withPins

theorem Canonical.readIssue {e : Miss} (h : Canonical s) : Canonical (readIssue e s) := by
  unfold Machine.readIssue
  dsimp only
  split
  · refine .ownSend ?_
    split
    exacts [h.withMp.setMCmd.missMod.fctr.occR, h.withMp.setMCmd.missMod.fctr.occU]
  · split
    exacts [h.withMp.setMCmd.missMod.fctr.occR, h.withMp.setMCmd.missMod.fctr.occU]

theorem Canonical.workSent {w : MWork} {sl : Bool} (h : Canonical s) : Canonical (workSent w sl s) := by
  unfold Machine.workSent
  dsimp only
  split
  exacts [h.mireMod, h, h.withMp, h]

theorem Canonical.writeIssue {q : Nat × MWork} (h : Canonical s) : Canonical (writeIssue q s) := by
  unfold Machine.writeIssue
  dsimp only
  split
  · split
    exacts [h.withMp.mireCheck, h.withMp.missCheck, h.withMp]
  · split
    · refine .macSend ?_
      refine .workSent ?_
      refine .withMp ?_
      split
      · refine .plistAdd ?_
        refine .fctr ?_
        refine .occ ?_
        refine .setMCmd ?_
        split
        exacts [h.withMp.mireCheck, h.withMp.missCheck, h.withMp]
      · refine .fctr ?_
        refine .occ ?_
        refine .setMCmd ?_
        split
        exacts [h.withMp.mireCheck, h.withMp.missCheck, h.withMp]
    · refine .workSent ?_
      refine .withMp ?_
      split
      · refine .plistAdd ?_
        refine .fctr ?_
        refine .occ ?_
        refine .setMCmd ?_
        split
        exacts [h.withMp.mireCheck, h.withMp.missCheck, h.withMp]
      · refine .fctr ?_
        refine .occ ?_
        refine .setMCmd ?_
        split
        exacts [h.withMp.mireCheck, h.withMp.missCheck, h.withMp]

theorem Canonical.mIssue (h : Canonical s) : Canonical (mIssue s) := by
  unfold Machine.mIssue
  dsimp only
  split
  exacts [.ite h.writeIssue h.readIssue, h.readIssue, h.writeIssue, h]

theorem Canonical.mCredit {write : Bool} (h : Canonical s) : Canonical (mCredit write s) := .ite h.withMp h.withMp

theorem Canonical.fillTry {i : Nat} (h : Canonical s) : Canonical (fillTry i s) := by
  unfold Machine.fillTry
  dsimp only
  split
  · exact h.missCheck
  · split
    · exact h.missCheck
    · split
      · exact (h.missCheck.unless (·.logErr)).fillServe
      · split
        · exact h.missCheck
        · refine .fillServe ?_
          split
          · exact h.missCheck.unless (·.logErr)
          · split
            exacts [(h.missCheck.unless (·.logErr)).logErr.occR, (h.missCheck.unless (·.logErr)).logErr.occU]

theorem Canonical.thruSend {e : Miss} (h : Canonical s) : Canonical (thruSend e s) := .foldl h (·.mwPush)

theorem Canonical.fillInstallAt {e : Miss} (h : Canonical s) : Canonical (fillInstallAt e s) := by
  unfold Machine.fillInstallAt
  dsimp only
  split
  · next e => exact (h.missCheck.tryInstall.get e).missDrop.thruSend.useSlot
  · exact h.missCheck
  · split
    · refine .mwPush ?_
      refine .missMod ?_
      refine .useSlot ?_
      split
      exacts [h.missCheck.occR, h.missCheck.occU]
    · refine .missDrop ?_
      refine .useSlot ?_
      split
      exacts [h.missCheck.occR, h.missCheck.occU]

theorem Canonical.drainTry (h : Canonical s) : Canonical (drainTry s) := by
  unfold Machine.drainTry
  dsimp only
  split
  exacts [h, h.when (·.withSrv.mbxDone)]

theorem Canonical.mireFree {i : Nat} (h : Canonical s) : Canonical (mireFree i s) := by
  unfold Machine.mireFree
  dsimp only
  split
  exacts [h, .ite h (.ite h.mireMod.mwPush (h.unless (·.withMp.drainTry)))]

theorem Canonical.cleanFree {k : Nat} (h : Canonical s) : Canonical (cleanFree k s) := by
  unfold Machine.cleanFree
  dsimp only
  split
  exacts [h, h.unless (·.withMp.drainTry)]

theorem Canonical.wackAt {t : MTag} {l : LAddr} {tc : BitVec 4} {err : Bool} (h : Canonical s) : Canonical (wackAt t l tc err s) := by
  unfold Machine.wackAt
  dsimp only
  split
  · exact (h.withMp.when (·.plistAdd)).mireMod.mireFree
  · exact (h.withMp.when (·.plistAdd)).missDrop
  · exact (h.withMp.when (·.plistAdd)).withMp.cleanFree
  · exact h.withMp.when (·.plistAdd)

theorem Canonical.macWriteAt {k : OwnKind} {st : Nat} (h : Canonical s) : Canonical (macWriteAt k st s) := by
  unfold Machine.macWriteAt
  dsimp only
  split
  · split
    exacts [h, (h.mireMod.unless (·.logErr)).mireFree]
  · split
    exacts [h, (h.withMp.unless (·.logErr)).cleanFree]
  · exact h.unless (·.logErr)
  · exact h

/-! ### Tally -/

theorem Canonical.twaitComp {r : Req} {st : Nat} (h : Canonical s) : Canonical (twaitComp r st s) := h.compTo

theorem Canonical.twaitAt {r : Req} (h : Canonical s) : SomeCanonical (twaitAt r s) := by
  unfold Machine.twaitAt
  dsimp only
  split
  · exact h.tallyUse.occR.twaitComp
  · split
    · exact h.tallyUse.occR.compTo
    · split
      · exact trivial
      · exact h.tallyUse.withTal.occR.traceEv

theorem Canonical.portPass {p : DPort} {op : Nat} {f : Req → State → Option State} (h : Canonical s) (hf : ∀ {a t}, Canonical t → SomeCanonical (f a t)) :
    Canonical (portPass p op f s) := by
  unfold Machine.portPass
  split
  · exact h
  · split
    · exact h
    · split
      · next e => exact ((hf h.portPick).get e).popIng
      · exact h

theorem Canonical.twaitDeadlineAt {k : Nat} (h : Canonical s) : Canonical (twaitDeadlineAt k s) := by
  unfold Machine.twaitDeadlineAt
  dsimp only
  split
  · exact h
  · split
    exacts [h, h.ctlUse.withTal.occU.notice.traceEv]

theorem Canonical.releaseAt {k : Nat} (h : Canonical s) : Canonical (releaseAt k s) := by
  unfold Machine.releaseAt
  dsimp only
  split
  exacts [h, h.unless (·.twaitDeadlineAt.ctlUse.withTal.occR.traceEv.compTo)]

theorem Canonical.resolveDeadlineAt {rid : Nat} (h : Canonical s) : Canonical (resolveDeadlineAt rid s) := by
  unfold Machine.resolveDeadlineAt
  dsimp only
  split
  · exact h
  · split
    · exact h
    · split
      exacts [h, h.regionMod.occU.notice.traceEv]

theorem Canonical.releaseAll {n : Nat} (h : Canonical s) : Canonical (releaseAll n s) := by
  induction n generalizing s with
  | zero => exact h
  | succ n ih =>
    unfold Machine.releaseAll
    split
    exacts [ih h.releaseAt, h]

theorem Canonical.reportAll (h : Canonical s) : Canonical (reportAll s) := .foldl (.foldl h (·.twaitDeadlineAt)) (·.resolveDeadlineAt)

theorem Canonical.tallyTick (h : Canonical s) : Canonical (tallyTick s) := by
  unfold Machine.tallyTick
  extract_lets s'
  have hs : Canonical s' := h.reportAll.releaseAll
  clear_value s'
  exact { hs with }

end
end Sys2Proof.Machine
end

section
/-! SUPPORT. The canonical form of the stores: ingress and the data commands. -/

namespace Sys2Proof.Machine

-- One declaration after the other: the threads of declarations that wait for one another exhaust the memory that a compile may take.
set_option Elab.async false

section
variable {s t : State}

/-! ### Cmd -/

theorem Canonical.cmdRun {op : Nat} {sub : State → Nat → Bool} {f : Nat → State → State} (h : Canonical s)
    (hf : ∀ {a t}, Canonical t → Canonical (f a t)) :
    Canonical (cmdRun op sub f s) := by
  unfold Machine.cmdRun
  dsimp only
  split
  · exact h
  · split
    exacts [h, .ite (hf h.withStartQ.mbxSet) h]

theorem Canonical.checked {t : Nat} {l : List (Bool × Nat)} {res : State → List Nat} {f : State → State} (h : Canonical s)
    (hf : ∀ {t}, Canonical t → Canonical (f t)) : Canonical (checked t l res f s) := by
  unfold Machine.checked
  split
  exacts [h.mbxDone, (hf h)]

/-! ### Count -/

theorem Canonical.ctrPut {n : Nat} {c : Ctr} (h : Canonical s) : Canonical (ctrPut n c s) := { h with ctr := swf_sset _ _ _ _ h.ctr }

theorem swf_foldl_sset {α β : Type} [DecidableEq α] {d : Nat → α} {k : β → Nat} {v : β → α} {l : List β} {st : Store α} (h : swf d st = true) :
    swf d (l.foldl (fun a x => sset d a (k x) (v x)) st) = true :=
  List.foldlRecOn (motive := fun a => swf d a = true) l _ h fun _ h _ _ => swf_sset _ _ _ _ h

theorem Canonical.settle (h : Canonical s) : Canonical (settle s) := by
  unfold Machine.settle
  extract_lets l ov cs
  have hc : swf (fun _ => Ctr.reset) cs = true := swf_foldl_sset h.ctr
  clear_value cs
  exact h.unless ({ · with ctr := hc })

theorem Canonical.sampPush {r : Rec} (h : Canonical s) : Canonical (sampPush r s) := .ite h (.ite h.withCtr h.withCtr)

theorem Canonical.sampTake {n place : Nat} {r : Option Rec} (h : Canonical s) : Canonical (sampTake n place r s) := h.withCtr

theorem Canonical.dumpPump {k : Nat} (h : Canonical s) : Canonical (dumpPump k s) := by
  induction k generalizing s with
  | zero => exact h
  | succ k ih =>
    unfold Machine.dumpPump
    split
    · exact h
    · exact h.unless fun h => ih h.withCtr.ownWriteLine

theorem Canonical.capAt {c : CapReq} (h : Canonical s) : Canonical (capAt c s) := h.withCtr

theorem Canonical.dumpTake (h : Canonical s) : Canonical (dumpTake s) := h.withCtr.dumpPump

/-! ### Ingress -/

theorem Canonical.execRequestIngress {p : DPort} {m : Msg} {qc : BitVec 4} (h : Canonical s) : NextCanonical (execRequestIngress p m qc s) :=
  .ite (h.when (·.ingressD)) (h.when (·.recvBeats.refuseMsg))

theorem Canonical.execSPortRequest {m : Msg} (h : Canonical s) : NextCanonical (execSPortRequest m s) := h.when (·.ingressS)

theorem PortCanonical.rrSet {x : PortSt} {c : BitVec 4} (h : PortCanonical x) : PortCanonical { x with rrLend := c } := { h with }

theorem Canonical.execCreditLend {p : DPort} {qwant : BitVec 16} (h : Canonical s) : NextCanonical (execCreditLend p qwant s) := by
  unfold Machine.execCreditLend
  dsimp only [NextCanonical]
  split
  · split
    · exact h
    · refine .occ (h.portSet ?_)
      split
      exacts [(h.port p).grantCredit.rrSet, (h.port p).grantCredit]
  · exact h

theorem Canonical.anyStep {p : Port} {op : Nat} (h : Canonical s) : Canonical (anyStep p op s) := by
  unfold Machine.anyStep
  split
  exacts [h.portStep, h.portStep, h.sStep]

theorem Canonical.execRd {p : Port} (h : Canonical s) : NextCanonical (execRd p s) := h.anyStep

theorem Canonical.execWr {p : Port} (h : Canonical s) : NextCanonical (execWr p s) := h.anyStep

theorem Canonical.execRed {p : DPort} (h : Canonical s) : NextCanonical (execRed p s) := h.portStep

theorem Canonical.execAtom {p : DPort} (h : Canonical s) : NextCanonical (execAtom p s) := h.portStep

theorem Canonical.execTwait {p : DPort} (h : Canonical s) : NextCanonical (execTwait p s) := .portPass h (·.twaitAt)

theorem Canonical.execTread {p : DPort} (h : Canonical s) : NextCanonical (execTread p s) := .portPass h (·.tallyUse.twaitComp)

theorem Canonical.execChainRd (h : Canonical s) : NextCanonical (execChainRd s) := h.sStep

theorem Canonical.execRdShr {p : DPort} (h : Canonical s) : NextCanonical (execRdShr p s) := h.portStep

theorem Canonical.execRdUnq {p : DPort} (h : Canonical s) : NextCanonical (execRdUnq p s) := h.portStep

theorem Canonical.execUpgrade {p : DPort} (h : Canonical s) : NextCanonical (execUpgrade p s) := h.portStep

theorem Canonical.execWb {p : DPort} (h : Canonical s) : NextCanonical (execWb p s) := h.portStep

theorem Canonical.execEvict {p : DPort} (h : Canonical s) : NextCanonical (execEvict p s) := h.portStep

theorem Canonical.execAtomC {p : DPort} (h : Canonical s) : NextCanonical (execAtomC p s) := h.portStep

theorem Canonical.execRdOnce {p : DPort} (h : Canonical s) : NextCanonical (execRdOnce p s) := h.portStep

theorem Canonical.execHeldRequestRepresent {p : DPort} {k : Nat} (h : Canonical s) : NextCanonical (execHeldRequestRepresent p k s) := by
  unfold Machine.execHeldRequestRepresent
  dsimp only [NextCanonical]
  split
  · split
    · exact h.when (·.portSet { h.port p with })
    · exact h
  · exact h

theorem Canonical.execTwaitRelease {k : Nat} (h : Canonical s) : NextCanonical (execTwaitRelease k s) := h.releaseAt

theorem Canonical.execTallyDeadline {k : Nat} (h : Canonical s) : NextCanonical (execTallyDeadline k s) := h.twaitDeadlineAt

/-! ### CountCmds -/

theorem Canonical.ctrCmd {f : Nat → State → State} {t : Nat} (h : Canonical s) (hf : ∀ {a t}, Canonical t → Canonical (f a t)) :
    Canonical (ctrCmd f t s) := .checked h hf

theorem Canonical.ctrEach {g : Nat → State → State} {t : Nat} (h : Canonical s) (hg : ∀ {a t}, Canonical t → Canonical (g a t)) :
    Canonical (ctrEach g t s) := .mbxDone (.foldl h hg)

theorem Canonical.execCtrRead (h : Canonical s) : NextCanonical (execCtrRead s) := .cmdRun h (fun h => .ctrCmd h (·.mbxWork.capAt))

theorem Canonical.readOut {t : Nat} (h : Canonical s) : Canonical (readOut t s) := h.when (·.mbxOut)

theorem Canonical.ctrReset {n : Nat} {v : BitVec 48} (h : Canonical s) : Canonical (ctrReset n v s) := h.withCtr

theorem Canonical.execCtrLoad (h : Canonical s) : NextCanonical (execCtrLoad s) :=
  .cmdRun h (fun h => .ctrCmd h (fun h => .ctrEach h (·.ctrPut.ctrReset)))

theorem Canonical.execCtrZero (h : Canonical s) : NextCanonical (execCtrZero s) := .cmdRun h (fun h => .ctrCmd h (fun h => .ctrEach h (·.ctrReset)))

theorem Canonical.ctrRunSet {b : Bool} {t : Nat} (h : Canonical s) : Canonical (ctrRunSet b t s) := .ctrEach h (·.ctrPut)

theorem Canonical.execCtrStop (h : Canonical s) : NextCanonical (execCtrStop s) := .cmdRun h (fun h => .ctrCmd h (·.ctrRunSet))

theorem Canonical.execCtrStart (h : Canonical s) : NextCanonical (execCtrStart s) := .cmdRun h (fun h => .ctrCmd h (·.ctrRunSet))

theorem Canonical.nativeEnd {x : NatPend} (h : Canonical s) : Canonical (nativeEnd x s) := h.withCtr.sampTake

theorem Canonical.execNativeSampleSubject {n : Fin 64} (h : Canonical s) : NextCanonical (execNativeSampleSubject n s) := by
  unfold Machine.execNativeSampleSubject
  split
  exacts [h.nativeEnd, h]

theorem Canonical.execNativeSampleExpiry {n : Fin 64} (h : Canonical s) : NextCanonical (execNativeSampleExpiry n s) := by
  unfold Machine.execNativeSampleExpiry
  split
  exacts [h.nativeEnd, h]

theorem Canonical.execPeriodicSample {n : Fin 64} (h : Canonical s) : NextCanonical (execPeriodicSample n s) := h.when (·.ctrPut.sampTake)

theorem Canonical.execSampleWrite (h : Canonical s) : NextCanonical (execSampleWrite s) := by
  unfold Machine.execSampleWrite
  dsimp only
  split
  exacts [h, h.unless (·.withCtr.ownWritePart)]

theorem Canonical.execDumpNow (h : Canonical s) : NextCanonical (execDumpNow s) := .cmdRun h (fun h => .checked h (·.capAt.mbxDone))

theorem Canonical.execDumpRingReset (h : Canonical s) : NextCanonical (execDumpRingReset s) := .cmdRun h (fun h => .checked h (·.withCtr.mbxDone))

theorem Canonical.execDump (h : Canonical s) : NextCanonical (execDump s) := Canonical.ite (.ite h.withCtr h.withCtr.capAt) h

theorem Canonical.ringFault {addr seq src st : Nat} (h : Canonical s) : Canonical (ringFault addr seq src st s) := h.unless (·.occU.notice.raise)

theorem Canonical.execDmaWriteComp {txid : BitVec 16} {status : BitVec 3} (h : Canonical s) : NextCanonical (execDmaWriteComp txid status s) := by
  unfold Machine.execDmaWriteComp
  dsimp only [NextCanonical]
  split
  · exact .dumpPump (h.ownDrop.ringFault.when (·.raise))
  · exact h.ownDrop.ringFault.dumpPump
  · exact h

theorem Canonical.execTierTempGauge {readings : BitVec 64} (h : Canonical s) : NextCanonical (execTierTempGauge readings s) :=
  .ite (.foldl h.withCtr (fun h => h.when (·.ctrPut))) h

/-! ### HomeCmds -/

theorem Canonical.answerAt {op vc : Nat} {m : Msg} {f : Hte → State → State} (h : Canonical s) (hf : ∀ {a t}, Canonical t → Canonical (f a t)) :
    Canonical (answerAt op vc m f s) := by
  unfold Machine.answerAt
  split
  · exact h
  · split
    · exact h.recvBeats
    · split
      exacts [h, (hf h.recvBeats.useSlot)]

theorem Canonical.execSnpAck {p : DPort} {m : Msg} (h : Canonical s) : NextCanonical (execSnpAck p m s) := .answerAt h (·.snpAckAt)

theorem Canonical.execCompAck {p : DPort} {m : Msg} (h : Canonical s) : NextCanonical (execCompAck p m s) := .answerAt h (·.ctlUse.hteClose)

theorem Canonical.execDataHome {p : DPort} {m : Msg} (h : Canonical s) : NextCanonical (execDataHome p m s) := .answerAt h (·.homeDataAt)

theorem Canonical.execWbData {p : DPort} {m : Msg} (h : Canonical s) : NextCanonical (execWbData p m s) := .answerAt h (·.homeDataAt)

theorem Canonical.execHteDeferredWrite {x : Fin 256} (h : Canonical s) : NextCanonical (execHteDeferredWrite x s) := by
  unfold Machine.execHteDeferredWrite
  dsimp only
  split
  exacts [h.when (·.hTry.useSlot), h]

theorem Canonical.relookAt {k : Nat} (h : Canonical s) : Canonical (relookAt k s) := by
  unfold Machine.relookAt
  dsimp only
  split
  · exact h
  · split
    · exact h
    · split
      · next e => exact (h.withHome.reqStep.ends e).reqSlot
      · next e => exact (h.withHome.reqStep.ends e).reqSlot
      · next e => exact (h.withHome.reqStep.ends e).withHome.reqSlot.holdCount

theorem Canonical.execHteRelookup {k : Nat} (h : Canonical s) : NextCanonical (execHteRelookup k s) := h.relookAt

theorem Canonical.execHomeTimeout {x : Fin 256} (h : Canonical s) : NextCanonical (execHomeTimeout x s) := by
  unfold Machine.execHomeTimeout
  split
  exacts [h.when (·.useSlot.homeTimeoutAt), h]

theorem Canonical.execUnmatchedAnswer {p : DPort} {m : Msg} (h : Canonical s) : NextCanonical (execUnmatchedAnswer p m s) :=
  h.when (·.recvBeats.useSlot.occU)

theorem Canonical.execUnexpectedMessage {p : DPort} {m : Msg} (h : Canonical s) : NextCanonical (execUnexpectedMessage p m s) :=
  h.when (·.recvBeats.occU)

theorem Canonical.execTempRpt {p : DPort} {m : Msg} (h : Canonical s) : NextCanonical (execTempRpt p m s) := .ite (h.recvBeats.when (·.withRegul)) h

/-! ### MemCmds -/

theorem Canonical.execMCommandIssue (h : Canonical s) : NextCanonical (execMCommandIssue s) := h.mIssue

theorem Canonical.execMCreditReturn {write : Bool} (h : Canonical s) : NextCanonical (execMCreditReturn write s) := h.when (·.mCredit)

theorem Canonical.execMReadData {e : Fin 1024} {d : Line} {poi : BitVec 2} (h : Canonical s) : NextCanonical (execMReadData e d poi s) := by
  unfold Machine.execMReadData
  split
  · split
    · exact h.missMod.fillTry
    · exact trivial
  · exact trivial

theorem Canonical.execFillInstall {e : Fin 1024} (h : Canonical s) : NextCanonical (execFillInstall e s) := by
  unfold Machine.execFillInstall
  split
  exacts [h.when (·.fillInstallAt), h]

theorem Canonical.execMWriteAck {t : MTag} {err : Bool} (h : Canonical s) : NextCanonical (execMWriteAck t err s) := by
  unfold Machine.execMWriteAck
  split
  exacts [h.wackAt, trivial]

theorem Canonical.execSealMacReadData {e : Fin 1024} {status : BitVec 3} {mac : BitVec 64} (h : Canonical s) :
    NextCanonical (execSealMacReadData e status mac s) := by
  unfold Machine.execSealMacReadData
  split
  exacts [h, h.ownDrop.missMod.fillTry]

theorem Canonical.execMacWriteComp {txid : BitVec 16} {status : BitVec 3} (h : Canonical s) : NextCanonical (execMacWriteComp txid status s) := by
  unfold Machine.execMacWriteComp
  split
  · split
    exacts [h.ownDrop.macWriteAt, h.ownDrop.macWriteAt, h.ownDrop.macWriteAt, h]
  · exact h

theorem Canonical.prefetchAt (h : Canonical s) : Canonical (prefetchAt s) := by
  unfold Machine.prefetchAt
  dsimp only
  split
  exacts [h, .ite h (.ite h.withPf.lookCheck.useSlot.missAdd.occR h.withPf.lookCheck.useSlot.occR)]

theorem Canonical.execPrefetchFill (h : Canonical s) : NextCanonical (execPrefetchFill s) := h.prefetchAt

theorem Canonical.execExactStep (h : Canonical s) : NextCanonical (execExactStep s) := h.exactOne

/-! ### FenCmds -/

theorem Canonical.fenAllocCmd {t : Nat} (h : Canonical s) : Canonical (fenAllocCmd t s) := .checked h (·.withFen.mbxWork)

theorem Canonical.execFenAlloc (h : Canonical s) : NextCanonical (execFenAlloc s) := .cmdRun h (·.fenAllocCmd)

theorem Canonical.execFenAllocZeroed {k : Nat} (h : Canonical s) : NextCanonical (execFenAllocZeroed k s) := by
  unfold Machine.execFenAllocZeroed
  dsimp only
  split
  exacts [h, h.zeroFrames.withFen.mbxDone]

theorem Canonical.segRemove {seg : Nat} (h : Canonical s) : Canonical (segRemove seg s) := by
  unfold Machine.segRemove
  dsimp only
  split
  exacts [h, h.withFen]

theorem Canonical.fenFreeCmd {t : Nat} (h : Canonical s) : Canonical (fenFreeCmd t s) := .checked h (·.segRemove.mbxDone)

theorem Canonical.execFenFree (h : Canonical s) : NextCanonical (execFenFree s) := .cmdRun h (·.fenFreeCmd)

theorem Canonical.execFenFreeReclaim {k : Nat} (h : Canonical s) : NextCanonical (execFenFreeReclaim k s) := by
  unfold Machine.execFenFreeReclaim
  dsimp only
  split
  exacts [h, h.unless (·.withFen.dropFrames)]

theorem Canonical.transferCmd {load : Bool} {t : Nat} (h : Canonical s) : Canonical (transferCmd load t s) := .checked h (·.withFen.mbxWork)

theorem Canonical.execFenLoad (h : Canonical s) : NextCanonical (execFenLoad s) := .cmdRun h (·.transferCmd)

theorem Canonical.execFenFlush (h : Canonical s) : NextCanonical (execFenFlush s) := .cmdRun h (·.transferCmd)

theorem Canonical.execTransferLineIssue {seg : Fin 64} (h : Canonical s) : NextCanonical (execTransferLineIssue seg s) := by
  unfold Machine.execTransferLineIssue
  split
  exacts [h.when (·.xferIssue), h]

theorem Canonical.execTransferLineResponse {txid : BitVec 16} {status : BitVec 3} {d : Line} (h : Canonical s) :
    NextCanonical (execTransferLineResponse txid status d s) := by
  unfold Machine.execTransferLineResponse
  split
  · split
    exacts [h.ownDrop.xferAnswer, h.ownDrop]
  · exact h

theorem Canonical.fenFlipCmd {t : Nat} (h : Canonical s) : Canonical (fenFlipCmd t s) := .checked h (·.segMod.mbxDone)

theorem Canonical.execFenFlip (h : Canonical s) : NextCanonical (execFenFlip s) := .cmdRun h (·.fenFlipCmd)

theorem Canonical.execFlipReady {seg : Fin 64} (h : Canonical s) : NextCanonical (execFlipReady seg s) := by
  unfold Machine.execFlipReady
  split
  exacts [h.when (·.segMod.traceEv), h]

theorem Canonical.execFlipEffect {seg : Fin 64} (h : Canonical s) : NextCanonical (execFlipEffect seg s) := by
  unfold Machine.execFlipEffect
  split
  exacts [h.when (·.flipTake), h]

theorem Canonical.accOpenCmd {t : Nat} (h : Canonical s) : Canonical (accOpenCmd t s) := .checked h (·.withFen.mbxWork)

theorem Canonical.execAccOpen (h : Canonical s) : NextCanonical (execAccOpen s) := .cmdRun h (·.accOpenCmd)

theorem Canonical.execRegionOpen {rid : Fin 16} (h : Canonical s) : NextCanonical (execRegionOpen rid s) := by
  unfold Machine.execRegionOpen
  split
  exacts [h.when (·.regionOpenAt), h]

theorem Canonical.accResolveCmd {t : Nat} (h : Canonical s) : Canonical (accResolveCmd t s) := .checked h (·.regionMod.mbxDone)

theorem Canonical.execAccResolve (h : Canonical s) : NextCanonical (execAccResolve s) := .cmdRun h (·.accResolveCmd)

theorem Canonical.setResolve {rid : Nat} {x : Resolve} (h : Canonical s) : Canonical (setResolve rid x s) := h.regionMod

theorem Canonical.execResolveReady {rid : Fin 16} (h : Canonical s) : NextCanonical (execResolveReady rid s) := by
  unfold Machine.execResolveReady
  split
  exacts [h.when (·.setResolve.traceEv), h]

theorem Canonical.execResolveStart {rid : Fin 16} (h : Canonical s) : NextCanonical (execResolveStart rid s) := by
  unfold Machine.execResolveStart
  split
  exacts [.ite (.ite (h.when (·.resolveEnd)) h.setResolve) h, h]

theorem Canonical.execResolveLineWrite {rid : Fin 16} (h : Canonical s) : NextCanonical (execResolveLineWrite rid s) := by
  unfold Machine.execResolveLineWrite
  split
  exacts [.ite h (.ite h.resolveLine.setResolve (h.when (·.resolveLine.resolveEnd))), h]

theorem Canonical.execResolveDeadline {rid : Fin 16} (h : Canonical s) : NextCanonical (execResolveDeadline rid s) := h.resolveDeadlineAt

end
end Sys2Proof.Machine
end

section
/-! SUPPORT. The canonical form of the stores: Peat, generations and firmware. -/

namespace Sys2Proof.Machine

-- One declaration after the other: the threads of declarations that wait for one another exhaust the memory that a compile may take.
set_option Elab.async false

section
variable {s t : State}

/-! ### Peat -/

theorem Canonical.bufSettle {b : Nat} (h : Canonical s) : Canonical (bufSettle b s) := h.when (·.bufSet)

theorem Canonical.bufStop {b : Nat} (h : Canonical s) : Canonical (bufStop b s) := .ite h (h.bufSet.when (·.notice.raise)).bufSettle

theorem Canonical.bufPut {b ty : Nat} {body : BitVec 152} (h : Canonical s) : Canonical (bufPut b ty body s) := h.bufSet.when (·.bufStop)

theorem Canonical.dropTry {b : Nat} (h : Canonical s) : Canonical (dropTry b s) := by
  unfold Machine.dropTry
  dsimp only
  split
  exacts [h, h.when (·.bufSet.bufPut)]

theorem Canonical.bufOffer {b ty : Nat} {body : BitVec 152} (h : Canonical s) : Canonical (bufOffer b ty body s) :=
  .ite h.dropTry (.ite h.dropTry (.ite h.dropTry.bufPut h.dropTry.bufSet))

theorem Canonical.bufTrigger {b src win : Nat} (h : Canonical s) : Canonical (bufTrigger b src win s) :=
  .ite h (.ite (h.when (·.withSrv)).dropTry.bufSet.bufOffer (h.when (·.withSrv)).bufOffer)

theorem Canonical.bufStart {b : Nat} (h : Canonical s) : Canonical (bufStart b s) := h.bufSet

theorem Canonical.traceIssue {b : Nat} (h : Canonical s) : Canonical (traceIssue b s) := by
  unfold Machine.traceIssue
  dsimp only
  split
  exacts [h, .dropTry (.ite h.bufSet.ownWriteLine h.bufSet.ownWritePart)]

theorem Canonical.tracePump {b k : Nat} (h : Canonical s) : Canonical (tracePump b k s) := by
  induction k generalizing s with
  | zero => exact h
  | succ k ih => exact h.when fun h => ih h.traceIssue

theorem Canonical.bufScan {b : Nat} (h : Canonical s) : Canonical (bufScan b s) := by
  unfold Machine.bufScan
  dsimp only
  split
  · exact .bufTrigger (.foldl h.dropTry (fun h => h.when (·.bufOffer)))
  · exact .foldl h.dropTry (fun h => h.when (·.bufOffer))

theorem Canonical.peatEnd (h : Canonical s) : Canonical (peatEnd s) := .ite h (.withPeat (.ite (.foldl h (fun h => h.unless (·.bufScan))) h))

/-! ### PeatCmds -/

theorem Canonical.execTraceDmaWrite {b : Fin 4} (h : Canonical s) : NextCanonical (execTraceDmaWrite b s) := h.when (·.traceIssue)

theorem Canonical.execTraceIdleFlush {b : Fin 4} (h : Canonical s) : NextCanonical (execTraceIdleFlush b s) := h.when (·.traceIssue)

theorem Canonical.execTraceDmaComp {txid : BitVec 16} {status : BitVec 3} (h : Canonical s) : NextCanonical (execTraceDmaComp txid status s) := by
  unfold Machine.execTraceDmaComp
  dsimp only
  split
  exacts [(h.ownDrop.unless (·.bufSet.notice.raise)).dropTry.bufSettle, h]

theorem Canonical.traceEach {g : Nat → State → State} {t : Nat} (h : Canonical s) (hg : ∀ {a t}, Canonical t → Canonical (g a t)) :
    Canonical (traceEach g t s) := .checked h (fun h => .mbxDone (.foldl h (fun h => .ite (hg h) h)))

theorem Canonical.execTraceTriggerCmd (h : Canonical s) : NextCanonical (execTraceTriggerCmd s) := .cmdRun h (fun h => .traceEach h (·.trigger))

theorem Canonical.execTraceRestart (h : Canonical s) : NextCanonical (execTraceRestart s) :=
  .cmdRun h (fun h => .traceEach h (fun h => h.when (·.bufSet)))

theorem Canonical.execTraceFlush (h : Canonical s) : NextCanonical (execTraceFlush s) :=
  .cmdRun h (fun h => .traceEach h (fun h => h.unless (·.bufSet.tracePump)))

theorem Canonical.execTraceStop (h : Canonical s) : NextCanonical (execTraceStop s) :=
  .cmdRun h (fun h => .traceEach h (fun h => h.when (·.bufStop.tracePump)))

theorem Canonical.watchCmd {f : Nat → Nat → State → State} {t : Nat} (h : Canonical s) (hf : ∀ {a b t}, Canonical t → Canonical (f a b t)) :
    Canonical (watchCmd f t s) := .checked h hf

theorem Canonical.execWatchRead (h : Canonical s) : NextCanonical (execWatchRead s) := .cmdRun h (fun h => .watchCmd h (·.mbxOut))

theorem Canonical.watClear {w : Nat} (h : Canonical s) : Canonical (watClear w s) := h.watSet

theorem Canonical.watStart {w : Nat} (h : Canonical s) : Canonical (watStart w s) := h.watClear.watSet

theorem Canonical.watEnd {f : Nat → State → State} {t w : Nat} (h : Canonical s) (hf : ∀ {a t}, Canonical t → Canonical (f a t)) :
    Canonical (watEnd f t w s) := (hf h).mbxDone

theorem Canonical.execWatchClear (h : Canonical s) : NextCanonical (execWatchClear s) :=
  .cmdRun h (fun h => .watchCmd h (fun h => .watEnd h (·.watClear)))

theorem Canonical.execWatchArm (h : Canonical s) : NextCanonical (execWatchArm s) := .cmdRun h (fun h => .watchCmd h (fun h => .watEnd h (·.watSet)))

theorem Canonical.execWatchDisarm (h : Canonical s) : NextCanonical (execWatchDisarm s) :=
  .cmdRun h (fun h => .watchCmd h (fun h => .watEnd h (·.watSet)))

theorem Canonical.execWatchScan (h : Canonical s) : NextCanonical (execWatchScan s) :=
  Canonical.cmdRun h fun h => .watchCmd h fun h => by
    split
    exacts [h, h.withPeat.mbxWork]

theorem Canonical.scanEnd {c : Scan} {code : Nat} (h : Canonical s) : Canonical (scanEnd c code s) := h.withPeat.mbxDone

theorem Canonical.execWatchScanStep (h : Canonical s) : NextCanonical (execWatchScanStep s) := by
  unfold Machine.execWatchScanStep
  dsimp only
  split
  · exact h
  · split
    exacts [h.scanEnd, .ite h.useSlot.frameRead.scanEnd h.useSlot.frameRead.withPeat]

/-! ### Gen -/

theorem Canonical.want {pd : Nat} {p : Power} (h : Canonical s) : Canonical (want pd p s) := h.unless (·.withPw)

theorem Canonical.armAt {t : Nat} {target : FT} {c : Tables} (h : Canonical s) (hc : swf tblDflt c = true) : Canonical (armAt t target c s) :=
  .mbxDone { h with armed := fun _ e => by cases e; exact hc, wait := nofun }

theorem Canonical.armTry (h : Canonical s) : Canonical (armTry s) := by
  unfold Machine.armTry
  split
  · next e => exact h.when (·.armAt (h.wait _ e))
  · exact h

theorem Canonical.genEnd {last : Nat} {f : Refused} (h : Canonical s) : Canonical (genEnd last f s) := .raise { h with armed := nofun }

theorem Canonical.applyHash {old : Tables} (h : Canonical s) : Canonical (applyHash old s) := h.unless (·.withGen)

theorem Canonical.applyPart {old : Tables} (h : Canonical s) : Canonical (applyPart old s) := by
  unfold Machine.applyPart
  dsimp only
  have hs := h.unless (c := partScrub old = partScrub s.t) fun h => h.withSrv (x := { s.srv with scrubG := s.clk.ft, scrubK := 0 })
  exact .ite hs.withGen (hs.when ({ · with tags := swf_filter _ _ _ hs.tags }))

theorem Canonical.applyClass {old : Tables} (h : Canonical s) : Canonical (applyClass old s) := .ite h.winRestart (h.when (·.winNote))

theorem Canonical.applyCtr {old : Tables} (h : Canonical s) : Canonical (applyCtr old s) :=
  .unless (.foldl h (fun h => .ite h (h.withCtr.unless (·.ctrPut)))) (·.withCtr)

theorem Canonical.applyPeat {old : Tables} (h : Canonical s) : Canonical (applyPeat old s) :=
  .foldl (.foldl h (fun h => h.when (·.bufStart))) (fun h => h.when (·.watStart))

theorem Canonical.tablesApplied {c : Tables} {n : BitVec 32} (h : Canonical s) (hc : swf tblDflt c = true) :
    Canonical { s with gen := { s.gen with live := c, shadow := c, gen := n }, srv := { s.srv with allocOff := false } } :=
  { h with live := hc, shadow := hc }

theorem Canonical.genApply {a : Armed} (h : Canonical s) (ha : swf tblDflt a.cand = true) : Canonical (genApply a s) := by
  unfold Machine.genApply
  extract_lets s' old
  have hs : Canonical s' := .foldl h fun h => h.when (·.winEnd)
  clear_value s' 
  exact (hs.tablesApplied ha).applyHash.applyPart.applyClass.applyCtr.applyPeat.genEnd

theorem Canonical.genInstant {a : Armed} (h : Canonical s) (ha : swf tblDflt a.cand = true) : Canonical (genInstant a s) := by
  unfold Machine.genInstant
  split
  exacts [h.genEnd, h.genApply ha]

/-! ### Stream -/

theorem Canonical.setTableEnd {t : Nat} (h : Canonical s) : Canonical (setTableEnd t s) := by
  unfold Machine.setTableEnd
  extract_lets tab first count es sh
  have hsh : swf tblDflt sh = true := swf_foldl_sset h.shadow
  exact .ite h.mbxDone (.ite h.mbxDone (.mbxDone { h with shadow := hsh }))

theorem Canonical.setInactive {v : Bool} (h : Canonical s) : Canonical (setInactive v s) := .ite h.withCore h.withCore

theorem Canonical.fwLoadEnd {t : Nat} (h : Canonical s) : Canonical (fwLoadEnd t s) :=
  .ite (.mbxDone (.setInactive (.ite h.withCore h.withCore))) (.mbxDone (.ite h.withCore h.withCore))

theorem Canonical.inputDone {t : Nat} (h : Canonical s) : Canonical (inputDone t s) := .ite h.setTableEnd h.fwLoadEnd

theorem Canonical.mbxFeed {t : Nat} (h : Canonical s) : Canonical (mbxFeed t s) := by
  unfold Machine.mbxFeed
  dsimp only
  split
  · exact h
  · split
    exacts [h.mbxSet.when (·.inputDone), h]

theorem Canonical.mbxInput {t n : Nat} (h : Canonical s) : Canonical (mbxInput t n s) := h.mbxSet.mbxFeed

/-! ### FwCmds -/

theorem Canonical.coreReset (h : Canonical s) : Canonical (coreReset s) := h.withCore

theorem Canonical.coreRestart (h : Canonical s) : Canonical (coreRestart s) := h.withStartQ.coreReset

theorem Canonical.readyMbx {t : Nat} (h : Canonical s) : Canonical (readyMbx t s) := by
  unfold Machine.readyMbx
  dsimp only
  split
  · exact h.mbxSet
  · split
    exacts [.ite h.mbxSet.withCore.mbxDone (h.mbxSet.unless (·.mbxDone)), h.mbxSet.unless (·.mbxDone)]

theorem Canonical.imageTaken (h : Canonical s) :
    Canonical { s with gen := { s.gen with shadow := s.gen.live, wait := none }, srv := { s.srv with insp := [] } } :=
  { h with shadow := h.live, wait := nofun }

theorem Canonical.imageReady (h : Canonical s) : Canonical (imageReady s) :=
  .imageTaken (.foldl h.withCore (·.readyMbx))

theorem Canonical.execFwReady (h : Canonical s) : NextCanonical (execFwReady s) := h.when (·.imageReady)

theorem Canonical.fwLoadCmd {t : Nat} (h : Canonical s) : Canonical (fwLoadCmd t s) := .checked h (·.setInactive.mbxInput)

theorem Canonical.execFwLoad (h : Canonical s) : NextCanonical (execFwLoad s) := .cmdRun h (·.fwLoadCmd)

theorem Canonical.fwActivateCmd {t : Nat} (h : Canonical s) : Canonical (fwActivateCmd t s) := .checked h (·.mbxWork.withCore.coreReset)

theorem Canonical.execFwActivate (h : Canonical s) : NextCanonical (execFwActivate s) := .cmdRun h (·.fwActivateCmd)

theorem Canonical.revert (h : Canonical s) : Canonical (revert s) := h.withCore.setInactive.coreReset.raiseAlert

theorem Canonical.execActivationRevert (h : Canonical s) : NextCanonical (execActivationRevert s) := by
  unfold Machine.execActivationRevert
  split
  exacts [h.when (·.revert), h]

theorem Canonical.coreAlert {b : Nat} (h : Canonical s) : Canonical (coreAlert b s) := h.withInts.coreRestart.raiseAlert

theorem Canonical.execWatchdogExpiry (h : Canonical s) : NextCanonical (execWatchdogExpiry s) := h.when (·.coreAlert)

theorem Canonical.execStewardTrap (h : Canonical s) : NextCanonical (execStewardTrap s) := .ite h (.ite h.revert h.coreAlert)

theorem Canonical.execInvalidCommand (h : Canonical s) : NextCanonical (execInvalidCommand s) := by
  unfold Machine.execInvalidCommand
  split
  · exact h
  · split
    exacts [h, h.unless (·.withStartQ.mbxDone)]

/-! ### GenCmds -/

theorem Canonical.execGetInfo (h : Canonical s) : NextCanonical (execGetInfo s) := .cmdRun h (·.mbxDone)

theorem Canonical.execSetTable (h : Canonical s) : NextCanonical (execSetTable s) := .cmdRun h (fun h => .checked h (·.mbxInput))

theorem Canonical.execGetTable (h : Canonical s) : NextCanonical (execGetTable s) := .cmdRun h (fun h => .checked h (·.mbxOut))

theorem Canonical.wantNeeds {c : Tables} (h : Canonical s) : Canonical (wantNeeds c s) := .foldl h (fun h => h.unless (·.want))

theorem Canonical.waitSet {w : CommitWait} (h : Canonical s) (hw : swf tblDflt w.cand = true) : Canonical (waitSet w s) :=
  { h with wait := fun _ e => by cases e; exact hw }

theorem Canonical.commitGo {w : CommitWait} (h : Canonical s) (hw : swf tblDflt w.cand = true) : Canonical (commitGo w s) :=
  (h.wantNeeds.waitSet hw).mbxWork.armTry

theorem Canonical.commitCmd {t : Nat} (h : Canonical s) : Canonical (commitCmd t s) := by
  unfold Machine.commitCmd
  refine .ite h.mbxDone (.ite h.mbxDone (.ite h.mbxDone (.ite h.mbxDone ?_)))
  split
  exacts [h.mbxDone, h.commitGo h.shadow]

theorem Canonical.execCommit (h : Canonical s) : NextCanonical (execCommit s) := .cmdRun h (·.commitCmd)

theorem Canonical.cancelCmd {t : Nat} (h : Canonical s) : Canonical (cancelCmd t s) := by
  unfold Machine.cancelCmd
  split
  · exact h.mbxDone
  · split
    · exact h.mbxDone
    · split
      exacts [h.mbxDone, .ite h.mbxDone h.genEnd.mbxDone]

theorem Canonical.execCommitCancel (h : Canonical s) : NextCanonical (execCommitCancel s) := .cmdRun h (·.cancelCmd)

end
end Sys2Proof.Machine
end

section
/-! SUPPORT. The canonical form of the stores: sweeps, service commands and MACE. -/

namespace Sys2Proof.Machine

-- One declaration after the other: the threads of declarations that wait for one another exhaust the memory that a compile may take.
set_option Elab.async false

section
variable {s t : State}

/-! ### Sweeps -/

theorem Canonical.sweepWay {x : Swept} {k : Nat} (h : Canonical x.s) : Canonical (sweepWay x k).s := by
  unfold Machine.sweepWay
  dsimp only
  split
  · exact h
  · split
    · exact h
    · exact h.evictWay

theorem Canonical.foldlSwept {α : Type} {f : Swept → α → Swept} {x : Swept} {l : List α} (h : Canonical x.s)
    (hf : ∀ {y a}, Canonical y.s → Canonical (f y a).s) : Canonical (l.foldl f x).s :=
  List.foldlRecOn (motive := fun y => Canonical y.s) l f h fun _ k _ _ => hf k

theorem Canonical.sweepSet {set : Nat} {p : State → Nat → Bool} (h : Canonical s) : Canonical (sweepSet set p s).s :=
  .foldlSwept (x := { wb := 0, inv := 0, left := false, s := _ }) h.useSlot.setCheck fun h => by
    split
    exacts [h.sweepWay, h]

theorem Canonical.rehashSet {r : Rehash} (h : Canonical s) : Canonical (rehashSet r s) := h.withGen

theorem Canonical.rehashEnd (h : Canonical s) : Canonical (rehashEnd s) := by
  unfold Machine.rehashEnd
  dsimp only
  split
  exacts [h.when (·.withGen), h]

theorem Canonical.rehashStep {r : Rehash} (h : Canonical s) : Canonical (rehashStep r s) := by
  unfold Machine.rehashStep
  extract_lets x
  have hx : Canonical x.s := h.sweepSet
  clear_value x
  exact hx.unless (·.rehashSet.rehashEnd)

theorem Canonical.convSet {c : Option Conv} (h : Canonical s) : Canonical (convSet c s) := h.withGen

theorem Canonical.convStep {c : Conv} (h : Canonical s) : Canonical (convStep c s) := by
  unfold Machine.convStep
  extract_lets x
  have hx : Canonical x.s := h.sweepSet
  clear_value x
  exact .ite hx (.ite hx.convSet hx.convSet)

theorem Canonical.noteVictim {k : Nat} {v : LAddr} (h : Canonical s) : Canonical (noteVictim k v s) := by
  unfold Machine.noteVictim
  split
  exacts [h.rehashSet, h]

theorem Canonical.sedgeMove {y : Nat} {a : Bool × State} {w : Nat} (h : Canonical a.2) : Canonical (sedgeMove y a w).2 := by
  unfold Machine.sedgeMove
  extract_lets
  split
  · exact h
  · split
    · exact h.sedgeSet
    · split
      · exact h
      · split
        · exact h.sedgeSet.sedgeSet
        · split
          · next e => exact (h.backInvalidate.ends e).noteVictim
          · next e => exact (h.backInvalidate.ends e).noteVictim
          · next e => exact h.backInvalidate.ends e
        · exact h

theorem Canonical.sedgeStep {r : Rehash} (h : Canonical s) : Canonical (sedgeStep r s) := by
  unfold Machine.sedgeStep
  extract_lets x
  have hx : Canonical x.2 := .foldlSnd h.useSlot.sedgeCheck (·.sedgeMove)
  clear_value x
  exact hx.unless (·.rehashSet.rehashEnd)

theorem Canonical.drainSet {d : Drain} (h : Canonical s) : Canonical (drainSet d s) := h.withSrv

theorem Canonical.drainNext {d : Drain} {x : Swept} (h : Canonical x.s) : Canonical (drainNext d x) := h.drainSet.drainTry

theorem Canonical.emptyStep {d : Drain} (h : Canonical s) : Canonical (emptyStep d s) := h.sweepSet.drainNext

theorem Canonical.cleanWay {x : Swept} {k : Nat} (h : Canonical x.s) : Canonical (cleanWay x k).s := by
  unfold Machine.cleanWay
  dsimp only
  split
  · exact h
  · split
    · exact h
    · split
      exacts [h, h.wayCheck.withMp.tagSet.mwPush]

theorem Canonical.cleanStep {d : Drain} (h : Canonical s) : Canonical (cleanStep d s) :=
  .drainNext (.foldlSwept h.useSlot.setCheck (·.cleanWay))

theorem Canonical.clearBank {b : Nat} (h : Canonical s) : Canonical (clearBank b s) := { h with tags := swf_filter _ _ _ h.tags }

theorem Canonical.bankDone {b code : Nat} {res : List Nat} (h : Canonical s) : Canonical (bankDone b code res s) := by
  unfold Machine.bankDone
  dsimp only
  split
  exacts [h.bankSet.mbxDone, h]

theorem Canonical.bankCount {b : Nat} {x : Swept} (h : Canonical s) : Canonical (bankCount b x s) := h.bankSet

theorem Canonical.bankLine {key : Nat} (h : Canonical s) : Canonical (bankLine key s).s := by
  unfold Machine.bankLine
  dsimp only
  split
  · exact h.useSlot.setCheck.sweepWay
  · exact h.useSlot.setCheck

theorem Canonical.bankSwept {b : Nat} (h : Canonical s) : Canonical (bankSwept b s) := by
  unfold Machine.bankSwept
  split
  · split
    exacts [h.when (·.want), h]
  · exact h

theorem Canonical.bankStep {b : Nat} (h : Canonical s) : Canonical (bankStep b s) := by
  unfold Machine.bankStep
  dsimp only
  split
  · split
    · exact h.bankLine.bankCount
    · split
      · exact h.bankLine.bankCount.bankSet
      · split
        exacts [h.bankLine.bankCount.bankSet.retireReport.bankDone, h.bankLine.bankCount.bankSet.retireReport]
  · split
    exacts [.ite (h.bankLine.bankCount.unless (·.bankSet.bankSwept)) h, h]

theorem Canonical.bankService {b : Nat} (h : Canonical s) : Canonical (bankService b s) := by
  unfold Machine.bankService
  dsimp only
  split
  · split
    exacts [h.bankSet.clearBank.bankDone, h]
  · exact h

theorem Canonical.bankMoved {b : Nat} {p : Power} (h : Canonical s) : Canonical (bankMoved b p s) := by
  unfold Machine.bankMoved
  split
  · split
    exacts [h.when (·.bankService), h.when (·.bankDone), h]
  · exact h

theorem Canonical.bankTrimmed {b : Nat} {v : Option (BitVec 8)} (h : Canonical s) : Canonical (bankTrimmed b v s) := by
  unfold Machine.bankTrimmed
  dsimp only
  split
  · split
    · split
      exacts [h.bankSet.clearBank.bankDone, h.retireBank]
    · exact h
  · exact h

/-! ### LiveCmds -/

theorem Canonical.execRehashSweepStep (h : Canonical s) : NextCanonical (execRehashSweepStep s) := by
  unfold Machine.execRehashSweepStep
  split
  exacts [h.when (·.rehashStep), h]

theorem Canonical.execSedgeSweepStep (h : Canonical s) : NextCanonical (execSedgeSweepStep s) := by
  unfold Machine.execSedgeSweepStep
  split
  exacts [h.when (·.sedgeStep), h]

theorem Canonical.execConversionSweepStep (h : Canonical s) : NextCanonical (execConversionSweepStep s) := by
  unfold Machine.execConversionSweepStep
  split
  exacts [h.convStep, h]

theorem Canonical.drainStart {m : DrainMode} {t : Nat} (h : Canonical s) : Canonical (drainStart m t s) := h.withSrv.mbxWork

theorem Canonical.execDrainHalt (h : Canonical s) : NextCanonical (execDrainHalt s) := .cmdRun h (fun h => .checked h (·.withSrv.drainStart))

theorem Canonical.execDrainHaltDone (h : Canonical s) : NextCanonical (execDrainHaltDone s) := by
  unfold Machine.execDrainHaltDone
  dsimp only
  split
  exacts [h.when (·.withSrv.mbxDone), h]

theorem Canonical.execDrainClean (h : Canonical s) : NextCanonical (execDrainClean s) := .cmdRun h (fun h => .checked h (·.drainStart))

theorem Canonical.execDrainCleanSweepStep (h : Canonical s) : NextCanonical (execDrainCleanSweepStep s) := by
  unfold Machine.execDrainCleanSweepStep
  split
  exacts [h.when (·.cleanStep), h]

theorem Canonical.execDrainEmpty (h : Canonical s) : NextCanonical (execDrainEmpty s) := .cmdRun h (fun h => .checked h (·.withSrv.drainStart))

theorem Canonical.execDrainEmptySweepStep (h : Canonical s) : NextCanonical (execDrainEmptySweepStep s) := by
  unfold Machine.execDrainEmptySweepStep
  split
  exacts [h.when (·.emptyStep), h]

theorem Canonical.execResume (h : Canonical s) : NextCanonical (execResume s) := .cmdRun h (fun h => .checked h (·.withSrv.mbxDone))

theorem Canonical.bankStart {b : Nat} {k : BankOpKind} {t : Nat} (h : Canonical s) : Canonical (bankStart b k t s) := h.bankSet.mbxWork

theorem Canonical.bankOfflineCmd {t : Nat} (h : Canonical s) : Canonical (bankOfflineCmd t s) := .checked h (·.bankStart)

theorem Canonical.execBankOffline (h : Canonical s) : NextCanonical (execBankOffline s) := .cmdRun h (·.bankOfflineCmd)

theorem Canonical.bankOnlineCmd {t : Nat} (h : Canonical s) : Canonical (bankOnlineCmd t s) := by
  unfold Machine.bankOnlineCmd
  refine .checked h fun h => ?_
  exact .ite h.bankStart.withPw.bankService h.bankStart.want

theorem Canonical.execBankOnline (h : Canonical s) : NextCanonical (execBankOnline s) := .cmdRun h (·.bankOnlineCmd)

theorem Canonical.bankTrimCmd {t : Nat} (h : Canonical s) : Canonical (bankTrimCmd t s) := .checked h (·.bankStart)

theorem Canonical.execBankTrim (h : Canonical s) : NextCanonical (execBankTrim s) := .cmdRun h (·.bankTrimCmd)

theorem Canonical.execBankSweepStep {b : Fin 64} (h : Canonical s) : NextCanonical (execBankSweepStep b s) := h.bankStep

theorem Canonical.execBankTrimCalibrationDone {b : Fin 64} {setting : Option (BitVec 8)} (h : Canonical s) :
    NextCanonical (execBankTrimCalibrationDone b setting s) := h.bankTrimmed

/-! ### Inspect -/

theorem Canonical.inspDrop {t : Nat} (h : Canonical s) : Canonical (inspDrop t s) := h.withSrv

theorem Canonical.inspStep {x : Insp} (h : Canonical s) : Canonical (inspStep x s) :=
  .mbxOutTry (.ite h.useSlot.mbxSet.withSrv h.useSlot.mbxSet.inspDrop)

theorem Canonical.inspCmd {t : Nat} (h : Canonical s) : Canonical (inspCmd t s) := .checked h (·.withSrv.mbxOut)

theorem Canonical.execInspectLine (h : Canonical s) : NextCanonical (execInspectLine s) := .cmdRun h (·.inspCmd)

theorem Canonical.execInspectLineRecord (h : Canonical s) : NextCanonical (execInspectLineRecord s) := by
  unfold Machine.execInspectLineRecord
  split
  exacts [h.when (·.inspStep), h]

theorem Canonical.snapSet {x : Option Snap} (h : Canonical s) : Canonical (snapSet x s) := h.withSrv

theorem Canonical.snapNext {x : Snap} (h : Canonical s) : Canonical (snapNext x s) := by
  unfold Machine.snapNext
  split
  exacts [h.snapSet.ownWriteLine, h.snapSet.mbxDone]

theorem Canonical.snapCmd {t : Nat} (h : Canonical s) : Canonical (snapCmd t s) := by
  unfold Machine.snapCmd
  exact .checked h fun h => .snapNext h.mbxWork

theorem Canonical.execWfgSnapshot (h : Canonical s) : NextCanonical (execWfgSnapshot s) := .cmdRun h (·.snapCmd)

theorem Canonical.snapAnswer {x : Snap} {st : Nat} (h : Canonical s) : Canonical (snapAnswer x st s) := .ite h.snapNext h.snapSet.mbxDone

theorem Canonical.execSnapshotWriteComp {txid : BitVec 16} {status : BitVec 3} (h : Canonical s) :
    NextCanonical (execSnapshotWriteComp txid status s) := by
  unfold Machine.execSnapshotWriteComp
  split
  exacts [h.ownDrop.snapAnswer, h.ownDrop, h]

/-! ### Mace -/

theorem Canonical.descMod {slot : Nat} {f : Desc → Desc} (h : Canonical s) : Canonical (descMod slot f s) := h.withMace

theorem Canonical.rowFault {slot k kind stat : Nat} (h : Canonical s) : Canonical (rowFault slot k kind stat s) := by
  unfold Machine.rowFault
  dsimp only
  split
  exacts [h, h.unless (·.descMod.occR)]

theorem Canonical.elemFaults {slot : Nat} (h : Canonical s) : Canonical (elemFaults slot s) := by
  unfold Machine.elemFaults
  split
  · exact h
  · refine .foldl h fun h => ?_
    extract_lets s'
    have hs : Canonical s' := by
      unfold s'
      split
      exacts [h.rowFault, h]
    exact hs.when (·.rowFault)

theorem Canonical.tidy {slot : Nat} (h : Canonical s) : Canonical (tidy slot s) := h.elemFaults.descMod

theorem Canonical.issueFor {d : Desc} (h : Canonical s) : SomeCanonical (issueFor d s) := by
  unfold Machine.issueFor
  dsimp only
  split
  · exact trivial
  · split
    · exact trivial
    · exact h.rowFault
    · split
      · exact h.descMod
      · split
        · exact h.rowFault
        · split
          · exact h.rowFault
          · split
            · exact trivial
            · exact h.ctlUse.occR.addDemand.descMod
    · split
      · exact h.rowFault
      · split
        · exact h.rowFault
        · split
          · exact h.rowFault
          · split
            · exact trivial
            · exact h.ctlUse.occR.addDemand.descMod

theorem Canonical.issueOne (h : Canonical s) : Canonical (issueOne s) := by
  unfold Machine.issueOne
  split
  · next e =>
    obtain ⟨i, -, e⟩ := List.exists_of_findSome?_eq_some e
    dsimp only at e
    split at e
    · exact (Option.some_ne_none _ e.symm).elim
    · obtain ⟨x, hx, e⟩ := Option.map_eq_some_iff.mp e
      obtain ⟨d, -, hx⟩ := Option.bind_eq_some_iff.mp hx
      obtain ⟨-, rfl⟩ := Prod.mk.inj e
      exact ((h.tidy.issueFor).get hx).withMace
  · exact h

theorem Canonical.tableStep {d : Desc} {e : Elem} (h : Canonical s) : Canonical (tableStep d e s) := by
  unfold Machine.tableStep
  dsimp only
  split
  · next e => exact (h.reqStep.ends e).reqSlot.elemMod
  · next e => exact (h.reqStep.ends e).reqSlot.elemMod
  · next e => exact (h.reqStep.ends e).reqSlot.holdCount

theorem Canonical.sourceStep {d : Desc} {e : Elem} {p : PLine} (h : Canonical s) : Canonical (sourceStep d e p s) := by
  unfold Machine.sourceStep
  dsimp only
  split
  exacts [h, h.reqSlot.frameRead.elemMod]

theorem Canonical.destStep {d : Desc} {e : Elem} {p : PLine} (h : Canonical s) : Canonical (destStep d e p s) := by
  unfold Machine.destStep
  dsimp only
  split
  · exact h
  · split
    · next e => exact (h.fenStep.ends e).reqSlot.when (·.elemMod)
    · next e => exact (h.fenStep.ends e).reqSlot.when (·.elemMod)
    · next e => exact (h.fenStep.ends e).reqSlot.holdCount

theorem Canonical.dataStep {d : Desc} {e : Elem} {p : PLine} (h : Canonical s) : Canonical (dataStep d e p s) := h.unless (·.emit.descMod)

theorem Canonical.maceDataLeft {slot k line : Nat} (h : Canonical s) : Canonical (maceDataLeft slot k line s) := h.descMod.tidy

theorem Canonical.elemStep {slot id : Nat} (h : Canonical s) : Canonical (elemStep slot id s) := by
  unfold Machine.elemStep
  dsimp only
  split
  · exact h
  · split
    · exact h
    · split
      · split
        exacts [h.ctlUse.sourceStep.tidy, h.ctlUse.unless (·.tableStep.tidy)]
      · split
        · exact h.ctlUse.tableStep.tidy
        · split
          · exact h.ctlUse
          · split
            · split
              exacts [h.ctlUse.dataStep.tidy, h.ctlUse]
            · split
              exacts [h.ctlUse.unless (·.destStep.tidy), h.ctlUse]

theorem Canonical.setIdx_ {slot line : Nat} {v : IdxSt} (h : Canonical s) : Canonical (setIdx_ slot line v s) := h.descMod

theorem Canonical.indexRead {slot : Nat} (h : Canonical s) : Canonical (indexRead slot s) := by
  unfold Machine.indexRead
  split
  · exact h
  · extract_lets
    split
    · exact h
    · split
      · split
        · exact h.ctlUse.setIdx_
        · split
          exacts [h.ctlUse.useSlot.frameRead.setIdx_, h.ctlUse.setIdx_, h.ctlUse.setIdx_, h.ctlUse.setIdx_]
      · exact .ite h.ctlUse.setIdx_ h.ctlUse.setIdx_.ownRead

theorem Canonical.recordFail {d : Desc} {st : Nat} (h : Canonical s) : Canonical (recordFail d st s) := h.logErr

theorem Canonical.maceFree {d : Desc} (h : Canonical s) : Canonical (maceFree d s) := by
  unfold Machine.maceFree
  extract_lets s'
  have hs : Canonical s' := h.when (·.tallyAdd)
  exact { hs with }

theorem Canonical.maceEndAt {slot : Nat} (h : Canonical s) : Canonical (maceEndAt slot s) := by
  unfold Machine.maceEndAt
  dsimp only
  split
  · exact h.tidy
  · split
    · exact h.tidy
    · split
      · exact h.tidy.ctlUse.maceFree
      · split
        · exact h.tidy.ctlUse.descMod.ownWritePart
        · split
          · exact h.tidy.ctlUse.recordFail.maceFree
          · split
            · exact (h.tidy.ctlUse.useSlot.setCheck.frameWrite.watchAcc.when (·.recordFail)).maceFree
            · exact h.tidy.ctlUse.recordFail.maceFree
            · exact h.tidy.ctlUse.recordFail.maceFree
            · exact h.tidy.ctlUse.recordFail.maceFree

theorem Canonical.execMaceSub {p : DPort} (h : Canonical s) : NextCanonical (execMaceSub p s) :=
  Canonical.portPass h fun h => by
    split
    exacts [h.occR.compTo, h.withMace.occR.compTo]

theorem Canonical.execMaceIndexRead {slot : Fin 8} (h : Canonical s) : NextCanonical (execMaceIndexRead slot s) := h.tidy.indexRead

theorem Canonical.execMaceIndexResponse {txid : BitVec 16} {status : BitVec 3} {d : Line} (h : Canonical s) :
    NextCanonical (execMaceIndexResponse txid status d s) := by
  unfold Machine.execMaceIndexResponse
  dsimp only
  split
  · split
    exacts [h.ownDrop.when (·.setIdx_), h.ownDrop]
  · exact h

theorem Canonical.execMaceElementIssue (h : Canonical s) : NextCanonical (execMaceElementIssue s) := h.unless (·.issueOne.issueOne)

theorem Canonical.execMaceElement {slot : Fin 8} {id : Nat} (h : Canonical s) : NextCanonical (execMaceElement slot id s) := h.tidy.elemStep

theorem Canonical.execMaceEnd {slot : Fin 8} (h : Canonical s) : NextCanonical (execMaceEnd slot s) := h.maceEndAt

theorem Canonical.execMaceRecordComp {txid : BitVec 16} {status : BitVec 3} (h : Canonical s) : NextCanonical (execMaceRecordComp txid status s) := by
  unfold Machine.execMaceRecordComp
  dsimp only
  split
  · split
    exacts [(h.ownDrop.unless (·.recordFail)).maceFree, h.ownDrop]
  · exact h

end
end Sys2Proof.Machine
end

section
/-! SUPPORT. The canonical form of the stores: registers, tenants and power. -/

namespace Sys2Proof.Machine

-- One declaration after the other: the threads of declarations that wait for one another exhaust the memory that a compile may take.
set_option Elab.async false

section
variable {s t : State}

/-! ### Regs -/

theorem Canonical.cmdWrite {t op : Nat} (h : Canonical s) : Canonical (cmdWrite t op s) := h.withStartQ.mbxSet

theorem Canonical.cmdOver {t : Nat} (h : Canonical s) : Canonical (cmdOver t s) := h.mbxSet

theorem Canonical.mbxWrite {t o v : Nat} (h : Canonical s) : Canonical (mbxWrite t o v s) :=
  .ite (.ite h.cmdOver h.cmdWrite) (.ite h.mbxSet (h.when (·.mbxSet)))

theorem Canonical.evqDrop (h : Canonical s) : Canonical (evqDrop s) := h.withLog

theorem Canonical.errDrop (h : Canonical s) : Canonical (errDrop s) := h.withLog

theorem Canonical.fatalClear {v : Nat} (h : Canonical s) : Canonical (fatalClear v s) := h.when (·.withLog)

theorem Canonical.alertWrite {v : Nat} (h : Canonical s) : Canonical (alertWrite v s) := { h with }

theorem Canonical.intWrite {o v : Nat} (h : Canonical s) : Canonical (intWrite o v s) := by
  unfold Machine.intWrite
  dsimp only
  split
  · exact h.setInts
  · exact h.setInts
  · exact h.setInts
  · exact h.setInts
  · exact h.withInts
  · exact h.withInts
  · exact h.withInts
  · exact h.withInts
  · exact h.alertWrite
  · exact h.evqDrop
  · exact h.errDrop
  · exact h.fatalClear
  · exact h

theorem Canonical.regWrite {o v : Nat} (h : Canonical s) : Canonical (regWrite o v s) := .ite h (.ite h.intWrite (h.when (·.mbxWrite)))

/-! ### TenantCmds -/

theorem Canonical.tswSet {x : Option Tsw} (h : Canonical s) : Canonical (tswSet x s) := h.withSrv

theorem Canonical.denyParked {t : BitVec 4} (h : Canonical s) : Canonical (denyParked t s) := by
  unfold Machine.denyParked
  extract_lets s'
  have hs : Canonical s' := h.reportAll.releaseAll
  clear_value s'
  exact .foldl hs.withTal (·.ctlUse.twaitComp)

theorem Canonical.closeRegions {t : Nat} (h : Canonical s) : Canonical (closeRegions t s) := h.reportAll.withFen

theorem Canonical.discardWay {x : Swept} {k : Nat} (h : Canonical x.s) : Canonical (discardWay x k).s := by
  unfold Machine.discardWay
  dsimp only
  split
  · exact h
  · exact h.tagSet.dropData.countLeave

theorem Canonical.tenantSet {w : Tsw} (h : Canonical s) : Canonical (tenantSet w s).s :=
  .foldlSwept (x := { wb := 0, inv := 0, left := false, s := _ }) h.useSlot.setCheck fun h => by
    dsimp only
    split
    · exact h
    · split
      exacts [h.discardWay, h.sweepWay]

theorem Canonical.eraseKey {t : Nat} (h : Canonical s) : Canonical (eraseKey t s) := h.keySet

theorem Canonical.tswEnd {w : Tsw} (h : Canonical s) : Canonical (tswEnd w s) := h.tswSet.mbxDone

theorem Canonical.tswStep {w : Tsw} (h : Canonical s) : Canonical (tswStep w s) := by
  unfold Machine.tswStep
  split
  · extract_lets s'
    have hs : Canonical s' := h.denyParked
    clear_value s'
    exact hs.unless fun hs => .ite hs.tswSet.closeRegions hs.tswSet
  · exact .ite h.closeRegions (.tswSet (.foldl h (·.segRemove)))
  · extract_lets x w'
    have hx : Canonical x.s := h.tenantSet
    clear_value x
    exact .ite hx.tswSet (.ite hx.tswSet (.ite hx.tswSet hx.tswEnd))
  · exact h.unless (·.eraseKey.tswEnd)

theorem Canonical.tenantSwitchCmd {t : Nat} (h : Canonical s) : Canonical (tenantSwitchCmd t s) := by
  unfold Machine.tenantSwitchCmd
  exact .checked h fun h => .denyParked h.tswSet.mbxWork

theorem Canonical.execTenantSwitch (h : Canonical s) : NextCanonical (execTenantSwitch s) := .cmdRun h (·.tenantSwitchCmd)

theorem Canonical.execTenantSweepStep (h : Canonical s) : NextCanonical (execTenantSweepStep s) := by
  unfold Machine.execTenantSweepStep
  split
  exacts [h.tswStep, h]

theorem Canonical.sealLoadCmd {t : Nat} (h : Canonical s) : Canonical (sealLoadCmd t s) := .checked h (·.keySet.mbxDone)

theorem Canonical.execSealKeyLoad (h : Canonical s) : NextCanonical (execSealKeyLoad s) := .cmdRun h (·.sealLoadCmd)

theorem Canonical.sealEraseCmd {t : Nat} (h : Canonical s) : Canonical (sealEraseCmd t s) := .checked h (·.eraseKey.mbxDone)

theorem Canonical.execSealKeyErase (h : Canonical s) : NextCanonical (execSealKeyErase s) := .cmdRun h (·.sealEraseCmd)

/-! ### Power -/

theorem Canonical.wantOffs (h : Canonical s) : Canonical (wantOffs s) := .foldl h (fun h => h.when (·.want))

theorem Canonical.pmRequest (h : Canonical s) : Canonical (pmRequest s) := by
  unfold Machine.pmRequest
  dsimp only
  split
  exacts [h.withPw, { h with }]

theorem Canonical.pmTick (h : Canonical s) : Canonical (pmTick s) := .ite h (.ite h.withPins h.wantOffs.pmRequest)

theorem Canonical.liveSend {k : BitVec 16} (h : Canonical s) : Canonical (liveSend k s) := by
  unfold Machine.liveSend
  exact h.emit.emit

theorem Canonical.ftFirst (h : Canonical s) : Canonical (ftFirst s) := .winRestart { h with }

theorem PortCanonical.portEnable {g : Tables} {x : PortSt} (h : PortCanonical x) : PortCanonical (portEnable g x) := .foldl h (·.qSet.owedSet)

/-- The state that PRESENT rises in: counters cleared, the ports' credits granted. -/
theorem Canonical.enabled {c : Clock} {p : PowerSt} {x : Pins} {y : CtrSt} {d0 d1 : PortSt} (h : Canonical s) (hp : p.dom = s.pw.dom)
    (hc : y.ctr = []) (hf : y.f = []) (h0 : PortCanonical d0) (h1 : PortCanonical d1) :
    Canonical { s with ctr := y, clk := c, pw := p, d0 := d0, d1 := d1, pins := x } :=
  { h with dom := hp ▸ h.dom, ctr := hc ▸ rfl, f := hf ▸ rfl, q0 := h0.q, owed0 := h0.owed, q1 := h1.q, owed1 := h1.owed }

theorem Canonical.presentRise (h : Canonical s) : Canonical (presentRise s) := by
  unfold Machine.presentRise
  have hs := h.enabled (p := { s.pw with bring := false }) (y := { CtrSt.reset with caps := s.ctr.caps }) (c := { s.clk with rel := s.clk.sclk })
    (x := { s.pins with present := true, irdy0 := true, irdy1 := true, liveAt := s.clk.sclk, liveCnt := 1 }) rfl rfl rfl
    ((h.port .d0).portEnable (g := s.t)) ((h.port .d1).portEnable (g := s.t))
  exact (hs.liveSend.when (·.sendIntr)).when (·.ftFirst)

theorem Canonical.presentTry (h : Canonical s) : Canonical (presentTry s) := h.when (·.presentRise)

theorem Canonical.startBring (h : Canonical s) : Canonical (startBring s) := h.withPw

theorem Canonical.domainMoved {pd : Nat} {p : Power} (h : Canonical s) : Canonical (domainMoved pd p s) := by
  unfold Machine.domainMoved
  refine .ite (.bankMoved (h.when (·.clearBank))) (.ite (h.when ({ · with sedge := rfl, splru := rfl, pred := rfl })) (.ite (.ite ?_ ?_)
    (.ite (h.when ({ · with ctr := rfl, f := rfl })) (.ite (h.unless fun h => .foldl h (·.eraseKey)) h))))
  · exact .foldl (.foldl h (·.bufStart)) (·.watStart)
  · exact { h with bufs := rfl, wat := rfl }

theorem Canonical.powerDone (h : Canonical s) : Canonical (powerDone s) := h.withPins.setPd.domainMoved.armTry.presentTry

theorem Canonical.endDatapath (h : Canonical s) : Canonical (endDatapath s) := .foldl h (fun h => h.when (·.mbxDone))

theorem Canonical.datapathReset (h : Canonical s) : Canonical (datapathReset s) where
  tags := rfl
  data := rfl
  plru := rfl
  dom := h.dom
  banks := swf_foldl_sset rfl
  live := rfl
  shadow := rfl
  armed := nofun
  wait := nofun
  q0 := rfl
  q1 := rfl
  owed0 := rfl
  owed1 := rfl
  tal := rfl
  sedge := rfl
  splru := rfl
  pred := rfl
  win := rfl
  levels := rfl
  keys := rfl
  ctr := rfl
  f := rfl
  bufs := rfl
  wat := rfl
  mbx := h.mbx

theorem Canonical.presentFall (h : Canonical s) : Canonical (presentFall s) := h.withPins

theorem Canonical.datapathLost (h : Canonical s) : Canonical (datapathLost s) := h.presentFall.endDatapath.datapathReset

theorem canonical_reset : Canonical State.reset where
  tags := rfl
  data := rfl
  plru := rfl
  dom := rfl
  banks := rfl
  live := rfl
  shadow := rfl
  armed := nofun
  wait := nofun
  q0 := rfl
  q1 := rfl
  owed0 := rfl
  owed1 := rfl
  tal := rfl
  sedge := rfl
  splru := rfl
  pred := rfl
  win := rfl
  levels := rfl
  keys := rfl
  ctr := rfl
  f := rfl
  bufs := rfl
  wat := rfl
  mbx := rfl

theorem canonical_sliceReset (s : State) : Canonical (sliceReset s) := { canonical_reset with }

theorem Canonical.bootNext {l : List (BitVec 32)} (h : Canonical s) : Canonical (bootNext l s) := { h with }

theorem Canonical.bootEnd {ok : Bool} {img : List (BitVec 32)} (h : Canonical s) : Canonical (bootEnd ok img s) :=
  .when { h with } (·.coreReset.startBring)

theorem Canonical.bootTake {w : BitVec 32} {l : List (BitVec 32)} (h : Canonical s) : Canonical (bootTake w l s) :=
  .ite h.bootNext (.ite h.bootEnd (.ite h.bootNext h.bootEnd))

/-! ### RegCmds -/

theorem Canonical.writeWords {m : Msg} (h : Canonical s) : Canonical (writeWords m s) := .foldl h (·.regWrite)

theorem Canonical.regAnswer {r : RegReq} {l : List Nat} (h : Canonical s) : Canonical (regAnswer r l s) := h.occP.dataTo

theorem Canonical.regComp {r : RegReq} {st : Nat} (h : Canonical s) : Canonical (regComp r st s) := h.compTo

theorem Canonical.regDone {r : RegReq} (h : Canonical s) : Canonical (regDone r s) := h.occP.regComp

theorem PortCanonical.regqSet {x : PortSt} {l : List RegReq} (h : PortCanonical x) : PortCanonical { x with regq := l } := { h with }

theorem Canonical.execRegAccess {p : DPort} (h : Canonical s) : NextCanonical (execRegAccess p s) := by
  unfold Machine.execRegAccess
  dsimp only [NextCanonical]
  split
  · exact h
  · next rest _ =>
    have hr := (h.portSet (p := p) ((h.port p).regqSet (l := rest))).regFill (p := p)
    exact .ite hr.withRegHw (.ite hr.capAt hr.regAnswer)

theorem Canonical.setRegAt {l : List RegReq} {y : RegLoc} (h : Canonical s) : Canonical (setRegAt l s y) := by
  unfold Machine.setRegAt
  dsimp only
  split
  exacts [h.withD0.regFill, h.withD1.regFill, h.withRegHw]

theorem Canonical.execRegTimeout {l : RegLoc} {k : Nat} (h : Canonical s) : NextCanonical (execRegTimeout l k s) := by
  unfold Machine.execRegTimeout
  split
  exacts [h.when (·.setRegAt.regComp), h]

theorem Canonical.hwRun {k : Nat} {sel : RegKind → Bool} {f : RegReq → State → State} (h : Canonical s) (hf : ∀ {a t}, Canonical t → Canonical (f a t)) :
    Canonical (hwRun k sel f s) := by
  unfold Machine.hwRun
  split
  exacts [.ite (hf h.withRegHw) h, h]

theorem Canonical.hwWrite {r : RegReq} (h : Canonical s) : Canonical (hwWrite r s) := h.writeWords.regDone

theorem Canonical.execRegisterWrite {k : Nat} (h : Canonical s) : NextCanonical (execRegisterWrite k s) := .hwRun h (·.hwWrite)

theorem Canonical.execEvqPop {k : Nat} (h : Canonical s) : NextCanonical (execEvqPop k s) := .hwRun h (·.hwWrite)

theorem Canonical.execErrPop {k : Nat} (h : Canonical s) : NextCanonical (execErrPop k s) := .hwRun h (·.hwWrite)

theorem Canonical.execFatalClr {k : Nat} (h : Canonical s) : NextCanonical (execFatalClr k s) := .hwRun h (·.hwWrite)

theorem Canonical.execAlertClear {k : Nat} (h : Canonical s) : NextCanonical (execAlertClear k s) := .hwRun h (·.hwWrite)

theorem Canonical.execCmdWhileBusy {k : Nat} (h : Canonical s) : NextCanonical (execCmdWhileBusy k s) := .hwRun h (·.hwWrite)

theorem Canonical.dataIn {t : Nat} {r : RegReq} (h : Canonical s) : Canonical (dataIn t r s) := h.mbxSet.mbxFeed.regDone

theorem Canonical.execMailboxDataWrite {k : Nat} (h : Canonical s) : NextCanonical (execMailboxDataWrite k s) := by
  unfold Machine.execMailboxDataWrite
  split
  · split
    exacts [h.when (·.withRegHw.dataIn), h]
  · exact h

theorem Canonical.dataWord {t : Nat} (h : Canonical s) : ∀ y, dataWord t s = some y → Canonical y.2 := by
  unfold Machine.dataWord
  dsimp only
  intro y e
  split at e
  · rw [← Option.some.inj e]
    exact h.mbxSet.mbxOutTry
  · split at e
    · exact (Option.some_ne_none y e.symm).elim
    · rw [← Option.some.inj e]
      exact h

theorem Canonical.dataWords {t n : Nat} (h : Canonical s) : ∀ y, dataWords t n s = some y → Canonical y.2 := by
  induction n generalizing s with
  | zero => rintro _ ⟨⟩; exact h
  | succ n ih =>
    intro y hy
    unfold Machine.dataWords at hy
    split at hy
    · exact (Option.some_ne_none y hy.symm).elim
    · next e =>
      obtain ⟨x, hx, rfl⟩ := Option.map_eq_some_iff.mp hy
      exact ih (h.dataWord _ e) x hx

theorem Canonical.execMailboxDataRead {k : Nat} (h : Canonical s) : NextCanonical (execMailboxDataRead k s) := by
  unfold Machine.execMailboxDataRead
  dsimp only [NextCanonical]
  split
  · split
    · split
      · exact h
      · split
        · next e => exact (h.withRegHw.dataWords _ e).regAnswer
        · exact h
    · exact h
  · exact h

theorem Canonical.streamEnd {t : Nat} (h : Canonical s) : Canonical (streamEnd t s) := h.inspDrop.mbxDone

theorem Canonical.abortStream {t : Nat} (h : Canonical s) : Canonical (abortStream t s) := (h.when (·.streamEnd)).mbxSet

theorem Canonical.execDresetAbort {k : Nat} (h : Canonical s) : NextCanonical (execDresetAbort k s) := by
  unfold Machine.execDresetAbort
  split
  · split
    exacts [h.withRegHw.writeWords.abortStream.regDone, h]
  · exact h

theorem Canonical.execMailboxStreamTimeout {t : Fin 16} (h : Canonical s) : NextCanonical (execMailboxStreamTimeout t s) := h.when (·.streamEnd)

theorem Canonical.noticeArrive {n : Notice} (h : Canonical s) : Canonical (noticeArrive n s) := by
  unfold Machine.noticeArrive
  dsimp only
  split
  · split
    exacts [h.evqPush.raise, h.evqPush]
  · exact h.errArrive

theorem Canonical.execEventNotice (h : Canonical s) : NextCanonical (execEventNotice s) := by
  unfold Machine.execEventNotice
  dsimp only
  split
  · exact h
  · split
    exacts [h, h.withLog.noticeArrive]

/-! ### PowerCmds -/

theorem Canonical.execRegulationWindowEnd {c : Fin 16} (h : Canonical s) : NextCanonical (execRegulationWindowEnd c s) := h.when (·.winEnd)

theorem Canonical.scrubWay {k : Nat} (h : Canonical s) : Canonical (scrubWay s k) := h.when (·.wayCheck)

theorem Canonical.scrubSet {set : Nat} (h : Canonical s) : Canonical (scrubSet set s) := .foldl h.useSlot.setCheck.sedgeCheck (·.scrubWay)

theorem Canonical.execPatrolScrubStep (h : Canonical s) : NextCanonical (execPatrolScrubStep s) := h.when (·.scrubSet.withSrv)

theorem Canonical.execLeakDecay (h : Canonical s) : NextCanonical (execLeakDecay s) := .ite (.foldl h.withSrv (·.bankSet)) h

theorem Canonical.execLive (h : Canonical s) : NextCanonical (execLive s) := h.when (·.withPins.liveSend)

theorem Canonical.execFtValid {run : List FtSample} (h : Canonical s) : NextCanonical (execFtValid run s) :=
  .ite (.ite h.withClk (.ite h.withClk.winRestart h.withClk.ftFirst)) h.withClk

theorem Canonical.execFtInvalid (h : Canonical s) : NextCanonical (execFtInvalid s) := h.unless (·.withClk)

theorem Canonical.execPmGrant (h : Canonical s) : NextCanonical (execPmGrant s) := h.when (·.withPins)

theorem Canonical.execPowerTransitionDone (h : Canonical s) : NextCanonical (execPowerTransitionDone s) := h.when (·.powerDone)

theorem Canonical.execPorstAssert (h : Canonical s) : NextCanonical (execPorstAssert s) := .ite (canonical_sliceReset s) h

theorem Canonical.execPorstRelease {chip : BitVec 14} {sreqid : BitVec 12} (h : Canonical s) : NextCanonical (execPorstRelease chip sreqid s) :=
  .ite h { h with }

theorem Canonical.execBootWord {data : BitVec 32} (h : Canonical s) : NextCanonical (execBootWord data s) := by
  unfold Machine.execBootWord
  split
  exacts [h.when (·.bootTake), h]

theorem Canonical.execDrstAssert (h : Canonical s) : NextCanonical (execDrstAssert s) := h.when (·.withPins.datapathLost)

theorem Canonical.execDrstRelease (h : Canonical s) : NextCanonical (execDrstRelease s) := .ite h (h.withPins.when (·.startBring))

theorem Canonical.execSupplyFail (h : Canonical s) : NextCanonical (execSupplyFail s) := h.when (·.withPins.datapathLost)

theorem Canonical.hteLeft {m : Msg} (h : Canonical s) : Canonical (hteLeft m s) := by
  unfold Machine.hteLeft
  split
  · split
    exacts [h.hteClose, h]
  · exact h

theorem Canonical.outLeft {p : Port} {o : Out} (h : Canonical s) : Canonical (outLeft p o s) := by
  unfold Machine.outLeft
  extract_lets s' s''
  have hs : Canonical s' := by
    unfold s'
    split
    exacts [h.when (·.occP), h]
  have hs' : Canonical s'' := hs.fctr.hteLeft
  clear_value s''
  split
  · exact hs'
  · exact hs'.unless (·.maceDataLeft)
  · split
    exacts [hs'.when (·.occP), hs']

theorem Canonical.setOh {p : DPort} {m : Msg} (h : Canonical s) : Canonical (setOh p m s) := by
  unfold Machine.setOh
  dsimp only
  split
  exacts [h.withPins, h.withPins]

theorem PortCanonical.outSet {x : PortSt} {l : List Out} (h : PortCanonical x) : PortCanonical { x with out := l } := { h with }

theorem Canonical.execEgressHeaderTransfer {p : DPort} {ordy : BitVec 5} (h : Canonical s) : NextCanonical (execEgressHeaderTransfer p ordy s) := by
  unfold Machine.execEgressHeaderTransfer
  dsimp only [NextCanonical]
  split
  exacts [h, (h.portSet (h.port p).outSet).setOh.outLeft]

/-! ### Tick -/

theorem Canonical.pipeTick {p : Nat} (h : Canonical s) : Canonical (pipeTick s p) := by
  unfold Machine.pipeTick
  dsimp only
  split
  · split
    exacts [h.withCtr.fctr.occAt, h.withCtr.fctr.occAt]
  · split
    exacts [h.fctr.occAt, h.fctr.occAt]

theorem Canonical.slotTick (h : Canonical s) : Canonical (slotTick s) := .ite (.foldl h.fctr (·.pipeTick)) h.withCtr

theorem Canonical.levelTick (h : Canonical s) : Canonical (levelTick s) := h.occU.occU.occU.occU.occU.occU

theorem Canonical.ovfSample {x : Nat × Option (Subj × Nat)} (h : Canonical s) : Canonical (ovfSample s x) := by
  unfold Machine.ovfSample
  dsimp only
  split
  · exact h.withCtr
  · split
    · split
      exacts [h.sampTake, h]
    · exact h

theorem Canonical.ovfTick (h : Canonical s) : Canonical (ovfTick s) := .unless (.foldl h (·.ovfSample)) (·.raise.notice.trigger)

theorem Canonical.segTick (h : Canonical s) : Canonical (segTick s) := .foldl h (fun h => h.when (·.sampTake))

theorem Canonical.sampTick (h : Canonical s) : Canonical (sampTick s) := .ite h (.foldl h (·.sampPush))

theorem Canonical.resetTick (h : Canonical s) : Canonical (resetTick s) := by
  unfold Machine.resetTick
  extract_lets cs
  have hc : swf (fun _ => Ctr.reset) cs = true := swf_foldl_sset h.ctr
  clear_value cs
  refine { h with ctr := ?_ }
  split
  exacts [h.ctr, hc]

theorem Canonical.capDo {c : CapReq} (h : Canonical s) : Canonical (capDo c s) := by
  unfold Machine.capDo
  split
  exacts [h.readOut, h.dumpTake, h.regAnswer]

theorem Canonical.capTick (h : Canonical s) : Canonical (capTick s) := .foldl h.withCtr (·.capDo)

theorem Canonical.ctrTick (h : Canonical s) : Canonical (ctrTick s) := h.slotTick.levelTick.settle.ovfTick.segTick.sampTick.capTick.resetTick

theorem PortCanonical.portTop {g : Tables} {x : PortSt} (h : PortCanonical x) : PortCanonical (portTop g x) := by
  unfold Machine.portTop
  extract_lets
  split
  · exact h
  · refine .foldl h fun h => ?_
    split
    exacts [h.qSet.owedSet, h]
theorem PortCanonical.grantSent {x : PortSt} (h : PortCanonical x) : PortCanonical (grantSent x) := .foldl h (·.owedSet)

theorem Canonical.portTick (h : Canonical s) : Canonical (portTick s) := by
  unfold Machine.portTick
  extract_lets a b
  have ha := (h.port .d0).portTop (g := s.t).grantSent
  have hb := (h.port .d1).portTop (g := s.t).grantSent
  exact h.unless ({ · with q0 := ha.q, owed0 := ha.owed, q1 := hb.q, owed1 := hb.owed })

theorem Canonical.rptTick (h : Canonical s) : Canonical (rptTick s) := .foldl h.withRegul (·.tempReport)

theorem Canonical.sTick (h : Canonical s) : Canonical (sTick s) := by
  unfold Machine.sTick
  dsimp only
  split
  exacts [h.withPins, .outLeft { h with }]

theorem Canonical.timeTick (h : Canonical s) : Canonical (timeTick s) := { h with }

theorem Canonical.tableTick (h : Canonical s) : Canonical (tableTick s) := .ite h (.foldl h (·.ctlUse))

theorem Canonical.commitTick (h : Canonical s) : Canonical (commitTick s) := by
  unfold Machine.commitTick
  split
  · next e => exact h.when (·.genInstant (h.armed _ e))
  · exact h

theorem Canonical.tick (h : Canonical s) : Canonical (tick s) :=
  .ite h.timeTick h.sTick.rptTick.tallyTick.ctrTick.peatEnd.portTick.timeTick.commitTick.tableTick.pmTick.presentTry

theorem Canonical.execCommitApply (h : Canonical s) : NextCanonical (execCommitApply s) := by
  unfold Machine.execCommitApply
  split
  exacts [h.when (·.tick), h]

/-- Every command keeps the canonical form. -/
theorem Canonical.exec (i : Instr) (h : Canonical s) : NextCanonical (exec i s) :=
  match i with
  | .requestIngress _ _ _ => h.execRequestIngress
  | .sPortRequest _ => h.execSPortRequest
  | .creditLend _ _ => h.execCreditLend
  | .rd _ => h.execRd
  | .wr _ => h.execWr
  | .red _ => h.execRed
  | .atom _ => h.execAtom
  | .twait _ => h.execTwait
  | .tread _ => h.execTread
  | .chainRd => h.execChainRd
  | .maceSub _ => h.execMaceSub
  | .rdShr _ => h.execRdShr
  | .rdUnq _ => h.execRdUnq
  | .upgrade _ => h.execUpgrade
  | .wb _ => h.execWb
  | .evict _ => h.execEvict
  | .atomC _ => h.execAtomC
  | .rdOnce _ => h.execRdOnce
  | .regAccess _ => h.execRegAccess
  | .regTimeout _ _ => h.execRegTimeout
  | .snpAck p _ => h.execSnpAck (p := p)
  | .compAck p _ => h.execCompAck (p := p)
  | .dataHome p _ => h.execDataHome (p := p)
  | .wbData p _ => h.execWbData (p := p)
  | .hteDeferredWrite _ => h.execHteDeferredWrite
  | .hteRelookup _ => h.execHteRelookup
  | .homeTimeout _ => h.execHomeTimeout
  | .unmatchedAnswer p _ => h.execUnmatchedAnswer (p := p)
  | .unexpectedMessage p _ => h.execUnexpectedMessage (p := p)
  | .tempRpt _ _ => h.execTempRpt
  | .heldRequestRepresent _ _ => h.execHeldRequestRepresent
  | .mCommandIssue => h.execMCommandIssue
  | .mCreditReturn _ => h.execMCreditReturn
  | .mReadData _ _ _ => h.execMReadData
  | .fillInstall _ => h.execFillInstall
  | .mWriteAck _ _ => h.execMWriteAck
  | .sealMacReadData _ _ _ => h.execSealMacReadData
  | .macWriteComp _ _ => h.execMacWriteComp
  | .prefetchFill => h.execPrefetchFill
  | .exactStep => h.execExactStep
  | .twaitRelease _ => h.execTwaitRelease
  | .tallyDeadline _ => h.execTallyDeadline
  | .rehashSweepStep => h.execRehashSweepStep
  | .sedgeSweepStep => h.execSedgeSweepStep
  | .conversionSweepStep => h.execConversionSweepStep
  | .commitApply => h.execCommitApply
  | .fenAllocZeroed _ => h.execFenAllocZeroed
  | .fenFreeReclaim _ => h.execFenFreeReclaim
  | .transferLineIssue _ => h.execTransferLineIssue
  | .transferLineResponse _ _ _ => h.execTransferLineResponse
  | .flipReady _ => h.execFlipReady
  | .flipEffect _ => h.execFlipEffect
  | .regionOpen _ => h.execRegionOpen
  | .resolveReady _ => h.execResolveReady
  | .resolveStart _ => h.execResolveStart
  | .resolveLineWrite _ => h.execResolveLineWrite
  | .resolveDeadline _ => h.execResolveDeadline
  | .maceIndexRead _ => h.execMaceIndexRead
  | .maceIndexResponse _ _ _ => h.execMaceIndexResponse
  | .maceElementIssue => h.execMaceElementIssue
  | .maceElement _ _ => h.execMaceElement
  | .maceEnd _ => h.execMaceEnd
  | .maceRecordComp _ _ => h.execMaceRecordComp
  | .getInfo => h.execGetInfo
  | .setTable => h.execSetTable
  | .getTable => h.execGetTable
  | .commit => h.execCommit
  | .commitCancel => h.execCommitCancel
  | .fenAlloc => h.execFenAlloc
  | .fenFree => h.execFenFree
  | .fenLoad => h.execFenLoad
  | .fenFlush => h.execFenFlush
  | .fenFlip => h.execFenFlip
  | .accOpen => h.execAccOpen
  | .accResolve => h.execAccResolve
  | .bankOffline => h.execBankOffline
  | .bankOnline => h.execBankOnline
  | .bankTrim => h.execBankTrim
  | .bankSweepStep _ => h.execBankSweepStep
  | .bankTrimCalibrationDone _ _ => h.execBankTrimCalibrationDone
  | .ctrRead => h.execCtrRead
  | .ctrLoad => h.execCtrLoad
  | .ctrZero => h.execCtrZero
  | .ctrStop => h.execCtrStop
  | .ctrStart => h.execCtrStart
  | .nativeSampleSubject _ => h.execNativeSampleSubject
  | .nativeSampleExpiry _ => h.execNativeSampleExpiry
  | .dumpNow => h.execDumpNow
  | .dumpRingReset => h.execDumpRingReset
  | .dump => h.execDump
  | .periodicSample _ => h.execPeriodicSample
  | .sampleWrite => h.execSampleWrite
  | .dmaWriteComp _ _ => h.execDmaWriteComp
  | .tierTempGauge _ => h.execTierTempGauge
  | .traceDmaWrite _ => h.execTraceDmaWrite
  | .traceIdleFlush _ => h.execTraceIdleFlush
  | .traceDmaComp _ _ => h.execTraceDmaComp
  | .traceTriggerCmd => h.execTraceTriggerCmd
  | .traceRestart => h.execTraceRestart
  | .traceFlush => h.execTraceFlush
  | .traceStop => h.execTraceStop
  | .watchRead => h.execWatchRead
  | .watchClear => h.execWatchClear
  | .watchArm => h.execWatchArm
  | .watchDisarm => h.execWatchDisarm
  | .watchScan => h.execWatchScan
  | .watchScanStep => h.execWatchScanStep
  | .drainHalt => h.execDrainHalt
  | .drainHaltDone => h.execDrainHaltDone
  | .drainClean => h.execDrainClean
  | .drainCleanSweepStep => h.execDrainCleanSweepStep
  | .drainEmpty => h.execDrainEmpty
  | .drainEmptySweepStep => h.execDrainEmptySweepStep
  | .resume => h.execResume
  | .inspectLine => h.execInspectLine
  | .wfgSnapshot => h.execWfgSnapshot
  | .snapshotWriteComp _ _ => h.execSnapshotWriteComp
  | .fwLoad => h.execFwLoad
  | .fwActivate => h.execFwActivate
  | .fwReady => h.execFwReady
  | .activationRevert => h.execActivationRevert
  | .watchdogExpiry => h.execWatchdogExpiry
  | .stewardTrap => h.execStewardTrap
  | .tenantSwitch => h.execTenantSwitch
  | .tenantSweepStep => h.execTenantSweepStep
  | .sealKeyLoad => h.execSealKeyLoad
  | .sealKeyErase => h.execSealKeyErase
  | .invalidCommand => h.execInvalidCommand
  | .cmdWhileBusy _ => h.execCmdWhileBusy
  | .mailboxDataWrite _ => h.execMailboxDataWrite
  | .mailboxDataRead _ => h.execMailboxDataRead
  | .dresetAbort _ => h.execDresetAbort
  | .mailboxStreamTimeout _ => h.execMailboxStreamTimeout
  | .evqPop _ => h.execEvqPop
  | .errPop _ => h.execErrPop
  | .fatalClr _ => h.execFatalClr
  | .alertClear _ => h.execAlertClear
  | .registerWrite _ => h.execRegisterWrite
  | .regulationWindowEnd _ => h.execRegulationWindowEnd
  | .patrolScrubStep => h.execPatrolScrubStep
  | .leakDecay => h.execLeakDecay
  | .live => h.execLive
  | .ftValid _ => h.execFtValid
  | .ftInvalid => h.execFtInvalid
  | .pmGrant => h.execPmGrant
  | .powerTransitionDone => h.execPowerTransitionDone
  | .porstAssert => h.execPorstAssert
  | .porstRelease _ _ => h.execPorstRelease
  | .bootWord _ => h.execBootWord
  | .drstAssert => h.execDrstAssert
  | .drstRelease => h.execDrstRelease
  | .supplyFail => h.execSupplyFail
  | .egressHeaderTransfer _ _ => h.execEgressHeaderTransfer
  | .eventNotice => h.execEventNotice
  | .inspectLineRecord => h.execInspectLineRecord

theorem NextCanonical.of_next {o : Out3} (h : NextCanonical o) (e : o = .next s) : Canonical s := by subst e; exact h

/-- Every step keeps the canonical form: with nothing pending it is the end of the SCLK, else the next command's. -/
theorem Canonical.step (h : Canonical s) : NextCanonical (step s) := by
  unfold Machine.step
  split
  · exact h.tick
  · exact h.withPending.exec _

end
end Sys2Proof.Machine

namespace Sys2Proof
open Machine

/-- Settles O39: every command and the end of an SCLK keep the canonical form, operation by operation. -/
theorem canonicalStep : Obligations.CanonicalStep := by
  intro s u h e
  exact h.step.of_next e

end Sys2Proof
end

section
/-! SUPPORT. What the reset state holds. -/

namespace Sys2Proof.Machine

/-- Only PD78 and PD79 are ON at reset (R343). -/
theorem pdState_reset (n : Nat) : pdState State.reset n = if n < 78 then .off else .on := by
  unfold pdState
  by_cases hn : n < 78
  · rw [if_neg (by omega), if_pos hn]
    rfl
  · rw [if_pos (by omega), if_neg hn]

/-- Every mailbox is as Table 13.5 resets it. -/
theorem mbxGet_reset (t : Nat) : mbxGet State.reset t = Mbx.reset := rfl

/-- The registers of the interrupt block read 0 at reset, as Table 13.3 gives them. -/
theorem regRead_reset_ints : ∀ o ∈ [0x100, 0x104, 0x108, 0x10C, 0x110, 0x118, 0x11C, 0x120, 0x124, 0x160, 0x1A0], regRead State.reset o = 0 := by
  decide

end Sys2Proof.Machine

namespace Sys2Proof
open Machine

/-- Settles O37: each store is empty at reset, so each reading is that of an unlisted key; the registers read what their tables give. -/
theorem resetState : Obligations.ResetState := by
  refine ⟨⟨rfl, rfl, rfl⟩, pdState_reset, ⟨rfl, rfl, rfl, rfl, rfl, rfl, rfl, rfl⟩, regRead_reset_ints, fun t => ?_, fun _ => rfl, fun _ => rfl, fun _ => rfl,
    fun _ => ⟨rfl, rfl, rfl⟩, fun _ => rfl, fun _ => rfl, rfl, rfl, rfl, rfl, rfl, rfl⟩
  rw [mbxGet_reset]
  decide

end Sys2Proof
end

section
/-! SUPPORT. A prefetch candidate taken (R80). -/

namespace Sys2Proof.Machine

-- One declaration after the other: the threads of declarations that wait for one another exhaust the memory that a compile may take.
set_option Elab.async false

/-- The header of a candidate's trigger with the address of the candidate's line. -/
def prefHdr (c : Cand) : BitVec 256 := BitVec.ofNat 256 (c.trig.msg.hdr.toNat / 2 ^ 44 * 2 ^ 44 + c.line.toNat * 128)

/-- The message with that header names the candidate's line. -/
theorem hLine_prefHdr (c : Cand) (m : Msg) : hLine { m with hdr := prefHdr c } = c.line := by
  have hl : c.line.toNat < 2 ^ 37 := c.line.isLt
  have hm : c.trig.msg.hdr.toNat < 2 ^ 256 := c.trig.msg.hdr.isLt
  apply BitVec.eq_of_toNat_eq
  simp only [hLine, hAddr, fld, lineAddr, prefHdr, BitVec.toNat_ofNat, Nat.shiftRight_zero]
  omega

/-- The miss entry that candidate `c` opens, under header `h`. -/
def prefMiss (c : Cand) (h : BitVec 256) (s : State) : Miss :=
  missNew s { c.trig with msg := { c.trig.msg with hdr := h }, attr := ratAttr s.t (c.line.toNat * 128), set := BitVec.ofNat 14 (liveSet s c.line),
                          hbank := hbankOf s.t c.line } .prefetch .waitIssue 0 0

/-- What R80 says of the entry. -/
theorem prefMiss_fields (c : Cand) (h : BitVec 256) (s : State) : (prefMiss c h s).line = hLine { c.trig.msg with hdr := h } ∧
    (prefMiss c h s).kind = .prefetch ∧ (prefMiss c h s).st = .waitIssue ∧ (prefMiss c h s).att = [] ∧ (prefMiss c h s).qc = c.trig.qc :=
  ⟨rfl, rfl, rfl, rfl, rfl⟩

/-- The oldest candidate taken from the list, with its lookup counted. -/
def candTaken (c : Cand) (rest : List Cand) (s : State) : State :=
  useSlot (pipeOf { s with pf := { s.pf with cands := rest } } c.line) false none { s with pf := { s.pf with cands := rest } }

theorem candTaken_only (c : Cand) (rest : List Cand) (s : State) : OnlyChanges [.pf, .ctr] s (candTaken c rest s) :=
  ((pfOnly _ s).le _).then (useSlot_only ..)

/-- What decides on a candidate is neither the candidates nor a count. -/
theorem candOk_counted {s u : State} (h : OnlyChanges [.pf, .ctr] s u) (c : Cand) : candOk c u = candOk c s := by
  rw [h.eq_blend]; rfl

/-- The oldest candidate opens its miss entry or is dropped, counted either way (R80). -/
theorem prefetchAt_eq {s : State} {c : Cand} {rest : List Cand} (hc : s.pf.cands = c :: rest) (hh : s.srv.halt = false) (hb : s.bad = []) :
    prefetchAt s = if candOk c s then occR 0x31 c.trig 1 (missAdd (prefMiss c (prefHdr c) (candTaken c rest s)) (candTaken c rest s))
      else occR 0x32 c.trig 1 (candTaken c rest s) := by
  rw [← candOk_counted (candTaken_only c rest s)]
  simp only [prefetchAt, hc, hh, lookCheck_clean _ _ { s with pf := { s.pf with cands := rest } } hb]
  rfl

end Sys2Proof.Machine

namespace Sys2Proof
open Machine

/-- Settles O23: `candOk` decides, on the state before the lookup as on the one after it. -/
theorem prefetchTaken : Obligations.PrefetchTaken := by
  intro s c rest hc hh hb
  have t := candTaken_only c rest s
  refine ⟨_, congrArg Host.Outcome.next (prefetchAt_eq hc hh hb), ?_⟩
  cases candOk c s with
  | true =>
    have hl := hLine_prefHdr c c.trig.msg
    generalize prefHdr c = h at hl ⊢
    have o := occR_only 0x31 c.trig 1 (missAdd (prefMiss c h (candTaken c rest s)) (candTaken c rest s))
    have m := o.mp.trans (congrArg (fun m => { m with miss := m.miss ++ [prefMiss c h (candTaken c rest s)] }) t.mp)
    obtain ⟨line, fields⟩ := prefMiss_fields c h (candTaken c rest s)
    exact ⟨o.same .pf (by decide), fun _ => ⟨_, m, line.trans hl, fields⟩, nofun, ((t.le _).then (mpOnly _ _)).then o⟩
  | false =>
    have o := occR_only 0x32 c.trig 1 (candTaken c rest s)
    exact ⟨o.same .pf (by decide), nofun, fun _ => o.mp.trans t.mp, (t.le _).then o⟩

end Sys2Proof
end

section
/-! SUPPORT. The Sedge sweep in a set that keeps its entries (R59). -/

namespace Sys2Proof.Machine

-- One declaration after the other: the threads of declarations that wait for one another exhaust the memory that a compile may take.
set_option Elab.async false

/-- A sweep goes on, or the rehash ends with the last set of both sweeps. -/
theorem rehashEnd_rehashSet (r : Rehash) (s : State) : rehashEnd (rehashSet r s) =
    { s with gen := { s.gen with rehash := if r.apos = 16384 ∧ r.spos = 4096 then none else some r } } := by
  simp only [rehashEnd, rehashSet]
  split <;> rfl

/-- What says where an entry belongs is the entry and the generation. -/
theorem sedgeKept_congr {s t : State} (g : t.gen = s.gen) {k : Nat} (h : sedgeGet t k = sedgeGet s k) : sedgeKept t k = sedgeKept s k := by
  simp only [sedgeKept, sedgeLine, liveSet, State.t, g, h]

/-- From `s` to `t` the ways of `p` of Sedge set `y` are marked as of the live matrix, and nothing else is changed. -/
structure SedgeMarked (s t : State) (y : Nat) (p : Nat → Prop) : Prop where
  marked : ∀ w < 8, p w → sedgeGet t (skey y w) = sedgeKept s (skey y w)
  others : ∀ k, (∀ w < 8, p w → k ≠ skey y w) → sedgeGet t k = sedgeGet s k
  home : t.home = { s.home with sedge := t.home.sedge }
  frame : OnlyChanges [.home] s t

section
variable {s t : State} {y : Nat} {p : Nat → Prop}

/-- An entry that stays in its set is marked in its place, if it is not of the live matrix. -/
theorem sedgeMove_stays {w : Nat} (b : Bool) (hx : (sedgeGet s (skey y w)).st ≠ 0 → (sedgeGet s (skey y w)).hg ≠ s.gen.hg →
    liveSet s (sedgeLine s (skey y w)) % 4096 = y) :
    sedgeMove y (b, s) w = (b, if (sedgeGet s (skey y w)).st ≠ 0 ∧ (sedgeGet s (skey y w)).hg ≠ s.gen.hg then
      sedgeSet (skey y w) (sedgeKept s (skey y w)) s else s) := by
  by_cases c : (sedgeGet s (skey y w)).st ≠ 0 ∧ (sedgeGet s (skey y w)).hg ≠ s.gen.hg
  · have n : ((sedgeGet s (skey y w)).st == 0 || (sedgeGet s (skey y w)).hg == s.gen.hg) = false := by simpa using c
    simp only [sedgeMove, n, if_pos (hx c.1 c.2), if_pos c, sedgeKept, Bool.false_eq_true, if_false]
  · have n : ((sedgeGet s (skey y w)).st == 0 || (sedgeGet s (skey y w)).hg == s.gen.hg) = true := by
      simp only [Bool.or_eq_true, beq_iff_eq]
      tauto
    simp only [sedgeMove, n, if_neg c, if_true]

theorem skey_inj {w j : Nat} (h : skey y j = skey y w) : j = w := Nat.add_left_cancel h

/-- The ways below `n` are marked in `t`, and way `n` from `t` to `u`. -/
theorem SedgeMarked.next {u : State} {n : Nat} (h : SedgeMarked s t y (· < n)) (hn : n < 8)
    (at_ : sedgeGet u (skey y n) = sedgeKept s (skey y n))
    (other : ∀ k, k ≠ skey y n → sedgeGet u k = sedgeGet t k) (home : u.home = { t.home with sedge := u.home.sedge }) (frame : OnlyChanges [.home] t u) :
    SedgeMarked s u y (· < n + 1) := by
  refine ⟨fun w hw hp => ?_, fun k hk => ?_, by rw [home, h.home], h.frame.trans frame⟩
  · rcases Nat.lt_succ_iff_lt_or_eq.mp hp with hp | rfl
    · rw [other _ fun c => by have := skey_inj c; omega, h.marked w hw hp]
    · exact at_
  · rw [other k (hk n hn (Nat.lt_succ_self n)), h.others k fun w hw hp => hk w hw (Nat.lt_succ_of_lt hp)]

/-- An entry that is marked is one of a line. -/
theorem sedgeKept_ne_zero {k : Nat} (h : (sedgeGet s k).st ≠ 0) : sedgeKept s k ≠ SedgeE.zero := by
  have e : (sedgeKept s k).st = (sedgeGet s k).st := by
    simp only [sedgeKept]
    split <;> rfl
  exact fun z => h (by rw [← e, z]; rfl)

/-- One more way is marked. -/
theorem SedgeMarked.mark {n : Nat} (h : SedgeMarked s t y (· < n)) (hn : n < 8) (hx : (sedgeGet s (skey y n)).st ≠ 0 →
    (sedgeGet s (skey y n)).hg ≠ s.gen.hg → liveSet s (sedgeLine s (skey y n)) % 4096 = y) :
    ∃ u, sedgeMove y (false, t) n = (false, u) ∧ SedgeMarked s u y (· < n + 1) := by
  have e : sedgeGet t (skey y n) = sedgeGet s (skey y n) := h.others _ fun w _ hw c => by have := skey_inj c; omega
  have g : t.gen = s.gen := h.frame.gen
  have l : liveSet t (sedgeLine t (skey y n)) = liveSet s (sedgeLine s (skey y n)) := by simp only [liveSet, sedgeLine, State.t, e, g]
  refine ⟨_, sedgeMove_stays false (by rw [e, g, l]; exact hx), ?_⟩
  rw [e, g, sedgeKept_congr g e]
  split
  · next c =>
    have at_ : sedgeGet (sedgeSet (skey y n) (sedgeKept s (skey y n)) t) (skey y n) = sedgeKept s (skey y n) :=
      sget_sset_self _ _ _ (sedgeKept_ne_zero c.1)
    have other : ∀ k, k ≠ skey y n → sedgeGet (sedgeSet (skey y n) (sedgeKept s (skey y n)) t) k = sedgeGet t k := fun _ hk => sget_sset_ne _ _ _ hk
    exact h.next hn at_ other rfl (homeOnly _ t)
  · next c =>
    have k : sedgeKept s (skey y n) = sedgeGet s (skey y n) := if_neg c
    exact h.next hn (e.trans k.symm) (fun _ _ => rfl) rfl (.refl _ _)

/-- Every way of the set is marked, one after the other. -/
theorem sedgeMoves_mark (n : Nat) (hn : n ≤ 8) (hx : ∀ w < 8, (sedgeGet s (skey y w)).st ≠ 0 →
    (sedgeGet s (skey y w)).hg ≠ s.gen.hg → liveSet s (sedgeLine s (skey y w)) % 4096 = y) :
    ∃ u, (List.range n).foldl (sedgeMove y) (false, s) = (false, u) ∧ SedgeMarked s u y (· < n) := by
  induction n with
  | zero => exact ⟨s, rfl, nofun, fun _ _ => rfl, rfl, .refl _ _⟩
  | succ n ih =>
    obtain ⟨t, et, h⟩ := ih (by omega)
    obtain ⟨u, eu, k⟩ := h.mark (by omega) (hx n (by omega))
    exact ⟨u, by rw [List.range_succ, List.foldl_append, et]; exact eu, k⟩

end

end Sys2Proof.Machine

namespace Sys2Proof
open Machine

/-- Settles O26: way after way of the set, then the position moves. -/
theorem sedgeSweepMarks : Obligations.SedgeSweepMarks := by
  intro s r hr hp hb hx
  have c : sedgeCheck none r.spos (useSlot r.spos false none s) = useSlot r.spos false none s := sedgeCheck_clean _ _ _ hb
  obtain ⟨t, et, marked, others, home, frame⟩ := sedgeMoves_mark (s := useSlot r.spos false none s) 8 le_rfl hx
  have q : exec .sedgeSweepStep s = .next (rehashEnd (rehashSet { r with spos := r.spos + 1, vics := [] } t)) := by
    show execSedgeSweepStep s = _
    simp only [execSedgeSweepStep, hr, if_pos hp, sedgeStep, c, et]
    rfl
  rw [rehashEnd_rehashSet] at q
  have htes : t.home.htes = s.home.htes := by rw [home]; rfl
  have splru : t.home.splru = s.home.splru := by rw [home]; rfl
  have pred : t.home.pred = s.home.pred := by rw [home]; rfl
  have relook : t.home.relook = s.home.relook := by rw [home]; rfl
  refine ⟨_, q, fun w hw => marked w hw hw, fun k hk => others k fun w hw _ e => hk ?_, htes, splru, pred, relook, by rw [frame.gen]; rfl,
    (((useSlot_only r.spos false none s).le _).then frame).then (genOnly _ t)⟩
  rw [e, skey]
  omega

end Sys2Proof
end

section
/-! SUPPORT. The memory port: commands, credits and acknowledgements (O22). -/

namespace Sys2Proof.Machine

-- One declaration after the other: the threads of declarations that wait for one another exhaust the memory that a compile may take.
set_option Elab.async false

/-! ### Commands (R76, R335) -/

theorem setMCmd_only (w : BitVec 64) (d : Option (Line × Mask)) (s : State) : OnlyChanges [.pins] s (setMCmd w d s) :=
  ⟨fun q hq => by cases q <;> first | rfl | exact absurd (by simp) hq⟩

/-- The counts of a read that leaves. -/
def readCounted (e : Miss) (s : State) : State :=
  match e.opener with
  | some r => occR 0x40 r 128 (fctr 7 128 s)
  | none => occU 0x40 128 (fctr 7 128 s)

theorem readCounted_only (e : Miss) (s : State) : OnlyChanges [.ctr] s (readCounted e s) := by
  unfold readCounted
  split
  · exact (fctr_only ..).trans (occR_only ..)
  · exact (fctr_only ..).trans (occU_only ..)

/-- The entry of a read that left awaits its data, and the next turn is a write's. -/
def readLeft (e : Miss) (s : State) : State :=
  { s with mp := { s.mp with rcr := s.mp.rcr - 1, wrTurn := true, miss := lmod (·.id = e.id) (fun x => { x with st := .waitData }) s.mp.miss },
           pins := { s.pins with mCmd := some { word := mWord e.id 0 0 e.line, data := none } } }

theorem readLeft_only (e : Miss) (s : State) : OnlyChanges [.pins, .mp] s (readLeft e s) :=
  ((mpOnly { s.mp with rcr := s.mp.rcr - 1, wrTurn := true, miss := lmod (·.id = e.id) (fun x => { x with st := .waitData }) s.mp.miss } s).le _).then
    (setMCmd_only (mWord e.id 0 0 e.line) none _)

/-- A read of a line that is not sealed leaves. -/
theorem readIssue_plain {e : Miss} (s : State) (h : e.sealed = false) : readIssue e s = readCounted e (readLeft e s) := by
  simp only [readIssue, h]
  rfl

/-- The write is taken from those that wait, against a credit. -/
def writeTaken (n : Nat) (s : State) : State :=
  { s with mp := { s.mp with writes := s.mp.writes.filter (·.1 ≠ n), wcr := s.mp.wcr - 1, wrTurn := false } }

/-- The write's command, and its counts. -/
def writeSent (w : MWr) (s : State) : State :=
  let s := setMCmd (mWord w.bits (b2n (w.mask != fullMask)) 1 w.line) (some (w.data, w.mask)) s
  fctr 7 (maskCount w.mask) (occ 0x41 .p (subjLine w.qc w.tc) (maskCount w.mask) s)

theorem writeSent_only (w : MWr) (s : State) : OnlyChanges [.pins, .ctr] s (writeSent w s) :=
  (((setMCmd_only ..).le _).then (occ_only ..)).then (fctr_only ..)

theorem writeSent_pins (w : MWr) (s : State) : (writeSent w s).pins =
    { s.pins with mCmd := some { word := mWord w.bits (b2n (w.mask != fullMask)) 1 w.line, data := some (w.data, w.mask) } } :=
  ((occ_only ..).trans (fctr_only ..)).pins

/-- M will acknowledge the write. -/
def writeAwaited (w : MWr) (s : State) : State := { s with mp := { s.mp with outW := s.mp.outW ++ [(w.tag, w.line, w.tc)] } }

theorem writeAwaited_pins (w : MWr) (s : State) : (writeAwaited w s).pins = s.pins := rfl

/-- What a write carries stands in its buffer, whatever waits. -/
theorem workInfo_taken (n : Nat) (s : State) (w : MWork) : workInfo (writeTaken n s) w = workInfo s w := by
  cases w <;> rfl

/-- A write of a line that is neither sealed nor poisoned leaves. -/
theorem writeIssue_plain {q : Nat × MWork} {w : MWr} {s : State} (hw : workInfo s q.2 = some w) (hs : w.sealed = false) (hp : w.poi = false)
    (hb : s.bad = []) : writeIssue q s = workSent q.2 false (writeAwaited w (writeSent w (writeTaken q.1 s))) := by
  obtain ⟨n, work⟩ := q
  have k := (workInfo_taken n s work).trans hw
  cases work with
  | mire i =>
    have c := mireCheck_clean i none (writeTaken n s) hb
    simp only [writeTaken] at c k
    simp only [writeIssue, c, k, hs, hp, writeAwaited, writeSent, writeTaken, Bool.false_eq_true, if_false]
  | around e =>
    have c := missCheck_clean e none (writeTaken n s) hb
    simp only [writeTaken] at c k
    simp only [writeIssue, c, k, hs, hp, writeAwaited, writeSent, writeTaken, Bool.false_eq_true, if_false]
  | clean =>
    simp only [writeTaken] at k
    simp only [writeIssue, k, hs, hp, writeAwaited, writeSent, writeTaken, Bool.false_eq_true, if_false]
  | wthru =>
    simp only [writeTaken] at k
    simp only [writeIssue, k, hs, hp, writeAwaited, writeSent, writeTaken, Bool.false_eq_true, if_false]

/-- What is left of a write's place does not depend on M's port but for its own table. -/
theorem workSent_mp (w : MWork) (b : Bool) (s : State) : ∃ x y, (workSent w b s).mp = { s.mp with mire := x, clean := y } := by
  cases w <;> exact ⟨_, _, rfl⟩

theorem workSent_only (w : MWork) (b : Bool) (s : State) : OnlyChanges [.mp] s (workSent w b s) := by
  cases w with
  | mire | clean => exact mpOnly _ s
  | around | wthru => exact .refl _ _

/-- The read that R241 picks leaves where no write may, or where Mire has room and it is not the writes' turn (R76). -/
theorem mIssue_read {s : State} {e : Miss} (hc : s.mp.rcr ≠ 0) (hr : readPick s = some e)
    (hw : s.mp.wcr = 0 ∨ writeReady s = none ∨ s.mp.mire.length < 48 ∧ s.mp.wrTurn = false) : mIssue s = readIssue e s := by
  simp only [mIssue, if_neg hc, hr]
  split
  · next q h1 h2 =>
    cases h1
    have z : s.mp.wcr ≠ 0 := fun z => by rw [if_pos z] at h2; cases h2
    rw [if_neg z] at h2
    obtain ⟨room, turn⟩ := (hw.resolve_left z).resolve_left fun n => by rw [n] at h2; cases h2
    rw [if_neg (by simp [turn]; omega)]
  · next h1 _ => cases h1; rfl
  · next h1 _ => cases h1
  · next h1 _ => cases h1

/-- The oldest write that may leave does where no read may, or where Mire is 48 deep or it is the writes' turn (R76). -/
theorem mIssue_write {s : State} {q : Nat × MWork} (hc : s.mp.wcr ≠ 0) (hq : writeReady s = some q)
    (hr : s.mp.rcr = 0 ∨ readPick s = none ∨ 48 ≤ s.mp.mire.length ∨ s.mp.wrTurn = true) : mIssue s = writeIssue q s := by
  simp only [mIssue, if_neg hc, hq]
  split
  · next e q' h1 h2 =>
    cases h2
    have z : s.mp.rcr ≠ 0 := fun z => by rw [if_pos z] at h1; cases h1
    rw [if_neg z] at h1
    have full := (hr.resolve_left z).resolve_left fun n => by rw [n] at h1; cases h1
    rw [if_pos (by simpa using full)]
  · next h2 => cases h2
  · next h2 => cases h2; rfl
  · next h2 => cases h2

theorem mIssue_none {s : State} (hr : s.mp.rcr = 0 ∨ readPick s = none) (hw : s.mp.wcr = 0 ∨ writeReady s = none) : mIssue s = s := by
  have r : (if s.mp.rcr = 0 then none else readPick s) = none := by
    split
    · rfl
    · next z => exact hr.resolve_left z
  have w : (if s.mp.wcr = 0 then none else writeReady s) = none := by
    split
    · rfl
    · next z => exact hw.resolve_left z
  simp only [mIssue, r, w]

theorem memoryCommandLeaves : MemoryCommandLeaves := by
  refine ⟨fun s e hc hr hs hw => ?_, fun s q w hc hq hw hs hp hr hb => ?_, fun s hr hw => congrArg Host.Outcome.next (mIssue_none hr hw)⟩
  · have q := (mIssue_read hc hr hw).trans (readIssue_plain s hs)
    have c := readCounted_only e (readLeft e s)
    exact ⟨_, congrArg Host.Outcome.next q, c.mp, c.pins, ((readLeft_only e s).le _).then c⟩
  · have i := (mIssue_write hc hq hr).trans (writeIssue_plain hw hs hp hb)
    have o := writeSent_only w (writeTaken q.1 s)
    have k := workSent_only q.2 false (writeAwaited w (writeSent w (writeTaken q.1 s)))
    obtain ⟨x, y, m⟩ := workSent_mp q.2 false (writeAwaited w (writeSent w (writeTaken q.1 s)))
    rw [show (writeAwaited w (writeSent w (writeTaken q.1 s))).mp = { (writeTaken q.1 s).mp with outW := s.mp.outW ++ [(w.tag, w.line, w.tc)] } from
      congrArg (fun p : MPort => { p with outW := p.outW ++ [(w.tag, w.line, w.tc)] }) o.mp] at m
    have pins := k.pins.trans ((writeAwaited_pins w _).trans (writeSent_pins w (writeTaken q.1 s)))
    have f : OnlyChanges [.pins, .mp, .ctr] s (writeAwaited w (writeSent w (writeTaken q.1 s))) :=
      (((mpOnly (writeTaken q.1 s).mp s).le _).then o).then (mpOnly _ _)
    exact ⟨_, congrArg Host.Outcome.next i, by rw [m]; rfl, by rw [m]; rfl, by rw [m]; rfl, by rw [m]; rfl, by rw [m], by rw [m]; rfl, by rw [m]; rfl,
      pins, f.then k⟩

/-! ### Credits (R336) -/

theorem memoryCreditReturns : MemoryCreditReturns := by
  intro w s hp hd
  have e : execMCreditReturn w s = .next (mCredit w s) := by rw [execMCreditReturn, hp, hd]; rfl
  cases w with
  | true => exact ⟨_, e, rfl, mpOnly _ s⟩
  | false => exact ⟨_, e, rfl, mpOnly _ s⟩

/-! ### Acknowledgements (R77, R73, R273, R358) -/

/-- A change of the entry of number `i` leaves the others. -/
theorem lmod_filter_ne {α : Type} {n : α → Nat} {i : Nat} {f : α → α} (hf : ∀ x, n (f x) = n x) (l : List α) :
    (lmod (fun x => decide (n x = i)) f l).filter (fun x => decide (n x ≠ i)) = l.filter fun x => decide (n x ≠ i) := by
  have h := lmod_filter_not (p := fun x => decide (n x = i)) (f := f) (fun x hx => by simpa [hf] using hx) l
  simpa only [← decide_not] using h

/-- The entry of number `i` is found as it is changed. -/
theorem lmod_find_num {α : Type} {n : α → Nat} {i : Nat} {f : α → α} (hf : ∀ x, n (f x) = n x) {l : List α} {x : α}
    (h : l.find? (fun x => decide (n x = i)) = some x) : (lmod (fun x => decide (n x = i)) f l).find? (fun x => decide (n x = i)) = some (f x) := by
  rw [lmod_find? fun x hx => by simpa [hf] using hx, h]
  rfl

/-- An outstanding write is acknowledged. -/
theorem execMWriteAck_eq {t : MTag} {e : Bool} {s : State} {y : MTag × LAddr × BitVec 4} (h : s.mp.outW.find? (fun x => x.1 == t) = some y) :
    exec (.mWriteAck t e) s = .next (wackAt t y.2.1 y.2.2 e s) := by
  show execMWriteAck t e s = _
  rw [execMWriteAck, h]

theorem outW_found {t : MTag} {s : State} (h : s.mp.outW.any (fun x => x.1 == t) = true) : ∃ y, s.mp.outW.find? (fun x => x.1 == t) = some y :=
  Option.isSome_iff_exists.mp (by rw [List.find?_isSome]; simpa using h)

/-- With no DRAIN there is none to complete. -/
theorem drainTry_none {s : State} (h : s.srv.drain = none) : drainTry s = s := by simp only [drainTry, h]

/-- A Mire entry frees when its last write is acknowledged and no other waits (R77). -/
theorem mireFree_frees {i : Nat} {s : State} {m : MireE} (h : s.mp.mire.find? (·.id = i) = some m) (hm : m.macOut = false) (hs : m.sent = false)
    (hr : m.redirty = false) (hw : s.mp.writes.any (fun w => w.2 == .mire i) = false) (hd : s.srv.drain = none) :
    mireFree i s = { s with mp := { s.mp with mire := s.mp.mire.filter (·.id ≠ i) } } := by
  simp only [mireFree, h, hm, hs, hr, hw, Bool.or_self, Bool.false_eq_true, if_false]
  exact drainTry_none hd

/-- A clean-write slot frees when its write is acknowledged (R273). -/
theorem cleanFree_frees {k : Nat} {s : State} {c : CleanW} (h : s.mp.clean.find? (·.slot = k) = some c) (ha : c.ackOut = false) (hm : c.macOut = false)
    (hd : s.srv.drain = none) : cleanFree k s = { s with mp := { s.mp with clean := s.mp.clean.filter (·.slot ≠ k) } } := by
  simp only [cleanFree, h, ha, hm, Bool.or_self, Bool.false_eq_true, if_false]
  exact drainTry_none hd

theorem drainTry_only (s : State) : OnlyChanges [.srv, .mbx, .ints, .d0] s (drainTry s) := by
  unfold drainTry
  split
  · exact .refl _ _
  · exact .ite (((srvOnly _ s).le _).then (mbxDone_only ..)) (.refl _ _)

/-- What freeing a Mire entry or a clean-write slot leaves of M's port. -/
theorem mireFree_mp (i : Nat) (s : State) : ∃ x y z, (mireFree i s).mp = { s.mp with mire := x, writes := y, wseq := z } := by
  unfold mireFree
  split
  · exact ⟨_, _, _, rfl⟩
  · split
    · exact ⟨_, _, _, rfl⟩
    · split
      · exact ⟨_, _, _, rfl⟩
      · split
        · exact ⟨_, _, _, rfl⟩
        · exact ⟨_, _, _, (drainTry_only _).mp⟩

theorem cleanFree_mp (k : Nat) (s : State) : ∃ x, (cleanFree k s).mp = { s.mp with clean := x } := by
  unfold cleanFree
  split
  · exact ⟨_, rfl⟩
  · split
    · exact ⟨_, rfl⟩
    · exact ⟨_, (drainTry_only _).mp⟩

theorem mireFree_only (i : Nat) (s : State) : OnlyChanges [.mp, .srv, .mbx, .ints, .d0] s (mireFree i s) := by
  unfold mireFree
  split
  · exact .refl _ _
  · refine .ite (.refl _ _) (.ite ?_ (.ite (.refl _ _) (((mpOnly _ s).le _).then (drainTry_only _))))
    exact ((mireMod_only ..).trans (mpOnly ..)).le _

theorem cleanFree_only (k : Nat) (s : State) : OnlyChanges [.mp, .srv, .mbx, .ints, .d0] s (cleanFree k s) := by
  unfold cleanFree
  split
  · exact .refl _ _
  · exact .ite (.refl _ _) (((mpOnly _ s).le _).then (drainTry_only _))

/-- The write is no longer outstanding (log 6: the oldest of its tag). -/
def writeEnded (t : MTag) (s : State) : State := { s with mp := { s.mp with outW := s.mp.outW.eraseIdx (s.mp.outW.findIdx fun x => x.1 == t) } }

/-- What the end of a write does to the place it left from. -/
def placeFreed (t : MTag) (s : State) : State :=
  match t with
  | .mire i => mireFree i.val (mireMod i.val (fun m => { m with sent := false }) s)
  | .around e => missDrop e.val s
  | .clean k => cleanFree k.val { s with mp := { s.mp with clean := lmod (·.slot = k.val) (fun c : CleanW => { c with ackOut := false }) s.mp.clean } }
  | .wthru => s

/-- The error record of a failed write. -/
def writeErr (l : LAddr) (tc : BitVec 4) : ErrInfo := { cause := 0x11, sev := 1, page := true, aspace := 0, laddr := l.toNat, tc := tc.toNat }

theorem wackAt_eq (t : MTag) (l : LAddr) (tc : BitVec 4) (e : Bool) (s : State) :
    wackAt t l tc e s = placeFreed t (if e then plistAdd l (writeErr l tc) (writeEnded t s) else writeEnded t s) := by
  cases t <;> rfl

/-- The end of a write leaves the poison list and the writes that are outstanding. -/
theorem placeFreed_mp (t : MTag) (s : State) : ∃ a b c d e, (placeFreed t s).mp = { s.mp with miss := a, mire := b, clean := c, writes := d, wseq := e } := by
  cases t with
  | mire i =>
    obtain ⟨x, y, z, h⟩ := mireFree_mp i.val (mireMod i.val (fun m => { m with sent := false }) s)
    exact ⟨_, _, _, _, _, h⟩
  | around e => exact ⟨_, _, _, _, _, rfl⟩
  | clean k =>
    obtain ⟨x, h⟩ := cleanFree_mp k.val
      { s with mp := { s.mp with clean := lmod (·.slot = k.val) (fun c : CleanW => { c with ackOut := false }) s.mp.clean } }
    exact ⟨_, _, _, _, _, h⟩
  | wthru => exact ⟨_, _, _, _, _, rfl⟩

theorem placeFreed_only (t : MTag) (s : State) : OnlyChanges [.mp, .srv, .mbx, .ints, .d0] s (placeFreed t s) := by
  cases t with
  | mire i => exact ((mireMod_only ..).le _).then (mireFree_only ..)
  | around e => exact (mpOnly _ s).le _
  | clean k => exact ((mpOnly _ s).le _).then (cleanFree_only ..)
  | wthru => exact .refl _ _

/-- A line enters the poison list with its report (R358). -/
theorem plistAdd_room {l : LAddr} {i : ErrInfo} {s : State} (hl : listed s l = false) (hr : s.mp.plist.length < 256) :
    plistAdd l i s = logErr i { s with mp := { s.mp with plist := s.mp.plist ++ [l] } } := by
  rw [plistAdd, hl, if_neg Bool.false_ne_true, if_pos hr]

theorem logErr_room (i : ErrInfo) {s : State} (h : s.log.notices.length < 64) : (logErr i s).log.notices.length = s.log.notices.length + 1 := by
  rw [logErr, notice_room _ s h]
  simp

/-- The answer to a MAC WR (R251). -/
theorem execMacWriteComp_write {tx : BitVec 16} {l : LAddr} {tc : BitVec 4} {s : State} (st : BitVec 3) (h : ownFind s tx = some (.macWrite l tc)) :
    exec (.macWriteComp tx st) s = .next (if st.toNat = St.ok then ownDrop tx s else
      logErr { cause := 0x13, sev := 0, aspace := 0, laddr := l.toNat, tc := tc.toNat, status := st.toNat } (ownDrop tx s)) := by
  show execMacWriteComp tx st s = _
  rw [execMacWriteComp, h]
  rfl

section
variable {s : State}

theorem mireAcknowledged {i : Fin 64} {m : MireE} (ho : s.mp.outW.any (fun x => x.1 == .mire i) = true)
    (hf : s.mp.mire.find? (·.id = i.val) = some m) (hm : m.macOut = false) (hr : m.redirty = false)
    (hw : s.mp.writes.any (fun w => w.2 == .mire i.val) = false) (hd : s.srv.drain = none) :
    ∃ u, exec (.mWriteAck (.mire i) false) s = .next u ∧ u.mp.mire = s.mp.mire.filter (·.id ≠ i.val) ∧
      u.mp.outW = s.mp.outW.eraseIdx (s.mp.outW.findIdx fun x => x.1 == .mire i) ∧ u.mp.miss = s.mp.miss ∧ u.mp.writes = s.mp.writes ∧
      OnlyChanges [.mp] s u := by
  obtain ⟨y, hy⟩ := outW_found ho
  have q := execMWriteAck_eq (e := false) hy
  let v := mireMod i.val (fun m => { m with sent := false }) (writeEnded (.mire i) s)
  have found : v.mp.mire.find? (·.id = i.val) = some { m with sent := false } :=
    lmod_find_num (n := MireE.id) (f := fun m => { m with sent := false }) (fun _ => rfl) hf
  have f : placeFreed (.mire i) (writeEnded (.mire i) s) = { v with mp := { v.mp with mire := v.mp.mire.filter (·.id ≠ i.val) } } :=
    mireFree_frees (s := v) found hm rfl hr hw hd
  rw [wackAt_eq, if_neg Bool.false_ne_true, f] at q
  exact ⟨_, q, lmod_filter_ne (n := MireE.id) (f := fun m => { m with sent := false }) (fun _ => rfl) _, rfl, rfl, rfl,
    ((mpOnly _ s).trans (mireMod_only i.val (fun m => { m with sent := false }) (writeEnded (.mire i) s))).trans (mpOnly _ v)⟩

theorem cleanAcknowledged {k : Fin 64} {c : CleanW} (ho : s.mp.outW.any (fun x => x.1 == .clean k) = true)
    (hf : s.mp.clean.find? (·.slot = k.val) = some c) (hm : c.macOut = false) (hd : s.srv.drain = none) :
    ∃ u, exec (.mWriteAck (.clean k) false) s = .next u ∧ u.mp.clean = s.mp.clean.filter (·.slot ≠ k.val) ∧
      u.mp.outW = s.mp.outW.eraseIdx (s.mp.outW.findIdx fun x => x.1 == .clean k) ∧ u.mp.miss = s.mp.miss ∧ u.mp.mire = s.mp.mire ∧
      OnlyChanges [.mp] s u := by
  obtain ⟨y, hy⟩ := outW_found ho
  have q := execMWriteAck_eq (e := false) hy
  let w := writeEnded (.clean k) s
  let v : State := { w with mp := { w.mp with clean := lmod (·.slot = k.val) (fun c : CleanW => { c with ackOut := false }) s.mp.clean } }
  have found : v.mp.clean.find? (·.slot = k.val) = some { c with ackOut := false } :=
    lmod_find_num (n := CleanW.slot) (f := fun c => { c with ackOut := false }) (fun _ => rfl) hf
  have f : placeFreed (.clean k) w = { v with mp := { v.mp with clean := v.mp.clean.filter (·.slot ≠ k.val) } } := cleanFree_frees (s := v) found rfl hm hd
  rw [wackAt_eq, if_neg Bool.false_ne_true, f] at q
  exact ⟨_, q, lmod_filter_ne (n := CleanW.slot) (f := fun c => { c with ackOut := false }) (fun _ => rfl) _, rfl, rfl, rfl,
    ((mpOnly _ s).trans (mpOnly _ w)).trans (mpOnly _ v)⟩

theorem writeFailed {t : MTag} {y : MTag × LAddr × BitVec 4} (ho : s.mp.outW.find? (fun x => x.1 == t) = some y) (hl : listed s y.2.1 = false)
    (hp : s.mp.plist.length < 256) :
    ∃ u, exec (.mWriteAck t true) s = .next u ∧ u.mp.plist = s.mp.plist ++ [y.2.1] ∧
      u.mp.outW = s.mp.outW.eraseIdx (s.mp.outW.findIdx fun x => x.1 == t) ∧
      (s.log.notices.length < 64 → u.log.notices.length = s.log.notices.length + 1) ∧ OnlyChanges [.mp, .log, .ints, .d0, .mbx, .srv] s u := by
  have q := execMWriteAck_eq (e := true) ho
  rw [wackAt_eq, if_pos rfl, plistAdd_room (s := writeEnded t s) hl hp] at q
  let v : State := { writeEnded t s with mp := { (writeEnded t s).mp with plist := s.mp.plist ++ [y.2.1] } }
  have k := logErr_only (writeErr y.2.1 y.2.2) v
  have f := placeFreed_only t (logErr (writeErr y.2.1 y.2.2) v)
  obtain ⟨_, _, _, _, _, m⟩ := placeFreed_mp t (logErr (writeErr y.2.1 y.2.2) v)
  rw [k.mp] at m
  exact ⟨_, q, congrArg MPort.plist m, congrArg MPort.outW m,
    fun r => (congrArg (fun g : LogSt => g.notices.length) f.log).trans (logErr_room _ (s := v) r),
    ((((mpOnly _ s).trans (mpOnly _ (writeEnded t s))).le _).then k).then f⟩

end

theorem writeAcknowledged : WriteAcknowledged := by
  refine ⟨fun i s m ho hf hm hr hw hd => mireAcknowledged ho hf hm hr hw hd, fun e s ho => ?_, fun k s c ho hf hm hd => cleanAcknowledged ho hf hm hd,
    fun t s y ho hl hp => writeFailed ho hl hp, fun tx st s l tc ho => ?_⟩
  · obtain ⟨y, hy⟩ := outW_found ho
    exact ⟨_, execMWriteAck_eq hy, rfl, (mpOnly _ s).trans (mpOnly _ _)⟩
  · have q := execMacWriteComp_write st ho
    by_cases h : st = 0
    · rw [if_pos (by rw [h]; rfl)] at q
      exact ⟨_, q, rfl, fun _ => rfl, fun n => absurd h n, (ownDrop_only tx s).le _⟩
    · rw [if_neg fun n : st.toNat = St.ok => h (BitVec.eq_of_toNat_eq n)] at q
      have k := logErr_only { cause := 0x13, sev := 0, aspace := 0, laddr := l.toNat, tc := tc.toNat, status := st.toNat } (ownDrop tx s)
      exact ⟨_, q, k.srv, fun n => absurd n h, fun _ r => logErr_room _ (s := ownDrop tx s) r, ((ownDrop_only tx s).le _).then k⟩

/-- Settles O22: the command, the credit and each answer of M, by the equation of its case. -/
theorem memoryPort : Obligations.MemoryPort := ⟨memoryCommandLeaves, memoryCreditReturns, writeAcknowledged⟩

end Sys2Proof.Machine
end

section
/-! SUPPORT. Lines that a sweep takes out of the array (R59, R67, R69, R273). -/

namespace Sys2Proof.Machine

-- One declaration after the other: the threads of declarations that wait for one another exhaust the memory that a compile may take.
set_option Elab.async false

/-! ### A line leaves -/

/-- The way that a line has left holds none, and the data array stands. -/
theorem evictWay_arr {s : State} (hb : s.bad = []) (k : Nat) :
    (evictWay k s).2.arr = if (tagGet s k).v then (tagSet k TagE.zero s).arr else s.arr := by
  have zb : (tagSet k TagE.zero s).bad = [] := hb
  unfold evictWay
  dsimp only
  by_cases v : (tagGet s k).v = true
  · rw [if_neg (by simp [v]), if_pos v]
    split
    · rw [wayCheck_clean _ _ s hb, dropData_clean k _ zb]
      exact ((countLeave_only (tagGet s k) _).trans (occ_only 0x28 .p (subjLine (tagGet s k).qc (tagGet s k).tc) 1 _)).arr
    · rw [dropData_clean k _ zb]
      exact ((countLeave_only (tagGet s k) _).trans (occ_only 0x27 .p (subjLine (tagGet s k).qc (tagGet s k).tc) 1 _)).arr
  · rw [if_pos (by simp [v]), if_neg v]

/-- From `s` to `t` the lines at the keys of `q`, `n` at most, have left the array: dirty ones are in Mire, the others are gone; all else stays. -/
structure LinesOut (s t : State) (n : Nat) (q : Nat → Prop) : Prop where
  gone : ∀ k, q k → (tagGet t k).v = false
  kept : ∀ k, ¬ q k → tagGet t k = tagGet s k
  saved : ∀ k, q k → (tagGet s k).v = true → (tagGet s k).d = true →
    ∃ m ∈ t.mp.mire, m.line = (tagGet s k).line ∧ m.data = dataGet s k ∧ m.poi = (tagGet s k).poi
  mire : ∀ m ∈ s.mp.mire, m ∈ t.mp.mire
  room : t.mp.mire.length ≤ s.mp.mire.length + n
  data : t.arr.data = s.arr.data
  miss : t.mp.miss = s.mp.miss
  clean : t.mp.clean = s.mp.clean
  wf : ArrWf t
  frame : OnlyChanges [.arr, .mp, .ctr] s t

section
variable {s t u : State} {n m : Nat} {p q : Nat → Prop}

/-- Counting takes no line. -/
theorem LinesOut.counted (h : OnlyChanges [.ctr] s t) (w : ArrWf s) : LinesOut s t 0 (fun _ => False) where
  gone := nofun
  kept k _ := tagGet_arr h.arr k
  saved := nofun
  mire m hm := by rwa [h.mp]
  room := by rw [h.mp]; omega
  data := congrArg ArraySt.data h.arr
  miss := congrArg MPort.miss h.mp
  clean := congrArg MPort.clean h.mp
  wf := w.of_arr h.arr
  frame := h.le _

theorem LinesOut.trans (h : LinesOut s t n p) (k : LinesOut t u m q) : LinesOut s u (n + m) (fun j => p j ∨ q j) where
  gone j hj := by
    by_cases c : q j
    · exact k.gone j c
    · rw [k.kept j c]
      exact h.gone j (hj.resolve_right c)
  kept j hj := (k.kept j fun c => hj (.inr c)).trans (h.kept j fun c => hj (.inl c))
  saved j hj v d := by
    by_cases c : p j
    · obtain ⟨x, hx, f⟩ := h.saved j c v d
      exact ⟨x, k.mire x hx, f⟩
    · have e := h.kept j c
      have x := k.saved j (hj.resolve_left c) (by rw [e]; exact v) (by rw [e]; exact d)
      rwa [e, show dataGet t j = dataGet s j by rw [dataGet, dataGet, h.data]] at x
  mire x hx := k.mire x (h.mire x hx)
  room := k.room.trans (by have := h.room; omega)
  data := k.data.trans h.data
  miss := k.miss.trans h.miss
  clean := k.clean.trans h.clean
  wf := k.wf
  frame := h.frame.trans k.frame

theorem LinesOut.congr (h : LinesOut s t n p) (e : ∀ j, q j ↔ p j) (l : n ≤ m) : LinesOut s t m q :=
  (funext fun j => propext (e j) : q = p) ▸ { h with room := h.room.trans (by omega) }

/-- A set whose picked ways have left is swept. -/
theorem LinesOut.setSwept {set : Nat} {b : Nat → Bool} (h : LinesOut s t n (fun k => (∃ w < 32, k = wkey set w) ∧ b k = true)) : SetSwept s t set b where
  gone w hw hp := h.gone _ ⟨⟨w, hw, rfl⟩, hp⟩
  kept k hk := h.kept k fun ⟨⟨w, hw, e⟩, hp⟩ => by
    rcases hk with hk | hk
    · exact hk (by rw [e, wkey]; omega)
    · rw [hp] at hk
      cases hk
  saved w hw hp := h.saved _ ⟨⟨w, hw, rfl⟩, hp⟩
  mire := h.mire
  data := h.data
  miss := h.miss

end

/-- Taking one line out of the array. -/
theorem evictWay_linesOut {s : State} (hb : s.bad = []) (hw : ArrWf s) (k : Nat) : LinesOut s (evictWay k s).2 1 (· = k) := by
  have l := evictWay_left hb hw k
  have a := evictWay_arr hb k
  have g : (tagGet (evictWay k s).2 k).v = false := by
    rw [tagGet, a]
    by_cases v : (tagGet s k).v = true
    · rw [if_pos v]
      exact congrArg TagE.v (tagSet_lineAt hw k TagE.zero).tag
    · rw [if_neg v]
      exact (Bool.not_eq_true _).mp v
  have d : (evictWay k s).2.arr.data = s.arr.data := by
    rw [a]
    split <;> rfl
  have port : (∀ m ∈ s.mp.mire, m ∈ (evictWay k s).2.mp.mire) ∧ (evictWay k s).2.mp.mire.length ≤ s.mp.mire.length + 1 ∧
      (evictWay k s).2.mp.miss = s.mp.miss ∧ (evictWay k s).2.mp.clean = s.mp.clean := by
    cases c : (tagGet s k).v && (tagGet s k).d with
    | false =>
      rw [l.clean c]
      exact ⟨fun _ h => h, Nat.le_succ _, rfl, rfl⟩
    | true =>
      obtain ⟨m, hm⟩ := l.dirty c
      rw [hm.mp]
      exact ⟨fun _ h => List.mem_append_left _ h, by simp, rfl, rfl⟩
  obtain ⟨mire, room, miss, clean⟩ := port
  refine ⟨fun j hj => hj ▸ g, fun j hj => l.tags j hj, ?_, mire, room, d, miss, clean, l.wf, l.frame⟩
  rintro j rfl v x
  obtain ⟨m, hm⟩ := l.dirty (by rw [v, x]; rfl)
  exact ⟨m, by rw [hm.mp]; simp, hm.line, hm.data, hm.poi⟩

/-! ### A sweep's step -/

/-- A sweep has room: no storage error, no clean write under way, `n` places in Mire. -/
structure SweepsOn (s : State) (n : Nat) : Prop where
  bad : s.bad = []
  clean : s.mp.clean = []
  mire : s.mp.mire.length + n ≤ 64
  wf : ArrWf s

theorem LinesOut.sweepsOn {s t : State} {n m : Nat} {q : Nat → Prop} (h : LinesOut s t n q) (k : SweepsOn s (n + m)) : SweepsOn t m :=
  ⟨h.frame.bad.trans k.bad, h.clean.trans k.clean, by have := h.room; have := k.mire; omega, h.wf⟩

/-- A way visited with room: its line leaves, and is counted. -/
theorem sweepWay_out {x : Swept} {n : Nat} (h : SweepsOn x.s (n + 1)) (k : Nat) : ∃ t, LinesOut x.s t 1 (· = k) ∧ sweepWay x k =
    { wb := x.wb + b2n ((tagGet x.s k).v && (tagGet x.s k).d), inv := x.inv + b2n (tagGet x.s k).v, left := x.left, s := t } := by
  have l := evictWay_linesOut h.bad h.wf k
  refine ⟨_, l, ?_⟩
  by_cases v : (tagGet x.s k).v = true
  · have f : (cleanHolds x.s k || ((tagGet x.s k).d && mireFull x.s)) = false := by
      have := h.mire
      simp [cleanHolds, h.clean, mireFull]
      omega
    simp only [sweepWay, v, f, Bool.not_true, Bool.false_eq_true, if_false, Bool.true_and]
    rfl
  · have e : (evictWay k x.s).2 = x.s := by simp [evictWay, v]
    simp [sweepWay, v, e, b2n]

/-- The ways of a list that a sweep picks leave, one after the other. What it picks by is the way's tag and the generation. -/
theorem sweepWays_out {p : State → Nat → Bool} (hp : ∀ {s t : State} {k}, t.gen = s.gen → tagGet t k = tagGet s k → p t k = p s k) (l : List Nat)
    (hl : l.Nodup) (x : Swept) (h : SweepsOn x.s l.length) : ∃ t a b, LinesOut x.s t l.length (fun k => k ∈ l ∧ p x.s k = true) ∧
      l.foldl (fun x k => if p x.s k then sweepWay x k else x) x = { wb := a, inv := b, left := x.left, s := t } := by
  induction l generalizing x with
  | nil => exact ⟨_, _, _, (LinesOut.counted (.refl _ _) h.wf).congr (by simp) le_rfl, rfl⟩
  | cons k l ih =>
    obtain ⟨hk, hl⟩ := List.nodup_cons.mp hl
    rw [List.foldl_cons]
    by_cases c : p x.s k = true
    · obtain ⟨t, ht, e⟩ := sweepWay_out h k
      have s' : SweepsOn t l.length := ht.sweepsOn (by rw [Nat.add_comm]; exact h)
      rw [if_pos c, e]
      obtain ⟨u, a, b, hu, f⟩ := ih hl { wb := _, inv := _, left := x.left, s := t } s'
      refine ⟨u, a, b, (ht.trans hu).congr (fun j => ?_) (by rw [Nat.add_comm]; rfl), f⟩
      by_cases cj : j = k
      · simp [cj, c]
      · have e := hp (k := j) ht.frame.gen (ht.kept j cj)
        simp [cj, e]
    · rw [if_neg c]
      obtain ⟨u, a, b, hu, f⟩ := ih hl x { h with mire := by have := h.mire; rw [List.length_cons] at this; omega }
      refine ⟨u, a, b, hu.congr (fun j => ?_) (Nat.le_succ _), f⟩
      by_cases cj : j = k
      · simp [cj, hk, c]
      · simp [cj]

theorem wkeys_nodup (set : Nat) : ((List.range 32).map (wkey set)).Nodup := List.nodup_range.map fun _ _ h => Nat.add_left_cancel h

/-- A sweep's step in a set takes the ways it picks. -/
theorem sweepSet_swept {s : State} (h : SweepRoom s) (set : Nat) {p : State → Nat → Bool}
    (hp : ∀ {s t : State} {k}, t.gen = s.gen → tagGet t k = tagGet s k → p t k = p s k) :
    ∃ t a b, SetSwept s t set (p s) ∧ OnlyChanges [.arr, .mp, .ctr] s t ∧ sweepSet set p s = { wb := a, inv := b, left := false, s := t } := by
  have u := useSlot_only set false none s
  have c := LinesOut.counted u h.canonical.arrWf
  have k : SweepsOn (useSlot set false none s) 32 := ⟨h.clean, h.writes, by have := h.mire; exact Nat.add_le_add_right this 32, c.wf⟩
  obtain ⟨t, a, b, ht, e⟩ := sweepWays_out hp ((List.range 32).map (wkey set)) (wkeys_nodup set)
    { wb := 0, inv := 0, left := false, s := useSlot set false none s } (by rw [List.length_map, List.length_range]; exact k)
  have l := c.trans ht
  refine ⟨t, a, b, (l.congr (fun j => ?_) le_rfl).setSwept, l.frame, ?_⟩
  · rw [hp (k := j) u.gen (tagGet_arr u.arr j)]
    simp only [false_or, List.mem_map, List.mem_range, @eq_comm _ j]
  · rw [sweepSet, setCheck_clean none set (useSlot set false none s) h.clean]
    exact e

/-! ### The sweeps that empty a set (R59, R69, R273) -/

/-- What a way is for, and where its line belongs, the generation says. -/
theorem groupConverts_gen {s t : State} (g : t.gen = s.gen) (k : Nat) : groupConverts t k = groupConverts s k := by rw [groupConverts, groupConverts, g]

theorem holdsCache_gen {s t : State} (g : t.gen = s.gen) (w : Nat) : holdsCache t w = holdsCache s w := by
  rw [holdsCache, holdsCache, groupIsCache, groupIsCache, show t.t = s.t from congrArg GenSt.live g, groupConverts_gen g]

theorem placedOld_gen {s t : State} {k : Nat} (g : t.gen = s.gen) (e : tagGet t k = tagGet s k) : placedOld t k = placedOld s k := by
  simp only [placedOld, holdsCache_gen g, liveSet, State.t, g, e]

/-- A DRAIN whose sweep has not come to the end goes on. -/
theorem drainTry_sweeps {s : State} {d : Drain} (h : s.srv.drain = some d) (hp : d.pos < sweepEnd) : drainTry s = s := by
  have n : (d.pos == sweepEnd) = false := beq_eq_false_iff_ne.mpr hp.ne
  simp only [drainTry, h, n, Bool.false_and]
  cases d.mode <;> rfl

/-- A DRAIN goes on to its next set. -/
theorem drainNext_moves {d : Drain} {t : State} (a b : Nat) (hp : d.pos + 32 < sweepEnd) : drainNext d { wb := a, inv := b, left := false, s := t } =
    { t with srv := { t.srv with drain := some { d with wb := d.wb + a, inv := d.inv + b, pos := d.pos + 32 } } } := by
  rw [drainNext, drainTry_sweeps (d := { d with wb := d.wb + a, inv := d.inv + b, pos := d.pos + 32 }) rfl hp]
  rfl

theorem rehashStep_swept {s : State} (h : SweepRoom s) (r : Rehash) : SetSwept s (rehashStep r s) r.apos (placedOld s) ∧
    (rehashStep r s).gen =
      { s.gen with rehash := if r.apos + 1 = 16384 ∧ r.spos = 4096 then none else some { r with apos := r.apos + 1 } } ∧
    OnlyChanges [.arr, .mp, .gen, .ctr] s (rehashStep r s) := by
  obtain ⟨t, a, b, k, f, e⟩ := sweepSet_swept h r.apos placedOld_gen
  rw [rehashStep, e]
  dsimp only
  rw [if_neg Bool.false_ne_true, rehashEnd_rehashSet]
  exact ⟨{ k with }, by rw [f.gen], (f.le _).then (genOnly _ t)⟩

theorem convStep_swept {s : State} (h : SweepRoom s) (c : Conv) : SetSwept s (convStep c s) c.pos (fun k => groupConverts s (k % 32 / 4)) ∧
    (convStep c s).gen = { s.gen with conv := if c.pos + 1 < 16384 then some { c with pos := c.pos + 1 } else none } ∧
    OnlyChanges [.arr, .mp, .gen, .ctr] s (convStep c s) := by
  obtain ⟨t, a, b, k, f, e⟩ := sweepSet_swept h c.pos (p := fun s k => groupConverts s (k % 32 / 4)) fun g _ => groupConverts_gen g _
  rw [convStep, e]
  dsimp only
  rw [if_neg Bool.false_ne_true, ← apply_ite (fun c => convSet c t)]
  exact ⟨{ k with }, by rw [convSet, f.gen], (f.le _).then (genOnly _ t)⟩

theorem emptyStep_swept {s : State} (h : SweepRoom s) {d : Drain} (hp : d.pos + 32 < sweepEnd) :
    ∃ a b, SetSwept s (emptyStep d s) (d.pos / 32) (fun k => holdsCache s (k % 32)) ∧
      (emptyStep d s).srv = { s.srv with drain := some { d with wb := a, inv := b, pos := d.pos + 32 } } ∧
      OnlyChanges [.arr, .mp, .srv, .ctr] s (emptyStep d s) := by
  obtain ⟨t, a, b, k, f, e⟩ := sweepSet_swept h (d.pos / 32) (p := fun s k => holdsCache s (k % 32)) fun g _ => holdsCache_gen g _
  rw [emptyStep, e, drainNext_moves a b hp]
  exact ⟨_, _, { k with }, by rw [f.srv], (f.le _).then (srvOnly _ t)⟩

theorem sweepEmptiesSet : SweepEmptiesSet := by
  refine fun s h => ⟨fun r hr hp => ⟨_, ?_, rehashStep_swept h r⟩, fun c hc => ⟨_, ?_, convStep_swept h c⟩, fun d hd hm hp => ?_⟩
  · show execRehashSweepStep s = _
    rw [execRehashSweepStep, hr]
    exact congrArg _ (if_pos hp)
  · show execConversionSweepStep s = _
    rw [execConversionSweepStep, hc]
  · obtain ⟨a, b, k⟩ := emptyStep_swept h hp
    refine ⟨_, a, b, ?_, k⟩
    show execDrainEmptySweepStep s = _
    rw [execDrainEmptySweepStep, hd]
    exact congrArg _ (if_pos ⟨hm, by omega⟩)

/-! ### DRAIN CLEAN (R273) -/

/-- From `s` to `t` the lines at the keys of `q`, `n` at most, have been sent from clean-write slots and stay, with D = 0; all else stays. -/
structure LinesSent (s t : State) (n : Nat) (q : Nat → Prop) : Prop where
  sent : ∀ k, q k → ∃ c ∈ t.mp.clean, c.line = (tagGet s k).line ∧ c.data = dataGet s k ∧ c.ackOut = true ∧
    ∃ i, (i, MWork.clean c.slot) ∈ t.mp.writes
  tag : ∀ k, q k → tagGet t k = { tagGet s k with d := false }
  kept : ∀ k, ¬ q k → tagGet t k = tagGet s k
  keys : ∀ c ∈ t.mp.clean, c ∈ s.mp.clean ∨ q c.key
  grows : (∀ c ∈ s.mp.clean, c ∈ t.mp.clean) ∧ ∀ w ∈ s.mp.writes, w ∈ t.mp.writes
  room : t.mp.clean.length ≤ s.mp.clean.length + n
  data : t.arr.data = s.arr.data
  mire : t.mp.mire = s.mp.mire
  miss : t.mp.miss = s.mp.miss
  wf : ArrWf t
  frame : OnlyChanges [.arr, .mp, .ctr] s t

section
variable {s t u : State} {n m : Nat} {p q : Nat → Prop}

theorem LinesSent.counted (h : OnlyChanges [.ctr] s t) (w : ArrWf s) : LinesSent s t 0 (fun _ => False) where
  sent := nofun
  tag := nofun
  kept k _ := tagGet_arr h.arr k
  keys c hc := .inl (by rwa [h.mp] at hc)
  grows := by rw [h.mp]; exact ⟨fun _ h => h, fun _ h => h⟩
  room := by rw [h.mp]; omega
  data := congrArg ArraySt.data h.arr
  mire := congrArg MPort.mire h.mp
  miss := congrArg MPort.miss h.mp
  wf := w.of_arr h.arr
  frame := h.le _

/-- Lines sent after others that are not among them. -/
theorem LinesSent.trans (h : LinesSent s t n p) (k : LinesSent t u m q) (x : ∀ j, p j → ¬ q j) : LinesSent s u (n + m) (fun j => p j ∨ q j) where
  sent j hj := by
    rcases hj with hj | hj
    · obtain ⟨c, hc, e1, e2, e3, i, hi⟩ := h.sent j hj
      exact ⟨c, k.grows.1 c hc, e1, e2, e3, i, k.grows.2 _ hi⟩
    · have e := k.sent j hj
      rwa [h.kept j fun y => x j y hj, show dataGet t j = dataGet s j by rw [dataGet, dataGet, h.data]] at e
  tag j hj := by
    rcases hj with hj | hj
    · rw [k.kept j (x j hj), h.tag j hj]
    · rw [k.tag j hj, h.kept j fun y => x j y hj]
  kept j hj := (k.kept j fun c => hj (.inr c)).trans (h.kept j fun c => hj (.inl c))
  keys c hc := (k.keys c hc).elim (fun y => (h.keys c y).imp_right .inl) (fun y => .inr (.inr y))
  grows := ⟨fun c hc => k.grows.1 c (h.grows.1 c hc), fun w hw => k.grows.2 w (h.grows.2 w hw)⟩
  room := k.room.trans (by have := h.room; omega)
  data := k.data.trans h.data
  mire := k.mire.trans h.mire
  miss := k.miss.trans h.miss
  wf := k.wf
  frame := h.frame.trans k.frame

theorem LinesSent.congr (h : LinesSent s t n p) (e : ∀ j, q j ↔ p j) (l : n ≤ m) : LinesSent s t m q :=
  (funext fun j => propext (e j) : q = p) ▸ { h with room := h.room.trans (by omega) }

end

/-- A way that DRAIN CLEAN sends: a dirty cache line. -/
def cleans (s : State) (k : Nat) : Bool := (tagGet s k).v && (tagGet s k).d && holdsCache s (k % 32)

/-- The slot of a clean write for the line at `k`. -/
def cleanSlot (s : State) (k i : Nat) : CleanW :=
  { slot := i, line := (tagGet s k).line, key := k, data := dataGet s k, poi := (tagGet s k).poi, sealed := (tagGet s k).sealed, tc := (tagGet s k).tc,
    qc := (tagGet s k).qc, ackOut := true, macOut := false }

/-- The line at `k` is sent from slot `i`. -/
def cleanSend (k i : Nat) (s : State) : State :=
  mwPush (.clean i) (tagSet k { tagGet s k with d := false } { s with mp := { s.mp with clean := s.mp.clean ++ [cleanSlot s k i] } })

theorem cleanSend_sent {s : State} (hw : ArrWf s) (k i : Nat) : LinesSent s (cleanSend k i s) 1 (· = k) where
  sent := by
    rintro j rfl
    exact ⟨cleanSlot s j i, List.mem_append_right _ (List.mem_singleton_self _), rfl, rfl, rfl, s.mp.wseq,
      List.mem_append_right _ (List.mem_singleton_self _)⟩
  tag := by
    rintro j rfl
    exact (tagSet_lineAt hw j { tagGet s j with d := false }).tag
  kept j hj := (tagSet_lineAt hw k { tagGet s k with d := false }).tags j hj
  keys c hc := (List.mem_append.mp hc).imp_right fun y => by rw [List.mem_singleton.mp y]; rfl
  grows := ⟨fun _ h => List.mem_append_left _ h, fun _ h => List.mem_append_left _ h⟩
  room := by simp [cleanSend, mwPush, tagSet]
  data := rfl
  mire := rfl
  miss := rfl
  wf := (hw.tagSet k { tagGet s k with d := false }).of_arr rfl
  frame := (((mpOnly _ s).le [.arr, .mp, .ctr]).then (tagSet_only k { tagGet s k with d := false } _)).then (mpOnly _ _)

/-- While fewer than `n` numbers are in use, one is free. -/
theorem lowest_some {α : Type} (f : α → Nat) {l : List α} {n : Nat} (h : l.length < n) :
    ∃ i, lowest n (fun i => l.all fun x => decide (f x ≠ i)) = some i := by
  cases e : lowest n fun i => l.all fun x => decide (f x ≠ i) with
  | some i => exact ⟨i, rfl⟩
  | none =>
    have free := lowest_free f h
    rw [e] at free
    exact absurd (by simpa using free.2) (List.find?_eq_none.mp e 0 (List.mem_range.mpr free.1))

/-- A way visited with a slot free, whose line no clean write holds: a dirty cache line is sent. -/
theorem cleanWay_sent {x : Swept} {k : Nat} (hb : x.s.bad = []) (hw : ArrWf x.s) (hl : x.s.mp.clean.length < 64) (hc : ∀ c ∈ x.s.mp.clean, c.key ≠ k) :
    ∃ t a, LinesSent x.s t 1 (fun j => j = k ∧ cleans x.s k = true) ∧ cleanWay x k = { wb := a, inv := x.inv, left := x.left, s := t } := by
  by_cases c : cleans x.s k = true
  · have free : cleanHolds x.s k = false := by
      rw [cleanHolds, List.any_eq_false]
      intro y hy
      simp [hc y hy]
    obtain ⟨i, hi⟩ := lowest_some CleanW.slot hl
    refine ⟨_, x.wb + 1, (cleanSend_sent hw k i).congr (by simp [c]) le_rfl, ?_⟩
    unfold cleans at c
    simp only [cleanWay, c, free, hi, wayCheck_clean none k x.s hb, Bool.not_true, Bool.false_eq_true, if_false]
    rfl
  · refine ⟨x.s, x.wb, (LinesSent.counted (.refl _ _) hw).congr (by simp [c]) (Nat.le_succ _), ?_⟩
    unfold cleans at c
    simp only [cleanWay, Bool.not_eq_true _ ▸ c, Bool.not_false, if_true]

/-- The dirty cache lines of a list of ways are sent, one after the other. -/
theorem cleanWays_sent (l : List Nat) (hl : l.Nodup) (x : Swept) (hb : x.s.bad = []) (hw : ArrWf x.s) (hr : x.s.mp.clean.length + l.length ≤ 64)
    (hc : ∀ c ∈ x.s.mp.clean, c.key ∉ l) : ∃ t a, LinesSent x.s t l.length (fun k => k ∈ l ∧ cleans x.s k = true) ∧
      l.foldl cleanWay x = { wb := a, inv := x.inv, left := x.left, s := t } := by
  induction l generalizing x with
  | nil => exact ⟨_, _, (LinesSent.counted (.refl _ _) hw).congr (by simp) le_rfl, rfl⟩
  | cons k l ih =>
    obtain ⟨hk, hl⟩ := List.nodup_cons.mp hl
    rw [List.length_cons] at hr
    obtain ⟨t, a, ht, e⟩ := cleanWay_sent hb hw (by omega) fun c h (e : c.key = k) => hc c h (by simp [e])
    have keys : ∀ c ∈ t.mp.clean, c.key ∉ l := fun c h => by
      rcases ht.keys c h with h | ⟨h, -⟩
      · exact fun m => hc c h (List.mem_cons_of_mem _ m)
      · exact h ▸ hk
    obtain ⟨u, b, hu, f⟩ := ih hl { wb := a, inv := x.inv, left := x.left, s := t } (ht.frame.bad.trans hb) ht.wf
      (by have := ht.room; dsimp only; omega) keys
    rw [List.foldl_cons, e]
    refine ⟨u, b, (ht.trans hu ?_).congr (fun j => ?_) (by rw [Nat.add_comm]; rfl), f⟩
    · rintro j ⟨rfl, -⟩ ⟨m, -⟩
      exact hk m
    · by_cases cj : j = k
      · simp [cj, hk]
      · have g : cleans t j = cleans x.s j := by rw [cleans, cleans, ht.kept j fun y => cj y.1, holdsCache_gen ht.frame.gen]
        simp [cj, g]

/-- A step of DRAIN CLEAN sends the dirty cache lines of its set. -/
theorem cleanStep_sent {s : State} (h : SweepRoom s) {d : Drain} (hp : d.pos + 32 < sweepEnd) :
    ∃ t a, LinesSent s t 32 (fun k => (∃ w < 32, k = wkey (d.pos / 32) w) ∧ cleans s k = true) ∧ cleanStep d s =
      { t with srv := { t.srv with drain := some { d with wb := a, pos := d.pos + 32 } } } := by
  have u := useSlot_only (d.pos / 32) false none s
  have c := LinesSent.counted u h.canonical.arrWf
  have none_ : (useSlot (d.pos / 32) false none s).mp.clean = [] := h.writes
  obtain ⟨t, a, ht, e⟩ := cleanWays_sent ((List.range 32).map (wkey (d.pos / 32))) (wkeys_nodup _)
    { wb := 0, inv := 0, left := false, s := useSlot (d.pos / 32) false none s } h.clean c.wf (by simp [none_]) (by simp [none_])
  refine ⟨t, d.wb + a, (c.trans ht nofun).congr (fun j => ?_) (by simp), ?_⟩
  · rw [show cleans (useSlot (d.pos / 32) false none s) j = cleans s j from rfl]
    simp only [false_or, List.mem_map, List.mem_range, @eq_comm _ j]
  · rw [cleanStep, setCheck_clean none (d.pos / 32) (useSlot (d.pos / 32) false none s) h.clean]
    exact (congrArg (drainNext d) e).trans (drainNext_moves a 0 hp)

theorem drainCleanSweep : DrainCleanSweep := by
  intro s d h hd hm hp
  obtain ⟨t, a, l, e⟩ := cleanStep_sent h hp
  have q : exec .drainCleanSweepStep s = .next (cleanStep d s) := by
    show execDrainCleanSweepStep s = _
    rw [execDrainCleanSweepStep, hd]
    exact congrArg _ (if_pos ⟨hm, by omega⟩)
  rw [e] at q
  refine ⟨_, a, q, fun w hw v x k => ?_, fun k hk => l.kept k ?_, l.data, l.mire, l.miss, by rw [l.frame.srv], (l.frame.le _).then (srvOnly _ t)⟩
  · have m : (∃ j < 32, wkey (d.pos / 32) w = wkey (d.pos / 32) j) ∧ cleans s (wkey (d.pos / 32) w) = true := by
      refine ⟨⟨w, hw, rfl⟩, ?_⟩
      rw [cleans, v, x, show wkey (d.pos / 32) w % 32 = w by rw [wkey]; omega, k]
      rfl
    obtain ⟨c, hc, line, data, ack, sent⟩ := l.sent _ m
    exact ⟨c, hc, line, data, ack, sent, l.tag _ m⟩
  · rintro ⟨⟨w, hw, rfl⟩, y⟩
    simp only [cleans, Bool.and_eq_true] at y
    obtain ⟨⟨v, x⟩, c⟩ := y
    rcases hk with hk | hk | hk | hk
    · exact hk (by rw [wkey]; omega)
    · rw [v] at hk; cases hk
    · rw [x] at hk; cases hk
    · rw [c] at hk; cases hk

/-- Settles O25: way after way of the set, each with room in Mire or a clean-write slot free. -/
theorem arraySwept : Obligations.ArraySwept := ⟨sweepEmptiesSet, drainCleanSweep⟩

end Sys2Proof.Machine
end

section
/-! SUPPORT. Bank service (O51: R278 to R280, R363). -/

namespace Sys2Proof.Machine

-- One declaration after the other: the threads of declarations that wait for one another exhaust the memory that a compile may take.
set_option Elab.async false

/-! ### Commands that go on -/

theorem startQOnly (x : List Nat) (s : State) : OnlyChanges [.startQ] s { s with startQ := x } :=
  ⟨fun q hq => by cases q <;> first | rfl | exact absurd (by simp) hq⟩

section
variable {s s' u v : State} {t op : Nat} {rest : List Nat} {l m : List Part}

theorem atStart_only (s : State) (t : Nat) (rest : List Nat) : OnlyChanges [.mbx, .startQ] s (atStart s t rest) :=
  ((startQOnly rest s).le [.mbx, .startQ]).then (mbxSet_only ..)

/-- A command starts with its arguments, and an empty output FIFO. -/
theorem Heads.atStart_get (h : Heads s op t rest) (ho : op ≠ 0) : mbxGet (atStart s t rest) t = { mbxGet s t with outF := [] } :=
  mbxGet_mbxSet_self _ _ fun e => ho (h.opcode.symm.trans (congrArg (fun m : Mbx => m.op.toNat) e))

theorem Heads.atStart_argF (h : Heads s op t rest) (ho : op ≠ 0) (i lo w : Nat) : argF (atStart s t rest) t i lo w = argF s t i lo w := by
  rw [argF, argF, mArg, mArg, h.atStart_get ho]

theorem Heads.atStart_argB (h : Heads s op t rest) (ho : op ≠ 0) (i b : Nat) : argB (atStart s t rest) t i b = argB s t i b := by
  rw [argB, argB, mArg, mArg, h.atStart_get ho]

theorem Heads.atStart_argRsv (h : Heads s op t rest) (ho : op ≠ 0) (r : List (Nat × Nat × Nat)) : argRsv (atStart s t rest) t r = argRsv s t r := by
  simp only [argRsv, h.atStart_argF ho]

/-- Work that a command starts goes on. -/
theorem Heads.goesOn (h : Heads s op t rest) (ho : op ≠ 0) (k : OnlyChanges l (atStart s t rest) v) (hm : .mbx ∉ l := by decide)
    (hq : .startQ ∉ l := by decide) : GoesOn s (mbxWork t v) t rest l := by
  have e : mbxGet v = mbxGet (atStart s t rest) := by
    funext j
    rw [mbxGet, mbxGet, k.same .mbx hm]
  have w : mbxGet (mbxWork t v) t = { mbxGet v t with phase := .work } := mbxGet_mbxSet_self _ _ fun e => by cases congrArg Mbx.phase e
  refine ⟨⟨by rw [w], by rw [w, e, h.atStart_get ho], fun j hj => ?_⟩, ?_, ?_⟩
  · rw [mbxWork, mbxGet_mbxSet_ne _ _ hj, e, atStart, mbxGet_mbxSet_ne _ _ hj]
    rfl
  · exact ((mbxWork_only t v).same .startQ (by decide)).trans (k.same .startQ hq)
  · exact (((atStart_only s t rest).mono (by simp)).trans (k.mono (by simp))).trans ((mbxWork_only t v).mono (by simp))

theorem GoesOn.then (h : GoesOn s u t rest l) (k : OnlyChanges m u v) (lm : l ⊆ m := by decide) (hm : .mbx ∉ m := by decide)
    (hq : .startQ ∉ m := by decide) : GoesOn s v t rest m := by
  have e : mbxGet v = mbxGet u := by
    funext j
    rw [mbxGet, mbxGet, k.same .mbx hm]
  obtain ⟨⟨phase, busy, others⟩, queue, frame⟩ := h
  refine ⟨⟨e ▸ phase, e ▸ busy, fun j hj => (congrFun e j).trans (others j hj)⟩, (k.same .startQ hq).trans queue, ?_⟩
  exact (frame.mono (List.append_subset.mpr ⟨List.subset_append_of_subset_left _ lm, List.subset_append_right _ _⟩)).trans (k.mono (by simp))

end

/-! ### Banks -/

theorem wantsOnly (x : List Want) (s : State) : OnlyChanges [.pw] s { s with pw := { s.pw with wants := x } } :=
  ⟨fun q hq => by cases q <;> first | rfl | exact absurd (by simp) hq⟩

theorem banksOnly (x : Store Bank) (s : State) : OnlyChanges [.banks] s { s with banks := x } :=
  ⟨fun q hq => by cases q <;> first | rfl | exact absurd (by simp) hq⟩

theorem bankSet_only (b : Nat) (k : Bank) (s : State) : OnlyChanges [.banks] s (bankSet b k s) := banksOnly _ s

theorem bankGet_bankSet_ne {b j : Nat} (k : Bank) (s : State) (h : j ≠ b) : bankGet (bankSet b k s) j = bankGet s j := sget_sset_ne _ _ _ h

/-- A bank with a command reads back, whatever the store. -/
theorem bankGet_bankSet_op {b : Nat} {k : Bank} (s : State) (h : k.op ≠ none) : bankGet (bankSet b k s) b = k :=
  sget_sset_self _ _ _ fun e => h (congrArg Bank.op e)

theorem bankGet_bankSet (b : Nat) (k : Bank) {s : State} (c : swf (fun _ => Bank.reset) s.banks = true) : bankGet (bankSet b k s) b = k :=
  sget_sset _ _ _ _ none c

theorem OnlyChanges.banks {l : List Part} {s u : State} (h : OnlyChanges l s u) (k : .banks ∉ l := by decide) : u.banks = s.banks := h.same .banks k

/-- The checks that bank commands share pass, with the last that is its own. -/
theorem BankCmd.passes {s : State} {op : Nat} {rest : List Nat} {rsv : List (Nat × Nat × Nat)} (h : BankCmd s op rest rsv) (ho : op ≠ 0) {b : Bool}
    (hb : b = false) : firstOf (bankChecks (atStart s 0 rest) 0 rsv ++ [(b, Mc.estate)]) = none := by
  obtain ⟨heads, r, idle, few, present⟩ := h
  have a : commitArmed (atStart s 0 rest) = false := idle
  have f : bankOps (atStart s 0 rest) < 8 := few
  have p : noDatapath (atStart s 0 rest) = false := by rw [noDatapath, show (atStart s 0 rest).pins = s.pins from rfl, present]; rfl
  simp [firstOf, bankChecks, heads.atStart_argRsv ho, r, a, f, p, hb]

section
variable {s : State} {op : Nat} {rest : List Nat} {rsv : List (Nat × Nat × Nat)} {k : BankOpKind}

/-- A bank command that passes its checks is under way. -/
theorem BankCmd.starts (h : BankCmd s op rest rsv) (ho : op ≠ 0) (b : Nat) (k : BankOpKind) :
    GoesOn s (bankStart b k 0 (atStart s 0 rest)) 0 rest [.banks] ∧ BankWorks s (bankStart b k 0 (atStart s 0 rest)) b k :=
  ⟨h.heads.goesOn ho (bankSet_only ..), bankGet_bankSet_op (atStart s 0 rest) nofun, fun _ hj => bankGet_bankSet_ne _ (atStart s 0 rest) hj⟩

theorem bankOffline_starts (h : BankCmd s 0x30 rest [(0, 7, 25)]) (hb : bankBusy s (argF s 0 0 0 6) = false) :
    exec .bankOffline s = .next (bankStart (argF s 0 0 0 6) (.offline (argB s 0 0 6)) 0 (atStart s 0 rest)) := by
  have e : bankOfflineCmd 0 (atStart s 0 rest) = bankStart (argF s 0 0 0 6) (.offline (argB s 0 0 6)) 0 (atStart s 0 rest) := by
    simp only [bankOfflineCmd, h.heads.atStart_argF (by decide), h.heads.atStart_argB (by decide)]
    exact checked_pass (h.passes (by decide) hb)
  exact congrArg _ ((cmdRun_heads h.heads rfl).trans e)

theorem bankTrim_starts (h : BankCmd s 0x32 rest [(0, 6, 26)]) (hb : bankBusy s (argF s 0 0 0 6) = false) :
    exec .bankTrim s = .next (bankStart (argF s 0 0 0 6) .trim 0 (atStart s 0 rest)) := by
  have e : bankTrimCmd 0 (atStart s 0 rest) = bankStart (argF s 0 0 0 6) .trim 0 (atStart s 0 rest) := by
    simp only [bankTrimCmd, h.heads.atStart_argF (by decide)]
    exact checked_pass (h.passes (by decide) hb)
  exact congrArg _ ((cmdRun_heads h.heads rfl).trans e)

/-- A BANK_ONLINE under way as its domain stands: in service at once if it is ON, else when it is. -/
theorem bankOnline_starts (h : BankCmd s 0x31 rest [(0, 7, 25)]) (hb : onlineBad s (argF s 0 0 0 6) (argB s 0 0 6) = false) {v : State}
    (hv : v = bankStart (argF s 0 0 0 6) (.online (argB s 0 0 6)) 0 (atStart s 0 rest)) :
    exec .bankOnline s = .next (if pdHeld s (argF s 0 0 0 6) then
      bankService (argF s 0 0 0 6) { v with pw := { v.pw with wants := v.pw.wants.filter fun w => w.pd ≠ argF s 0 0 0 6 } }
    else want (argF s 0 0 0 6) .on v) := by
  subst hv
  refine congrArg _ ((cmdRun_heads h.heads rfl).trans ?_)
  show bankOnlineCmd 0 (atStart s 0 rest) = _
  simp only [bankOnlineCmd, h.heads.atStart_argF (by decide), h.heads.atStart_argB (by decide)]
  exact checked_pass (h.passes (by decide) hb)

end

theorem want_mem (n : Nat) (p : Power) (s : State) : { pd := n, target := p } ∈ (want n p s).pw.wants := by
  unfold want
  split
  · next h => exact List.contains_iff_mem.mp h
  · exact List.mem_append_right _ (List.mem_singleton_self _)

/-! ### Banks brought into service (R61, R279) -/

/-- A store of which only the keys that `p` picks are left reads as before at those, and as unlisted at the others. -/
theorem sget_filter {α : Type} (d : Nat → α) (st : Store α) (p : Nat → Bool) (k : Nat) :
    sget d (st.filter fun x => p x.1) k = if p k then sget d st k else d k := by
  induction st with
  | nil => simp [sget]
  | cons x r ih =>
    obtain ⟨j, v⟩ := x
    by_cases h : p j = true
    · rw [List.filter_cons_of_pos (p := fun x : Nat × α => p x.1) h, sget, ih]
      by_cases e : k = j
      · simp [sget, e, h]
      · simp [sget, e]
    · rw [List.filter_cons_of_neg (p := fun x : Nat × α => p x.1) h, ih]
      by_cases e : k = j
      · simp [e, h]
      · simp [sget, e]

theorem clearBank_cleared (b : Nat) (s : State) : BankCleared s (clearBank b s) b := by
  have g : ∀ k, tagGet (clearBank b s) k = if bankOfKey k != b then tagGet s k else TagE.zero :=
    sget_filter (fun _ => TagE.zero) s.arr.tags fun k => bankOfKey k != b
  refine ⟨fun k hk => ?_, fun k hk => ?_, rfl⟩
  · rw [g, if_neg (by simp [hk])]
  · rw [g, if_pos (by simp [hk])]

theorem clearBank_only (b : Nat) (s : State) : OnlyChanges [.arr, .bad] s (clearBank b s) :=
  ⟨fun q hq => by cases q <;> first | rfl | exact absurd (by simp) hq⟩

theorem BankCleared.congr {s s' u u' : State} {b : Nat} (h : BankCleared s u b) (hs : s'.arr = s.arr) (hu : u'.arr = u.arr) : BankCleared s' u' b := by
  obtain ⟨gone, kept, data⟩ := h
  exact ⟨fun k hk => (tagGet_arr hu k).trans (gone k hk), fun k hk => by rw [tagGet_arr hu, tagGet_arr hs, kept k hk], by rw [hu, hs, data]⟩

/-- A bank's command that ends. -/
theorem bankDone_eq {b : Nat} {s : State} {o : BankOp} (h : (bankGet s b).op = some o) (code : Nat) (res : List Nat) :
    bankDone b code res s = mbxDone o.mbx code res (bankSet b { bankGet s b with op := none } s) := by
  simp only [bankDone, h]

/-- An end seen from an earlier state, of which the causes and the other mailboxes are as they were. -/
theorem Ended.since {s v u : State} {t c : Nat} {r : List Nat} (h : Ended v u t c r) (i : v.ints.mbx = s.ints.mbx)
    (m : ∀ j, j ≠ t → mbxGet v j = mbxGet s j) : Ended s u t c r := by
  obtain ⟨code, res, busy, phase, inF, bit, others⟩ := h
  exact ⟨code, res, busy, phase, inF, by rw [bit, i], fun j hj => (others j hj).trans (m j hj)⟩

theorem mbxGet_congr {s t : State} (h : t.mbx = s.mbx) (j : Nat) : mbxGet t j = mbxGet s j := by rw [mbxGet, mbxGet, h]
theorem bankGet_congr {s t : State} (h : t.banks = s.banks) (j : Nat) : bankGet t j = bankGet s j := by rw [bankGet, bankGet, h]

/-- A bank whose tags are cleared has its command ended. -/
structure BankServed (s u : State) (b : Nat) (o : BankOp) (k : Bank) (code : Nat) (res : List Nat) : Prop where
  ended : Ended s u o.mbx code res
  bank : bankGet u b = { k with op := none }
  cleared : BankCleared s u b
  frame : OnlyChanges [.banks, .arr, .bad, .mbx, .ints, .d0] s u

theorem bankDone_served {b : Nat} {s : State} {k : Bank} {o : BankOp} (c : Canonical s) (h : k.op = some o) (code : Nat) (res : List Nat) :
    BankServed s (bankDone b code res (clearBank b (bankSet b k s))) b o k code res := by
  let v := clearBank b (bankSet b k s)
  have cv : Canonical v := c.bankSet.clearBank
  have g : bankGet v b = k := bankGet_bankSet b k c.banks
  rw [bankDone_eq (by rw [g]; exact h), g]
  have e := mbxDone_ended o.mbx code res (bankSet b { k with op := none } v) cv.bankSet.mbx
  have f := mbxDone_only o.mbx code res (bankSet b { k with op := none } v)
  refine ⟨e.since rfl fun _ _ => rfl, ?_, (clearBank_cleared b (bankSet b k s)).congr rfl f.arr, ?_⟩
  · rw [bankGet_congr f.banks, bankGet_bankSet b _ cv.banks]
  · exact ((((bankSet_only b k s).le _).then (clearBank_only ..)).then (bankSet_only b { k with op := none } v)).then f

/-- A bank as BANK_ONLINE leaves it. -/
def onlined (k : Bank) (clr : Bool) : Bank := if clr then { k with retired := false, leak := 0 } else k

theorem onlined_op (k : Bank) (clr : Bool) : (onlined k clr).op = k.op := by cases clr <;> rfl

theorem bankService_online {b : Nat} {s : State} {o : BankOp} {clr : Bool} (ho : (bankGet s b).op = some o) (hk : o.kind = .online clr) :
    bankService b s = bankDone b Mc.ok [] (clearBank b (bankSet b (onlined (bankGet s b) clr) s)) := by
  rw [bankService, ho]
  dsimp only
  rw [hk]
  rfl

section
variable {s : State} {rest : List Nat}

/-- A bank that is ON comes into service only out of retirement (R279). -/
theorem onlineBad_retired {b : Nat} {clr : Bool} (hb : onlineBad s b clr = false) (hp : pdHeld s b = true) :
    clr = true ∧ (bankGet s b).op = none := by
  have on : pdOn s b = true := (Bool.and_eq_true _ _ ▸ hp).1
  simp only [onlineBad, on, Bool.true_and, Bool.or_eq_false_iff, Bool.not_eq_false', Bool.and_eq_false_iff, Option.isSome_eq_false_iff,
    Option.isNone_iff_eq_none] at hb
  obtain ⟨⟨⟨⟨retired, clear⟩, op⟩, -⟩, -⟩ := hb
  exact ⟨by rw [retired] at clear; simpa using clear, op⟩

theorem bankOnline_waits (h : BankCmd s 0x31 rest [(0, 7, 25)]) (hb : onlineBad s (argF s 0 0 0 6) (argB s 0 0 6) = false)
    (hp : pdHeld s (argF s 0 0 0 6) = false) : ∃ u, exec .bankOnline s = .next u ∧ GoesOn s u 0 rest [.banks, .pw] ∧
      BankWorks s u (argF s 0 0 0 6) (.online (argB s 0 0 6)) ∧ { pd := argF s 0 0 0 6, target := .on } ∈ u.pw.wants := by
  obtain ⟨g, w⟩ := h.starts (by decide) (argF s 0 0 0 6) (.online (argB s 0 0 6))
  have k := want_only (argF s 0 0 0 6) .on (bankStart (argF s 0 0 0 6) (.online (argB s 0 0 6)) 0 (atStart s 0 rest))
  refine ⟨_, (bankOnline_starts h hb rfl).trans (by rw [hp]; rfl), ?_, ⟨?_, fun j hj => ?_⟩, want_mem ..⟩
  · obtain ⟨proceeds, queue, frame⟩ := g
    have f : OnlyChanges [.banks, .pw, .mbx, .startQ] s (bankStart (argF s 0 0 0 6) (.online (argB s 0 0 6)) 0 (atStart s 0 rest)) := frame.le _
    exact GoesOn.then (l := [.banks, .pw]) ⟨proceeds, queue, f⟩ (k.le [.banks, .pw])
  · exact (bankGet_congr k.banks _).trans w.1
  · exact (bankGet_congr k.banks _).trans (w.2 j hj)

theorem bankOnline_serves (h : BankCmd s 0x31 rest [(0, 7, 25)]) (hb : onlineBad s (argF s 0 0 0 6) (argB s 0 0 6) = false) (c : Canonical s)
    (hp : pdHeld s (argF s 0 0 0 6) = true) : ∃ u, exec .bankOnline s = .next u ∧ Completes s u 0 rest Mc.ok [] [.banks, .pw, .arr, .bad] ∧
      bankGet u (argF s 0 0 0 6) = { bankGet s (argF s 0 0 0 6) with retired := false, leak := 0 } ∧ BankCleared s u (argF s 0 0 0 6) := by
  obtain ⟨clr, op⟩ := onlineBad_retired hb hp
  obtain ⟨g, w⟩ := h.starts (by decide) (argF s 0 0 0 6) (.online (argB s 0 0 6))
  let b := argF s 0 0 0 6
  let v := bankStart b (.online (argB s 0 0 6)) 0 (atStart s 0 rest)
  let v' : State := { v with pw := { v.pw with wants := v.pw.wants.filter fun w => w.pd ≠ b } }
  have cv : Canonical v' := Canonical.withPw (.bankStart (.mbxSet c.withStartQ))
  have kv : bankGet v' b = { bankGet s b with op := some { kind := .online (argB s 0 0 6), mbx := 0, pos := 0, wb := 0, inv := 0 } } := w.1
  have q := bankService_online (b := b) (s := v') (o := { kind := .online (argB s 0 0 6), mbx := 0, pos := 0, wb := 0, inv := 0 }) (by rw [kv]) rfl
  obtain ⟨ended, bank, cleared, frame⟩ := bankDone_served (s := v') (b := b) cv ((onlined_op (bankGet v' b) (argB s 0 0 6)).trans (by rw [kv])) Mc.ok []
  refine ⟨_, (bankOnline_starts h hb rfl).trans ((congrArg _ (if_pos hp)).trans (congrArg _ q)), ⟨?_, ?_, ?_⟩, ?_, cleared.congr rfl rfl⟩
  · exact ended.since rfl g.proceeds.others
  · exact (frame.same .startQ (by decide)).trans g.queue
  · exact ((g.frame.le [.banks, .pw, .arr, .bad, .mbx, .startQ, .ints, .d0]).then (wantsOnly _ v)).then frame |>.le _
  · have e : ({ bankGet s b with retired := false, leak := 0, op := none } : Bank) = { bankGet s b with retired := false, leak := 0 } := by rw [← op]
    rw [bank, kv, clr]
    exact e

end

/-! ### Lines of a bank's sweep (R278, R363) -/

/-- The line visited, with room: it leaves its bank. -/
theorem bankLine_out {s : State} {b : Nat} (h : SweepRoom s) (hc : holdsCache s (b % 32) = true) (i : Nat) :
    ∃ t, SetSwept s t (bankKey b i / 32) (fun k => k == bankKey b i) ∧ OnlyChanges [.arr, .mp, .ctr] s t ∧ bankLine (bankKey b i) s =
      { wb := b2n ((tagGet s (bankKey b i)).v && (tagGet s (bankKey b i)).d), inv := b2n (tagGet s (bankKey b i)).v, left := false, s := t } := by
  let k := bankKey b i
  have way : k % 32 = b % 32 := by
    show (32 * (2 * i + b / 32) + b % 32) % 32 = b % 32
    omega
  have c := LinesOut.counted (useSlot_only (k / 32) false none s) h.canonical.arrWf
  have r : SweepsOn (useSlot (k / 32) false none s) (63 - s.mp.mire.length + 1) := ⟨h.clean, h.writes, by
    have := h.mire
    show s.mp.mire.length + _ ≤ 64
    omega, c.wf⟩
  obtain ⟨t, ht, e⟩ := sweepWay_out (x := { wb := 0, inv := 0, left := false, s := useSlot (k / 32) false none s }) r k
  have l := c.trans ht
  refine ⟨t, (l.congr (fun j => ?_) le_rfl).setSwept, l.frame, ?_⟩
  · simp only [false_or, beq_iff_eq]
    exact ⟨fun x => x.2, fun x => ⟨⟨k % 32, Nat.mod_lt _ (by decide), by rw [x, wkey]; omega⟩, x⟩⟩
  · rw [bankLine, setCheck_clean none (k / 32) (useSlot (k / 32) false none s) h.clean]
    rw [if_pos (by rw [way]; exact hc), e]
    simp only [Nat.zero_add]
    rfl

/-- A bank as the sweep of its command leaves it after line `o.pos`. -/
theorem bankStep_command {b : Nat} {s : State} {o : BankOp} (h : SweepRoom s) (hc : holdsCache s (b % 32) = true) (hn : (bankGet s b).sweep = none)
    (ho : (bankGet s b).op = some o) (hp : o.pos < 8192) (hk : o.kind = .trim ∨ ∃ x, o.kind = .offline x) : ∃ t,
    SetSwept s t (bankKey b o.pos / 32) (fun k => k == bankKey b o.pos) ∧ OnlyChanges [.banks, .arr, .mp, .ctr] s t ∧
    (∀ j, j ≠ b → bankGet t j = bankGet s j) ∧ bankGet t b = { bankGet s b with op := some (lineVisited o (tagGet s (bankKey b o.pos))) } ∧
    bankStep b s = bankSwept b t := by
  obtain ⟨t, k, f, q⟩ := bankLine_out h hc o.pos
  have c : swf (fun _ => Bank.reset) t.banks = true := by rw [f.banks]; exact h.canonical.banks
  have g : ∀ j, bankGet t j = bankGet s j := bankGet_congr f.banks
  have sweeps : (decide (o.pos < 8192) && (decide (o.kind = .trim) || decide (o.kind = .offline true) || decide (o.kind = .offline false))) = true := by
    obtain hk | ⟨_ | _, hk⟩ := hk <;> simp [hp, hk]
  let e := tagGet s (bankKey b o.pos)
  let k1 : Bank := { bankGet s b with op := some { o with wb := o.wb + b2n (e.v && e.d), inv := o.inv + b2n e.v } }
  have count : ∀ x : Swept, x.wb = b2n (e.v && e.d) → x.inv = b2n e.v → bankCount b x t = bankSet b k1 t := by
    intro x hw hi
    simp only [bankCount, g b, ho, hw, hi]
    rfl
  have g1 : bankGet (bankSet b k1 t) b = k1 := bankGet_bankSet b k1 c
  let k2 : Bank := { bankGet s b with op := some (lineVisited o e) }
  have c1 : swf (fun _ => Bank.reset) (bankSet b k1 t).banks = true := swf_sset _ _ _ _ c
  refine ⟨bankSet b k2 (bankSet b k1 t), { k with }, ((f.le _).then (bankSet_only ..)).then (bankSet_only ..), fun j hj => ?_, bankGet_bankSet b k2 c1, ?_⟩
  · rw [bankGet_bankSet_ne _ _ hj, bankGet_bankSet_ne _ _ hj, g]
  · rw [bankStep, hn, ho]
    dsimp only
    rw [if_pos sweeps, q, count _ rfl rfl, if_neg Bool.false_ne_true, g1]
    rfl

/-- What a sweep did stands while the array and M's port are left. -/
theorem SetSwept.congr {s t u : State} {set : Nat} {p : Nat → Bool} (h : SetSwept s t set p) (ha : u.arr = t.arr) (hm : u.mp = t.mp) :
    SetSwept s u set p := by
  obtain ⟨gone, kept, saved, mire, data, miss⟩ := h
  exact ⟨fun w hw hp => by rw [tagGet_arr ha]; exact gone w hw hp, fun k hk => (tagGet_arr ha k).trans (kept k hk),
    fun w hw hp v d => by rw [hm]; exact saved w hw hp v d, fun m h => by rw [hm]; exact mire m h, by rw [ha, data], by rw [hm, miss]⟩

theorem bankSwept_only (b : Nat) (s : State) : OnlyChanges [.pw] s (bankSwept b s) := by
  unfold bankSwept
  split
  · split
    · exact .ite (want_only ..) (.refl _ _)
    · exact .refl _ _
  · exact .refl _ _

/-- A sweep that has lines to visit moves no domain. -/
theorem bankSwept_early {b : Nat} {s : State} {o : BankOp} (h : (bankGet s b).op = some o) (hp : o.pos ≠ 8192) : bankSwept b s = s := by
  rw [bankSwept, h]
  dsimp only
  split
  · exact if_neg hp
  · rfl

/-- A bank as the sweep of its retirement leaves it after line `i`. -/
theorem bankStep_retired {b : Nat} {s : State} {i : Nat} (h : SweepRoom s) (hc : holdsCache s (b % 32) = true) (hn : (bankGet s b).sweep = some i)
    (ho : (bankGet s b).op = none) (hi : i + 1 < 8192) : SetSwept s (bankStep b s) (bankKey b i / 32) (fun k => k == bankKey b i) ∧
    bankGet (bankStep b s) b = { bankGet s b with sweep := some (i + 1) } ∧ (∀ j, j ≠ b → bankGet (bankStep b s) j = bankGet s j) ∧
    OnlyChanges [.banks, .arr, .mp, .ctr] s (bankStep b s) := by
  obtain ⟨t, k, f, q⟩ := bankLine_out h hc i
  have c : swf (fun _ => Bank.reset) t.banks = true := by rw [f.banks]; exact h.canonical.banks
  have g : ∀ j, bankGet t j = bankGet s j := bankGet_congr f.banks
  have count : ∀ x : Swept, bankCount b x t = bankSet b (bankGet s b) t := by
    intro x
    rw [bankCount, g b, ho, Option.map_none, ← ho]
  let v := bankSet b (bankGet s b) t
  have cv : swf (fun _ => Bank.reset) v.banks = true := swf_sset _ _ _ _ c
  have e : bankStep b s = bankSet b { bankGet s b with sweep := some (i + 1) } v := by
    rw [bankStep, hn]
    dsimp only
    rw [q, count, if_neg Bool.false_ne_true, if_pos hi, bankGet_bankSet b (bankGet s b) c]
  rw [e]
  refine ⟨k.congr rfl rfl, bankGet_bankSet b _ cv, fun j hj => ?_, ((f.le _).then (bankSet_only b (bankGet s b) t)).then (bankSet_only ..)⟩
  rw [bankGet_bankSet_ne _ v hj, bankGet_bankSet_ne _ t hj, g]

/-! ### Calibration (R280) -/

section
variable {b : Nat} {s : State} {o : BankOp} (ho : (bankGet s b).op = some o) (hk : o.kind = .trim) (hp : o.pos = 8192)
include ho hk hp

/-- Calibration with a setting ends BANK_TRIM. -/
theorem bankTrimmed_some (v : BitVec 8) : bankTrimmed b (some v) s =
    bankDone b Mc.ok [256 * v.toNat + (bankGet s b).trim.toNat, o.wb] (clearBank b (bankSet b { bankGet s b with trim := v } s)) := by
  rw [bankTrimmed, ho]
  dsimp only
  rw [if_pos ⟨hk, hp⟩, ← ho]

/-- Calibration with none retires the bank. -/
theorem bankTrimmed_none : bankTrimmed b none s = retireBank b s := by
  rw [bankTrimmed, ho]
  dsimp only
  rw [if_pos ⟨hk, hp⟩]

end

/-- A bank as it retires. -/
def retiredBank (k : Bank) : Bank := { k with retired := true, retires := min 15 (k.retires + 1), sweep := some 0 }

/-- The frames of a bank that retires are poisoned. -/
theorem retireBank_eq {b : Nat} {s : State} (h : (bankGet s b).retired = false) : ∃ t, OnlyChanges [.arr] (bankSet b (retiredBank (bankGet s b)) s) t ∧
    retireBank b s = endTrim b t := by
  let v := bankSet b (retiredBank (bankGet s b)) s
  refine ⟨(bankFrameKeys b (usedFrames v)).foldl (fun s k => tagSet k { tagGet s k with poi := true } s) v,
    foldl_only (fun _ _ => tagSet_only ..) _ _, ?_⟩
  rw [retireBank, h]
  rfl

theorem endTrim_trim {b : Nat} {s : State} {o : BankOp} (h : (bankGet s b).op = some o) (hk : o.kind = .trim) : endTrim b s =
    mbxDone o.mbx Mc.efault [257 * (bankGet s b).trim.toNat, o.wb] (raise Cause.bank (bankSet b { bankGet s b with op := none } s)) := by
  rw [endTrim, h]
  exact if_pos hk

theorem mbxDone_stat (t c : Nat) (r : List Nat) (s : State) : (mbxDone t c r s).ints.stat = s.ints.stat := setInts_stat ..

theorem raise_mbx (c : Nat) (s : State) : (raise c s).ints.mbx = s.ints.mbx := setInts_mbx ..

/-- A bank that calibration gives no setting retires, and its BANK_TRIM ends with EFAULT (R280). -/
theorem retireBank_trim {b : Nat} {s : State} {o : BankOp} (c : Canonical s) (hr : (bankGet s b).retired = false) (ho : (bankGet s b).op = some o)
    (hk : o.kind = .trim) : Ended s (retireBank b s) o.mbx Mc.efault [257 * (bankGet s b).trim.toNat, o.wb] ∧
      bankGet (retireBank b s) b = { retiredBank (bankGet s b) with op := none } ∧
      (retireBank b s).ints.stat.getLsbD Cause.bank = true ∧ OnlyChanges [.banks, .arr, .mbx, .ints, .d0] s (retireBank b s) := by
  obtain ⟨t, f, e⟩ := retireBank_eq hr
  have ct : swf (fun _ => Bank.reset) t.banks = true := by rw [f.banks]; exact c.bankSet.banks
  have g : bankGet t b = retiredBank (bankGet s b) := (bankGet_congr f.banks b).trans (bankGet_bankSet b _ c.banks)
  rw [endTrim_trim (by rw [g]; exact ho) hk, g] at e
  let v := bankSet b { retiredBank (bankGet s b) with op := none } t
  have r := raise_only Cause.bank v
  have d := mbxDone_only o.mbx Mc.efault [257 * (bankGet s b).trim.toNat, o.wb] (raise Cause.bank v)
  have sf : OnlyChanges [.banks, .arr] s v := (((bankSet_only b (retiredBank (bankGet s b)) s).le _).then f).then (bankSet_only ..)
  have m : (raise Cause.bank v).mbx = s.mbx := (r.same .mbx (by decide)).trans (sf.same .mbx (by decide))
  have w := mbxDone_ended o.mbx Mc.efault [257 * (bankGet s b).trim.toNat, o.wb] (raise Cause.bank v) (by rw [m]; exact c.mbx)
  rw [e]
  refine ⟨w.since ((raise_mbx ..).trans (congrArg Ints.mbx sf.ints)) fun j _ => mbxGet_congr m j, ?_, ?_, ((sf.le _).then r).then d⟩
  · exact (bankGet_congr (d.banks.trans r.banks) b).trans (bankGet_bankSet b _ ct)
  · exact (congrArg (·.getLsbD Cause.bank) (mbxDone_stat ..)).trans (raise_getLsbD Cause.bank (by decide) v)

end Sys2Proof.Machine

namespace Sys2Proof
open Machine

/-- Settles O51: each command and step by what it leaves of its bank. -/
theorem bankService : Obligations.BankService := by
  refine ⟨fun s rest h hb => ?_, fun s rest h hb => ?_, fun s rest h hb c => ⟨bankOnline_waits h hb, bankOnline_serves h hb c⟩,
    fun b s o h hc hn ho hp hk => ?_, fun b s i h hc hn ho hi => ⟨_, rfl, bankStep_retired h hc hn ho hi⟩, fun b s o ho hk hp c => ⟨fun v => ?_, fun hr => ?_⟩⟩
  · exact ⟨_, bankOffline_starts h hb, h.starts (by decide) ..⟩
  · exact ⟨_, bankTrim_starts h hb, h.starts (by decide) ..⟩
  · obtain ⟨t, k, f, others, bank, e⟩ := bankStep_command h hc hn ho hp hk
    have m := bankSwept_only b.val t
    refine ⟨_, congrArg Host.Outcome.next e, k.congr m.arr m.mp, (bankGet_congr m.banks _).trans bank, fun j hj => (bankGet_congr m.banks j).trans (others j hj),
      fun l => ?_, (f.le _).then m⟩
    rw [bankSwept_early (o := lineVisited o (tagGet s (bankKey b.val o.pos))) (by rw [bank]) (Nat.ne_of_lt l)]
    exact f.same .pw (by decide)
  · obtain ⟨ended, bank, cleared, frame⟩ := bankDone_served (b := b.val) (k := { bankGet s b.val with trim := v }) c ho Mc.ok
      [256 * v.toNat + (bankGet s b.val).trim.toNat, o.wb]
    exact ⟨_, congrArg Host.Outcome.next (bankTrimmed_some ho hk hp v), ended, bank, cleared, frame⟩
  · obtain ⟨ended, bank, stat, frame⟩ := retireBank_trim c hr ho hk
    exact ⟨_, congrArg Host.Outcome.next (bankTrimmed_none ho hk hp), ended, by rw [bank]; rfl, by rw [bank]; rfl, by rw [bank], stat, frame.le _⟩

end Sys2Proof
end

section
/-! SUPPORT. Fen commands at the head of the start queue, and the frames they set aside and return (O28: R84 to R87, R91). -/

namespace Sys2Proof.Machine

-- One declaration after the other: the threads of declarations that wait for one another exhaust the memory that a compile may take.
set_option Elab.async false

/-! ### Commands that complete -/

/-- A mailbox that holds a command ends it, whatever the store. -/
theorem mbxDone_ended_op {t : Nat} {s : State} (h : (mbxGet s t).op ≠ 0) (c : Nat) (r : List Nat) : Ended s (mbxDone t c r s) t c r := by
  have e : mbxGet (mbxDone t c r s) t = { mbxGet s t with res := resWords r, code := BitVec.ofNat 4 c, busy := false, phase := .idle, inF := [], got := [],
                                                          pend := [], wait := 0 } :=
    (raiseMbx_get ..).trans (mbxGet_mbxSet_self _ _ fun e => h (congrArg Mbx.op e))
  exact ⟨by rw [e], by rw [e], by rw [e], by rw [e], by rw [e], raiseMbx_mbx .., fun j hj => (raiseMbx_get ..).trans (mbxGet_mbxSet_ne _ _ hj)⟩

section
variable {s v : State} {t op : Nat} {rest : List Nat} {l : List Part}

/-- A command that ends in the step that starts it has completed. -/
theorem Heads.completes (h : Heads s op t rest) (ho : op ≠ 0) (code : Nat) (res : List Nat) (k : OnlyChanges l (atStart s t rest) v)
    (hm : .mbx ∉ l := by decide) (hq : .startQ ∉ l := by decide) (hi : .ints ∉ l := by decide) :
    Completes s (mbxDone t code res v) t rest code res l := by
  have m : ∀ j, mbxGet v j = mbxGet (atStart s t rest) j := mbxGet_congr (k.same .mbx hm)
  have o : (mbxGet v t).op ≠ 0 := by
    rw [m, h.atStart_get ho]
    exact fun z => ho (h.opcode.symm.trans (congrArg BitVec.toNat z))
  have d := mbxDone_only t code res v
  refine ⟨(mbxDone_ended_op o code res).since (congrArg Ints.mbx (k.ints hi)) fun j hj => ?_, ?_, ?_⟩
  · exact (m j).trans (mbxGet_mbxSet_ne _ _ hj)
  · exact (d.same .startQ (by decide)).trans (k.same .startQ hq)
  · exact (((atStart_only s t rest).mono (by simp [mbxParts])).trans (k.mono (by simp))).trans (d.mono (by simp [mbxParts]))

end

theorem fenOnly (x : FenSt) (s : State) : OnlyChanges [.fen] s { s with fen := x } :=
  ⟨fun q hq => by cases q <;> first | rfl | exact absurd (by simp) hq⟩

/-! ### The lines of frames (R60, R83) -/

/-- A way holds a line of the frame that it is numbered by. -/
theorem keyFrame_frameKey {f l : Nat} (hf : f < 1024) (hl : l < 512) : keyFrame (frameKey f l) = f := by
  have way : 4 * (f / 128) + l % 4 < 32 := by omega
  have set : frameKey f l / 32 = 128 * (f % 128) + l / 4 := by
    rw [frameKey, wkey, Nat.mul_add_div (by decide), Nat.div_eq_of_lt way, Nat.add_zero]
  rw [keyFrame, set, frameKey, wkey, Nat.mul_add_mod, Nat.mod_eq_of_lt way]
  omega

theorem mem_framesKeys {fs : List Nat} {k : Nat} : k ∈ fs.flatMap frameKeys ↔ ∃ f ∈ fs, ∃ l < 512, frameKey f l = k := by
  simp [frameKeys]

/-- A way outside some frames holds none of their lines. -/
theorem not_mem_framesKeys {fs : List Nat} (hf : ∀ f ∈ fs, f < 1024) {k : Nat} (h : keyFrame k ∉ fs) : k ∉ fs.flatMap frameKeys := by
  rw [mem_framesKeys]
  rintro ⟨f, m, l, hl, rfl⟩
  exact h (by rwa [keyFrame_frameKey (hf f m) hl])

/-- Ways that are given one tag hold it; the others are as they were. -/
theorem tagGet_foldl_tagSet (e : TagE) (ks : List Nat) {s : State} (h : ArrWf s) (k : Nat) :
    tagGet (ks.foldl (fun s k => tagSet k e s) s) k = if k ∈ ks then e else tagGet s k := by
  induction ks generalizing s with
  | nil => rfl
  | cons j ks ih =>
    have g := tagSet_lineAt h j e
    rw [List.foldl_cons, ih (h.tagSet j e)]
    by_cases m : k ∈ ks
    · rw [if_pos m, if_pos (List.mem_cons_of_mem _ m)]
    · by_cases x : k = j
      · rw [if_neg m, x, if_pos List.mem_cons_self, g.tag]
      · rw [if_neg m, if_neg (by simp [x, m]), g.tags k x]

/-- Giving tags leaves the lines. -/
theorem foldl_tagSet_data (e : TagE) (ks : List Nat) (s : State) : (ks.foldl (fun s k => tagSet k e s) s).arr.data = s.arr.data := by
  induction ks generalizing s with
  | nil => rfl
  | cons j ks ih => exact ih _

section
variable {fs : List Nat} {tc : BitVec 4} {s : State}

/-- Frames are zeroed by the removal of the lines that their ways hold, then by their tags. -/
theorem zeroFrames_eq (fs : List Nat) (tc : BitVec 4) (s : State) : ∃ b, zeroFrames fs tc s =
    (fs.flatMap frameKeys).foldl (fun s k => tagSet k { TagE.zero with v := true, tc := tc } s)
      { s with arr := { s.arr with data := s.arr.data.filter fun x => !fs.contains (keyFrame x.1) }, bad := b } := ⟨_, rfl⟩

theorem zeroFrames_only (fs : List Nat) (tc : BitVec 4) (s : State) : OnlyChanges [.arr, .bad] s (zeroFrames fs tc s) := by
  obtain ⟨b, e⟩ := zeroFrames_eq fs tc s
  rw [e]
  refine OnlyChanges.then ?_ (foldl_only (l := [.arr]) (fun _ _ => tagSet_only ..) _ _)
  exact ⟨fun q hq => by cases q <;> first | rfl | exact absurd (by simp) hq⟩

theorem dropFrames_only (fs : List Nat) (s : State) : OnlyChanges [.arr] s (dropFrames fs s) := foldl_only (fun _ _ => tagSet_only ..) _ _

/-- The tags that zeroed frames hold are valid and their owner's (R62, R84). -/
theorem tagGet_zeroFrames (h : ArrWf s) (k : Nat) :
    tagGet (zeroFrames fs tc s) k = if k ∈ fs.flatMap frameKeys then { TagE.zero with v := true, tc := tc } else tagGet s k := by
  obtain ⟨b, e⟩ := zeroFrames_eq fs tc s
  rw [e, tagGet_foldl_tagSet]
  · rfl
  · exact ⟨h.tags, swf_filter _ _ _ h.data⟩

/-- The lines of zeroed frames read 0 (R84). -/
theorem dataGet_zeroFrames (k : Nat) : dataGet (zeroFrames fs tc s) k = if keyFrame k ∈ fs then 0 else dataGet s k := by
  obtain ⟨b, e⟩ := zeroFrames_eq fs tc s
  rw [dataGet, e, foldl_tagSet_data, sget_filter (fun _ => (0 : Line)) s.arr.data fun k => !fs.contains (keyFrame k)]
  by_cases m : keyFrame k ∈ fs <;> simp [m, dataGet]

theorem tagGet_dropFrames (h : ArrWf s) (k : Nat) : tagGet (dropFrames fs s) k = if k ∈ fs.flatMap frameKeys then TagE.zero else tagGet s k :=
  tagGet_foldl_tagSet _ _ h k

end

/-! ### FEN_ALLOC (R84, R86, R91) -/

/-- The segment that a FEN_ALLOC of mailbox `t` makes of the frames set aside for it. -/
def askedSeg (s : State) (t : Nat) : Seg := allocSeg s t (argF s t 0 24 6) ((freeFrames s (argF s t 1 16 8)).take (framesAsked s t))

section
variable {s : State} {t : Nat} {rest : List Nat}

/-- FEN_ALLOC makes the segment of the arguments that the mailbox holds as its command comes to the head. -/
theorem Heads.askedSeg_atStart {op : Nat} (h : Heads s op t rest) (ho : op ≠ 0) : askedSeg (atStart s t rest) t = askedSeg s t := by
  have f : ∀ x, freeFrames (atStart s t rest) x = freeFrames s x := fun _ => rfl
  simp only [askedSeg, allocSeg, framesAsked, f, h.atStart_argF ho, h.atStart_argB ho]

theorem fenAlloc_starts (h : Heads s 0x10 t rest) (mask : t = 0 ∨ argF s t 1 0 16 &&& (0xFFFF - 2 ^ t) = 0)
    (rsv : argRsv s t [(0, 30, 2), (0, 20, 4), (0, 11, 5), (1, 24, 8), (2, 28, 3)] = false) (some_ : 1 ≤ argF s t 0 0 11)
    (few : argF s t 0 0 11 ≤ 1024) (idle : commitArmed s = false) (present : s.pins.present = true) (one : argB s t 0 19 = false)
    (free : segTaken s (argF s t 0 24 6) = false) (room : framesAsked s t ≤ (freeFrames s (argF s t 1 16 8)).length) :
    exec .fenAlloc s = .next (mbxWork t { atStart s t rest with fen :=
      { s.fen with zeroing := s.fen.zeroing ++ [{ seg := askedSeg s t, mbx := t }] } }) := by
  have m : ¬ (¬ t = 0 ∧ ¬ argF s t 1 0 16 &&& (0xFFFF - 2 ^ t) = 0) := fun x => mask.elim x.1 x.2
  have id : argF s t 0 24 6 ≠ 64 := Nat.ne_of_lt (fld_lt ..)
  have i : commitArmed (atStart s t rest) = false := idle
  have p : noDatapath (atStart s t rest) = false := by rw [noDatapath, show (atStart s t rest).pins = s.pins from rfl, present]; rfl
  have g : segTaken (atStart s t rest) (argF s t 0 24 6) = false := free
  have r : ¬ (freeFrames (atStart s t rest) (argF s t 1 16 8)).length < framesAsked s t := Nat.not_lt.mpr room
  have e : fenAllocCmd t (atStart s t rest) = mbxWork t { atStart s t rest with fen :=
      { s.fen with zeroing := s.fen.zeroing ++ [{ seg := askedSeg (atStart s t rest) t, mbx := t }] } } := by
    rw [framesAsked] at r
    simp only [fenAllocCmd, askedSeg, framesAsked, h.atStart_argF (by decide), h.atStart_argB (by decide), h.atStart_argRsv (by decide), one]
    refine checked_pass ?_
    simp [firstOf, frameChecks, m, rsv, i, p, g, r, id, Nat.ne_of_gt some_, Nat.not_lt.mpr few]
  rw [h.askedSeg_atStart (by decide)] at e
  exact congrArg _ ((cmdRun_heads h rfl).trans e)

/-- FEN_FREE takes its segment away, and its frames wait (R87). -/
theorem fenFree_frees {g : Seg} (h : Heads s 0x11 t rest) (perm : segPerm s t (argF s t 0 0 6) = true) (rsv : argF s t 0 6 26 = 0)
    (found : segFind s (argF s t 0 0 6) = some g) (still : xferOn s (argF s t 0 0 6) = false) (closed : ∀ r ∈ s.fen.regions, r.seg ≠ argF s t 0 0 6) :
    exec .fenFree s = .next (mbxDone t Mc.ok [] { atStart s t rest with fen :=
      { s.fen with segs := s.fen.segs.filter (·.id ≠ argF s t 0 0 6), reclaims := s.fen.reclaims ++ [segFrames g] } }) := by
  have p : segPerm (atStart s t rest) t (argF s t 0 0 6) = true := perm
  have f : segFind (atStart s t rest) (argF s t 0 0 6) = some g := found
  have x : xferOn (atStart s t rest) (argF s t 0 0 6) = false := still
  have c : ((atStart s t rest).fen.regions.any fun r => r.seg == argF s t 0 0 6) = false :=
    List.any_eq_false.mpr fun r m e => closed r m (eq_of_beq e)
  have e : fenFreeCmd t (atStart s t rest) = mbxDone t Mc.ok [] (segRemove (argF s t 0 0 6) (atStart s t rest)) := by
    simp only [fenFreeCmd, h.atStart_argF (by decide)]
    refine checked_pass ?_
    simp [firstOf, argRsv, h.atStart_argF, rsv, p, f, x, c]
  rw [segRemove, f] at e
  exact congrArg _ ((cmdRun_heads h rfl).trans e)

end

theorem fenAllocated : FenAllocated := by
  refine ⟨fun s t rest h mask rsv some_ few idle present one free room => ?_, fun k s z hz c hf => ?_⟩
  · exact ⟨_, fenAlloc_starts h mask rsv some_ few idle present one free room, h.goesOn (by decide) (fenOnly _ (atStart s t rest)), rfl⟩
  · let v := zeroFrames (segFrames z.seg) z.seg.owner s
    let w : State := { v with fen := { v.fen with zeroing := v.fen.zeroing.eraseIdx k, segs := v.fen.segs ++ [z.seg] } }
    have q : exec (.fenAllocZeroed k) s = .next (mbxDone z.mbx Mc.ok (z.seg.id :: poolRes w) w) := by
      show execFenAllocZeroed k s = _
      rw [execFenAllocZeroed, hz]
    have fv := zeroFrames_only (segFrames z.seg) z.seg.owner s
    have d := mbxDone_only z.mbx Mc.ok (z.seg.id :: poolRes w) w
    have cw : Canonical w := c.zeroFrames.withFen
    have ended := mbxDone_ended z.mbx Mc.ok (z.seg.id :: poolRes w) w cw.mbx
    have pool : poolRes (mbxDone z.mbx Mc.ok (z.seg.id :: poolRes w) w) = poolRes w := by rw [d.eq_blend]; rfl
    refine ⟨_, q, ?_, ?_, fun f m l hl => ⟨?_, ?_⟩, fun j hj => ⟨?_, ?_⟩, ?_⟩
    · rw [pool]
      exact ended.since (congrArg Ints.mbx fv.ints) fun j _ => mbxGet_congr (fv.same .mbx (by decide)) j
    · refine (d.same .fen (by decide)).trans ?_
      show FenSt.mk .. = FenSt.mk ..
      rw [show v.fen = s.fen from fv.same .fen (by decide)]
    · rw [dataGet_arr (s := v) d.arr, dataGet_zeroFrames, keyFrame_frameKey (hf f m) hl, if_pos m]
    · rw [tagGet_arr (s := v) d.arr, tagGet_zeroFrames c.arrWf, if_pos (mem_framesKeys.mpr ⟨f, m, l, hl, rfl⟩)]
    · rw [tagGet_arr (s := v) d.arr, tagGet_zeroFrames c.arrWf, if_neg (not_mem_framesKeys hf hj)]
    · rw [dataGet_arr (s := v) d.arr, dataGet_zeroFrames, if_neg hj]
    · exact ((fv.le _).then (fenOnly _ v)).then d

theorem fenFreed : FenFreed := by
  refine ⟨fun s t rest g h perm rsv found still closed => ?_, fun k s fs hk idle c hf => ?_⟩
  · exact ⟨_, fenFree_frees h perm rsv found still closed, h.completes (by decide) Mc.ok [] (fenOnly _ (atStart s t rest)),
      (mbxDone_only ..).same .fen (by decide)⟩
  · let v : State := { s with fen := { s.fen with reclaims := s.fen.reclaims.eraseIdx k } }
    have q : exec (.fenFreeReclaim k) s = .next (dropFrames fs v) := by
      show execFenFreeReclaim k s = _
      rw [execFenFreeReclaim, hk]
      exact congrArg _ (if_neg (by simpa using idle))
    have d := dropFrames_only fs v
    refine ⟨_, q, d.same .fen (by decide), fun f m l hl => ?_, fun j hj => ?_, foldl_tagSet_data .., ((fenOnly _ s).le _).then d⟩
    · rw [tagGet_dropFrames (s := v) (c.arrWf.of_arr rfl), if_pos (mem_framesKeys.mpr ⟨f, m, l, hl, rfl⟩)]
    · exact (tagGet_dropFrames (s := v) (c.arrWf.of_arr rfl) j).trans (if_neg (not_mem_framesKeys hf hj))

end Sys2Proof.Machine

namespace Sys2Proof
open Machine

/-- Settles O28: frames are zeroed and dropped way by way, each way being of one frame. -/
theorem fenFrames : Obligations.FenFrames := ⟨fenAllocated, fenFreed⟩

end Sys2Proof
end

section
/-! SUPPORT. Transfers between Fen segments and their backing lines (O29: R88 to R90). -/

namespace Sys2Proof.Machine

-- One declaration after the other: the threads of declarations that wait for one another exhaust the memory that a compile may take.
set_option Elab.async false

/-! ### FEN_LOAD and FEN_FLUSH start -/

section
variable {s : State} {t op : Nat} {rest : List Nat} {g : Seg} {b : Bool}

/-- The transfer is that of the arguments that the mailbox holds as its command comes to the head. -/
theorem Heads.newXfer_atStart (h : Heads s op t rest) (ho : op ≠ 0) (load b : Bool) : newXfer (atStart s t rest) t load b = newXfer s t load b := by
  simp only [newXfer, h.atStart_argF ho, h.atStart_argB ho]

/-- A transfer whose arguments are in order goes on as work. -/
theorem TransferOk.starts (k : TransferOk s t g b) (h : Heads s op t rest) (ho : op ≠ 0) (load : Bool) :
    transferCmd load t (atStart s t rest) =
      mbxWork t { atStart s t rest with fen := { s.fen with xfers := s.fen.xfers ++ [newXfer s t load b] } } := by
  obtain ⟨perm, lines, rsv, aligned, inFen, present, seg, inside, backed, noFlip, free, copy⟩ := k
  have pm : segPerm (atStart s t rest) t (argF s t 0 24 6) = true := perm
  have pr : noDatapath (atStart s t rest) = false := by rw [noDatapath, show (atStart s t rest).pins = s.pins from rfl, present]; rfl
  have sg : segFind (atStart s t rest) (argF s t 0 24 6) = some g := seg
  have fr : xferOn (atStart s t rest) (argF s t 0 24 6) = false := free
  have cp : copyOf (atStart s t rest) g (BitVec.ofNat 2 (argF s t 0 16 2)) = some b := copy
  rw [← h.newXfer_atStart ho load b]
  simp only [transferCmd, h.atStart_argF ho, h.atStart_argRsv ho, sg, Option.bind_some, cp]
  refine checked_pass ?_
  simp [firstOf, pm, lines, rsv, aligned, show _ ≤ 67108864 from inFen, pr, Nat.not_lt.mpr inside, backed, noFlip, fr]

/-- The row of a transfer at the head of the start queue starts it (R88). -/
theorem TransferOk.goesOn (k : TransferOk s t g b) (h : Heads s op t rest) (ho : op ≠ 0) (load : Bool) :
    ∃ u, cmdRun op anySub (transferCmd load) s = u ∧ GoesOn s u t rest [.fen] ∧
      u.fen = { s.fen with xfers := s.fen.xfers ++ [newXfer s t load b] } :=
  ⟨_, (cmdRun_heads h rfl).trans (k.starts h ho load), h.goesOn ho (fenOnly _ (atStart s t rest)), rfl⟩

end

/-! ### A line is issued (R88, R89) -/

/-- The fields of a request of the slice's own, as its message leaves on D0 (R52, R88). -/
theorem ownSend_fields {op a n : Nat} (ho : op < 2 ^ 6) (ha : a < 2 ^ 44) (hn : n < 2 ^ 8) (beats : List (BitVec 512)) (be : List (BitVec 64))
    (k : OwnKind) (s : State) : ∃ o, (ownSend op a n beats be k s).d0 = { s.d0 with out := s.d0.out ++ [o] } ∧ hOpcode o.msg = op ∧ hAddr o.msg = a ∧
      hLen o.msg = n ∧ hTxid o.msg = s.srv.ownTx.toNat ∧ o.msg.beats = beats := by
  refine ⟨_, rfl, ?_, ?_, ?_, ?_, rfl⟩
  · exact (fld_pack (v := op) (by simp) (by simp) (by decide)).trans (Nat.mod_eq_of_lt ho)
  · exact (fld_pack (v := a) (by simp) (by simp) (by decide)).trans (Nat.mod_eq_of_lt ha)
  · exact (fld_pack (v := n) (by simp) (by simp) (by decide)).trans (Nat.mod_eq_of_lt hn)
  · exact (fld_pack (v := s.srv.ownTx.toNat) (by simp) (by simp) (by decide)).trans (Nat.mod_eq_of_lt s.srv.ownTx.isLt)

theorem xferMod_only (i : Nat) (f : Xfer → Xfer) (s : State) : OnlyChanges [.fen] s (xferMod i f s) := fenOnly _ s

theorem segFind_id {s : State} {i : Nat} {g : Seg} (h : segFind s i = some g) : g.id = i := by simpa using List.find?_some h

/-- The next line of a transfer leaves: a RD of its backing line, or a WR of what its frame line holds (R88, R89). -/
theorem xferIssue_sends {s : State} {x : Xfer} {g : Seg} {off k : Nat} (ho : off = x.off + 128 * x.next) (hk : k = locKey (fenLoc g x.copyB off))
    (hb : s.bad = []) (h : x.load = true ∨ (tagGet s k).poi = false ∧ keyRetired s k = false) :
    ∃ v be, OnlyChanges [.ctr] s v ∧ xferIssue x g s = ownSend (if x.load then Op.rd else Op.wr) ((backLine g off).toNat * 128) 128
      (if x.load then [] else [lineBeat (dataGet s k) 0, lineBeat (dataGet s k) 1]) be (.xfer g.id off) (xferMod g.id (lineSent off) v) := by
  subst ho hk
  by_cases l : x.load = true
  · refine ⟨s, [], .refl _ _, ?_⟩
    rw [xferIssue, l]
    rfl
  · obtain ⟨poi, live⟩ := h.resolve_left l
    refine ⟨useSlot (locKey (fenLoc g x.copyB (x.off + 128 * x.next)) / 32) false none s, [BitVec.allOnes 64, BitVec.allOnes 64], useSlot_only .., ?_⟩
    rw [xferIssue, if_neg l, if_neg l, if_neg l]
    dsimp only
    rw [frameRead_clean none _ (useSlot _ false none s) hb live]
    exact if_neg (ne_true_of_eq_false poi)

/-- What the next line of a transfer leaves: its request on D0, which the slice awaits, and its place among those in flight (R88, R89). -/
theorem xferIssue_leaves {s : State} {x : Xfer} {g : Seg} {off k : Nat} (ho : off = x.off + 128 * x.next) (hk : k = locKey (fenLoc g x.copyB off))
    (hb : s.bad = []) (h : x.load = true ∨ (tagGet s k).poi = false ∧ keyRetired s k = false) :
    ∃ o, (xferIssue x g s).d0 = { s.d0 with out := s.d0.out ++ [o] } ∧ hOpcode o.msg = (if x.load then Op.rd else Op.wr) ∧
      hAddr o.msg = (backLine g off).toNat * 128 ∧ hLen o.msg = 128 ∧ hTxid o.msg = s.srv.ownTx.toNat ∧
      o.msg.beats = (if x.load then [] else [lineBeat (dataGet s k) 0, lineBeat (dataGet s k) 1]) ∧
      (xferIssue x g s).srv = { s.srv with own := s.srv.own ++ [{ txid := s.srv.ownTx, kind := .xfer g.id off }], ownTx := s.srv.ownTx + 1 } ∧
      (xferIssue x g s).fen = { s.fen with xfers := lmod (·.seg = g.id) (lineSent off) s.fen.xfers } ∧
      OnlyChanges [.fen, .srv, .d0, .ctr] s (xferIssue x g s) := by
  obtain ⟨v, be, vf, e⟩ := xferIssue_sends ho hk hb h
  have w := (vf.le [.fen, .srv, .d0, .ctr]).then (xferMod_only g.id (lineSent off) v)
  have bound : (backLine g off).toNat * 128 < 2 ^ 44 := by have := (backLine g off).isLt; omega
  obtain ⟨o, out, op, addr, len, txid, beats⟩ := ownSend_fields (op := if x.load then Op.rd else Op.wr) (n := 128) (by split <;> decide) bound (by decide)
    (if x.load then [] else [lineBeat (dataGet s k) 0, lineBeat (dataGet s k) 1]) be (.xfer g.id off) (xferMod g.id (lineSent off) v)
  have d0 : v.d0 = s.d0 := vf.same .d0 (by decide)
  have fen : v.fen = s.fen := vf.same .fen (by decide)
  have srv : (xferMod g.id (lineSent off) v).srv = s.srv := vf.srv
  rw [e]
  refine ⟨o, ?_, op, addr, len, by rw [txid, srv], beats, by rw [ownSend_srv, srv], ?_, w.then (ownSend_only ..)⟩
  · rw [out, show (xferMod g.id (lineSent off) v).d0 = s.d0 from d0]
  · show FenSt.mk .. = FenSt.mk ..
    rw [fen]

/-- A transfer that may issue a line does (R88). -/
theorem exec_transferLineIssue {i : Fin 64} {s : State} {x : Xfer} {g : Seg} (hx : s.fen.xfers.find? (·.seg = i.val) = some x)
    (hg : segFind s i.val = some g) (hi : x.infl.length < 64) (hf : x.fail = none) (hn : x.next < x.lines) :
    exec (.transferLineIssue i) s = .next (xferIssue x g s) := by
  show execTransferLineIssue i s = _
  simp only [execTransferLineIssue, hx, hg]
  rw [if_pos (by simp [hi, hf, hn])]

/-! ### Additions of the slice's own (R90, R92, R203) -/

theorem TallyGrows.congr {s s' u u' : State} {t n : Nat} (h : TallyGrows s u t n) (hs : s'.tal = s.tal) (hu : u'.tal = u.tal) : TallyGrows s' u' t n := by
  unfold TallyGrows tallyVal at *
  rwa [hs, hu]

/-- An addition of the slice's own to a tally that is named if `b` holds (R90, R92, R203). -/
theorem tallyAdd_when {b : Bool} {t n o : Nat} {s v u : State} (hu : u = if b then tallyAdd t n none o v else v) (hb : v.bad = [])
    (c : swf (fun _ => 0) s.tal.val = true) (e : v.tal = s.tal) :
    (if b then TallyGrows s u t n else u.tal = s.tal) ∧ OnlyChanges [.tal, .ctr] v u := by
  subst hu
  cases b with
  | true => exact ⟨(tallyAdd_grows t n none o v (e ▸ c) hb).congr e.symm rfl, tallyAdd_clean_only t n none o v hb⟩
  | false => exact ⟨e, .refl _ _⟩

/-! ### A line comes in (R88, R90) -/

/-- A transfer that has lines to issue goes on. -/
theorem xferEnd_going {i : Nat} {s : State} {x : Xfer} (h : s.fen.xfers.find? (·.seg = i) = some x) (hf : x.fail = none) (hn : x.next < x.lines) :
    xferEnd i s = s := by
  rw [xferEnd, h]
  exact if_pos (.inr ⟨by rw [hf]; rfl, hn⟩)

/-- The answer to a line of a transfer goes to it (R88). -/
theorem exec_transferLineResponse {tx : BitVec 16} {s : State} {seg off : Nat} {x : Xfer} {g : Seg} (ho : ownFind s tx = some (.xfer seg off))
    (hx : s.fen.xfers.find? (·.seg = seg) = some x) (hg : segFind s seg = some g) (d : Line) :
    exec (.transferLineResponse tx 0 d) s = .next (xferAnswer x g off 0 d (ownDrop tx s)) := by
  show execTransferLineResponse tx 0 d s = _
  simp only [execTransferLineResponse, ho, hx, hg]
  rfl

/-- A transfer whose line at an offset has been answered. -/
def lineDone (off : Nat) (x : Xfer) : Xfer := { x with infl := x.infl.filter (· ≠ off) }

/-- A whole line that comes in OK replaces the frame line, and clears its POI (R353). -/
theorem frameWrite_whole {s : State} (h : ArrWf s) {k : Nat} (hr : keyRetired s k = false) (d : Line) :
    LineAt s (frameWrite k d fullMask true false s) k { tagGet s k with poi := false } d := by
  have w := putLine_lineAt h k { tagGet s k with poi := false } d fullMask
  rw [lineMerge_full] at w
  rw [frameWrite, hr, if_neg Bool.false_ne_true]
  dsimp only
  rw [Bool.not_true, Bool.and_false, Bool.or_false]
  exact w

/-- A line that comes in OK for a load is written, watched and counted (R88, R90). -/
theorem xferAnswer_load {s : State} {x : Xfer} {g : Seg} (hl : x.load = true) (off : Nat) (d : Line) (hb : s.bad = []) {k : Nat}
    (hk : k = locKey (fenLoc g x.copyB off)) : ∃ a, xferAnswer x g off 0 d s = xferEnd g.id (
      let v := watchAcc a (frameWrite k d fullMask true false (useSlot (k / 32) true none (xferMod g.id (lineDone off) s)))
      if x.ten then tallyAdd x.tally.toNat 128 none 7 v else v) := by
  subst hk
  rw [xferAnswer, hl]
  dsimp only [St.ok]
  simp only [true_or, if_true]
  rw [setCheck_clean]
  · exact ⟨_, rfl⟩
  · exact hb

/-- What a line of a load leaves as it comes in OK, while others are to be issued (R88, R90). -/
theorem xferAnswer_loaded {s : State} {seg off : Nat} {x : Xfer} {g : Seg} (d : Line) (hx : s.fen.xfers.find? (·.seg = seg) = some x)
    (hg : g.id = seg) (hl : x.load = true) (hf : x.fail = none) (hn : x.next < x.lines) (hb : s.bad = []) (c : Canonical s) {k : Nat}
    (hk : k = locKey (fenLoc g x.copyB off)) (hr : keyRetired s k = false) :
    LineAt s (xferAnswer x g off 0 d s) k { tagGet s k with poi := false } d ∧
      (if x.ten then TallyGrows s (xferAnswer x g off 0 d s) x.tally.toNat 128 else (xferAnswer x g off 0 d s).tal = s.tal) ∧
      (xferAnswer x g off 0 d s).fen = { s.fen with xfers := lmod (·.seg = seg) (lineDone off) s.fen.xfers } ∧
      OnlyChanges [.arr, .fen, .tal, .ctr, .peat, .d0, .ints, .log] s (xferAnswer x g off 0 d s) := by
  subst hg
  obtain ⟨a, e⟩ := xferAnswer_load (s := s) hl off d hb hk
  let t := useSlot (k / 32) true none (xferMod g.id (lineDone off) s)
  let v := watchAcc a (frameWrite k d fullMask true false t)
  let u := if x.ten then tallyAdd x.tally.toNat 128 none 7 v else v
  have tf : OnlyChanges [.fen, .ctr] s t := ((xferMod_only ..).le _).then (useSlot_only ..)
  have w := frameWrite_whole (c.arrWf.of_arr tf.arr) (k := k) (s := t) hr d
  have vf : OnlyChanges [.arr, .peat, .ints, .log, .d0] t v := ((frameWrite_only k d fullMask true false t hb).le _).then (watchAcc_only ..)
  have wf := watchAcc_only a (frameWrite k d fullMask true false t)
  have vb : v.bad = [] := vf.bad.trans hb
  obtain ⟨grows, uf⟩ := tallyAdd_when (u := u) rfl vb c.tal vf.tal
  have f := ((tf.le [.arr, .fen, .tal, .ctr, .peat, .d0, .ints, .log]).then vf).then uf
  have ufen : u.fen = { s.fen with xfers := lmod (·.seg = g.id) (lineDone off) s.fen.xfers } := (uf.same .fen (by decide)).trans (vf.same .fen (by decide))
  have going : xferEnd g.id u = u := by
    refine xferEnd_going (x := lineDone off x) ?_ hf hn
    rw [ufen]
    exact lmod_find_num (n := Xfer.seg) (f := lineDone off) (fun _ => rfl) hx
  rw [show xferAnswer x g off 0 d s = u from e.trans going]
  exact ⟨w.congr tf.arr.symm (uf.arr.trans wf.arr), grows, ufen, f⟩

end Sys2Proof.Machine

namespace Sys2Proof
open Machine

/-- Settles O29: a transfer starts, sends its lines one by one, and takes those that come in. -/
theorem transferMovesLines : Obligations.TransferMovesLines := by
  refine ⟨fun s t rest g b k => ⟨fun h => ?_, fun h => ?_⟩, fun i s x g hx hg hi hf hn hb h => ?_, fun tx d s seg off x g ho hx hg hl hf hn hb c hr => ?_⟩
  · obtain ⟨u, e, r⟩ := k.goesOn h (by decide) true
    exact ⟨u, congrArg Host.Outcome.next e, r⟩
  · obtain ⟨u, e, r⟩ := k.goesOn h (by decide) false
    exact ⟨u, congrArg Host.Outcome.next e, r⟩
  · obtain ⟨o, d0, op, addr, len, txid, beats, srv, fen, frame⟩ := xferIssue_leaves rfl rfl hb h
    rw [segFind_id hg] at srv fen
    exact ⟨_, o, exec_transferLineIssue hx hg hi hf hn, d0, op, addr, len, txid, beats, srv, fen, frame⟩
  · obtain ⟨w, tally, fen, frame⟩ := xferAnswer_loaded (s := ownDrop tx s) d hx (segFind_id hg) hl hf hn hb c.ownDrop rfl hr
    have srv : (xferAnswer x g off 0 d (ownDrop tx s)).srv = _ := frame.srv
    exact ⟨_, exec_transferLineResponse ho hx hg d, w.data, by rw [w.tag], w.datas, w.tags, tally, fen, srv, ((ownDrop_only tx s).le _).then frame⟩

end Sys2Proof
end

section
/-! SUPPORT. Flips of dual Fen segments (O30: R92, R93). -/

namespace Sys2Proof.Machine

-- One declaration after the other: the threads of declarations that wait for one another exhaust the memory that a compile may take.
set_option Elab.async false

theorem segMod_only (i : Nat) (f : Seg → Seg) (s : State) : OnlyChanges [.fen] s (segMod i f s) := fenOnly _ s

/-! ### FEN_FLIP (R92) -/

section
variable {s : State} {t : Nat} {rest : List Nat} {g : Seg}

/-- The flip is that of the arguments that the mailbox holds as its command comes to the head. -/
theorem Heads.newFlip_atStart {op : Nat} (h : Heads s op t rest) (ho : op ≠ 0) : newFlip (atStart s t rest) t = newFlip s t := by
  have m : mArg (atStart s t rest) t 2 = mArg s t 2 := by rw [mArg, mArg, h.atStart_get ho]
  simp only [newFlip, h.atStart_argF ho, h.atStart_argB ho, m]
  rfl

/-- FEN_FLIP on a dual segment with no flip and no transfer arms its flip, and answers with the epochs. -/
theorem fenFlip_arms (h : Heads s 0x14 t rest) (perm : segPerm s t (argF s t 0 24 6) = true)
    (rsv : argRsv s t [(0, 30, 1), (0, 13, 11), (1, 12, 20), (3, 16, 16)] = false) (found : segFind s (argF s t 0 24 6) = some g)
    (dual : g.dual = true) (noFlip : g.flip = none) (still : xferOn s (argF s t 0 24 6) = false) :
    exec .fenFlip s = .next (mbxDone t Mc.ok [4 * ((g.lo.toNat + 1) % 4) + g.lo.toNat]
      (segMod (argF s t 0 24 6) (fun g => { g with flip := some (newFlip s t) }) (atStart s t rest))) := by
  have p : segPerm (atStart s t rest) t (argF s t 0 24 6) = true := perm
  have f : segFind (atStart s t rest) (argF s t 0 24 6) = some g := found
  have x : xferOn (atStart s t rest) (argF s t 0 24 6) = false := still
  have e : fenFlipCmd t (atStart s t rest) = mbxDone t Mc.ok [4 * ((g.lo.toNat + 1) % 4) + g.lo.toNat]
      (segMod (argF s t 0 24 6) (fun g => { g with flip := some (newFlip s t) }) (atStart s t rest)) := by
    rw [← h.newFlip_atStart (by decide)]
    simp only [fenFlipCmd, h.atStart_argF (by decide), h.atStart_argRsv (by decide), f]
    refine checked_pass ?_
    simp [firstOf, p, rsv, dual, noFlip, x]
  exact congrArg _ ((cmdRun_heads h rfl).trans e)

end

/-! ### T and F (R93) -/

section
variable {i : Fin 64} {s : State} {g : Seg} {f : Flip} (hg : segFind s i.val = some g) (hf : g.flip = some f)
include hg hf

/-- The step T of a flip that may take its SCLK does. -/
theorem exec_flipReady (h : flipCanReady s g f = true) : exec (.flipReady i) s = .next (traceEv (flipReadyEv s g f)
    (segMod i.val (fun g => { g with flip := some { f with readyAt := some s.clk.sclk } }) s)) := by
  rw [← segFind_id hg]
  show execFlipReady i s = _
  simp only [execFlipReady, hg, Option.bind_some, hf, Option.map_some]
  rw [if_pos h]

/-- A flip that may take effect does. -/
theorem exec_flipEffect (h : flipCanTake s g f = true) : exec (.flipEffect i) s = .next (flipTake g f s) := by
  show execFlipEffect i s = _
  simp only [execFlipEffect, hg, Option.bind_some, hf, Option.map_some]
  rw [if_pos h]

end

/-- What a flip's effect leaves: the segment's next epoch, its copies in each other's place, and the notify tally one larger. -/
theorem flipTake_leaves {s : State} (g : Seg) (f : Flip) (hb : s.bad = []) (c : Canonical s) :
    (flipTake g f s).fen = { s.fen with segs := lmod (·.id = g.id) (fun g => { g with lo := g.lo + 1, loB := !g.loB, flip := none }) s.fen.segs } ∧
      (if f.nten then TallyGrows s (flipTake g f s) f.ntally.toNat 1 else (flipTake g f s).tal = s.tal) ∧
      OnlyChanges [.fen, .tal, .ctr, .peat] s (flipTake g f s) := by
  let v := segMod g.id (fun g => { g with lo := g.lo + 1, loB := !g.loB, flip := none }) s
  let u := if f.nten then tallyAdd f.ntally.toNat 1 none 7 v else v
  obtain ⟨grows, uf⟩ := tallyAdd_when (s := s) (v := v) (u := u) rfl hb c.tal rfl
  have tf : OnlyChanges [.peat] u (flipTake g f s) := traceEv_only ..
  refine ⟨(tf.same .fen (by decide)).trans (uf.same .fen (by decide)), ?_, (((segMod_only ..).le _).then uf).then tf⟩
  by_cases n : f.nten = true
  · rw [if_pos n] at grows ⊢
    exact grows.congr rfl tf.tal
  · rw [if_neg n] at grows ⊢
    exact tf.tal.trans grows

end Sys2Proof.Machine

namespace Sys2Proof
open Machine

/-- Settles O30: the command, its step T and its effect, each by what it leaves of the segment. -/
theorem flipTakesEffect : Obligations.FlipTakesEffect := by
  refine ⟨fun s t rest g h perm rsv found dual noFlip still => ?_, fun i s g f hg hf h => ?_, fun i s g f hg hf h hb c => ?_⟩
  · exact ⟨_, fenFlip_arms h perm rsv found dual noFlip still, h.completes (by decide) Mc.ok _ (segMod_only _ _ (atStart s t rest)),
      (mbxDone_only ..).same .fen (by decide)⟩
  · exact ⟨_, exec_flipReady hg hf h, (traceEv_only ..).same .fen (by decide), ((segMod_only ..).le _).then (traceEv_only ..)⟩
  · obtain ⟨fen, tally, frame⟩ := flipTake_leaves g f hb c
    rw [segFind_id hg] at fen
    exact ⟨_, exec_flipEffect hg hf h, fen, tally, frame⟩

end Sys2Proof
end

section
/-! SUPPORT. Bytes of a line: what writing and merging leave of each span of it (R29, R41). -/

namespace Sys2Proof.Machine

-- One declaration after the other: the threads of declarations that wait for one another exhaust the memory that a compile may take.
set_option Elab.async false

/-! ### Bits of masks and lines -/

theorem testBit_spreadMask (k m i : Nat) : (spreadMask k m).testBit i = (decide (i < 8 * k) && m.testBit (i / 8)) := by
  induction k with
  | zero => simp [spreadMask]
  | succ k ih =>
    have byte : (if nbit m k then 0xFF <<< (8 * k) else 0).testBit i = (decide (i / 8 = k) && m.testBit k) := by
      cases h : nbit m k
      · simp [show m.testBit k = false from h]
      · have : i - 8 * k < 8 ↔ i < 8 * k + 8 := by omega
        rw [if_pos rfl, show (0xFF : Nat) = 2 ^ 8 - 1 from rfl, Nat.testBit_shiftLeft, Nat.testBit_two_pow_sub_one, show m.testBit k = true from h,
          Bool.and_true, ← Bool.decide_and, decide_eq_decide]
        omega
    rw [spreadMask, Nat.testBit_or, ih, byte]
    by_cases e : i / 8 = k
    · have : ¬ i < 8 * k := by omega
      have : i < 8 * (k + 1) := by omega
      simp [*]
    · have : i < 8 * k ↔ i < 8 * (k + 1) := by omega
      simp [*]

/-- A span of bytes as a mask holds those bytes. -/
theorem getLsbD_spanMask (o n b : Nat) : (spanMask o n).getLsbD b = (decide (b < 128) && decide (o ≤ b ∧ b < o + n)) := by
  rw [spanMask, BitVec.getLsbD_ofNat, Nat.testBit_shiftLeft, Nat.testBit_two_pow_sub_one, ← Bool.decide_and]
  congr 2
  exact propext (by omega)

/-- Each byte of a merge is of the one line or of the other. -/
theorem testBit_lineMerge (d x : Line) (m : Mask) {i : Nat} (h : i < 1024) :
    (lineMerge d x m).toNat.testBit i = if m.getLsbD (i / 8) then x.toNat.testBit i else d.toNat.testBit i := by
  have mask : (BitVec.ofNat 1024 (spreadMask 128 m.toNat)).getLsbD i = m.getLsbD (i / 8) := by
    rw [BitVec.getLsbD_ofNat, testBit_spreadMask, decide_eq_true h, Bool.true_and, Bool.true_and]
    rfl
  rw [← BitVec.getLsbD, lineMerge, BitVec.getLsbD_or, BitVec.getLsbD_and, BitVec.getLsbD_and, BitVec.getLsbD_not, mask]
  cases m.getLsbD (i / 8) <;> simp [h, BitVec.getLsbD]

/-- Bits of a line with a span written. -/
theorem testBit_linePut (d : Line) {o n : Nat} (v : Nat) (h : o + n ≤ 128) {i : Nat} (hi : i < 1024) :
    (linePut d o n v).toNat.testBit i = if 8 * o ≤ i ∧ i < 8 * (o + n) then v.testBit (i - 8 * o) else d.toNat.testBit i := by
  have bound : (2 ^ (8 * n) - 1) <<< (8 * o) < 2 ^ 1024 :=
    (Nat.shiftLeft_lt (Nat.sub_lt (Nat.two_pow_pos _) Nat.one_pos)).trans_le (pow_le_pow_right₀ one_le_two (by omega))
  have span : ((2 ^ (8 * n) - 1) <<< (8 * o)).testBit i = decide (8 * o ≤ i ∧ i < 8 * (o + n)) := by
    rw [Nat.testBit_shiftLeft, Nat.testBit_two_pow_sub_one, ← Bool.decide_and, decide_eq_decide]
    omega
  have keep := Nat.testBit_two_pow_sub_succ bound i
  rw [← BitVec.getLsbD, linePut, BitVec.getLsbD_ofNat, Nat.testBit_or, Nat.testBit_and, Nat.testBit_and, Nat.sub_sub, Nat.add_comm 1,
    keep, span, Nat.testBit_shiftLeft, Nat.testBit_mod_two_pow]
  by_cases e : 8 * o ≤ i ∧ i < 8 * (o + n)
  · have : i - 8 * o < 8 * n := by omega
    simp [*]
  · simp [*]

/-! ### Spans of a line -/

theorem lineNat_congr {d e : Line} {o n : Nat} (h : ∀ i < 8 * n, d.toNat.testBit (8 * o + i) = e.toNat.testBit (8 * o + i)) :
    lineNat d o n = lineNat e o n := by
  refine Nat.eq_of_testBit_eq fun i => ?_
  rw [lineNat, lineNat, testBit_fld, testBit_fld]
  by_cases hi : i < 8 * n
  · rw [h i hi]
  · simp [hi]

section
variable {o n : Nat} (d : Line)

/-- A span that is written reads as written. -/
theorem lineNat_linePut_same (v : Nat) (h : o + n ≤ 128) : lineNat (linePut d o n v) o n = v % 2 ^ (8 * n) := by
  refine Nat.eq_of_testBit_eq fun i => ?_
  rw [lineNat, testBit_fld, Nat.testBit_mod_two_pow]
  by_cases hi : i < 8 * n
  · rw [testBit_linePut d v h (by omega), if_pos (by omega), Nat.add_sub_cancel_left]
  · simp [hi]

/-- A span apart from the one written stays. -/
theorem lineNat_linePut_apart {o' n' : Nat} (v : Nat) (h : o' + n' ≤ 128) (k : o + n ≤ 128) (apart : o + n ≤ o' ∨ o' + n' ≤ o) :
    lineNat (linePut d o' n' v) o n = lineNat d o n :=
  lineNat_congr fun i hi => by rw [testBit_linePut d v h (by omega), if_neg (by omega)]

variable (x : Line) {m : Mask} (h : o + n ≤ 128)
include h

/-- A span in the mask of a merge is of the line merged in. -/
theorem lineNat_lineMerge_in (k : ∀ b, o ≤ b → b < o + n → m.getLsbD b = true) : lineNat (lineMerge d x m) o n = lineNat x o n :=
  lineNat_congr fun i hi => by rw [testBit_lineMerge d x m (by omega), k _ (by omega) (by omega), if_pos rfl]

/-- A span outside the mask of a merge stays. -/
theorem lineNat_lineMerge_out (k : ∀ b, o ≤ b → b < o + n → m.getLsbD b = false) : lineNat (lineMerge d x m) o n = lineNat d o n :=
  lineNat_congr fun i hi => by rw [testBit_lineMerge d x m (by omega), k _ (by omega) (by omega), if_neg Bool.false_ne_true]

end

/-- Elements of one size written side by side from the start of a line: each reads as written. -/
theorem lineNat_foldl_linePut (v : Nat → Nat) (d : Line) {sz c j : Nat} (hc : sz * c ≤ 128) (hj : j < c) :
    lineNat ((List.range c).foldl (fun d j => linePut d (sz * j) sz (v j)) d) (sz * j) sz = v j % 2 ^ (8 * sz) := by
  induction c with
  | zero => cases hj
  | succ c ih =>
    rw [Nat.mul_succ] at hc
    rw [List.range_succ, List.foldl_append, List.foldl_cons, List.foldl_nil]
    rcases Nat.lt_succ_iff_lt_or_eq.mp hj with lt | rfl
    · have before : sz * j + sz ≤ sz * c := Nat.mul_succ sz j ▸ Nat.mul_le_mul_left sz lt
      rw [lineNat_linePut_apart _ _ hc (by omega) (.inl before), ih (by omega) lt]
    · exact lineNat_linePut_same _ _ hc

end Sys2Proof.Machine
end

section
/-! SUPPORT. Exact accumulators and the last contribution of an exact request (O24: R120 to R122, R130, R137). -/

namespace Sys2Proof.Machine

-- One declaration after the other: the threads of declarations that wait for one another exhaust the memory that a compile may take.
set_option Elab.async false

/-! ### Lines written one after the other -/

section
variable {α : Type} (key : α → Nat) (line : α → Line) (m : Mask)

/-- Lines that none of the writes is to stay. -/
theorem dataGet_foldl_dataPut_ne {l : List α} {k : Nat} (h : k ∉ l.map key) (s : State) :
    dataGet (l.foldl (fun s a => dataPut (key a) (line a) m s) s) k = dataGet s k := by
  induction l generalizing s with
  | nil => rfl
  | cons a l ih =>
    rw [List.map_cons, List.mem_cons, not_or] at h
    obtain ⟨first, others⟩ := h
    exact (ih others _).trans (sget_sset_ne _ _ _ first)

/-- Of writes to different lines each leaves its bytes. -/
theorem dataGet_foldl_dataPut {l : List α} (nd : (l.map key).Nodup) {a : α} (h : a ∈ l) {s : State} (w : ArrWf s) :
    dataGet (l.foldl (fun s a => dataPut (key a) (line a) m s) s) (key a) = lineMerge (dataGet s (key a)) (line a) m := by
  induction l generalizing s with
  | nil => cases h
  | cons b l ih =>
    rw [List.map_cons, List.nodup_cons] at nd
    obtain ⟨new, nd⟩ := nd
    rw [List.foldl_cons]
    rcases List.mem_cons.mp h with rfl | h
    · rw [dataGet_foldl_dataPut_ne key line m new, (dataPut_lineAt w ..).data]
    · have ne : key a ≠ key b := fun e => new (e ▸ List.mem_map_of_mem h)
      rw [ih nd h (w.dataPut ..), (dataPut_lineAt w ..).datas _ ne]

theorem foldl_dataPut_tags (l : List α) (s : State) : (l.foldl (fun s a => dataPut (key a) (line a) m s) s).arr.tags = s.arr.tags := by
  induction l generalizing s with
  | nil => rfl
  | cons a l ih => exact ih _

theorem foldl_dataPut_only (l : List α) {s : State} (hb : s.bad = []) :
    OnlyChanges [.arr] s (l.foldl (fun s a => dataPut (key a) (line a) m s) s) := by
  induction l generalizing s with
  | nil => exact .refl _ _
  | cons a l ih =>
    have f := dataPut_only (key a) (line a) m s hb
    exact f.trans (ih (f.bad.trans hb))

end

/-! ### Words of an accumulator (R120) -/

/-- The number that 32-bit words of `v` make up is `v`, cut to as many bits. -/
theorem foldl_words (v m : Nat) : (List.range m).foldl (fun a j => a + fld v (32 * j) 32 * 2 ^ (32 * j)) 0 = v % 2 ^ (32 * m) := by
  induction m with
  | zero => simp [Nat.mod_one]
  | succ m ih =>
    rw [List.range_succ, List.foldl_append, ih, List.foldl_cons, List.foldl_nil, fld, Nat.shiftRight_eq_div_pow, Nat.mul_succ, Nat.pow_add,
      Nat.mod_mul, Nat.mul_comm (2 ^ (32 * m))]

section
variable {s u : State} {r : Region}

/-- Accumulators are read of the array alone. -/
theorem accRead_arr (h : u.arr = s.arr) (r : Region) (n : Nat) : accRead u r n = accRead s r n := by
  simp only [accRead, dataGet_arr h]

/-- An accumulator of which each word is `v`'s reads as `v`, cut to 320 bits. -/
theorem accRead_of_words {n v : Nat}
    (h : ∀ j < 10, lineNat (dataGet u (accKey r (10 * (n / 32) + j))) (4 * (n % 32)) 4 = fld v (32 * j) 32) : accRead u r n = v % 2 ^ 320 := by
  rw [accRead, List.foldl_ext _ (fun a j => a + fld v (32 * j) 32 * 2 ^ (32 * j)) 0 fun a j hj => by rw [h j (List.mem_range.mp hj)]]
  rw [foldl_words, show 32 * 10 = 320 from rfl]

/-- The word that `accWrite` puts into line `j` of a group for element `n`. -/
def accWord (n v j : Nat) : Line := linePut 0 (4 * (n % 32)) 4 (fld v (32 * j) 32)

theorem accWrite_eq (r : Region) (n v : Nat) (s : State) : accWrite r n v s = (List.range 10).foldl
    (fun s j => dataPut (accKey r (10 * (n / 32) + j)) (accWord n v j) (spanMask (4 * (n % 32)) 4) s) s := rfl

/-- An accumulator that is written reads as written, cut to 320 bits (R120). -/
theorem accRead_accWrite {n : Nat} (v : Nat) (nd : (groupKeys r (n / 32)).Nodup) (w : ArrWf s) : accRead (accWrite r n v s) r n = v % 2 ^ 320 := by
  refine accRead_of_words fun j hj => ?_
  have fits : 4 * (n % 32) + 4 ≤ 128 := by omega
  have inSpan : ∀ b, 4 * (n % 32) ≤ b → b < 4 * (n % 32) + 4 → (spanMask (4 * (n % 32)) 4).getLsbD b = true := fun b lo hi => by
    rw [getLsbD_spanMask, decide_eq_true (by omega), decide_eq_true ⟨lo, hi⟩, Bool.and_self]
  rw [accWrite_eq, dataGet_foldl_dataPut (fun j => accKey r (10 * (n / 32) + j)) _ _ nd (List.mem_range.mpr hj) w,
    lineNat_lineMerge_in _ _ fits inSpan, accWord, lineNat_linePut_same _ _ fits]
  exact fld_mod ..

theorem dataGet_accWrite_ne {n v k : Nat} (h : k ∉ groupKeys r (n / 32)) : dataGet (accWrite r n v s) k = dataGet s k :=
  dataGet_foldl_dataPut_ne (fun j => accKey r (10 * (n / 32) + j)) _ _ h s

theorem tagGet_accWrite (n v k : Nat) : tagGet (accWrite r n v s) k = tagGet s k :=
  congrArg (fun t => sget (fun _ => TagE.zero) t k) (foldl_dataPut_tags (fun j => accKey r (10 * (n / 32) + j)) _ _ _ s)

theorem accWrite_only (r : Region) (n v : Nat) (h : s.bad = []) : OnlyChanges [.arr] s (accWrite r n v s) :=
  foldl_dataPut_only (fun j => accKey r (10 * (n / 32) + j)) _ _ _ h

/-! ### A contribution (R121, R122) -/

/-- A group whose lines are in service and not poisoned is found so, and stays as it is. -/
theorem groupCheck_clean (j : Option Subj) (g : Nat) (hb : s.bad = [])
    (h : ∀ k ∈ groupKeys r g, (tagGet s k).poi = false ∧ keyRetired s k = false) : groupCheck j r g s = (false, s) := by
  unfold groupCheck
  generalize groupKeys r g = l at h
  induction l with
  | nil => rfl
  | cons k l ih =>
    obtain ⟨poi, live⟩ := h k List.mem_cons_self
    rw [List.foldl_cons, frameRead_clean j k s hb live, poi]
    exact ih fun k hk => h k (List.mem_cons_of_mem _ hk)

/-- A contribution that is not poisoned is added to the accumulator of its element; counts aside, no more is done. -/
theorem contribute_clean {q : ExactReq} (c : Contr) (hq : q.poi = false) (hb : s.bad = [])
    (h : ∀ k ∈ groupKeys r (c.n / 32), (tagGet s k).poi = false ∧ keyRetired s k = false) :
    ∃ v, OnlyChanges [.ctr] s v ∧ contribute q r c s = (false, accWrite r c.n (accAdd (accRead s r c.n) c) v) := by
  rw [contribute, groupCheck_clean _ _ hb h, hq]
  refine ⟨_, ?_, rfl⟩
  exact (OnlyChanges.ite (occR_only ..) (.refl _ _)).trans (occR_only ..)

end

/-! ### The last contribution of a request (R130, R137) -/

section
variable {s : State} {q : ExactReq} {rest : List ExactReq} {g : Region} {c : Contr}

/-- With storage without errors a request that leaves the exact queue only does that. -/
theorem exactPop_clean (h : s.bad = []) : exactPop s = { s with fen := { s.fen with exactQ := s.fen.exactQ.tail } } := by
  rw [exactPop, h]
  cases s; subst h; rfl

/-- A request of a port that completes after its addition: what is left of it, and all that changes (R45, R130). -/
theorem tallied_completes {r : Req} {t u : State} (n : Nat) (hu : u = deliverComp r false 0 0 (reqTally r n t)) (hr : r.src = .port) (hb : t.bad = [])
    (c : swf (fun _ => 0) t.tal.val = true) : Completed t u r n St.ok 0 ∧ OnlyChanges [.tal, .d0, .d1, .sout, .ctr] t u := by
  subst hu
  refine ⟨deliverComp_completed hr (reqTally_of r n t c hb) false 0 0, ?_⟩
  have added : OnlyChanges [.tal, .ctr] t (reqTally r n t) := .ite (tallyAdd_clean_only _ _ _ _ t hb) (.refl _ _)
  have sent : OnlyChanges [outPart r.port] (reqTally r n t) (deliverComp r false 0 0 (reqTally r n t)) := by
    rw [deliverComp, hr]
    exact respond_only ..
  exact (added.le _).trans (sent.le _ (by cases r.port <;> decide))

/-- The oldest request, with one contribution left, makes it and completes with its bytes in its tally. -/
theorem exactOne_last (hq : s.fen.exactQ = q :: rest) (hg : regionFind s q.rid = some g) (ht : q.todo = [c]) (hm : q.met = false) (hb : s.bad = []) {v : State}
    (hv : contribute q g c s = (false, v)) : exactOne s = deliverComp q.req false 0 0 (reqTally q.req q.bytes (exactPop v)) := by
  rw [exactOne, hq]
  dsimp only
  rw [ctlUse_clean _ _ s hb, hg, ht, hm]
  dsimp only [List.take, List.drop, List.foldl]
  rw [hv]
  rfl

end

end Sys2Proof.Machine

namespace Sys2Proof
open Machine

/-- Settles O24: the contribution is written into the ten lines of its group, word by word, and the request leaves the queue completed. -/
theorem exactAdds : Obligations.ExactAdds := by
  intro s q rest g c hq hg ht hp hm hsrc hb hc nd hk
  obtain ⟨v, vf, add⟩ := contribute_clean (r := g) c hp hb hk
  let w := accWrite g c.n (accAdd (accRead s g c.n) c) v
  have wf : OnlyChanges [.arr, .ctr] s w := (vf.le _).then (accWrite_only g c.n _ (vf.bad.trans hb))
  have popped : exactPop w = { w with fen := { s.fen with exactQ := rest } } := by
    rw [exactPop_clean (wf.bad.trans hb), show w.fen = s.fen from wf.same .fen (by decide), hq, List.tail_cons]
  have tf : OnlyChanges [.arr, .fen, .ctr] s (exactPop w) := popped ▸ (wf.le _).then (fenOnly ..)
  obtain ⟨done, uf⟩ := tallied_completes (t := exactPop w) q.bytes rfl hsrc (tf.bad.trans hb) (tf.tal ▸ hc.tal)
  obtain ⟨tally, o, answer, -⟩ := done
  have arr := uf.arr.trans (show (exactPop w).arr = w.arr by rw [popped])
  refine ⟨_, o, congrArg Host.Outcome.next (exactOne_last hq hg ht hm hb add), ?_, fun k hn => ?_, fun k => ?_, ?_, answer,
    tally.congr tf.tal.symm rfl, (tf.le _).then uf⟩
  · exact (accRead_arr arr g c.n).trans (accRead_accWrite _ nd (hc.arrWf.of_arr vf.arr))
  · exact ((dataGet_arr arr k).trans (dataGet_accWrite_ne hn)).trans (dataGet_arr vf.arr k)
  · exact ((tagGet_arr arr k).trans (tagGet_accWrite ..)).trans (tagGet_arr vf.arr k)
  · exact (uf.same .fen (by decide)).trans (by rw [popped])

end Sys2Proof
end

section
/-! SUPPORT. The destination lines of a resolve (O33: R125, R139). -/

namespace Sys2Proof.Machine

-- One declaration after the other: the threads of declarations that wait for one another exhaust the memory that a compile may take.
set_option Elab.async false

/-! ### The line that a resolve writes (R125) -/

/-- Result elements in a destination line of a region. -/
def elemsPerLine (r : Region) : Nat := 128 / rfmtSize r.rfmt.toNat

/-- The number of elements of a region that its destination line `i` holds. -/
def lineCount (r : Region) (i : Nat) : Nat := min (elemsPerLine r) (r.n - elemsPerLine r * i)

/-- The elements of destination line `i`. -/
def resolvedElems (r : Region) (i : Nat) : List Nat := (List.range (lineCount r i)).map (elemsPerLine r * i + ·)

/-- Destination line `i` with its elements rounded, the other bytes 0. -/
def resolvedLine (s : State) (r : Region) (i : Nat) : Line :=
  (List.range (lineCount r i)).foldl
    (fun d j => linePut d (rfmtSize r.rfmt.toNat * j) (rfmtSize r.rfmt.toNat) (accResolve r.rfmt.toNat (accRead s r (elemsPerLine r * i + j)))) 0

/-- The bytes of the elements of destination line `i`. -/
def resolvedMask (r : Region) (i : Nat) : Mask := spanMask 0 (rfmtSize r.rfmt.toNat * lineCount r i)

section
variable {s v : State} {r : Region} {g : Seg} {i : Nat}

/-- The elements of a destination line fit in it. -/
theorem lineCount_fits (r : Region) (i : Nat) : rfmtSize r.rfmt.toNat * lineCount r i ≤ 128 :=
  (Nat.mul_le_mul_left _ (Nat.min_le_left ..)).trans (Nat.mul_div_le 128 _)

/-- An element of a region stands in its destination line at its place among the line's elements. -/
theorem lt_lineCount {j : Nat} (hj : j < elemsPerLine r) (hn : elemsPerLine r * i + j < r.n) : j < lineCount r i := by
  rw [lineCount]
  omega

/-- The elements of a line are those places in it that stand before the end of the region. -/
theorem filterMap_resolvedElems (r : Region) (i : Nat) :
    ((List.range (elemsPerLine r)).filterMap fun j => if elemsPerLine r * i + j < r.n then some (elemsPerLine r * i + j) else none) = resolvedElems r i := by
  rw [resolvedElems, lineCount]
  generalize elemsPerLine r * i = first
  induction elemsPerLine r with
  | zero => simp
  | succ m ih =>
    rw [List.range_succ, List.filterMap_append, ih]
    by_cases h : first + m < r.n
    · have e : min (m + 1) (r.n - first) = m + 1 := by omega
      have e' : min m (r.n - first) = m := by omega
      simp [h, e, e', List.range_succ]
    · have e : min (m + 1) (r.n - first) = min m (r.n - first) := by omega
      simp [h, e]

theorem lt_of_mem_resolvedElems {n : Nat} (h : n ∈ resolvedElems r i) : n < r.n := by
  obtain ⟨j, hj, rfl⟩ := List.mem_map.mp h
  have := List.mem_range.mp hj
  rw [lineCount] at this
  omega

/-- Writing the elements in turn, each at its place, writes the line. -/
theorem foldl_resolvedElems (s : State) (r : Region) (i : Nat) :
    (resolvedElems r i).foldl (fun d n => linePut d (rfmtSize r.rfmt.toNat * (n % elemsPerLine r)) (rfmtSize r.rfmt.toNat)
      (resolveBits s r n false)) 0 = resolvedLine s r i := by
  rw [resolvedElems, List.foldl_map, resolvedLine]
  refine List.foldl_ext _ _ _ fun d j hj => ?_
  have lt : j < elemsPerLine r := (List.mem_range.mp hj).trans_le (Nat.min_le_left ..)
  rw [Nat.mul_add_mod, Nat.mod_eq_of_lt lt, resolveBits, if_neg Bool.false_ne_true]

/-- What a destination line holds after a resolve has written it (R125). -/
theorem lineResolved_of_lineAt {k : Nat} {e : TagE} (hk : k = locKey (fenLoc g false (r.doff + 128 * i)))
    (h : LineAt s v k e (lineMerge (dataGet s k) (resolvedLine s r i) (resolvedMask r i))) : LineResolved s v r g i := by
  subst hk
  have fits := lineCount_fits r i
  refine ⟨fun j n hj hn hlt => ?_, fun b hb hn => ?_, h.datas⟩
  · have jc : j < lineCount r i := lt_lineCount hj (hn ▸ hlt)
    have before : rfmtSize r.rfmt.toNat * j + rfmtSize r.rfmt.toNat ≤ rfmtSize r.rfmt.toNat * lineCount r i :=
      Nat.mul_succ _ j ▸ Nat.mul_le_mul_left _ jc
    rw [h.data, lineNat_lineMerge_in _ _ (before.trans fits), resolvedLine, lineNat_foldl_linePut _ _ fits jc, hn]
    · rfl
    · intro b _ hb
      rw [resolvedMask, getLsbD_spanMask, decide_eq_true (by omega), decide_eq_true (by omega), Bool.and_self]
  · have past : rfmtSize r.rfmt.toNat * lineCount r i ≤ b := by
      have c : lineCount r i ≤ b / rfmtSize r.rfmt.toNat := (Nat.min_le_right ..).trans (Nat.sub_le_iff_le_add'.mpr hn)
      exact (Nat.mul_le_mul_left _ c).trans (Nat.mul_div_le ..)
    rw [h.data, lineNat_lineMerge_out _ _ (Nat.succ_le_of_lt hb)]
    intro c hc _
    rw [resolvedMask, getLsbD_spanMask, decide_eq_false (p := 0 ≤ c ∧ _) (by omega), Bool.and_false]

end

/-! ### RESOLVE_LINE_WRITE (R139) -/

theorem resolveOcc_only (f acc x : Nat) (poi : Bool) (s : State) : OnlyChanges [.ctr] s (resolveOcc f acc x poi s) :=
  ((((occU_only ..).trans (occU_only ..)).trans (occU_only ..)).trans (occU_only ..)).trans (occU_only ..)

/-- Groups that are in service and not poisoned are found so, one after the other. -/
theorem foldl_groupNoted_clean {s : State} {r : Region} (hb : s.bad = []) {l : List Nat}
    (h : ∀ m ∈ l, ∀ k ∈ groupKeys r m, (tagGet s k).poi = false ∧ keyRetired s k = false) : l.foldl (groupNoted r) ([], s) = ([], s) := by
  induction l with
  | nil => rfl
  | cons m l ih =>
    have e : groupNoted r ([], s) m = ([], s) := by
      rw [groupNoted, groupCheck_clean none m hb (h m List.mem_cons_self)]
      rfl
    rw [List.foldl_cons, e]
    exact ih fun m hm => h m (List.mem_cons_of_mem _ hm)

/-- Whether a line is in service is read of the banks alone. -/
theorem keyRetired_congr {s u : State} (h : u.banks = s.banks) (k : Nat) : keyRetired u k = keyRetired s k := by rw [keyRetired, keyRetired, bankGet, bankGet, h]

/-- Whether the addition to a tally that may be named is made is read of the tallies alone. -/
theorem tallyGrows_when_congr {b : Bool} {t n : Nat} {s s' u u' : State} (h : if b then TallyGrows s u t n else u.tal = s.tal) (hs : s'.tal = s.tal)
    (hu : u'.tal = u.tal) : if b then TallyGrows s' u' t n else u'.tal = s'.tal := by
  cases b with
  | true => exact TallyGrows.congr h hs hu
  | false => exact hu.trans (Eq.trans h hs.symm)

/-- Bytes written to a frame line leave its tag. -/
theorem frameWrite_bytes {s : State} (h : ArrWf s) {k : Nat} (d : Line) (m : Mask) (hr : keyRetired s k = false) :
    LineAt s (frameWrite k d m false false s) k (tagGet s k) (lineMerge (dataGet s k) d m) := by
  have e : ({ tagGet s k with poi := false || ((tagGet s k).poi && !false) } : TagE) = tagGet s k := by simp
  have w := putLine_lineAt h k ({ tagGet s k with poi := false || ((tagGet s k).poi && !false) }) d m
  rw [e] at w
  rw [frameWrite, hr, if_neg Bool.false_ne_true]
  dsimp only
  rwa [e]

section
variable {s : State} {r : Region} {x : Resolve} {g : Seg} {i : Nat}

/-- Of groups that are not poisoned the rounded accumulators are written to the line's frame line, which the watch windows see (R125, R139). -/
theorem resolveLine_clean (hg : segFind s r.seg = some g) (hb : s.bad = [])
    (h : ∀ n < r.n, ∀ k ∈ groupKeys r (n / 32), (tagGet s k).poi = false ∧ keyRetired s k = false) :
    ∃ v a, OnlyChanges [.ctr] s v ∧ resolveLine r i s =
      watchAcc a (frameWrite (locKey (fenLoc g false (r.doff + 128 * i))) (resolvedLine s r i) (resolvedMask r i) false false v) := by
  obtain ⟨u, hu⟩ : ∃ u, u = resolveLine r i s := ⟨_, rfl⟩
  rw [← hu]
  unfold resolveLine at hu
  split at hu
  case h_1 missing => exact absurd (hg.symm.trans missing) nofun
  case h_2 g' found =>
  obtain rfl : g = g' := Option.some.inj (hg.symm.trans found)
  extract_lets f sz per ns groups y s' bad d s'' m k w at hu
  have en : ns = resolvedElems r i := filterMap_resolvedElems r i
  have ey : y = ([], s) := by
    refine foldl_groupNoted_clean hb fun m hm => ?_
    obtain ⟨n, hn, rfl⟩ := List.mem_map.mp (List.mem_eraseDups.mp hm)
    exact h n (lt_of_mem_resolvedElems (en ▸ hn))
  have eb : ∀ n, bad n = false := fun n => by simp [bad, ey]
  have es : s' = s := congrArg Prod.snd ey
  have ed : d = resolvedLine s r i := by
    simp only [d, eb, es, en]
    exact foldl_resolvedElems s r i
  have em : m = resolvedMask r i := by simp only [m, en, resolvedElems, List.length_map, List.length_range]; rfl
  have ef : OnlyChanges [.ctr] s s'' := es ▸ foldl_only (fun _ _ => resolveOcc_only ..) _ _
  have ew : w = frameWrite k (resolvedLine s r i) (resolvedMask r i) false false (useSlot (k / 32) true none s'') := by
    have clean : ns.any bad = false := by simp [eb]
    simp only [w, ed, em, clean]
    rw [setCheck_clean]
    exact ef.bad.trans hb
  exact ⟨_, _, ef.trans (useSlot_only ..), hu.trans (by rw [ew])⟩

/-- What the write of a destination line leaves of a resolve whose groups are not poisoned. -/
theorem resolveLine_leaves (hg : segFind s r.seg = some g) (hb : s.bad = []) (c : Canonical s)
    (h : ∀ n < r.n, ∀ k ∈ groupKeys r (n / 32), (tagGet s k).poi = false ∧ keyRetired s k = false)
    (live : keyRetired s (locKey (fenLoc g false (r.doff + 128 * i))) = false) :
    LineResolved s (resolveLine r i s) r g i ∧ (∀ k, tagGet (resolveLine r i s) k = tagGet s k) ∧
      OnlyChanges [.arr, .ctr, .peat, .d0, .ints, .log] s (resolveLine r i s) := by
  obtain ⟨v, a, vf, e⟩ := resolveLine_clean (i := i) hg hb h
  have wf := frameWrite_only (locKey (fenLoc g false (r.doff + 128 * i))) (resolvedLine s r i) (resolvedMask r i) false false v (vf.bad.trans hb)
  have vlive : keyRetired v (locKey (fenLoc g false (r.doff + 128 * i))) = false :=
    (keyRetired_congr (vf.same .banks (by decide)) _).trans live
  have w := frameWrite_bytes (c.arrWf.of_arr vf.arr) (resolvedLine s r i) (resolvedMask r i) vlive
  rw [tagGet_arr vf.arr, dataGet_arr vf.arr] at w
  rw [e]
  have line := w.congr vf.arr.symm (watchAcc_only a _).arr
  exact ⟨lineResolved_of_lineAt rfl line, line.tag_same, ((vf.le _).then wf).then (watchAcc_only ..)⟩

/-- What the end of a resolve leaves: its region gone, its frames' tags zero, and the notify tally one larger (R139). -/
theorem resolveEnd_leaves (r : Region) (x : Resolve) (hb : s.bad = []) (c : Canonical s) :
    (resolveEnd r x s).arr.data = s.arr.data ∧
      (∀ k, tagGet (resolveEnd r x s) k = if k ∈ r.frames.flatMap frameKeys then TagE.zero else tagGet s k) ∧
      (resolveEnd r x s).fen = { s.fen with regions := s.fen.regions.filter (·.rid ≠ r.rid) } ∧
      (if x.nten then TallyGrows s (resolveEnd r x s) x.ntally.toNat 1 else (resolveEnd r x s).tal = s.tal) ∧
      OnlyChanges [.arr, .fen, .tal, .ctr, .peat] s (resolveEnd r x s) := by
  let v : State := { s with fen := { s.fen with regions := s.fen.regions.filter (·.rid ≠ r.rid) } }
  let u := if x.nten then tallyAdd x.ntally.toNat 1 none 7 v else v
  let t := traceEv (notifyEv s 5 r.seg r.rid x.nten x.ntally x.armFt) u
  obtain ⟨grows, uf⟩ := tallyAdd_when (s := s) (v := v) (u := u) rfl hb c.tal rfl
  have tf : OnlyChanges [.peat] u t := traceEv_only ..
  have df : OnlyChanges [.arr] t (resolveEnd r x s) := dropFrames_only r.frames t
  have arr : t.arr = s.arr := tf.arr.trans uf.arr
  refine ⟨(foldl_tagSet_data ..).trans (congrArg ArraySt.data arr), fun k => ?_, ?_, tallyGrows_when_congr grows rfl (df.tal.trans tf.tal), ?_⟩
  · rw [← tagGet_arr arr]
    exact tagGet_dropFrames (c.arrWf.of_arr arr) k
  · exact ((df.same .fen (by decide)).trans (tf.same .fen (by decide))).trans (uf.same .fen (by decide))
  · exact ((((fenOnly ..).le _).then uf).then tf).then df

theorem LineResolved.congr {u u' : State} (h : LineResolved s u r g i) (e : u'.arr.data = u.arr.data) : LineResolved s u' r g i := by
  have d : ∀ k, dataGet u' k = dataGet u k := fun k => by rw [dataGet, dataGet, e]
  refine ⟨?_, ?_, fun k hk => (d k).trans (h.others k hk)⟩
  · rw [d]
    exact h.elems
  · rw [d]
    exact h.rest

theorem resolveOf_some {j : Nat} (h : resolveOf s j = some (r, x)) : r.rid = j := by
  obtain ⟨r', found, e⟩ := Option.bind_eq_some_iff.mp h
  obtain ⟨_, _, e⟩ := Option.map_eq_some_iff.mp e
  cases e
  simpa using List.find?_some found

variable {j : Fin 16} (hr : resolveOf s j.val = some (r, x)) (hs : x.start = true)
include hr hs

/-- A line before the last of a resolve that runs is written, and the next one's turn comes. -/
theorem exec_resolveLineWrite_next (hn : x.next + 1 < destLines r) :
    exec (.resolveLineWrite j) s = .next (setResolve r.rid { x with next := x.next + 1 } (resolveLine r x.next s)) := by
  show execResolveLineWrite j s = _
  simp only [execResolveLineWrite, hr]
  rw [if_neg (by simp [hs]), if_pos hn]

/-- With the last line of a resolve that may end it ends. -/
theorem exec_resolveLineWrite_last (hn : destLines r ≤ x.next + 1) (he : resolveCanEnd s r x = true) :
    exec (.resolveLineWrite j) s = .next (resolveEnd r x (resolveLine r x.next s)) := by
  show execResolveLineWrite j s = _
  simp only [execResolveLineWrite, hr]
  rw [if_neg (by simp [hs]), if_neg (Nat.not_lt.mpr hn), if_pos he]

end
end Sys2Proof.Machine

namespace Sys2Proof
open Machine

/-- Settles O33: the line is written element by element, its elements side by side from its start; the last one's write ends the region. -/
theorem resolveWritesLine : Obligations.ResolveWritesLine := by
  intro i s r x g hr hs hg hb hc hk _ live
  obtain ⟨line, tags, frame⟩ := resolveLine_leaves (i := x.next) hg hb hc hk live
  have fen : (resolveLine r x.next s).fen = s.fen := frame.same .fen (by decide)
  have rid := resolveOf_some hr
  refine ⟨fun hn => ?_, fun hn he hf => ?_⟩
  · refine ⟨_, exec_resolveLineWrite_next hr hs hn, line.congr rfl, tags, ?_, (frame.le _).then (fenOnly ..)⟩
    rw [setResolve, regionMod, fen, rid]
  · obtain ⟨data, ended, regions, tally, rest⟩ := resolveEnd_leaves r x (frame.bad.trans hb) hc.resolveLine
    refine ⟨_, exec_resolveLineWrite_last hr hs hn he, line.congr data, ?_, fun f m l hl => ?_, fun k out => ?_,
      tallyGrows_when_congr tally frame.tal.symm rfl, (frame.le _).then rest⟩
    · rw [regions, fen, rid]
    · rw [ended, if_pos (mem_framesKeys.mpr ⟨f, m, l, hl, rfl⟩)]
    · rw [ended, if_neg (not_mem_framesKeys hf out), tags]

end Sys2Proof
end

section
/-! SUPPORT. ACC_OPEN and the SCLK in which its region opens (O31: R131, R133, R134). -/

namespace Sys2Proof.Machine

-- One declaration after the other: the threads of declarations that wait for one another exhaust the memory that a compile may take.
set_option Elab.async false

/-! ### ACC_OPEN (R134) -/

/-- The frames that the region of an ACC_OPEN by mailbox `t` takes: as many as its accumulators fill (R133). -/
def accFrames (s : State) (t : Nat) : List Nat := (freeFrames s 0).take (cdiv (10 * cdiv (argF s t 2 0 21) 32) 512)

section
variable {s : State} {t : Nat} {rest : List Nat} {g : Seg}

/-- The region is that of the arguments that the mailbox holds as its command comes to the head. -/
theorem Heads.newRegion_atStart {op : Nat} (h : Heads s op t rest) (ho : op ≠ 0) (rid : Nat) (fs : List Nat) :
    newRegion (atStart s t rest) t rid fs = newRegion s t rid fs := by
  simp only [newRegion, h.atStart_argF ho, h.atStart_argB ho]
  rfl

/-- While fewer than 16 regions are open, one number is the lowest that none has. -/
theorem exists_lowestRid (h : s.fen.regions.length < 16) : ∃ i < 16, (∀ x ∈ s.fen.regions, x.rid ≠ i) ∧ (∀ j < i, ∃ x ∈ s.fen.regions, x.rid = j) ∧
    lowest 16 (fun i => s.fen.regions.all (·.rid ≠ i)) = some i := by
  obtain ⟨i, hi⟩ := lowest_some Region.rid h
  obtain ⟨free, lt, below⟩ := List.find?_range_eq_some.mp hi
  exact ⟨i, List.mem_range.mp lt, by simpa using free, fun j hj => by simpa using below j hj, hi⟩

/-- ACC_OPEN of arguments in order adds a region of the lowest free number, whose accumulators are then zeroed. -/
theorem RegionOk.starts (k : RegionOk s t g) (h : Heads s 0x20 t rest) {rid : Nat} (hr : lowest 16 (fun i => s.fen.regions.all (·.rid ≠ i)) = some rid) :
    exec .accOpen s = .next (mbxWork t { atStart s t rest with fen :=
      { s.fen with regions := s.fen.regions ++ [newRegion s t rid (accFrames s t)] } }) := by
  obtain ⟨perm, elems, rsv, size, fmt, aligned, idle, present, seg, single, window, dest, apart, room, frames⟩ := k
  have pm : segPerm (atStart s t rest) t (argF s t 0 24 6) = true := perm
  have pr : noDatapath (atStart s t rest) = false := by rw [noDatapath, show (atStart s t rest).pins = s.pins from rfl, present]; rfl
  have sg : segFind (atStart s t rest) (argF s t 0 24 6) = some g := seg
  have nc : commitArmed (atStart s t rest) = false := idle
  have low : lowest 16 (fun i => (atStart s t rest).fen.regions.all (·.rid ≠ i)) = some rid := hr
  have ap : ((atStart s t rest).fen.regions.any fun r => r.seg == argF s t 0 24 6 && argF s t 1 0 26 < r.rbase + 128 * windowLines r &&
      r.rbase < argF s t 1 0 26 + 128 * cdiv (argF s t 2 0 21) 32) = false := by
    refine List.any_eq_false.mpr fun r m e => ?_
    simp only [Bool.and_eq_true, beq_iff_eq, decide_eq_true_eq] at e
    obtain ⟨⟨same, below⟩, above⟩ := e
    exact apart r m same ⟨below, above⟩
  have rm : ¬ 16 ≤ (atStart s t rest).fen.regions.length := Nat.not_le.mpr room
  have fr : ¬ (freeFrames (atStart s t rest) 0).length < cdiv (10 * cdiv (argF s t 2 0 21) 32) 512 := Nat.not_lt.mpr frames
  have e : accOpenCmd t (atStart s t rest) = mbxWork t { atStart s t rest with fen :=
      { s.fen with regions := s.fen.regions ++ [newRegion s t rid (accFrames s t)] } } := by
    rw [← h.newRegion_atStart (by decide)]
    simp only [accOpenCmd, h.atStart_argF (by decide), h.atStart_argRsv (by decide), sg, ap]
    refine (checked_pass ?_).trans (by rw [low]; rfl)
    simp [firstOf, frameChecks, pm, rsv, aligned, nc, pr, single, rm, fr, Nat.ne_of_gt elems, Nat.not_lt.mpr size, Nat.not_lt.mpr fmt,
      Nat.not_lt.mpr window, Nat.not_lt.mpr dest]
  exact congrArg _ ((cmdRun_heads h rfl).trans e)

end

/-! ### REGION_OPEN (R134) -/

/-- Region `r` at SCLK O, its accumulators zero and its notify tally added to, before its command completes. -/
def regionOpened (r : Region) (s : State) : State :=
  let v := regionMod r.rid (fun r => { r with opened := true }) (zeroFrames r.frames r.opener s)
  traceEv (notifyEv s 3 r.seg r.rid r.nten r.ntally r.openFt) (if r.nten then tallyAdd r.ntally.toNat 1 none 7 v else v)

theorem regionFind_rid {s : State} {i : Nat} {r : Region} (h : regionFind s i = some r) : r.rid = i := by simpa using List.find?_some h

/-- With the region open its command completes, with the pool as it is then. -/
theorem exec_regionOpen {i : Fin 16} {s : State} {r : Region} (hr : regionFind s i.val = some r) (h : regionCanOpen s r = true) :
    exec (.regionOpen i) s =
      .next (mbxDone r.mbx Mc.ok ([r.rid] ++ poolRes (regionOpened r s) ++ [r.frames.length]) (regionOpened r s)) := by
  show execRegionOpen i s = _
  simp only [execRegionOpen, hr]
  rw [if_pos h]
  rfl

section
variable {s : State}

/-- Zeroing frames adds no error to the storage. -/
theorem zeroFrames_bad {fs : List Nat} {tc : BitVec 4} (hb : s.bad = []) : (zeroFrames fs tc s).bad = [] :=
  (foldl_only (l := [.arr]) (fun _ _ => tagSet_only ..) _ _).bad.trans (by simp [hb])

theorem Canonical.regionOpened {r : Region} (h : Canonical s) : Canonical (regionOpened r s) :=
  (h.zeroFrames.regionMod.when (·.tallyAdd)).traceEv

/-- What the opening of a region leaves: its frames' lines zero and its opener's, and the notify tally one larger. -/
theorem regionOpened_leaves (r : Region) (hb : s.bad = []) (c : Canonical s) :
    (regionOpened r s).fen = { s.fen with regions := lmod (·.rid = r.rid) (fun r => { r with opened := true }) s.fen.regions } ∧
      (regionOpened r s).arr = (zeroFrames r.frames r.opener s).arr ∧
      (if r.nten then TallyGrows s (regionOpened r s) r.ntally.toNat 1 else (regionOpened r s).tal = s.tal) ∧
      OnlyChanges [.fen, .arr, .bad, .tal, .ctr, .peat] s (regionOpened r s) := by
  let z := zeroFrames r.frames r.opener s
  let v := regionMod r.rid (fun r => { r with opened := true }) z
  let u := if r.nten then tallyAdd r.ntally.toNat 1 none 7 v else v
  have zf : OnlyChanges [.arr, .bad] s z := zeroFrames_only ..
  have vf : OnlyChanges [.fen] z v := regionMod_only ..
  obtain ⟨grows, uf⟩ := tallyAdd_when (s := s) (v := v) (u := u) rfl (vf.bad.trans (zeroFrames_bad hb)) c.tal (vf.tal.trans zf.tal)
  have tf : OnlyChanges [.peat] u (regionOpened r s) := traceEv_only ..
  refine ⟨?_, (tf.arr.trans uf.arr).trans vf.arr, tallyGrows_when_congr grows rfl tf.tal, (((zf.le _).then vf).then uf).then tf⟩
  refine ((tf.same .fen (by decide)).trans (uf.same .fen (by decide))).trans ?_
  show FenSt.mk .. = FenSt.mk ..
  rw [show z.fen = s.fen from zf.same .fen (by decide)]

end

/-- The pool is as the completion of a command finds it. -/
theorem poolRes_mbxDone (t code : Nat) (res : List Nat) (s : State) : poolRes (mbxDone t code res s) = poolRes s := by
  rw [(mbxDone_only t code res s).eq_blend]
  rfl

end Sys2Proof.Machine

namespace Sys2Proof
open Machine

/-- Settles O31: the command adds the region of the lowest free number; its frames are zeroed way by way, each way being of one frame. -/
theorem regionOpens : Obligations.RegionOpens := by
  refine ⟨fun s t rest g h k => ?_, fun i s r hr ho hb c hf => ?_⟩
  · obtain ⟨rid, lt, free, below, low⟩ := exists_lowestRid k.room
    exact ⟨_, newRegion s t rid (accFrames s t), k.starts h low, h.goesOn (by decide) (fenOnly _ (atStart s t rest)), rfl, lt, free, below, rfl⟩
  · obtain ⟨fen, arr, tally, frame⟩ := regionOpened_leaves r hb c
    let res := [r.rid] ++ poolRes (regionOpened r s) ++ [r.frames.length]
    have d := mbxDone_only r.mbx Mc.ok res (regionOpened r s)
    have ended := mbxDone_ended r.mbx Mc.ok res (regionOpened r s) c.regionOpened.mbx
    rw [regionFind_rid hr] at fen
    refine ⟨_, exec_regionOpen hr ho, ?_, (d.same .fen (by decide)).trans fen, fun f m l hl => ⟨?_, ?_⟩, fun j hj => ⟨?_, ?_⟩,
      tallyGrows_when_congr tally rfl d.tal, (frame.le _).then d⟩
    · rw [poolRes_mbxDone]
      exact ended.since (congrArg Ints.mbx frame.ints) fun j _ => mbxGet_congr (frame.same .mbx (by decide)) j
    · rw [dataGet_arr (d.arr.trans arr), dataGet_zeroFrames, keyFrame_frameKey (hf f m) hl, if_pos m]
    · rw [tagGet_arr (d.arr.trans arr), tagGet_zeroFrames c.arrWf, if_pos (mem_framesKeys.mpr ⟨f, m, l, hl, rfl⟩)]
    · rw [tagGet_arr (d.arr.trans arr), tagGet_zeroFrames c.arrWf, if_neg (not_mem_framesKeys hf hj)]
    · rw [dataGet_arr (d.arr.trans arr), dataGet_zeroFrames, if_neg hj]

end Sys2Proof
end

section
/-! SUPPORT. An armed resolve up to its first line, its end by a discard, and its deadline's report (O32: R138, R139, R141, R142). -/

namespace Sys2Proof.Machine

-- One declaration after the other: the threads of declarations that wait for one another exhaust the memory that a compile may take.
set_option Elab.async false

/-! ### ACC_RESOLVE (R138) -/

section
variable {s : State} {t : Nat} {rest : List Nat} {r : Region}

/-- The resolve is that of the arguments that the mailbox holds as its command comes to the head. -/
theorem Heads.newResolve_atStart {op : Nat} (h : Heads s op t rest) (ho : op ≠ 0) : newResolve (atStart s t rest) t = newResolve s t := by
  have m : ∀ i, mArg (atStart s t rest) t i = mArg s t i := fun i => by rw [mArg, mArg, h.atStart_get ho]
  simp only [newResolve, h.atStart_argF ho, h.atStart_argB ho, m]
  rfl

/-- ACC_RESOLVE by the opener or TC0 of an open region without a resolve arms one, and answers with the region's sizes. -/
theorem accResolve_arms (h : Heads s 0x21 t rest) (found : regionFind s (argF s t 0 16 4) = some r) (perm : t = 0 ∨ r.opener.toNat = t)
    (rsv : argRsv s t [(0, 20, 10), (0, 13, 3), (1, 12, 20), (3, 16, 16)] = false) (opened : r.opened = true) (unarmed : r.res = none) :
    exec .accResolve s = .next (mbxDone t Mc.ok [r.n, r.frames.length]
      (regionMod (argF s t 0 16 4) (fun r => { r with res := some (newResolve s t) }) (atStart s t rest))) := by
  have f : regionFind (atStart s t rest) (argF s t 0 16 4) = some r := found
  have p : ¬ (¬ t = 0 ∧ ¬ r.opener.toNat = t) := fun x => perm.elim x.1 x.2
  have e : accResolveCmd t (atStart s t rest) = mbxDone t Mc.ok [r.n, r.frames.length]
      (regionMod (argF s t 0 16 4) (fun r => { r with res := some (newResolve s t) }) (atStart s t rest)) := by
    rw [← h.newResolve_atStart (by decide)]
    simp only [accResolveCmd, h.atStart_argF (by decide), h.atStart_argRsv (by decide), f]
    refine (checked_pass ?_).trans (by rw [h.atStart_argF (by decide)]; rfl)
    simp [firstOf, p, rsv, opened, unarmed]
  exact congrArg _ ((cmdRun_heads h rfl).trans e)

end

section
variable {i : Fin 16} {s : State} {r : Region} {x : Resolve} (hr : resolveOf s i.val = some (r, x))
include hr

/-! ### T and F (R139, R141) -/

/-- The step T of a resolve that may take its SCLK does. -/
theorem exec_resolveReady (h : resolveCanReady s r x = true) :
    exec (.resolveReady i) s = .next (traceEv (resolveReadyEv s r x) (setResolve i.val { x with readyAt := some s.clk.sclk } s)) := by
  rw [← resolveOf_some hr]
  show execResolveReady i s = _
  simp only [execResolveReady, hr]
  rw [if_pos h]

/-- In an SCLK after T that no contribution holds up, a discard that may end ends, and another resolve starts to write. -/
theorem exec_resolveStart {n : Nat} (ht : x.readyAt = some n) (hn : n < s.clk.sclk) (hs : x.start = false) (hc : contribOpen s r.rid = false) :
    exec (.resolveStart i) s =
      .next (if x.discard then (if resolveCanEnd s r x then resolveEnd r x s else s) else setResolve i.val { x with start := true } s) := by
  rw [← resolveOf_some hr]
  show execResolveStart i s = _
  simp only [execResolveStart, hr]
  rw [if_pos (by simp [sclkPast, ht, hn, hs, hc])]

/-! ### The deadline (R142) -/

/-- An armed resolve is that of the region found under its number. -/
theorem regionFind_of_resolveOf : regionFind s i.val = some r ∧ r.res = some x := by
  obtain ⟨r', found, e⟩ := Option.bind_eq_some_iff.mp hr
  obtain ⟨x', armed, e⟩ := Option.map_eq_some_iff.mp e
  cases e
  exact ⟨found, armed⟩

/-- No report is left of a resolve that no SCLK has found due. -/
theorem resolveDeadlineAt_idle (h : x.due = none) : resolveDeadlineAt i.val s = s := by
  obtain ⟨found, armed⟩ := regionFind_of_resolveOf hr
  simp [resolveDeadlineAt, found, armed, h]

/-- What the report of a due resolve leaves: the resolve reported and no more due, and the notice while its queue has room. -/
theorem resolveDeadlineAt_due {y : FT × BitVec 48} (h : x.due = some y) :
    (resolveDeadlineAt i.val s).fen =
        { s.fen with regions := lmod (·.rid = i.val) (fun r => { r with res := some { x with reported := true, due := none } }) s.fen.regions } ∧
      (s.log.notices.length < 64 → (resolveDeadlineAt i.val s).log.notices =
        s.log.notices ++ [.event 1 (deadlineRec y x.rtally.toNat x.thresh.toNat 0 0 0 i.val 1 0)]) ∧
      OnlyChanges [.fen, .log, .ints, .d0, .ctr, .peat] s (resolveDeadlineAt i.val s) := by
  obtain ⟨found, armed⟩ := regionFind_of_resolveOf hr
  let t := setResolve i.val { x with reported := true, due := none } s
  let u := notice (.event 1 (deadlineRec y x.rtally.toNat x.thresh.toNat 0 0 0 i.val 1 0)) (occU 0x95 1 t)
  obtain ⟨v, e⟩ : ∃ v, resolveDeadlineAt i.val s = traceEv v u := by
    simp only [resolveDeadlineAt, found, armed, h]
    exact ⟨_, rfl⟩
  have tf : OnlyChanges [.fen] s t := regionMod_only ..
  have of : OnlyChanges [.ctr] t (occU 0x95 1 t) := occU_only ..
  have uf : OnlyChanges [.log, .ints, .d0] (occU 0x95 1 t) u := notice_only ..
  have f := traceEv_only v u
  have log : (occU 0x95 1 t).log = s.log := of.log.trans tf.log
  rw [e]
  refine ⟨((f.same .fen (by decide)).trans (uf.same .fen (by decide))).trans (of.same .fen (by decide)), fun room => ?_,
    (((tf.le _).then of).then uf).then f⟩
  rw [f.log, show u = _ from notice_room _ _ (by rwa [log]), log]

end

end Sys2Proof.Machine

namespace Sys2Proof
open Machine

/-- Settles O32: the command, its step T, its step F by whether it discards, and the report of its deadline, each by what it leaves of the region. -/
theorem resolveGoesOn : Obligations.ResolveGoesOn := by
  refine ⟨fun s t rest r h found perm rsv opened unarmed => ?_, fun i s r x hr h => ?_,
    fun i s r x n hr ht hn hs hc => ⟨fun hd => ?_, fun hd he hb c => ?_⟩, fun i s r x hr => ⟨fun y hy => ?_, fun hn => ?_⟩⟩
  · exact ⟨_, accResolve_arms h found perm rsv opened unarmed, h.completes (by decide) Mc.ok _ (regionMod_only _ _ (atStart s t rest)),
      (mbxDone_only ..).same .fen (by decide)⟩
  · exact ⟨_, exec_resolveReady hr h, (traceEv_only ..).same .fen (by decide), ((regionMod_only ..).le _).then (traceEv_only ..)⟩
  · have e := exec_resolveStart hr ht hn hs hc
    rw [if_neg (ne_true_of_eq_false hd)] at e
    exact ⟨_, e, rfl, regionMod_only ..⟩
  · have e := exec_resolveStart hr ht hn hs hc
    rw [if_pos hd, if_pos he] at e
    obtain ⟨data, ended, regions, tally, frame⟩ := resolveEnd_leaves r x hb c
    rw [resolveOf_some hr] at regions
    exact ⟨_, e, regions, tally, data, fun f m l hl => by rw [ended, if_pos (mem_framesKeys.mpr ⟨f, m, l, hl, rfl⟩)], frame.le _⟩
  · exact ⟨_, rfl, resolveDeadlineAt_due hr hy⟩
  · exact congrArg Host.Outcome.next (resolveDeadlineAt_idle hr hn)

end Sys2Proof
end

section
/-! SUPPORT. Mace descriptors with one element in flight, and the step of MACE_ELEMENT (O35: R148, R150, R155). -/

namespace Sys2Proof.Machine

-- One declaration after the other: the threads of declarations that wait for one another exhaust the memory that a compile may take.
set_option Elab.async false

/-! ### The descriptor of a slot -/

/-- In `s`, `d` is the one descriptor of slot `i`. -/
structure OneDesc (s : State) (i : Nat) (d : Desc) : Prop where
  mem : d ∈ s.mace.descs
  slot : d.slot = i
  only : ∀ x ∈ s.mace.descs, x.slot = i → x = d

section
variable {s t : State} {i : Nat} {d : Desc}

theorem ActiveDesc.one (h : ActiveDesc s d) (hs : d.slot = i) : OneDesc s i d := ⟨List.mem_of_find?_eq_some h.found, hs, hs ▸ h.only⟩

theorem OneDesc.found (h : OneDesc s i d) : descFind s i = some d := by
  cases e : descFind s i with
  | none => exact absurd h.slot (by simpa using List.find?_eq_none.mp e d h.mem)
  | some x => rw [h.only x (List.mem_of_find?_eq_some e) (by simpa using List.find?_some e)]

theorem OneDesc.congr (h : OneDesc s i d) (e : t.mace = s.mace) : OneDesc t i d := ⟨e ▸ h.mem, h.slot, e ▸ h.only⟩

/-- A change of the descriptor of a slot that keeps its slot. -/
theorem OneDesc.mod (h : OneDesc s i d) {f : Desc → Desc} (hf : (f d).slot = i) : OneDesc (descMod i f s) i (f d) := by
  refine ⟨List.mem_map.mpr ⟨d, h.mem, if_pos (decide_eq_true h.slot)⟩, hf, fun y hy hs => ?_⟩
  obtain ⟨x, hx, rfl⟩ := List.mem_map.mp hy
  by_cases e : x.slot = i
  · rw [if_pos (decide_eq_true e), h.only x hx e]
  · rw [if_neg (by simpa using e)] at hs
    exact absurd hs e

/-- A change of the only element in flight. -/
theorem OneDesc.elem {e : Elem} (h : OneDesc s i d) (hi : d.infl = [e]) {id : Nat} (hid : e.id = id) (f : Elem → Elem) :
    OneDesc (elemMod i id f s) i { d with infl := [f e] } := by
  have x : OneDesc (elemMod i id f s) i { d with infl := lmod (·.id = id) f d.infl } :=
    h.mod (f := fun d => { d with infl := lmod (·.id = id) f d.infl }) h.slot
  rwa [hi, show lmod (·.id = id) f [e] = [f e] by simp [lmod, hid]] at x

theorem elemMod_only (j k : Nat) (f : Elem → Elem) (s : State) : OnlyChanges [.mace] s (elemMod j k f s) := maceOnly ..

/-! ### Rows and elements that are finished (R155) -/

/-- An element with nothing left to do. -/
def elemDone (e : Elem) : Bool := e.stepped && (e.todo.isEmpty || e.fail.isSome)

/-- A descriptor without its performed elements, its finished rows counted. -/
def settled (d : Desc) : Desc :=
  let infl := d.infl.filter fun e => !elemDone e
  let open_ := fun (r : Row) => infl.any (·.k == r.k)
  let fin := d.rows.filter fun r => (r.issued || r.faulted) && !open_ r
  { d with infl := infl, rows := d.rows.filter fun r => open_ r || !(r.issued || r.faulted || d.stopped),
           faults := d.faults + (fin.filter (·.faulted)).length, done := d.done + (fin.filter fun r => !r.faulted).length,
           pads := d.pads + (fin.filter fun r => !r.faulted && r.pad).length }

/-- Element `e` of descriptor `d` has met no fault. -/
structure NoFault (d : Desc) (e : Elem) : Prop where
  fail : e.fail = none
  src : ∀ x, e.src = some x → x.2 = false
  poi : Md.kind d.n = 2 → e.stepped = true → e.poi = false

theorem settled_infl {e : Elem} (hi : d.infl = [e]) : (settled d).infl = if elemDone e then [] else [e] := by
  show d.infl.filter (fun e => !elemDone e) = _
  rw [hi]
  cases h : elemDone e <;> simp [h]

/-- A descriptor whose elements met no fault is tidied without one. -/
theorem tidy_settles (h : OneDesc s i d) (hn : ∀ e ∈ d.infl, NoFault d e) : tidy i s = descMod i settled s := by
  have clean : elemFaults i s = s := by
    simp only [elemFaults, h.found]
    refine (List.foldl_ext _ (fun s _ => s) s fun t e he => ?_).trans (List.foldl_fixed' (fun _ => rfl) _)
    have n := hn e he
    have poison : ((Md.kind d.n == 2) && e.stepped && e.poi) = false := by
      by_cases k : Md.kind d.n = 2 ∧ e.stepped = true
      · rw [n.poi k.1 k.2, Bool.and_false]
      · simpa using fun a b => absurd ⟨a, b⟩ k
    have source : (match e.src with | some (_, p) => p | none => false) = false := by
      cases k : e.src with
      | none => rfl
      | some x => exact n.src x k
    simp only [n.fail, poison, Bool.or_false]
    exact if_neg (ne_true_of_eq_false source)
  rw [tidy, clean]
  rfl

/-! ### The step of an element -/

section
variable {e : Elem} (h : OneDesc s i d) (hi : d.infl = [e]) (hb : s.bad = [])
include h hi hb

/-- The next source line of a scatter or scatter-add is read. -/
theorem elemStep_source {p : PLine} {rest : List PLine} (hk : Md.kind d.n ≠ 0) (ht : e.todo = p :: rest) :
    elemStep i e.id s = tidy i (sourceStep d e p s) := by
  simp [elemStep, h.found, hi, ctlUse_clean _ _ s hb, hk, ht]

/-- The table step of a scatter or scatter-add follows its source lines; that of a gather is the first. -/
theorem elemStep_table (hk : Md.kind d.n ≠ 0 → e.todo = []) (ht : e.taken = false) : elemStep i e.id s = tidy i (tableStep d e s) := by
  by_cases k : Md.kind d.n = 0
  · simp [elemStep, h.found, hi, ctlUse_clean _ _ s hb, k, ht]
  · simp [elemStep, h.found, hi, ctlUse_clean _ _ s hb, k, ht, hk k]

section
variable (hk : Md.kind d.n = 0) (ht : e.taken = true) (hs : e.stepped = true) {p : PLine} (hp : e.todo = [p]) (hy : p.busy = false)
include hk ht hs hp hy

theorem elemStep_dest (hd : Md.dkind d.n = 0) : elemStep i e.id s = tidy i (destStep d e p s) := by
  simp [elemStep, h.found, hi, ctlUse_clean _ _ s hb, hk, ht, hs, hp, hy, hd]

theorem elemStep_data (hd : Md.dkind d.n = 1) : elemStep i e.id s = tidy i (dataStep d e p s) := by
  simp [elemStep, h.found, hi, ctlUse_clean _ _ s hb, hk, ht, hs, hp, hy, hd]

end

end

end

/-- MACE_ELEMENT of an only element that no fault meets: the descriptor is tidied, the element's step leads from there to `t`, and is tidied after. -/
theorem exec_maceElement {i : Fin 8} {s t : State} {d d' : Desc} {e e' : Elem} (h : OneDesc s i.val d) (hi : d.infl = [e]) (hn : NoFault d e)
    (hg : elemDone e = false)
    (step : OneDesc (descMod i.val settled s) i.val (settled d) → (settled d).infl = [e] →
      elemStep i.val e.id (descMod i.val settled s) = tidy i.val t)
    (h' : OneDesc t i.val d') (hi' : d'.infl = [e']) (hn' : NoFault d' e') :
    ∃ u, exec (.maceElement i e.id) s = .next u ∧ descFind u i.val = some (settled d') ∧
      (settled d').infl = (if elemDone e' then [] else [e']) ∧ OnlyChanges [.mace] t u := by
  have one : OneDesc (descMod i.val settled s) i.val (settled d) := h.mod h.slot
  have infl : (settled d).infl = [e] := by rw [settled_infl hi, hg]; rfl
  have only : ∀ {d : Desc} {e : Elem}, d.infl = [e] → NoFault d e → ∀ x ∈ d.infl, NoFault d x :=
    fun hi hn x hx => List.mem_singleton.mp (hi ▸ hx) ▸ hn
  refine ⟨descMod i.val settled t, ?_, (h'.mod (f := settled) h'.slot).found, settled_infl hi', descMod_only ..⟩
  show Host.Outcome.next (elemStep i.val e.id (tidy i.val s)) = _
  rw [tidy_settles h (only hi hn), step one infl, tidy_settles h' (only hi' hn')]

/-! ### Table steps (Table 7.3) -/

section
variable {s t : State} {r : Req}

/-- An access that is not coherent, of a line that the home holds nothing of, is performed in its step (R182). -/
theorem reqStep_access (hf : r.fen = none) (hc : isCohOp (hOpcode r.msg) = false) (hb : s.bad = []) (hh : hteInH s (hLine r.msg) = none)
    (he : sedgeFind s (hLine r.msg) = none) (hm : memAccess r s = .done t) :
    reqStep r s = .done (if pdOn s 68 then enginePredict r t else t) := by
  have checked : (candSets s (hLine r.msg)).foldl (fun s x => sedgeCheck (some (subjReq r)) x s) s = s :=
    List.foldl_fixed' (f := fun s x => sedgeCheck (some (subjReq r)) x s) (fun x => sedgeCheck_clean _ x s hb) _
  by_cases d : pdOn s 68 = true
  · simp [reqStep, hf, hc, homeGate, d, checked, hh, he, gateGo, hm]
  · simp [reqStep, hf, hc, homeGate, d, hm]

/-- Reads and writes leave the predictor (R180). -/
theorem enginePredict_other (h : hOpcode r.msg ≠ Op.red ∧ hOpcode r.msg ≠ Op.atom) (s : State) : enginePredict r s = s := by
  simp [enginePredict, h]

theorem enginePredict_only (r : Req) (hb : s.bad = []) : OnlyChanges [.home] s (enginePredict r s) := by
  unfold enginePredict
  dsimp only
  split
  · rw [predict, predCheck_clean _ s hb]
    exact homeOnly _ s
  · exact .refl _ _

end

/-- MACE_ELEMENT of an element whose table access is performed: the element is taken. -/
theorem exec_tableStep {i : Fin 8} {s v : State} {d d' : Desc} {e e' : Elem} (h : OneDesc s i.val d) (hi : d.infl = [e]) (hn : NoFault d e)
    (hb : s.bad = []) (hk : Md.kind d.n ≠ 0 → e.todo = []) (ht : e.taken = false) (hs : e.stepped = false)
    (hv : reqStep e.req (descMod i.val settled s) = .done v) (h' : OneDesc v i.val d') (hi' : d'.infl = [e']) (hid : e'.id = e.id)
    (hn' : NoFault d' { e' with taken := true }) :
    ∃ u x, exec (.maceElement i e.id) s = .next u ∧ descFind u i.val = some x ∧
      x.infl = (if elemDone e' then [] else [{ e' with taken := true }]) ∧ OnlyChanges [.mace, .ctr] v u := by
  let t := reqSlot (reqPipe (descMod i.val settled s) e.req) true (subjReq e.req) v
  have c : OnlyChanges [.ctr] v t := reqSlot_only ..
  have taken : tableStep (settled d) e (descMod i.val settled s) = elemMod i.val e.id (fun e => { e with taken := true }) t := by
    simp only [tableStep, hv]
    exact congrArg (fun j => elemMod j e.id (fun e => { e with taken := true }) t) h.slot
  obtain ⟨u, run, found, infl, f⟩ := exec_maceElement h hi hn (by simp [elemDone, hs])
    (fun one il => (elemStep_table one il hb hk ht).trans (congrArg (tidy i.val) taken))
    ((h'.congr (c.same .mace (by decide))).elem hi' hid _) rfl ⟨hn'.fail, hn'.src, hn'.poi⟩
  exact ⟨u, _, run, found, infl, ((c.le [.mace, .ctr]).then (elemMod_only ..)).then f⟩

end Sys2Proof.Machine
end

section
/-! SUPPORT. The accesses of Mace elements to table lines and Fen lines (O35: Table 7.3, R150, R151). -/

namespace Sys2Proof.Machine

-- One declaration after the other: the threads of declarations that wait for one another exhaust the memory that a compile may take.
set_option Elab.async false

/-! ### Ends of accesses, whoever asked -/

/-- The end of a write but for its completion. -/
def writeCounted (r : Req) (m : Mask) (a : Line) (s : State) : State :=
  reqTally r (maskCount m) (watchAcc { accReq r (spanLen r.msg) m a with judge := BitVec.allOnes 16 } (occR 0x17 r (maskCount m) s))

/-- The end of a Clove operation on a line that is not poisoned, but for its completion. -/
def opCounted (r : Req) (d : Line) (s : State) : State :=
  reqTally r (maskCount (applyOp r.msg d).2.2.2)
    (watchAcc { accReq r (spanLen r.msg) (applyOp r.msg d).2.2.2 (applyOp r.msg d).1 with now := true } (cloveOcc r (applyOp r.msg d).2.2.1 s))

theorem writeEnd_eq (r : Req) (ep : Nat) (m : Mask) (a : Line) (b : Bool) (s : State) :
    writeEnd r ep m a (BitVec.allOnes 16) b s = deliverComp r b 0 ep (writeCounted r m a s) := rfl

theorem opOn_eq (r : Req) (ep : Nat) (d : Line) (s : State) : opOn r ep d false true s =
    ((applyOp r.msg d).1, (applyOp r.msg d).2.2.2, deliverComp r false (retVal r.msg (applyOp r.msg d).2.1) ep (opCounted r d s)) := rfl

section
variable {s t : State} {r : Req}

/-- An addition of a request's bytes after what leaves the tallies. -/
theorem reqTally_after {l : List Part} (k : OnlyChanges l s t) (hb : s.bad = []) (hc : swf (fun _ => 0) s.tal.val = true) (r : Req) (n : Nat)
    (j : l ⊆ [.tal, .ctr, .peat, .ints, .log, .d0] := by decide) (ht : .tal ∉ l := by decide) (hl : .bad ∉ l := by decide) :
    TallyOf s (reqTally r n t) r.msg n ∧ OnlyChanges [.tal, .ctr, .peat, .ints, .log, .d0] s (reqTally r n t) := by
  have b : t.bad = [] := (k.bad hl).trans hb
  have x : OnlyChanges [.tal, .ctr] t (reqTally r n t) := .ite (tallyAdd_clean_only _ _ _ _ t b) (.refl _ _)
  exact ⟨(reqTally_of r n t (by rw [k.tal ht]; exact hc) b).congr (k.tal ht).symm rfl, (k.le _ j).then x⟩

theorem writeCounted_spec (hb : s.bad = []) (hc : swf (fun _ => 0) s.tal.val = true) (r : Req) (m : Mask) (a : Line) :
    TallyOf s (writeCounted r m a s) r.msg (maskCount m) ∧ OnlyChanges [.tal, .ctr, .peat, .ints, .log, .d0] s (writeCounted r m a s) :=
  reqTally_after (((occR_only 0x17 r (maskCount m) s).le [.ctr, .peat, .ints, .log, .d0]).then (watchAcc_only ..)) hb hc r _

theorem opCounted_spec (hb : s.bad = []) (hc : swf (fun _ => 0) s.tal.val = true) (r : Req) (d : Line) :
    TallyOf s (opCounted r d s) r.msg (maskCount (applyOp r.msg d).2.2.2) ∧
      OnlyChanges [.tal, .ctr, .peat, .ints, .log, .d0] s (opCounted r d s) :=
  reqTally_after (((cloveOcc_only r (applyOp r.msg d).2.2.1 s).le [.ctr, .peat, .ints, .log, .d0]).then (watchAcc_only ..)) hb hc r _

/-- The completion of an element's access steps the element. -/
theorem deliverComp_elem {i id : Nat} (hs : r.src = .mace i id) (b : Bool) (x ep : Nat) (s : State) :
    deliverComp r b x ep s = elemMod i id (fun e => { e with stepped := true, poi := b }) s := by rw [deliverComp, hs]

/-- The completion of a destination line's write takes the line off the element. -/
theorem deliverComp_part {i id : Nat} (hs : r.src = .part i id) (b : Bool) (x ep : Nat) (s : State) :
    deliverComp r b x ep s = elemMod i id (fun e => { e with todo := e.todo.tail }) s := by rw [deliverComp, hs]

end

/-- A destination line's write counts nothing of the element's class (Table 11.4). -/
theorem fenCount_part {r : Req} {i id : Nat} (hs : r.src = .part i id) (s : State) : fenCount r s = s := by simp [fenCount, addServed, hs]

/-- A write to a frame line in service merges its bytes into the line, whatever its tag. -/
theorem frameWrite_merges {s : State} (h : ArrWf s) {k : Nat} (d : Line) (m : Mask) (c x : Bool) (hd : keyRetired s k = false) :
    LineAt s (frameWrite k d m c x s) k { tagGet s k with poi := x || ((tagGet s k).poi && !c) } (lineMerge (dataGet s k) d m) := by
  rw [frameWrite, hd, if_neg Bool.false_ne_true]
  exact putLine_lineAt h k _ d m

/-! ### Table lines in the array -/

/-- What a table step that completes may change beside its element. -/
def tableParts : List Part := [.arr, .mp, .tal, .regul, .ctr, .peat, .ints, .log, .d0]

section
variable {s : State} {r : Req} {i id k : Nat} {d : Desc} {e : Elem} (h : OneDesc s i d) (hi : d.infl = [e]) (hid : e.id = id)
  (hs : r.src = .mace i id) (hb : s.bad = []) (hw : StoreWf s) (hl : placeOf s (hLine r.msg) = .way k)
include h hi hid hs hb hw hl

/-- An element's write that hits the way at `k` writes its line, and its element is stepped (R62, R150). -/
theorem memWrite_elem (hp : r.poi = false) : ∃ t, memWrite r s = .done t ∧
    OneDesc t i { d with infl := [{ e with stepped := true, poi := (tagGet s k).poi && wrMask r.msg != fullMask }] } ∧
    TallyOf s t r.msg (maskCount (wrMask r.msg)) ∧
    LineAt s t k (wroteTag r { tagGet s k with pf := false }) (lineMerge (dataGet s k) (msgLine r.msg) (wrMask r.msg)) ∧
    (r.attr.wpol ≠ 2 → t.mp.writes = s.mp.writes) ∧ OnlyChanges (.mace :: tableParts) s t := by
  let x := (tagGet s k).poi && wrMask r.msg != fullMask
  let s1 := countServed r 0x22 (demandHit r k s)
  let s2 := listDrop r s1
  let s3 := wroteAt r k s2
  let s4 := writeCounted r (wrMask r.msg) (lineMerge (dataGet s k) (msgLine r.msg) (wrMask r.msg)) s3
  have o1 : OnlyChanges [.arr, .regul, .ctr] s s1 := ((demandHit_only r k s).le _).then (countServed_only ..)
  have o2 : OnlyChanges [.arr, .mp, .regul, .ctr] s s2 := (o1.le _).then (listDrop_only hp s1)
  have a2 : s2.arr = (demandHit r k s).arr := (listDrop_only hp s1).arr.trans (countServed_only r 0x22 _).arr
  have l2 : LineAt s s2 k { tagGet s k with pf := false } (dataGet s k) := (demandHit_lineAt r k hw.arr).congr rfl a2
  obtain ⟨o3, l3, m3⟩ := wroteAt_spec hp (k := k) (o2.bad.trans hb) ((demandHit_wf r k hw.arr).of_arr a2)
  rw [l2.tag, l2.data] at l3
  have o : OnlyChanges [.arr, .mp, .regul, .ctr] s s3 := o2.then o3
  obtain ⟨tally, o4⟩ := writeCounted_spec (o.bad.trans hb) (by rw [o.tal]; exact hw.tal) r (wrMask r.msg)
    (lineMerge (dataGet s k) (msgLine r.msg) (wrMask r.msg))
  have f : OnlyChanges tableParts s s4 := (o.le _).then o4
  have run : memWrite r s = .done (writeEnd r 0 (wrMask r.msg)
      (writeOn (dataGet s2 k) (msgLine r.msg) (wrMask r.msg) (wrMask r.msg == fullMask && !r.poi) (tagGet s2 k).poi).1 (BitVec.allOnes 16)
      (writeOn (dataGet s2 k) (msgLine r.msg) (wrMask r.msg) (wrMask r.msg == fullMask && !r.poi) (tagGet s2 k).poi).2 s3) := by
    unfold memWrite
    dsimp only
    rw [lookCheck_clean _ _ s hb, hl]
    rfl
  have wrote : writeOn (dataGet s2 k) (msgLine r.msg) (wrMask r.msg) (wrMask r.msg == fullMask && !r.poi) (tagGet s2 k).poi =
      (lineMerge (dataGet s k) (msgLine r.msg) (wrMask r.msg), x) := by
    rw [l2.tag, l2.data, writeOn, show (wrMask r.msg == fullMask && !r.poi) = !(wrMask r.msg != fullMask) by simp [hp, bne], Bool.not_not]
  rw [wrote, writeEnd_eq, deliverComp_elem hs] at run
  refine ⟨_, run, ?_, tally.congr o.tal.symm rfl, (l2.trans l3).congr rfl o4.arr, fun n => ?_,
    (f.le (.mace :: tableParts)).then (elemMod_only ..)⟩
  · exact (h.congr (f.same .mace (by decide))).elem hi hid _
  · show s4.mp.writes = _
    rw [o4.mp, m3, if_neg n, listDrop_mp hp o1.mp]

/-- An element's Clove operation that hits the way at `k`, not poisoned, acts on its line, and its element is stepped (R126, R150). -/
theorem memOp_elem (hp : (tagGet s k).poi = false) : ∃ t, memOp r s = .done t ∧
    OneDesc t i { d with infl := [{ e with stepped := true, poi := false }] } ∧
    TallyOf s t r.msg (maskCount (applyOp r.msg (dataGet s k)).2.2.2) ∧
    LineAt s t k (opTag r (tagGet s k)) (lineMerge (dataGet s k) (applyOp r.msg (dataGet s k)).1 (applyOp r.msg (dataGet s k)).2.2.2) ∧
    (r.attr.wpol ≠ 2 → t.mp = s.mp) ∧ OnlyChanges (.mace :: tableParts) s t := by
  let x := applyOp r.msg (dataGet s k)
  let g := { tagGet s k with pf := false }
  let s1 := countServed r 0x22 (demandHit r k s)
  let s2 := opCounted r (dataGet s k) s1
  let s3 := elemMod i id (fun e => { e with stepped := true, poi := false }) s2
  have o1 : OnlyChanges [.arr, .regul, .ctr] s s1 := ((demandHit_only r k s).le _).then (countServed_only ..)
  have a1 : s1.arr = (demandHit r k s).arr := (countServed_only r 0x22 _).arr
  have l1 : LineAt s s1 k g (dataGet s k) := (demandHit_lineAt r k hw.arr).congr rfl a1
  obtain ⟨tally, o2⟩ := opCounted_spec (o1.bad.trans hb) (by rw [o1.tal]; exact hw.tal) r (dataGet s k)
  have a2 : s2.arr = s1.arr := o2.arr
  have f : OnlyChanges tableParts s s2 := (o1.le _).then o2
  have l3 : LineAt s s3 k g (dataGet s k) := l1.congr rfl a2
  obtain ⟨o4, l4, m4⟩ := opLeaves_spec r k x.1 x.2.2.2 (e := g) (s := s3) (f.bad.trans hb) ((demandHit_wf r k hw.arr).of_arr (a2.trans a1)) hp
  rw [l3.data] at l4
  have run : memOp r s = .done (opLeaves r k (tagGet s1 k) (opOn r 0 (dataGet s1 k) (tagGet s1 k).poi true s1).1
      (opOn r 0 (dataGet s1 k) (tagGet s1 k).poi true s1).2.1 (opOn r 0 (dataGet s1 k) (tagGet s1 k).poi true s1).2.2) := by
    simp only [memOp, lookCheck_clean _ _ s hb, hl, wayCheck_clean _ _ s hb]
    rfl
  rw [l1.tag, l1.data, show g.poi = false from hp, opOn_eq, deliverComp_elem hs] at run
  have one : OneDesc s3 i { d with infl := [{ e with stepped := true, poi := false }] } := (h.congr (f.same .mace (by decide))).elem hi hid _
  refine ⟨_, run, one.congr (o4.same .mace (by decide)), tally.congr o1.tal.symm o4.tal, l3.trans l4, fun n => ?_,
    ((f.le (.mace :: tableParts)).then (elemMod_only ..)).then o4⟩
  rw [m4, opMem, if_neg fun y => n y.1]
  exact o2.mp.trans o1.mp

end

/-! ### Destination lines in the Fen -/

/-- What a write to a destination line may change. -/
def destParts : List Part := [.mace, .arr, .tal, .ctr, .peat, .ints, .log, .d0]

section
variable {s : State} {r : Req} {l : FenLoc} {i id : Nat} {d : Desc} {e : Elem} (h : OneDesc s i d) (hi : d.infl = [e]) (hid : e.id = id)
  (hs : r.src = .part i id) (hx : r.exact = none) (hp : r.poi = false) (hb : s.bad = []) (hw : StoreWf s) (hd : keyRetired s (locKey l) = false)
include h hi hid hs hx hp hb hw hd

/-- The write of a destination line writes its bytes, and takes the line off its element (R151). -/
theorem fenStep_partWr (ho : hOpcode r.msg = Op.wr) : ∃ t, fenStep r l s = .done t ∧
    OneDesc t i { d with infl := [{ e with todo := e.todo.tail }] } ∧
    (∃ g, LineAt s t (locKey l) g (lineMerge (dataGet s (locKey l)) (msgLine r.msg) (wrMask r.msg))) ∧ OnlyChanges destParts s t := by
  let c := wrMask r.msg == fullMask
  let s1 := frameWrite (locKey l) (msgLine r.msg) (wrMask r.msg) c false s
  have o1 : OnlyChanges [.arr] s s1 := frameWrite_only _ _ _ _ _ s hb
  obtain ⟨g, l1⟩ : ∃ g, LineAt s s1 (locKey l) g (lineMerge (dataGet s (locKey l)) (msgLine r.msg) (wrMask r.msg)) :=
    ⟨_, frameWrite_merges hw.arr _ _ c false hd⟩
  obtain ⟨-, o2⟩ := writeCounted_spec (o1.bad.trans hb) (by rw [o1.tal]; exact hw.tal) r (wrMask r.msg) (dataGet s1 (locKey l))
  let s2 := writeCounted r (wrMask r.msg) (dataGet s1 (locKey l)) s1
  have f : OnlyChanges [.arr, .tal, .ctr, .peat, .ints, .log, .d0] s s2 := (o1.le _).then o2
  refine ⟨elemMod i id (fun e => { e with todo := e.todo.tail }) s2, ?_, (h.congr (f.same .mace (by decide))).elem hi hid _,
    ⟨g, l1.congr rfl o2.arr⟩, (f.le destParts).then (elemMod_only ..)⟩
  rw [← deliverComp_part hs ((tagGet s (locKey l)).poi && !c) 0 l.epoch.toNat, ← writeEnd_eq]
  simp [fenStep, hx, ho, hp, fenCount_part hs, setCheck_clean _ _ s hb, hd, reqWrite, s1, c]

/-- The addition to a destination line that is not poisoned adds to it, and takes the line off its element (R103, R151). -/
theorem fenStep_partRed (ho : hOpcode r.msg = Op.red) (hl : (tagGet s (locKey l)).poi = false) : ∃ t, fenStep r l s = .done t ∧
    OneDesc t i { d with infl := [{ e with todo := e.todo.tail }] } ∧
    (∃ g, LineAt s t (locKey l) g (lineMerge (dataGet s (locKey l)) (applyOp r.msg (dataGet s (locKey l))).1
      (applyOp r.msg (dataGet s (locKey l))).2.2.2)) ∧ OnlyChanges destParts s t := by
  let x := applyOp r.msg (dataGet s (locKey l))
  let s1 := opCounted r (dataGet s (locKey l)) s
  let s2 := elemMod i id (fun e => { e with todo := e.todo.tail }) s1
  obtain ⟨-, o1⟩ := opCounted_spec hb hw.tal r (dataGet s (locKey l))
  have a : s2.arr = s.arr := o1.arr
  have o2 : OnlyChanges destParts s s2 := (o1.le destParts).then (elemMod_only ..)
  have live : keyRetired s2 (locKey l) = false := by rw [← hd, o2.eq_blend]; rfl
  have o3 := frameWrite_only (locKey l) x.1 x.2.2.2 false false s2 (o2.bad.trans hb)
  have l3 := frameWrite_merges (hw.arr.of_arr a) x.1 x.2.2.2 false false live
  rw [dataGet_arr a] at l3
  refine ⟨_, ?_, ((h.congr (o1.same .mace (by decide))).elem hi hid _).congr (o3.same .mace (by decide)), ⟨_, l3.congr a.symm rfl⟩,
    o2.then o3⟩
  show _ = StepRes.done (frameWrite _ _ _ _ _ (elemMod i id (fun e => { e with todo := e.todo.tail }) s1))
  rw [← deliverComp_part hs false (retVal r.msg x.2.1) l.epoch.toNat]
  simp [fenStep, hx, ho, show Op.red ≠ Op.wr by decide, hp, fenCount_part hs, frameRead_clean _ _ s hb hd, hl, opOn_eq, s1, x]

end

end Sys2Proof.Machine
end

section
/-! SUPPORT. The steps of Mace elements: table reads and writes, source reads, deliveries (O35: R150, R151, Table 7.3). -/

namespace Sys2Proof.Machine

-- One declaration after the other: the threads of declarations that wait for one another exhaust the memory that a compile may take.
set_option Elab.async false

/-! ### Table steps (R150) -/

theorem maceElementReads : MaceElementReads := by
  intro i s d e k h hs hi ht hst hf hsrc hto hk hes ho hfen hh he hl hp
  have one := h.one hs
  have noFault : NoFault d e := ⟨hf, fun x hx => absurd (hsrc.symm.trans hx) nofun, fun _ y => absurd (hst.symm.trans y) nofun⟩
  let s0 := descMod i.val settled s
  obtain ⟨v, read, hit⟩ := memRead_way (s := s0) (r := e.req) h.clean hl .plain
  let e1 : Elem := { e with src := some (dataGet s k, false), stepped := true }
  let w := elemMod i.val e.id (fun e => { e with src := some (dataGet s k, false), stepped := true }) v
  have w1 : OneDesc w i.val { settled d with infl := [e1] } := by
    refine OneDesc.elem (OneDesc.congr (one.mod (f := settled) hs) (hit.frame.same .mace (by decide))) ?_ rfl _
    rw [settled_infl hi, elemDone, hst]
    rfl
  have access : memAccess e.req s0 = .done w := by
    rw [memAccess_rd (.inl ho), read, readEnd, deliverRead, hes, show (tagGet s0 k).poi = false from hp]
    rfl
  have step := reqStep_access (s := s0) hfen (by rw [ho]; rfl) h.clean hh he access
  rw [enginePredict_other (by rw [ho]; decide), ite_self] at step
  obtain ⟨u, x, run, found, infl, c⟩ := exec_tableStep one hi noFault h.clean (absurd hk) ht hst step w1 rfl rfl
    ⟨hf, fun y hy => by cases hy; rfl, fun y => absurd (hk.symm.trans y) (by decide)⟩
  have f : OnlyChanges [.mace, .arr, .regul, .ctr, .peat, .ints, .log, .d0] s w :=
    ((descMod_only i.val settled s).le _ |>.then hit.frame).then (elemMod_only ..)
  have line := (hit.line (placeOf_valid hl)).congr (s' := s) (u' := u) rfl c.arr
  have going : elemDone e1 = false := by simp [elemDone, e1, hto, hf]
  rw [going] at infl
  exact ⟨u, x, _, run, found, infl, rfl, rfl, rfl, rfl, rfl, (congrArg ArraySt.data c.arr).trans hit.data, line.tag, line.tags, f.then c⟩

section
variable {i : Fin 8} {s : State} {d : Desc} {e : Elem}

theorem SoundElem.one (h : SoundElem s i d e) : OneDesc s i.val d := h.desc.one h.slot

/-- An element that is sound has met no fault. -/
theorem SoundElem.noFault (h : SoundElem s i d e) : NoFault d e := ⟨h.fail, h.src, fun _ _ => h.poi⟩

/-- The descriptor as the element's step finds it. -/
theorem SoundElem.tidied (h : SoundElem s i d e) (hg : elemDone e = false) :
    OneDesc (descMod i.val settled s) i.val (settled d) ∧ (settled d).infl = [e] :=
  ⟨h.one.mod (f := settled) h.slot, by rw [settled_infl h.infl, hg]; rfl⟩

end

theorem maceTableWrites : MaceTableWrites := by
  intro i s d e k h hto ht hst hes hfen hp c hh he hl
  have hb := h.desc.clean
  let s0 := descMod i.val settled s
  have w0 : StoreWf s0 := ⟨⟨c.tags, c.data⟩, c.tal⟩
  obtain ⟨one, il⟩ := h.tidied (by simp [elemDone, hst])
  have done : ∀ b, elemDone { e with stepped := true, poi := b } = true := fun b => by simp [elemDone, hto]
  refine ⟨fun hk ho => ?_, fun hk ho hl0 => ?_⟩
  · obtain ⟨t, wrote, h', tally, line, writes, f⟩ := memWrite_elem (s := s0) one il rfl hes hb w0 hl hp
    have step := reqStep_access (s := s0) hfen (by rw [ho]; rfl) hb hh he (memAccess_wr hp ho wrote)
    rw [enginePredict_other (by rw [ho]; decide), ite_self] at step
    obtain ⟨u, x, run, found, infl, g⟩ := exec_tableStep h.one h.infl h.noFault hb (fun _ => hto) ht hst step h' rfl rfl
      ⟨h.fail, h.src, fun y => absurd (hk.symm.trans y) (by decide)⟩
    have l := line.congr (s' := s) (u' := u) rfl g.arr
    rw [done] at infl
    exact ⟨u, x, run, found, infl, l.data, l.datas, l.tag, l.tags, tally.congr rfl g.tal, fun n => by rw [g.mp]; exact writes n,
      ((descMod_only i.val settled s).le _ |>.then f).then g⟩
  · obtain ⟨t, acted, h', tally, line, mp, f⟩ := memOp_elem (s := s0) one il rfl hes hb w0 hl hl0
    have step := reqStep_access (s := s0) hfen (by rw [ho]; rfl) hb hh he (memAccess_op hp (.inl ho) acted)
    have p : OnlyChanges [.home] t (if pdOn s0 68 then enginePredict e.req t else t) := .ite (enginePredict_only e.req (f.bad.trans hb)) (.refl _ _)
    obtain ⟨u, x, run, found, infl, g⟩ := exec_tableStep h.one h.infl h.noFault hb (fun _ => hto) ht hst step
      (h'.congr (p.same .mace (by decide))) rfl rfl ⟨h.fail, h.src, fun _ _ => rfl⟩
    have q : OnlyChanges [.home, .mace, .ctr] t u := (p.le _).then g
    have l := line.congr (s' := s) (u' := u) rfl q.arr
    rw [done] at infl
    exact ⟨u, x, run, found, infl, l.data, l.datas, l.tag, l.tags, tally.congr rfl q.tal, fun n => by rw [q.mp]; exact mp n,
      ((descMod_only i.val settled s).le _ |>.then (f.le [.mace, .arr, .mp, .tal, .regul, .home, .ctr, .peat, .ints, .log, .d0])).then q⟩

/-! ### Source reads (R150) -/

/-- The bytes of an element's table access once those of source line `y` are among them. -/
def sourceLine (e : Elem) (p : PLine) (y : Line) : Line :=
  let sp := partSpan e.paddr e.len p.line
  linePut (e.src.getD (0, false)).1 (e.taddr % 128 + (sp.1 - e.paddr)) sp.2 (lineNat y (sp.1 % 128) sp.2)

/-- The element that has read its next source line, with bytes `x` for its table access. -/
def sourced (s : State) (d : Desc) (e : Elem) (x : Line) : Elem :=
  { e with src := some (x, false), todo := e.todo.tail,
           req := { e.req with msg := elemMsg s d (hOpcode e.req.msg) (hAspace e.req.msg) e.len e.taddr x true, poi := false } }

/-- A source line that is not poisoned, on a bank in service, is read into its element. -/
theorem sourceStep_reads {s : State} {d : Desc} {e : Elem} {p : PLine} {l : FenLoc} (hp : p.loc = some l) (hb : s.bad = [])
    (hl : (tagGet s (locKey l)).poi = false) (hd : keyRetired s (locKey l) = false) (hs : ∀ x, e.src = some x → x.2 = false) :
    ∃ v, OnlyChanges [.ctr] s v ∧
      sourceStep d e p s = elemMod d.slot e.id (fun _ => sourced s d e (sourceLine e p (dataGet s (locKey l)))) v := by
  have f : OnlyChanges [.ctr] s (reqSlot (locKey l / 32) true (subjReq e.req) s) := reqSlot_only ..
  refine ⟨_, f, ?_⟩
  have clean : (e.src.getD (0, false)).2 = false := by
    cases h : e.src with
    | none => rfl
    | some x => exact hs x h
  have read := frameRead_clean (some (subjReq d.req)) (locKey l) (reqSlot (locKey l / 32) true (subjReq e.req) s) (f.bad.trans hb) hd
  rw [tagGet_arr f.arr, hl, dataGet_arr f.arr] at read
  simp only [sourceStep, hp, read, sourced, sourceLine, fromPartner, Option.getD_some, clean, Bool.or_false, Bool.false_and,
    Bool.not_false, Bool.true_or]

theorem maceSourceReads : MaceSourceReads := by
  intro i s d e p rest l x h hk hto hp hst hl hd hx
  have hk0 : Md.kind d.n ≠ 0 := by rcases hk with k | k <;> rw [k] <;> decide
  have hg : elemDone e = false := by simp [elemDone, hst]
  let s0 := descMod i.val settled s
  obtain ⟨v, f, reads⟩ := sourceStep_reads (s := s0) (d := settled d) hp h.desc.clean hl hd h.src
  obtain ⟨one, il⟩ := h.tidied hg
  rw [show sourceLine e p (dataGet s0 (locKey l)) = x from hx.symm, show (settled d).slot = i.val from h.slot] at reads
  obtain ⟨u, run, found, infl, g⟩ := exec_maceElement h.one h.infl h.noFault hg
    (fun one il => (elemStep_source one il h.desc.clean hk0 hto).trans (congrArg (tidy i.val) reads))
    ((one.congr (f.same .mace (by decide))).elem il rfl _) rfl
    ⟨h.fail, fun y hy => by cases hy; rfl, fun _ y => absurd (hst.symm.trans y) (by decide)⟩
  have going : elemDone (sourced s0 (settled d) e x) = false := by
    rw [elemDone, show (sourced s0 (settled d) e x).stepped = false from hst]
    rfl
  rw [going] at infl
  exact ⟨u, _, _, run, found, infl, rfl, congrArg List.tail hto, rfl, hst, rfl,
    (((descMod_only i.val settled s).le _ |>.then f).then (elemMod_only ..)).then g⟩

/-! ### Deliveries (R151) -/

/-- The access of a gather's write to destination line `p` at `l`, of table bytes `x`. -/
def destMsg (s : State) (d : Desc) (e : Elem) (p : PLine) (x : Line) : Msg :=
  elemMsg s d (if Md.dadd d.n then Op.red else Op.wr) 1 (partSpan e.paddr e.len p.line).2 (partSpan e.paddr e.len p.line).1
    (toPartner e x p.line) true

/-- A destination line's write that is performed. -/
theorem destStep_done {s t : State} {d : Desc} {e : Elem} {p : PLine} {l : FenLoc} {x : Line} (hp : p.loc = some l) (hx : p.exact = none)
    (hs : e.src = some (x, false)) (ht : fenStep (elemReq s d (.part d.slot e.id) (destMsg s d e p x) (some l) none false) l s = .done t) :
    ∃ v, destStep d e p s = v ∧ OnlyChanges [.ctr] t v := by
  refine ⟨_, rfl, ?_⟩
  rw [destMsg] at ht
  simp only [destStep, hp, hx, hs, Option.getD_some, Bool.false_and, Bool.not_false, Bool.true_or, ht, Option.isSome_none,
    Bool.false_eq_true, if_false]
  exact reqSlot_only ..

theorem destMsg_opcode (s : State) (d : Desc) (e : Elem) (p : PLine) (x : Line) :
    hOpcode (destMsg s d e p x) = if Md.dadd d.n then Op.red else Op.wr := by
  refine (fld_pack (v := if Md.dadd d.n then Op.red else Op.wr) (by simp) (by simp) (by decide)).trans (Nat.mod_eq_of_lt ?_)
  split <;> decide

/-- The span of a piece in a partner line that holds the whole of it. -/
theorem partSpan_whole {a n : Nat} (h : a % 128 + n ≤ 128) : partSpan a n (a / 128) = (a, n) := by
  simp only [partSpan, Prod.mk.injEq]
  omega

/-- The elements of row `k` have their bytes of destination line `j` in egress. -/
def rowBusy (k j : Nat) (d : Desc) : Desc :=
  { d with infl := lmod (·.k = k) (fun x => { x with todo := x.todo.map fun q => { q with busy := q.busy || q.line == j } }) d.infl }

/-- The DATA message of a row of table bytes `x` that lies in one destination line (R151). -/
def rowMsg (s : State) (d : Desc) (e : Elem) (x : Line) : Msg where
  hdr := rspHdr Op.data Vc.dat 0 (Md.dreqid d.n) (chipN s) (Md.dchip d.n) (hTc d.req.msg) (Md.dtxid d.n) (hWtag d.req.msg) St.ok
    (beatMap (e.paddr % 128) e.len) e.len 0 0 0 0 e.paddr false
  beats := spanData (e.paddr % 128) e.len (linePut 0 (e.paddr % 128) e.len (lineNat x (e.taddr % 128) e.len))
  be := (spanData (e.paddr % 128) e.len (linePut 0 (e.paddr % 128) e.len (lineNat x (e.taddr % 128) e.len))).map fun _ => BitVec.allOnes 64

theorem rowMsg_fields (s : State) (d : Desc) (e : Elem) (x : Line) (h : e.paddr < 2 ^ 44) : hOpcode (rowMsg s d e x) = Op.data ∧
    hStatus (rowMsg s d e x) = St.ok ∧ hDst (rowMsg s d e x) = Md.dchip d.n ∧ hReqid (rowMsg s d e x) = Md.dreqid d.n ∧
    hTxid (rowMsg s d e x) = Md.dtxid d.n ∧ hAddr (rowMsg s d e x) = e.paddr := by
  refine ⟨fld_pack (v := Op.data) ?_ ?_ ?_, fld_pack (v := St.ok) ?_ ?_ ?_, (fld_pack (v := Md.dchip d.n) ?_ ?_ ?_).trans (fld_mod ..),
    (fld_pack (v := Md.dreqid d.n) ?_ ?_ ?_).trans (fld_mod ..), (fld_pack (v := Md.dtxid d.n) ?_ ?_ ?_).trans (fld_mod ..),
    (fld_pack (v := e.paddr) ?_ ?_ ?_).trans (Nat.mod_eq_of_lt h)⟩
  all_goals simp

/-- Bytes that are moved to the span they are read from next. -/
theorem linePut_lineNat_linePut {o n a : Nat} (x : Line) (h : o + n ≤ 128) :
    linePut 0 o n (lineNat (linePut 0 o n (lineNat x a n)) o n) = linePut 0 o n (lineNat x a n) := by
  rw [lineNat_linePut_same 0 _ h, lineNat, fld_mod]

/-- The destination line of a whole row is sent (R151). -/
theorem dataStep_sends {s : State} {d : Desc} {e : Elem} {p : PLine} {x : Line} (hi : d.infl = [e]) (hs : e.src = some (x, false)) (hp : e.todo = [p])
    (ha : e.paddr = Md.xbase d.n + e.k * Md.xpitch d.n) (hl : e.len = Md.rowlen d.n) (hj : p.line = e.paddr / 128)
    (hw : e.paddr % 128 + e.len ≤ 128) : dataStep d e p s =
      descMod d.slot (rowBusy e.k p.line)
        (emit d.req.port { msg := rowMsg s d e x, subj := some (subjReq d.req), post := .maceData d.slot e.k p.line } s) := by
  have grp : (d.infl.filter fun x => x.k == e.k && x.todo.any (·.line == p.line)) = [e] := by simp [hi, hp]
  have span : partSpan e.paddr e.len p.line = (e.paddr, e.len) := hj ▸ partSpan_whole hw
  have lo : max e.paddr (128 * p.line) = e.paddr := by omega
  have upTo : min (e.paddr + e.len) (128 * p.line + 128) = e.paddr + e.len := by omega
  have first : min (e.paddr + e.len) e.paddr = e.paddr := Nat.min_eq_right (Nat.le_add_right ..)
  have moved : linePut 0 (e.paddr % 128) e.len (lineNat (toPartner e x p.line) (e.paddr % 128) e.len) =
      linePut 0 (e.paddr % 128) e.len (lineNat x (e.taddr % 128) e.len) := by
    rw [toPartner, span]
    simpa using linePut_lineNat_linePut x hw
  simp only [dataStep, grp, ← ha, ← hl, List.foldl_cons, List.foldl_nil, List.all_cons, List.all_nil, span, lo, upTo, first, hs, Option.getD_some,
    Option.isSome_some, Nat.zero_add, moved]
  rw [if_neg (by simp), Bool.or_self, show poiSt false = St.ok from rfl]
  rfl

/-- MACE_ELEMENT of a gather whose last destination line is written: the element is done with. -/
theorem exec_destStep {i : Fin 8} {s t : State} {d : Desc} {e : Elem} {p : PLine} {l : FenLoc} {x : Line} (h : SoundElem s i d e)
    (hk : Md.kind d.n = 0) (hd : Md.dkind d.n = 0) (ht : e.taken = true) (hst : e.stepped = true) (hs : e.src = some (x, false)) (hto : e.todo = [p])
    (hy : p.busy = false) (hp : p.loc = some l) (hx : p.exact = none)
    (step : fenStep (elemReq (descMod i.val settled s) (settled d) (.part i.val e.id) (destMsg s d e p x) (some l) none false) l
      (descMod i.val settled s) = .done t) (h' : OneDesc t i.val { settled d with infl := [{ e with todo := e.todo.tail }] })
    (f : OnlyChanges destParts (descMod i.val settled s) t) :
    ∃ u x, exec (.maceElement i e.id) s = .next u ∧ descFind u i.val = some x ∧ x.infl = [] ∧ u.arr = t.arr ∧
      OnlyChanges destParts s u := by
  obtain ⟨v, dest, c⟩ := destStep_done (d := settled d) hp hx hs (by rw [show (settled d).slot = i.val from h.slot]; exact step)
  obtain ⟨u, run, found, infl, g⟩ := exec_maceElement h.one h.infl h.noFault (by simp [elemDone, hto, h.fail])
    (fun one il => (elemStep_dest one il h.desc.clean hk ht hst hto hy hd).trans (congrArg (tidy i.val) dest))
    (h'.congr (c.same .mace (by decide))) rfl ⟨h.fail, h.src, fun _ _ => h.poi⟩
  have done : elemDone { e with todo := e.todo.tail } = true := by simp [elemDone, hst, hto]
  rw [done] at infl
  exact ⟨u, _, run, found, infl, g.arr.trans c.arr, (((descMod_only i.val settled s).le _ |>.then f).then c).then g⟩

theorem maceDelivers : MaceDelivers := by
  refine ⟨fun i s d e p l x m h hk hd ht hst hs hto hy hp hx hr c hm => ?_,
    fun i s d e p x h hk hd ht hst hs hto hy ha hl h1 hj hw hv hb => ?_⟩
  · let s0 := descMod i.val settled s
    let r := elemReq s0 (settled d) (.part i.val e.id) (destMsg s d e p x) (some l) none false
    have w0 : StoreWf s0 := ⟨⟨c.tags, c.data⟩, c.tal⟩
    obtain ⟨one, il⟩ := h.tidied (by simp [elemDone, hto, h.fail])
    have ho := destMsg_opcode s d e p x
    subst hm
    refine ⟨fun ha => ?_, fun ha hl => ?_⟩
    · rw [ha] at ho
      obtain ⟨t, step, h', ⟨g, line⟩, f⟩ := fenStep_partWr (s := s0) (r := r) one il rfl rfl rfl rfl h.desc.clean w0 hr ho
      obtain ⟨u, y, run, found, infl, arr, frame⟩ := exec_destStep h hk hd ht hst hs hto hy hp hx step h' f
      have w := line.congr (s' := s) rfl arr
      exact ⟨u, y, run, found, infl, w.data, w.datas, w.tags, frame⟩
    · rw [ha] at ho
      obtain ⟨t, step, h', ⟨g, line⟩, f⟩ := fenStep_partRed (s := s0) (r := r) one il rfl rfl rfl rfl h.desc.clean w0 hr ho hl
      obtain ⟨u, y, run, found, infl, arr, frame⟩ := exec_destStep h hk hd ht hst hs hto hy hp hx step h' f
      have w := line.congr (s' := s) rfl arr
      exact ⟨u, y, run, found, infl, w.data, w.datas, w.tags, frame⟩
  · let s0 := descMod i.val settled s
    let o : Out := { msg := rowMsg s d e x, subj := some (subjReq d.req), post := .maceData i.val e.k p.line }
    have sends := dataStep_sends (s := s0) (d := settled d) (h.tidied (by simp [elemDone, hto, h.fail])).2 hs hto ha hl hj hw
    rw [show (settled d).slot = i.val from h.slot] at sends
    obtain ⟨one, il⟩ := h.tidied (by simp [elemDone, hto, h.fail])
    have q : OnlyChanges [.d0, .d1, .sout] s0 (emit d.req.port o s0) := (emit_only d.req.port o s0).mono (by cases d.req.port <;> decide)
    have one' := (one.congr (q.same .mace (by decide))).mod (f := rowBusy e.k p.line) one.slot
    have infl' : (rowBusy e.k p.line (settled d)).infl = [{ e with todo := [{ p with busy := true }] }] := by simp [rowBusy, il, lmod, hto]
    obtain ⟨u, run, found, infl, g⟩ := exec_maceElement h.one h.infl h.noFault (by simp [elemDone, hto, h.fail])
      (fun one il => (elemStep_data one il h.desc.clean hk ht hst hto hy hd).trans (congrArg (tidy i.val) sends)) one' infl'
      ⟨h.fail, h.src, fun _ _ => h.poi⟩
    obtain ⟨op, st, dst, reqid, txid, addr⟩ := rowMsg_fields s d e x hb
    have going : elemDone { e with todo := [{ p with busy := true }] } = false := by simp [elemDone, h.fail]
    rw [going] at infl
    refine ⟨u, o, _, _, run, ?_, op, st, dst, reqid, txid, addr, rfl, found, infl, rfl, ?_⟩
    · rw [g.out _ (by cases d.req.port <;> decide)]
      exact (congrArg List.getLast? (emit_out d.req.port o s0)).trans List.getLast?_concat
    · exact ((((descMod_only i.val settled s).le [.mace, .d0, .d1, .sout]).then q).then (descMod_only ..)).then g

end Sys2Proof.Machine
end

section
/-! SUPPORT. The issue of Mace elements, and pads (O35: R146, R148, R150, R273, log 36). -/

namespace Sys2Proof.Machine

-- One declaration after the other: the threads of declarations that wait for one another exhaust the memory that a compile may take.
set_option Elab.async false

/-! ### A turn of the round robin over one descriptor (R148) -/

/-- What a turn of slot `i` issues. -/
def turnOf (i : Nat) (s : State) : Option State :=
  (descFind s i).bind fun _ => (descFind (tidy i s) i).bind fun d => issueFor d (tidy i s)

/-- What the turn of place `i` of the round robin issues, with its slot. -/
def turnAt (s : State) (i : Nat) : Option (Nat × State) := (turnOf ((s.mace.rr + 1 + i) % 8) s).map fun t => ((s.mace.rr + 1 + i) % 8, t)

/-- A turn of the round robin keeps what the first place that issues leaves. -/
theorem issueOne_eq (s : State) :
    issueOne s = ((List.range 8).findSome? (turnAt s)).elim s fun x => { x.2 with mace := { x.2.mace with rr := x.1 } } := by
  have turn : ∀ {f : Nat → Option (Nat × State)} {x}, (List.range 8).findSome? f = x → (∀ i, turnAt s i = f i) → (List.range 8).findSome? (turnAt s) = x :=
    fun hx hf => by rw [funext hf, hx]
  unfold issueOne
  dsimp only
  split
  case h_1 slot t found =>
    rw [turn found fun i => by unfold turnAt turnOf; cases descFind s ((s.mace.rr + 1 + i) % 8) <;> rfl]
    rfl
  case h_2 idle =>
    rw [turn idle fun i => by unfold turnAt turnOf; cases descFind s ((s.mace.rr + 1 + i) % 8) <;> rfl]
    rfl

section
variable {s : State} {d : Desc} (h : s.mace.descs = [d])
include h

theorem descFind_alone (i : Nat) : descFind s i = if d.slot = i then some d else none := by
  by_cases e : d.slot = i <;> simp [descFind, h, e]

/-- A slot that is not the descriptor's issues nothing. -/
theorem turnOf_other {i : Nat} (n : d.slot ≠ i) : turnOf i s = none := by rw [turnOf, descFind_alone h, if_neg n, Option.bind_none]

/-- A turn that issues nothing for the only descriptor leaves the state. -/
theorem issueOne_none (k : turnOf d.slot s = none) : issueOne s = s := by
  have idle : (List.range 8).findSome? (turnAt s) = none := by
    refine List.findSome?_eq_none_iff.mpr fun i _ => Option.map_eq_none_iff.mpr ?_
    by_cases e : d.slot = (s.mace.rr + 1 + i) % 8
    · rw [← e, k]
    · exact turnOf_other h e
  rw [issueOne_eq, idle, Option.elim_none]

/-- The only descriptor has each turn. -/
theorem issueOne_some {t : State} (hs : d.slot < 8) (k : turnOf d.slot s = some t) :
    issueOne s = { t with mace := { t.mace with rr := d.slot } } := by
  have all : ∀ i y, turnAt s i = some y → y = (d.slot, t) := by
    intro i y hy
    obtain ⟨x, hx, rfl⟩ := Option.map_eq_some_iff.mp hy
    by_cases e : d.slot = (s.mace.rr + 1 + i) % 8
    · rw [← e] at hx ⊢
      rw [Option.some.inj (k.symm.trans hx)]
    · rw [turnOf_other h e] at hx
      cases hx
  have taken : (List.range 8).findSome? (turnAt s) = some (d.slot, t) := by
    have slot : (s.mace.rr + 1 + (d.slot + 8 - (s.mace.rr + 1) % 8) % 8) % 8 = d.slot := by omega
    cases e : (List.range 8).findSome? (turnAt s) with
    | none =>
      have z := List.findSome?_eq_none_iff.mp e ((d.slot + 8 - (s.mace.rr + 1) % 8) % 8) (List.mem_range.mpr (Nat.mod_lt _ (by decide)))
      simp only [turnAt, slot, k] at z
      cases z
    | some y =>
      obtain ⟨i, -, hy⟩ := List.exists_of_findSome?_eq_some e
      rw [all i y hy]
  rw [issueOne_eq, taken, Option.elim_some]

end

/-- A descriptor past its last index issues nothing. -/
theorem issueFor_past {d : Desc} (s : State) (h : Md.count d.n ≤ d.k) : issueFor d s = none := by simp [issueFor, h]

/-- MACE_ELEMENT_ISSUE where the only descriptor has its last index: its first turn issues, and its second finds none. -/
theorem exec_maceElementIssue {s t : State} {d x : Desc} (h : s.mace.descs = [d]) (a : ActiveDesc s d) (hs : d.slot < 8) (hh : s.srv.halt = false)
    (hi : d.infl = []) (hw : d.rows = []) (issues : issueFor d s = some t) (ht : t.mace.descs = [x]) (hx : x.slot = d.slot)
    (hn : ∀ e ∈ x.infl, NoFault x e) (last : Md.count x.n ≤ x.k) :
    exec .maceElementIssue s = .next { t with mace := { t.mace with rr := d.slot } } := by
  let v : State := { t with mace := { t.mace with rr := d.slot } }
  have first : turnOf d.slot s = some t := by rw [turnOf, a.tidy_eq hi hw, a.found]; exact issues
  have one : OneDesc v d.slot x := ⟨by rw [show v.mace.descs = [x] from ht]; exact List.mem_singleton_self x, hx,
    fun y hy _ => List.mem_singleton.mp (ht ▸ hy)⟩
  have second : turnOf x.slot v = none := by
    rw [hx, turnOf, one.found, tidy_settles one hn]
    show ((descFind (descMod d.slot settled v) d.slot).bind fun y => issueFor y (descMod d.slot settled v)) = none
    rw [(one.mod (f := settled) hx).found]
    exact issueFor_past _ last
  show Host.Outcome.next (if s.srv.halt then s else issueOne (issueOne s)) = _
  rw [if_neg (ne_true_of_eq_false hh), issueOne_some h hs first]
  exact congrArg Host.Outcome.next (issueOne_none (s := v) ht second)

/-! ### The element that an index names -/

/-- The descriptor that has issued `e`, the last element of its row, goes on to its next index. -/
def issuedTo (e : Elem) (d : Desc) : Desc := nextIdx (rowNote d.k e.pad true { d with infl := d.infl ++ [e], nextId := d.nextId + 1 })

/-- What issuing `e`, the last element of its row, leaves. -/
def issueElem (d : Desc) (e : Elem) (s : State) : State :=
  descMod d.slot (issuedTo e) (addDemand d.req (if e.pad then 0 else e.len) (occR 0x71 d.req 1 s))

/-- The partner lines of a whole row that is delivered in DATA. -/
def rowLines (d : Desc) : List PLine :=
  (partLines (Md.xbase d.n + d.k * Md.xpitch d.n) (Md.rowlen d.n)).map fun j => { line := j, loc := none, exact := none, busy := false }

/-- The element of the row that index value `v` names, where it lies in one table line of memory. -/
def rowElem (s : State) (d : Desc) (v : Nat) : Elem where
  id := d.nextId
  k := d.k
  off := 0
  taddr := Md.tbase d.n + v * Md.tstride d.n
  paddr := Md.xbase d.n + d.k * Md.xpitch d.n
  len := Md.rowlen d.n
  pad := false
  src := none
  todo := rowLines d
  req := elemReq s d (.mace d.slot d.nextId) (elemMsg s d Op.rd 0 (Md.rowlen d.n) (Md.tbase d.n + v * Md.tstride d.n) 0 true) none none false
  taken := false
  stepped := false
  poi := false
  fail := none

/-- The element of the zeros that a pad delivers, where they go to one destination line (R146). -/
def padElem (d : Desc) : Elem where
  id := d.nextId
  k := d.k
  off := 0
  taddr := 0
  paddr := Md.xbase d.n + d.k * Md.xpitch d.n
  len := Md.rowlen d.n
  pad := true
  src := some (0, false)
  todo := rowLines d
  req := d.req
  taken := true
  stepped := true
  poi := false
  fail := none

theorem elemMsg_fields (s : State) (d : Desc) {op asp a : Nat} (ho : op < 2 ^ 6) (hp : asp < 2 ^ 2) (ha : a < 2 ^ 44) (n : Nat) (x : Line)
    (en : Bool) :
    hOpcode (elemMsg s d op asp n a x en) = op ∧ hAspace (elemMsg s d op asp n a x en) = asp ∧ hAddr (elemMsg s d op asp n a x en) = a := by
  refine ⟨(fld_pack (v := op) ?_ ?_ ?_).trans (Nat.mod_eq_of_lt ho), (fld_pack (v := asp) ?_ ?_ ?_).trans (Nat.mod_eq_of_lt hp),
    (fld_pack (v := a) ?_ ?_ ?_).trans (Nat.mod_eq_of_lt ha)⟩
  all_goals simp

section
variable {s : State} {d : Desc}

/-- A read's check of a MEM address (R71, R150). -/
theorem elemCheck_read {v n : Nat} (hv : v < 2 ^ 44) (hm : memPermits s v d.req.tc.toNat false = true) :
    elemCheck s d (elemMsg s d Op.rd 0 n v 0 true) = (none, none, none) := by
  obtain ⟨op, asp, addr⟩ := elemMsg_fields s d (op := Op.rd) (asp := 0) (by decide) (by decide) hv n 0 true
  simp only [elemCheck, op, asp, addr, beq_self_eq_true, if_true, show opWrites Op.rd = false from rfl, hm]

/-- A row of MEM addresses that ends in the space. -/
theorem rowPasses_mem {base off n : Nat} (h : base + off + n ≤ 2 ^ 44) : rowPasses s false base off n = false :=
  decide_eq_false (Nat.not_lt.mpr h)

/-- The destination of DATA messages is not checked (R150). -/
theorem partChecks_data (kind : Md.kind d.n = 0) (dkind : Md.dkind d.n = 1) (a n : Nat) :
    partChecks s d a n = (none, (partLines a n).map fun j => { line := j, loc := none, exact := none, busy := false }) := by
  rw [partChecks, if_pos (by rw [kind, dkind]; rfl)]

theorem conflicts_idle (hi : d.infl = []) (b : Bool) (t : Nat) (l : List PLine) : conflicts d b t l = false := by rw [conflicts, hi]; rfl

variable (h : s.mace.descs = [d]) (a : ActiveDesc s d) (hi : d.infl = []) (ho : d.rowOff = 0) (hk : d.k + 1 = Md.count d.n)

include a hk in
theorem ActiveDesc.issues : (d.ending || d.stopped || decide (Md.count d.n ≤ d.k)) = false := by
  rw [a.goes, a.runs, Bool.or_self, Bool.false_or]
  exact decide_eq_false (by omega)

include h hi in
/-- A descriptor with nothing in flight leaves the room of R148. -/
theorem inFlight_room : ¬ 512 ≤ s.mace.descs.foldl (fun a d => a + d.infl.length) 0 := by simp [h, hi]

include h a hi ho hk

/-- The element of a row in one table line of memory, delivered in DATA, is issued (R148, R150). -/
theorem issueFor_row {v : Nat} (kind : Md.kind d.n = 0) (dkind : Md.dkind d.n = 1) (space : Md.tspace d.n = false) (index : indexAt d = .val v)
    (range : v ≤ Md.ilast d.n) (h1 : 1 ≤ Md.rowlen d.n) (line : (Md.tbase d.n + v * Md.tstride d.n) % 128 + Md.rowlen d.n ≤ 128)
    (table : Md.tbase d.n + v * Md.tstride d.n + Md.rowlen d.n ≤ 2 ^ 44) (partner : Md.xbase d.n + d.k * Md.xpitch d.n + Md.rowlen d.n ≤ 2 ^ 44)
    (permit : memPermits s (Md.tbase d.n + v * Md.tstride d.n) d.req.tc.toNat false = true) :
    issueFor d s = some (issueElem d (rowElem s d v) s) := by
  have check := elemCheck_read (s := s) (d := d) (n := Md.rowlen d.n) (by omega) permit
  have len : min (128 - (Md.tbase d.n + v * Md.tstride d.n) % 128) (Md.rowlen d.n) = Md.rowlen d.n := by omega
  unfold issueFor
  dsimp only
  simp only [a.issues hk, index, Nat.not_lt.mpr range, ho, Nat.add_zero, Nat.sub_zero, kind, dkind, space, beq_self_eq_true, Bool.and_self,
    Bool.not_true, rowPasses_mem table, rowPasses_mem partner, Bool.or_self, Bool.and_false, Bool.false_eq_true, if_false, if_true, len, check,
    Nat.zero_add, le_refl, decide_true,
    show b2n false = 0 from rfl, partChecks_data kind dkind, conflicts_idle hi, inFlight_room h hi, decide_false, ctlUse_clean _ _ s a.clean]
  rfl

omit h hi ho in
/-- A pad of a scatter, a scatter-add or an adding gather is passed over (R146). -/
theorem issueFor_skip (kind : Md.kind d.n ≠ 0 ∨ Md.dadd d.n = true) (index : indexAt d = .pad) :
    issueFor d s = some (descMod d.slot (fun d => nextIdx (rowNote d.k true true d)) s) := by
  have skips : (Md.kind d.n != 0 || Md.dadd d.n) = true := by simpa using kind
  simp only [issueFor, a.issues hk, index, skips, Bool.false_eq_true, if_false, if_true]

/-- The zeros of a pad in one destination line are issued as one element (R146, log 36). -/
theorem issueFor_pad (kind : Md.kind d.n = 0) (dadd : Md.dadd d.n = false) (dkind : Md.dkind d.n = 1) (index : indexAt d = .pad)
    (partner : Md.xbase d.n + d.k * Md.xpitch d.n + Md.rowlen d.n ≤ 2 ^ 44)
    (line : (Md.xbase d.n + d.k * Md.xpitch d.n) % 128 + Md.rowlen d.n ≤ 128) :
    issueFor d s = some (issueElem d (padElem d) s) := by
  have len : min (128 - (Md.xbase d.n + d.k * Md.xpitch d.n) % 128) (Md.rowlen d.n) = Md.rowlen d.n := by omega
  unfold issueFor
  dsimp only
  simp only [a.issues hk, index, ho, Nat.add_zero, Nat.sub_zero, kind, dadd, dkind, bne_self_eq_false, beq_self_eq_true, Bool.and_self, Bool.not_true,
    rowPasses_mem partner, Bool.or_self, Bool.and_false, Bool.false_eq_true, if_false, if_true, len, Nat.zero_add, le_refl, decide_true,
    partChecks_data kind dkind, conflicts_idle hi, inFlight_room h hi, decide_false, ctlUse_clean _ _ s a.clean]
  rfl

end

/-! ### MACE_ELEMENT_ISSUE (O35) -/

section
variable {s : State} {d : Desc} {e : Elem}

theorem descMod_descs {t : State} (h : t.mace.descs = [d]) (f : Desc → Desc) : (descMod d.slot f t).mace.descs = [f d] := by simp [descMod, lmod, h]

theorem issueElem_only (d : Desc) (e : Elem) (s : State) : OnlyChanges [.mace, .regul, .ctr] s (issueElem d e s) :=
  (((occR_only 0x71 d.req 1 s).le _).then (addDemand_only ..)).then (descMod_only ..)

theorem issueElem_descs (h : s.mace.descs = [d]) : (issueElem d e s).mace.descs = [issuedTo e d] := by
  have counted : OnlyChanges [.regul, .ctr] s (addDemand d.req (if e.pad then 0 else e.len) (occR 0x71 d.req 1 s)) :=
    ((occR_only ..).le _).then (addDemand_only ..)
  exact descMod_descs ((congrArg MaceSt.descs (counted.same .mace (by decide))).trans h) _

/-- An element that no fault meets is issued, with the last index of the only descriptor. -/
theorem exec_issueElem (h : s.mace.descs = [d]) (a : ActiveDesc s d) (hs : d.slot < 8) (hh : s.srv.halt = false) (hi : d.infl = []) (hw : d.rows = [])
    (hk : d.k + 1 = Md.count d.n) (issues : issueFor d s = some (issueElem d e s)) (hn : NoFault d e) :
    ∃ u, exec .maceElementIssue s = .next u ∧ u.mace = { descs := [issuedTo e d], rr := d.slot } ∧ (issuedTo e d).infl = [e] ∧
      OnlyChanges [.mace, .regul, .ctr] s u := by
  have descs := issueElem_descs (e := e) h
  have infl : (issuedTo e d).infl = [e] := by
    show d.infl ++ [e] = [e]
    rw [hi, List.nil_append]
  refine ⟨_, exec_maceElementIssue h a hs hh hi hw issues descs rfl (fun x hx => ?_) hk.ge, ?_, infl, (issueElem_only d e s).then (maceOnly ..)⟩
  · rw [infl] at hx
    obtain rfl := List.mem_singleton.mp hx
    exact ⟨hn.fail, hn.src, hn.poi⟩
  · rw [← descs]

end

theorem maceElementIssued : MaceElementIssued := by
  refine ⟨fun s h => ?_, fun s d v h a hs hh hi hw ho kind dkind space hk index range h1 line table partner permit => ?_⟩
  · exact congrArg Host.Outcome.next (if_pos h)
  · obtain ⟨u, run, mace, infl, frame⟩ := exec_issueElem h a hs hh hi hw hk
      (issueFor_row h a hi ho hk kind dkind space index range h1 line table partner permit)
      ⟨rfl, fun y hy => absurd (show none = some y from hy) nofun, fun _ y => absurd (show false = true from y) nofun⟩
    obtain ⟨op, -, addr⟩ := elemMsg_fields s d (op := Op.rd) (asp := 0) (a := Md.tbase d.n + v * Md.tstride d.n) (by decide)
      (by decide) (by omega) (Md.rowlen d.n) 0 true
    exact ⟨u, _, rowElem s d v, run, mace, rfl, infl, rfl, rfl, rfl, rfl, rfl, rfl, rfl, rfl, op, addr, frame⟩

theorem macePads : MacePads := by
  refine fun s d h a hs hh hi hw ho hk index h1 => ⟨fun kind => ?_, fun kind dadd dkind partner line => ?_⟩
  · let f : Desc → Desc := fun d => nextIdx (rowNote d.k true true d)
    have infl : (f d).infl = [] := hi
    have rows : (f d).rows = [{ k := d.k, issued := true, faulted := false, pad := true }] := by
      show d.rows.filter (·.k ≠ d.k) ++ _ = _
      rw [hw]
      rfl
    have descs := descMod_descs h f
    refine ⟨_, f d, exec_maceElementIssue h a hs hh hi hw (issueFor_skip a hk kind index) descs rfl
      (fun x hx => absurd (infl ▸ hx) List.not_mem_nil) hk.ge, ?_, rfl, infl, rows, (descMod_only d.slot f s).then (maceOnly ..)⟩
    rw [← descs]
  · obtain ⟨u, run, mace, infl, frame⟩ := exec_issueElem h a hs hh hi hw hk (issueFor_pad h a hi ho hk kind dadd dkind index partner line)
      ⟨rfl, fun x hx => by cases hx; rfl, fun _ _ => rfl⟩
    exact ⟨u, _, padElem d, run, mace, rfl, infl, rfl, rfl, rfl, rfl, rfl, rfl, frame⟩

end Sys2Proof.Machine

namespace Sys2Proof
open Machine

/-- Settles O35: elements are issued for the indices, and each reads, writes or delivers in its steps. -/
theorem maceElements : Obligations.MaceElements :=
  ⟨maceElementIssued, maceElementReads, maceSourceReads, maceTableWrites, maceDelivers, macePads⟩

end Sys2Proof
end

section
/-! SUPPORT. The end of a Mace descriptor: its slot frees, or its completion record leaves first (O36: R156). -/

namespace Sys2Proof.Machine

-- One declaration after the other: the threads of declarations that wait for one another exhaust the memory that a compile may take.
set_option Elab.async false

/-! ### The slot frees -/

/-- Steps 2 and 3 of R156 free the slot, drop its index reads, and add 1 to the completion tally if there is one. -/
theorem maceFree_freed (d : Desc) {s : State} (hb : s.bad = []) (hc : swf (fun _ => 0) s.tal.val = true) :
    DescFreed s (maceFree d s) d ∧ (maceFree d s).srv.own ⊆ s.srv.own ∧ (maceFree d s).log = s.log ∧
      OnlyChanges [.mace, .tal, .srv, .ctr] s (maceFree d s) := by
  let t := if Md.cten d.n then tallyAdd (Md.ctally d.n) 1 none 7 s else s
  obtain ⟨grows, f⟩ := tallyAdd_when (u := t) rfl hb hc rfl
  have own : (maceFree d s).srv.own ⊆ t.srv.own := List.filter_subset_self _
  have g : OnlyChanges [.mace, .tal, .srv, .ctr] s (maceFree d s) :=
    ((f.le _).then (maceOnly (maceFree d s).mace t)).then (srvOnly (maceFree d s).srv _)
  rw [f.srv] at own
  refine ⟨⟨?_, grows⟩, own, g.log, g⟩
  show t.mace.descs.filter (·.slot ≠ d.slot) = _
  rw [f.same .mace (by decide)]

/-- Freeing a slot is told of the state before what left the descriptors and the tallies. -/
theorem DescFreed.since {s t u : State} {d : Desc} (h : DescFreed t u d) (hm : t.mace = s.mace) (ht : t.tal = s.tal) : DescFreed s u d := by
  obtain ⟨descs, tally⟩ := h
  exact ⟨by rw [descs, hm], tallyGrows_when_congr tally ht.symm rfl⟩

/-! ### The last index is handled -/

/-- The request of a completion record in memory: a WR of 32 B at CADDR (R150, R156). -/
theorem recordSend_fields (d : Desc) (x : Line) (k : OwnKind) (s : State) : ∃ o,
    (ownWritePart (Md.caddr d.n) 32 x k s).d0 = { s.d0 with out := s.d0.out ++ [o] } ∧ hOpcode o.msg = Op.wr ∧ hAddr o.msg = Md.caddr d.n ∧
      hLen o.msg = 32 := by
  obtain ⟨o, out, op, addr, len, -, -⟩ := ownSend_fields (op := Op.wr) (a := Md.caddr d.n) (n := 32) (by decide) (fld_lt ..) (by decide) _ _ k s
  exact ⟨o, out, op, addr, len⟩

/-- The descriptor as it ends in the present SCLK. -/
def descEnded (s : State) (d : Desc) : Desc := { d with ending := true, endFt := s.clk.ft }

section
variable {s : State} {d : Desc} (h : ActiveDesc s d) (hi : d.infl = []) (hw : d.rows = []) (hk : Md.count d.n ≤ d.k)
include h hi hw hk

/-- A descriptor that has handled its last index ends without a record, or sends its record first (R156). -/
theorem maceEndAt_ends : (Md.cren d.n = false → maceEndAt d.slot s = maceFree (descEnded s d) s) ∧
    (Md.cren d.n = true → Md.cspace d.n = false → ∃ x, maceEndAt d.slot s =
      ownWritePart (Md.caddr d.n) 32 x (.maceRec d.slot) (descMod d.slot (fun _ => descEnded s d) s)) := by
  have going : ¬ (d.ending || !d.infl.isEmpty || !d.rows.isEmpty || !(d.stopped || decide (Md.count d.n ≤ d.k))) = true := by
    simp [h.goes, hi, hw, hk]
  refine ⟨fun hr => ?_, fun hr hs => ⟨linePut 0 (Md.caddr d.n % 128) 32 (maceRecord (descEnded s d)).toNat, ?_⟩⟩
  all_goals
    unfold maceEndAt
    rw [h.tidy_eq hi hw]
    dsimp only
    rw [h.found]
    dsimp only
    rw [if_neg going, ctlUse_clean _ _ s h.clean]
  · exact if_pos (show (!Md.cren d.n) = true by rw [hr]; rfl)
  · exact (if_neg (show ¬ (!Md.cren d.n) = true by rw [hr]; decide)).trans (if_pos (show (!Md.cspace d.n) = true by rw [hs]; rfl))

end

/-! ### The record's write is answered -/

/-- The answer to a completion record's write ends the descriptor, with a report if the write failed. -/
theorem exec_maceRecordComp {tx : BitVec 16} {s : State} {d : Desc} (st : BitVec 3) (ho : ownFind s tx = some (.maceRec d.slot))
    (hf : descFind s d.slot = some d) : exec (.maceRecordComp tx st) s =
      .next (maceFree d (if st = 0 then ownDrop tx s else recordFail d st.toNat (ownDrop tx s))) := by
  have f : descFind (ownDrop tx s) d.slot = some d := hf
  show execMaceRecordComp tx st s = _
  simp only [execMaceRecordComp, ho, f]

/-- A record's failure is a notice, where the queue has room for one (R14). -/
theorem recordFail_notices (d : Desc) (st : Nat) {s : State} (room : s.log.notices.length < 64) :
    (recordFail d st s).log.notices.length = s.log.notices.length + 1 := by
  rw [show recordFail d st s = _ from notice_room _ s room]
  exact List.length_append

end Sys2Proof.Machine

namespace Sys2Proof
open Machine

/-- Settles O36: a descriptor ends at once or by its record's write, and the answer to the write ends it then. -/
theorem maceEnds : Obligations.MaceEnds := by
  refine ⟨fun i s d h hs hi hw hk c => ?_, fun tx st s d ho hf hb c => ?_⟩
  · obtain ⟨frees, sends⟩ := maceEndAt_ends h hi hw hk
    rw [hs] at frees sends
    refine ⟨fun hr => ?_, fun hr hm => ?_⟩
    · obtain ⟨freed, -, -, frame⟩ := maceFree_freed (descEnded s d) h.clean c.tal
      exact ⟨_, congrArg Host.Outcome.next (frees hr), ⟨freed.descs, freed.tally⟩, frame⟩
    · obtain ⟨x, e⟩ := sends hr hm
      obtain ⟨o, out, op, addr, len⟩ := recordSend_fields d x (.maceRec i.val) (descMod i.val (fun _ => descEnded s d) s)
      have found : descFind (descMod i.val (fun _ => descEnded s d) s) i.val = some (descEnded s d) :=
        ((h.one hs).mod (f := fun _ => descEnded s d) hs).found
      exact ⟨_, o, congrArg Host.Outcome.next e, out, op, addr, len, rfl, ⟨_, found, rfl, rfl⟩, rfl,
        ((descMod_only ..).le _).then (ownSend_only ..)⟩
  · let t := if st = 0 then ownDrop tx s else recordFail d st.toNat (ownDrop tx s)
    have f : OnlyChanges [.log, .ints, .d0] (ownDrop tx s) t := .ite (.refl _ _) (logErr_only ..)
    obtain ⟨freed, own, log, frame⟩ := maceFree_freed d (s := t) (f.bad.trans hb) (by rw [f.tal]; exact c.tal)
    refine ⟨_, exec_maceRecordComp st ho hf, freed.since (f.same .mace (by decide)) f.tal, fun o ho => ?_, fun hst room => ?_,
      (((ownDrop_only tx s).le _).then f).then frame⟩
    · have dropped := own ho
      rw [f.srv] at dropped
      simpa using (List.mem_filter.mp dropped).2
    · rw [log, show t = _ from if_neg hst]
      exact recordFail_notices d st.toNat room

end Sys2Proof
end

section
/-! SUPPORT. Coherent requests of lines that no agent holds or that an agent owns, and UPGRADE (O14, O15: Tables 8.4 and 8.5, R165, R168, R172, R173, R188). -/

namespace Sys2Proof.Machine

-- One declaration after the other: the threads of declarations that wait for one another exhaust the memory that a compile may take.
set_option Elab.async false

/-! ### Coherent reads of lines that no agent holds (Table 8.5, R168) -/

/-- The row of a RD_SHR of a line without an entry, which takes entry `j`: to share a line of a read-only region, else to own it. -/
def newShrAct (s : State) (r : Req) (j : Nat) : CohAct :=
  { kind := .rdShr, key := j,
    entry := if r.attr.ro then addSharer (sedgeNew s (hLine r.msg)) (hCagent r.msg) else ownE (sedgeNew s (hLine r.msg)) (hCagent r.msg),
    read := some (if r.attr.ro then 0 else 1, false), fwd := none, invs := [], owner := none, grant := false, only := false }

theorem newShrAct_st (s : State) (r : Req) (j : Nat) : (newShrAct s r j).entry.st ≠ 0 := by
  unfold newShrAct
  dsimp only
  split
  · rw [addSharer_st]
    exact nofun
  · exact nofun

section
variable {s s' : State} {r : Req} {j : Nat}

/-- A RD_SHR of a line without an entry takes the free one. -/
theorem homeAct_newShr (b : Before s s') (ho : hOpcode r.msg = Op.rdShr) (hr : sedgeRoom s (liveSet s (hLine r.msg)) = .free j) :
    homeAct r none s' = cohAct r (newShrAct s r j) id s' := by
  rw [homeAct, ho]
  show homeRdShr r none s' = _
  rw [homeRdShr]
  dsimp only
  rw [withRoom, b.acts.home.sedgeRoom, b.acts.liveSet, hr, b.acts.sedgeNew]
  rfl

/-- A RD_UNQ of a line without an entry takes the free one, and so does an UPGRADE, which is served as one. -/
theorem homeAct_newUnq (b : Before s s') (ho : hOpcode r.msg = Op.rdUnq ∨ hOpcode r.msg = Op.upgrade)
    (hr : sedgeRoom s (liveSet s (hLine r.msg)) = .free j) : homeAct r none s' = cohAct r (newUnqAct s r j) id s' := by
  have e : homeAct r none s' = homeRdUnq r none id s' := by rcases ho with ho | ho <;> rw [homeAct, ho] <;> rfl
  rw [e, homeRdUnq]
  dsimp only
  rw [withRoom, b.acts.home.sedgeRoom, b.acts.liveSet, hr, b.acts.sedgeNew]
  rfl

end

/-- A row of a line without an entry whose copy the array has. -/
theorem TakesMem.granted {s : State} {c : Instr} {r : Req} {op k g : Nat} {a : CohAct} {p : Bool} (h : TakesMem s c r op) (ho : isCohOp op = true)
    (hl : placeOf s (hLine r.msg) = .way k) (hf : hteFree s = true) (act : ∀ s', Before s s' → homeAct r none s' = cohAct r a id s')
    (hz : a.entry.st ≠ 0) (hr : a.read = some (g, p)) : ∃ u, exec c s = .next u ∧ Granted s u r k a g p := by
  obtain ⟨u, s', hu, b, af⟩ := h.runs ho
  obtain ⟨t, et, d⟩ := cohAct_way (b.acts.frame.bad.trans h.clean) (b.acts.home.hteFree.trans hf) ((b.acts.placeOf _).trans hl) adjusts_id hz hr
  exact ⟨u, hu, d.carry b (af t (by rw [act s' b, et]; rfl))⟩

end Sys2Proof.Machine

namespace Sys2Proof
open Machine

/-- Settles O14: each coherent read takes the free entry, and its row reads the line from the array. -/
theorem coherentReadGrants : Obligations.CoherentReadGrants := by
  intro c s r k j op ht ho hl hf hr
  rcases ho with rfl | ho
  · obtain ⟨u, hu, d⟩ := ht.granted rfl hl hf (fun s' b => homeAct_newShr b ht.opcode hr) (newShrAct_st s r j) rfl
    obtain ⟨o, an, res, beats⟩ := d.last rfl rfl rfl
    obtain ⟨x, htes, req, line, acts, inH, waits, grant⟩ := d.row.hte
    refine ⟨u, o, x, hu, an, beats, ?_, ?_, d.row.others, htes, req, line, acts, inH, waits, grant, d.data, d.tag.tag, d.tag.tags, d.row.frame⟩
    · rw [res, if_pos rfl]
      cases r.attr.ro <;> rfl
    · refine d.row.entry.trans ?_
      simp only [newShrAct, true_and]
  · have hc : isCohOp op = true := by rcases ho with rfl | rfl <;> rfl
    have no : op ≠ Op.rdShr := by rcases ho with rfl | rfl <;> decide
    obtain ⟨u, hu, d⟩ := ht.granted hc hl hf (fun s' b => homeAct_newUnq b (ht.opcode ▸ ho) hr) (show (newUnqAct s r j).entry.st ≠ 0 from nofun) rfl
    obtain ⟨o, an, res, beats⟩ := d.last rfl rfl rfl
    obtain ⟨x, htes, req, line, acts, inH, waits, grant⟩ := d.row.hte
    refine ⟨u, o, x, hu, an, beats, ?_, ?_, d.row.others, htes, req, line, acts, inH, waits, grant, d.data, d.tag.tag, d.tag.tags, d.row.frame⟩
    · rw [res, if_neg no]
      rfl
    · rw [if_neg fun e => no e.1]
      exact d.row.entry

end Sys2Proof
end

section
namespace Sys2Proof.Machine

-- One declaration after the other: the threads of declarations that wait for one another exhaust the memory that a compile may take.
set_option Elab.async false

/-! ### Rows of Table 8.5 that read no memory -/

/-- From `s` to `u` the home has performed row `a` for request `r`, which reads nothing: its HTE awaits what the row asks the owner for, and a GRANT
that awaits no INV has left last (R188). -/
structure Unread (s u : State) (r : Req) (a : CohAct) : Prop where
  row : RowDone [] s u r a
  fwdTo : u.home.htes.getLast?.map Hte.fwdTo = some (cohHte r a s).fwdTo
  grant : a.grant = true → a.invs = [] → ∃ o, Answers u r.port r.msg Op.grant St.ok o

section
variable {s : State} {r : Req} {a : CohAct} {adj : State → State}

/-- The GRANT of a row that awaits no INV answers its requester. -/
theorem cohGrant_answers (hg : a.grant = true) (hi : a.invs = []) (h : Hte) (s : State) :
    ∃ o, Answers (cohGrant a h s) h.req.port h.req.msg Op.grant St.ok o := by
  rw [cohGrant, if_pos (by rw [hg, hi]; rfl)]
  obtain ⟨o, an, -⟩ := respond_answers h.req.port h.req.msg (subjReq h.req) { op := Op.grant, vc := Vc.rsp, status := St.ok, b128 := !h.grantOnly }
    (hteMod h.id (fun h => { h with grant := false }) s) (show Op.grant < 2 ^ 6 by decide) (show St.ok < 2 ^ 3 by decide)
  exact ⟨o, an⟩

theorem cohFin_unread (hb : s.bad = []) (hf : hteFree s = true) (ha : Adjusts adj) (hz : a.entry.st ≠ 0) : Unread s (cohFin r a adj s) r a := by
  let h := cohHte r a s
  let s1 := adj (splruTouch a.key (sedgeSet a.key a.entry (hteAdd h s)))
  let s3 := fwdAll Op.inv a.invs (hLine r.msg) h false (a.owner == some ·) (cohFwd r a h s1)
  have h31 : s3.home = s1.home := ((cohFwd_only r a h s1).trans (fwdAll_only ..)).home
  have new : s3.home.htes = s.home.htes ++ [h] := by
    rw [h31]
    exact (ha (splruTouch a.key (sedgeSet a.key a.entry (hteAdd h s))) hb).2.2.2
  have htes : (cohFin r a adj s).home.htes = s.home.htes ++ [{ h with grant := a.grant && !a.invs.isEmpty }] :=
    cohGrant_htes new (hteNew_fresh hf r (hLine r.msg) a.kind (sedgeGet s a.key).st) rfl
  exact ⟨(cohFin_done hb hf ha hz).1, by rw [htes, List.getLast?_concat]; rfl, fun hg hi => cohGrant_answers hg hi h s3⟩

/-- A row without a read, in its step. -/
theorem cohAct_noRead (hb : s.bad = []) (hf : hteFree s = true) (ha : Adjusts adj) (hz : a.entry.st ≠ 0) (hr : a.read = none) :
    ∃ t, cohAct r a adj s = .done t ∧ Unread s t r a := by
  let v := if a.fwd.isSome && hOpcode r.msg != Op.upgrade then addServed r 128 s else s
  have f : OnlyChanges [.regul, .ctr, .peat, .ints, .log, .d0] s (watchAcc (accReq r 128 0 0) v) :=
    OnlyChanges.then (l := [.peat, .ints, .log, .d0]) (.ite ((addServed_only ..).le _) (.refl _ s)) (watchAcc_only ..)
  have d := cohFin_unread (r := r) (a := a) (f.bad.trans hb) (f.sameHome.hteFree.trans hf) ha hz
  refine ⟨_, ?_, ⟨d.row.since (f.acts []) f.pins, d.fwdTo, d.grant⟩⟩
  rw [cohAct, if_neg (by simp [hf]), hr]

end

theorem Unread.carry {s s' t u : State} {r : Req} {a : CohAct} (h : Unread s' t r a) (b : Before s s') (c : After t u) : Unread s u r a :=
  ⟨(h.row.since b.acts b.acts.frame.pins).upto c, by rw [c.frame.home]; exact h.fwdTo, fun hg hi =>
    have ⟨_, an⟩ := h.grant hg hi
    have ⟨o, an', _⟩ := an.carry c.last
    ⟨o, an'⟩⟩

/-- A command that takes a coherent request whose row reads nothing. -/
theorem exec_unread {s : State} {c : Instr} {r : Req} {ent : Option Nat} {a : CohAct} (ht : Takes s c r) (hm : r.fen = none) (hb : s.bad = [])
    (hn : hteInH s (hLine r.msg) = none) (he : sedgeFind s (hLine r.msg) = ent) (hf : hteFree s = true) (ho : isCohOp (hOpcode r.msg) = true)
    (act : ∀ s', Before s s' → homeAct r ent s' = cohAct r a id s') (hz : a.entry.st ≠ 0) (hr : a.read = none) :
    ∃ u, exec c s = .next u ∧ Unread s u r a := by
  obtain ⟨u, s', hu, b, af⟩ := exec_home ht hm hb hn ho
  obtain ⟨t, et, d⟩ := cohAct_noRead (r := r) (b.acts.frame.bad.trans hb) (b.acts.home.hteFree.trans hf) adjusts_id hz hr
  exact ⟨u, hu, d.carry b (af t (by rw [he, act s' b, et]; rfl))⟩

/-! ### Owned lines (Table 8.5, R172, R173) -/

/-- The row of a RD_SHR of a line that an agent owns, with entry `e` at `j`. -/
def ownedShrAct (r : Req) (j : Nat) (e : SedgeE) : CohAct :=
  { kind := .rdShr, key := j, entry := addSharer { e with st := 3 } (hCagent r.msg), read := none, fwd := some (Op.fwdShr, e.owner.toNat), invs := [],
    owner := none, grant := false, only := false }

theorem ownedShrAct_st (r : Req) (j : Nat) (e : SedgeE) : (ownedShrAct r j e).entry.st ≠ 0 := by
  rw [ownedShrAct, addSharer_st]
  exact nofun

/-- The row of an UPGRADE by a recorded sharer of a line with entry `e` at `j`. -/
def upgradeAct (s : State) (r : Req) (j : Nat) (e : SedgeE) : CohAct :=
  { kind := .upgrade, key := j, entry := ownE e (hCagent r.msg), read := none, fwd := none,
    invs := (invSet s e).filter (· ≠ hCagent r.msg) ++ (if e.ov then [e.owner.toNat] else []),
    owner := if e.ov then some e.owner.toNat else none, grant := true, only := true }

section
variable {s s' : State} {r : Req} {j : Nat} {e : SedgeE}

theorem homeAct_ownedShr (b : Before s s') (he : e = sedgeGet s j) (hs : (e.st == 1) = false) (ho : hOpcode r.msg = Op.rdShr) :
    homeAct r (some j) s' = cohAct r (ownedShrAct r j e) id s' := by
  rw [homeAct, ho]
  show homeRdShr r (some j) s' = _
  simp only [homeRdShr, b.acts.home.sedgeGet, ← he, hs]
  rfl

theorem homeAct_unq (b : Before s s') (he : e = sedgeGet s j) (ho : hOpcode r.msg = Op.rdUnq) :
    homeAct r (some j) s' = cohAct r (unqAct s r j e) id s' := by
  rw [homeAct, ho]
  exact homeRdUnq_some b he id

theorem homeAct_upgrade (b : Before s s') (he : e = sedgeGet s j) (hs : e.st = 1 ∨ e.st = 3) (hv : e.cv = false)
    (hc : isSharer e (hCagent r.msg) = true) (ho : hOpcode r.msg = Op.upgrade) :
    homeAct r (some j) s' = cohAct r (upgradeAct s r j e) id s' := by
  have sharer : ((e.st == 1 || e.st == 3) && !e.cv && isSharer e (hCagent r.msg)) = true := by
    rw [hv, hc]
    rcases hs with h | h <;> rw [h] <;> rfl
  rw [homeAct, ho]
  show homeUpgrade r (some j) s' = _
  simp only [homeUpgrade, b.acts.home.sedgeGet, ← he, sharer, if_true, b.acts.invSet]
  rfl

end

theorem ownerForward : OwnerForward := by
  intro c s r j ht hm hb hn he hs hf
  have owned : ((sedgeGet s j).st == 1) = false := by rcases hs with h | h <;> rw [h] <;> rfl
  refine ⟨fun ho => ?_, fun ho => ?_⟩
  · obtain ⟨u, hu, d⟩ := exec_unread ht hm hb hn he hf (ho ▸ rfl) (fun s' b => homeAct_ownedShr b rfl owned ho)
      (ownedShrAct_st r j _) rfl
    obtain ⟨x, htes, req, line, acts, inH, waits, -⟩ := d.row.hte
    have asked := d.fwdTo
    rw [htes, List.getLast?_concat] at asked
    refine ⟨u, x, hu, d.row.fwd _ _ rfl, d.row.entry, d.row.others, htes, req, line, acts, inH, waits, (Option.some.inj asked).trans ?_, d.row.frame⟩
    simp [cohHte, ownedShrAct]
  · have row : (unqAct s r j (sedgeGet s j)).read = none ∧
        (unqAct s r j (sedgeGet s j)).fwd = some (Op.fwdUnq, (sedgeGet s j).owner.toNat) := by
      simp only [unqAct, owned, Bool.false_eq_true, if_false, and_self]
    obtain ⟨u, hu, d⟩ := exec_unread ht hm hb hn he hf (ho ▸ rfl) (fun s' b => homeAct_unq b rfl ho)
      (show (unqAct s r j (sedgeGet s j)).entry.st ≠ 0 from nofun) row.1
    obtain ⟨x, htes, req, line, acts, inH, waits, -⟩ := d.row.hte
    exact ⟨u, x, hu, d.row.fwd _ _ row.2, fun y m n => d.row.invs y (List.mem_filter.mpr ⟨m, decide_eq_true n⟩), d.row.entry, d.row.others, htes, req,
      line, acts, inH, waits, d.row.frame⟩

theorem upgradeInvalidates : UpgradeInvalidates := by
  intro c s r j ts ht ho hm hb hn he hs hv hc hf hts
  subst hts
  obtain ⟨u, hu, d⟩ := exec_unread ht hm hb hn he hf (ho ▸ rfl) (fun s' b => homeAct_upgrade b rfl hs hv hc ho)
    (show (upgradeAct s r j (sedgeGet s j)).entry.st ≠ 0 from nofun) rfl
  obtain ⟨x, htes, req, line, acts, inH, waits, -⟩ := d.row.hte
  exact ⟨u, x, hu, d.row.entry, d.row.others, htes, req, line, acts, inH, waits, fun y m => ⟨_, d.row.invs y m⟩, d.grant rfl, d.row.frame⟩

end Sys2Proof.Machine

namespace Sys2Proof

/-- Settles O15: an owned line is forwarded, and an UPGRADE invalidates, by rows that read no memory. -/
theorem ownersServe : Obligations.OwnersServe := ⟨Machine.ownerForward, Machine.upgradeInvalidates⟩

end Sys2Proof
end

section
/-! SUPPORT. Agents that give their lines up (O16: Table 8.5, R175, R188, R190 to R192). -/

namespace Sys2Proof.Machine

-- One declaration after the other: the threads of declarations that wait for one another exhaust the memory that a compile may take.
set_option Elab.async false

/-! ### Responses to WB and EVICT (R188) -/

/-- Bit 128 of a response is the bit that its sender gives it: STALE of a COMP, DATAF of a GRANT (Table 2.2). -/
theorem rspMsg_bit128 (s : State) (p : Port) (m : Msg) (x : Rsp) : nbit (rspMsg s p m x).hdr.toNat 128 = x.b128 := by
  have f : fld (rspMsg s p m x).hdr.toNat 128 1 = b2n x.b128 % 2 ^ 1 := fld_pack (by simp) (by simp) (by decide)
  have b : (b2n x.b128 % 2 ^ 1).testBit 0 = nbit (rspMsg s p m x).hdr.toNat 128 := by rw [← f]; exact testBit_fld _ 128 1 0
  rw [← b]
  cases x.b128 <;> rfl

/-- The COMP of a WB or EVICT, with STALE as it is given. -/
theorem relComp_answers (r : Req) (stale : Bool) (s : State) :
    ∃ o, Answers (relComp r stale s) r.port r.msg Op.comp St.ok o ∧ nbit o.msg.hdr.toNat 128 = stale := by
  obtain ⟨o, an, -⟩ := respond_answers r.port r.msg (subjReq r) { op := Op.comp, vc := Vc.rsp, status := St.ok, b128 := stale } s
    (show Op.comp < 2 ^ 6 by decide) (show St.ok < 2 ^ 3 by decide)
  refine ⟨o, an, ?_⟩
  have last := an.last
  rw [respond, emit_out, List.getLast?_concat] at last
  rw [← Option.some.inj last]
  exact rspMsg_bit128 ..

theorem respond_any (p : Port) (m : Msg) (j : Subj) (x : Rsp) (s : State) : OnlyChanges [.d0, .d1, .sout] s (respond p m j x s) :=
  (respond_only ..).mono (by cases p <;> decide)

theorem relComp_only (r : Req) (stale : Bool) (s : State) : OnlyChanges [.d0, .d1, .sout] s (relComp r stale s) := respond_any ..

/-! ### A WB goes to H (R175, R190) -/

/-- Entry `j` has gone to H under a new HTE. -/
def inHomeH (h : Hte) (j : Nat) (s : State) : State := sedgeSet j { sedgeGet s j with st := 4 } (hteAdd { h with h := true } s)

theorem inHomeH_only (h : Hte) (j : Nat) (s : State) : OnlyChanges [.home] s (inHomeH h j s) := homeOnly ..

theorem inHomeH_entry (h : Hte) (j : Nat) (s : State) : sedgeGet (inHomeH h j s) j = { sedgeGet s j with st := 4 } :=
  sget_sset_self _ _ _ fun z => absurd (congrArg SedgeE.st z) (by simp [SedgeE.zero])

theorem inHomeH_others (h : Hte) (j : Nat) (s : State) : SedgeBut s (inHomeH h j s) j := fun _ hi => sget_sset_ne _ _ _ hi

/-- The opening of an H state that awaits an answer sends what it sends, and H stays (R193). -/
theorem hOpen_waits {s : State} {h : Hte} {send : State → State} (j : Nat) (n : ∀ x ∈ s.home.htes, x.id ≠ h.id) (hw : hReady { h with h := true } = false)
    (hs : ∀ x, (send x).home = x.home) : hOpen h j send s = send (inHomeH h j s) := by
  have g : hteGet (send (inHomeH h j s)) h.id = some { h with h := true } := hteGet_new (h := { h with h := true }) (by rw [hs]; rfl) n
  show hTry h.id (send (inHomeH h j s)) = _
  simp only [hTry, g, hw, Bool.false_eq_true, if_false]

/-- The HTE of a WB from the owner, who is asked for the data at once. -/
def wbHte (r : Req) (j : Nat) (s : State) : Hte :=
  { hteNew s r (hLine r.msg) .wb (sedgeGet s j).st with after := some (noOwner (sedgeGet s j)), w := some (BitVec.ofNat 8 (hCagent r.msg)) }

theorem fwdHtes_congr {s u : State} (h : SameHome s u) (l : LAddr) (c : Nat) : fwdHtes u l c = fwdHtes s l c := by rw [fwdHtes, fwdHtes, h.2.2]

theorem wbTake_pulls {s : State} {r : Req} {j : Nat} (hf : hteFree s = true) (hq : fwdHtes s (hLine r.msg) (hCagent r.msg) = []) :
    wbTake r j s = wbPullSend r (inHomeH (wbHte r j s) j (splruTouch j s)) := by
  have w := hOpen_waits (s := splruTouch j s) (h := wbHte r j s) (send := wbPullSend r) j (hteNew_fresh hf r (hLine r.msg) .wb (sedgeGet s j).st)
    (by simp [hReady, wbHte]) (fun x => (respond_any ..).home)
  rw [← w, wbTake]
  simp only [hq]
  rfl

section
variable {s : State} {c : Instr} {r : Req} (ht : Takes s c r) (hm : r.fen = none) (hb : s.bad = []) (hn : hteInH s (hLine r.msg) = none)
  (hf : hteFree s = true)
include ht hm hb hn hf

/-- A WB from the owner, with no forward to it open. -/
theorem exec_ownerWb {j : Nat} (ho : hOpcode r.msg = Op.wb) (he : sedgeFind s (hLine r.msg) = some j)
    (hc : isOwner (sedgeGet s j) (hCagent r.msg) = true) (hq : fwdHtes s (hLine r.msg) (hCagent r.msg) = []) :
    ∃ u o h, exec c s = .next u ∧ Answers u r.port r.msg Op.wbPull St.ok o ∧ sedgeGet u j = { sedgeGet s j with st := 4 } ∧ SedgeBut s u j ∧
      u.home.htes = s.home.htes ++ [h] ∧ h.req = r ∧ h.line = hLine r.msg ∧ h.h = true ∧ h.kind = .wb ∧ h.w = some (BitVec.ofNat 8 (hCagent r.msg)) ∧
      OnlyChanges stepParts s u := by
  obtain ⟨u, s', hu, b, af⟩ := exec_home ht hm hb hn (ho ▸ rfl)
  let v := addServed r 128 s'
  have fv : OnlyChanges [.regul, .ctr] s' v := addServed_only ..
  have sh : SameHome s v := b.acts.home.trans fv.sameHome
  let x := wbHte r j v
  let t := inHomeH x j (splruTouch j v)
  have act : homeAct r (some j) s' = .done (wbPullSend r t) := by
    rw [homeAct, ho]
    show homeWb r (some j) s' = _
    simp only [homeWb, b.acts.home.hteFree, hf, b.acts.home.sedgeGet, hc, Bool.not_true, Bool.false_eq_true, if_false, if_true]
    rw [wbTake_pulls (sh.hteFree.trans hf) ((fwdHtes_congr sh ..).trans hq)]
  have au : After (wbPullSend r t) u := af _ (by rw [he, act]; rfl)
  have fp : OnlyChanges [.d0, .d1, .sout] t (wbPullSend r t) := respond_any ..
  have ft : OnlyChanges [.home] v t := OnlyChanges.trans (homeOnly ..) (inHomeH_only ..)
  have home : u.home = t.home := au.frame.home.trans fp.home
  have gu : ∀ i, sedgeGet u i = sedgeGet t i := fun i => by rw [sedgeGet, sedgeGet, home]
  have gv : ∀ i, sedgeGet (splruTouch j v) i = sedgeGet s i := sh.sedgeGet
  obtain ⟨o, an, -⟩ := respond_answers r.port r.msg (subjReq r) { op := Op.wbPull, vc := Vc.rsp, status := St.ok } t
    (show Op.wbPull < 2 ^ 6 by decide) (show St.ok < 2 ^ 3 by decide)
  obtain ⟨o', an', -⟩ := an.carry au.last
  refine ⟨u, o', { x with h := true }, hu, an', ?_, fun i hi => ?_, ?_, rfl, rfl, rfl, rfl, rfl, ?_⟩
  · rw [gu, inHomeH_entry, gv]
  · rw [gu, inHomeH_others x j _ i hi, gv]
  · rw [home, ← sh.2.2]
    rfl
  · exact (((b.acts.frame.then fv).then ft).then fp).then au.frame

/-- A WB of a line that has no entry. -/
theorem exec_staleWb (ho : hOpcode r.msg = Op.wb) (he : sedgeFind s (hLine r.msg) = none) :
    ∃ u o, exec c s = .next u ∧ Answers u r.port r.msg Op.comp St.ok o ∧ nbit o.msg.hdr.toNat 128 = true ∧ SameHome s u ∧ OnlyChanges stepParts s u := by
  obtain ⟨u, s', hu, b, af⟩ := exec_home ht hm hb hn (ho ▸ rfl)
  let v := addServed r 128 s'
  have act : homeAct r none s' = .done (relComp r true v) := by
    rw [homeAct, ho]
    show homeWb r none s' = _
    simp only [homeWb, b.acts.home.hteFree, hf, Bool.not_true, Bool.false_eq_true, if_false]
    rfl
  have au : After (relComp r true v) u := af _ (by rw [he, act]; rfl)
  have f : OnlyChanges [.regul, .ctr, .d0, .d1, .sout] s' u :=
    OnlyChanges.then (((addServed_only r 128 s').le _).then (relComp_only r true v)) au.frame
  obtain ⟨o, an, stale⟩ := relComp_answers r true v
  obtain ⟨o', an', e⟩ := an.carry au.last
  exact ⟨u, o', hu, an', by rw [e, stale], b.acts.home.trans f.sameHome, b.acts.frame.then f⟩

end

theorem writebackPulled : WritebackPulled := fun _ _ _ ht ho hm hb hn hf =>
  ⟨fun _ => exec_ownerWb ht hm hb hn hf ho, exec_staleWb ht hm hb hn hf ho⟩

/-! ### EVICT (R191, R192) -/

/-- From `s` to `u` a COMP has left for request `r`, and HTE `h` waits for it (Table 8.3). -/
structure Released (s u : State) (r : Req) (stale : Bool) : Prop where
  answer : ∃ o, Answers u r.port r.msg Op.comp St.ok o ∧ nbit o.msg.hdr.toNat 128 = stale
  sedge : u.home.sedge = s.home.sedge
  hte : ∃ h, u.home.htes = s.home.htes ++ [h] ∧ h.done = true
  frame : OnlyChanges [.home, .d0, .d1, .sout, .ctr] s u

/-- An EVICT whose step ends with its COMP is released by its command. -/
theorem released_of_openDone {t u : State} {r : Req} {stale : Bool} (a : After (openDone r .evict (relComp r stale t)) u) : Released t u r stale := by
  have f := relComp_only r stale t
  have d : OnlyChanges [.home] (relComp r stale t) (openDone r .evict (relComp r stale t)) := homeOnly ..
  obtain ⟨o, an, bit⟩ := relComp_answers r stale t
  obtain ⟨o', an', e⟩ := an.carry (d.sameLast.trans a.last)
  refine ⟨⟨o', an', by rw [e, bit]⟩, ?_, ⟨{ hteNew (relComp r stale t) r (hLine r.msg) .evict 0 with done := true }, ?_, rfl⟩,
    ((f.le _).then d).then a.frame⟩
  · rw [a.frame.home, ← f.home]
    rfl
  · rw [a.frame.home, ← f.home]
    rfl

section
variable {s : State} {r : Req} {j : Nat} (hf : hteFree s = true)
include hf

theorem homeEvict_recorded (hr : isOwner (sedgeGet s j) (hCagent r.msg) = true ∨ isSharer (sedgeGet s j) (hCagent r.msg) = true)
    (hq : isOwner (sedgeGet s j) (hCagent r.msg) = true → fwdHtes s (hLine r.msg) (hCagent r.msg) = []) :
    homeEvict r (some j) s =
      .done (openDone r .evict (relComp r false (sedgeSet j (afterLeave (sedgeGet s j) (hCagent r.msg)) (splruTouch j s)))) := by
  have q : (if isOwner (sedgeGet s j) (hCagent r.msg) then
      fwdHtes (sedgeSet j (afterLeave (sedgeGet s j) (hCagent r.msg)) (splruTouch j s)) (hLine r.msg) (hCagent r.msg) else []) = [] := by
    split
    · next o => exact hq o
    · rfl
  simp only [homeEvict, hf, Bool.or_eq_true, hr, Bool.not_true, Bool.false_eq_true, if_false, if_true]
  rw [q]
  rfl

theorem homeEvict_unknown (hr : isOwner (sedgeGet s j) (hCagent r.msg) = false ∧ isSharer (sedgeGet s j) (hCagent r.msg) = false) :
    homeEvict r (some j) s = .done (openDone r .evict (relComp r true (splruTouch j s))) := by
  simp only [homeEvict, hf, hr.1, hr.2, Bool.or_self, Bool.not_true, Bool.false_eq_true, if_false]

theorem homeEvict_none : homeEvict r none s = .done (openDone r .evict (relComp r true s)) := by
  simp only [homeEvict, hf, Bool.not_true, Bool.false_eq_true, if_false]

end

theorem evictLeaves : EvictLeaves := by
  intro c s r ht ho hm hb hn hf hc
  obtain ⟨u, s', hu, b, af⟩ := exec_home ht hm hb hn (ho ▸ rfl)
  have sh := b.acts.home
  have hf' := sh.hteFree.trans hf
  have row : ∀ ent, homeAct r ent s' = homeEvict r ent s' := fun ent => by rw [homeAct, ho]; rfl
  rw [row] at af
  refine ⟨fun j he hr hq => ?_, fun hr => ?_⟩
  · let t := sedgeSet j (afterLeave (sedgeGet s' j) (hCagent r.msg)) (splruTouch j s')
    have ft : OnlyChanges [.home] s' t := homeOnly ..
    rw [he, homeEvict_recorded hf' (by rw [sh.sedgeGet]; exact hr) (by rw [sh.sedgeGet, fwdHtes_congr sh]; exact hq)] at af
    obtain ⟨⟨o, an, bit⟩, sedge, ⟨h, htes, done⟩, frame⟩ := released_of_openDone (af _ rfl)
    have gu : ∀ i, sedgeGet u i = sedgeGet t i := fun i => by rw [sedgeGet, sedgeGet, sedge]
    refine ⟨u, o, h, hu, an, bit, ?_, fun i hi => ?_, htes.trans (congrArg (· ++ [h]) sh.2.2), done, (b.acts.frame.then ft).then frame⟩
    · rw [gu, ← sh.sedgeGet]
      exact sget_sset _ _ _ _ none (show swf _ s'.home.sedge = true from sh.1 ▸ hc.sedge)
    · rw [gu, ← sh.sedgeGet]
      exact sget_sset_ne _ _ _ hi
  · obtain ⟨t, ft, sedge, htes, rel⟩ :
        ∃ t, OnlyChanges [.home] s' t ∧ t.home.sedge = s'.home.sedge ∧ t.home.htes = s'.home.htes ∧ Released t u r true := by
      cases he : sedgeFind s (hLine r.msg) with
      | none =>
        rw [he, homeEvict_none hf'] at af
        exact ⟨s', .refl _ _, rfl, rfl, released_of_openDone (af _ rfl)⟩
      | some j =>
        rw [he, homeEvict_unknown hf' (by rw [sh.sedgeGet]; exact hr j he)] at af
        exact ⟨splruTouch j s', homeOnly .., rfl, rfl, released_of_openDone (af _ rfl)⟩
    obtain ⟨⟨o, an, bit⟩, stays, ⟨h, new, done⟩, frame⟩ := rel
    exact ⟨u, o, h, hu, an, bit, (stays.trans sedge).trans sh.1, by rw [new, htes, sh.2.2], done, (b.acts.frame.then ft).then frame⟩

end Sys2Proof.Machine

namespace Sys2Proof

/-- Settles O16: a WB opens an H state or is STALE, and an EVICT leaves the entry or is STALE. -/
theorem agentsLeave : Obligations.AgentsLeave := ⟨Machine.writebackPulled, Machine.evictLeaves⟩

end Sys2Proof
end

section
/-! SUPPORT. The data that ends an H state, written to the array (O19: R73, R170, R193, log 37). -/

namespace Sys2Proof.Machine

-- One declaration after the other: the threads of declarations that wait for one another exhaust the memory that a compile may take.
set_option Elab.async false

/-! ### The request under which home data is written (R170) -/

/-- It names the line that is written. -/
theorem homeReq_line (s : State) (r : Req) (l : LAddr) : hLine (homeReq s r l).msg = l := by
  have msg : (homeReq s r l).msg.hdr = BitVec.ofNat 256 (r.msg.hdr.toNat / 2 ^ 44 * 2 ^ 44 + l.toNat * 128) := by
    unfold homeReq
    dsimp only
    split <;> rfl
  have lt := l.isLt
  refine BitVec.eq_of_toNat_eq ?_
  rw [hLine, hAddr, lineAddr, fld, msg, BitVec.toNat_ofNat, BitVec.toNat_ofNat]
  omega

/-- It is made of the tables alone. -/
theorem homeReq_congr {s u : State} (h : u.gen = s.gen) (r : Req) (l : LAddr) : homeReq u r l = homeReq s r l := by
  have e : homeReq u r l = homeReq { s with gen := u.gen } r l := rfl
  rw [e, h]

/-! ### Home data enters the way that holds its line (R73, R170) -/

/-- The tag `e` of a way that home data `g` has entered under a write policy. -/
def homeTag (wpol : BitVec 2) (g : HData) (e : TagE) : TagE := { e with poi := g.poi, d := e.d || g.poi || (g.dirty && wpol != 2) }

/-- The M port after home data has entered the way of line `l`: under WTHRU the line waits to leave. -/
def homeThru (wpol : BitVec 2) (l : LAddr) (g : HData) (e : TagE) (x : MPort) : MPort :=
  if wpol = 2 then { x with wseq := x.wseq + 1, writes := x.writes ++ [(x.wseq, .wthru l g.d fullMask g.poi e.sealed e.qc e.tc)] } else x

/-- The data and the tag of a whole line of home data, and the line that waits for M. -/
def homePut (r : Req) (k : Nat) (g : HData) (s : State) : State :=
  let e := tagGet s k
  let s := dataPut k g.d fullMask (tagSet k { e with poi := g.poi, d := e.d || (g.poi || (!(r.attr.wpol == 2) && g.dirty)) } s)
  if r.attr.wpol == 2 then sendThru r g.d fullMask g.poi e.sealed e.qc e.tc s else s

theorem homePut_spec {s : State} (hb : s.bad = []) (hw : ArrWf s) (r : Req) (k : Nat) (g : HData) :
    LineAt s (homePut r k g s) k (homeTag r.attr.wpol g (tagGet s k)) g.d ∧
    (homePut r k g s).mp = homeThru r.attr.wpol (hLine r.msg) g (tagGet s k) s.mp ∧ OnlyChanges [.arr, .mp] s (homePut r k g s) := by
  have tag : { tagGet s k with poi := g.poi, d := (tagGet s k).d || (g.poi || (!(r.attr.wpol == 2) && g.dirty)) } = homeTag r.attr.wpol g (tagGet s k) := by
    rw [homeTag, ← Bool.or_assoc, Bool.and_comm (!(r.attr.wpol == 2))]
    rfl
  unfold homePut homeThru
  dsimp only
  rw [tag]
  have w := putLine_lineAt hw k (homeTag r.attr.wpol g (tagGet s k)) g.d fullMask
  have o : OnlyChanges [.arr] s (dataPut k g.d fullMask (tagSet k (homeTag r.attr.wpol g (tagGet s k)) s)) :=
    (tagSet_only ..).trans (dataPut_only k _ _ _ hb)
  rw [lineMerge_full] at w
  by_cases h : r.attr.wpol = 2
  · rw [if_pos (beq_iff_eq.mpr h), if_pos h]
    refine ⟨w.congr rfl rfl, ?_, (o.le _).then (mpOnly ..)⟩
    rw [sendThru, ite_self]
    rfl
  · rw [if_neg (by simpa using h), if_neg h]
    exact ⟨w, rfl, o.le _⟩

/-- The write of home data to the way at `k`. -/
theorem homeWrite_way {s : State} {l : LAddr} {k : Nat} (hb : s.bad = []) (hw : ArrWf s) (hl : placeOf s l = .way k) (r0 : Req) (g : HData) :
    ∃ t, homeWrite r0 l g s = some t ∧ LineAt s t k (homeTag (homeReq s r0 l).attr.wpol g { tagGet s k with pf := false }) g.d ∧
      t.mp = (let x := homeThru (homeReq s r0 l).attr.wpol l g (tagGet s k) s.mp
        { x with plist := if g.poi then x.plist else x.plist.filter (· ≠ l) }) ∧
      OnlyChanges [.arr, .mp, .ctr, .peat, .d0, .ints, .log] s t := by
  let r := homeReq s r0 l
  let s1 := demandHit r k s
  let s2 := homePut r k g s1
  let s3 := if g.poi then s2 else plistDrop l s2
  have o1 : OnlyChanges [.arr, .ctr] s s1 := demandHit_only ..
  have l1 := demandHit_lineAt r k hw
  obtain ⟨l2, m2, o2⟩ := homePut_spec (o1.bad.trans hb) (demandHit_wf r k hw) r k g
  have d3 : OnlyChanges [.mp] s2 s3 := .ite (.refl _ _) (.ite (mpOnly ..) (.refl _ _))
  have w : OnlyChanges [.peat, .ints, .log, .d0] s3 (homeWatch r g l s3) := watchAcc_only ..
  refine ⟨homeWatch r g l s3, ?_, ?_, ?_, (((o1.le _).then o2).then d3).then w⟩
  · unfold homeWrite
    dsimp only
    rw [lookCheck_clean _ _ s hb, hl]
    rfl
  · rw [l1.tag] at l2
    exact (l1.trans l2).congr rfl (w.arr.trans d3.arr)
  · rw [l1.tag, homeReq_line, o1.mp] at m2
    have m3 : s3.mp = { s2.mp with plist := if g.poi then s2.mp.plist else s2.mp.plist.filter (· ≠ l) } := by
      simp only [s3, plistDrop_eq]
      split <;> rfl
    rw [w.mp, m3, m2]
    rfl

end Sys2Proof.Machine
end

section
namespace Sys2Proof.Machine

-- One declaration after the other: the threads of declarations that wait for one another exhaust the memory that a compile may take.
set_option Elab.async false

/-! ### The end of an H state that a WB or a BACK_INV opened (R193) -/

/-- The requests that are looked up again when such an H state ends. -/
def againOf (h : Hte) : List Req := if h.kind = .backInv ∧ h.req.src ≠ .own then h.req :: h.held else h.held

theorem hFinish_closes {h : Hte} (hk : h.kind = .wb ∨ h.kind = .backInv) (s : State) :
    hFinish h s = relookAdd (againOf h) (hteDrop h.id (sedgeLeave h.line h.after s)) := by
  unfold hFinish againOf
  rcases hk with k | k
  · simp [k]
  · by_cases o : h.req.src = .own <;> simp [k, o]

/-- An H state that awaits nothing ends, its data written to the way that holds its line. -/
theorem hTry_wrote {s : State} {h : Hte} {g : HData} {k : Nat} (hg : hteGet s h.id = some h) (hd : h.got = some g) (hr : hReady h = true)
    (hk : h.kind = .wb ∨ h.kind = .backInv) (hb : s.bad = []) (hw : ArrWf s) (hs : SedgeWf s) (hl : placeOf s h.line = .way k) :
    HomeWrote s (hTry h.id s) h g k := by
  obtain ⟨t, et, w, m, f⟩ := homeWrite_way hb hw hl h.req g
  obtain ⟨x, ex⟩ := sedgeLeave_home h.line h.after t
  let u := relookAdd (againOf h) (hteDrop h.id (sedgeLeave h.line h.after t))
  have eu : hTry h.id s = u := by
    simp only [hTry, hg, hr, if_true, hEnd, hData, hd, et]
    exact hFinish_closes hk t
  have fu : OnlyChanges [.home] t u := OnlyChanges.then (l := [.home]) (ex ▸ homeOnly ..) (homeOnly ..)
  have wu := w.congr rfl fu.arr
  rw [eu]
  refine ⟨wu.data, wu.tag, wu.datas, wu.tags, ?_, ?_, ?_, ?_, (f.le _).then fu⟩
  · rw [fu.mp, m, homeThru]
    split <;> rfl
  · exact (sedgeLeave_left (by rw [SedgeWf, f.home]; exact hs) h.line h.after).congr f.gen (by rw [f.home]) rfl
  · rw [← f.home]
    simp only [u, ex]
    rfl
  · rw [← f.home]
    simp only [u, ex]
    rfl

section
variable {s v u : State} {h : Hte} {g : HData} {k : Nat}

/-- What the end of an H state wrote stands when its step is counted. -/
theorem HomeWrote.upto (w : HomeWrote s v h g k) (f : OnlyChanges [.ctr] v u) : HomeWrote s u h g k := by
  have at_ : LineAt s u k (tagGet v k) (dataGet v k) := LineAt.congr ⟨rfl, w.otherTags, rfl, w.otherData⟩ rfl f.arr
  exact ⟨at_.data.trans w.data, at_.tag.trans w.dirty, at_.datas, at_.tags, f.mp.trans w.memory, w.entry.congr rfl rfl (by rw [f.home]),
    by rw [f.home, w.closed], by rw [f.home, w.again], w.frame.then f⟩

/-- The HTE that has received its data: it awaits nothing more. -/
def answered (h : Hte) (g : HData) : Hte :=
  { h with got := some g, d := none, w := none, k := h.k.filter (· ≠ g.agent), biOwner := if h.biOwner = some g.agent then none else h.biOwner }

/-- The write of the data of an answered HTE is the write for the HTE. -/
theorem HomeWrote.since (f : OnlyChanges [.ctr] s v) (w : HomeWrote (hteMod h.id (answered · g) v) u (answered h g) g k) : HomeWrote s u h g k := by
  have arr := f.arr
  have tg : ∀ j, tagGet (hteMod h.id (answered · g) v) j = tagGet s j := fun j => tagGet_arr arr j
  have dg : ∀ j, dataGet (hteMod h.id (answered · g) v) j = dataGet s j := fun j => dataGet_arr arr j
  have rq : homeReq (hteMod h.id (answered · g) v) h.req h.line = homeReq s h.req h.line := homeReq_congr f.gen ..
  have gone := lmod_filter_not (p := fun x : Hte => decide (x.id = h.id)) (f := (answered · g)) (fun _ e => e) s.home.htes
  obtain ⟨data, dirty, otherData, otherTags, memory, entry, closed, again, frame⟩ := w
  refine ⟨data, ?_, fun j hj => (otherData j hj).trans (dg j), fun j hj => (otherTags j hj).trans (tg j), ?_, ?_, ?_, ?_, ?_⟩
  · rw [dirty, tg]
    exact congrArg (fun q : Req => { tagGet s k with
      pf := false, poi := g.poi, d := (tagGet s k).d || g.poi || (g.dirty && (q.attr.wpol != 2)) }) rq
  · rw [memory, tg, show (hteMod h.id (answered · g) v).mp = s.mp from f.mp]
    exact congrArg (fun q : Req => if q.attr.wpol = 2 then _ else _) rq
  · exact entry.congr f.gen (by rw [← f.home]; rfl) rfl
  · refine closed.trans ?_
    simp only [ne_eq, decide_not]
    rw [← f.home] at gone ⊢
    exact gone
  · rw [← f.home]
    exact again
  · exact OnlyChanges.trans ((f.le _).then (homeOnly .. : OnlyChanges [.home] v _)) frame

end

/-! ### Answers with the data (WB_DATA, DATA_HOME) -/

/-- An answer with data gives it to its HTE, which is tried. -/
theorem homeDataAt_eq {s : State} (hb : s.bad = []) (h : Hte) {m : Msg} (ho : hStatus m = St.ok) :
    homeDataAt h m s = hTry h.id (hteMod h.id (answered · (dataOf m)) s) := by
  have p : (hStatus m != St.ok) = false := by rw [ho]; rfl
  unfold homeDataAt
  dsimp only
  rw [ctlUse_clean _ _ s hb, p]
  rfl

/-- The answer that an H state of a WB or of a BACK_INV lacks ends it. -/
theorem answerAt_wrote {s : State} {m : Msg} {op vc k : Nat} {h : Hte} (a : AnswersHome s m op vc h) (hc : Canonical s) (ho : hStatus m = St.ok)
    (hk : h.kind = .wb ∨ h.kind = .backInv) (hh : h.h = true) (last : h.k.filter (· ≠ BitVec.ofNat 8 (hCagent m)) = []) (hq : h.qWait = false)
    (hl : placeOf s h.line = .way k) : HomeWrote s (answerAt op vc m (fun h => homeDataAt h m) s) h (dataOf m) k := by
  let v := useSlot (pipeOf s h.line) true (some (subjReq h.req)) (recvBeats m s)
  let x := hteMod h.id (answered · (dataOf m)) v
  have f : OnlyChanges [.ctr] s v := (recvBeats_only ..).trans (useSlot_only ..)
  have run : answerAt op vc m (fun h => homeDataAt h m) s = hTry (answered h (dataOf m)).id x := by
    rw [answerAt, a.present, a.opcode, a.cls, a.beats, a.hte]
    simp only [Bool.not_true, ne_eq, not_true_eq_false, decide_false, Bool.or_self, Bool.false_eq_true, if_false]
    exact homeDataAt_eq (f.bad.trans a.clean) h ho
  have found : hteGet x h.id = some (answered h (dataOf m)) := by
    have e := lmod_find? (p := fun x : Hte => decide (x.id = h.id)) (f := (answered · (dataOf m))) (fun _ e => e) v.home.htes
    refine e.trans ?_
    rw [f.home, show s.home.htes.find? (fun x => decide (x.id = h.id)) = some h from a.found]
    rfl
  have ready : hReady (answered h (dataOf m)) = true := by
    have k : (answered h (dataOf m)).k = [] := last
    rw [hReady, k]
    simp [answered, hh, hq]
  have fx : OnlyChanges [.ctr, .home] s x := (f.le _).then (homeOnly .. : OnlyChanges [.home] v x)
  have sedge : x.home.sedge = s.home.sedge := show v.home.sedge = _ by rw [f.home]
  rw [run]
  exact .since f (hTry_wrote found rfl ready hk (fx.bad.trans a.clean) (hc.arrWf.of_arr fx.arr) (by rw [SedgeWf, sedge]; exact hc.sedge)
    ((placeOf_congr fx.gen fx.arr fx.mp h.line).trans hl))

end Sys2Proof.Machine

namespace Sys2Proof
open Machine

/-- Settles O19: the end of the H state writes the data to the way and closes the HTE, by the last answer or when it is tried again. -/
theorem homeDataWritten : Obligations.HomeDataWritten := by
  refine ⟨fun p m s h k a hc ho hk hh nobody hq hl => ?_, fun p m s h k a hc ho hk hh one hq hl => ?_, fun i s h g k hg hd hr hk hc hb hl => ?_⟩
  · exact ⟨_, rfl, answerAt_wrote a hc ho (.inl hk) hh (by rw [nobody]; rfl) hq hl⟩
  · exact ⟨_, rfl, answerAt_wrote a hc ho (.inr hk) hh (by rw [one]; simp) hq hl⟩
  · have id := hteGet_id hg
    refine ⟨useSlot (pipeOf s h.line) (hteInH (hTry h.id s) h.line).isNone (some (subjReq h.req)) (hTry h.id s), ?_,
      (hTry_wrote (id.symm ▸ hg) hd hr hk hb hc.arrWf hc.sedge hl).upto (useSlot_only ..)⟩
    show execHteDeferredWrite i s = _
    simp only [execHteDeferredWrite, hg, hr, if_true]

end Sys2Proof
end

section
/-! SUPPORT. Answers without data: COMP_ACK and SNP_ACK (O18: R188, R190, R194, Table 9.3). -/

namespace Sys2Proof.Machine

-- One declaration after the other: the threads of declarations that wait for one another exhaust the memory that a compile may take.
set_option Elab.async false

/-! ### The HTE that an answer finds (R194) -/

/-- The slot and the beats that an answer takes once its HTE is found. -/
def answerSlot (h : Hte) (m : Msg) (s : State) : State := useSlot (pipeOf s h.line) true (some (subjReq h.req)) (recvBeats m s)

theorem answerSlot_only (h : Hte) (m : Msg) (s : State) : OnlyChanges [.ctr] s (answerSlot h m s) := (recvBeats_only ..).trans (useSlot_only ..)

/-- An answer acts on the HTE that it finds. -/
theorem AnswersHome.answerAt_eq {s : State} {m : Msg} {op vc : Nat} {h : Hte} (a : AnswersHome s m op vc h) (f : Hte → State → State) :
    answerAt op vc m f s = f h (answerSlot h m s) := by
  rw [answerAt, a.present, a.opcode, a.cls, a.beats, a.hte]
  simp only [Bool.not_true, ne_eq, not_true_eq_false, decide_false, Bool.or_self, Bool.false_eq_true, if_false]
  rfl

/-! ### COMP_ACK (R190, R194) -/

/-- COMP_ACK closes the HTE that it finds, alone where no other waits for it. -/
theorem AnswersHome.exec_compAck {s : State} {m : Msg} {h : Hte} (p : DPort) (a : AnswersHome s m Op.compAck Vc.rsp h)
    (hq : ∀ x ∈ s.home.htes, h.id ∉ x.q) : exec (.compAck p m) s = .next (hteDrop h.id (answerSlot h m s)) := by
  have f := answerSlot_only h m s
  refine congrArg Host.Outcome.next ((a.answerAt_eq _).trans ?_)
  rw [ctlUse_clean _ _ _ (f.bad.trans a.clean)]
  exact hteClose_alone (by rw [f.home]; exact hq)

/-- COMP_ACK takes its HTE out of the home and leaves the others. -/
theorem compAck_closes {s : State} {m : Msg} {h : Hte} (p : DPort) (a : AnswersHome s m Op.compAck Vc.rsp h) (hq : ∀ x ∈ s.home.htes, h.id ∉ x.q) :
    ∃ u, exec (.compAck p m) s = .next u ∧ u.home = { s.home with htes := s.home.htes.filter (·.id ≠ h.id) } ∧ OnlyChanges [.home, .ctr] s u := by
  have f := answerSlot_only h m s
  refine ⟨_, a.exec_compAck p hq, ?_, (f.le _).then (homeOnly_drop ..)⟩
  rw [← f.home]
  rfl

/-! ### SNP_ACK (R188, R194) -/

/-- The HTE of a number is found as it is changed. -/
theorem hteMod_find {s : State} {i : Nat} {h : Hte} {f : Hte → Hte} (hf : ∀ x, (f x).id = x.id) (e : hteGet s i = some h) :
    hteGet (hteMod i f s) i = some (f h) := lmod_find_num (n := Hte.id) hf e

/-- An H state that still awaits an answer stays. -/
theorem hTry_waits {s : State} {x : Hte} (e : hteGet s x.id = some x) (w : hReady x = false) : hTry x.id s = s := by
  simp only [hTry, e, w, Bool.false_eq_true, if_false]

/-- An HTE that awaits the sender of `m` no longer. -/
def ackedBy (m : Msg) : Hte → Hte := acked (BitVec.ofNat 8 (hCagent m))

/-- An HTE whose GRANT has left. -/
def owesNoGrant (x : Hte) : Hte := { x with grant := false }

/-- What an SNP_ACK does for HTE `x` once its agent is cleared: an H state is tried, and with the last agent of a forward the GRANT leaves. -/
def ackNext (x : Hte) (s : State) : State :=
  if x.h then hTry x.id s
  else if x.k.isEmpty && x.grant then grantSend x (hteMod x.id owesNoGrant s)
  else s

/-- An HTE that awaits further agents goes on waiting. -/
theorem ackNext_waits {s : State} {x : Hte} (e : hteGet s x.id = some x) (more : x.k ≠ []) : ackNext x s = s := by
  have k : x.k.isEmpty = false := by simpa using more
  have w : hReady x = false := by simp [hReady, k]
  rw [ackNext, hTry_waits e w, k, Bool.false_and, if_neg Bool.false_ne_true, ite_self]

/-- With the last agent of a forward the GRANT leaves. -/
theorem ackNext_last {x : Hte} (hh : x.h = false) (last : x.k = []) (hg : x.grant = true) (s : State) :
    ackNext x s = grantSend x (hteMod x.id owesNoGrant s) := by
  rw [ackNext, hh, last, hg]
  rfl

/-- A GRANT answers the request of its HTE (R188). -/
theorem grantSend_answers (h : Hte) (s : State) : ∃ o, Answers (grantSend h s) h.req.port h.req.msg Op.grant St.ok o := by
  obtain ⟨o, an, -⟩ := respond_answers h.req.port h.req.msg (subjReq h.req) { op := Op.grant, vc := Vc.rsp, status := St.ok, b128 := !h.grantOnly } s
    (show Op.grant < 2 ^ 6 by decide) (show St.ok < 2 ^ 3 by decide)
  exact ⟨o, an⟩

/-- SNP_ACK clears its agent from its HTE, and goes on with it. -/
theorem snpAckAt_eq {s : State} {m : Msg} {h : Hte} (hb : s.bad = []) (found : hteGet (hteMod h.id (ackedBy m) s) h.id = some (ackedBy m h)) :
    snpAckAt h m s = ackNext (ackedBy m h) (hteMod h.id (ackedBy m) s) := by
  unfold ackedBy acked at found
  simp only [snpAckAt, ctlUse_clean _ _ s hb, found]
  rfl

/-- SNP_ACK acts on the HTE that it finds. -/
theorem AnswersHome.exec_snpAck {s : State} {m : Msg} {h : Hte} (p : DPort) (a : AnswersHome s m Op.snpAck Vc.rsp h) :
    ∃ t, OnlyChanges [.ctr] s t ∧ hteGet (hteMod h.id (ackedBy m) t) h.id = some (ackedBy m h) ∧
      exec (.snpAck p m) s = .next (ackNext (ackedBy m h) (hteMod h.id (ackedBy m) t)) := by
  have f := answerSlot_only h m s
  have found : hteGet (hteMod h.id (ackedBy m) (answerSlot h m s)) h.id = some (ackedBy m h) :=
    hteMod_find (fun _ => rfl) (by rw [hteGet, f.home]; exact a.found)
  exact ⟨_, f, found, congrArg Host.Outcome.next ((a.answerAt_eq _).trans (snpAckAt_eq (f.bad.trans a.clean) found))⟩

/-- An SNP_ACK that leaves agents awaited changes its HTE alone. -/
theorem snpAck_waits {s : State} {m : Msg} {h : Hte} (p : DPort) (a : AnswersHome s m Op.snpAck Vc.rsp h)
    (more : h.k.filter (· ≠ BitVec.ofNat 8 (hCagent m)) ≠ []) :
    ∃ u, exec (.snpAck p m) s = .next u ∧
      u.home = { s.home with htes := lmod (·.id = h.id) (acked (BitVec.ofNat 8 (hCagent m))) s.home.htes } ∧ OnlyChanges [.home, .ctr] s u := by
  obtain ⟨t, f, found, run⟩ := a.exec_snpAck p
  rw [ackNext_waits found more] at run
  refine ⟨_, run, ?_, (f.le _).then (homeOnly .. : OnlyChanges [.home] t _)⟩
  rw [← f.home]
  rfl

/-- The SNP_ACK of the last agent of a forward lets the GRANT leave, after which its HTE owes none. -/
theorem snpAck_grants {s : State} {m : Msg} {h : Hte} (p : DPort) (a : AnswersHome s m Op.snpAck Vc.rsp h)
    (one : h.k = [BitVec.ofNat 8 (hCagent m)]) (hh : h.h = false) (hg : h.grant = true) :
    ∃ u o x, exec (.snpAck p m) s = .next u ∧ Answers u h.req.port h.req.msg Op.grant St.ok o ∧ hteGet u h.id = some x ∧ x.k = [] ∧
      x.grant = false ∧ u.home.sedge = s.home.sedge ∧ OnlyChanges [.home, .ctr, .d0, .d1, .sout] s u := by
  obtain ⟨t, f, found, run⟩ := a.exec_snpAck p
  have last : (ackedBy m h).k = [] := by simp [ackedBy, acked, one]
  let v := hteMod h.id owesNoGrant (hteMod h.id (ackedBy m) t)
  have fv : OnlyChanges [.home] t v := OnlyChanges.trans (homeOnly ..) (homeOnly ..)
  have fu := grantSend_only (ackedBy m h) v
  rw [ackNext_last (x := ackedBy m h) hh last hg] at run
  obtain ⟨o, an⟩ := grantSend_answers (ackedBy m h) v
  have free : hteGet v h.id = _ := hteMod_find (f := owesNoGrant) (fun _ => rfl) found
  refine ⟨grantSend (ackedBy m h) v, o, owesNoGrant (ackedBy m h), run, an, ?_, last, rfl, ?_, ((f.le _).then fv).then fu⟩
  · rw [hteGet, fu.home]
    exact free
  · rw [fu.home, ← f.home]
    rfl

end Sys2Proof.Machine

namespace Sys2Proof
open Machine

/-- Settles O18: COMP_ACK closes the HTE that it finds; SNP_ACK clears its agent there, and the last one of a forward sends the GRANT. -/
theorem acksAdvance : Obligations.AcksAdvance :=
  ⟨fun p _ _ _ a hq => compAck_closes p a hq, fun p _ _ _ a => ⟨snpAck_waits p a, snpAck_grants p a⟩⟩

end Sys2Proof
end

section
/-! SUPPORT. A port's common room and its held requests (O7: R227, R230). -/

namespace Sys2Proof.Machine

-- One declaration after the other: the threads of declarations that wait for one another exhaust the memory that a compile may take.
set_option Elab.async false

/-! ### A credit lent (R227 step 3) -/

/-- A granted credit is counted to its class as out and as owed (R332). -/
theorem grantCredit_self (c : Nat) {x : PortSt} (hq : swf (fun _ => 0) x.q = true) (ho : swf (fun _ => 0) x.owed = true) :
    qGet (grantCredit c x) c = qGet x c + 1 ∧ owedGet (grantCredit c x) c = owedGet x c + 1 :=
  ⟨sget_sset _ _ _ _ none hq, sget_sset _ _ _ _ none ho⟩

theorem grantCredit_ne {c j : Nat} (x : PortSt) (h : j ≠ c) :
    qGet (grantCredit c x) j = qGet x j ∧ owedGet (grantCredit c x) j = owedGet x j :=
  ⟨sget_sset_ne _ _ _ h, sget_sset_ne _ _ _ h⟩

/-- A port that has lent class `c` a credit; `rr`: the round robin chose the class. -/
def lentPort (c : Nat) (rr : Bool) (x : PortSt) : PortSt :=
  { grantCredit c x with rrLend := if rr then BitVec.ofNat 4 c else x.rrLend }

/-- A port with common room lends to the class that step 3 of R227 picks. -/
theorem exec_creditLend {p : DPort} {w : BitVec 16} {s : State} {c : Nat} {rr : Bool} (hp : s.pins.present = true)
    (room : commonRoom s.t (portGet s p) = true) (pick : lendTo s (portGet s p) w = some (c, rr)) :
    exec (.creditLend p w) s = .next (occ 0xA2 .q (subjLine (BitVec.ofNat 4 c) 0) 1 (portSet p (lentPort c rr (portGet s p)) s)) := by
  have run : exec (.creditLend p w) s = execCreditLend p w s := rfl
  rw [run, execCreditLend]
  simp only [hp, room, pick, Bool.and_self, if_true]
  cases rr <;> rfl

theorem creditLent : CreditLent := by
  intro p w s c rr hp room pick hq ho
  have f := occ_only 0xA2 .q (subjLine (BitVec.ofNat 4 c) 0) 1 (portSet p (lentPort c rr (portGet s p)) s)
  obtain ⟨q, o⟩ := grantCredit_self c hq ho
  refine ⟨_, exec_creditLend hp room pick, ?_⟩
  rw [f.port p (by cases p <;> decide), portGet_portSet]
  exact ⟨q, o, fun j h => grantCredit_ne _ h, rfl, rfl, rfl, rfl, rfl, ((portSet_only ..).mono (by simp)).trans (f.mono (by simp))⟩

/-! ### A held request waits again (R230) -/

/-- Changing the one entry at place `k` of a list is setting it there. -/
theorem map_zipIdx_at_eq_set {α : Type} {l : List α} {k : Nat} {a : α} (h : l[k]? = some a) (f : α → α) :
    (l.zipIdx.map fun e => if e.2 = k then f e.1 else e.1) = l.set k (f a) := by
  obtain ⟨lt, rfl⟩ := List.getElem?_eq_some_iff.mp h
  refine List.ext_getElem? fun i => ?_
  rw [List.getElem?_map, List.getElem?_zipIdx, List.getElem?_set, Nat.zero_add, Option.map_map]
  by_cases e : k = i
  · subst e
    simp [lt]
  · simp [Function.comp_def, e, Ne.symm e]

theorem exec_heldRequestRepresent {p : DPort} {k : Nat} {s : State} {g : Ing} {h : Hold} (place : (portGet s p).ing[k]? = some g)
    (hold : g.hold = some h) (free : holdOver s g.req h = true) (go : s.srv.halt = false) :
    exec (.heldRequestRepresent p k) s =
      .next (portSet p { portGet s p with ing := (portGet s p).ing.set k { g with hold := none } } s) := by
  have run : exec (.heldRequestRepresent p k) s = execHeldRequestRepresent p k s := rfl
  have e := map_zipIdx_at_eq_set place fun i : Ing => { i with hold := none }
  rw [run, execHeldRequestRepresent]
  simp only [place, hold, free, go, Bool.not_false, Bool.and_self, if_true, e]

theorem heldRequestWaitsAgain : HeldRequestWaitsAgain := by
  intro p k s g h place hold free go
  refine ⟨_, exec_heldRequestRepresent place hold free go, ?_, ?_⟩
  · rw [portGet_portSet]
  · cases p <;> rfl

end Sys2Proof.Machine

namespace Sys2Proof
open Machine

/-- Settles O7: a lent credit is counted to its class, and a held entry loses its hold at its place. -/
theorem portEntries : Obligations.PortEntries := ⟨creditLent, heldRequestWaitsAgain⟩

end Sys2Proof
end

section
/-! SUPPORT. Windows, scrub instants, leak decay, heartbeats and fabric time (O41: R234 to R236, R340, R347, R360, R361). -/

namespace Sys2Proof.Machine

-- One declaration after the other: the threads of declarations that wait for one another exhaust the memory that a compile may take.
set_option Elab.async false

/-! ### Windows (R234) -/

theorem OnlyChanges.regul {l : List Part} {s u : State} (h : OnlyChanges l s u) (k : .regul ∉ l := by decide) : u.regul = s.regul := h.same .regul k

theorem winGet_winSet (c : Nat) (w : Win) {s : State} (h : Canonical s) : winGet (winSet c w s) c = w := sget_sset _ _ _ _ none h.win
theorem winGet_winSet_ne {c j : Nat} (w : Win) (s : State) (h : j ≠ c) : winGet (winSet c w s) j = winGet s j := sget_sset_ne _ _ _ h

/-- A window starts where it is told to, empty but for the requests that wait (R235). -/
theorem winStart_self (c : Nat) (t : FT) {s : State} (h : Canonical s) : (winGet (winStart c t s) c).served = 0 ∧
    (winGet (winStart c t s) c).demand = waitDemand s c ∧ (winGet (winStart c t s) c).start = t := by
  rw [winStart, winGet_winSet c _ h]
  exact ⟨rfl, rfl, rfl⟩

theorem winStart_ne {c j : Nat} (t : FT) (s : State) (h : j ≠ c) : winGet (winStart c t s) j = winGet s j := winGet_winSet_ne _ _ h

/-- Class `c` counts from the present FT value. -/
def startsNow (s : State) (c : Nat) : Prop := (winGet s c).start = s.clk.ft ∧ (winGet s c).served = 0

/-- Windows that start now, one class after the other: each class among them, or with its window started before, counts from now. -/
theorem foldl_winStart_startsNow {c : Nat} (cs : List Nat) {s : State} (h : Canonical s) (k : c ∈ cs ∨ startsNow s c) :
    startsNow (cs.foldl (fun s c => winStart c s.clk.ft s) s) c := by
  induction cs generalizing s with
  | nil => exact k.resolve_left List.not_mem_nil
  | cons d cs ih =>
    refine ih h.winStart ?_
    by_cases e : c = d
    · subst e
      obtain ⟨served, _, start⟩ := winStart_self c s.clk.ft h
      exact .inr ⟨start, served⟩
    · rcases k with m | m
      · exact .inl ((List.mem_cons.mp m).resolve_left e)
      · refine .inr ?_
        rw [startsNow, winStart_ne _ _ e]
        exact m

/-- A restart starts the window of every class now, and empty. -/
theorem winRestart_starts {s : State} (h : Canonical s) (c : Nat) (hc : c < 16) :
    (winGet (winRestart s) c).start = s.clk.ft ∧ (winGet (winRestart s) c).served = 0 := by
  have now : startsNow (winRestart s) c := foldl_winStart_startsNow _ h.withRegul (.inl (List.mem_range.mpr hc))
  rwa [startsNow, (winRestart_only s).clk] at now

theorem foldl_winStart_on (cs : List Nat) (s : State) : (cs.foldl (fun s c => winStart c s.clk.ft s) s).regul.on = s.regul.on := by
  induction cs generalizing s with
  | nil => rfl
  | cons d cs ih => exact ih _

theorem winRestart_on (s : State) : (winRestart s).regul.on = true := foldl_winStart_on ..

/-! ### The end of a window (R235, R236) -/

/-- What waits at the ports and in Mace is all that a new window's demand is of. -/
theorem waitDemand_congr {s u : State} (h0 : ∃ l, u.d0 = { s.d0 with out := l }) (h1 : u.d1 = s.d1) (hm : u.mace = s.mace) (c : Nat) :
    waitDemand u c = waitDemand s c := by
  obtain ⟨l, h0⟩ := h0
  rw [waitDemand, waitDemand, h0, h1, hm]

theorem sendIntr_d0 (s : State) : ∃ l, (sendIntr s).d0 = { s.d0 with out := l } := by
  unfold sendIntr
  split <;> exact ⟨_, rfl⟩

/-- Of D0 a raised cause changes the messages that leave alone (R257). -/
theorem raise_d0 (c : Nat) (s : State) : ∃ l, (raise c s).d0 = { s.d0 with out := l } := by
  unfold raise setInts
  dsimp only
  split
  · exact sendIntr_d0 _
  · exact ⟨_, rfl⟩

/-- Of D0 a notice changes the messages that leave alone. -/
theorem notice_d0 (n : Notice) (s : State) : ∃ l, (notice n s).d0 = { s.d0 with out := l } := by
  unfold notice
  split
  · exact ⟨_, rfl⟩
  · exact raise_d0 _ _

/-- The GUARANTEE_MISS record of the window of class `c` that ends now (Table 11.5). -/
def missRecord (s : State) (c : Nat) : Rec :=
  pack 256 [(192, 64, ftN s), (152, 40, (winGet s c).served), (112, 40, (winGet s c).demand), (88, 24, clsFloor s.t c), (64, 24, (winGet s c).eflo),
    (60, 4, c), (59, 1, b2n (winGet s c).scaled), (56, 3, (winGet s c).maxlvl.toNat), (32, 16, clsWin s.t c)]

theorem missRecord_fields (s : State) (c : Nat) : fld (missRecord s c).toNat 152 40 = (winGet s c).served % 2 ^ 40 ∧
    fld (missRecord s c).toNat 112 40 = (winGet s c).demand % 2 ^ 40 ∧ fld (missRecord s c).toNat 60 4 = c % 2 ^ 4 := by
  refine ⟨fld_pack ?_ ?_ ?_, fld_pack ?_ ?_ ?_, fld_pack ?_ ?_ ?_⟩
  all_goals simp

/-- Where the window of class `c` ends and the next one starts. -/
def windowEnd (s : State) (c : Nat) : FT := (winGet s c).start + BitVec.ofNat 64 (clsWin s.t c * 64)

/-- A window whose guarantee was met ends with the start of the next. -/
theorem winEnd_met {s : State} {c : Nat} (h : ¬ windowMissed s c) : winEnd c s = winStart c (windowEnd s c) s := by
  unfold windowMissed at h
  unfold winEnd
  dsimp only
  rw [if_neg h]
  rfl

/-- The state with a missed guarantee counted and noticed, before Peat sees it. -/
def missNoticed (c : Nat) (s : State) : State := notice (.event 2 (missRecord s c)) (occ 0xA1 .q (subjLine (BitVec.ofNat 4 c) 0) 1 s)

/-- From `s` to `t` the miss of class `c` is reported: a notice with its record, a count, and what Peat makes of it. -/
structure MissTold (c : Nat) (s t : State) : Prop where
  frame : OnlyChanges [.log, .ints, .d0, .ctr, .peat] s t
  d0 : ∃ l, t.d0 = { s.d0 with out := l }
  noticed : s.log.notices.length < 64 → t.log.notices = s.log.notices ++ [.event 2 (missRecord s c)]
  canonical : Canonical s → Canonical t

theorem missNoticed_told (c : Nat) (s : State) : MissTold c s (missNoticed c s) := by
  have o := occ_only 0xA1 .q (subjLine (BitVec.ofNat 4 c) 0) 1 s
  refine ⟨(o.le _).then (notice_only ..), ?_, fun room => ?_, fun h => h.occ.notice⟩
  · rw [← show _ = s.d0 from o.same .d0 (by decide)]
    exact notice_d0 ..
  · rw [← o.log] at room ⊢
    rw [missNoticed, notice_room _ _ room]

/-- Peat adds its own to a report (Table 15.3). -/
theorem MissTold.traced {c : Nat} {s t : State} (h : MissTold c s t) (v : TEv) (m : Nat) : MissTold c s (trigger 3 0 m (traceEv v t)) := by
  have f := (traceEv_only v t).trans (trigger_only 3 0 m _)
  refine ⟨h.frame.then f, ?_, ?_, fun k => (h.canonical k).traceEv.trigger⟩
  · rw [f.same .d0 (by decide)]
    exact h.d0
  · rw [f.log]
    exact h.noticed

/-- A window whose guarantee was missed ends with its report, and then with the start of the next. -/
theorem winEnd_missed {s : State} {c : Nat} (h : windowMissed s c) : ∃ t, MissTold c s t ∧ winEnd c s = winStart c (windowEnd s c) t := by
  have gen : ∀ v m, (trigger 3 0 m (traceEv v (missNoticed c s))).t = s.t :=
    fun v m => congrArg GenSt.live ((missNoticed_told c s).traced v m).frame.gen
  have e : ∃ v m, winEnd c s = winStart c (windowEnd s c) (trigger 3 0 m (traceEv v (missNoticed c s))) := by
    unfold windowMissed at h
    unfold winEnd
    dsimp only
    rw [if_pos h]
    exact ⟨_, _, congrArg₂ (winStart c) (congrArg (fun g => (winGet s c).start + BitVec.ofNat 64 (clsWin g c * 64)) (gen _ _)) rfl⟩
  obtain ⟨v, m, e⟩ := e
  exact ⟨_, (missNoticed_told c s).traced v m, e⟩

/-- Once the end of a window is reported, the next one starts on the same demand, and the windows of other classes stay. -/
theorem winStart_follows {s t : State} {c : Nat} (h : Canonical t) (f : OnlyChanges [.log, .ints, .d0, .ctr, .peat] s t)
    (k : ∃ l, t.d0 = { s.d0 with out := l }) (at_ : FT) :
    (winGet (winStart c at_ t) c).served = 0 ∧ (winGet (winStart c at_ t) c).demand = waitDemand s c ∧ (winGet (winStart c at_ t) c).start = at_ ∧
      (∀ j, j ≠ c → winGet (winStart c at_ t) j = winGet s j) ∧ (winStart c at_ t).regul.levels = s.regul.levels ∧
      (winStart c at_ t).regul.on = s.regul.on ∧ (winStart c at_ t).regul.rpts = s.regul.rpts := by
  obtain ⟨served, demand, start⟩ := winStart_self c at_ h
  have r := f.regul
  refine ⟨served, demand.trans (waitDemand_congr k (f.same .d1 (by decide)) (f.same .mace (by decide)) c), start, fun j hj => ?_,
    (congrArg RegulSt.levels r :), (congrArg RegulSt.on r :), (congrArg RegulSt.rpts r :)⟩
  rw [winStart_ne _ _ hj, winGet, winGet, r]

theorem windowEnds (c : Fin 16) (s : State) (due : winDue s c.val = true) (h : Canonical s) :
    ∃ u, exec (.regulationWindowEnd c) s = .next u ∧ (winGet u c.val).served = 0 ∧ (winGet u c.val).demand = waitDemand s c.val ∧
      (winGet u c.val).start = windowEnd s c.val ∧ (∀ j, j ≠ c.val → winGet u j = winGet s j) ∧ u.regul.levels = s.regul.levels ∧
      u.regul.on = true ∧ u.regul.rpts = s.regul.rpts ∧ (¬ windowMissed s c.val → OnlyChanges [.regul] s u) ∧
      (windowMissed s c.val → s.log.notices.length < 64 → ∃ x, u.log.notices = s.log.notices ++ [.event 2 x] ∧
        fld x.toNat 152 40 = (winGet s c.val).served % 2 ^ 40 ∧ fld x.toNat 112 40 = (winGet s c.val).demand % 2 ^ 40 ∧ fld x.toNat 60 4 = c.val) ∧
      OnlyChanges [.regul, .log, .ints, .d0, .ctr, .peat] s u := by
  have run : exec (.regulationWindowEnd c) s = .next (winEnd c.val s) := congrArg Host.Outcome.next (if_pos due)
  have on : s.regul.on = true := by
    simp only [winDue, Bool.and_eq_true] at due
    exact due.1.1
  by_cases m : windowMissed s c.val
  · obtain ⟨t, told, e⟩ := winEnd_missed m
    obtain ⟨served, demand, start, others, levels, stays, rpts⟩ := winStart_follows (told.canonical h) told.frame told.d0 (windowEnd s c.val)
    obtain ⟨f1, f2, f3⟩ := missRecord_fields s c.val
    exact ⟨_, run.trans (congrArg _ e), served, demand, start, others, levels, stays.trans on, rpts, fun n => absurd m n,
      fun _ room => ⟨_, told.noticed room, f1, f2, f3.trans (Nat.mod_eq_of_lt c.isLt)⟩, (told.frame.le _).then (winStart_only ..)⟩
  · obtain ⟨served, demand, start, others, levels, stays, rpts⟩ := winStart_follows h (.refl _ _) ⟨s.d0.out, rfl⟩ (windowEnd s c.val)
    have f : OnlyChanges [.regul] s (winStart c.val (windowEnd s c.val) s) := winStart_only ..
    exact ⟨_, run.trans (congrArg _ (winEnd_met m)), served, demand, start, others, levels, stays.trans on, rpts, fun _ => f,
      fun n => absurd n m, f.le _⟩

/-! ### Scrub instants (R360) -/

/-- On storage without errors a scrub of a way finds nothing. -/
theorem scrubWay_clean (k : Nat) (s : State) (h : s.bad = []) : scrubWay s k = s := by
  rw [scrubWay, wayCheck_clean none k s h, ite_self]

/-- On storage without errors a scrub of a set takes its lookup slot, and finds nothing. -/
theorem scrubSet_clean (set : Nat) (s : State) (h : s.bad = []) : scrubSet set s = useSlot set false none s := by
  have b : (useSlot set false none s).bad = [] := h
  rw [scrubSet, setCheck_clean none set _ b, sedgeCheck_clean none _ _ b]
  exact List.foldl_fixed' (fun k => scrubWay_clean k _ b) _

theorem scrubVisits (s : State) (due : scrubDue s = true) (h : s.bad = []) :
    ∃ u, exec .patrolScrubStep s = .next u ∧ u.srv = { s.srv with scrubK := scrubIdx s, scrubPos := (s.srv.scrubPos + 1) % 16384 } ∧
      OnlyChanges [.srv, .ctr] s u := by
  have run : exec .patrolScrubStep s = .next _ := congrArg Host.Outcome.next (if_pos due)
  rw [scrubSet_clean _ s h] at run
  exact ⟨_, run, rfl, ((useSlot_only ..).le _).then (srvOnly ..)⟩

/-! ### Leak decay (R361) -/

/-- A bank with its leak count lowered. -/
def leakLess (k : Bank) : Bank := { k with leak := k.leak - 1 }

/-- Each bank of a list without repeats is lowered once. -/
theorem bankGet_foldl_leakLess {bs : List Nat} (nd : bs.Nodup) {s : State} (h : Canonical s) (b : Nat) :
    bankGet (bs.foldl (fun s b => bankSet b (leakLess (bankGet s b)) s) s) b = if b ∈ bs then leakLess (bankGet s b) else bankGet s b := by
  induction bs generalizing s with
  | nil => rfl
  | cons j bs ih =>
    obtain ⟨new, nd⟩ := List.nodup_cons.mp nd
    rw [List.foldl_cons, ih nd h.bankSet]
    by_cases e : b = j
    · subst e
      rw [if_neg new, if_pos List.mem_cons_self, bankGet_bankSet _ _ h.banks]
    · simp only [bankGet_bankSet_ne _ _ e, List.mem_cons, e, false_or]

theorem leakDecays (s : State) (hp : s.pins.present = true) (hv : s.clk.ftv = true) (hs : s.clk.seen = true)
    (passed : s.srv.leakK ≠ ftN s / 2 ^ 30) (h : Canonical s) :
    ∃ u, exec .leakDecay s = .next u ∧ u.srv = { s.srv with leakK := ftN s / 2 ^ 30 } ∧
      (∀ b, bankGet u b = if b < 64 then { bankGet s b with leak := (bankGet s b).leak - 1 } else bankGet s b) ∧ OnlyChanges [.srv, .banks] s u := by
  let t : State := { s with srv := { s.srv with leakK := ftN s / 2 ^ 30 } }
  let u := (List.range 64).foldl (fun s b => bankSet b (leakLess (bankGet s b)) s) t
  have f : OnlyChanges [.banks] t u := foldl_only (fun _ _ => bankSet_only ..) _ _
  have run : exec .leakDecay s = .next u := congrArg Host.Outcome.next (if_pos (by simpa [hp, hv, hs] using passed))
  refine ⟨u, run, f.srv, fun b => ?_, ((srvOnly ..).le _ : OnlyChanges [.srv, .banks] s t).then f⟩
  exact (bankGet_foldl_leakLess List.nodup_range (s := t) h.withSrv b).trans (if_congr List.mem_range rfl rfl)

/-! ### Heartbeats (R347) -/

/-- The LIVE message with count `k`. -/
def liveMsg (k : BitVec 16) (s : State) : Msg where
  hdr := rspHdr Op.live Vc.ctl 0 (sreqN s) (chipN s) (chipN s) 0 0 0 0 0 0 0 0 0 k.toNat 0 false
  beats := []
  be := []

theorem liveMsg_fields (k : BitVec 16) (s : State) : hOpcode (liveMsg k s) = Op.live ∧ hVc (liveMsg k s) = Vc.ctl ∧
    hResult (liveMsg k s) = k.toNat ∧ hReqid (liveMsg k s) = sreqN s ∧ hSrc (liveMsg k s) = chipN s ∧ hDst (liveMsg k s) = chipN s := by
  have chip : chipN s % 2 ^ 14 = chipN s := Nat.mod_eq_of_lt s.pins.chipId.isLt
  refine ⟨fld_pack (v := Op.live) ?_ ?_ ?_, fld_pack (v := Vc.ctl) ?_ ?_ ?_,
    (fld_pack (v := k.toNat) ?_ ?_ ?_).trans (Nat.mod_eq_of_lt (k.isLt.trans (by decide))),
    (fld_pack (v := sreqN s) ?_ ?_ ?_).trans (Nat.mod_eq_of_lt s.pins.sreqid.isLt), (fld_pack (v := chipN s) ?_ ?_ ?_).trans chip,
    (fld_pack (v := chipN s) ?_ ?_ ?_).trans chip⟩
  all_goals simp

/-- A LIVE is queued on both D ports. -/
theorem liveSend_eq (k : BitVec 16) (s : State) : liveSend k s =
    emit .d1 { msg := liveMsg k s, subj := none, post := .none } (emit .d0 { msg := liveMsg k s, subj := none, post := .none } s) := rfl

theorem liveSend_only (k : BitVec 16) (s : State) : OnlyChanges [.d0, .d1] s (liveSend k s) :=
  (emit_only .d0 _ s).after (emit_only .d1 _ _)

theorem liveLeaves (s : State) (hp : s.pins.present = true) (due : s.pins.liveAt + 256 ≤ s.clk.sclk) :
    ∃ u o, exec .live s = .next u ∧ u.d0 = { s.d0 with out := s.d0.out ++ [o] } ∧ u.d1 = { s.d1 with out := s.d1.out ++ [o] } ∧
      hOpcode o.msg = Op.live ∧ hVc o.msg = Vc.ctl ∧ hResult o.msg = s.pins.liveCnt.toNat ∧ hReqid o.msg = sreqN s ∧ hSrc o.msg = chipN s ∧
      hDst o.msg = chipN s ∧ u.pins = { s.pins with liveAt := s.pins.liveAt + 256, liveCnt := s.pins.liveCnt + 1 } ∧
      OnlyChanges [.pins, .d0, .d1] s u := by
  let t : State := { s with pins := { s.pins with liveAt := s.pins.liveAt + 256, liveCnt := s.pins.liveCnt + 1 } }
  have ft : OnlyChanges [.pins] s t := ⟨fun q hq => by cases q <;> first | rfl | exact absurd (by simp) hq⟩
  have f := liveSend_only s.pins.liveCnt t
  have run : exec .live s = .next (liveSend s.pins.liveCnt t) := congrArg Host.Outcome.next (if_pos (by simp [hp, due]))
  obtain ⟨op, vc, result, reqid, src, dst⟩ := liveMsg_fields s.pins.liveCnt t
  exact ⟨_, { msg := liveMsg s.pins.liveCnt t, subj := none, post := .none }, run, rfl, rfl, op, vc, result, reqid, src, dst, f.pins,
    (ft.le _).then f⟩

theorem timeDriven : TimeDriven := ⟨windowEnds, scrubVisits, leakDecays, liveLeaves⟩

/-! ### Fabric time (R340) -/

/-- The value of a sample is 1 to 3 ticks above that of the one before. -/
def ftRises (a b : FtSample) : Prop := grayDecode a.count < grayDecode b.count ∧ grayDecode b.count ≤ grayDecode a.count + 3

theorem ftFollows_iff (a b : FtSample) : ftFollows a b = true ↔ b.sync = true ∧ ftRises a b := by
  rw [ftFollows, Bool.and_eq_true, decide_eq_true_eq, ftRises]

/-- A run is steady if FT_SYNC is 1 in all its samples and each value is 1 to 3 ticks above the one before. -/
theorem ftSteady_iff (run : List FtSample) : ftSteady run = true ↔ (∀ a ∈ run, a.sync = true) ∧ run.IsChain ftRises := by
  match run with
  | [] => simp [ftSteady]
  | [a] => simp [ftSteady]
  | a :: b :: l =>
    have ih := ftSteady_iff (b :: l)
    simp only [ftSteady, Bool.and_eq_true, ftFollows_iff, ih, List.isChain_cons_cons, List.mem_cons, forall_eq_or_imp]
    tauto

/-- A pair of samples that does not rise with FT_SYNC ends validity, and the held value stays. -/
theorem ftLost (a b : FtSample) (before after : List FtSample) (s : State) (taken : s.clk.ftIn = before ++ a :: b :: after)
    (broken : ¬ (b.sync = true ∧ ftRises a b)) : exec .ftInvalid s = .next { s with clk := { s.clk with ftv := false } } := by
  have unsteady : ¬ ftSteady s.clk.ftIn = true := fun k => by
    obtain ⟨sync, rises⟩ := (ftSteady_iff _).mp k
    exact broken ⟨sync b (by simp [taken]), List.isChain_iff_forall_rel_of_append_cons_cons.mp rises taken⟩
  exact congrArg Host.Outcome.next (if_neg unsteady)

theorem ftStands (s : State) (sync : ∀ a ∈ s.clk.ftIn, a.sync = true)
    (rises : ∀ (a b : FtSample) (before after : List FtSample), s.clk.ftIn = before ++ a :: b :: after → ftRises a b) :
    exec .ftInvalid s = .next s :=
  have steady := (ftSteady_iff _).mpr ⟨sync, List.isChain_iff_forall_rel_of_append_cons_cons.mpr fun a b l m e => rises a b l m e⟩
  congrArg Host.Outcome.next (if_pos steady)

theorem ftOnlyTaken (run : List FtSample) (s : State) (h : s.clk.ftv = true ∨ ftRunOk s.clk.ft run = false) :
    exec (.ftValid run) s = .next { s with clk := { s.clk with ftIn := s.clk.ftIn.getLast?.toList ++ run } } := by
  have idle : ¬ (s.pins.porstN && !s.clk.ftv && ftRunOk s.clk.ft run) = true := by
    rcases h with h | h <;> simp [h]
  exact congrArg Host.Outcome.next (if_neg idle)

/-- The state with FT valid at the value that a run ends at. -/
def ftTaken (run : List FtSample) (bus : FT) (s : State) : State :=
  { s with clk := { s.clk with ft := bus, bus := bus, ftv := true, ftIn := run } }

theorem clkOnly (x : Clock) (s : State) : OnlyChanges [.clk] s { s with clk := x } :=
  ⟨fun q hq => by cases q <;> first | rfl | exact absurd (by simp) hq⟩

/-- A run that makes FT valid restarts the windows while PRESENT is 1; the first time since a reset the scrub instants start with them. -/
theorem exec_ftValid {run : List FtSample} {bus : FT} {s : State} (released : s.pins.porstN = true) (invalid : s.clk.ftv = false)
    (ok : ftRunOk s.clk.ft run = true) (ends : bus = BitVec.ofNat 64 (ftEnds run).2) : exec (.ftValid run) s =
      .next (if !s.pins.present then ftTaken run bus s else if s.clk.seen then winRestart (ftTaken run bus s) else ftFirst (ftTaken run bus s)) := by
  subst ends
  exact congrArg Host.Outcome.next (if_pos (by simp [released, invalid, ok]))

/-- The state as FT becomes valid the first time since a reset, before the windows restart (R234, R360). -/
def ftSeen (s : State) : State :=
  { s with clk := { s.clk with seen := true }, srv := { s.srv with scrubG := s.clk.ft, scrubK := 0, leakK := ftN s / 2 ^ 30 } }

theorem ftSeen_only (s : State) : OnlyChanges [.clk, .srv] s (ftSeen s) :=
  ⟨fun q hq => by cases q <;> first | rfl | exact absurd (by simp) hq⟩

theorem ftBecomesValid (run : List FtSample) (bus : BitVec 64) (s : State) (released : s.pins.porstN = true) (invalid : s.clk.ftv = false)
    (ok : ftRunOk s.clk.ft run = true) (ends : bus = BitVec.ofNat 64 (ftEnds run).2) (h : Canonical s) :
    ∃ u, exec (.ftValid run) s = .next u ∧ u.clk = { s.clk with ft := bus, bus := bus, ftv := true, seen := s.clk.seen || s.pins.present, ftIn := run } ∧
      (s.pins.present = false → OnlyChanges [.clk] s u) ∧
      (s.pins.present = true → u.regul.on = true ∧ (∀ c < 16, (winGet u c).start = bus ∧ (winGet u c).served = 0) ∧
        (s.clk.seen = true → u.srv = s.srv) ∧
        (s.clk.seen = false → u.srv = { s.srv with scrubG := bus, scrubK := 0, leakK := bus.toNat / 2 ^ 30 }) ∧ OnlyChanges [.clk, .regul, .srv] s u) := by
  let t := ftTaken run bus s
  have e := exec_ftValid released invalid ok ends
  have ft : OnlyChanges [.clk] s t := clkOnly ..
  have ht : Canonical t := { h with }
  cases hp : s.pins.present with
  | false =>
    refine ⟨t, by rw [e, hp]; rfl, ?_, fun _ => ft, nofun⟩
    rw [Bool.or_false]
    rfl
  | true =>
    cases hs : s.clk.seen with
    | true =>
      have f := winRestart_only t
      refine ⟨winRestart t, by rw [e, hp, hs]; rfl, ?_, nofun, fun _ => ⟨winRestart_on t, winRestart_starts ht, fun _ => f.srv, nofun, (ft.le _).then f⟩⟩
      exact f.clk.trans (congrArg (fun b => { t.clk with seen := b }) hs)
    | false =>
      have f := winRestart_only (ftSeen t)
      refine ⟨winRestart (ftSeen t), by rw [e, hp, hs]; rfl, ?_, nofun,
        fun _ => ⟨winRestart_on _, winRestart_starts { ht with }, nofun, fun _ => f.srv, ((ft.le _).then (ftSeen_only t)).then f⟩⟩
      exact f.clk

theorem fabricTime : FabricTime := ⟨ftBecomesValid, ftOnlyTaken, ftLost, ftStands⟩

end Sys2Proof.Machine

namespace Sys2Proof
open Machine

/-- Settles O41: a window, a scrub instant, a leak decay and a LIVE, each by what its command leaves; and FT by the samples taken. -/
theorem timePasses : Obligations.TimePasses := ⟨timeDriven, fabricTime⟩

end Sys2Proof
end

section
/-! SUPPORT. Commands refused, and the words that SET_TABLE and GET_TABLE move (O48: R243, R259, R261, R266). -/

namespace Sys2Proof.Machine

-- One declaration after the other: the threads of declarations that wait for one another exhaust the memory that a compile may take.
set_option Elab.async false

/-! ### Commands of mailbox 0's alone (R243) -/

/-- A row of the commands that only mailbox 0 may issue: the command performs the operations of its opcode that are its own, and refuses every other
mailbox with EPERM. -/
def HostRow (x : Instr × Nat × (State → Nat → Bool)) : Prop :=
  x.2.1 ≠ 0 ∧ ∃ f, (∀ s, exec x.1 s = .next (cmdRun x.2.1 x.2.2 f s)) ∧ ∀ t s, t ≠ 0 → f t s = mbxDone t Mc.eperm [] s

/-- Where the first check is for mailbox 0, any other ends with EPERM and no results. -/
theorem checked_host {t : Nat} (h : t ≠ 0) {l : List (Bool × Nat)} (hl : l.head? = some (decide (t ≠ 0), Mc.eperm)) (res : State → List Nat)
    (f : State → State) (s : State) : checked t l res f s = mbxDone t Mc.eperm [] s := by
  obtain ⟨l, rfl⟩ := List.head?_eq_some_iff.mp hl
  exact checked_fail (c := Mc.eperm) (by simp [firstOf, h])

/-- COMMIT and its cancel ask for the mailbox first; the other rows are lists of checks, of which that is the first. -/
theorem hostOnly_rows : ∀ x ∈ hostOnly, HostRow x := by
  simp only [hostOnly, List.forall_mem_cons]
  refine ⟨?_, ?_, ⟨by decide, commitCmd, fun _ => rfl, fun t s h => if_pos h⟩, ⟨by decide, cancelCmd, fun _ => rfl, fun t s h => if_pos h⟩,
    ?_, ?online, ?_, ?_, ?_, ?_, ?_, ?_, ?_, ?_, ?_, ?_, ?inspect, ?snapshot, ?_, ?load, ?_, ?switch, List.forall_mem_nil _⟩
  case online => exact ⟨by decide, bankOnlineCmd, fun _ => rfl, fun _ _ h => by unfold bankOnlineCmd; exact checked_host h rfl ..⟩
  case inspect => exact ⟨by decide, inspCmd, fun _ => rfl, fun _ _ h => by unfold inspCmd; exact checked_host h rfl ..⟩
  case snapshot => exact ⟨by decide, snapCmd, fun _ => rfl, fun _ _ h => by unfold snapCmd; exact checked_host h rfl ..⟩
  case load => exact ⟨by decide, fwLoadCmd, fun _ => rfl, fun _ _ h => by unfold fwLoadCmd; exact checked_host h rfl ..⟩
  case switch => exact ⟨by decide, tenantSwitchCmd, fun _ => rfl, fun _ _ h => by unfold tenantSwitchCmd; exact checked_host h rfl ..⟩
  all_goals exact ⟨by decide, _, fun _ => rfl, fun _ _ h => checked_host h rfl ..⟩

theorem hostOnly_refused {c : Instr} {op t : Nat} {sub : State → Nat → Bool} {s : State} {rest : List Nat} (m : (c, op, sub) ∈ hostOnly)
    (h : Heads s op t rest) (b : sub s t = true) (ht : t ≠ 0) : ∃ u, exec c s = .next u ∧ Completes s u t rest Mc.eperm [] [] := by
  obtain ⟨ho, f, run, refuses⟩ := hostOnly_rows _ m
  exact ⟨_, (run s).trans (congrArg _ ((cmdRun_heads h b).trans (refuses t _ ht))), h.completes ho Mc.eperm [] (.refl [] (atStart s t rest))⟩

/-! ### Opcodes that name nothing (R259) -/

/-- A mailbox's command that ends with a status other than OK has ended, whatever the store. -/
theorem mbxDone_ended_code {c : Nat} (h : BitVec.ofNat 4 c ≠ 0) (t : Nat) (r : List Nat) (s : State) : Ended s (mbxDone t c r s) t c r := by
  have e : mbxGet (mbxDone t c r s) t = { mbxGet s t with res := resWords r, code := BitVec.ofNat 4 c, busy := false, phase := .idle, inF := [], got := [],
                                                          pend := [], wait := 0 } :=
    (raiseMbx_get ..).trans (mbxGet_mbxSet_self _ _ fun e => h (congrArg Mbx.code e))
  exact ⟨by rw [e], by rw [e], by rw [e], by rw [e], by rw [e], raiseMbx_mbx .., fun j hj => (raiseMbx_get ..).trans (mbxGet_mbxSet_ne _ _ hj)⟩

theorem invalidCommand_refused {s : State} {t : Nat} {rest : List Nat} (runs : coreRuns s = true) (queue : s.startQ = t :: rest)
    (unknown : (mbxGet s t).op.toNat ∉ knownOps) : ∃ u, exec .invalidCommand s = .next u ∧ Completes s u t rest Mc.einval [] [] := by
  let v : State := { s with startQ := rest }
  have d := mbxDone_only t Mc.einval [] v
  have run : exec .invalidCommand s = .next (mbxDone t Mc.einval [] v) := by
    show execInvalidCommand s = _
    simp [execInvalidCommand, runs, queue, unknown, v]
  exact ⟨_, run, (mbxDone_ended_code (by decide) t [] v).since rfl fun _ _ => rfl, d.same .startQ (by decide),
    ((startQOnly rest s).le ([] ++ mbxParts)).then d⟩

theorem commandsChecked : CommandsChecked :=
  ⟨fun _ _ _ _ _ _ m h b ht => hostOnly_refused m h b ht, fun _ _ _ runs queue unknown => invalidCommand_refused runs queue unknown⟩

/-! ### A mailbox written -/

/-- From `s` to `u` mailbox `t` has come to hold `m`, and nothing else has changed. -/
structure MbxBecomes (s u : State) (t : Nat) (m : Mbx) : Prop where
  get : mbxGet u t = m
  others : ∀ j, j ≠ t → mbxGet u j = mbxGet s j
  frame : OnlyChanges [.mbx] s u

section
variable {s u v : State} {t : Nat} {m m' : Mbx}

theorem MbxBecomes.set (t : Nat) (s : State) (h : m ≠ Mbx.reset) : MbxBecomes s (mbxSet t m s) t m :=
  ⟨mbxGet_mbxSet_self _ _ h, fun _ hj => mbxGet_mbxSet_ne _ _ hj, mbxSet_only ..⟩

theorem MbxBecomes.trans (h : MbxBecomes s v t m) (k : MbxBecomes v u t m') : MbxBecomes s u t m' :=
  ⟨k.get, fun j hj => (k.others j hj).trans (h.others j hj), h.frame.trans k.frame⟩

/-- Arguments are read of the latched words alone. -/
theorem mArg_congr (h : (mbxGet u t).larg = (mbxGet s t).larg) (i : Nat) : mArg u t i = mArg s t i := by rw [mArg, mArg, h]
theorem argF_congr (h : (mbxGet u t).larg = (mbxGet s t).larg) (i lo w : Nat) : argF u t i lo w = argF s t i lo w := by rw [argF, argF, mArg_congr h]

/-! ### The input stream (R261) -/

/-- The mailbox `m` when its command has begun to take `n` words at `now`: those that are there, up to `n`, are taken. -/
def takenWords (m : Mbx) (n now : Nat) : Mbx :=
  { m with phase := .input n, got := m.inF.take n, inF := m.inF.drop n, wait := now }

/-- A command takes the words that are there, and ends its input with the last one. -/
theorem mbxInput_takes (runs : coreRuns s = true) (t n : Nat) : ∃ u, MbxBecomes s u t (takenWords (mbxGet s t) n s.clk.run) ∧
    mbxInput t n s = if n ≤ (mbxGet s t).inF.length then inputDone t u else u := by
  let m : Mbx := { mbxGet s t with phase := .input n, got := [], wait := s.clk.run }
  let v := mbxSet t m s
  have hv : MbxBecomes s v t m := .set t s fun e => by cases congrArg Mbx.phase e
  have hu : MbxBecomes v (mbxSet t (takenWords (mbxGet s t) n s.clk.run) v) t (takenWords (mbxGet s t) n s.clk.run) :=
    .set t v fun e => by cases congrArg Mbx.phase e
  have rv : coreRuns v = true := runs
  refine ⟨_, hv.trans hu, ?_⟩
  have e : mbxInput t n s = mbxFeed t v := rfl
  rw [e, mbxFeed, hv.get, rv]
  simp [m, takenWords, show v.clk = s.clk from rfl]

/-- The last word of a SET_TABLE of entries without reserved bits writes the shadow table (R266). -/
theorem setTableEnd_writes {es : List Nat} (he : es = entriesOf (tblWords (argF s t 0 16 8)) (argF s t 1 0 13) (mbxGet s t).got)
    (rsv : ∀ e ∈ es.zipIdx, e.1 &&& tblRsv (argF s t 0 16 8) (argF s t 0 0 12 + e.2) = 0) (idle : commitArmed s = false) :
    setTableEnd t s = mbxDone t Mc.ok [argF s t 1 0 13]
      { s with gen := { s.gen with shadow := shadowWith s (argF s t 0 16 8) (argF s t 0 0 12) es } } := by
  subst he
  have r : ((entriesOf (tblWords (argF s t 0 16 8)) (argF s t 1 0 13) (mbxGet s t).got).zipIdx.any
      fun e => e.1 &&& tblRsv (argF s t 0 16 8) (argF s t 0 0 12 + e.2) != 0) = false :=
    List.any_eq_false.mpr fun e m => by simp [rsv e m]
  rw [setTableEnd]
  dsimp only
  rw [r, idle]
  rfl

end

/-! ### SET_TABLE (R266) -/

section
variable {s : State} {rest : List Nat} (h : Heads s 0x02 0 rest) (a : TableArgs s [(0, 24, 8), (0, 12, 4), (1, 13, 19)]) (idle : commitArmed s = false)
include h a idle

theorem setTable_starts : exec .setTable s = .next (mbxInput 0 (argF s 0 1 0 13 * tblWords (argF s 0 0 16 8)) (atStart s 0 rest)) := by
  have i : commitArmed (atStart s 0 rest) = false := idle
  refine congrArg _ ((cmdRun_heads h rfl).trans ((checked_pass ?_).trans ?_))
  · show firstOf [_, (argF (atStart s 0 rest) 0 1 0 13 = 0, _), (tableArgsBad (atStart s 0 rest) 0 _, _), (commitArmed (atStart s 0 rest), _)] = none
    simp [firstOf, tableArgsBad, h.atStart_argF, h.atStart_argRsv, a.count, a.rsv, a.inside, i]
  · show mbxInput 0 (argF (atStart s 0 rest) 0 1 0 13 * tblWords (argF (atStart s 0 rest) 0 0 16 8)) (atStart s 0 rest) = _
    simp only [h.atStart_argF (by decide)]

/-- With fewer words than it needs there, SET_TABLE waits for the others. -/
theorem setTable_awaits (short : (mbxGet s 0).inF.length < argF s 0 1 0 13 * tblWords (argF s 0 0 16 8)) :
    ∃ u, exec .setTable s = .next u ∧ AwaitsWords s u 0 (argF s 0 1 0 13 * tblWords (argF s 0 0 16 8)) ∧ u.startQ = rest ∧
      OnlyChanges [.mbx, .startQ] s u := by
  have start : mbxGet (atStart s 0 rest) 0 = { mbxGet s 0 with outF := [] } := h.atStart_get (by decide)
  obtain ⟨u, hu, e⟩ := mbxInput_takes (s := atStart s 0 rest) h.runs 0 (argF s 0 1 0 13 * tblWords (argF s 0 0 16 8))
  obtain ⟨get, others, frame⟩ := hu
  rw [start] at get e
  rw [if_neg (Nat.not_le.mpr short)] at e
  refine ⟨u, (setTable_starts h a idle).trans (congrArg _ e), ⟨?_, ?_, ?_, ?_, fun j hj => ?_⟩, frame.same .startQ (by decide),
    (atStart_only s 0 rest).then frame⟩
  · rw [get, takenWords]
  · rw [get]
    exact List.take_of_length_le short.le
  · rw [get]
    exact List.drop_of_length_le short.le
  · rw [get, takenWords]
  · exact (others j hj).trans (mbxGet_mbxSet_ne _ _ hj)

/-- With all its words there, SET_TABLE writes its entries to the shadow tables and completes. -/
theorem setTable_completes {es : List Nat} (long : argF s 0 1 0 13 * tblWords (argF s 0 0 16 8) ≤ (mbxGet s 0).inF.length)
    (he : es = entriesOf (tblWords (argF s 0 0 16 8)) (argF s 0 1 0 13) ((mbxGet s 0).inF.take (argF s 0 1 0 13 * tblWords (argF s 0 0 16 8))))
    (rsv : ∀ e ∈ es.zipIdx, e.1 &&& tblRsv (argF s 0 0 16 8) (argF s 0 0 0 12 + e.2) = 0) :
    ∃ u, exec .setTable s = .next u ∧ Completes s u 0 rest Mc.ok [argF s 0 1 0 13] [.gen] ∧
      u.gen = { s.gen with shadow := shadowWith s (argF s 0 0 16 8) (argF s 0 0 0 12) es } := by
  have start : mbxGet (atStart s 0 rest) 0 = { mbxGet s 0 with outF := [] } := h.atStart_get (by decide)
  obtain ⟨v, hv, e⟩ := mbxInput_takes (s := atStart s 0 rest) h.runs 0 (argF s 0 1 0 13 * tblWords (argF s 0 0 16 8))
  obtain ⟨get, others, frame⟩ := hv
  rw [start] at get e
  have op : (mbxGet v 0).op = 2 := by
    rw [get]
    exact BitVec.eq_of_toNat_eq h.opcode
  have arg : ∀ i lo w, argF v 0 i lo w = argF s 0 i lo w := argF_congr (by rw [get, takenWords])
  have gen : v.gen = s.gen := frame.gen
  let w : State := { v with gen := { v.gen with shadow := shadowWith v (argF v 0 0 16 8) (argF v 0 0 0 12) es } }
  have done : inputDone 0 v = mbxDone 0 Mc.ok [argF s 0 1 0 13] w := by
    rw [inputDone, if_pos op, setTableEnd_writes (es := es) (by rw [arg, arg, he, get, takenWords]) (by simpa only [arg] using rsv)
      (by rw [commitArmed, gen]; exact idle), arg]
  rw [if_pos long, done] at e
  have d := mbxDone_only 0 Mc.ok [argF s 0 1 0 13] w
  have fw : OnlyChanges [.gen, .mbx, .startQ] s w := (((atStart_only s 0 rest).le _).then frame).then (genOnly _ v)
  have op_w : (mbxGet w 0).op ≠ 0 := by
    rw [show mbxGet w 0 = mbxGet v 0 from rfl, op]
    decide
  refine ⟨_, (setTable_starts h a idle).trans (congrArg _ e), ⟨?_, ?_, ?_⟩, ?_⟩
  · exact (mbxDone_ended_op op_w Mc.ok _).since (congrArg Ints.mbx fw.ints) fun j hj => (others j hj).trans (mbxGet_mbxSet_ne _ _ hj)
  · exact (d.same .startQ (by decide)).trans (frame.same .startQ (by decide))
  · exact (fw.le ([.gen] ++ mbxParts)).then d
  · rw [d.gen]
    simp only [w, arg, shadowWith, gen]

end

/-! ### GET_TABLE (R266, R261) -/

/-- A table with entries has words in each (Table 13.7). -/
theorem tblWords_ne_zero {t : Nat} (h : tblEntries t ≠ 0) : tblWords t ≠ 0 := by
  unfold tblEntries at h
  split at h <;> simp_all [tblWords]

/-- A GET_TABLE is asked for a word at least. -/
theorem tableWords_ne_nil {s : State} {l : List (Nat × Nat × Nat)} (a : TableArgs s l) : tableWords s ≠ [] := by
  have w : tblWords (argF s 0 0 16 8) ≠ 0 := tblWords_ne_zero fun e => a.count (by have := a.inside; omega)
  have c := a.count
  rw [← List.length_pos_iff]
  simp only [tableWords, wordsOf, List.length_map, List.length_flatMap, List.length_range, List.map_const', List.sum_replicate, smul_eq_mul]
  exact Nat.mul_pos (Nat.pos_of_ne_zero c) (Nat.pos_of_ne_zero w)

/-- The mailbox `m` when its command has begun to deliver `words` at `now`, with results `res` to come: 64 words fit its output FIFO. -/
def delivering (m : Mbx) (words : List (BitVec 32)) (res : List Nat) (now : Nat) : Mbx :=
  { m with phase := .output, outF := words.take 64, pend := words.drop 64, got := res.map (BitVec.ofNat 32), wait := now }

/-- The words of a GET_TABLE are delivered, and it does not end before they have been read. -/
theorem mbxOut_delivers {s : State} {t : Nat} {words res : List Nat} (runs : coreRuns s = true) (empty : (mbxGet s t).outF = [])
    (op : (mbxGet s t).op = 3) (some_ : words ≠ []) :
    MbxBecomes s (mbxOut t words res s) t (delivering (mbxGet s t) (words.map (BitVec.ofNat 32)) res s.clk.run) := by
  let ws := words.map (BitVec.ofNat 32)
  let m : Mbx := { mbxGet s t with phase := .output, pend := ws, got := res.map (BitVec.ofNat 32), wait := s.clk.run }
  let v := mbxSet t m s
  have hv : MbxBecomes s v t m := .set t s fun e => by cases congrArg Mbx.phase e
  have hu : MbxBecomes v (mbxSet t (delivering (mbxGet s t) ws res s.clk.run) v) t (delivering (mbxGet s t) ws res s.clk.run) :=
    .set t v fun e => by cases congrArg Mbx.phase e
  have fill : mbxFill t v = mbxSet t (delivering (mbxGet s t) ws res s.clk.run) v := by
    rw [mbxFill, hv.get]
    simp [m, delivering, empty]
  have unread : outEnded (mbxFill t v) t = false := by
    rw [fill, outEnded, hu.get]
    simp [delivering, op, ws, some_]
  have rv : coreRuns v = true := runs
  have e : mbxOut t words res s = mbxFill t v := by
    show mbxOutTry t v = _
    rw [mbxOutTry, rv]
    simp [unread]
  rw [e, fill]
  exact hv.trans hu

theorem getTable_delivers {s : State} {rest : List Nat} (h : Heads s 0x03 0 rest) (a : TableArgs s [(0, 24, 7), (0, 12, 4), (1, 13, 19)]) :
    ∃ u, exec .getTable s = .next u ∧ (mbxGet u 0).phase = .output ∧ (mbxGet u 0).outF = (tableWords s).take 64 ∧
      (mbxGet u 0).pend = (tableWords s).drop 64 ∧ (mbxGet u 0).got = [BitVec.ofNat 32 (argF s 0 1 0 13)] ∧ (mbxGet u 0).busy = (mbxGet s 0).busy ∧
      (∀ j, j ≠ 0 → mbxGet u j = mbxGet s j) ∧ u.startQ = rest ∧ OnlyChanges [.mbx, .startQ] s u := by
  let words := ((List.range (argF s 0 1 0 13)).map fun i => tbl (if argB s 0 0 31 then s.gen.live else s.gen.shadow) (argF s 0 0 16 8)
    (argF s 0 0 0 12 + i)).flatMap (wordsOf (tblWords (argF s 0 0 16 8)))
  have start : mbxGet (atStart s 0 rest) 0 = { mbxGet s 0 with outF := [] } := h.atStart_get (by decide)
  have run : exec .getTable s = .next (mbxOut 0 words [argF s 0 1 0 13] (atStart s 0 rest)) := by
    refine congrArg _ ((cmdRun_heads h rfl).trans ((checked_pass ?_).trans ?_))
    · show firstOf [_, (argF (atStart s 0 rest) 0 1 0 13 = 0, _), (tableArgsBad (atStart s 0 rest) 0 _, _)] = none
      simp [firstOf, tableArgsBad, h.atStart_argF, h.atStart_argRsv, a.count, a.rsv, a.inside]
    · show mbxOut 0 (((List.range (argF (atStart s 0 rest) 0 1 0 13)).map fun i => tbl (if argB (atStart s 0 rest) 0 0 31 then s.gen.live else s.gen.shadow)
        (argF (atStart s 0 rest) 0 0 16 8) (argF (atStart s 0 rest) 0 0 0 12 + i)).flatMap (wordsOf (tblWords (argF (atStart s 0 rest) 0 0 16 8))))
        [argF (atStart s 0 rest) 0 1 0 13] (atStart s 0 rest) = _
      simp only [h.atStart_argF (by decide), h.atStart_argB (by decide)]
      rfl
  have some_ : words ≠ [] := fun e => tableWords_ne_nil a (congrArg (List.map (BitVec.ofNat 32)) e)
  obtain ⟨get, others, frame⟩ := mbxOut_delivers (s := atStart s 0 rest) (res := [argF s 0 1 0 13]) h.runs (by rw [start])
    (by rw [start]; exact BitVec.eq_of_toNat_eq h.opcode) some_
  rw [start] at get
  refine ⟨_, run, by rw [get]; rfl, by rw [get]; rfl, by rw [get]; rfl, by rw [get]; rfl, by rw [get]; rfl, fun j hj => ?_,
    frame.same .startQ (by decide), (atStart_only s 0 rest).then frame⟩
  exact (others j hj).trans (mbxGet_mbxSet_ne _ _ hj)

theorem tablesMove : TablesMove :=
  ⟨fun _ _ h a idle => ⟨setTable_awaits h a idle, fun _ long he rsv => setTable_completes h a idle long he rsv⟩, fun _ _ h a => getTable_delivers h a⟩

end Sys2Proof.Machine

namespace Sys2Proof
open Machine

/-- Settles O48: a row of mailbox 0's alone asks for the mailbox first, and the tables' words pass through the FIFOs of mailbox 0. -/
theorem commandsAndTables : Obligations.CommandsAndTables := ⟨commandsChecked, tablesMove⟩

end Sys2Proof
end

section
/-! SUPPORT. TENANT_SWITCH and its steps, and SEAL_KEY (O55: R246, R253, R254). -/

namespace Sys2Proof.Machine

-- One declaration after the other: the threads of declarations that wait for one another exhaust the memory that a compile may take.
set_option Elab.async false

/-! ### Reports and releases on storage without errors -/

/-- What reports and releases of waits may change on storage without errors. -/
def cleanWaitParts : List Part := [.tal, .d0, .d1, .sout, .fen, .ctr, .peat, .log, .ints]

/-- A fold of operations that leave storage without errors as it is. -/
theorem foldl_only_clean {α : Type} {l : List Part} {f : State → α → State} (hl : .bad ∉ l) (h : ∀ s a, s.bad = [] → OnlyChanges l s (f s a))
    (xs : List α) {s : State} (hb : s.bad = []) : OnlyChanges l s (xs.foldl f s) := by
  induction xs generalizing s with
  | nil => exact .refl _ _
  | cons x xs ih => exact (h s x hb).trans (ih (((h s x hb).bad hl).trans hb))

section
variable {s : State}

theorem twaitDeadlineAt_only_clean (hb : s.bad = []) (k : Nat) : OnlyChanges cleanWaitParts s (twaitDeadlineAt k s) := by
  cases hk : s.tal.parked[k]? with
  | none =>
    rw [twaitDeadlineAt, hk]
    exact .refl _ _
  | some w =>
    cases hd : w.due with
    | none =>
      rw [twaitDeadlineAt_idle hk hd]
      exact .refl _ _
    | some x => exact (twaitDeadlineAt_due hk hb hd).2.2.2.le _

theorem resolveDeadlineAt_only_clean (i : Nat) (s : State) : OnlyChanges cleanWaitParts s (resolveDeadlineAt i s) := by
  unfold resolveDeadlineAt
  split
  · exact .refl _ _
  · split
    · exact .refl _ _
    · split
      · exact .refl _ _
      · exact ((((regionMod_only ..).le cleanWaitParts).then (occU_only ..)).then (notice_only ..)).then (traceEv_only ..)

theorem releaseAt_only_clean (hb : s.bad = []) (k : Nat) : OnlyChanges cleanWaitParts s (releaseAt k s) := by
  unfold releaseAt
  split
  · exact .refl _ _
  · refine .ite (.refl _ _) ?_
    have d := twaitDeadlineAt_only_clean hb k
    rw [ctlUse_clean _ _ _ ((d.bad).trans hb)]
    exact (((d.then (talOnly ..)).then (occR_only ..)).then (traceEv_only ..)).then (compTo_any ..)

theorem releaseAll_only_clean (hb : s.bad = []) (n : Nat) : OnlyChanges cleanWaitParts s (releaseAll n s) := by
  induction n generalizing s with
  | zero => exact .refl _ _
  | succ n ih =>
    unfold releaseAll
    split
    · next k _ =>
      have r := releaseAt_only_clean hb k
      exact r.trans (ih (r.bad.trans hb))
    · exact .refl _ _

theorem reportAll_only_clean (hb : s.bad = []) : OnlyChanges cleanWaitParts s (reportAll s) :=
  (foldl_only_clean (by decide) (fun _ k h => twaitDeadlineAt_only_clean h k) _ hb).trans (foldl_only (fun s i => resolveDeadlineAt_only_clean i s) _ _)

/-! ### Nothing is due -/

theorem Settled.congr {u : State} (h : Settled s) (t : u.tal = s.tal) (f : u.fen = s.fen) : Settled u := ⟨t ▸ h.waits, f ▸ h.resolves⟩

theorem twaitDeadlineAt_settled (h : Settled s) (k : Nat) : twaitDeadlineAt k s = s := by
  cases hk : s.tal.parked[k]? with
  | none => rw [twaitDeadlineAt, hk]
  | some w => exact twaitDeadlineAt_idle hk (h.waits w (List.mem_of_getElem? hk)).2

theorem resolveDeadlineAt_settled (h : Settled s) (i : Nat) : resolveDeadlineAt i s = s := by
  unfold resolveDeadlineAt
  split
  · rfl
  · next r hr =>
    split
    · rfl
    · next x hx => rw [h.resolves r (List.mem_of_find?_eq_some hr) x hx]

theorem reportAll_settled (h : Settled s) : reportAll s = s := by
  have waits : (List.range s.tal.parked.length).foldl (fun s k => twaitDeadlineAt k s) s = s := List.foldl_fixed' (twaitDeadlineAt_settled h) _
  rw [reportAll, waits]
  exact List.foldl_fixed' (resolveDeadlineAt_settled h) _

theorem releaseAll_settled (h : Settled s) (n : Nat) : releaseAll n s = s := by
  cases n with
  | zero => rfl
  | succ n =>
    have none_ : s.tal.parked.findIdx? (releasable s) = none :=
      List.findIdx?_eq_none_iff.mpr fun w hw => by rw [releasable, (h.waits w hw).1]; rfl
    rw [releaseAll, none_]

/-! ### The waits of a context are denied (R207, R246) -/

/-- One wait is denied. -/
def denyWait (s : State) (w : Parked) : State := twaitComp w.req St.denied (ctlUse (.parked w.slot) (some (subjReq w.req)) s)

/-- The waits of a context are taken from the list. -/
def dropWaits (t : BitVec 4) (s : State) : State := { s with tal := { s.tal with parked := s.tal.parked.filter (·.req.tc ≠ t) } }

/-- The waits of a context leave the list and are denied, in park order. -/
def denyWaits (t : BitVec 4) (s : State) : State := (s.tal.parked.filter (·.req.tc = t)).foldl denyWait (dropWaits t s)

/-- The waits of a context are denied once the reports and releases that are due are done. -/
theorem denyParked_eq (t : BitVec 4) (s : State) : denyParked t s = denyWaits t (releaseAll 256 (reportAll s)) := rfl

/-- Where nothing is due, only the waits of the context are touched. -/
theorem denyParked_settled (h : Settled s) (t : BitVec 4) : denyParked t s = denyWaits t s := by
  rw [denyParked_eq, reportAll_settled h, releaseAll_settled h]

/-- A context that waits for nothing has nothing denied. -/
theorem denyParked_none {t : BitVec 4} (h : Settled s) (none_ : ∀ x ∈ s.tal.parked, x.req.tc ≠ t) : denyParked t s = s := by
  have mine : s.tal.parked.filter (·.req.tc = t) = [] := List.filter_eq_nil_iff.mpr fun x m => by simpa using none_ x m
  have others : s.tal.parked.filter (·.req.tc ≠ t) = s.tal.parked := List.filter_eq_self.mpr fun x m => by simpa using none_ x m
  rw [denyParked_settled h, denyWaits, mine, List.foldl_nil, dropWaits, others]

theorem denyWait_clean (hb : s.bad = []) (w : Parked) : denyWait s w = twaitComp w.req St.denied s := by rw [denyWait, ctlUse_clean _ _ s hb]

theorem denyWait_only (hb : s.bad = []) (w : Parked) : OnlyChanges [.d0, .d1, .sout] s (denyWait s w) := by
  rw [denyWait_clean hb]
  exact compTo_any ..

theorem foldl_denyWait_only (hb : s.bad = []) (ws : List Parked) : OnlyChanges [.d0, .d1, .sout] s (ws.foldl denyWait s) :=
  foldl_only_clean (by decide) (fun _ w h => denyWait_only h w) ws hb

theorem denyWaits_tal (hb : s.bad = []) (t : BitVec 4) : (denyWaits t s).tal = { s.tal with parked := s.tal.parked.filter (·.req.tc ≠ t) } :=
  (foldl_denyWait_only (s := dropWaits t s) hb _).tal

theorem denyWaits_only (hb : s.bad = []) (t : BitVec 4) : OnlyChanges [.tal, .d0, .d1, .sout] s (denyWaits t s) :=
  ((talOnly _ s).le _).then (foldl_denyWait_only (s := dropWaits t s) hb _)

theorem denyParked_only (hb : s.bad = []) (t : BitVec 4) : OnlyChanges cleanWaitParts s (denyParked t s) := by
  have r := reportAll_only_clean hb
  have f := r.trans (releaseAll_only_clean (r.bad.trans hb) 256)
  rw [denyParked_eq]
  exact f.then (denyWaits_only (f.bad.trans hb) t)

theorem denyWaits_gone (hb : s.bad = []) {t : BitVec 4} {w : Parked} (hw : w ∈ (denyWaits t s).tal.parked) : w.req.tc ≠ t := by
  rw [denyWaits_tal hb] at hw
  simpa using (List.mem_filter.mp hw).2

/-- The waits of the context have left the list. -/
theorem denyParked_gone (hb : s.bad = []) {t : BitVec 4} {w : Parked} (hw : w ∈ (denyParked t s).tal.parked) : w.req.tc ≠ t := by
  have r := reportAll_only_clean hb
  have f := r.trans (releaseAll_only_clean (r.bad.trans hb) 256)
  rw [denyParked_eq] at hw
  exact denyWaits_gone (f.bad.trans hb) hw

/-- What waits for egress still waits when another message is queued. -/
theorem mem_outOf_emit {p q : Port} {o x : Out} (h : o ∈ outOf s q) : o ∈ outOf (emit p x s) q := by
  by_cases e : q = p
  · subst e
    rw [emit_out]
    exact List.mem_append_left _ h
  · have other : outPart q ∉ [outPart p] := by
      revert e
      cases p <;> cases q <;> decide
    rwa [(emit_only p x s).out q other]

theorem mem_outOf_foldl_denyWait (hb : s.bad = []) (ws : List Parked) {q : Port} {o : Out} (h : o ∈ outOf s q) : o ∈ outOf (ws.foldl denyWait s) q := by
  induction ws generalizing s with
  | nil => exact h
  | cons w ws ih =>
    refine ih ((denyWait_only hb w).bad.trans hb) ?_
    rw [denyWait_clean hb]
    exact mem_outOf_emit h

/-- The message answers the wait with DENIED. -/
structure DeniedBy (w : Parked) (o : Out) : Prop where
  op : hOpcode o.msg = Op.comp
  status : hStatus o.msg = St.denied
  txid : hTxid o.msg = hTxid w.req.msg
  dst : hDst o.msg = hSrc w.req.msg

theorem denyWait_answers (hb : s.bad = []) (w : Parked) : ∃ o ∈ outOf (denyWait s w) w.req.port, DeniedBy w o := by
  rw [denyWait_clean hb, twaitComp]
  obtain ⟨o, a, -⟩ := compTo_answers w.req.port w.req.msg (subjReq w.req) St.denied (tallyVal s (hTally w.req.msg)) s (by decide)
  exact ⟨o, List.mem_of_getLast? a.last, a.op, a.status, a.txid, a.dst⟩

theorem foldl_denyWait_answers (hb : s.bad = []) (ws : List Parked) {w : Parked} (h : w ∈ ws) :
    ∃ o ∈ outOf (ws.foldl denyWait s) w.req.port, DeniedBy w o := by
  induction ws generalizing s with
  | nil => cases h
  | cons x ws ih =>
    have b := (denyWait_only hb x).bad.trans hb
    rcases List.mem_cons.mp h with rfl | h
    · obtain ⟨o, m, d⟩ := denyWait_answers hb w
      exact ⟨o, mem_outOf_foldl_denyWait b ws m, d⟩
    · exact ih b h

/-- Each wait of the context has its answer. -/
theorem denyWaits_answers (hb : s.bad = []) {w : Parked} (h : w ∈ s.tal.parked) : ∃ o ∈ outOf (denyWaits w.req.tc s) w.req.port, DeniedBy w o :=
  foldl_denyWait_answers (s := dropWaits w.req.tc s) hb _ (List.mem_filter.mpr ⟨h, decide_eq_true rfl⟩)

end

/-! ### TENANT_SWITCH starts (R246) -/

theorem tswSet_only (x : Option Tsw) (s : State) : OnlyChanges [.srv] s (tswSet x s) := srvOnly ..

section
variable {s : State} {rest : List Nat} {c : Nat}

theorem tenantSwitch_starts (h : Heads s 0x80 0 rest) (hc : c = argF s 0 0 0 4) (rsv : argRsv s 0 [(0, 7, 25)] = false) (idle : commitArmed s = false)
    (present : s.pins.present = true) (map : rmAnyTc s.t c = false) (agents : tenantAgents s c = false) (free : s.srv.tsw = none) (nz : c ≠ 0) :
    exec .tenantSwitch s = .next (denyParked (BitVec.ofNat 4 c) (mbxWork 0 (tswSet (some (newTsw s 0)) (atStart s 0 rest)))) := by
  subst hc
  have i : commitArmed (atStart s 0 rest) = false := idle
  have p : noDatapath (atStart s 0 rest) = false := congrArg not present
  have m : rmAnyTc (atStart s 0 rest).t (argF s 0 0 0 4) = false := map
  have g : tenantAgents (atStart s 0 rest) (argF s 0 0 0 4) = false := agents
  have f : (atStart s 0 rest).srv.tsw = none := free
  have n : newTsw (atStart s 0 rest) 0 = newTsw s 0 := by simp only [newTsw, h.atStart_argF (by decide), h.atStart_argB (by decide)]
  have t : (newTsw s 0).t = BitVec.ofNat 4 (argF s 0 0 0 4) := rfl
  have e : tenantSwitchCmd 0 (atStart s 0 rest) =
      denyParked (BitVec.ofNat 4 (argF s 0 0 0 4)) (mbxWork 0 (tswSet (some (newTsw s 0)) (atStart s 0 rest))) := by
    unfold tenantSwitchCmd
    rw [checked_pass, n, t]
    simp [firstOf, h.atStart_argF, h.atStart_argRsv, rsv, i, p, m, g, f, nz]
  exact congrArg Host.Outcome.next ((cmdRun_heads h rfl).trans e)

end

theorem tenantSwitch_denies (s : State) (rest : List Nat) (c : Nat) (h : Heads s 0x80 0 rest) (hc : c = argF s 0 0 0 4)
    (rsv : argRsv s 0 [(0, 7, 25)] = false) (idle : commitArmed s = false) (present : s.pins.present = true) (map : rmAnyTc s.t c = false)
    (agents : tenantAgents s c = false) (free : s.srv.tsw = none) (nz : c ≠ 0) (hb : s.bad = []) :
    ∃ u, exec .tenantSwitch s = .next u ∧ GoesOn s u 0 rest [.srv, .tal, .d0, .d1, .sout, .fen, .ctr, .peat, .log, .ints] ∧
      u.srv = { s.srv with tsw := some (newTsw s 0) } ∧ (∀ w ∈ u.tal.parked, w.req.tc ≠ BitVec.ofNat 4 c) ∧
      (Settled s → u.tal = { s.tal with parked := s.tal.parked.filter (·.req.tc ≠ BitVec.ofNat 4 c) } ∧
        OnlyChanges [.srv, .tal, .d0, .d1, .sout, .mbx, .startQ] s u) ∧
      ∀ w ∈ s.tal.parked, Settled s → w.req.tc = BitVec.ofNat 4 c → ∃ o ∈ outOf u w.req.port, hOpcode o.msg = Op.comp ∧ hStatus o.msg = St.denied ∧
        hTxid o.msg = hTxid w.req.msg ∧ hDst o.msg = hSrc w.req.msg := by
  let v := mbxWork 0 (tswSet (some (newTsw s 0)) (atStart s 0 rest))
  have start : GoesOn s v 0 rest [.srv] := h.goesOn (by decide) (tswSet_only ..)
  have bv : v.bad = [] := hb
  have tal : v.tal = s.tal := rfl
  have fen : v.fen = s.fen := rfl
  have srv : v.srv = { s.srv with tsw := some (newTsw s 0) } := rfl
  have run : exec .tenantSwitch s = .next (denyParked (BitVec.ofNat 4 c) v) := tenantSwitch_starts h hc rsv idle present map agents free nz
  clear_value v
  have f := denyParked_only bv (BitVec.ofNat 4 c)
  have settled : Settled s → denyParked (BitVec.ofNat 4 c) v = denyWaits (BitVec.ofNat 4 c) v := fun k => denyParked_settled (k.congr tal fen) _
  obtain ⟨proceeds, queue, frame⟩ := start
  have goesOn : GoesOn s v 0 rest (.srv :: cleanWaitParts) := ⟨proceeds, queue, frame.mono (by simp)⟩
  refine ⟨_, run, goesOn.then (f.le _), f.srv.trans srv, fun w hw => denyParked_gone bv hw, fun k => ?_, fun w m k e => ?_⟩
  · rw [settled k, denyWaits_tal bv, tal]
    exact ⟨rfl, (frame.le _).then (denyWaits_only bv _)⟩
  · rw [settled k, ← e]
    obtain ⟨o, m, a⟩ := denyWaits_answers bv (tal ▸ m)
    exact ⟨o, m, a.op, a.status, a.txid, a.dst⟩

/-! ### The switch waits for requests, regions and transfers -/

section
variable {s : State} {w : Tsw}

theorem tenantSweepStep_run (h : s.srv.tsw = some w) : exec .tenantSweepStep s = .next (tswStep w s) := by
  show execTenantSweepStep s = _
  rw [execTenantSweepStep, h]

/-- The first stage, where nothing is due and the context waits for nothing. -/
theorem tswStep_requests (hs : w.stage = 1) (h : Settled s) (none_ : ∀ x ∈ s.tal.parked, x.req.tc ≠ w.t) :
    tswStep w s = if tenantBusy s w.t then s
      else if w.fenfree then closeRegions w.t.toNat
        (tswSet (some { w with stage := 2, regs := (s.fen.regions.filter (tenantRegion s w.t.toNat)).length }) s)
      else tswSet (some { w with stage := 3 }) s := by
  unfold tswStep
  rw [hs]
  dsimp only
  rw [denyParked_none h none_]
  rfl

/-- Regions are closed where no report is due. -/
theorem closeRegions_settled (h : Settled s) (t : Nat) : closeRegions t s =
    { s with fen := { s.fen with regions := lmod (fun r => r.opened && tenantRegion s t r) (closeRegion s) s.fen.regions } } := by
  rw [closeRegions, reportAll_settled h]

theorem tenantSweepStep_requests (hw : s.srv.tsw = some w) (hs : w.stage = 1) (h : Settled s) (none_ : ∀ x ∈ s.tal.parked, x.req.tc ≠ w.t) :
    (tenantBusy s w.t = true → exec .tenantSweepStep s = .next s) ∧
    (tenantBusy s w.t = false → w.fenfree = false →
      exec .tenantSweepStep s = .next { s with srv := { s.srv with tsw := some { w with stage := 3 } } }) ∧
    (tenantBusy s w.t = false → w.fenfree = true → ∃ u, exec .tenantSweepStep s = .next u ∧
      u.srv = { s.srv with tsw := some { w with stage := 2, regs := (s.fen.regions.filter (tenantRegion s w.t.toNat)).length } } ∧
      u.fen = { s.fen with regions := lmod (fun r => r.opened && tenantRegion s w.t.toNat r) (closeRegion s) s.fen.regions } ∧
      OnlyChanges [.srv, .fen] s u) := by
  have run := (tenantSweepStep_run hw).trans (congrArg Host.Outcome.next (tswStep_requests hs h none_))
  refine ⟨fun b => ?_, fun b f => ?_, fun b f => ?_⟩
  · rw [run, if_pos b]
  · rw [run, if_neg (by rw [b]; decide), if_neg (by rw [f]; decide), tswSet]
  · let v := tswSet (some { w with stage := 2, regs := (s.fen.regions.filter (tenantRegion s w.t.toNat)).length }) s
    have e := closeRegions_settled (s := v) (h.congr rfl rfl) w.t.toNat
    rw [if_neg (by rw [b]; decide), if_pos f, e] at run
    exact ⟨_, run, rfl, rfl, ((tswSet_only _ s).le _).then (fenOnly _ v)⟩

theorem segRemove_only (g : Nat) (s : State) : OnlyChanges [.fen] s (segRemove g s) := by
  unfold segRemove
  split
  · exact .refl _ _
  · exact fenOnly ..

/-- A segment that is removed stands in the list no more. -/
theorem segRemove_segs (i : Nat) (s : State) : (segRemove i s).fen.segs = s.fen.segs.filter (·.id ≠ i) := by
  unfold segRemove
  split
  · next e => exact (List.filter_eq_self.mpr fun g m => by simpa using List.find?_eq_none.mp e g m).symm
  · rfl

theorem mem_segs_segRemoves (l : List Nat) {s : State} {g : Seg} (h : g ∈ (l.foldl (fun s g => segRemove g s) s).fen.segs) :
    g ∈ s.fen.segs ∧ g.id ∉ l := by
  induction l generalizing s with
  | nil => exact ⟨h, nofun⟩
  | cons i l ih =>
    obtain ⟨m, n⟩ := ih h
    rw [segRemove_segs, List.mem_filter] at m
    exact ⟨m.1, by simpa [n] using m.2⟩

theorem tenantSweepStep_segments (hw : s.srv.tsw = some w) (hs : w.stage = 2) (idle : fenBusy s w.t.toNat = false) :
    ∃ u, exec .tenantSweepStep s = .next u ∧ u.srv.tsw = some { w with stage := 3, segs := (tenantSegs s w.t.toNat).length } ∧
      (∀ g ∈ u.fen.segs, g.owner ≠ w.t) ∧ OnlyChanges [.srv, .fen] s u := by
  have e : tswStep w s = tswSet (some { w with stage := 3, segs := (tenantSegs s w.t.toNat).length })
      ((tenantSegs s w.t.toNat).foldl (fun s g => segRemove g s) s) := by
    unfold tswStep
    rw [hs]
    dsimp only
    rw [idle]
    rfl
  refine ⟨_, (tenantSweepStep_run hw).trans (congrArg _ e), rfl, fun g m o => ?_, ?_⟩
  · obtain ⟨m, n⟩ := mem_segs_segRemoves _ m
    exact n (List.mem_map.mpr ⟨g, List.mem_filter.mpr ⟨m, by simp [o]⟩, rfl⟩)
  · exact ((foldl_only (fun s g => segRemove_only g s) _ s).le [.srv, .fen]).then (tswSet_only ..)

end

/-! ### The lines of a context leave (R246, R67) -/

/-- The way at `k` holds a line of context `t`. -/
def tenantLine (t : BitVec 4) (s : State) (k : Nat) : Bool := (tagGet s k).v && holdsCache s (k % 32) && (tagGet s k).tc == t

theorem tenantLine_gen {t : BitVec 4} {s u : State} {k : Nat} (g : u.gen = s.gen) (e : tagGet u k = tagGet s k) : tenantLine t u k = tenantLine t s k := by
  rw [tenantLine, tenantLine, e, holdsCache_gen g]

/-- What the switch does with a way. -/
def tenantWay (w : Tsw) (x : Swept) (k : Nat) : Swept :=
  if tenantLine w.t x.s k then if w.discard && (tagGet x.s k).d then discardWay x k else sweepWay x k else x

theorem tenantSet_eq (w : Tsw) (s : State) : tenantSet w s = ((List.range 32).map (wkey w.pos)).foldl (tenantWay w)
    { wb := 0, inv := 0, left := false, s := setCheck none w.pos (useSlot w.pos false none s) } := by
  have e : tenantWay w = fun x k => if !(tenantLine w.t x.s k) then x
      else if w.discard && (tagGet x.s k).d then discardWay x k else sweepWay x k := by
    funext x k
    rw [tenantWay]
    cases tenantLine w.t x.s k <;> rfl
  rw [e]
  rfl

/-- Without DISCARD a step is that of a sweep that takes the context's lines. -/
theorem tenantSet_keeps {w : Tsw} (h : w.discard = false) (s : State) : tenantSet w s = sweepSet w.pos (tenantLine w.t) s := by
  rw [tenantSet_eq, sweepSet]
  congr 1
  funext x k
  rw [tenantWay, h, Bool.false_and]
  rfl

section
variable {s t u : State} {p q : Nat → Prop}

/-- From `s` to `t` the ways of `q` have been emptied, and Mire has taken none of their lines. -/
structure WaysEmptied (s t : State) (q : Nat → Prop) : Prop where
  gone : ∀ k, q k → tagGet t k = TagE.zero
  kept : ∀ k, ¬ q k → tagGet t k = tagGet s k
  wf : ArrWf t
  mp : t.mp = s.mp
  frame : OnlyChanges [.arr, .mp, .ctr] s t

theorem WaysEmptied.counted (h : OnlyChanges [.ctr] s t) (w : ArrWf s) : WaysEmptied s t (fun _ => False) :=
  ⟨nofun, fun k _ => tagGet_arr h.arr k, w.of_arr h.arr, h.mp, h.le _⟩

theorem WaysEmptied.trans (h : WaysEmptied s t p) (k : WaysEmptied t u q) : WaysEmptied s u (fun j => p j ∨ q j) where
  gone j hj := by
    by_cases c : q j
    · exact k.gone j c
    · rw [k.kept j c]
      exact h.gone j (hj.resolve_right c)
  kept j hj := (k.kept j fun c => hj (.inr c)).trans (h.kept j fun c => hj (.inl c))
  wf := k.wf
  mp := k.mp.trans h.mp
  frame := h.frame.trans k.frame

theorem WaysEmptied.congr (h : WaysEmptied s t p) (e : ∀ j, q j ↔ p j) : WaysEmptied s t q := (funext fun j => propext (e j) : q = p) ▸ h

/-- A way given no tag is emptied. -/
theorem WaysEmptied.of_tagSet {k : Nat} (hw : ArrWf s) (a : t.arr = (tagSet k TagE.zero s).arr) (m : t.mp = s.mp) (f : OnlyChanges [.arr, .mp, .ctr] s t) :
    WaysEmptied s t (· = k) := by
  have z := tagSet_lineAt hw k TagE.zero
  exact ⟨fun j hj => hj ▸ (tagGet_arr a k).trans z.tag, fun j hj => (tagGet_arr a j).trans (z.tags j hj), (hw.tagSet k TagE.zero).of_arr a, m, f⟩

end

/-- With DISCARD a line of the context leaves its way, and Mire takes none. -/
theorem tenantWay_discards {w : Tsw} (hd : w.discard = true) {x : Swept} (hb : x.s.bad = []) (hc : x.s.mp.clean = []) (hw : ArrWf x.s) {k : Nat}
    (hk : tenantLine w.t x.s k = true) : ∃ t a b, WaysEmptied x.s t (· = k) ∧ tenantWay w x k = { wb := a, inv := b, left := x.left, s := t } := by
  have held : cleanHolds x.s k = false := by rw [cleanHolds, hc]; rfl
  have v : (tagGet x.s k).v = true := by
    simp only [tenantLine, Bool.and_eq_true] at hk
    exact hk.1.1
  rw [tenantWay, if_pos hk, hd, Bool.true_and]
  cases d : (tagGet x.s k).d with
  | true =>
    have zb : (tagSet k TagE.zero x.s).bad = [] := hb
    have o := countLeave_only (tagGet x.s k) (tagSet k TagE.zero x.s)
    refine ⟨_, x.wb, x.inv + 1, .of_tagSet hw o.arr o.mp (((tagSet_only k TagE.zero x.s).le _).then o), ?_⟩
    rw [if_pos rfl, discardWay]
    rw [held, dropData_clean k _ zb]
    rfl
  | false =>
    have l := evictWay_left hb hw k
    refine ⟨_, x.wb + b2n false, x.inv + 1, .of_tagSet hw ((evictWay_arr hb k).trans (if_pos v)) (l.clean (by rw [d, Bool.and_false])) l.frame, ?_⟩
    rw [if_neg Bool.false_ne_true, sweepWay]
    rw [v, held, d]
    rfl

/-- With DISCARD the context's lines in a list of ways leave, one after the other. -/
theorem tenantWays_discard {w : Tsw} (hd : w.discard = true) (l : List Nat) (nd : l.Nodup) (x : Swept) (hb : x.s.bad = []) (hc : x.s.mp.clean = [])
    (hw : ArrWf x.s) : ∃ t a b, WaysEmptied x.s t (fun k => k ∈ l ∧ tenantLine w.t x.s k = true) ∧
      l.foldl (tenantWay w) x = { wb := a, inv := b, left := x.left, s := t } := by
  induction l generalizing x with
  | nil => exact ⟨_, _, _, (WaysEmptied.counted (.refl _ _) hw).congr (by simp), rfl⟩
  | cons k l ih =>
    obtain ⟨hk, nd⟩ := List.nodup_cons.mp nd
    rw [List.foldl_cons]
    by_cases c : tenantLine w.t x.s k = true
    · obtain ⟨t, a, b, ht, e⟩ := tenantWay_discards hd hb hc hw c
      obtain ⟨u, a', b', hu, e'⟩ := ih nd { wb := a, inv := b, left := x.left, s := t } (ht.frame.bad.trans hb)
        ((congrArg MPort.clean ht.mp).trans hc) ht.wf
      refine ⟨u, a', b', (ht.trans hu).congr fun j => ?_, by rw [e, e']⟩
      by_cases cj : j = k
      · simp [cj, c]
      · simp [cj, tenantLine_gen ht.frame.gen (ht.kept j cj)]
    · obtain ⟨u, a', b', hu, e'⟩ := ih nd x hb hc hw
      refine ⟨u, a', b', hu.congr fun j => ?_, by rw [tenantWay, if_neg c, e']⟩
      by_cases cj : j = k
      · simp [cj, hk, c]
      · simp [cj]

theorem mem_wkeys {set k : Nat} : k ∈ (List.range 32).map (wkey set) ↔ k / 32 = set := by
  simp only [List.mem_map, List.mem_range, wkey]
  exact ⟨fun ⟨_, hw, e⟩ => by omega, fun e => ⟨k % 32, Nat.mod_lt _ (by decide), by omega⟩⟩

theorem tenantSet_discards {w : Tsw} (hd : w.discard = true) {s : State} (h : SweepRoom s) :
    ∃ t a b, WaysEmptied s t (fun k => k / 32 = w.pos ∧ tenantLine w.t s k = true) ∧ tenantSet w s = { wb := a, inv := b, left := false, s := t } := by
  have o := useSlot_only w.pos false none s
  have c := WaysEmptied.counted o h.canonical.arrWf
  obtain ⟨t, a, b, ht, e⟩ := tenantWays_discard hd _ (wkeys_nodup w.pos) { wb := 0, inv := 0, left := false, s := useSlot w.pos false none s }
    h.clean h.writes c.wf
  refine ⟨t, a, b, (c.trans ht).congr fun k => ?_, ?_⟩
  · rw [mem_wkeys, tenantLine_gen o.gen (tagGet_arr o.arr k), false_or]
  · rw [tenantSet_eq, setCheck_clean none w.pos (useSlot w.pos false none s) h.clean]
    exact e

section
variable {s t : State} {w : Tsw} {a b : Nat}

/-- A step in a set whose lines have left, with sets to come. -/
theorem tswStep_sweeps (hs : w.stage = 3) (hp : w.pos + 1 < 16384) (e : tenantSet w s = { wb := a, inv := b, left := false, s := t }) :
    tswStep w s = tswSet (some { w with pos := w.pos + 1, wb := w.wb + a, inv := w.inv + b }) t := by
  unfold tswStep
  rw [hs]
  dsimp only
  rw [e]
  exact if_pos hp

/-- The step in the last set, whose lines have left. -/
theorem tswStep_swept (hs : w.stage = 3) (hp : w.pos = 16383) (e : tenantSet w s = { wb := a, inv := b, left := false, s := t }) :
    tswStep w s = if w.clrkey then tswSet (some { w with stage := 4, wb := w.wb + a, inv := w.inv + b }) t
      else tswEnd { w with wb := w.wb + a, inv := w.inv + b } t := by
  unfold tswStep
  rw [hs]
  dsimp only
  rw [e]
  exact if_neg (show ¬ w.pos + 1 < 16384 by omega)

/-- The switch completes with what it has counted, and no other part of the service changes. -/
theorem tswEnd_ended (w : Tsw) {t : State} (c : Canonical t) : Ended t (tswEnd w t) w.mbx Mc.ok [w.wb, w.inv, packNat [(6, 5, w.regs), (0, 6, w.segs)]] ∧
    (tswEnd w t).srv = { t.srv with tsw := none } ∧ OnlyChanges [.srv, .mbx, .ints, .d0] t (tswEnd w t) := by
  have d := mbxDone_only w.mbx Mc.ok [w.wb, w.inv, packNat [(6, 5, w.regs), (0, 6, w.segs)]] (tswSet none t)
  exact ⟨(mbxDone_ended _ _ _ (tswSet none t) c.mbx).since rfl fun _ _ => rfl, d.srv, ((tswSet_only none t).le _).then d⟩

theorem tenantSweepStep_keeps (hw : s.srv.tsw = some w) (hs : w.stage = 3) (hd : w.discard = false) (h : SweepRoom s) :
    (w.pos + 1 < 16384 → ∃ u x y, exec .tenantSweepStep s = .next u ∧
      SetSwept s u w.pos (fun k => (tagGet s k).v && holdsCache s (k % 32) && (tagGet s k).tc == w.t) ∧
      u.srv = { s.srv with tsw := some { w with pos := w.pos + 1, wb := x, inv := y } } ∧ OnlyChanges [.srv, .arr, .mp, .ctr] s u) ∧
    (w.pos = 16383 → ∃ u x y, exec .tenantSweepStep s = .next u ∧
      SetSwept s u w.pos (fun k => (tagGet s k).v && holdsCache s (k % 32) && (tagGet s k).tc == w.t) ∧
      (w.clrkey = true → u.srv = { s.srv with tsw := some { w with stage := 4, wb := x, inv := y } }) ∧
      (w.clrkey = false → Ended s u w.mbx Mc.ok [x, y, packNat [(6, 5, w.regs), (0, 6, w.segs)]] ∧ u.srv = { s.srv with tsw := none })) := by
  obtain ⟨t, a, b, swept, f, e⟩ := sweepSet_swept h w.pos (tenantLine_gen (t := w.t))
  rw [← tenantSet_keeps hd] at e
  have srv : t.srv = s.srv := f.srv
  refine ⟨fun hp => ?_, fun hp => ?_⟩
  · refine ⟨_, w.wb + a, w.inv + b, (tenantSweepStep_run hw).trans (congrArg _ (tswStep_sweeps hs hp e)), swept.congr rfl rfl, ?_,
      (f.le _).then (tswSet_only _ t)⟩
    rw [← srv]
    rfl
  · have run := (tenantSweepStep_run hw).trans (congrArg Host.Outcome.next (tswStep_swept hs hp e))
    cases k : w.clrkey with
    | true =>
      rw [k] at run
      refine ⟨_, w.wb + a, w.inv + b, run, swept.congr rfl rfl, fun _ => ?_, nofun⟩
      rw [← srv]
      rfl
    | false =>
      rw [k] at run
      have c : Canonical t := by
        have c := h.canonical.tenantSet (w := w)
        rwa [e] at c
      obtain ⟨ended, gone, g⟩ := tswEnd_ended { w with wb := w.wb + a, inv := w.inv + b } c
      refine ⟨_, w.wb + a, w.inv + b, run, swept.congr g.arr g.mp, nofun, fun _ => ⟨?_, gone.trans (by rw [srv])⟩⟩
      exact ended.since (congrArg Ints.mbx f.ints) fun j _ => mbxGet_congr (f.same .mbx (by decide)) j

theorem tenantSweepStep_discards (hw : s.srv.tsw = some w) (hs : w.stage = 3) (hd : w.discard = true) (h : SweepRoom s) (hp : w.pos + 1 < 16384) :
    ∃ u x y, exec .tenantSweepStep s = .next u ∧
      (∀ k, tagGet u k = if k / 32 = w.pos ∧ (tagGet s k).v = true ∧ holdsCache s (k % 32) = true ∧ (tagGet s k).tc = w.t then TagE.zero else tagGet s k) ∧
      u.mp.mire = s.mp.mire ∧ u.mp.miss = s.mp.miss ∧ u.srv = { s.srv with tsw := some { w with pos := w.pos + 1, wb := x, inv := y } } ∧
      OnlyChanges [.srv, .arr, .mp, .ctr] s u := by
  obtain ⟨t, a, b, emptied, e⟩ := tenantSet_discards hd h
  refine ⟨_, w.wb + a, w.inv + b, (tenantSweepStep_run hw).trans (congrArg _ (tswStep_sweeps hs hp e)), fun k => ?_, congrArg MPort.mire emptied.mp,
    congrArg MPort.miss emptied.mp, ?_, (emptied.frame.le _).then (tswSet_only _ t)⟩
  · have q : (k / 32 = w.pos ∧ tenantLine w.t s k = true) ↔
        k / 32 = w.pos ∧ (tagGet s k).v = true ∧ holdsCache s (k % 32) = true ∧ (tagGet s k).tc = w.t := by
      simp only [tenantLine, Bool.and_eq_true, beq_iff_eq, and_assoc]
    by_cases c : k / 32 = w.pos ∧ tenantLine w.t s k = true
    · exact (emptied.gone k c).trans (if_pos (q.mp c)).symm
    · exact (emptied.kept k c).trans (if_neg fun x => c (q.mpr x)).symm
  · rw [← emptied.frame.srv]
    rfl

end

/-! ### Keys (R253, R254) -/

theorem keySet_only (c : Nat) (k : Key) (s : State) : OnlyChanges [.keys] s (keySet c k s) :=
  ⟨fun q hq => by cases q <;> first | rfl | exact absurd (by simp) hq⟩

theorem keyGet_keySet_ne {c j : Nat} (k : Key) (s : State) (h : j ≠ c) : keyGet (keySet c k s) j = keyGet s j := sget_sset_ne _ _ _ h

/-- A key that is loaded reads back, whatever the store. -/
theorem keyGet_keySet_loaded {k : Key} (h : k.loaded = true) (c : Nat) (s : State) : keyGet (keySet c k s) c = k :=
  sget_sset_self _ _ _ fun e => by rw [e] at h; cases h

theorem keyGet_eraseKey {s : State} (h : Canonical s) (c : Nat) : keyGet (eraseKey c s) c = { Key.zero with kgen := (keyGet s c).kgen } :=
  sget_sset _ _ _ _ none h.keys

theorem eraseKey_only (c : Nat) (s : State) : OnlyChanges [.keys] s (eraseKey c s) := keySet_only ..

theorem keyGet_congr {s u : State} (h : u.keys = s.keys) (c : Nat) : keyGet u c = keyGet s c := by rw [keyGet, keyGet, h]

/-- The switch's last step erases the key of the context. -/
theorem tenantSweepStep_erases {s : State} {w : Tsw} (hw : s.srv.tsw = some w) (hs : w.stage = 4) (unsealed : sealedHeld s w.t.toNat = false)
    (c : Canonical s) : ∃ u, exec .tenantSweepStep s = .next u ∧ Ended s u w.mbx Mc.ok [w.wb, w.inv, packNat [(6, 5, w.regs), (0, 6, w.segs)]] ∧
      keyGet u w.t.toNat = { Key.zero with kgen := (keyGet s w.t.toNat).kgen } ∧ (∀ j, j ≠ w.t.toNat → keyGet u j = keyGet s j) ∧
      u.srv = { s.srv with tsw := none } ∧ OnlyChanges [.srv, .keys, .mbx, .ints, .d0] s u := by
  have e : tswStep w s = tswEnd w (eraseKey w.t.toNat s) := by
    unfold tswStep
    rw [hs]
    exact if_neg (by rw [unsealed]; decide)
  obtain ⟨ended, srv, f⟩ := tswEnd_ended w (c.eraseKey (t := w.t.toNat))
  have keys := keyGet_congr (f.same .keys (by decide))
  refine ⟨_, (tenantSweepStep_run hw).trans (congrArg _ e), ended.since rfl fun _ _ => rfl, (keys _).trans (keyGet_eraseKey c _),
    fun j hj => (keys j).trans (keyGet_keySet_ne _ s hj), srv, ((eraseKey_only ..).le _).then f⟩

theorem tenantSwitched : TenantSwitched :=
  ⟨tenantSwitch_denies, fun _ _ hw hs h none_ => tenantSweepStep_requests hw hs h none_, fun _ _ hw hs idle => tenantSweepStep_segments hw hs idle,
    fun _ _ hw hs hd h => tenantSweepStep_keeps hw hs hd h, fun _ _ hw hs hd h hp => tenantSweepStep_discards hw hs hd h hp,
    fun _ _ hw hs unsealed c => tenantSweepStep_erases hw hs unsealed c⟩

/-- The checks of SEAL_KEY pass where the command may act and, of a load, has its words and two XTS keys (Table 12.5). -/
theorem SealCmd.passes {s : State} {t op : Nat} {rest : List Nat} (h : SealCmd s t op rest) (hop : op = 1 ∨ op = 2) {short : Bool}
    (hs : short = false) : firstOf (sealChecks (atStart s t rest) t short) = none := by
  obtain ⟨heads, perm, does, rsv, present, on, unsealed⟩ := h
  have p : noDatapath (atStart s t rest) = false := congrArg not present
  have o : pdHeld (atStart s t rest) 77 = true := on
  have u : sealedHeld (atStart s t rest) (argF s t 0 0 4) = false := unsealed
  have m : ¬ (¬ t = 0 ∧ ¬ argF s t 0 0 4 = t) := fun x => perm.elim x.1 x.2
  have k : op ≠ 0 ∧ op ≠ 3 := by omega
  simp [firstOf, sealChecks, heads.atStart_argF, heads.atStart_argRsv, does, rsv, p, o, u, m, k, hs]

section
variable {s : State} {t : Nat} {rest : List Nat}

theorem sealKeyLoad_loads (h : SealCmd s t 1 rest) (long : 24 ≤ (mbxGet s t).inF.length)
    (differ : keyWords (mbxGet s t).inF 0 ≠ keyWords (mbxGet s t).inF 8) :
    ∃ u, exec .sealKeyLoad s = .next u ∧
      Completes s u t rest Mc.ok [((keyGet s (argF s t 0 0 4)).kgen + 1).toNat, keyCheck (keyWords (mbxGet s t).inF 16)] [.keys] ∧
      keyGet u (argF s t 0 0 4) = { loaded := true, k1 := keyWords (mbxGet s t).inF 0, k2 := keyWords (mbxGet s t).inF 8,
                                    km := keyWords (mbxGet s t).inF 16, kgen := (keyGet s (argF s t 0 0 4)).kgen + 1 } ∧
      ∀ j, j ≠ argF s t 0 0 4 → keyGet u j = keyGet s j := by
  let key : Key := { loaded := true, k1 := keyWords (mbxGet s t).inF 0, k2 := keyWords (mbxGet s t).inF 8, km := keyWords (mbxGet s t).inF 16,
                     kgen := (keyGet s (argF s t 0 0 4)).kgen + 1 }
  have sub : (argF s t 0 4 2 != 2) = true := by rw [h.does]; rfl
  have inF : (mbxGet (atStart s t rest) t).inF = (mbxGet s t).inF := by rw [h.heads.atStart_get (by decide)]
  have e : sealLoadCmd t (atStart s t rest) =
      mbxDone t Mc.ok [key.kgen.toNat, keyCheck key.km] (keySet (argF s t 0 0 4) key (atStart s t rest)) := by
    rw [sealLoadCmd]
    dsimp only
    rw [inF]
    refine (checked_pass (h.passes (.inl rfl) (by simp [differ, Nat.not_lt.mpr long]))).trans ?_
    simp only [h.heads.atStart_argF (by decide)]
    rfl
  have keys := keyGet_congr ((mbxDone_only t Mc.ok [key.kgen.toNat, keyCheck key.km] (keySet (argF s t 0 0 4) key (atStart s t rest))).same .keys (by decide))
  exact ⟨_, congrArg Host.Outcome.next ((cmdRun_heads h.heads sub).trans e), h.heads.completes (by decide) Mc.ok _ (keySet_only ..),
    (keys _).trans (keyGet_keySet_loaded rfl ..), fun j hj => (keys j).trans (keyGet_keySet_ne key (atStart s t rest) hj)⟩

theorem sealKeyErase_erases (h : SealCmd s t 2 rest) (c : Canonical s) :
    ∃ u, exec .sealKeyErase s = .next u ∧ Completes s u t rest Mc.ok [(keyGet s (argF s t 0 0 4)).kgen.toNat, 0] [.keys] ∧
      keyGet u (argF s t 0 0 4) = { Key.zero with kgen := (keyGet s (argF s t 0 0 4)).kgen } ∧
      ∀ j, j ≠ argF s t 0 0 4 → keyGet u j = keyGet s j := by
  have cs : Canonical (atStart s t rest) := .mbxSet c.withStartQ
  have sub : (argF s t 0 4 2 == 2) = true := by rw [h.does]; rfl
  have e : sealEraseCmd t (atStart s t rest) =
      mbxDone t Mc.ok [(keyGet s (argF s t 0 0 4)).kgen.toNat, 0] (eraseKey (argF s t 0 0 4) (atStart s t rest)) := by
    refine (checked_pass (h.passes (.inr rfl) rfl)).trans ?_
    simp only [h.heads.atStart_argF (by decide)]
    rfl
  have keys := keyGet_congr
    ((mbxDone_only t Mc.ok [(keyGet s (argF s t 0 0 4)).kgen.toNat, 0] (eraseKey (argF s t 0 0 4) (atStart s t rest))).same .keys (by decide))
  exact ⟨_, congrArg Host.Outcome.next ((cmdRun_heads h.heads sub).trans e), h.heads.completes (by decide) Mc.ok _ (eraseKey_only ..),
    (keys _).trans (keyGet_eraseKey cs _), fun j hj => (keys j).trans (keyGet_keySet_ne _ (atStart s t rest) hj)⟩

end

theorem keysSealed : KeysSealed := ⟨fun _ _ _ h long differ => sealKeyLoad_loads h long differ, fun _ _ _ h c => sealKeyErase_erases h c⟩

end Sys2Proof.Machine

namespace Sys2Proof
open Machine

/-- Settles O55: the switch's stages, each by what its step leaves, and the key of one context at a time. -/
theorem tenantsAndKeys : Obligations.TenantsAndKeys := ⟨tenantSwitched, keysSealed⟩

end Sys2Proof
end
section
/-! SUPPORT. What the operations leave of the queue, of presence and of power (O3, O40: R342, R346): one lemma per operation, that names the operations it is made of. -/

namespace Sys2Proof.Machine

-- One declaration after the other: the threads of declarations that wait for one another exhaust the memory that a compile may take.
set_option Elab.async false

section
variable {s₀ s t : State}

/-- From `s₀` to `s` no command has left or joined those that wait, and presence, the resets, the supply, the power handshake and the
states of the domains are as they were. -/
structure Steady (s₀ s : State) : Prop where
  pending : s.pending = s₀.pending
  life : lifeOf s.pins = lifeOf s₀.pins
  dom : s.pw.dom = s₀.pw.dom

/-! ### How operations compose -/

theorem Steady.refl (s : State) : Steady s s := ⟨rfl, rfl, rfl⟩



theorem Steady.ite {c : Prop} [Decidable c] (h : Steady s₀ s) (k : Steady s₀ t) : Steady s₀ (if c then s else t) := by split <;> assumption

theorem Steady.when {c : Prop} [Decidable c] (h : Steady s₀ s) (k : Steady s₀ s → Steady s₀ t) : Steady s₀ (if c then t else s) := .ite (k h) h

theorem Steady.unless {c : Prop} [Decidable c] (h : Steady s₀ s) (k : Steady s₀ s → Steady s₀ t) : Steady s₀ (if c then s else t) := .ite h (k h)

theorem Steady.foldl {α : Type} {f : State → α → State} {l : List α} (h : Steady s₀ s) (hf : ∀ {t a}, Steady s₀ t → Steady s₀ (f t a)) :
    Steady s₀ (l.foldl f s) := List.foldlRecOn l f h fun _ k _ _ => hf k

theorem Steady.foldlSnd {α β : Type} {f : β × State → α → β × State} {x : β × State} {l : List α} (h : Steady s₀ x.2)
    (hf : ∀ {y a}, Steady s₀ y.2 → Steady s₀ (f y a).2) : Steady s₀ (l.foldl f x).2 :=
  List.foldlRecOn (motive := fun y => Steady s₀ y.2) l f h fun _ k _ _ => hf k

theorem Steady.ends {x y : StepRes} (h : Steady s₀ x.state) (e : x = y) : Steady s₀ y.state := e ▸ h

/-- The state that an operation answers, if it answers one, is as steady. -/
def SomeSteady (s₀ : State) : Option State → Prop
  | some s => Steady s₀ s
  | none => True

theorem SomeSteady.get {o : Option State} (h : SomeSteady s₀ o) (e : o = some s) : Steady s₀ s := by subst e; exact h

/-- The state with a line installed, if it is, is as steady. -/
def OkSteady (s₀ : State) : InstRes → Prop
  | .ok s => Steady s₀ s
  | _ => True

theorem OkSteady.get {x : InstRes} (h : OkSteady s₀ x) (e : x = .ok s) : Steady s₀ s := by subst e; exact h

/-- The state that a command leads to, if it leads to one, is as steady. -/
def NextSteady (s₀ : State) : Out3 → Prop
  | .next s => Steady s₀ s
  | _ => True

/-! ### A part of the state replaced -/

theorem Steady.withClk {x : Clock} (h : Steady s₀ s) : Steady s₀ { s with clk := x } := { h with }
theorem Steady.withBanks {x : Store Bank} (h : Steady s₀ s) : Steady s₀ { s with banks := x } := { h with }
theorem Steady.withGen {x : GenSt} (h : Steady s₀ s) : Steady s₀ { s with gen := x } := { h with }
theorem Steady.withMp {x : MPort} (h : Steady s₀ s) : Steady s₀ { s with mp := x } := { h with }
theorem Steady.withPf {x : Prefetch} (h : Steady s₀ s) : Steady s₀ { s with pf := x } := { h with }
theorem Steady.withD0 {x : PortSt} (h : Steady s₀ s) : Steady s₀ { s with d0 := x } := { h with }
theorem Steady.withD1 {x : PortSt} (h : Steady s₀ s) : Steady s₀ { s with d1 := x } := { h with }
theorem Steady.withSq {x : List Req} (h : Steady s₀ s) : Steady s₀ { s with sq := x } := { h with }
theorem Steady.withSout {x : List Out} (h : Steady s₀ s) : Steady s₀ { s with sout := x } := { h with }
theorem Steady.withRegHw {x : List RegReq} (h : Steady s₀ s) : Steady s₀ { s with regHw := x } := { h with }
theorem Steady.withFen {x : FenSt} (h : Steady s₀ s) : Steady s₀ { s with fen := x } := { h with }
theorem Steady.withTal {x : TallySt} (h : Steady s₀ s) : Steady s₀ { s with tal := x } := { h with }
theorem Steady.withHome {x : HomeSt} (h : Steady s₀ s) : Steady s₀ { s with home := x } := { h with }
theorem Steady.withRegul {x : RegulSt} (h : Steady s₀ s) : Steady s₀ { s with regul := x } := { h with }
theorem Steady.withMace {x : MaceSt} (h : Steady s₀ s) : Steady s₀ { s with mace := x } := { h with }
theorem Steady.withCtr {x : CtrSt} (h : Steady s₀ s) : Steady s₀ { s with ctr := x } := { h with }
theorem Steady.withPeat {x : PeatSt} (h : Steady s₀ s) : Steady s₀ { s with peat := x } := { h with }
theorem Steady.withStartQ {x : List Nat} (h : Steady s₀ s) : Steady s₀ { s with startQ := x } := { h with }
theorem Steady.withCore {x : Core} (h : Steady s₀ s) : Steady s₀ { s with core := x } := { h with }
theorem Steady.withInts {x : Ints} (h : Steady s₀ s) : Steady s₀ { s with ints := x } := { h with }
theorem Steady.withLog {x : LogSt} (h : Steady s₀ s) : Steady s₀ { s with log := x } := { h with }
theorem Steady.withSrv {x : LiveSt} (h : Steady s₀ s) : Steady s₀ { s with srv := x } := { h with }
theorem Steady.withBad {x : List Site} (h : Steady s₀ s) : Steady s₀ { s with bad := x } := { h with }

/-! A part that holds what stays: the pins of presence and power, and the states of the domains. -/

theorem Steady.withPins {x : Pins} (h : Steady s₀ s) (e : lifeOf x = lifeOf s.pins := by rfl) : Steady s₀ { s with pins := x } :=
  ⟨h.pending, e.trans h.life, h.dom⟩
theorem Steady.withPw {x : PowerSt} (h : Steady s₀ s) (e : x.dom = s.pw.dom := by rfl) : Steady s₀ { s with pw := x } :=
  ⟨h.pending, h.life, e.trans h.dom⟩

/-! ### Base -/

theorem Steady.bankSet {b : Nat} {k : Bank} (h : Steady s₀ s) : Steady s₀ (bankSet b k s) := h.withBanks

theorem Steady.portSet {p : DPort} {x : PortSt} (h : Steady s₀ s) : Steady s₀ (portSet p x s) := by
  cases p
  exacts [h.withD0, h.withD1]

theorem Steady.emit {p : Port} {o : Out} (h : Steady s₀ s) : Steady s₀ (emit p o s) := by
  unfold Machine.emit
  dsimp only
  split
  exacts [h.withD0, h.withD1, h.withSout]

theorem Steady.occAt {ord ev : Nat} {k : OccKind} {j : Subj} {n : Nat} (h : Steady s₀ s) : Steady s₀ (occAt ord ev k j n s) :=
  h.unless (·.withCtr)

theorem Steady.bankWaits {r : Subj} {pipe : Nat} (h : Steady s₀ s) : Steady s₀ (bankWaits r pipe s) := h.when (·.withCtr)

theorem Steady.occ {ev : Nat} {k : OccKind} {j : Subj} {n : Nat} (h : Steady s₀ s) : Steady s₀ (occ ev k j n s) := h.occAt

theorem Steady.occP {p : Port} {ev : Nat} {j : Subj} {n : Nat} (h : Steady s₀ s) : Steady s₀ (occP p ev j n s) := h.occAt

theorem Steady.occR {ev : Nat} {r : Req} {n : Nat} (h : Steady s₀ s) : Steady s₀ (occR ev r n s) := .ite h.occ h.occAt

theorem Steady.occU {ev n : Nat} (h : Steady s₀ s) : Steady s₀ (occU ev n s) := h.occ

theorem Steady.fctr {k n : Nat} (h : Steady s₀ s) : Steady s₀ (fctr k n s) := h.unless ({ · with })

theorem Steady.useSlot {pipe : Nat} {retired : Bool} {j : Option Subj} (h : Steady s₀ s) : Steady s₀ (useSlot pipe retired j s) := h.withCtr

theorem Steady.reqSlot {pipe : Nat} {retired : Bool} {j : Subj} (h : Steady s₀ s) : Steady s₀ (reqSlot pipe retired j s) := h.withCtr.useSlot

/-! ### Flags -/

theorem Steady.sendIntr (h : Steady s₀ s) : Steady s₀ (sendIntr s) := h.when (·.withInts.emit)

theorem Steady.setInts {i : Ints} (h : Steady s₀ s) : Steady s₀ (setInts i s) := h.withInts.when (·.sendIntr)

theorem Steady.raise {c : Nat} (h : Steady s₀ s) : Steady s₀ (raise c s) := h.setInts

theorem Steady.raiseMbx {t : Nat} (h : Steady s₀ s) : Steady s₀ (raiseMbx t s) := h.setInts

theorem Steady.raiseAlert {b : Nat} (h : Steady s₀ s) : Steady s₀ (raiseAlert b s) := .raise { h with }

theorem Steady.eventLost (h : Steady s₀ s) : Steady s₀ (eventLost s) := h.withLog.raise

theorem Steady.evqPush {kind : Nat} {r : Rec} (h : Steady s₀ s) : Steady s₀ (evqPush kind r s) := .ite h.withLog h.eventLost

theorem Steady.notice {n : Notice} (h : Steady s₀ s) : Steady s₀ (notice n s) := .ite h.withLog h.eventLost

theorem Steady.errArrive {r : Rec} (h : Steady s₀ s) : Steady s₀ (errArrive r s) := by
  unfold Machine.errArrive
  dsimp only
  split
  exacts [.ite h.withLog.raise (.ite h.withLog.evqPush.raise h.withLog.raise), h.withLog.evqPush.raise]

theorem Steady.fatalErr {i : ErrInfo} (h : Steady s₀ s) : Steady s₀ (fatalErr i s) := .ite h.notice (.errArrive (.raise { h with }))

theorem Steady.logErr {i : ErrInfo} (h : Steady s₀ s) : Steady s₀ (logErr i s) := h.notice

theorem Steady.ctlUse {x : Site} {j : Option Subj} (h : Steady s₀ s) : Steady s₀ (ctlUse x j s) := h.when (·.withBad.fatalErr)

/-! ### Ops -/

theorem Steady.respond {p : Port} {m : Msg} {j : Subj} {x : Rsp} (h : Steady s₀ s) : Steady s₀ (respond p m j x s) := h.emit

theorem Steady.compTo {p : Port} {m : Msg} {j : Subj} {st result : Nat} (h : Steady s₀ s) : Steady s₀ (compTo p m j st result s) := h.respond

theorem Steady.dataTo {p : Port} {m : Msg} {j : Subj} {st epoch result : Nat} {d : Line} (h : Steady s₀ s) :
    Steady s₀ (dataTo p m j st epoch result d s) := h.respond

theorem Steady.cohData {p : Port} {m : Msg} {j : Subj} {st gst : Nat} {gpend : Bool} {d : Line} (h : Steady s₀ s) :
    Steady s₀ (cohData p m j st gst gpend d s) := h.respond

theorem Steady.winSet {c : Nat} {w : Win} (h : Steady s₀ s) : Steady s₀ (winSet c w s) := { h with }

theorem Steady.addDemand {r : Req} {n : Nat} (h : Steady s₀ s) : Steady s₀ (addDemand r n s) := h.winSet

theorem Steady.addServed {r : Req} {n : Nat} (h : Steady s₀ s) : Steady s₀ (addServed r n s) := by
  unfold Machine.addServed
  dsimp only
  split
  exacts [h, h, h.winSet.occR]

theorem Steady.bufSet {b : Nat} {x : TBuf} (h : Steady s₀ s) : Steady s₀ (bufSet b x s) := { h with }

theorem Steady.traceEv {v : TEv} (h : Steady s₀ s) : Steady s₀ (traceEv v s) := h.when (·.withPeat)

theorem Steady.trigger {src win bufs : Nat} (h : Steady s₀ s) : Steady s₀ (trigger src win bufs s) := h.when (·.withPeat)

theorem Steady.tallyUse {t : Nat} {j : Option Subj} (h : Steady s₀ s) : Steady s₀ (tallyUse t j s) :=
  h.when fun h => .ctlUse { h with }

theorem Steady.tallyAdd {t n : Nat} {j : Option Subj} {ord : Nat} (h : Steady s₀ s) : Steady s₀ (tallyAdd t n j ord s) := by
  have hu := h.tallyUse (t := t) (j := j)
  cases j with
  | some x => exact .occAt { hu with }
  | none => exact .occAt { hu with }

theorem Steady.reqTally {r : Req} {n : Nat} (h : Steady s₀ s) : Steady s₀ (reqTally r n s) := h.when (·.tallyAdd)

theorem Steady.plistAdd {l : LAddr} {i : ErrInfo} (h : Steady s₀ s) : Steady s₀ (plistAdd l i s) :=
  .ite (h.when (·.logErr)) (.ite h.withMp.logErr h.logErr.fatalErr)

theorem Steady.plistDrop {l : LAddr} (h : Steady s₀ s) : Steady s₀ (plistDrop l s) := h.when (·.withMp)

theorem Steady.ownSend {op addr len : Nat} {beats : List (BitVec 512)} {be : List (BitVec 64)} {k : OwnKind} (h : Steady s₀ s) :
    Steady s₀ (ownSend op addr len beats be k s) := by
  unfold Machine.ownSend
  exact h.withSrv.emit

theorem Steady.ownRead {l : LAddr} {k : OwnKind} (h : Steady s₀ s) : Steady s₀ (ownRead l k s) := h.ownSend

theorem Steady.ownWriteLine {l : LAddr} {d : Line} {k : OwnKind} (h : Steady s₀ s) : Steady s₀ (ownWriteLine l d k s) := h.ownSend

theorem Steady.ownWritePart {addr n : Nat} {d : Line} {k : OwnKind} (h : Steady s₀ s) : Steady s₀ (ownWritePart addr n d k s) := h.ownSend

theorem Steady.ownDrop {tx : BitVec 16} (h : Steady s₀ s) : Steady s₀ (ownDrop tx s) := h.withSrv

/-! ### Mailbox -/

theorem Steady.mbxSet {t : Nat} {m : Mbx} (h : Steady s₀ s) : Steady s₀ (mbxSet t m s) := { h with }

theorem Steady.mbxDone {t code : Nat} {res : List Nat} (h : Steady s₀ s) : Steady s₀ (mbxDone t code res s) := h.mbxSet.raiseMbx

theorem Steady.mbxWork {t : Nat} (h : Steady s₀ s) : Steady s₀ (mbxWork t s) := h.mbxSet

theorem Steady.mbxFill {t : Nat} (h : Steady s₀ s) : Steady s₀ (mbxFill t s) := h.mbxSet

theorem Steady.mbxOutTry {t : Nat} (h : Steady s₀ s) : Steady s₀ (mbxOutTry t s) := .ite h (h.mbxFill.when (·.mbxDone))

theorem Steady.mbxOut {t : Nat} {words res : List Nat} (h : Steady s₀ s) : Steady s₀ (mbxOut t words res s) := h.mbxSet.mbxOutTry

/-! ### Watch -/

theorem Steady.watSet {w : Nat} {x : Wat} (h : Steady s₀ s) : Steady s₀ (watSet w x s) := { h with }

theorem Steady.watFire {w word : Nat} {a : Acc} (h : Steady s₀ s) : Steady s₀ (watFire w word a s) := h.watSet.raise.notice.traceEv.trigger

theorem Steady.watUpdate {w : Nat} {a : Acc} (h : Steady s₀ s) : Steady s₀ (watUpdate w a s) := by
  unfold Machine.watUpdate
  dsimp only
  split
  · exact h
  · split
    exacts [h.watSet.watFire, h.watSet]

theorem Steady.watchAcc {a : Acc} (h : Steady s₀ s) : Steady s₀ (watchAcc a s) := .ite (.foldl h (fun h => h.unless (·.watUpdate))) h

end
end Sys2Proof.Machine
end

section
/-! SUPPORT. What stays of the queue, of presence and of power: the array and the home. -/

namespace Sys2Proof.Machine

-- One declaration after the other: the threads of declarations that wait for one another exhaust the memory that a compile may take.
set_option Elab.async false

section
variable {s₀ s t : State}

/-! ### Array -/

theorem Steady.tagSet {k : Nat} {e : TagE} (h : Steady s₀ s) : Steady s₀ (tagSet k e s) := { h with }

theorem Steady.dataPut {k : Nat} {d : Line} {m : Mask} (h : Steady s₀ s) : Steady s₀ (dataPut k d m s) := { h with }

theorem Steady.endTrim {b : Nat} (h : Steady s₀ s) : Steady s₀ (endTrim b s) := by
  unfold Machine.endTrim
  dsimp only
  split
  exacts [h.when (·.bankSet.raise.mbxDone), h]

theorem Steady.retireBank {b : Nat} (h : Steady s₀ s) : Steady s₀ (retireBank b s) := .ite h (.endTrim (.foldl h.bankSet (·.tagSet)))

theorem Steady.retireReport {b : Nat} (h : Steady s₀ s) : Steady s₀ (retireReport b s) := h.logErr.raise

theorem Steady.bankErr {b n : Nat} (h : Steady s₀ s) : Steady s₀ (bankErr b n s) := h.bankSet.when (·.retireBank)

theorem Steady.tagCheck {j : Option Subj} {k : Nat} (h : Steady s₀ s) : Steady s₀ (tagCheck j k s) :=
  .ite (.ite (h.when (·.withBad.occU)).withBad.tagSet.fatalErr (h.when (·.withBad.occU)).withBad.tagSet.logErr) (h.when (·.withBad.occU))

theorem Steady.setCheck {j : Option Subj} {set : Nat} (h : Steady s₀ s) : Steady s₀ (setCheck j set s) := by
  unfold Machine.setCheck
  extract_lets s'
  have hs : Steady s₀ s' := .foldl h (·.tagCheck)
  clear_value s'
  exact .ite h (hs.when ({ · with }))

theorem Steady.lookCheck {j : Option Subj} {l : LAddr} (h : Steady s₀ s) : Steady s₀ (lookCheck j l s) := .foldl h (·.setCheck)

theorem Steady.dropData {k : Nat} (h : Steady s₀ s) : Steady s₀ (dropData k s) := h.withBad

theorem Steady.countLeave {e : TagE} (h : Steady s₀ s) : Steady s₀ (countLeave e s) := h.when (·.occ)

theorem Steady.poisonGroup {r : Region} {g : Nat} (h : Steady s₀ s) : Steady s₀ (poisonGroup r g s) := .foldl h (·.tagSet)

theorem Steady.wayFound {j : Option Subj} {k : Nat} (h : Steady s₀ s) : Steady s₀ (wayFound j k s).2 := by
  unfold Machine.wayFound
  dsimp only
  split
  · exact h
  · split
    · split
      · exact h.tagSet.logErr
      · exact h.tagSet.countLeave
    · split
      · refine .logErr ?_
        split
        exacts [h.poisonGroup, h]
      · exact h.tagSet.logErr

theorem Steady.wayCheck {j : Option Subj} {k : Nat} (h : Steady s₀ s) : Steady s₀ (wayCheck j k s).2 := by
  unfold Machine.wayCheck
  dsimp only
  split
  · exact h
  · exact h.dataPut.dropData.occU.wayFound.bankErr

theorem Steady.plruTouch {set way : Nat} (h : Steady s₀ s) : Steady s₀ (plruTouch set way s) := { h with }

theorem Steady.mireMod {i : Nat} {f : MireE → MireE} (h : Steady s₀ s) : Steady s₀ (mireMod i f s) := h.withMp

theorem Steady.mwPush {w : MWork} (h : Steady s₀ s) : Steady s₀ (mwPush w s) := h.withMp

theorem Steady.mirePush {e : TagE} {d : Line} (h : Steady s₀ s) : Steady s₀ (mirePush e d s) := h.withMp.mwPush

theorem Steady.mireCheck {i : Nat} {j : Option Subj} (h : Steady s₀ s) : Steady s₀ (mireCheck i j s) := by
  unfold Machine.mireCheck
  dsimp only
  split
  · exact h.ctlUse
  · split
    exacts [h.ctlUse.mireMod.withBad.occU.unless (·.mireMod.logErr), h.ctlUse.mireMod.withBad.occU]

theorem Steady.evictWay {k : Nat} (h : Steady s₀ s) : Steady s₀ (evictWay k s).2 := by
  unfold Machine.evictWay
  dsimp only
  split
  · exact h
  · split
    · exact h.wayCheck.tagSet.dropData.mirePush.countLeave.occ
    · exact h.tagSet.dropData.countLeave.occ

theorem Steady.missMod {i : Nat} {f : Miss → Miss} (h : Steady s₀ s) : Steady s₀ (missMod i f s) := h.withMp

theorem Steady.missDrop {i : Nat} (h : Steady s₀ s) : Steady s₀ (missDrop i s) := h.withMp

theorem Steady.missAdd {e : Miss} (h : Steady s₀ s) : Steady s₀ (missAdd e s) := h.withMp

theorem Steady.missCheck {i : Nat} {j : Option Subj} (h : Steady s₀ s) : Steady s₀ (missCheck i j s) := by
  unfold Machine.missCheck
  dsimp only
  split
  · exact h.ctlUse
  · split
    exacts [h.ctlUse.missMod.withBad.occU.unless (·.missMod.logErr), h.ctlUse.missMod.withBad.occU]

/-! ### Data -/

theorem Steady.elemMod {slot id : Nat} {f : Elem → Elem} (h : Steady s₀ s) : Steady s₀ (elemMod slot id f s) := h.withMace

theorem Steady.deliverRead {r : Req} {epoch : Nat} {d : Line} {poi : Bool} (h : Steady s₀ s) : Steady s₀ (deliverRead r epoch d poi s) := by
  unfold Machine.deliverRead
  dsimp only
  split
  exacts [h.elemMod, h, h, (h.when (·.occR)).dataTo]

theorem Steady.deliverComp {r : Req} {poi : Bool} {result epoch : Nat} (h : Steady s₀ s) : Steady s₀ (deliverComp r poi result epoch s) := by
  unfold Machine.deliverComp
  split
  exacts [h.elemMod, h.elemMod, h, h.respond]

theorem Steady.reqFail {r : Req} {st : Nat} (h : Steady s₀ s) : Steady s₀ (reqFail r st s) := by
  unfold Machine.reqFail
  split
  exacts [h.elemMod, h, h, h.compTo]

theorem Steady.cloveOcc {r : Req} {v : FpEv} (h : Steady s₀ s) : Steady s₀ (cloveOcc r v s) := h.occR.occR.occR.occR.occR.occR.occR

theorem Steady.opOn {r : Req} {epoch : Nat} {old : Line} {poi fresh : Bool} (h : Steady s₀ s) :
    Steady s₀ (opOn r epoch old poi fresh s).2.2 := (h.unless (·.cloveOcc)).watchAcc.reqTally.deliverComp

theorem Steady.sendThru {r : Req} {d : Line} {m : Mask} {poi sealed : Bool} {qc tc : BitVec 4} (h : Steady s₀ s) :
    Steady s₀ (sendThru r d m poi sealed qc tc s) := h.mwPush

theorem Steady.installAt {k : Nat} {i : Inst} (h : Steady s₀ s) : Steady s₀ (installAt k i s) := h.tagSet.dataPut.when (·.plruTouch)

theorem Steady.tryInstall {i : Inst} (h : Steady s₀ s) : OkSteady s₀ (tryInstall i s) := by
  unfold Machine.tryInstall
  dsimp only
  split
  · exact trivial
  · split
    · exact trivial
    · exact h.setCheck.evictWay.installAt

theorem Steady.readEnd {r : Req} {as_ : ReadAs} {d : Line} {poi : Bool} (h : Steady s₀ s) : Steady s₀ (readEnd r as_ d poi s) := by
  unfold Machine.readEnd
  split
  exacts [h.deliverRead, h.cohData]

theorem Steady.demandHit {r : Req} {k : Nat} (h : Steady s₀ s) : Steady s₀ (demandHit r k s) := (h.when (·.tagSet.occR)).plruTouch

theorem Steady.memRead {r : Req} {as_ : ReadAs} (h : Steady s₀ s) : Steady s₀ (memRead r as_ s).state := by
  unfold Machine.memRead
  dsimp only
  split
  · split
    · exact h.lookCheck.wayCheck
    · exact h.lookCheck.wayCheck.demandHit.occR.addServed.watchAcc.readEnd
  · exact h.lookCheck.mireCheck.occR.occR.addServed.watchAcc.readEnd
  · split
    · exact h.lookCheck
    · split
      · exact h.lookCheck
      · split
        · exact h.lookCheck.missMod.occR.occR.addServed.missCheck.watchAcc.readEnd
        · exact h.lookCheck.missMod.occR.occR.addServed.missMod.watchAcc
  · split
    exacts [h.lookCheck, h.lookCheck.missAdd.occR.addServed.watchAcc]

theorem Steady.writeEnd {r : Req} {epoch : Nat} {m : Mask} {after : Line} {known : BitVec 16} {poi : Bool} (h : Steady s₀ s) :
    Steady s₀ (writeEnd r epoch m after known poi s) := h.occR.watchAcc.reqTally.deliverComp

theorem Steady.writeAround {r : Req} {d : Line} {m : Mask} (h : Steady s₀ s) : Steady s₀ (writeAround r d m s).state := by
  unfold Machine.writeAround
  dsimp only
  split
  exacts [h, h.missAdd.mwPush.writeEnd]

theorem Steady.memWrite {r : Req} (h : Steady s₀ s) : Steady s₀ (memWrite r s).state := by
  unfold Machine.memWrite
  dsimp only
  split
  · exact ((h.lookCheck.demandHit.occR.addServed.when (·.plistDrop)).tagSet.dataPut.when (·.sendThru)).writeEnd
  · exact (h.lookCheck.occR.occR.addServed.when (·.plistDrop)).mireCheck.mireMod.writeEnd
  · split
    · exact h.lookCheck
    · split
      · exact h.lookCheck
      · split
        · exact (h.lookCheck.missMod.occR.occR.addServed.when (·.plistDrop)).missCheck.missMod.writeEnd
        · exact (h.lookCheck.missMod.occR.occR.addServed.when (·.plistDrop)).missMod.writeEnd
  · split
    · split
      · next e => exact (h.lookCheck.writeAround.ends e).occR.addServed.when (·.plistDrop)
      · exact h.lookCheck.writeAround
    · split
      · split
        · next e => exact ((h.lookCheck.tryInstall.get e).occR.addServed.when (·.plistDrop)).writeEnd
        · split
          · next e => exact (h.lookCheck.writeAround.ends e).occR.occR.addServed.when (·.plistDrop)
          · exact h.lookCheck.writeAround
        · split
          exacts [h.lookCheck, (h.lookCheck.missAdd.occR.addServed.when (·.plistDrop)).writeEnd]
      · split
        exacts [h.lookCheck, h.lookCheck.missAdd.occR.addServed.writeEnd]

theorem Steady.memOp {r : Req} (h : Steady s₀ s) : Steady s₀ (memOp r s).state := by
  unfold Machine.memOp
  extract_lets
  split
  · extract_lets
    split
    · exact h.lookCheck.wayCheck
    · exact h.lookCheck.wayCheck.demandHit.occR.addServed.opOn.tagSet.dataPut.when (·.sendThru)
  · exact h.lookCheck.occR.occR.addServed.mireCheck.opOn.mireMod
  · split
    · exact h.lookCheck
    · split
      · exact h.lookCheck
      · extract_lets
        split
        · exact h.lookCheck.missMod.occR.occR.addServed.missCheck.opOn.missMod
        · exact h.lookCheck.missMod.occR.occR.addServed.missMod.watchAcc
  · split
    exacts [h.lookCheck, h.lookCheck.missAdd.occR.addServed.watchAcc]

theorem Steady.taintLine {r : Req} (h : Steady s₀ s) : Steady s₀ (taintLine r s) := by
  unfold Machine.taintLine
  dsimp only
  split
  exacts [h.withMp.tagSet, h.withMp.mireMod, .ite h.withMp.missMod h.withMp.missMod, h.withMp]

theorem Steady.memAccess {r : Req} (h : Steady s₀ s) : Steady s₀ (memAccess r s).state := by
  unfold Machine.memAccess
  dsimp only
  split
  · have ha : Steady s₀ (if hOpcode r.msg == Op.wr then Machine.memWrite r s else Machine.memOp r s).state := by
      split
      exacts [h.memWrite, h.memOp]
    split
    · next e => exact (ha.ends e).when (·.taintLine)
    · exact ha
  · exact h.memRead

theorem Steady.replay {x : Miss × State} {a : AttOp} (h : Steady s₀ x.2) : Steady s₀ (replay x a).2 := by
  unfold Machine.replay
  split
  exacts [h.deliverRead, h.cohData, h.watchAcc, h.opOn, h, h]

theorem Steady.fillServe {i : Nat} {d : Line} {poi : Bool} (h : Steady s₀ s) : Steady s₀ (fillServe i d poi s) := by
  unfold Machine.fillServe
  dsimp only
  split
  · exact h
  · next e _ =>
    have hx : Steady s₀ (e.att.foldl Machine.replay (fillStart d (poi || listed s e.line) e, s)).2 := .foldlSnd h (·.replay)
    exact .ite hx.missDrop hx.missMod

/-! ### Sedge -/

theorem Steady.sedgeSet {k : Nat} {e : SedgeE} (h : Steady s₀ s) : Steady s₀ (sedgeSet k e s) := { h with }

theorem Steady.sedgeCheck {j : Option Subj} {x : Nat} (h : Steady s₀ s) : Steady s₀ (sedgeCheck j x s) :=
  h.unless fun h => .foldl (h.when ({ · with })) fun h => (h.when (·.withBad.occU)).when (·.withBad.sedgeSet.fatalErr)

theorem Steady.splruTouch {k : Nat} (h : Steady s₀ s) : Steady s₀ (splruTouch k s) := { h with }

theorem Steady.hteMod {x : Nat} {f : Hte → Hte} (h : Steady s₀ s) : Steady s₀ (hteMod x f s) := h.withHome

theorem Steady.hteDrop {x : Nat} (h : Steady s₀ s) : Steady s₀ (hteDrop x s) := h.withHome

theorem Steady.hteAdd {x : Hte} (h : Steady s₀ s) : Steady s₀ (hteAdd x s) := h.withHome

theorem Steady.fwdSend {op target : Nat} {l : LAddr} {x : Hte} {own keep ownr : Bool} (h : Steady s₀ s) :
    Steady s₀ (fwdSend op target l x own keep ownr s) := h.emit.occR.traceEv

theorem Steady.grantSend {x : Hte} (h : Steady s₀ s) : Steady s₀ (grantSend x s) := h.respond

theorem Steady.predCheck {i : Nat} (h : Steady s₀ s) : Steady s₀ (predCheck i s) := h.when ({ · with })

theorem Steady.predict {l : LAddr} {agent : Nat} {atomC other : Bool} (h : Steady s₀ s) : Steady s₀ (predict l agent atomC other s).2 :=
  h.predCheck.withHome

/-! ### Home -/

theorem Steady.homeWatch {r : Req} {g : HData} {l : LAddr} (h : Steady s₀ s) : Steady s₀ (homeWatch r g l s) := h.watchAcc

theorem Steady.homeWrite {r0 : Req} {l : LAddr} {g : HData} (h : Steady s₀ s) : SomeSteady s₀ (homeWrite r0 l g s) := by
  unfold Machine.homeWrite
  dsimp only
  split
  · exact ((h.lookCheck.demandHit.tagSet.dataPut.when (·.sendThru)).unless (·.plistDrop)).homeWatch
  · exact (h.lookCheck.mireMod.unless (·.plistDrop)).homeWatch
  · split
    · exact trivial
    · split
      · exact (h.lookCheck.missMod.missMod.unless (·.plistDrop)).homeWatch
      · exact (h.lookCheck.missMod.missMod.unless (·.plistDrop)).homeWatch
  · split
    · split
      exacts [trivial, (h.lookCheck.missAdd.mwPush.unless (·.plistDrop)).homeWatch]
    · split
      · next e => exact ((h.lookCheck.tryInstall.get e).unless (·.plistDrop)).homeWatch
      · split
        exacts [trivial, (h.lookCheck.occR.missAdd.mwPush.unless (·.plistDrop)).homeWatch]
      · split
        exacts [trivial, (h.lookCheck.missAdd.unless (·.plistDrop)).homeWatch]

theorem Steady.homePoison {l : LAddr} {tc : BitVec 4} {who : Option (Nat × Nat)} (h : Steady s₀ s) : Steady s₀ (homePoison l tc who s) := by
  unfold Machine.homePoison
  dsimp only
  split
  exacts [h.tagSet, h.mireMod, .ite h.plistAdd (.ite h.missMod h.missMod), h.plistAdd]

theorem Steady.sedgeLeave {l : LAddr} {after : Option SedgeE} (h : Steady s₀ s) : Steady s₀ (sedgeLeave l after s) := by
  unfold Machine.sedgeLeave
  dsimp only
  split
  · exact h
  · split
    exacts [h.sedgeSet, h.sedgeSet]

theorem Steady.relookAdd {l : List Req} (h : Steady s₀ s) : Steady s₀ (relookAdd l s) := h.withHome

theorem Steady.hData {x : Hte} (h : Steady s₀ s) : SomeSteady s₀ (hData x s) := by
  unfold Machine.hData
  split
  exacts [h.homeWrite, h]

theorem Steady.hAccess {x : Hte} (h : Steady s₀ s) : Steady s₀ (hAccess x s) := by
  unfold Machine.hAccess
  dsimp only
  split
  · next e => exact (h.memAccess.ends e).hteMod
  · next e => exact .ite (h.memAccess.ends e).sedgeLeave.hteMod.relookAdd (h.memAccess.ends e).sedgeLeave.hteDrop.relookAdd
  · next e => exact .ite (h.memAccess.ends e).sedgeLeave.hteMod.relookAdd (h.memAccess.ends e).sedgeLeave.hteDrop.relookAdd

theorem Steady.hFinish {x : Hte} (h : Steady s₀ s) : Steady s₀ (hFinish x s) := by
  unfold Machine.hFinish
  split
  exacts [h.sedgeLeave.hteDrop.relookAdd, h.sedgeLeave.hteDrop.relookAdd, h.hAccess]

theorem Steady.hEnd {id : Nat} (h : Steady s₀ s) : Steady s₀ (hEnd id s) := by
  unfold Machine.hEnd
  split
  · exact h
  · split
    · exact h
    · next e => exact (h.hData.get e).hFinish

theorem Steady.hTry {id : Nat} (h : Steady s₀ s) : Steady s₀ (hTry id s) := by
  unfold Machine.hTry
  split
  exacts [h.when (·.hEnd), h]

theorem Steady.hAttach {r : Req} {x : Hte} (h : Steady s₀ s) : Steady s₀ (hAttach r x s).state := by
  unfold Machine.hAttach
  dsimp only
  split
  · exact h.ctlUse
  · exact h.ctlUse.hteMod.traceEv

theorem Steady.hOpen {x : Hte} {k : Nat} {send : State → State} (h : Steady s₀ s) (hsend : ∀ {t}, Steady s₀ t → Steady s₀ (send t)) :
    Steady s₀ (hOpen x k send s) := (hsend h.hteAdd.sedgeSet).hTry

theorem Steady.backInvs {ts ow : List Nat} {l : LAddr} {x : Hte} (h : Steady s₀ s) : Steady s₀ (backInvs ts ow l x s) := .foldl h (·.fwdSend)

theorem Steady.backInvalidate {r : Req} {k : Nat} (h : Steady s₀ s) : Steady s₀ (backInvalidate r k s).state := by
  unfold Machine.backInvalidate
  dsimp only
  split
  · exact h
  · exact .hOpen h (·.backInvs)

theorem Steady.cohFwd {r : Req} {a : CohAct} {x : Hte} (h : Steady s₀ s) : Steady s₀ (cohFwd r a x s) := by
  unfold Machine.cohFwd
  split
  exacts [h.fwdSend, h]

theorem Steady.cohInvs {r : Req} {a : CohAct} {x : Hte} (h : Steady s₀ s) : Steady s₀ (cohInvs r a x s) :=
  .when (.foldl h (·.fwdSend)) (·.hteMod.grantSend)

theorem Steady.cohFin {r : Req} {a : CohAct} {adj : State → State} (h : Steady s₀ s) (hadj : ∀ {t}, Steady s₀ t → Steady s₀ (adj t)) :
    Steady s₀ (cohFin r a adj s) := (hadj h.hteAdd.sedgeSet.splruTouch).cohFwd.cohInvs

theorem Steady.cohAct {r : Req} {a : CohAct} {adj : State → State} (h : Steady s₀ s) (hadj : ∀ {t}, Steady s₀ t → Steady s₀ (adj t)) :
    Steady s₀ (cohAct r a adj s).state := by
  unfold Machine.cohAct
  split
  · exact h
  · split
    · exact .cohFin (h.when (·.addServed)).watchAcc hadj
    · split
      · next e => exact .cohFin (h.memRead.ends e) hadj
      · exact h.memRead

theorem Steady.withRoom {r : Req} {k : Nat → StepRes} (h : Steady s₀ s) (hk : ∀ {a}, Steady s₀ (k a).state) : Steady s₀ (withRoom r k s).state := by
  unfold Machine.withRoom
  split
  exacts [hk, h.backInvalidate, h.occR.compTo]

theorem Steady.homeRdShr {r : Req} {ent : Option Nat} (h : Steady s₀ s) : Steady s₀ (homeRdShr r ent s).state := by
  unfold Machine.homeRdShr
  dsimp only
  split
  exacts [.withRoom h (.cohAct h id), .cohAct h id]

theorem Steady.homeRdUnq {r : Req} {ent : Option Nat} {adj : State → State} (h : Steady s₀ s) (hadj : ∀ {t}, Steady s₀ t → Steady s₀ (adj t)) :
    Steady s₀ (homeRdUnq r ent adj s).state := by
  unfold Machine.homeRdUnq
  dsimp only
  split
  exacts [.withRoom h (.cohAct h hadj), .cohAct h hadj]

theorem Steady.homeUpgrade {r : Req} {ent : Option Nat} (h : Steady s₀ s) : Steady s₀ (homeUpgrade r ent s).state := by
  unfold Machine.homeUpgrade
  dsimp only
  split
  · exact .homeRdUnq h id
  · split
    · exact .cohAct h id
    · exact .homeRdUnq h id

theorem Steady.takeSend {e : SedgeE} {l : LAddr} {x : Hte} {pull : Option Bool} {ts : List Nat} (h : Steady s₀ s) :
    Steady s₀ (takeSend e l x pull ts s) := by
  unfold Machine.takeSend
  dsimp only
  refine .foldl ?_ (fun h => ?_)
  · split
    exacts [h.fwdSend, h]
  · exact h.fwdSend

theorem Steady.homeTake {r : Req} {kind : HKind} {j : Nat} {pull : Option Bool} {invs : List Nat} {invOwner : Bool} {after : Option SedgeE}
    {adj : State → State} (h : Steady s₀ s) (hadj : ∀ {t}, Steady s₀ t → Steady s₀ (adj t)) :
    Steady s₀ (homeTake r kind j pull invs invOwner after adj s).state := by
  unfold Machine.homeTake
  dsimp only
  split
  · exact h
  · exact .hOpen (hadj h).splruTouch (·.takeSend)

theorem Steady.openDone {r : Req} {kind : HKind} (h : Steady s₀ s) : Steady s₀ (openDone r kind s) := h.hteAdd

theorem Steady.setPred {p : Store PredE} (h : Steady s₀ s) : Steady s₀ (setPred p s) := h.withHome

theorem Steady.nearAdj {r : Req} {p : Store PredE} (h : Steady s₀ s) : Steady s₀ (nearAdj r p s) :=
  h.setPred.occR

theorem Steady.farAdj {r : Req} {p : Store PredE} (h : Steady s₀ s) : Steady s₀ (farAdj r p s) :=
  h.setPred.addDemand.occR

theorem Steady.atomNear {r : Req} {ent : Option Nat} {p : Store PredE} (h : Steady s₀ s) :
    Steady s₀ (Machine.atomNear r ent p s).state := by
  unfold Machine.atomNear
  dsimp only
  split
  · exact .homeTake h (·.nearAdj)
  · split
    · exact h
    · split
      · next e => exact ((h.memOp.ends e).nearAdj).openDone
      · exact h.memOp

theorem Steady.homeAtomC {r : Req} {ent : Option Nat} (h : Steady s₀ s) : Steady s₀ (homeAtomC r ent s).state := by
  unfold Machine.homeAtomC
  dsimp only
  split
  · exact h.predCheck.atomNear
  · exact .homeRdUnq h.predCheck (·.farAdj)

theorem Steady.hitRead {j : Nat} {r : Req} (h : Steady s₀ s) : Steady s₀ (hitRead j r s).state := by
  unfold Machine.hitRead
  split
  · next e => exact (h.memRead.ends e).splruTouch
  · exact h.memRead

theorem Steady.homeRdOnce {r : Req} {ent : Option Nat} (h : Steady s₀ s) : Steady s₀ (homeRdOnce r ent s).state := by
  unfold Machine.homeRdOnce
  dsimp only
  split
  · exact h.memRead
  · split
    · exact h.hitRead
    · exact .homeTake h id

theorem Steady.relComp {r : Req} {stale : Bool} (h : Steady s₀ s) : Steady s₀ (relComp r stale s) := h.respond

theorem Steady.wbPullSend {r : Req} (h : Steady s₀ s) : Steady s₀ (wbPullSend r s) := h.respond

theorem Steady.homeEvict {r : Req} {ent : Option Nat} (h : Steady s₀ s) : Steady s₀ (homeEvict r ent s).state := by
  unfold Machine.homeEvict
  extract_lets
  split
  · exact h
  · split
    · exact h.relComp.openDone
    · extract_lets
      split
      · split
        · exact h.splruTouch.sedgeSet.relComp.openDone
        · exact h.splruTouch.sedgeSet.hteAdd
      · exact h.splruTouch.relComp.openDone

theorem Steady.wbTake {r : Req} {j : Nat} (h : Steady s₀ s) : Steady s₀ (wbTake r j s) := .hOpen h.splruTouch fun h => by
  split
  exacts [h.wbPullSend, h]

theorem Steady.homeWb {r : Req} {ent : Option Nat} (h : Steady s₀ s) : Steady s₀ (homeWb r ent s).state := by
  unfold Machine.homeWb
  dsimp only
  split
  · exact h
  · split
    · exact h.addServed.relComp
    · split
      · exact h.addServed.wbTake
      · split
        · exact h.addServed.homeEvict
        · exact h.addServed.splruTouch.relComp

theorem Steady.homeStep {r : Req} (h : Steady s₀ s) : Steady s₀ (homeStep r s).state := by
  unfold Machine.homeStep
  extract_lets l o s' ent res
  have hs : Steady s₀ s' := .foldl h (·.sedgeCheck)
  have hr : Steady s₀ res.state := by
    unfold res
    split_ifs
    exacts [hs.homeRdShr, .homeRdUnq hs id, hs.homeUpgrade, hs.homeAtomC, hs.homeRdOnce, hs.homeWb, hs.homeEvict]
  clear_value res
  split
  · exact hs.hAttach
  · cases res with
    | done => exact hr.occR
    | _ => exact hr

theorem Steady.enginePredict {r : Req} (h : Steady s₀ s) : Steady s₀ (enginePredict r s) := h.when (·.predict)

theorem Steady.gateGo {r : Req} (h : Steady s₀ s) : Steady s₀ (gateGo r s).state := by
  unfold Machine.gateGo
  split
  · next e => exact (h.memAccess.ends e).enginePredict
  · exact h.memAccess

theorem Steady.reclaimAdj {r : Req} (h : Steady s₀ s) : Steady s₀ (reclaimAdj r s) := h.enginePredict.occR

theorem Steady.gateEntry {r : Req} {j : Nat} (h : Steady s₀ s) : Steady s₀ (gateEntry r j s).state := by
  unfold Machine.gateEntry
  dsimp only
  split
  · split
    · exact h.hitRead
    · exact .homeTake h (·.reclaimAdj)
  · split
    · exact .homeTake h (·.reclaimAdj)
    · split
      · exact .homeTake h (·.reclaimAdj)
      · exact .homeTake h (·.reclaimAdj)

theorem Steady.homeGate {r : Req} (h : Steady s₀ s) : Steady s₀ (homeGate r s).state := by
  unfold Machine.homeGate
  dsimp only
  split
  · exact h.memAccess
  · split
    · exact .hAttach (.foldl h (·.sedgeCheck))
    · split
      exacts [.gateGo (.foldl h (·.sedgeCheck)), .gateEntry (.foldl h (·.sedgeCheck))]

theorem Steady.hteClose {id : Nat} (h : Steady s₀ s) : Steady s₀ (hteClose id s) :=
  .foldl h.hteDrop (fun h => .ite (.ite (.ite h.hteMod.wbPullSend h.hteMod.relComp) h.hteMod) h)

theorem Steady.snpAckAt {x : Hte} {m : Msg} (h : Steady s₀ s) : Steady s₀ (snpAckAt x m s) := by
  unfold Machine.snpAckAt
  dsimp only
  split
  exacts [h.ctlUse.hteMod, .ite h.ctlUse.hteMod.hTry (h.ctlUse.hteMod.when (·.hteMod.grantSend))]

theorem Steady.homeDataAt {x : Hte} {m : Msg} (h : Steady s₀ s) : Steady s₀ (homeDataAt x m s) := (h.ctlUse.when (·.logErr)).hteMod.hTry

theorem Steady.timeoutRecs {x : Hte} {poi : Bool} {l : List (BitVec 8)} (h : Steady s₀ s) : Steady s₀ (timeoutRecs x poi l s) :=
  .ite h.logErr (.foldl h (·.logErr))

theorem Steady.homeTimeoutAt {x : Hte} (h : Steady s₀ s) : Steady s₀ (homeTimeoutAt x s) :=
  .ite h.ctlUse.occR.timeoutRecs.respond.hteClose (.hEnd (.hteMod (.foldl ((h.ctlUse.occR.timeoutRecs.when (·.homePoison)).unless (·.reqFail)) (·.reqFail))))

end
end Sys2Proof.Machine
end

section
/-! SUPPORT. What stays of the queue, of presence and of power: Fen, classification, prefetch, the ports and M. -/

namespace Sys2Proof.Machine

-- One declaration after the other: the threads of declarations that wait for one another exhaust the memory that a compile may take.
set_option Elab.async false

section
variable {s₀ s t : State}

/-! ### Fen -/

theorem Steady.zeroFrames {fs : List Nat} {tc : BitVec 4} (h : Steady s₀ s) : Steady s₀ (zeroFrames fs tc s) :=
  .foldl { h with } (·.tagSet)

theorem Steady.dropFrames {fs : List Nat} (h : Steady s₀ s) : Steady s₀ (dropFrames fs s) := .foldl h (·.tagSet)

theorem Steady.segMod {i : Nat} {f : Seg → Seg} (h : Steady s₀ s) : Steady s₀ (segMod i f s) := h.withFen

theorem Steady.frameRead {j : Option Subj} {k : Nat} (h : Steady s₀ s) : Steady s₀ (frameRead j k s).2 := by
  unfold Machine.frameRead
  dsimp only
  split
  · exact h.setCheck
  · exact h.setCheck.wayCheck

theorem Steady.frameWrite {k : Nat} {d : Line} {m : Mask} {clears taint : Bool} (h : Steady s₀ s) : Steady s₀ (frameWrite k d m clears taint s) :=
  h.unless (·.tagSet.dataPut)

theorem Steady.regionMod {i : Nat} {f : Region → Region} (h : Steady s₀ s) : Steady s₀ (regionMod i f s) := h.withFen

theorem Steady.accWrite {r : Region} {n v : Nat} (h : Steady s₀ s) : Steady s₀ (accWrite r n v s) := .foldl h (·.dataPut)

theorem Steady.groupCheck {j : Option Subj} {r : Region} {g : Nat} (h : Steady s₀ s) : Steady s₀ (groupCheck j r g s).2 :=
  .foldlSnd h (·.frameRead)

theorem Steady.contribute {q : ExactReq} {r : Region} {c : Contr} (h : Steady s₀ s) : Steady s₀ (contribute q r c s).2 := by
  unfold Machine.contribute
  dsimp only
  split
  · exact h.groupCheck.poisonGroup
  · exact (h.groupCheck.when (·.occR)).occR.accWrite

theorem Steady.exactPush {r : Req} {rid : Nat} {taint : Bool} (h : Steady s₀ s) : Steady s₀ (exactPush r rid taint s).state := by
  unfold Machine.exactPush
  dsimp only
  split
  · exact h
  · exact h.addServed.watchAcc.withFen

theorem Steady.exactPop (h : Steady s₀ s) : Steady s₀ (exactPop s) := { h with }

theorem Steady.exactOne (h : Steady s₀ s) : Steady s₀ (exactOne s) := by
  unfold Machine.exactOne
  split
  · exact h
  · next q _ _ =>
    extract_lets s'
    have hs : Steady s₀ s' := h.ctlUse
    split
    · exact hs.exactPop
    · next r _ =>
      extract_lets x
      have hx : Steady s₀ x.2 := .foldlSnd hs (·.contribute)
      exact .ite hx.exactPop.reqTally.deliverComp hx.withFen

theorem Steady.chainData {r : Req} {epoch : Nat} {d : Line} {poi : Bool} (h : Steady s₀ s) : Steady s₀ (chainData r epoch d poi s) := by
  unfold Machine.chainData
  exact h.emit

theorem Steady.fenCount {r : Req} (h : Steady s₀ s) : Steady s₀ (fenCount r s) := .ite h.occR (.ite h.occR.addServed h.addServed)

theorem Steady.fenStep {r : Req} {l : FenLoc} (h : Steady s₀ s) : Steady s₀ (fenStep r l s).state := by
  unfold Machine.fenStep
  dsimp only
  split
  · split
    · next e => exact (h.exactPush.ends e).when (·.occR)
    · exact h.exactPush
  · split
    · exact h.fenCount.setCheck.frameWrite.writeEnd
    · split
      · exact h.fenCount.frameRead.opOn.frameWrite
      · split
        · exact h.fenCount.frameRead.watchAcc.chainData
        · exact h.fenCount.frameRead.watchAcc.deliverRead

theorem Steady.xferMod {seg : Nat} {f : Xfer → Xfer} (h : Steady s₀ s) : Steady s₀ (xferMod seg f s) := h.withFen

theorem Steady.xferEnd {seg : Nat} (h : Steady s₀ s) : Steady s₀ (xferEnd seg s) := by
  unfold Machine.xferEnd
  dsimp only
  split
  · exact h
  · split
    · exact h
    · split
      exacts [h.withFen.mbxDone, h.withFen.mbxDone]

theorem Steady.xferIssue {x : Xfer} {g : Seg} (h : Steady s₀ s) : Steady s₀ (xferIssue x g s) :=
  .ite h.xferMod.ownRead (.ite h.useSlot.frameRead.xferMod.xferEnd h.useSlot.frameRead.xferMod.ownWriteLine)

theorem Steady.xferAnswer {x : Xfer} {g : Seg} {off st : Nat} {d : Line} (h : Steady s₀ s) : Steady s₀ (xferAnswer x g off st d s) :=
  .xferEnd (.unless (.ite (.ite (h.xferMod.useSlot.setCheck.frameWrite.watchAcc.when (·.tallyAdd)) h.xferMod)
    (.ite (h.xferMod.when (·.tallyAdd)) h.xferMod)) (·.xferMod))

theorem Steady.flipTake {g : Seg} {f : Flip} (h : Steady s₀ s) : Steady s₀ (flipTake g f s) := (h.segMod.when (·.tallyAdd)).traceEv

theorem Steady.regionOpenAt {r : Region} (h : Steady s₀ s) : Steady s₀ (regionOpenAt r s) :=
  (h.zeroFrames.regionMod.when (·.tallyAdd)).traceEv.mbxDone

theorem Steady.resolveEnd {r : Region} {x : Resolve} (h : Steady s₀ s) : Steady s₀ (resolveEnd r x s) :=
  (h.withFen.when (·.tallyAdd)).traceEv.dropFrames

theorem Steady.resolveOcc {f acc v : Nat} {poi : Bool} (h : Steady s₀ s) : Steady s₀ (resolveOcc f acc v poi s) := h.occU.occU.occU.occU.occU

theorem Steady.groupNoted {r : Region} {x : List Nat × State} {g : Nat} (h : Steady s₀ x.2) : Steady s₀ (groupNoted r x g).2 := by
  dsimp only [Machine.groupNoted]
  exact h.groupCheck

theorem Steady.resolveLine {r : Region} {i : Nat} (h : Steady s₀ s) : Steady s₀ (resolveLine r i s) := by
  unfold Machine.resolveLine
  split
  · exact h
  · extract_lets f sz per ns groups y
    have hy : Steady s₀ y.2 := .foldlSnd (f := Machine.groupNoted r) (x := ([], s)) h (·.groupNoted)
    clear_value y
    exact .watchAcc (.frameWrite (.setCheck (.useSlot (.foldl hy (·.resolveOcc)))))

/-! ### Regul -/

theorem Steady.winStart {c : Nat} {t : FT} (h : Steady s₀ s) : Steady s₀ (winStart c t s) := h.winSet

theorem Steady.winRestart (h : Steady s₀ s) : Steady s₀ (winRestart s) := .foldl h.withRegul (·.winStart)

theorem Steady.winNote (h : Steady s₀ s) : Steady s₀ (winNote s) := .foldl h (·.winSet)

theorem Steady.winEnd {c : Nat} (h : Steady s₀ s) : Steady s₀ (winEnd c s) := (h.when (·.occ.notice.traceEv.trigger)).winStart

/-! ### Classify -/

theorem Steady.refuseMsg {p : Port} {m : Msg} {st : Nat} (h : Steady s₀ s) : Steady s₀ (refuseMsg p m st s) := h.occP.compTo

theorem Steady.passes {p : Port} {j : Subj} (h : Steady s₀ s) : Steady s₀ (passes p j s) := h.occP.when (·.withCtr)

theorem Steady.zeroMsg {p : Port} {m : Msg} (h : Steady s₀ s) : Steady s₀ (zeroMsg p m s) := h.passes.compTo

theorem Steady.passClass {r : Req} (h : Steady s₀ s) : Steady s₀ (passClass r s) := h.passes

/-! ### Prefetch -/

theorem Steady.streamCheck {i : Nat} (h : Steady s₀ s) : Steady s₀ (streamCheck i s) := .ite { h with } h

theorem Steady.candAdd {r : Req} {l : LAddr} (h : Steady s₀ s) : Steady s₀ (candAdd r l s) := .ite h.occR h.withPf

theorem Steady.candRun {r : Req} {l : LAddr} {d : Int} {n k : Nat} (h : Steady s₀ s) : Steady s₀ (candRun r l d n k s) := by
  induction n generalizing k s with
  | zero => exact h
  | succ n ih =>
    unfold Machine.candRun
    split
    exacts [h.candAdd |> ih |> fun k => .ite k h, h]

theorem Steady.train {r : Req} (h : Steady s₀ s) : Steady s₀ (train r s) := by
  unfold Machine.train
  dsimp only
  split
  · exact h
  · split
    exacts [h.streamCheck.occR.withPf.when (·.candRun), h.streamCheck.occR.withPf]

/-! ### Ports -/

/-! The credits of a port (R227, R229, R331). -/

section
variable {x : PortSt}

end

theorem Steady.popIng {p : DPort} {i : Nat} (h : Steady s₀ s) : Steady s₀ (popIng p i s) := by
  unfold Machine.popIng
  dsimp only
  split
  exacts [h, h.portSet]

theorem Steady.recvBeats {m : Msg} (h : Steady s₀ s) : Steady s₀ (recvBeats m s) := h.fctr

theorem Steady.creditPass {p : DPort} {m : Msg} {c : Nat} (h : Steady s₀ s) : Steady s₀ (creditPass p m c s) :=
  .ite h.portSet h.occP

theorem Steady.placeIng {p : DPort} {r : Req} {c : BitVec 4} (h : Steady s₀ s) : Steady s₀ (placeIng p r c s) :=
  .ite h.portSet (.ite h.occR.portSet h.occR.portSet)

theorem Steady.regArrive {p : DPort} {m : Msg} {tc qc : BitVec 4} (h : Steady s₀ s) : Steady s₀ (regArrive p m tc qc s) :=
  .ite (.creditPass h.passes.portSet) h.passes.placeIng

theorem Steady.regFill {p : DPort} (h : Steady s₀ s) : Steady s₀ (regFill p s) := h.portSet

theorem Steady.ingressD {p : DPort} {m : Msg} {qc : BitVec 4} (h : Steady s₀ s) : Steady s₀ (ingressD p m qc s) := by
  unfold Machine.ingressD
  dsimp only
  split
  · exact (h.recvBeats.when (·.occP)).refuseMsg.creditPass
  · exact (h.recvBeats.when (·.occP)).zeroMsg.creditPass
  · exact (h.recvBeats.when (·.occP)).regArrive
  · exact (h.recvBeats.when (·.occP)).passClass.addDemand.placeIng

theorem Steady.reedMark {t : Nat} {m : Msg} {n : Nat} (h : Steady s₀ s) : Steady s₀ (reedMark t m n s) := h.withSout

theorem Steady.ingressS {m : Msg} (h : Steady s₀ s) : Steady s₀ (ingressS m s) := by
  unfold Machine.ingressS
  dsimp only
  split
  exacts [h.recvBeats.refuseMsg.reedMark, h.recvBeats.zeroMsg.reedMark, h.recvBeats, h.recvBeats.passClass.withSq]

theorem Steady.reqStep {r : Req} (h : Steady s₀ s) : Steady s₀ (reqStep r s).state := by
  unfold Machine.reqStep
  split
  · exact h.fenStep
  · split
    · exact h.homeStep
    · exact h.homeGate

theorem Steady.holdCount {x : Hold} {r : Req} (h : Steady s₀ s) : Steady s₀ (holdCount x r s) := by
  unfold Machine.holdCount
  dsimp only
  split
  exacts [h.occR.occR, h.occR.occR, h.occR.occR, h.occR.occR, h.occR.occR, h.occR, h.occR]

theorem Steady.portEnd {p : DPort} {i : Nat} {g : Ing} {x : StepRes} (h : Steady s₀ x.state) : Steady s₀ (portEnd p i g x) := by
  cases x with
  | done t => exact (Steady.reqSlot h).bankWaits.popIng
  | attached t => exact (Steady.reqSlot h).popIng
  | hold w t =>
    have hy : Steady s₀ (if g.held then Machine.holdCount w g.req (Machine.reqSlot (reqPipe t g.req) false (subjReq g.req) t) else
      Machine.traceEv (holdEv (Machine.holdCount w g.req (Machine.reqSlot (reqPipe t g.req) false (subjReq g.req) t)) w g.req)
        (Machine.holdCount w g.req (Machine.reqSlot (reqPipe t g.req) false (subjReq g.req) t))) :=
      .unless (.holdCount (.reqSlot h)) (·.traceEv)
    exact hy.portSet

theorem Steady.portPick {p : DPort} {i : Nat} {g : Ing} {floor : Bool} (h : Steady s₀ s) : Steady s₀ (portPick p i g floor s) := by
  unfold Machine.portPick
  extract_lets src s'
  have hs : Steady s₀ s' := .ite h.occR h.portSet
  exact hs.unless fun hs => .train hs.portSet

theorem Steady.portStep {p : DPort} {op : Nat} (h : Steady s₀ s) : Steady s₀ (portStep p op s) := by
  unfold Machine.portStep
  split
  exacts [h, h.unless (·.portPick.reqStep.portEnd)]

theorem Steady.sStep {op : Nat} (h : Steady s₀ s) : Steady s₀ (sStep op s) := by
  unfold Machine.sStep
  split
  · exact h
  · split
    · exact h
    · split
      · next e => exact (h.withSq.reqStep.ends e).reqSlot.bankWaits.reedMark
      · next e => exact (h.withSq.reqStep.ends e).reqSlot.bankWaits.reedMark
      · next e => exact (h.withSq.reqStep.ends e).reqSlot.bankWaits.reedMark

/-! ### Mport -/

theorem Steady.keySet {t : Nat} {k : Key} (h : Steady s₀ s) : Steady s₀ (keySet t k s) := { h with }

theorem Steady.macSend {t : Nat} {l : LAddr} {mac : BitVec 64} {k : OwnKind} (h : Steady s₀ s) : Steady s₀ (macSend t l mac k s) := h.ownWritePart

theorem Steady.setMCmd {w : BitVec 64} {d : Option (Line × Mask)} (h : Steady s₀ s) : Steady s₀ (setMCmd w d s) := h.withPins

theorem Steady.readIssue {e : Miss} (h : Steady s₀ s) : Steady s₀ (readIssue e s) := by
  unfold Machine.readIssue
  dsimp only
  split
  · refine .ownSend ?_
    split
    exacts [h.withMp.setMCmd.missMod.fctr.occR, h.withMp.setMCmd.missMod.fctr.occU]
  · split
    exacts [h.withMp.setMCmd.missMod.fctr.occR, h.withMp.setMCmd.missMod.fctr.occU]

theorem Steady.workSent {w : MWork} {sl : Bool} (h : Steady s₀ s) : Steady s₀ (workSent w sl s) := by
  unfold Machine.workSent
  dsimp only
  split
  exacts [h.mireMod, h, h.withMp, h]

theorem Steady.writeIssue {q : Nat × MWork} (h : Steady s₀ s) : Steady s₀ (writeIssue q s) := by
  unfold Machine.writeIssue
  dsimp only
  split
  · split
    exacts [h.withMp.mireCheck, h.withMp.missCheck, h.withMp]
  · split
    · refine .macSend ?_
      refine .workSent ?_
      refine .withMp ?_
      split
      · refine .plistAdd ?_
        refine .fctr ?_
        refine .occ ?_
        refine .setMCmd ?_
        split
        exacts [h.withMp.mireCheck, h.withMp.missCheck, h.withMp]
      · refine .fctr ?_
        refine .occ ?_
        refine .setMCmd ?_
        split
        exacts [h.withMp.mireCheck, h.withMp.missCheck, h.withMp]
    · refine .workSent ?_
      refine .withMp ?_
      split
      · refine .plistAdd ?_
        refine .fctr ?_
        refine .occ ?_
        refine .setMCmd ?_
        split
        exacts [h.withMp.mireCheck, h.withMp.missCheck, h.withMp]
      · refine .fctr ?_
        refine .occ ?_
        refine .setMCmd ?_
        split
        exacts [h.withMp.mireCheck, h.withMp.missCheck, h.withMp]

theorem Steady.mIssue (h : Steady s₀ s) : Steady s₀ (mIssue s) := by
  unfold Machine.mIssue
  dsimp only
  split
  exacts [.ite h.writeIssue h.readIssue, h.readIssue, h.writeIssue, h]

theorem Steady.mCredit {write : Bool} (h : Steady s₀ s) : Steady s₀ (mCredit write s) := .ite h.withMp h.withMp

theorem Steady.fillTry {i : Nat} (h : Steady s₀ s) : Steady s₀ (fillTry i s) := by
  unfold Machine.fillTry
  dsimp only
  split
  · exact h.missCheck
  · split
    · exact h.missCheck
    · split
      · exact (h.missCheck.unless (·.logErr)).fillServe
      · split
        · exact h.missCheck
        · refine .fillServe ?_
          split
          · exact h.missCheck.unless (·.logErr)
          · split
            exacts [(h.missCheck.unless (·.logErr)).logErr.occR, (h.missCheck.unless (·.logErr)).logErr.occU]

theorem Steady.thruSend {e : Miss} (h : Steady s₀ s) : Steady s₀ (thruSend e s) := .foldl h (·.mwPush)

theorem Steady.fillInstallAt {e : Miss} (h : Steady s₀ s) : Steady s₀ (fillInstallAt e s) := by
  unfold Machine.fillInstallAt
  dsimp only
  split
  · next e => exact (h.missCheck.tryInstall.get e).missDrop.thruSend.useSlot
  · exact h.missCheck
  · split
    · refine .mwPush ?_
      refine .missMod ?_
      refine .useSlot ?_
      split
      exacts [h.missCheck.occR, h.missCheck.occU]
    · refine .missDrop ?_
      refine .useSlot ?_
      split
      exacts [h.missCheck.occR, h.missCheck.occU]

theorem Steady.drainTry (h : Steady s₀ s) : Steady s₀ (drainTry s) := by
  unfold Machine.drainTry
  dsimp only
  split
  exacts [h, h.when (·.withSrv.mbxDone)]

theorem Steady.mireFree {i : Nat} (h : Steady s₀ s) : Steady s₀ (mireFree i s) := by
  unfold Machine.mireFree
  dsimp only
  split
  exacts [h, .ite h (.ite h.mireMod.mwPush (h.unless (·.withMp.drainTry)))]

theorem Steady.cleanFree {k : Nat} (h : Steady s₀ s) : Steady s₀ (cleanFree k s) := by
  unfold Machine.cleanFree
  dsimp only
  split
  exacts [h, h.unless (·.withMp.drainTry)]

theorem Steady.wackAt {t : MTag} {l : LAddr} {tc : BitVec 4} {err : Bool} (h : Steady s₀ s) : Steady s₀ (wackAt t l tc err s) := by
  unfold Machine.wackAt
  dsimp only
  split
  · exact (h.withMp.when (·.plistAdd)).mireMod.mireFree
  · exact (h.withMp.when (·.plistAdd)).missDrop
  · exact (h.withMp.when (·.plistAdd)).withMp.cleanFree
  · exact h.withMp.when (·.plistAdd)

theorem Steady.macWriteAt {k : OwnKind} {st : Nat} (h : Steady s₀ s) : Steady s₀ (macWriteAt k st s) := by
  unfold Machine.macWriteAt
  dsimp only
  split
  · split
    exacts [h, (h.mireMod.unless (·.logErr)).mireFree]
  · split
    exacts [h, (h.withMp.unless (·.logErr)).cleanFree]
  · exact h.unless (·.logErr)
  · exact h

/-! ### Tally -/

theorem Steady.twaitComp {r : Req} {st : Nat} (h : Steady s₀ s) : Steady s₀ (twaitComp r st s) := h.compTo

theorem Steady.twaitAt {r : Req} (h : Steady s₀ s) : SomeSteady s₀ (twaitAt r s) := by
  unfold Machine.twaitAt
  dsimp only
  split
  · exact h.tallyUse.occR.twaitComp
  · split
    · exact h.tallyUse.occR.compTo
    · split
      · exact trivial
      · exact h.tallyUse.withTal.occR.traceEv

theorem Steady.portPass {p : DPort} {op : Nat} {f : Req → State → Option State} (h : Steady s₀ s) (hf : ∀ {a t}, Steady s₀ t → SomeSteady s₀ (f a t)) :
    Steady s₀ (portPass p op f s) := by
  unfold Machine.portPass
  split
  · exact h
  · split
    · exact h
    · split
      · next e => exact ((hf h.portPick).get e).popIng
      · exact h

theorem Steady.twaitDeadlineAt {k : Nat} (h : Steady s₀ s) : Steady s₀ (twaitDeadlineAt k s) := by
  unfold Machine.twaitDeadlineAt
  dsimp only
  split
  · exact h
  · split
    exacts [h, h.ctlUse.withTal.occU.notice.traceEv]

theorem Steady.releaseAt {k : Nat} (h : Steady s₀ s) : Steady s₀ (releaseAt k s) := by
  unfold Machine.releaseAt
  dsimp only
  split
  exacts [h, h.unless (·.twaitDeadlineAt.ctlUse.withTal.occR.traceEv.compTo)]

theorem Steady.resolveDeadlineAt {rid : Nat} (h : Steady s₀ s) : Steady s₀ (resolveDeadlineAt rid s) := by
  unfold Machine.resolveDeadlineAt
  dsimp only
  split
  · exact h
  · split
    · exact h
    · split
      exacts [h, h.regionMod.occU.notice.traceEv]

theorem Steady.releaseAll {n : Nat} (h : Steady s₀ s) : Steady s₀ (releaseAll n s) := by
  induction n generalizing s with
  | zero => exact h
  | succ n ih =>
    unfold Machine.releaseAll
    split
    exacts [ih h.releaseAt, h]

theorem Steady.reportAll (h : Steady s₀ s) : Steady s₀ (reportAll s) := .foldl (.foldl h (·.twaitDeadlineAt)) (·.resolveDeadlineAt)

theorem Steady.tallyTick (h : Steady s₀ s) : Steady s₀ (tallyTick s) := by
  unfold Machine.tallyTick
  extract_lets s'
  have hs : Steady s₀ s' := h.reportAll.releaseAll
  clear_value s'
  exact { hs with }

end
end Sys2Proof.Machine
end

section
/-! SUPPORT. What stays of the queue, of presence and of power: ingress and the data commands. -/

namespace Sys2Proof.Machine

-- One declaration after the other: the threads of declarations that wait for one another exhaust the memory that a compile may take.
set_option Elab.async false

section
variable {s₀ s t : State}

/-! ### Cmd -/

theorem Steady.cmdRun {op : Nat} {sub : State → Nat → Bool} {f : Nat → State → State} (h : Steady s₀ s)
    (hf : ∀ {a t}, Steady s₀ t → Steady s₀ (f a t)) :
    Steady s₀ (cmdRun op sub f s) := by
  unfold Machine.cmdRun
  dsimp only
  split
  · exact h
  · split
    exacts [h, .ite (hf h.withStartQ.mbxSet) h]

theorem Steady.checked {t : Nat} {l : List (Bool × Nat)} {res : State → List Nat} {f : State → State} (h : Steady s₀ s)
    (hf : ∀ {t}, Steady s₀ t → Steady s₀ (f t)) : Steady s₀ (checked t l res f s) := by
  unfold Machine.checked
  split
  exacts [h.mbxDone, (hf h)]

/-! ### Count -/

theorem Steady.ctrPut {n : Nat} {c : Ctr} (h : Steady s₀ s) : Steady s₀ (ctrPut n c s) := { h with }

theorem Steady.sampTake {n place : Nat} {r : Option Rec} (h : Steady s₀ s) : Steady s₀ (sampTake n place r s) := h.withCtr

theorem Steady.dumpPump {k : Nat} (h : Steady s₀ s) : Steady s₀ (dumpPump k s) := by
  induction k generalizing s with
  | zero => exact h
  | succ k ih =>
    unfold Machine.dumpPump
    split
    · exact h
    · exact h.unless fun h => ih h.withCtr.ownWriteLine

theorem Steady.capAt {c : CapReq} (h : Steady s₀ s) : Steady s₀ (capAt c s) := h.withCtr

/-! ### Ingress -/

theorem Steady.execRequestIngress {p : DPort} {m : Msg} {qc : BitVec 4} (h : Steady s₀ s) : NextSteady s₀ (execRequestIngress p m qc s) :=
  .ite (h.when (·.ingressD)) (h.when (·.recvBeats.refuseMsg))

theorem Steady.execSPortRequest {m : Msg} (h : Steady s₀ s) : NextSteady s₀ (execSPortRequest m s) := h.when (·.ingressS)

theorem Steady.execCreditLend {p : DPort} {qwant : BitVec 16} (h : Steady s₀ s) : NextSteady s₀ (execCreditLend p qwant s) := by
  unfold Machine.execCreditLend
  dsimp only [NextSteady]
  split
  · split
    · exact h
    · exact h.portSet.occ
  · exact h

theorem Steady.anyStep {p : Port} {op : Nat} (h : Steady s₀ s) : Steady s₀ (anyStep p op s) := by
  unfold Machine.anyStep
  split
  exacts [h.portStep, h.portStep, h.sStep]

theorem Steady.execRd {p : Port} (h : Steady s₀ s) : NextSteady s₀ (execRd p s) := h.anyStep

theorem Steady.execWr {p : Port} (h : Steady s₀ s) : NextSteady s₀ (execWr p s) := h.anyStep

theorem Steady.execRed {p : DPort} (h : Steady s₀ s) : NextSteady s₀ (execRed p s) := h.portStep

theorem Steady.execAtom {p : DPort} (h : Steady s₀ s) : NextSteady s₀ (execAtom p s) := h.portStep

theorem Steady.execTwait {p : DPort} (h : Steady s₀ s) : NextSteady s₀ (execTwait p s) := .portPass h (·.twaitAt)

theorem Steady.execTread {p : DPort} (h : Steady s₀ s) : NextSteady s₀ (execTread p s) := .portPass h (·.tallyUse.twaitComp)

theorem Steady.execChainRd (h : Steady s₀ s) : NextSteady s₀ (execChainRd s) := h.sStep

theorem Steady.execRdShr {p : DPort} (h : Steady s₀ s) : NextSteady s₀ (execRdShr p s) := h.portStep

theorem Steady.execRdUnq {p : DPort} (h : Steady s₀ s) : NextSteady s₀ (execRdUnq p s) := h.portStep

theorem Steady.execUpgrade {p : DPort} (h : Steady s₀ s) : NextSteady s₀ (execUpgrade p s) := h.portStep

theorem Steady.execWb {p : DPort} (h : Steady s₀ s) : NextSteady s₀ (execWb p s) := h.portStep

theorem Steady.execEvict {p : DPort} (h : Steady s₀ s) : NextSteady s₀ (execEvict p s) := h.portStep

theorem Steady.execAtomC {p : DPort} (h : Steady s₀ s) : NextSteady s₀ (execAtomC p s) := h.portStep

theorem Steady.execRdOnce {p : DPort} (h : Steady s₀ s) : NextSteady s₀ (execRdOnce p s) := h.portStep

theorem Steady.execHeldRequestRepresent {p : DPort} {k : Nat} (h : Steady s₀ s) : NextSteady s₀ (execHeldRequestRepresent p k s) := by
  unfold Machine.execHeldRequestRepresent
  dsimp only [NextSteady]
  split
  · split
    · exact h.when (·.portSet)
    · exact h
  · exact h

theorem Steady.execTwaitRelease {k : Nat} (h : Steady s₀ s) : NextSteady s₀ (execTwaitRelease k s) := h.releaseAt

theorem Steady.execTallyDeadline {k : Nat} (h : Steady s₀ s) : NextSteady s₀ (execTallyDeadline k s) := h.twaitDeadlineAt

/-! ### CountCmds -/

theorem Steady.ctrCmd {f : Nat → State → State} {t : Nat} (h : Steady s₀ s) (hf : ∀ {a t}, Steady s₀ t → Steady s₀ (f a t)) :
    Steady s₀ (ctrCmd f t s) := .checked h hf

theorem Steady.ctrEach {g : Nat → State → State} {t : Nat} (h : Steady s₀ s) (hg : ∀ {a t}, Steady s₀ t → Steady s₀ (g a t)) :
    Steady s₀ (ctrEach g t s) := .mbxDone (.foldl h hg)

theorem Steady.execCtrRead (h : Steady s₀ s) : NextSteady s₀ (execCtrRead s) := .cmdRun h (fun h => .ctrCmd h (·.mbxWork.capAt))

theorem Steady.ctrReset {n : Nat} {v : BitVec 48} (h : Steady s₀ s) : Steady s₀ (ctrReset n v s) := h.withCtr

theorem Steady.execCtrLoad (h : Steady s₀ s) : NextSteady s₀ (execCtrLoad s) :=
  .cmdRun h (fun h => .ctrCmd h (fun h => .ctrEach h (·.ctrPut.ctrReset)))

theorem Steady.execCtrZero (h : Steady s₀ s) : NextSteady s₀ (execCtrZero s) := .cmdRun h (fun h => .ctrCmd h (fun h => .ctrEach h (·.ctrReset)))

theorem Steady.ctrRunSet {b : Bool} {t : Nat} (h : Steady s₀ s) : Steady s₀ (ctrRunSet b t s) := .ctrEach h (·.ctrPut)

theorem Steady.execCtrStop (h : Steady s₀ s) : NextSteady s₀ (execCtrStop s) := .cmdRun h (fun h => .ctrCmd h (·.ctrRunSet))

theorem Steady.execCtrStart (h : Steady s₀ s) : NextSteady s₀ (execCtrStart s) := .cmdRun h (fun h => .ctrCmd h (·.ctrRunSet))

theorem Steady.nativeEnd {x : NatPend} (h : Steady s₀ s) : Steady s₀ (nativeEnd x s) := h.withCtr.sampTake

theorem Steady.execNativeSampleSubject {n : Fin 64} (h : Steady s₀ s) : NextSteady s₀ (execNativeSampleSubject n s) := by
  unfold Machine.execNativeSampleSubject
  split
  exacts [h.nativeEnd, h]

theorem Steady.execNativeSampleExpiry {n : Fin 64} (h : Steady s₀ s) : NextSteady s₀ (execNativeSampleExpiry n s) := by
  unfold Machine.execNativeSampleExpiry
  split
  exacts [h.nativeEnd, h]

theorem Steady.execPeriodicSample {n : Fin 64} (h : Steady s₀ s) : NextSteady s₀ (execPeriodicSample n s) := h.when (·.ctrPut.sampTake)

theorem Steady.execSampleWrite (h : Steady s₀ s) : NextSteady s₀ (execSampleWrite s) := by
  unfold Machine.execSampleWrite
  dsimp only
  split
  exacts [h, h.unless (·.withCtr.ownWritePart)]

theorem Steady.execDumpNow (h : Steady s₀ s) : NextSteady s₀ (execDumpNow s) := .cmdRun h (fun h => .checked h (·.capAt.mbxDone))

theorem Steady.execDumpRingReset (h : Steady s₀ s) : NextSteady s₀ (execDumpRingReset s) := .cmdRun h (fun h => .checked h (·.withCtr.mbxDone))

theorem Steady.execDump (h : Steady s₀ s) : NextSteady s₀ (execDump s) := Steady.ite (.ite h.withCtr h.withCtr.capAt) h

theorem Steady.ringFault {addr seq src st : Nat} (h : Steady s₀ s) : Steady s₀ (ringFault addr seq src st s) := h.unless (·.occU.notice.raise)

theorem Steady.execDmaWriteComp {txid : BitVec 16} {status : BitVec 3} (h : Steady s₀ s) : NextSteady s₀ (execDmaWriteComp txid status s) := by
  unfold Machine.execDmaWriteComp
  dsimp only [NextSteady]
  split
  · exact .dumpPump (h.ownDrop.ringFault.when (·.raise))
  · exact h.ownDrop.ringFault.dumpPump
  · exact h

theorem Steady.execTierTempGauge {readings : BitVec 64} (h : Steady s₀ s) : NextSteady s₀ (execTierTempGauge readings s) :=
  .ite (.foldl h.withCtr (fun h => h.when (·.ctrPut))) h

/-! ### HomeCmds -/

theorem Steady.answerAt {op vc : Nat} {m : Msg} {f : Hte → State → State} (h : Steady s₀ s) (hf : ∀ {a t}, Steady s₀ t → Steady s₀ (f a t)) :
    Steady s₀ (answerAt op vc m f s) := by
  unfold Machine.answerAt
  split
  · exact h
  · split
    · exact h.recvBeats
    · split
      exacts [h, (hf h.recvBeats.useSlot)]

theorem Steady.execSnpAck {p : DPort} {m : Msg} (h : Steady s₀ s) : NextSteady s₀ (execSnpAck p m s) := .answerAt h (·.snpAckAt)

theorem Steady.execCompAck {p : DPort} {m : Msg} (h : Steady s₀ s) : NextSteady s₀ (execCompAck p m s) := .answerAt h (·.ctlUse.hteClose)

theorem Steady.execDataHome {p : DPort} {m : Msg} (h : Steady s₀ s) : NextSteady s₀ (execDataHome p m s) := .answerAt h (·.homeDataAt)

theorem Steady.execWbData {p : DPort} {m : Msg} (h : Steady s₀ s) : NextSteady s₀ (execWbData p m s) := .answerAt h (·.homeDataAt)

theorem Steady.execHteDeferredWrite {x : Fin 256} (h : Steady s₀ s) : NextSteady s₀ (execHteDeferredWrite x s) := by
  unfold Machine.execHteDeferredWrite
  dsimp only
  split
  exacts [h.when (·.hTry.useSlot), h]

theorem Steady.relookAt {k : Nat} (h : Steady s₀ s) : Steady s₀ (relookAt k s) := by
  unfold Machine.relookAt
  dsimp only
  split
  · exact h
  · split
    · exact h
    · split
      · next e => exact (h.withHome.reqStep.ends e).reqSlot
      · next e => exact (h.withHome.reqStep.ends e).reqSlot
      · next e => exact (h.withHome.reqStep.ends e).withHome.reqSlot.holdCount

theorem Steady.execHteRelookup {k : Nat} (h : Steady s₀ s) : NextSteady s₀ (execHteRelookup k s) := h.relookAt

theorem Steady.execHomeTimeout {x : Fin 256} (h : Steady s₀ s) : NextSteady s₀ (execHomeTimeout x s) := by
  unfold Machine.execHomeTimeout
  split
  exacts [h.when (·.useSlot.homeTimeoutAt), h]

theorem Steady.execUnmatchedAnswer {p : DPort} {m : Msg} (h : Steady s₀ s) : NextSteady s₀ (execUnmatchedAnswer p m s) :=
  h.when (·.recvBeats.useSlot.occU)

theorem Steady.execUnexpectedMessage {p : DPort} {m : Msg} (h : Steady s₀ s) : NextSteady s₀ (execUnexpectedMessage p m s) :=
  h.when (·.recvBeats.occU)

theorem Steady.execTempRpt {p : DPort} {m : Msg} (h : Steady s₀ s) : NextSteady s₀ (execTempRpt p m s) := .ite (h.recvBeats.when (·.withRegul)) h

/-! ### MemCmds -/

theorem Steady.execMCommandIssue (h : Steady s₀ s) : NextSteady s₀ (execMCommandIssue s) := h.mIssue

theorem Steady.execMCreditReturn {write : Bool} (h : Steady s₀ s) : NextSteady s₀ (execMCreditReturn write s) := h.when (·.mCredit)

theorem Steady.execMReadData {e : Fin 1024} {d : Line} {poi : BitVec 2} (h : Steady s₀ s) : NextSteady s₀ (execMReadData e d poi s) := by
  unfold Machine.execMReadData
  split
  · split
    · exact h.missMod.fillTry
    · exact trivial
  · exact trivial

theorem Steady.execFillInstall {e : Fin 1024} (h : Steady s₀ s) : NextSteady s₀ (execFillInstall e s) := by
  unfold Machine.execFillInstall
  split
  exacts [h.when (·.fillInstallAt), h]

theorem Steady.execMWriteAck {t : MTag} {err : Bool} (h : Steady s₀ s) : NextSteady s₀ (execMWriteAck t err s) := by
  unfold Machine.execMWriteAck
  split
  exacts [h.wackAt, trivial]

theorem Steady.execSealMacReadData {e : Fin 1024} {status : BitVec 3} {mac : BitVec 64} (h : Steady s₀ s) :
    NextSteady s₀ (execSealMacReadData e status mac s) := by
  unfold Machine.execSealMacReadData
  split
  exacts [h, h.ownDrop.missMod.fillTry]

theorem Steady.execMacWriteComp {txid : BitVec 16} {status : BitVec 3} (h : Steady s₀ s) : NextSteady s₀ (execMacWriteComp txid status s) := by
  unfold Machine.execMacWriteComp
  split
  · split
    exacts [h.ownDrop.macWriteAt, h.ownDrop.macWriteAt, h.ownDrop.macWriteAt, h]
  · exact h

theorem Steady.prefetchAt (h : Steady s₀ s) : Steady s₀ (prefetchAt s) := by
  unfold Machine.prefetchAt
  dsimp only
  split
  exacts [h, .ite h (.ite h.withPf.lookCheck.useSlot.missAdd.occR h.withPf.lookCheck.useSlot.occR)]

theorem Steady.execPrefetchFill (h : Steady s₀ s) : NextSteady s₀ (execPrefetchFill s) := h.prefetchAt

theorem Steady.execExactStep (h : Steady s₀ s) : NextSteady s₀ (execExactStep s) := h.exactOne

/-! ### FenCmds -/

theorem Steady.fenAllocCmd {t : Nat} (h : Steady s₀ s) : Steady s₀ (fenAllocCmd t s) := .checked h (·.withFen.mbxWork)

theorem Steady.execFenAlloc (h : Steady s₀ s) : NextSteady s₀ (execFenAlloc s) := .cmdRun h (·.fenAllocCmd)

theorem Steady.execFenAllocZeroed {k : Nat} (h : Steady s₀ s) : NextSteady s₀ (execFenAllocZeroed k s) := by
  unfold Machine.execFenAllocZeroed
  dsimp only
  split
  exacts [h, h.zeroFrames.withFen.mbxDone]

theorem Steady.segRemove {seg : Nat} (h : Steady s₀ s) : Steady s₀ (segRemove seg s) := by
  unfold Machine.segRemove
  dsimp only
  split
  exacts [h, h.withFen]

theorem Steady.fenFreeCmd {t : Nat} (h : Steady s₀ s) : Steady s₀ (fenFreeCmd t s) := .checked h (·.segRemove.mbxDone)

theorem Steady.execFenFree (h : Steady s₀ s) : NextSteady s₀ (execFenFree s) := .cmdRun h (·.fenFreeCmd)

theorem Steady.execFenFreeReclaim {k : Nat} (h : Steady s₀ s) : NextSteady s₀ (execFenFreeReclaim k s) := by
  unfold Machine.execFenFreeReclaim
  dsimp only
  split
  exacts [h, h.unless (·.withFen.dropFrames)]

theorem Steady.transferCmd {load : Bool} {t : Nat} (h : Steady s₀ s) : Steady s₀ (transferCmd load t s) := .checked h (·.withFen.mbxWork)

theorem Steady.execFenLoad (h : Steady s₀ s) : NextSteady s₀ (execFenLoad s) := .cmdRun h (·.transferCmd)

theorem Steady.execFenFlush (h : Steady s₀ s) : NextSteady s₀ (execFenFlush s) := .cmdRun h (·.transferCmd)

theorem Steady.execTransferLineIssue {seg : Fin 64} (h : Steady s₀ s) : NextSteady s₀ (execTransferLineIssue seg s) := by
  unfold Machine.execTransferLineIssue
  split
  exacts [h.when (·.xferIssue), h]

theorem Steady.execTransferLineResponse {txid : BitVec 16} {status : BitVec 3} {d : Line} (h : Steady s₀ s) :
    NextSteady s₀ (execTransferLineResponse txid status d s) := by
  unfold Machine.execTransferLineResponse
  split
  · split
    exacts [h.ownDrop.xferAnswer, h.ownDrop]
  · exact h

theorem Steady.fenFlipCmd {t : Nat} (h : Steady s₀ s) : Steady s₀ (fenFlipCmd t s) := .checked h (·.segMod.mbxDone)

theorem Steady.execFenFlip (h : Steady s₀ s) : NextSteady s₀ (execFenFlip s) := .cmdRun h (·.fenFlipCmd)

theorem Steady.execFlipReady {seg : Fin 64} (h : Steady s₀ s) : NextSteady s₀ (execFlipReady seg s) := by
  unfold Machine.execFlipReady
  split
  exacts [h.when (·.segMod.traceEv), h]

theorem Steady.execFlipEffect {seg : Fin 64} (h : Steady s₀ s) : NextSteady s₀ (execFlipEffect seg s) := by
  unfold Machine.execFlipEffect
  split
  exacts [h.when (·.flipTake), h]

theorem Steady.accOpenCmd {t : Nat} (h : Steady s₀ s) : Steady s₀ (accOpenCmd t s) := .checked h (·.withFen.mbxWork)

theorem Steady.execAccOpen (h : Steady s₀ s) : NextSteady s₀ (execAccOpen s) := .cmdRun h (·.accOpenCmd)

theorem Steady.execRegionOpen {rid : Fin 16} (h : Steady s₀ s) : NextSteady s₀ (execRegionOpen rid s) := by
  unfold Machine.execRegionOpen
  split
  exacts [h.when (·.regionOpenAt), h]

theorem Steady.accResolveCmd {t : Nat} (h : Steady s₀ s) : Steady s₀ (accResolveCmd t s) := .checked h (·.regionMod.mbxDone)

theorem Steady.execAccResolve (h : Steady s₀ s) : NextSteady s₀ (execAccResolve s) := .cmdRun h (·.accResolveCmd)

theorem Steady.setResolve {rid : Nat} {x : Resolve} (h : Steady s₀ s) : Steady s₀ (setResolve rid x s) := h.regionMod

theorem Steady.execResolveReady {rid : Fin 16} (h : Steady s₀ s) : NextSteady s₀ (execResolveReady rid s) := by
  unfold Machine.execResolveReady
  split
  exacts [h.when (·.setResolve.traceEv), h]

theorem Steady.execResolveStart {rid : Fin 16} (h : Steady s₀ s) : NextSteady s₀ (execResolveStart rid s) := by
  unfold Machine.execResolveStart
  split
  exacts [.ite (.ite (h.when (·.resolveEnd)) h.setResolve) h, h]

theorem Steady.execResolveLineWrite {rid : Fin 16} (h : Steady s₀ s) : NextSteady s₀ (execResolveLineWrite rid s) := by
  unfold Machine.execResolveLineWrite
  split
  exacts [.ite h (.ite h.resolveLine.setResolve (h.when (·.resolveLine.resolveEnd))), h]

theorem Steady.execResolveDeadline {rid : Fin 16} (h : Steady s₀ s) : NextSteady s₀ (execResolveDeadline rid s) := h.resolveDeadlineAt

end
end Sys2Proof.Machine
end

section
/-! SUPPORT. What stays of the queue, of presence and of power: Peat, generations and firmware. -/

namespace Sys2Proof.Machine

-- One declaration after the other: the threads of declarations that wait for one another exhaust the memory that a compile may take.
set_option Elab.async false

section
variable {s₀ s t : State}

/-! ### Peat -/

theorem Steady.bufSettle {b : Nat} (h : Steady s₀ s) : Steady s₀ (bufSettle b s) := h.when (·.bufSet)

theorem Steady.bufStop {b : Nat} (h : Steady s₀ s) : Steady s₀ (bufStop b s) := .ite h (h.bufSet.when (·.notice.raise)).bufSettle

theorem Steady.bufPut {b ty : Nat} {body : BitVec 152} (h : Steady s₀ s) : Steady s₀ (bufPut b ty body s) := h.bufSet.when (·.bufStop)

theorem Steady.dropTry {b : Nat} (h : Steady s₀ s) : Steady s₀ (dropTry b s) := by
  unfold Machine.dropTry
  dsimp only
  split
  exacts [h, h.when (·.bufSet.bufPut)]

theorem Steady.bufOffer {b ty : Nat} {body : BitVec 152} (h : Steady s₀ s) : Steady s₀ (bufOffer b ty body s) :=
  .ite h.dropTry (.ite h.dropTry (.ite h.dropTry.bufPut h.dropTry.bufSet))

theorem Steady.bufTrigger {b src win : Nat} (h : Steady s₀ s) : Steady s₀ (bufTrigger b src win s) :=
  .ite h (.ite (h.when (·.withSrv)).dropTry.bufSet.bufOffer (h.when (·.withSrv)).bufOffer)

theorem Steady.bufStart {b : Nat} (h : Steady s₀ s) : Steady s₀ (bufStart b s) := h.bufSet

theorem Steady.traceIssue {b : Nat} (h : Steady s₀ s) : Steady s₀ (traceIssue b s) := by
  unfold Machine.traceIssue
  dsimp only
  split
  exacts [h, .dropTry (.ite h.bufSet.ownWriteLine h.bufSet.ownWritePart)]

theorem Steady.tracePump {b k : Nat} (h : Steady s₀ s) : Steady s₀ (tracePump b k s) := by
  induction k generalizing s with
  | zero => exact h
  | succ k ih => exact h.when fun h => ih h.traceIssue

theorem Steady.bufScan {b : Nat} (h : Steady s₀ s) : Steady s₀ (bufScan b s) := by
  unfold Machine.bufScan
  dsimp only
  split
  · exact .bufTrigger (.foldl h.dropTry (fun h => h.when (·.bufOffer)))
  · exact .foldl h.dropTry (fun h => h.when (·.bufOffer))

/-! ### PeatCmds -/

theorem Steady.execTraceDmaWrite {b : Fin 4} (h : Steady s₀ s) : NextSteady s₀ (execTraceDmaWrite b s) := h.when (·.traceIssue)

theorem Steady.execTraceIdleFlush {b : Fin 4} (h : Steady s₀ s) : NextSteady s₀ (execTraceIdleFlush b s) := h.when (·.traceIssue)

theorem Steady.execTraceDmaComp {txid : BitVec 16} {status : BitVec 3} (h : Steady s₀ s) : NextSteady s₀ (execTraceDmaComp txid status s) := by
  unfold Machine.execTraceDmaComp
  dsimp only
  split
  exacts [(h.ownDrop.unless (·.bufSet.notice.raise)).dropTry.bufSettle, h]

theorem Steady.traceEach {g : Nat → State → State} {t : Nat} (h : Steady s₀ s) (hg : ∀ {a t}, Steady s₀ t → Steady s₀ (g a t)) :
    Steady s₀ (traceEach g t s) := .checked h (fun h => .mbxDone (.foldl h (fun h => .ite (hg h) h)))

theorem Steady.execTraceTriggerCmd (h : Steady s₀ s) : NextSteady s₀ (execTraceTriggerCmd s) := .cmdRun h (fun h => .traceEach h (·.trigger))

theorem Steady.execTraceRestart (h : Steady s₀ s) : NextSteady s₀ (execTraceRestart s) :=
  .cmdRun h (fun h => .traceEach h (fun h => h.when (·.bufSet)))

theorem Steady.execTraceFlush (h : Steady s₀ s) : NextSteady s₀ (execTraceFlush s) :=
  .cmdRun h (fun h => .traceEach h (fun h => h.unless (·.bufSet.tracePump)))

theorem Steady.execTraceStop (h : Steady s₀ s) : NextSteady s₀ (execTraceStop s) :=
  .cmdRun h (fun h => .traceEach h (fun h => h.when (·.bufStop.tracePump)))

theorem Steady.watchCmd {f : Nat → Nat → State → State} {t : Nat} (h : Steady s₀ s) (hf : ∀ {a b t}, Steady s₀ t → Steady s₀ (f a b t)) :
    Steady s₀ (watchCmd f t s) := .checked h hf

theorem Steady.execWatchRead (h : Steady s₀ s) : NextSteady s₀ (execWatchRead s) := .cmdRun h (fun h => .watchCmd h (·.mbxOut))

theorem Steady.watClear {w : Nat} (h : Steady s₀ s) : Steady s₀ (watClear w s) := h.watSet

theorem Steady.watStart {w : Nat} (h : Steady s₀ s) : Steady s₀ (watStart w s) := h.watClear.watSet

theorem Steady.watEnd {f : Nat → State → State} {t w : Nat} (h : Steady s₀ s) (hf : ∀ {a t}, Steady s₀ t → Steady s₀ (f a t)) :
    Steady s₀ (watEnd f t w s) := (hf h).mbxDone

theorem Steady.execWatchClear (h : Steady s₀ s) : NextSteady s₀ (execWatchClear s) :=
  .cmdRun h (fun h => .watchCmd h (fun h => .watEnd h (·.watClear)))

theorem Steady.execWatchArm (h : Steady s₀ s) : NextSteady s₀ (execWatchArm s) := .cmdRun h (fun h => .watchCmd h (fun h => .watEnd h (·.watSet)))

theorem Steady.execWatchDisarm (h : Steady s₀ s) : NextSteady s₀ (execWatchDisarm s) :=
  .cmdRun h (fun h => .watchCmd h (fun h => .watEnd h (·.watSet)))

theorem Steady.execWatchScan (h : Steady s₀ s) : NextSteady s₀ (execWatchScan s) :=
  Steady.cmdRun h fun h => .watchCmd h fun h => by
    split
    exacts [h, h.withPeat.mbxWork]

theorem Steady.scanEnd {c : Scan} {code : Nat} (h : Steady s₀ s) : Steady s₀ (scanEnd c code s) := h.withPeat.mbxDone

theorem Steady.execWatchScanStep (h : Steady s₀ s) : NextSteady s₀ (execWatchScanStep s) := by
  unfold Machine.execWatchScanStep
  dsimp only
  split
  · exact h
  · split
    exacts [h.scanEnd, .ite h.useSlot.frameRead.scanEnd h.useSlot.frameRead.withPeat]

/-! ### Gen -/

theorem Steady.want {pd : Nat} {p : Power} (h : Steady s₀ s) : Steady s₀ (want pd p s) := h.unless (·.withPw)

theorem Steady.armAt {t : Nat} {target : FT} {c : Tables} (h : Steady s₀ s) : Steady s₀ (armAt t target c s) := h.withGen.mbxDone

theorem Steady.armTry (h : Steady s₀ s) : Steady s₀ (armTry s) := by
  unfold Machine.armTry
  split
  exacts [h.when (·.armAt), h]

theorem Steady.genEnd {last : Nat} {f : Refused} (h : Steady s₀ s) : Steady s₀ (genEnd last f s) := h.withGen.raise

theorem Steady.applyHash {old : Tables} (h : Steady s₀ s) : Steady s₀ (applyHash old s) := h.unless (·.withGen)

theorem Steady.applyPart {old : Tables} (h : Steady s₀ s) : Steady s₀ (applyPart old s) := by
  unfold Machine.applyPart
  dsimp only
  have hs := h.unless (c := partScrub old = partScrub s.t) fun h => h.withSrv (x := { s.srv with scrubG := s.clk.ft, scrubK := 0 })
  exact .ite hs.withGen (hs.when ({ · with }))

theorem Steady.applyClass {old : Tables} (h : Steady s₀ s) : Steady s₀ (applyClass old s) := .ite h.winRestart (h.when (·.winNote))

theorem Steady.applyCtr {old : Tables} (h : Steady s₀ s) : Steady s₀ (applyCtr old s) :=
  .unless (.foldl h (fun h => .ite h (h.withCtr.unless (·.ctrPut)))) (·.withCtr)

theorem Steady.applyPeat {old : Tables} (h : Steady s₀ s) : Steady s₀ (applyPeat old s) :=
  .foldl (.foldl h (fun h => h.when (·.bufStart))) (fun h => h.when (·.watStart))

theorem Steady.genApply {a : Armed} (h : Steady s₀ s) : Steady s₀ (genApply a s) := by
  unfold Machine.genApply
  extract_lets s' old
  have hs : Steady s₀ s' := .foldl h fun h => h.when (·.winEnd)
  clear_value s'
  exact Steady.withSrv hs.withGen |>.applyHash.applyPart.applyClass.applyCtr.applyPeat.genEnd

theorem Steady.genInstant {a : Armed} (h : Steady s₀ s) : Steady s₀ (genInstant a s) := by
  unfold Machine.genInstant
  split
  exacts [h.genEnd, h.genApply]

/-! ### Stream -/

theorem Steady.setTableEnd {t : Nat} (h : Steady s₀ s) : Steady s₀ (setTableEnd t s) := .ite h.mbxDone (.ite h.mbxDone h.withGen.mbxDone)

theorem Steady.setInactive {v : Bool} (h : Steady s₀ s) : Steady s₀ (setInactive v s) := .ite h.withCore h.withCore

theorem Steady.fwLoadEnd {t : Nat} (h : Steady s₀ s) : Steady s₀ (fwLoadEnd t s) :=
  .ite (.mbxDone (.setInactive (.ite h.withCore h.withCore))) (.mbxDone (.ite h.withCore h.withCore))

theorem Steady.inputDone {t : Nat} (h : Steady s₀ s) : Steady s₀ (inputDone t s) := .ite h.setTableEnd h.fwLoadEnd

theorem Steady.mbxFeed {t : Nat} (h : Steady s₀ s) : Steady s₀ (mbxFeed t s) := by
  unfold Machine.mbxFeed
  dsimp only
  split
  · exact h
  · split
    exacts [h.mbxSet.when (·.inputDone), h]

theorem Steady.mbxInput {t n : Nat} (h : Steady s₀ s) : Steady s₀ (mbxInput t n s) := h.mbxSet.mbxFeed

/-! ### FwCmds -/

theorem Steady.coreReset (h : Steady s₀ s) : Steady s₀ (coreReset s) := h.withCore

theorem Steady.coreRestart (h : Steady s₀ s) : Steady s₀ (coreRestart s) := h.withStartQ.coreReset

theorem Steady.readyMbx {t : Nat} (h : Steady s₀ s) : Steady s₀ (readyMbx t s) := by
  unfold Machine.readyMbx
  dsimp only
  split
  · exact h.mbxSet
  · split
    exacts [.ite h.mbxSet.withCore.mbxDone (h.mbxSet.unless (·.mbxDone)), h.mbxSet.unless (·.mbxDone)]

theorem Steady.imageReady (h : Steady s₀ s) : Steady s₀ (imageReady s) := by
  have ready : Steady s₀ ((List.range 16).foldl (fun s t => Machine.readyMbx t s) { s with core := { s.core with sup := true } }) :=
    .foldl h.withCore (·.readyMbx)
  unfold Machine.imageReady
  dsimp only
  generalize (List.range 16).foldl _ _ = v at ready
  exact ⟨ready.pending, ready.life, ready.dom⟩

theorem Steady.execFwReady (h : Steady s₀ s) : NextSteady s₀ (execFwReady s) := h.when (·.imageReady)

theorem Steady.fwLoadCmd {t : Nat} (h : Steady s₀ s) : Steady s₀ (fwLoadCmd t s) := .checked h (·.setInactive.mbxInput)

theorem Steady.execFwLoad (h : Steady s₀ s) : NextSteady s₀ (execFwLoad s) := .cmdRun h (·.fwLoadCmd)

theorem Steady.fwActivateCmd {t : Nat} (h : Steady s₀ s) : Steady s₀ (fwActivateCmd t s) := .checked h (·.mbxWork.withCore.coreReset)

theorem Steady.execFwActivate (h : Steady s₀ s) : NextSteady s₀ (execFwActivate s) := .cmdRun h (·.fwActivateCmd)

theorem Steady.revert (h : Steady s₀ s) : Steady s₀ (revert s) := h.withCore.setInactive.coreReset.raiseAlert

theorem Steady.execActivationRevert (h : Steady s₀ s) : NextSteady s₀ (execActivationRevert s) := by
  unfold Machine.execActivationRevert
  split
  exacts [h.when (·.revert), h]

theorem Steady.coreAlert {b : Nat} (h : Steady s₀ s) : Steady s₀ (coreAlert b s) := h.withInts.coreRestart.raiseAlert

theorem Steady.execWatchdogExpiry (h : Steady s₀ s) : NextSteady s₀ (execWatchdogExpiry s) := h.when (·.coreAlert)

theorem Steady.execStewardTrap (h : Steady s₀ s) : NextSteady s₀ (execStewardTrap s) := .ite h (.ite h.revert h.coreAlert)

theorem Steady.execInvalidCommand (h : Steady s₀ s) : NextSteady s₀ (execInvalidCommand s) := by
  unfold Machine.execInvalidCommand
  split
  · exact h
  · split
    exacts [h, h.unless (·.withStartQ.mbxDone)]

/-! ### GenCmds -/

theorem Steady.execGetInfo (h : Steady s₀ s) : NextSteady s₀ (execGetInfo s) := .cmdRun h (·.mbxDone)

theorem Steady.execSetTable (h : Steady s₀ s) : NextSteady s₀ (execSetTable s) := .cmdRun h (fun h => .checked h (·.mbxInput))

theorem Steady.execGetTable (h : Steady s₀ s) : NextSteady s₀ (execGetTable s) := .cmdRun h (fun h => .checked h (·.mbxOut))

theorem Steady.wantNeeds {c : Tables} (h : Steady s₀ s) : Steady s₀ (wantNeeds c s) := .foldl h (fun h => h.unless (·.want))

theorem Steady.waitSet {w : CommitWait} (h : Steady s₀ s) : Steady s₀ (waitSet w s) := h.withGen

theorem Steady.commitGo {w : CommitWait} (h : Steady s₀ s) : Steady s₀ (commitGo w s) :=
  h.wantNeeds.waitSet.mbxWork.armTry

theorem Steady.commitCmd {t : Nat} (h : Steady s₀ s) : Steady s₀ (commitCmd t s) := by
  unfold Machine.commitCmd
  refine .ite h.mbxDone (.ite h.mbxDone (.ite h.mbxDone (.ite h.mbxDone ?_)))
  split
  exacts [h.mbxDone, h.commitGo]

theorem Steady.execCommit (h : Steady s₀ s) : NextSteady s₀ (execCommit s) := .cmdRun h (·.commitCmd)

theorem Steady.cancelCmd {t : Nat} (h : Steady s₀ s) : Steady s₀ (cancelCmd t s) := by
  unfold Machine.cancelCmd
  split
  · exact h.mbxDone
  · split
    · exact h.mbxDone
    · split
      exacts [h.mbxDone, .ite h.mbxDone h.genEnd.mbxDone]

theorem Steady.execCommitCancel (h : Steady s₀ s) : NextSteady s₀ (execCommitCancel s) := .cmdRun h (·.cancelCmd)

end
end Sys2Proof.Machine
end

section
/-! SUPPORT. What stays of the queue, of presence and of power: sweeps, service commands and MACE. -/

namespace Sys2Proof.Machine

-- One declaration after the other: the threads of declarations that wait for one another exhaust the memory that a compile may take.
set_option Elab.async false

section
variable {s₀ s t : State}

/-! ### Sweeps -/

theorem Steady.sweepWay {x : Swept} {k : Nat} (h : Steady s₀ x.s) : Steady s₀ (sweepWay x k).s := by
  unfold Machine.sweepWay
  dsimp only
  split
  · exact h
  · split
    · exact h
    · exact h.evictWay

theorem Steady.foldlSwept {α : Type} {f : Swept → α → Swept} {x : Swept} {l : List α} (h : Steady s₀ x.s)
    (hf : ∀ {y a}, Steady s₀ y.s → Steady s₀ (f y a).s) : Steady s₀ (l.foldl f x).s :=
  List.foldlRecOn (motive := fun y => Steady s₀ y.s) l f h fun _ k _ _ => hf k

theorem Steady.sweepSet {set : Nat} {p : State → Nat → Bool} (h : Steady s₀ s) : Steady s₀ (sweepSet set p s).s :=
  .foldlSwept (x := { wb := 0, inv := 0, left := false, s := _ }) h.useSlot.setCheck fun h => by
    split
    exacts [h.sweepWay, h]

theorem Steady.rehashSet {r : Rehash} (h : Steady s₀ s) : Steady s₀ (rehashSet r s) := h.withGen

theorem Steady.rehashEnd (h : Steady s₀ s) : Steady s₀ (rehashEnd s) := by
  unfold Machine.rehashEnd
  dsimp only
  split
  exacts [h.when (·.withGen), h]

theorem Steady.rehashStep {r : Rehash} (h : Steady s₀ s) : Steady s₀ (rehashStep r s) := by
  unfold Machine.rehashStep
  extract_lets x
  have hx : Steady s₀ x.s := h.sweepSet
  clear_value x
  exact hx.unless (·.rehashSet.rehashEnd)

theorem Steady.convSet {c : Option Conv} (h : Steady s₀ s) : Steady s₀ (convSet c s) := h.withGen

theorem Steady.convStep {c : Conv} (h : Steady s₀ s) : Steady s₀ (convStep c s) := by
  unfold Machine.convStep
  extract_lets x
  have hx : Steady s₀ x.s := h.sweepSet
  clear_value x
  exact .ite hx (.ite hx.convSet hx.convSet)

theorem Steady.noteVictim {k : Nat} {v : LAddr} (h : Steady s₀ s) : Steady s₀ (noteVictim k v s) := by
  unfold Machine.noteVictim
  split
  exacts [h.rehashSet, h]

theorem Steady.sedgeMove {y : Nat} {a : Bool × State} {w : Nat} (h : Steady s₀ a.2) : Steady s₀ (sedgeMove y a w).2 := by
  unfold Machine.sedgeMove
  extract_lets
  split
  · exact h
  · split
    · exact h.sedgeSet
    · split
      · exact h
      · split
        · exact h.sedgeSet.sedgeSet
        · split
          · next e => exact (h.backInvalidate.ends e).noteVictim
          · next e => exact (h.backInvalidate.ends e).noteVictim
          · next e => exact h.backInvalidate.ends e
        · exact h

theorem Steady.sedgeStep {r : Rehash} (h : Steady s₀ s) : Steady s₀ (sedgeStep r s) := by
  unfold Machine.sedgeStep
  extract_lets x
  have hx : Steady s₀ x.2 := .foldlSnd h.useSlot.sedgeCheck (·.sedgeMove)
  clear_value x
  exact hx.unless (·.rehashSet.rehashEnd)

theorem Steady.drainSet {d : Drain} (h : Steady s₀ s) : Steady s₀ (drainSet d s) := h.withSrv

theorem Steady.drainNext {d : Drain} {x : Swept} (h : Steady s₀ x.s) : Steady s₀ (drainNext d x) := h.drainSet.drainTry

theorem Steady.emptyStep {d : Drain} (h : Steady s₀ s) : Steady s₀ (emptyStep d s) := h.sweepSet.drainNext

theorem Steady.cleanWay {x : Swept} {k : Nat} (h : Steady s₀ x.s) : Steady s₀ (cleanWay x k).s := by
  unfold Machine.cleanWay
  dsimp only
  split
  · exact h
  · split
    · exact h
    · split
      exacts [h, h.wayCheck.withMp.tagSet.mwPush]

theorem Steady.cleanStep {d : Drain} (h : Steady s₀ s) : Steady s₀ (cleanStep d s) :=
  .drainNext (.foldlSwept h.useSlot.setCheck (·.cleanWay))

theorem Steady.clearBank {b : Nat} (h : Steady s₀ s) : Steady s₀ (clearBank b s) := { h with }

theorem Steady.bankDone {b code : Nat} {res : List Nat} (h : Steady s₀ s) : Steady s₀ (bankDone b code res s) := by
  unfold Machine.bankDone
  dsimp only
  split
  exacts [h.bankSet.mbxDone, h]

theorem Steady.bankCount {b : Nat} {x : Swept} (h : Steady s₀ s) : Steady s₀ (bankCount b x s) := h.bankSet

theorem Steady.bankLine {key : Nat} (h : Steady s₀ s) : Steady s₀ (bankLine key s).s := by
  unfold Machine.bankLine
  dsimp only
  split
  · exact h.useSlot.setCheck.sweepWay
  · exact h.useSlot.setCheck

theorem Steady.bankSwept {b : Nat} (h : Steady s₀ s) : Steady s₀ (bankSwept b s) := by
  unfold Machine.bankSwept
  split
  · split
    exacts [h.when (·.want), h]
  · exact h

theorem Steady.bankStep {b : Nat} (h : Steady s₀ s) : Steady s₀ (bankStep b s) := by
  unfold Machine.bankStep
  dsimp only
  split
  · split
    · exact h.bankLine.bankCount
    · split
      · exact h.bankLine.bankCount.bankSet
      · split
        exacts [h.bankLine.bankCount.bankSet.retireReport.bankDone, h.bankLine.bankCount.bankSet.retireReport]
  · split
    exacts [.ite (h.bankLine.bankCount.unless (·.bankSet.bankSwept)) h, h]

theorem Steady.bankService {b : Nat} (h : Steady s₀ s) : Steady s₀ (bankService b s) := by
  unfold Machine.bankService
  dsimp only
  split
  · split
    exacts [h.bankSet.clearBank.bankDone, h]
  · exact h

theorem Steady.bankMoved {b : Nat} {p : Power} (h : Steady s₀ s) : Steady s₀ (bankMoved b p s) := by
  unfold Machine.bankMoved
  split
  · split
    exacts [h.when (·.bankService), h.when (·.bankDone), h]
  · exact h

theorem Steady.bankTrimmed {b : Nat} {v : Option (BitVec 8)} (h : Steady s₀ s) : Steady s₀ (bankTrimmed b v s) := by
  unfold Machine.bankTrimmed
  dsimp only
  split
  · split
    · split
      exacts [h.bankSet.clearBank.bankDone, h.retireBank]
    · exact h
  · exact h

/-! ### LiveCmds -/

theorem Steady.execRehashSweepStep (h : Steady s₀ s) : NextSteady s₀ (execRehashSweepStep s) := by
  unfold Machine.execRehashSweepStep
  split
  exacts [h.when (·.rehashStep), h]

theorem Steady.execSedgeSweepStep (h : Steady s₀ s) : NextSteady s₀ (execSedgeSweepStep s) := by
  unfold Machine.execSedgeSweepStep
  split
  exacts [h.when (·.sedgeStep), h]

theorem Steady.execConversionSweepStep (h : Steady s₀ s) : NextSteady s₀ (execConversionSweepStep s) := by
  unfold Machine.execConversionSweepStep
  split
  exacts [h.convStep, h]

theorem Steady.drainStart {m : DrainMode} {t : Nat} (h : Steady s₀ s) : Steady s₀ (drainStart m t s) := h.withSrv.mbxWork

theorem Steady.execDrainHalt (h : Steady s₀ s) : NextSteady s₀ (execDrainHalt s) := .cmdRun h (fun h => .checked h (·.withSrv.drainStart))

theorem Steady.execDrainHaltDone (h : Steady s₀ s) : NextSteady s₀ (execDrainHaltDone s) := by
  unfold Machine.execDrainHaltDone
  dsimp only
  split
  exacts [h.when (·.withSrv.mbxDone), h]

theorem Steady.execDrainClean (h : Steady s₀ s) : NextSteady s₀ (execDrainClean s) := .cmdRun h (fun h => .checked h (·.drainStart))

theorem Steady.execDrainCleanSweepStep (h : Steady s₀ s) : NextSteady s₀ (execDrainCleanSweepStep s) := by
  unfold Machine.execDrainCleanSweepStep
  split
  exacts [h.when (·.cleanStep), h]

theorem Steady.execDrainEmpty (h : Steady s₀ s) : NextSteady s₀ (execDrainEmpty s) := .cmdRun h (fun h => .checked h (·.withSrv.drainStart))

theorem Steady.execDrainEmptySweepStep (h : Steady s₀ s) : NextSteady s₀ (execDrainEmptySweepStep s) := by
  unfold Machine.execDrainEmptySweepStep
  split
  exacts [h.when (·.emptyStep), h]

theorem Steady.execResume (h : Steady s₀ s) : NextSteady s₀ (execResume s) := .cmdRun h (fun h => .checked h (·.withSrv.mbxDone))

theorem Steady.bankStart {b : Nat} {k : BankOpKind} {t : Nat} (h : Steady s₀ s) : Steady s₀ (bankStart b k t s) := h.bankSet.mbxWork

theorem Steady.bankOfflineCmd {t : Nat} (h : Steady s₀ s) : Steady s₀ (bankOfflineCmd t s) := .checked h (·.bankStart)

theorem Steady.execBankOffline (h : Steady s₀ s) : NextSteady s₀ (execBankOffline s) := .cmdRun h (·.bankOfflineCmd)

theorem Steady.bankOnlineCmd {t : Nat} (h : Steady s₀ s) : Steady s₀ (bankOnlineCmd t s) := by
  unfold Machine.bankOnlineCmd
  refine .checked h fun h => ?_
  exact .ite h.bankStart.withPw.bankService h.bankStart.want

theorem Steady.execBankOnline (h : Steady s₀ s) : NextSteady s₀ (execBankOnline s) := .cmdRun h (·.bankOnlineCmd)

theorem Steady.bankTrimCmd {t : Nat} (h : Steady s₀ s) : Steady s₀ (bankTrimCmd t s) := .checked h (·.bankStart)

theorem Steady.execBankTrim (h : Steady s₀ s) : NextSteady s₀ (execBankTrim s) := .cmdRun h (·.bankTrimCmd)

theorem Steady.execBankSweepStep {b : Fin 64} (h : Steady s₀ s) : NextSteady s₀ (execBankSweepStep b s) := h.bankStep

theorem Steady.execBankTrimCalibrationDone {b : Fin 64} {setting : Option (BitVec 8)} (h : Steady s₀ s) :
    NextSteady s₀ (execBankTrimCalibrationDone b setting s) := h.bankTrimmed

/-! ### Inspect -/

theorem Steady.inspDrop {t : Nat} (h : Steady s₀ s) : Steady s₀ (inspDrop t s) := h.withSrv

theorem Steady.inspStep {x : Insp} (h : Steady s₀ s) : Steady s₀ (inspStep x s) :=
  .mbxOutTry (.ite h.useSlot.mbxSet.withSrv h.useSlot.mbxSet.inspDrop)

theorem Steady.inspCmd {t : Nat} (h : Steady s₀ s) : Steady s₀ (inspCmd t s) := .checked h (·.withSrv.mbxOut)

theorem Steady.execInspectLine (h : Steady s₀ s) : NextSteady s₀ (execInspectLine s) := .cmdRun h (·.inspCmd)

theorem Steady.execInspectLineRecord (h : Steady s₀ s) : NextSteady s₀ (execInspectLineRecord s) := by
  unfold Machine.execInspectLineRecord
  split
  exacts [h.when (·.inspStep), h]

theorem Steady.snapSet {x : Option Snap} (h : Steady s₀ s) : Steady s₀ (snapSet x s) := h.withSrv

theorem Steady.snapNext {x : Snap} (h : Steady s₀ s) : Steady s₀ (snapNext x s) := by
  unfold Machine.snapNext
  split
  exacts [h.snapSet.ownWriteLine, h.snapSet.mbxDone]

theorem Steady.snapCmd {t : Nat} (h : Steady s₀ s) : Steady s₀ (snapCmd t s) := by
  unfold Machine.snapCmd
  exact .checked h fun h => .snapNext h.mbxWork

theorem Steady.execWfgSnapshot (h : Steady s₀ s) : NextSteady s₀ (execWfgSnapshot s) := .cmdRun h (·.snapCmd)

theorem Steady.snapAnswer {x : Snap} {st : Nat} (h : Steady s₀ s) : Steady s₀ (snapAnswer x st s) := .ite h.snapNext h.snapSet.mbxDone

theorem Steady.execSnapshotWriteComp {txid : BitVec 16} {status : BitVec 3} (h : Steady s₀ s) :
    NextSteady s₀ (execSnapshotWriteComp txid status s) := by
  unfold Machine.execSnapshotWriteComp
  split
  exacts [h.ownDrop.snapAnswer, h.ownDrop, h]

/-! ### Mace -/

theorem Steady.descMod {slot : Nat} {f : Desc → Desc} (h : Steady s₀ s) : Steady s₀ (descMod slot f s) := h.withMace

theorem Steady.rowFault {slot k kind stat : Nat} (h : Steady s₀ s) : Steady s₀ (rowFault slot k kind stat s) := by
  unfold Machine.rowFault
  dsimp only
  split
  exacts [h, h.unless (·.descMod.occR)]

theorem Steady.elemFaults {slot : Nat} (h : Steady s₀ s) : Steady s₀ (elemFaults slot s) := by
  unfold Machine.elemFaults
  split
  · exact h
  · refine .foldl h fun h => ?_
    extract_lets s'
    have hs : Steady s₀ s' := by
      unfold s'
      split
      exacts [h.rowFault, h]
    exact hs.when (·.rowFault)

theorem Steady.tidy {slot : Nat} (h : Steady s₀ s) : Steady s₀ (tidy slot s) := h.elemFaults.descMod

theorem Steady.issueFor {d : Desc} (h : Steady s₀ s) : SomeSteady s₀ (issueFor d s) := by
  unfold Machine.issueFor
  dsimp only
  split
  · exact trivial
  · split
    · exact trivial
    · exact h.rowFault
    · split
      · exact h.descMod
      · split
        · exact h.rowFault
        · split
          · exact h.rowFault
          · split
            · exact trivial
            · exact h.ctlUse.occR.addDemand.descMod
    · split
      · exact h.rowFault
      · split
        · exact h.rowFault
        · split
          · exact h.rowFault
          · split
            · exact trivial
            · exact h.ctlUse.occR.addDemand.descMod

theorem Steady.issueOne (h : Steady s₀ s) : Steady s₀ (issueOne s) := by
  unfold Machine.issueOne
  split
  · next e =>
    obtain ⟨i, -, e⟩ := List.exists_of_findSome?_eq_some e
    dsimp only at e
    split at e
    · exact (Option.some_ne_none _ e.symm).elim
    · obtain ⟨x, hx, e⟩ := Option.map_eq_some_iff.mp e
      obtain ⟨d, -, hx⟩ := Option.bind_eq_some_iff.mp hx
      obtain ⟨-, rfl⟩ := Prod.mk.inj e
      exact ((h.tidy.issueFor).get hx).withMace
  · exact h

theorem Steady.tableStep {d : Desc} {e : Elem} (h : Steady s₀ s) : Steady s₀ (tableStep d e s) := by
  unfold Machine.tableStep
  dsimp only
  split
  · next e => exact (h.reqStep.ends e).reqSlot.elemMod
  · next e => exact (h.reqStep.ends e).reqSlot.elemMod
  · next e => exact (h.reqStep.ends e).reqSlot.holdCount

theorem Steady.sourceStep {d : Desc} {e : Elem} {p : PLine} (h : Steady s₀ s) : Steady s₀ (sourceStep d e p s) := by
  unfold Machine.sourceStep
  dsimp only
  split
  exacts [h, h.reqSlot.frameRead.elemMod]

theorem Steady.destStep {d : Desc} {e : Elem} {p : PLine} (h : Steady s₀ s) : Steady s₀ (destStep d e p s) := by
  unfold Machine.destStep
  dsimp only
  split
  · exact h
  · split
    · next e => exact (h.fenStep.ends e).reqSlot.when (·.elemMod)
    · next e => exact (h.fenStep.ends e).reqSlot.when (·.elemMod)
    · next e => exact (h.fenStep.ends e).reqSlot.holdCount

theorem Steady.dataStep {d : Desc} {e : Elem} {p : PLine} (h : Steady s₀ s) : Steady s₀ (dataStep d e p s) := h.unless (·.emit.descMod)

theorem Steady.maceDataLeft {slot k line : Nat} (h : Steady s₀ s) : Steady s₀ (maceDataLeft slot k line s) := h.descMod.tidy

theorem Steady.elemStep {slot id : Nat} (h : Steady s₀ s) : Steady s₀ (elemStep slot id s) := by
  unfold Machine.elemStep
  dsimp only
  split
  · exact h
  · split
    · exact h
    · split
      · split
        exacts [h.ctlUse.sourceStep.tidy, h.ctlUse.unless (·.tableStep.tidy)]
      · split
        · exact h.ctlUse.tableStep.tidy
        · split
          · exact h.ctlUse
          · split
            · split
              exacts [h.ctlUse.dataStep.tidy, h.ctlUse]
            · split
              exacts [h.ctlUse.unless (·.destStep.tidy), h.ctlUse]

theorem Steady.setIdx_ {slot line : Nat} {v : IdxSt} (h : Steady s₀ s) : Steady s₀ (setIdx_ slot line v s) := h.descMod

theorem Steady.indexRead {slot : Nat} (h : Steady s₀ s) : Steady s₀ (indexRead slot s) := by
  unfold Machine.indexRead
  split
  · exact h
  · extract_lets
    split
    · exact h
    · split
      · split
        · exact h.ctlUse.setIdx_
        · split
          exacts [h.ctlUse.useSlot.frameRead.setIdx_, h.ctlUse.setIdx_, h.ctlUse.setIdx_, h.ctlUse.setIdx_]
      · exact .ite h.ctlUse.setIdx_ h.ctlUse.setIdx_.ownRead

theorem Steady.recordFail {d : Desc} {st : Nat} (h : Steady s₀ s) : Steady s₀ (recordFail d st s) := h.logErr

theorem Steady.maceFree {d : Desc} (h : Steady s₀ s) : Steady s₀ (maceFree d s) := by
  unfold Machine.maceFree
  extract_lets s'
  have hs : Steady s₀ s' := h.when (·.tallyAdd)
  exact { hs with }

theorem Steady.maceEndAt {slot : Nat} (h : Steady s₀ s) : Steady s₀ (maceEndAt slot s) := by
  unfold Machine.maceEndAt
  dsimp only
  split
  · exact h.tidy
  · split
    · exact h.tidy
    · split
      · exact h.tidy.ctlUse.maceFree
      · split
        · exact h.tidy.ctlUse.descMod.ownWritePart
        · split
          · exact h.tidy.ctlUse.recordFail.maceFree
          · split
            · exact (h.tidy.ctlUse.useSlot.setCheck.frameWrite.watchAcc.when (·.recordFail)).maceFree
            · exact h.tidy.ctlUse.recordFail.maceFree
            · exact h.tidy.ctlUse.recordFail.maceFree
            · exact h.tidy.ctlUse.recordFail.maceFree

theorem Steady.execMaceSub {p : DPort} (h : Steady s₀ s) : NextSteady s₀ (execMaceSub p s) :=
  Steady.portPass h fun h => by
    split
    exacts [h.occR.compTo, h.withMace.occR.compTo]

theorem Steady.execMaceIndexRead {slot : Fin 8} (h : Steady s₀ s) : NextSteady s₀ (execMaceIndexRead slot s) := h.tidy.indexRead

theorem Steady.execMaceIndexResponse {txid : BitVec 16} {status : BitVec 3} {d : Line} (h : Steady s₀ s) :
    NextSteady s₀ (execMaceIndexResponse txid status d s) := by
  unfold Machine.execMaceIndexResponse
  dsimp only
  split
  · split
    exacts [h.ownDrop.when (·.setIdx_), h.ownDrop]
  · exact h

theorem Steady.execMaceElementIssue (h : Steady s₀ s) : NextSteady s₀ (execMaceElementIssue s) := h.unless (·.issueOne.issueOne)

theorem Steady.execMaceElement {slot : Fin 8} {id : Nat} (h : Steady s₀ s) : NextSteady s₀ (execMaceElement slot id s) := h.tidy.elemStep

theorem Steady.execMaceEnd {slot : Fin 8} (h : Steady s₀ s) : NextSteady s₀ (execMaceEnd slot s) := h.maceEndAt

theorem Steady.execMaceRecordComp {txid : BitVec 16} {status : BitVec 3} (h : Steady s₀ s) : NextSteady s₀ (execMaceRecordComp txid status s) := by
  unfold Machine.execMaceRecordComp
  dsimp only
  split
  · split
    exacts [(h.ownDrop.unless (·.recordFail)).maceFree, h.ownDrop]
  · exact h

end
end Sys2Proof.Machine
end

section
/-! SUPPORT. What stays of the queue, of presence and of power: registers, tenants and power. -/

namespace Sys2Proof.Machine

-- One declaration after the other: the threads of declarations that wait for one another exhaust the memory that a compile may take.
set_option Elab.async false

section
variable {s₀ s t : State}

/-! ### Regs -/

theorem Steady.cmdWrite {t op : Nat} (h : Steady s₀ s) : Steady s₀ (cmdWrite t op s) := h.withStartQ.mbxSet

theorem Steady.cmdOver {t : Nat} (h : Steady s₀ s) : Steady s₀ (cmdOver t s) := h.mbxSet

theorem Steady.mbxWrite {t o v : Nat} (h : Steady s₀ s) : Steady s₀ (mbxWrite t o v s) :=
  .ite (.ite h.cmdOver h.cmdWrite) (.ite h.mbxSet (h.when (·.mbxSet)))

theorem Steady.evqDrop (h : Steady s₀ s) : Steady s₀ (evqDrop s) := h.withLog

theorem Steady.errDrop (h : Steady s₀ s) : Steady s₀ (errDrop s) := h.withLog

theorem Steady.fatalClear {v : Nat} (h : Steady s₀ s) : Steady s₀ (fatalClear v s) := h.when (·.withLog)

theorem Steady.alertWrite {v : Nat} (h : Steady s₀ s) : Steady s₀ (alertWrite v s) := { h with }

theorem Steady.intWrite {o v : Nat} (h : Steady s₀ s) : Steady s₀ (intWrite o v s) := by
  unfold Machine.intWrite
  dsimp only
  split
  · exact h.setInts
  · exact h.setInts
  · exact h.setInts
  · exact h.setInts
  · exact h.withInts
  · exact h.withInts
  · exact h.withInts
  · exact h.withInts
  · exact h.alertWrite
  · exact h.evqDrop
  · exact h.errDrop
  · exact h.fatalClear
  · exact h

theorem Steady.regWrite {o v : Nat} (h : Steady s₀ s) : Steady s₀ (regWrite o v s) := .ite h (.ite h.intWrite (h.when (·.mbxWrite)))

/-! ### TenantCmds -/

theorem Steady.tswSet {x : Option Tsw} (h : Steady s₀ s) : Steady s₀ (tswSet x s) := h.withSrv

theorem Steady.denyParked {t : BitVec 4} (h : Steady s₀ s) : Steady s₀ (denyParked t s) := by
  unfold Machine.denyParked
  extract_lets s'
  have hs : Steady s₀ s' := h.reportAll.releaseAll
  clear_value s'
  exact .foldl hs.withTal (·.ctlUse.twaitComp)

theorem Steady.closeRegions {t : Nat} (h : Steady s₀ s) : Steady s₀ (closeRegions t s) := h.reportAll.withFen

theorem Steady.discardWay {x : Swept} {k : Nat} (h : Steady s₀ x.s) : Steady s₀ (discardWay x k).s := by
  unfold Machine.discardWay
  dsimp only
  split
  · exact h
  · exact h.tagSet.dropData.countLeave

theorem Steady.tenantSet {w : Tsw} (h : Steady s₀ s) : Steady s₀ (tenantSet w s).s :=
  .foldlSwept (x := { wb := 0, inv := 0, left := false, s := _ }) h.useSlot.setCheck fun h => by
    dsimp only
    split
    · exact h
    · split
      exacts [h.discardWay, h.sweepWay]

theorem Steady.eraseKey {t : Nat} (h : Steady s₀ s) : Steady s₀ (eraseKey t s) := h.keySet

theorem Steady.tswEnd {w : Tsw} (h : Steady s₀ s) : Steady s₀ (tswEnd w s) := h.tswSet.mbxDone

theorem Steady.tswStep {w : Tsw} (h : Steady s₀ s) : Steady s₀ (tswStep w s) := by
  unfold Machine.tswStep
  split
  · extract_lets s'
    have hs : Steady s₀ s' := h.denyParked
    clear_value s'
    exact hs.unless fun hs => .ite hs.tswSet.closeRegions hs.tswSet
  · exact .ite h.closeRegions (.tswSet (.foldl h (·.segRemove)))
  · extract_lets x w'
    have hx : Steady s₀ x.s := h.tenantSet
    clear_value x
    exact .ite hx.tswSet (.ite hx.tswSet (.ite hx.tswSet hx.tswEnd))
  · exact h.unless (·.eraseKey.tswEnd)

theorem Steady.tenantSwitchCmd {t : Nat} (h : Steady s₀ s) : Steady s₀ (tenantSwitchCmd t s) := by
  unfold Machine.tenantSwitchCmd
  exact .checked h fun h => .denyParked h.tswSet.mbxWork

theorem Steady.execTenantSwitch (h : Steady s₀ s) : NextSteady s₀ (execTenantSwitch s) := .cmdRun h (·.tenantSwitchCmd)

theorem Steady.execTenantSweepStep (h : Steady s₀ s) : NextSteady s₀ (execTenantSweepStep s) := by
  unfold Machine.execTenantSweepStep
  split
  exacts [h.tswStep, h]

theorem Steady.sealLoadCmd {t : Nat} (h : Steady s₀ s) : Steady s₀ (sealLoadCmd t s) := .checked h (·.keySet.mbxDone)

theorem Steady.execSealKeyLoad (h : Steady s₀ s) : NextSteady s₀ (execSealKeyLoad s) := .cmdRun h (·.sealLoadCmd)

theorem Steady.sealEraseCmd {t : Nat} (h : Steady s₀ s) : Steady s₀ (sealEraseCmd t s) := .checked h (·.eraseKey.mbxDone)

theorem Steady.execSealKeyErase (h : Steady s₀ s) : NextSteady s₀ (execSealKeyErase s) := .cmdRun h (·.sealEraseCmd)

/-! ### Power -/

theorem Steady.wantOffs (h : Steady s₀ s) : Steady s₀ (wantOffs s) := .foldl h (fun h => h.when (·.want))

theorem Steady.liveSend {k : BitVec 16} (h : Steady s₀ s) : Steady s₀ (liveSend k s) := by
  unfold Machine.liveSend
  exact h.emit.emit

theorem Steady.ftFirst (h : Steady s₀ s) : Steady s₀ (ftFirst s) := .winRestart { h with }

theorem Steady.startBring (h : Steady s₀ s) : Steady s₀ (startBring s) := h.withPw

theorem Steady.domainMoved {pd : Nat} {p : Power} (h : Steady s₀ s) : Steady s₀ (domainMoved pd p s) := by
  unfold Machine.domainMoved
  refine .ite (.bankMoved (h.when (·.clearBank))) (.ite (h.when ({ · with })) (.ite (.ite ?_ ?_)
    (.ite (h.when ({ · with })) (.ite (h.unless fun h => .foldl h (·.eraseKey)) h))))
  · exact .foldl (.foldl h (·.bufStart)) (·.watStart)
  · exact { h with }

theorem Steady.endDatapath (h : Steady s₀ s) : Steady s₀ (endDatapath s) := .foldl h (fun h => h.when (·.mbxDone))

theorem Steady.bootNext {l : List (BitVec 32)} (h : Steady s₀ s) : Steady s₀ (bootNext l s) := { h with }

theorem Steady.bootEnd {ok : Bool} {img : List (BitVec 32)} (h : Steady s₀ s) : Steady s₀ (bootEnd ok img s) :=
  .when { h with } (·.coreReset.startBring)

theorem Steady.bootTake {w : BitVec 32} {l : List (BitVec 32)} (h : Steady s₀ s) : Steady s₀ (bootTake w l s) :=
  .ite h.bootNext (.ite h.bootEnd (.ite h.bootNext h.bootEnd))

/-! ### RegCmds -/

theorem Steady.writeWords {m : Msg} (h : Steady s₀ s) : Steady s₀ (writeWords m s) := .foldl h (·.regWrite)

theorem Steady.regAnswer {r : RegReq} {l : List Nat} (h : Steady s₀ s) : Steady s₀ (regAnswer r l s) := h.occP.dataTo

theorem Steady.regComp {r : RegReq} {st : Nat} (h : Steady s₀ s) : Steady s₀ (regComp r st s) := h.compTo

theorem Steady.regDone {r : RegReq} (h : Steady s₀ s) : Steady s₀ (regDone r s) := h.occP.regComp

theorem Steady.execRegAccess {p : DPort} (h : Steady s₀ s) : NextSteady s₀ (execRegAccess p s) := by
  unfold Machine.execRegAccess
  dsimp only [NextSteady]
  split
  · exact h
  · next rest _ =>
    have hr := (h.portSet (p := p) (x := { portGet s p with regq := rest })).regFill (p := p)
    exact .ite hr.withRegHw (.ite hr.capAt hr.regAnswer)

theorem Steady.setRegAt {l : List RegReq} {y : RegLoc} (h : Steady s₀ s) : Steady s₀ (setRegAt l s y) := by
  unfold Machine.setRegAt
  dsimp only
  split
  exacts [h.withD0.regFill, h.withD1.regFill, h.withRegHw]

theorem Steady.execRegTimeout {l : RegLoc} {k : Nat} (h : Steady s₀ s) : NextSteady s₀ (execRegTimeout l k s) := by
  unfold Machine.execRegTimeout
  split
  exacts [h.when (·.setRegAt.regComp), h]

theorem Steady.hwRun {k : Nat} {sel : RegKind → Bool} {f : RegReq → State → State} (h : Steady s₀ s) (hf : ∀ {a t}, Steady s₀ t → Steady s₀ (f a t)) :
    Steady s₀ (hwRun k sel f s) := by
  unfold Machine.hwRun
  split
  exacts [.ite (hf h.withRegHw) h, h]

theorem Steady.hwWrite {r : RegReq} (h : Steady s₀ s) : Steady s₀ (hwWrite r s) := h.writeWords.regDone

theorem Steady.execRegisterWrite {k : Nat} (h : Steady s₀ s) : NextSteady s₀ (execRegisterWrite k s) := .hwRun h (·.hwWrite)

theorem Steady.execEvqPop {k : Nat} (h : Steady s₀ s) : NextSteady s₀ (execEvqPop k s) := .hwRun h (·.hwWrite)

theorem Steady.execErrPop {k : Nat} (h : Steady s₀ s) : NextSteady s₀ (execErrPop k s) := .hwRun h (·.hwWrite)

theorem Steady.execFatalClr {k : Nat} (h : Steady s₀ s) : NextSteady s₀ (execFatalClr k s) := .hwRun h (·.hwWrite)

theorem Steady.execAlertClear {k : Nat} (h : Steady s₀ s) : NextSteady s₀ (execAlertClear k s) := .hwRun h (·.hwWrite)

theorem Steady.execCmdWhileBusy {k : Nat} (h : Steady s₀ s) : NextSteady s₀ (execCmdWhileBusy k s) := .hwRun h (·.hwWrite)

theorem Steady.dataIn {t : Nat} {r : RegReq} (h : Steady s₀ s) : Steady s₀ (dataIn t r s) := h.mbxSet.mbxFeed.regDone

theorem Steady.execMailboxDataWrite {k : Nat} (h : Steady s₀ s) : NextSteady s₀ (execMailboxDataWrite k s) := by
  unfold Machine.execMailboxDataWrite
  split
  · split
    exacts [h.when (·.withRegHw.dataIn), h]
  · exact h

theorem Steady.dataWord {t : Nat} (h : Steady s₀ s) : ∀ y, dataWord t s = some y → Steady s₀ y.2 := by
  unfold Machine.dataWord
  dsimp only
  intro y e
  split at e
  · rw [← Option.some.inj e]
    exact h.mbxSet.mbxOutTry
  · split at e
    · exact (Option.some_ne_none y e.symm).elim
    · rw [← Option.some.inj e]
      exact h

theorem Steady.dataWords {t n : Nat} (h : Steady s₀ s) : ∀ y, dataWords t n s = some y → Steady s₀ y.2 := by
  induction n generalizing s with
  | zero => rintro _ ⟨⟩; exact h
  | succ n ih =>
    intro y hy
    unfold Machine.dataWords at hy
    split at hy
    · exact (Option.some_ne_none y hy.symm).elim
    · next e =>
      obtain ⟨x, hx, rfl⟩ := Option.map_eq_some_iff.mp hy
      exact ih (h.dataWord _ e) x hx

theorem Steady.execMailboxDataRead {k : Nat} (h : Steady s₀ s) : NextSteady s₀ (execMailboxDataRead k s) := by
  unfold Machine.execMailboxDataRead
  dsimp only [NextSteady]
  split
  · split
    · split
      · exact h
      · split
        · next e => exact (h.withRegHw.dataWords _ e).regAnswer
        · exact h
    · exact h
  · exact h

theorem Steady.streamEnd {t : Nat} (h : Steady s₀ s) : Steady s₀ (streamEnd t s) := h.inspDrop.mbxDone

theorem Steady.abortStream {t : Nat} (h : Steady s₀ s) : Steady s₀ (abortStream t s) := (h.when (·.streamEnd)).mbxSet

theorem Steady.execDresetAbort {k : Nat} (h : Steady s₀ s) : NextSteady s₀ (execDresetAbort k s) := by
  unfold Machine.execDresetAbort
  split
  · split
    exacts [h.withRegHw.writeWords.abortStream.regDone, h]
  · exact h

theorem Steady.execMailboxStreamTimeout {t : Fin 16} (h : Steady s₀ s) : NextSteady s₀ (execMailboxStreamTimeout t s) := h.when (·.streamEnd)

theorem Steady.noticeArrive {n : Notice} (h : Steady s₀ s) : Steady s₀ (noticeArrive n s) := by
  unfold Machine.noticeArrive
  dsimp only
  split
  · split
    exacts [h.evqPush.raise, h.evqPush]
  · exact h.errArrive

theorem Steady.execEventNotice (h : Steady s₀ s) : NextSteady s₀ (execEventNotice s) := by
  unfold Machine.execEventNotice
  dsimp only
  split
  · exact h
  · split
    exacts [h, h.withLog.noticeArrive]

/-! ### PowerCmds -/

theorem Steady.execRegulationWindowEnd {c : Fin 16} (h : Steady s₀ s) : NextSteady s₀ (execRegulationWindowEnd c s) := h.when (·.winEnd)

theorem Steady.scrubWay {k : Nat} (h : Steady s₀ s) : Steady s₀ (scrubWay s k) := h.when (·.wayCheck)

theorem Steady.scrubSet {set : Nat} (h : Steady s₀ s) : Steady s₀ (scrubSet set s) := .foldl h.useSlot.setCheck.sedgeCheck (·.scrubWay)

theorem Steady.execPatrolScrubStep (h : Steady s₀ s) : NextSteady s₀ (execPatrolScrubStep s) := h.when (·.scrubSet.withSrv)

theorem Steady.execLeakDecay (h : Steady s₀ s) : NextSteady s₀ (execLeakDecay s) := .ite (.foldl h.withSrv (·.bankSet)) h

theorem Steady.execLive (h : Steady s₀ s) : NextSteady s₀ (execLive s) := h.when (·.withPins.liveSend)

theorem Steady.execFtValid {run : List FtSample} (h : Steady s₀ s) : NextSteady s₀ (execFtValid run s) :=
  .ite (.ite h.withClk (.ite h.withClk.winRestart h.withClk.ftFirst)) h.withClk

theorem Steady.execFtInvalid (h : Steady s₀ s) : NextSteady s₀ (execFtInvalid s) := h.unless (·.withClk)

theorem Steady.execPmGrant (h : Steady s₀ s) : NextSteady s₀ (execPmGrant s) := h.when (·.withPins)

theorem Steady.execBootWord {data : BitVec 32} (h : Steady s₀ s) : NextSteady s₀ (execBootWord data s) := by
  unfold Machine.execBootWord
  split
  exacts [h.when (·.bootTake), h]

theorem Steady.hteLeft {m : Msg} (h : Steady s₀ s) : Steady s₀ (hteLeft m s) := by
  unfold Machine.hteLeft
  split
  · split
    exacts [h.hteClose, h]
  · exact h

theorem Steady.outLeft {p : Port} {o : Out} (h : Steady s₀ s) : Steady s₀ (outLeft p o s) := by
  unfold Machine.outLeft
  extract_lets s' s''
  have hs : Steady s₀ s' := by
    unfold s'
    split
    exacts [h.when (·.occP), h]
  have hs' : Steady s₀ s'' := hs.fctr.hteLeft
  clear_value s''
  split
  · exact hs'
  · exact hs'.unless (·.maceDataLeft)
  · split
    exacts [hs'.when (·.occP), hs']

theorem Steady.setOh {p : DPort} {m : Msg} (h : Steady s₀ s) : Steady s₀ (setOh p m s) := by
  unfold Machine.setOh
  dsimp only
  split
  exacts [h.withPins, h.withPins]

theorem Steady.execEgressHeaderTransfer {p : DPort} {ordy : BitVec 5} (h : Steady s₀ s) : NextSteady s₀ (execEgressHeaderTransfer p ordy s) := by
  unfold Machine.execEgressHeaderTransfer
  dsimp only [NextSteady]
  split
  exacts [h, h.portSet.setOh.outLeft]

/-! ### Tick -/

/-- What changes nothing of these parts is as steady. -/
theorem Steady.only {l : List Part} (h : Steady s₀ s) (k : OnlyChanges l s t) (n : ∀ p ∈ [Part.pending, .life, .dom], p ∉ l := by decide) : Steady s₀ t :=
  ⟨(k.same .pending (n _ (by decide))).trans h.pending, (k.same .life (n _ (by decide))).trans h.life, (k.same .dom (n _ (by decide))).trans h.dom⟩

theorem Steady.tableTick (h : Steady s₀ s) : Steady s₀ (tableTick s) := .ite h (.foldl h (·.ctlUse))

theorem Steady.commitTick (h : Steady s₀ s) : Steady s₀ (commitTick s) := by
  unfold Machine.commitTick
  split
  · next e => exact h.when (·.genInstant)
  · exact h

/-! ### PRESENT stays honest (R342, R346) -/

/-- From `s₀` to `s` no command has left or joined those that wait, and PRESENT is honest where it was. -/
structure Honest (s₀ s : State) : Prop where
  pending : s.pending = s₀.pending
  safe : PresentSafe s₀ → PresentSafe s

theorem Honest.refl (s : State) : Honest s s := ⟨rfl, id⟩

theorem Honest.trans (h : Honest s₀ t) (k : Honest t s) : Honest s₀ s := ⟨k.pending.trans h.pending, k.safe ∘ h.safe⟩

/-- Whether PRESENT is honest is read of what stays. -/
theorem PresentSafe.congr (h : PresentSafe t) (life : lifeOf s.pins = lifeOf t.pins) (dom : s.pw.dom = t.pw.dom) : PresentSafe s := by
  simp only [lifeOf, Prod.mk.injEq] at life
  obtain ⟨present, porst, drst, vdd, req, pd⟩ := life
  simpa only [PresentSafe, powered, pdHeld, pdOn, pdState, moving, present, porst, drst, vdd, req, pd, dom] using h

theorem Steady.honest (h : Steady s₀ s) : Honest s₀ s := ⟨h.pending, fun k => k.congr h.life h.dom⟩

/-- While PRESENT is 0 nothing is claimed. -/
theorem presentSafe_of_absent (h : s.pins.present = false) : PresentSafe s := fun k => Bool.noConfusion (h.symm.trans k)

/-- While PRESENT is honest and a reset is on, it is 0. -/
theorem PresentSafe.absent (h : PresentSafe s) (k : powered s = false) : s.pins.present = false :=
  Bool.eq_false_iff.mpr fun p => Bool.noConfusion (k.symm.trans (h p).1)

/-- A domain that must stay ON is of the datapath's own, not a bank, and none of those that the steward switches while PRESENT is 1. -/
theorem serviceDomains_kept {n : Nat} (h : n ∈ serviceDomains) : 64 ≤ n ∧ n < 78 ∧ n ≠ 68 ∧ n ≠ 75 ∧ n ≠ 77 := by
  revert n
  decide

theorem serviceDomains_brought {n : Nat} (h : n ∈ serviceDomains) : n ∈ bringOrder := by
  revert n
  decide

/-- No transition that the steward starts while PRESENT is 1 takes a domain that must stay ON. -/
theorem wantStands_spares {w : Want} {n : Nat} (h : wantStands s w = true) (hn : n ∈ serviceDomains) (present : s.pins.present = true)
    (power : powered s = true) (on : pdOn s n = true) : w.pd ≠ n := by
  rintro rfl
  obtain ⟨low, -, not68, not75, not77⟩ := serviceDomains_kept hn
  have swept : ∀ b, offlineSwept s w.pd b = false := fun b => by
    unfold offlineSwept
    split
    · simp [Nat.not_lt.mpr low]
    · rfl
  have needed : offNeeded s w.pd = false := by simp [offNeeded, power, present, Nat.not_lt.mpr low, not68, not75, not77]
  unfold wantStands at h
  split at h <;> simp_all

theorem pmRequest_honest (s : State) : Honest s (pmRequest s) := by
  unfold pmRequest
  split
  · exact (Steady.refl s).withPw.honest
  · next w rest e =>
    have stands : wantStands s w = true := by
      have := List.head?_dropWhile_not (fun w => !wantStands s w) s.pw.wants
      simpa [e] using this
    refine ⟨rfl, fun h present => ?_⟩
    obtain ⟨power, held⟩ := h present
    refine ⟨power, fun n hn => ?_⟩
    have on : pdOn s n = true := (Bool.and_eq_true_iff.mp (held n hn)).1
    have spared := wantStands_spares stands hn present power on
    exact Bool.and_eq_true_iff.mpr ⟨on, by simpa [moving] using spared⟩

theorem pmTick_honest (s : State) : Honest s (pmTick s) := by
  unfold pmTick
  split
  · exact .refl s
  · split
    · exact (Steady.refl s).withPins.honest
    · exact (Steady.refl s).wantOffs.honest.trans (pmRequest_honest _)

/-- Neither the resets nor the domains move as PRESENT rises. -/
theorem presentRise_steady (s : State) : Steady (risen s) (presentRise s) := by
  rw [presentRise_eq]
  exact (Steady.when (Steady.refl (risen s)).liveSend (·.sendIntr)).when (·.ftFirst)

/-- PRESENT rises only where every domain of the bring-up is ON (R346). -/
theorem presentTry_honest (s : State) : Honest s (presentTry s) := by
  unfold presentTry
  split
  · next ready =>
    simp only [presentReady, Bool.and_eq_true, List.all_eq_true] at ready
    obtain ⟨⟨⟨⟨-, -⟩, power⟩, brought⟩, -⟩ := ready
    have safe : PresentSafe (risen s) := fun _ => ⟨power, fun n hn => brought n (serviceDomains_brought hn)⟩
    exact ⟨(presentRise_steady s).pending, fun _ => (presentRise_steady s).honest.safe safe⟩
  · exact .refl s

/-- The domain that moves is none that must stay ON while PRESENT is 1. -/
theorem powerDone_honest (h : s.pins.pmReq = true) : Honest s (powerDone s) := by
  let v : State := setPd s.pins.pmPd (codePow s.pins.pmTo) { s with pins := { s.pins with pmReq := false } }
  have moved : Honest s v := by
    refine ⟨rfl, fun k present => ?_⟩
    obtain ⟨power, held⟩ := k present
    refine ⟨power, fun n hn => ?_⟩
    have kept := Bool.and_eq_true_iff.mp (held n hn)
    have spared : n ≠ s.pins.pmPd := fun e => by simp [moving, h, e] at kept
    have dom : pdOn v n = pdOn s n := by
      simp only [pdOn, pdState]
      rw [show v.pw.dom = sset (fun _ => Power.off) s.pw.dom s.pins.pmPd (codePow s.pins.pmTo) from rfl, sget_sset_ne _ _ _ spared]
    exact Bool.and_eq_true_iff.mpr ⟨dom.trans kept.1, rfl⟩
  exact (moved.trans (Steady.refl v).domainMoved.armTry.honest).trans (presentTry_honest _)

/-- The loss of the datapath touches no command that waits, and leaves PRESENT 0. -/
theorem datapathLost_absent (s : State) : (datapathLost s).pending = s.pending ∧ PresentSafe (datapathLost s) :=
  by
  have h : Steady (presentFall s) (endDatapath (presentFall s)) := (Steady.refl _).endDatapath
  unfold datapathLost
  generalize endDatapath (presentFall s) = v at h
  exact ⟨h.pending, presentSafe_of_absent (congrArg Prod.fst h.life)⟩

theorem tick_honest (s : State) : Honest s (tick s) := by
  have timed (v : State) : Steady v (timeTick v) := (Steady.refl v).only (timeTick_only v)
  by_cases h : s.pins.porstN = true
  · rw [tick_eq h]
    have ends : Steady s (timeTick (endOf s)) := ((Steady.refl s).only (endOf_ends s).frame).only (timeTick_only _)
    exact (ends.commitTick.tableTick.honest.trans (pmTick_honest _)).trans (presentTry_honest _)
  · rw [tick, if_pos (by simp [h])]
    exact (timed s).honest

/-- The state that a command leads to, if it leads to one, is as honest as that before. -/
def NextHonest (s : State) : Out3 → Prop
  | .next u => Honest s u
  | _ => True

theorem NextSteady.honest {o : Out3} (h : NextSteady s₀ o) : NextHonest s₀ o :=
  match o, h with
  | .next _, h => Steady.honest h
  | .fault _, _ | .refused _, _ => trivial

theorem commitApply_honest (s : State) : NextHonest s (execCommitApply s) := by
  unfold execCommitApply
  dsimp only [NextHonest]
  split
  · split
    exacts [tick_honest s, .refl s]
  · exact .refl s

theorem powerTransitionDone_honest (s : State) : NextHonest s (execPowerTransitionDone s) := by
  unfold execPowerTransitionDone
  dsimp only [NextHonest]
  split
  · next h => exact powerDone_honest (Bool.and_eq_true_iff.mp h).1
  · exact .refl s

theorem porstAssert_honest (s : State) : NextHonest s (execPorstAssert s) := by
  unfold execPorstAssert
  dsimp only [NextHonest]
  split
  exacts [⟨rfl, fun _ => presentSafe_of_absent rfl⟩, .refl s]

theorem porstRelease_honest (chip : BitVec 14) (sreqid : BitVec 12) (s : State) : NextHonest s (execPorstRelease chip sreqid s) := by
  unfold execPorstRelease
  dsimp only [NextHonest]
  split
  · exact .refl s
  · next h => exact ⟨rfl, fun k => presentSafe_of_absent (k.absent (by simp [powered, h]))⟩

theorem drstAssert_honest (s : State) : NextHonest s (execDrstAssert s) := by
  unfold execDrstAssert
  dsimp only [NextHonest]
  split
  · obtain ⟨pending, safe⟩ := datapathLost_absent { s with pins := { s.pins with drstN := false } }
    exact ⟨pending, fun _ => safe⟩
  · exact .refl s

theorem drstRelease_honest (s : State) : NextHonest s (execDrstRelease s) := by
  unfold execDrstRelease
  dsimp only [NextHonest]
  split
  · exact .refl s
  · next h =>
    have off : Honest s { s with pins := { s.pins with drstN := true } } :=
      ⟨rfl, fun k => presentSafe_of_absent (k.absent (by simp [powered, h]))⟩
    split
    exacts [off.trans (Steady.refl _).startBring.honest, off]

theorem supplyFail_honest (s : State) : NextHonest s (execSupplyFail s) := by
  unfold execSupplyFail
  dsimp only [NextHonest]
  split
  · obtain ⟨pending, safe⟩ := datapathLost_absent { s with pins := { s.pins with vddCore := false } }
    exact ⟨pending, fun _ => safe⟩
  · exact .refl s

/-- Every command keeps the queue and PRESENT honest. -/
theorem exec_honest (i : Instr) (s : State) : NextHonest s (exec i s) :=
  match i with
  | .requestIngress _ _ _ => (Steady.execRequestIngress (.refl s)).honest
  | .sPortRequest _ => (Steady.execSPortRequest (.refl s)).honest
  | .creditLend _ _ => (Steady.execCreditLend (.refl s)).honest
  | .rd _ => (Steady.execRd (.refl s)).honest
  | .wr _ => (Steady.execWr (.refl s)).honest
  | .red _ => (Steady.execRed (.refl s)).honest
  | .atom _ => (Steady.execAtom (.refl s)).honest
  | .twait _ => (Steady.execTwait (.refl s)).honest
  | .tread _ => (Steady.execTread (.refl s)).honest
  | .chainRd => (Steady.execChainRd (.refl s)).honest
  | .maceSub _ => (Steady.execMaceSub (.refl s)).honest
  | .rdShr _ => (Steady.execRdShr (.refl s)).honest
  | .rdUnq _ => (Steady.execRdUnq (.refl s)).honest
  | .upgrade _ => (Steady.execUpgrade (.refl s)).honest
  | .wb _ => (Steady.execWb (.refl s)).honest
  | .evict _ => (Steady.execEvict (.refl s)).honest
  | .atomC _ => (Steady.execAtomC (.refl s)).honest
  | .rdOnce _ => (Steady.execRdOnce (.refl s)).honest
  | .regAccess _ => (Steady.execRegAccess (.refl s)).honest
  | .regTimeout _ _ => (Steady.execRegTimeout (.refl s)).honest
  | .snpAck p _ => (Steady.execSnpAck (.refl s) (p := p)).honest
  | .compAck p _ => (Steady.execCompAck (.refl s) (p := p)).honest
  | .dataHome p _ => (Steady.execDataHome (.refl s) (p := p)).honest
  | .wbData p _ => (Steady.execWbData (.refl s) (p := p)).honest
  | .hteDeferredWrite _ => (Steady.execHteDeferredWrite (.refl s)).honest
  | .hteRelookup _ => (Steady.execHteRelookup (.refl s)).honest
  | .homeTimeout _ => (Steady.execHomeTimeout (.refl s)).honest
  | .unmatchedAnswer p _ => (Steady.execUnmatchedAnswer (.refl s) (p := p)).honest
  | .unexpectedMessage p _ => (Steady.execUnexpectedMessage (.refl s) (p := p)).honest
  | .tempRpt _ _ => (Steady.execTempRpt (.refl s)).honest
  | .heldRequestRepresent _ _ => (Steady.execHeldRequestRepresent (.refl s)).honest
  | .mCommandIssue => (Steady.execMCommandIssue (.refl s)).honest
  | .mCreditReturn _ => (Steady.execMCreditReturn (.refl s)).honest
  | .mReadData _ _ _ => (Steady.execMReadData (.refl s)).honest
  | .fillInstall _ => (Steady.execFillInstall (.refl s)).honest
  | .mWriteAck _ _ => (Steady.execMWriteAck (.refl s)).honest
  | .sealMacReadData _ _ _ => (Steady.execSealMacReadData (.refl s)).honest
  | .macWriteComp _ _ => (Steady.execMacWriteComp (.refl s)).honest
  | .prefetchFill => (Steady.execPrefetchFill (.refl s)).honest
  | .exactStep => (Steady.execExactStep (.refl s)).honest
  | .twaitRelease _ => (Steady.execTwaitRelease (.refl s)).honest
  | .tallyDeadline _ => (Steady.execTallyDeadline (.refl s)).honest
  | .rehashSweepStep => (Steady.execRehashSweepStep (.refl s)).honest
  | .sedgeSweepStep => (Steady.execSedgeSweepStep (.refl s)).honest
  | .conversionSweepStep => (Steady.execConversionSweepStep (.refl s)).honest
  | .commitApply => commitApply_honest ..
  | .fenAllocZeroed _ => (Steady.execFenAllocZeroed (.refl s)).honest
  | .fenFreeReclaim _ => (Steady.execFenFreeReclaim (.refl s)).honest
  | .transferLineIssue _ => (Steady.execTransferLineIssue (.refl s)).honest
  | .transferLineResponse _ _ _ => (Steady.execTransferLineResponse (.refl s)).honest
  | .flipReady _ => (Steady.execFlipReady (.refl s)).honest
  | .flipEffect _ => (Steady.execFlipEffect (.refl s)).honest
  | .regionOpen _ => (Steady.execRegionOpen (.refl s)).honest
  | .resolveReady _ => (Steady.execResolveReady (.refl s)).honest
  | .resolveStart _ => (Steady.execResolveStart (.refl s)).honest
  | .resolveLineWrite _ => (Steady.execResolveLineWrite (.refl s)).honest
  | .resolveDeadline _ => (Steady.execResolveDeadline (.refl s)).honest
  | .maceIndexRead _ => (Steady.execMaceIndexRead (.refl s)).honest
  | .maceIndexResponse _ _ _ => (Steady.execMaceIndexResponse (.refl s)).honest
  | .maceElementIssue => (Steady.execMaceElementIssue (.refl s)).honest
  | .maceElement _ _ => (Steady.execMaceElement (.refl s)).honest
  | .maceEnd _ => (Steady.execMaceEnd (.refl s)).honest
  | .maceRecordComp _ _ => (Steady.execMaceRecordComp (.refl s)).honest
  | .getInfo => (Steady.execGetInfo (.refl s)).honest
  | .setTable => (Steady.execSetTable (.refl s)).honest
  | .getTable => (Steady.execGetTable (.refl s)).honest
  | .commit => (Steady.execCommit (.refl s)).honest
  | .commitCancel => (Steady.execCommitCancel (.refl s)).honest
  | .fenAlloc => (Steady.execFenAlloc (.refl s)).honest
  | .fenFree => (Steady.execFenFree (.refl s)).honest
  | .fenLoad => (Steady.execFenLoad (.refl s)).honest
  | .fenFlush => (Steady.execFenFlush (.refl s)).honest
  | .fenFlip => (Steady.execFenFlip (.refl s)).honest
  | .accOpen => (Steady.execAccOpen (.refl s)).honest
  | .accResolve => (Steady.execAccResolve (.refl s)).honest
  | .bankOffline => (Steady.execBankOffline (.refl s)).honest
  | .bankOnline => (Steady.execBankOnline (.refl s)).honest
  | .bankTrim => (Steady.execBankTrim (.refl s)).honest
  | .bankSweepStep _ => (Steady.execBankSweepStep (.refl s)).honest
  | .bankTrimCalibrationDone _ _ => (Steady.execBankTrimCalibrationDone (.refl s)).honest
  | .ctrRead => (Steady.execCtrRead (.refl s)).honest
  | .ctrLoad => (Steady.execCtrLoad (.refl s)).honest
  | .ctrZero => (Steady.execCtrZero (.refl s)).honest
  | .ctrStop => (Steady.execCtrStop (.refl s)).honest
  | .ctrStart => (Steady.execCtrStart (.refl s)).honest
  | .nativeSampleSubject _ => (Steady.execNativeSampleSubject (.refl s)).honest
  | .nativeSampleExpiry _ => (Steady.execNativeSampleExpiry (.refl s)).honest
  | .dumpNow => (Steady.execDumpNow (.refl s)).honest
  | .dumpRingReset => (Steady.execDumpRingReset (.refl s)).honest
  | .dump => (Steady.execDump (.refl s)).honest
  | .periodicSample _ => (Steady.execPeriodicSample (.refl s)).honest
  | .sampleWrite => (Steady.execSampleWrite (.refl s)).honest
  | .dmaWriteComp _ _ => (Steady.execDmaWriteComp (.refl s)).honest
  | .tierTempGauge _ => (Steady.execTierTempGauge (.refl s)).honest
  | .traceDmaWrite _ => (Steady.execTraceDmaWrite (.refl s)).honest
  | .traceIdleFlush _ => (Steady.execTraceIdleFlush (.refl s)).honest
  | .traceDmaComp _ _ => (Steady.execTraceDmaComp (.refl s)).honest
  | .traceTriggerCmd => (Steady.execTraceTriggerCmd (.refl s)).honest
  | .traceRestart => (Steady.execTraceRestart (.refl s)).honest
  | .traceFlush => (Steady.execTraceFlush (.refl s)).honest
  | .traceStop => (Steady.execTraceStop (.refl s)).honest
  | .watchRead => (Steady.execWatchRead (.refl s)).honest
  | .watchClear => (Steady.execWatchClear (.refl s)).honest
  | .watchArm => (Steady.execWatchArm (.refl s)).honest
  | .watchDisarm => (Steady.execWatchDisarm (.refl s)).honest
  | .watchScan => (Steady.execWatchScan (.refl s)).honest
  | .watchScanStep => (Steady.execWatchScanStep (.refl s)).honest
  | .drainHalt => (Steady.execDrainHalt (.refl s)).honest
  | .drainHaltDone => (Steady.execDrainHaltDone (.refl s)).honest
  | .drainClean => (Steady.execDrainClean (.refl s)).honest
  | .drainCleanSweepStep => (Steady.execDrainCleanSweepStep (.refl s)).honest
  | .drainEmpty => (Steady.execDrainEmpty (.refl s)).honest
  | .drainEmptySweepStep => (Steady.execDrainEmptySweepStep (.refl s)).honest
  | .resume => (Steady.execResume (.refl s)).honest
  | .inspectLine => (Steady.execInspectLine (.refl s)).honest
  | .wfgSnapshot => (Steady.execWfgSnapshot (.refl s)).honest
  | .snapshotWriteComp _ _ => (Steady.execSnapshotWriteComp (.refl s)).honest
  | .fwLoad => (Steady.execFwLoad (.refl s)).honest
  | .fwActivate => (Steady.execFwActivate (.refl s)).honest
  | .fwReady => (Steady.execFwReady (.refl s)).honest
  | .activationRevert => (Steady.execActivationRevert (.refl s)).honest
  | .watchdogExpiry => (Steady.execWatchdogExpiry (.refl s)).honest
  | .stewardTrap => (Steady.execStewardTrap (.refl s)).honest
  | .tenantSwitch => (Steady.execTenantSwitch (.refl s)).honest
  | .tenantSweepStep => (Steady.execTenantSweepStep (.refl s)).honest
  | .sealKeyLoad => (Steady.execSealKeyLoad (.refl s)).honest
  | .sealKeyErase => (Steady.execSealKeyErase (.refl s)).honest
  | .invalidCommand => (Steady.execInvalidCommand (.refl s)).honest
  | .cmdWhileBusy _ => (Steady.execCmdWhileBusy (.refl s)).honest
  | .mailboxDataWrite _ => (Steady.execMailboxDataWrite (.refl s)).honest
  | .mailboxDataRead _ => (Steady.execMailboxDataRead (.refl s)).honest
  | .dresetAbort _ => (Steady.execDresetAbort (.refl s)).honest
  | .mailboxStreamTimeout _ => (Steady.execMailboxStreamTimeout (.refl s)).honest
  | .evqPop _ => (Steady.execEvqPop (.refl s)).honest
  | .errPop _ => (Steady.execErrPop (.refl s)).honest
  | .fatalClr _ => (Steady.execFatalClr (.refl s)).honest
  | .alertClear _ => (Steady.execAlertClear (.refl s)).honest
  | .registerWrite _ => (Steady.execRegisterWrite (.refl s)).honest
  | .regulationWindowEnd _ => (Steady.execRegulationWindowEnd (.refl s)).honest
  | .patrolScrubStep => (Steady.execPatrolScrubStep (.refl s)).honest
  | .leakDecay => (Steady.execLeakDecay (.refl s)).honest
  | .live => (Steady.execLive (.refl s)).honest
  | .ftValid _ => (Steady.execFtValid (.refl s)).honest
  | .ftInvalid => (Steady.execFtInvalid (.refl s)).honest
  | .pmGrant => (Steady.execPmGrant (.refl s)).honest
  | .powerTransitionDone => powerTransitionDone_honest ..
  | .porstAssert => porstAssert_honest ..
  | .porstRelease _ _ => porstRelease_honest ..
  | .bootWord _ => (Steady.execBootWord (.refl s)).honest
  | .drstAssert => drstAssert_honest ..
  | .drstRelease => drstRelease_honest ..
  | .supplyFail => supplyFail_honest ..
  | .egressHeaderTransfer _ _ => (Steady.execEgressHeaderTransfer (.refl s)).honest
  | .eventNotice => (Steady.execEventNotice (.refl s)).honest
  | .inspectLineRecord => (Steady.execInspectLineRecord (.refl s)).honest

end
end Sys2Proof.Machine
end

namespace Sys2Proof
open Machine

/-- Settles O40: no command and no end of an SCLK takes a domain that must stay ON, or a reset, from under PRESENT. -/
theorem presentSafeStep : Obligations.PresentSafeStep := by
  intro s u h e
  unfold Machine.step at e
  split at e
  · cases e
    exact (tick_honest s).safe h
  · next c rest _ =>
    have k := exec_honest c { s with pending := rest }
    rw [e] at k
    exact k.safe h

/-- Settles O3: every operation that a command is made of leaves the queue as it is. -/
theorem execKeepsQueue : Obligations.ExecKeepsQueue := by
  intro c s u e
  have k := exec_honest c s
  rw [e] at k
  exact k.pending

/-- Settles O38. -/
theorem invariantsAtReset : Obligations.InvariantsAtReset := ⟨canonical_reset, presentSafe_of_absent rfl⟩

/-- Settles O1: the command at the front is the one that a step performs. -/
theorem stepTakesFront : Obligations.StepTakesFront := fun _ _ => rfl

end Sys2Proof

section
/-! SUPPORT. What stops the model: an answer of M that matches no outstanding command (O4: R336, log 17). -/

namespace Sys2Proof.Machine

-- One declaration after the other: the threads of declarations that wait for one another exhaust the memory that a compile may take.
set_option Elab.async false

/-- Every command answers a next state, but for the two that carry an answer of M. -/
theorem exec_next_or_answer (c : Instr) (s : State) :
    (∃ u, exec c s = .next u) ∨ (∃ e d poi, c = .mReadData e d poi) ∨ ∃ t err, c = .mWriteAck t err := by
  cases c
  case mReadData e d poi => exact .inr (.inl ⟨e, d, poi, rfl⟩)
  case mWriteAck t err => exact .inr (.inr ⟨t, err, rfl⟩)
  all_goals exact .inl ⟨_, rfl⟩

/-- Read data is taken by the miss entry that it names, if that awaits data, else it stops the model. -/
theorem mReadData_next_or_stop (e : Fin 1024) (d : Line) (poi : BitVec 2) (s : State) :
    (∃ x, s.mp.miss.find? (·.id = e.val) = some x ∧ x.st = .waitData ∧ x.mdata = none ∧ ∃ u, exec (.mReadData e d poi) s = .next u) ∨
      exec (.mReadData e d poi) s = .fault .mAnswerUnmatched := by
  have run : exec (.mReadData e d poi) s = execMReadData e d poi s := rfl
  rw [run, execMReadData]
  cases found : s.mp.miss.find? (·.id = e.val) with
  | some x =>
    by_cases awaits : x.st = .waitData ∧ x.mdata = none
    · exact .inl ⟨x, rfl, awaits.1, awaits.2, _, if_pos (by simp [awaits])⟩
    · exact .inr (if_neg (by simpa using awaits))
  | none => exact .inr rfl

/-- An acknowledgement is taken by the outstanding write of its tag, else it stops the model. -/
theorem mWriteAck_next_or_stop (t : MTag) (err : Bool) (s : State) :
    (∃ x ∈ s.mp.outW, x.1 = t ∧ ∃ u, exec (.mWriteAck t err) s = .next u) ∨ exec (.mWriteAck t err) s = .fault .mAnswerUnmatched := by
  cases found : s.mp.outW.find? fun x => x.1 == t with
  | some x => exact .inl ⟨x, List.mem_of_find?_eq_some found, by simpa using List.find?_some found, _, execMWriteAck_eq found⟩
  | none =>
    refine .inr ?_
    show execMWriteAck t err s = _
    rw [execMWriteAck, found]

end Sys2Proof.Machine

namespace Sys2Proof
open Machine

/-- Settles O4: an answer that its command awaits is taken, and one that no command awaits is all that stops the model. -/
theorem onlyUnmatchedAnswersStop : Obligations.OnlyUnmatchedAnswersStop := by
  refine ⟨fun e d poi s unmatched => ?_, fun t err s unmatched => ?_, fun c s => ?_⟩
  · refine (mReadData_next_or_stop e d poi s).resolve_left fun ⟨x, found, awaits, empty, _⟩ => ?_
    exact (unmatched x found).elim (· awaits) (· empty)
  · exact (mWriteAck_next_or_stop t err s).resolve_left fun ⟨x, out, tag, _⟩ => unmatched x out tag
  · rcases exec_next_or_answer c s with next | ⟨e, d, poi, rfl⟩ | ⟨t, err, rfl⟩
    · exact .inl next
    · exact (mReadData_next_or_stop e d poi s).imp (fun ⟨_, _, _, _, next⟩ => next) (⟨·, .inl ⟨e, d, poi, rfl⟩⟩)
    · exact (mWriteAck_next_or_stop t err s).imp (fun ⟨_, _, _, next⟩ => next) (⟨·, .inr ⟨t, err, rfl⟩⟩)

end Sys2Proof
end

section
/-! SUPPORT. Commands that end in the step that starts them, whatever they have changed before: GET_INFO, COMMIT and its cancel (O47, O49: R267, R271,
R272, R341). -/

namespace Sys2Proof.Machine

-- One declaration after the other: the threads of declarations that wait for one another exhaust the memory that a compile may take.
set_option Elab.async false

/-! ### Commands that complete -/

section
variable {s v : State} {t op : Nat} {rest : List Nat} {l : List Part}

/-- A command that ends in the step that starts it has completed, though it has touched its mailbox or raised a cause before. -/
theorem Heads.completesAfter (h : Heads s op t rest) (ho : op ≠ 0) (code : Nat) (res : List Nat) (k : OnlyChanges (l ++ mbxParts) (atStart s t rest) v)
    (same : (mbxGet v t).op = (mbxGet s t).op) (others : ∀ j, j ≠ t → mbxGet v j = mbxGet s j) (bits : v.ints.mbx = s.ints.mbx)
    (queue : v.startQ = rest) : Completes s (mbxDone t code res v) t rest code res l := by
  have d := mbxDone_only t code res v
  have o : (mbxGet v t).op ≠ 0 := by
    rw [same]
    exact fun z => ho (h.opcode.symm.trans (congrArg BitVec.toNat z))
  exact ⟨(mbxDone_ended_op o code res).since bits others, (d.same .startQ (by decide)).trans queue,
    (((atStart_only s t rest).mono (by simp [mbxParts])).trans k).trans (d.mono (by simp [mbxParts]))⟩

end

theorem getInfo_completes {s : State} {t : Nat} {rest : List Nat} (h : Heads s 0x01 t rest) :
    ∃ u, exec .getInfo s = .next u ∧ Completes s u t rest Mc.ok (infoRes s t) [] :=
  ⟨_, congrArg Host.Outcome.next (cmdRun_heads h rfl), h.completes (by decide) Mc.ok (infoRes s t) (.refl [] (atStart s t rest))⟩

/-! ### COMMIT (R267, R341) -/

theorem all_wanted {s : State} {c : Tables} (h : (needs c).all (pdHeld s) = true) : wantNeeds c s = s := by
  unfold wantNeeds
  generalize needs c = l at h
  induction l with
  | nil => rfl
  | cons d l ih =>
    rw [List.all_cons, Bool.and_eq_true] at h
    rw [List.foldl_cons, if_pos h.1]
    exact ih h.2

/-- A domain that is wanted and not held stays wanted. -/
theorem want_keeps {w : Want} {s : State} (h : w ∈ s.pw.wants) (n : Nat) (p : Power) : w ∈ (want n p s).pw.wants := by
  unfold want
  split
  · exact h
  · exact List.mem_append_left _ h

theorem want_held (n d : Nat) (p : Power) (s : State) : pdHeld (want n p s) d = pdHeld s d := by
  unfold want
  split <;> rfl

/-- Every domain that a candidate needs and that is not held is wanted ON (R341). -/
theorem wantNeeds_wants (c : Tables) (s : State) : OnlyChanges [.pw] s (wantNeeds c s) ∧ (∀ d, pdHeld (wantNeeds c s) d = pdHeld s d) ∧
    ∀ d ∈ needs c, pdHeld s d = false → { pd := d, target := .on } ∈ (wantNeeds c s).pw.wants := by
  have step (l : List Nat) : ∀ s : State,
      OnlyChanges [.pw] s (l.foldl (fun s d => if pdHeld s d then s else want d .on s) s) ∧
      (∀ d, pdHeld (l.foldl (fun s d => if pdHeld s d then s else want d .on s) s) d = pdHeld s d) ∧
      ∀ d, (d ∈ l ∧ pdHeld s d = false ∨ ({ pd := d, target := .on } : Want) ∈ s.pw.wants) →
        ({ pd := d, target := .on } : Want) ∈ (l.foldl (fun s d => if pdHeld s d then s else want d .on s) s).pw.wants := by
    induction l with
    | nil => exact fun s => ⟨.refl _ _, fun _ => rfl, fun d h => h.elim (fun x => by simp at x) id⟩
    | cons n l ih =>
      intro s
      rw [List.foldl_cons]
      split
      · next held =>
        obtain ⟨frame, same, wants⟩ := ih s
        refine ⟨frame, same, fun d h => wants d (h.imp_left fun ⟨m, off⟩ => ⟨(List.mem_cons.mp m).resolve_left ?_, off⟩)⟩
        rintro rfl
        exact Bool.noConfusion (held.symm.trans off)
      · obtain ⟨frame, same, wants⟩ := ih (want n .on s)
        refine ⟨(want_only n .on s).trans frame, fun d => (same d).trans (want_held ..), fun d h => wants d ?_⟩
        rcases h with ⟨m, off⟩ | m
        · rcases List.mem_cons.mp m with rfl | m
          · exact .inr (want_mem ..)
          · exact .inl ⟨m, (want_held ..).trans off⟩
        · exact .inr (want_keeps m ..)
  obtain ⟨frame, same, wants⟩ := step (needs c) s
  exact ⟨frame, same, fun d m off => wants d (.inl ⟨m, off⟩)⟩

section
variable {s : State} {rest : List Nat} (h : Heads s 0x04 0 rest) (cancel : argB s 0 0 0 = false) (rsv : argF s 0 0 1 31 = 0) (idle : commitArmed s = false)
  (present : s.pins.present = true)
include h cancel rsv idle present

/-- A COMMIT that may be checked is armed, waits, or is refused as its candidate's checks have it. -/
theorem commit_checked : exec .commit s = .next (match commitCheck s s.gen.shadow with
    | some f => mbxDone 0 f.code [0, 0, f.tab * 2 ^ 16 + f.ent] (atStart s 0 rest)
    | none => commitGo { mbx := 0, target := commitTarget s, cand := s.gen.shadow } (atStart s 0 rest)) := by
  have i : commitArmed (atStart s 0 rest) = false := idle
  have p : noDatapath (atStart s 0 rest) = false := congrArg not present
  have r : argF (atStart s 0 rest) 0 0 1 31 = 0 := (h.atStart_argF (by decide) ..).trans rsv
  have a (n : Nat) : mArg (atStart s 0 rest) 0 n = mArg s 0 n := by rw [mArg, mArg, h.atStart_get (by decide)]
  refine congrArg _ ((cmdRun_heads h (by rw [cancel]; rfl)).trans ?_)
  show commitCmd 0 (atStart s 0 rest) = _
  rw [commitCmd, if_neg (by decide), if_neg (not_not.mpr r), if_neg (by rw [i]; decide), if_neg (by rw [p]; decide), a, a]
  rfl

/-- With its domains ON it is armed at once. -/
theorem commit_arms (pass : commitCheck s s.gen.shadow = none) (held : (needs s.gen.shadow).all (pdHeld s) = true) :
    ∃ u, exec .commit s = .next u ∧ Completes s u 0 rest Mc.ok [(s.gen.gen + 1).toNat, editedBits s s.gen.shadow, 0] [.gen] ∧
      u.gen = { s.gen with armed := some { target := commitTarget s, cand := s.gen.shadow, gen := s.gen.gen + 1 } } := by
  let w : CommitWait := { mbx := 0, target := commitTarget s, cand := s.gen.shadow }
  let v := mbxWork 0 (waitSet w (atStart s 0 rest))
  let x : State := { v with gen := { s.gen with armed := some { target := commitTarget s, cand := s.gen.shadow, gen := s.gen.gen + 1 }, wait := none } }
  have go : commitGo w (atStart s 0 rest) = mbxDone 0 Mc.ok [(s.gen.gen + 1).toNat, editedBits s s.gen.shadow, 0] x := by
    have held' : (needs s.gen.shadow).all (pdHeld (atStart s 0 rest)) = true := held
    have ready : (coreRuns v && (needs w.cand).all (pdHeld v)) = true := Bool.and_eq_true_iff.mpr ⟨h.runs, held⟩
    rw [commitGo, all_wanted held', armTry]
    exact if_pos ready
  have work : mbxGet v 0 = { mbxGet (atStart s 0 rest) 0 with phase := .work } := mbxGet_mbxSet_self _ _ fun e => by cases congrArg Mbx.phase e
  have others (j : Nat) (hj : j ≠ 0) : mbxGet x j = mbxGet s j := (mbxGet_mbxSet_ne _ _ hj).trans (mbxGet_mbxSet_ne _ _ hj)
  have frame : OnlyChanges ([.gen] ++ mbxParts) (atStart s 0 rest) x :=
    (((genOnly _ _).le _).then (mbxWork_only ..)).then (genOnly _ v)
  have unwaited : s.gen.wait = none := by
    rw [commitArmed, Bool.or_eq_false_iff] at idle
    simpa using idle.2
  have unwaited_eq (a : Option Armed) : ({ s.gen with armed := a, wait := none } : GenSt) = { s.gen with armed := a } := by rw [← unwaited]
  refine ⟨_, ?_, h.completesAfter (by decide) Mc.ok _ frame ?_ others rfl rfl, (mbxDone_only ..).gen.trans ?_⟩
  · rw [commit_checked h cancel rsv idle present, pass]
    exact congrArg _ go
  · show (mbxGet v 0).op = _
    rw [work, h.atStart_get (by decide)]
  · show x.gen = { s.gen with armed := x.gen.armed }
    rw [← unwaited_eq x.gen.armed]

/-- With a domain of its own not ON it waits, and asks for it. -/
theorem commit_waits (pass : commitCheck s s.gen.shadow = none) (off : (needs s.gen.shadow).all (pdHeld s) = false) :
    ∃ u, exec .commit s = .next u ∧ GoesOn s u 0 rest [.gen, .pw] ∧
      u.gen = { s.gen with wait := some { mbx := 0, target := commitTarget s, cand := s.gen.shadow } } ∧
      ∀ d ∈ needs s.gen.shadow, pdHeld s d = false → { pd := d, target := .on } ∈ u.pw.wants := by
  let w : CommitWait := { mbx := 0, target := commitTarget s, cand := s.gen.shadow }
  obtain ⟨frame, held, wants⟩ := wantNeeds_wants s.gen.shadow (atStart s 0 rest)
  let v := waitSet w (wantNeeds s.gen.shadow (atStart s 0 rest))
  have go : commitGo w (atStart s 0 rest) = mbxWork 0 v := by
    have all : (needs s.gen.shadow).all (pdHeld (mbxWork 0 v)) = false := by
      rw [← off]
      exact congrArg _ (funext held)
    show armTry (mbxWork 0 v) = _
    rw [armTry]
    exact if_neg (by rw [show w.cand = s.gen.shadow from rfl, all, Bool.and_false]; decide)
  have started : OnlyChanges [.gen, .pw] (atStart s 0 rest) v := (frame.le _).then (genOnly _ _)
  refine ⟨mbxWork 0 v, ?_, h.goesOn (by decide) started, ?_, wants⟩
  · rw [commit_checked h cancel rsv idle present, pass]
    exact congrArg _ go
  · exact congrArg (fun g : GenSt => { g with wait := some w }) frame.gen

theorem commit_refused {f : Refused} (fails : commitCheck s s.gen.shadow = some f) :
    ∃ u, exec .commit s = .next u ∧ Completes s u 0 rest f.code [0, 0, f.tab * 2 ^ 16 + f.ent] [] := by
  refine ⟨_, ?_, h.completes (by decide) f.code _ (.refl [] (atStart s 0 rest))⟩
  rw [commit_checked h cancel rsv idle present, fails]

end

/-! ### The cancel (R271) -/

section
variable {s : State} {rest : List Nat} (h : Heads s 0x04 0 rest) (cancel : argB s 0 0 0 = true) (rsv : argF s 0 0 1 31 = 0)
include h cancel rsv

theorem cancel_checked : exec .commitCancel s = .next (match s.gen.armed with
    | none => mbxDone 0 Mc.estate [] (atStart s 0 rest)
    | some a => if commitDue s a then mbxDone 0 Mc.estate [] (atStart s 0 rest)
      else mbxDone 0 Mc.ok [a.gen.toNat] (genEnd 1 noRefusal (atStart s 0 rest))) := by
  have r : argF (atStart s 0 rest) 0 0 1 31 = 0 := (h.atStart_argF (by decide) ..).trans rsv
  refine congrArg _ ((cmdRun_heads h cancel).trans ?_)
  show cancelCmd 0 (atStart s 0 rest) = _
  rw [cancelCmd, if_neg (by decide), if_neg (not_not.mpr r)]
  rfl

theorem cancel_ends {a : Armed} (armed : s.gen.armed = some a) (early : commitDue s a = false) :
    ∃ u, exec .commitCancel s = .next u ∧ Completes s u 0 rest Mc.ok [a.gen.toNat] [.gen] ∧
      u.gen = { s.gen with armed := none, last := 1, ftab := 0, fcode := 0, fent := 0, gft := s.clk.ft } ∧
      u.ints.stat.getLsbD Cause.genFail = true := by
  let v := genEnd 1 noRefusal (atStart s 0 rest)
  have frame := genEnd_only 1 noRefusal (atStart s 0 rest)
  have mbx := mbxGet_congr (frame.same .mbx (by decide))
  refine ⟨mbxDone 0 Mc.ok [a.gen.toNat] v, ?_, h.completesAfter (by decide) Mc.ok _ (frame.le _) ?_ (fun j hj => ?_) ?_ (frame.same .startQ (by decide)), ?_, ?_⟩
  · rw [cancel_checked h cancel rsv, armed]
    exact congrArg _ (if_neg (by rw [early]; decide))
  · rw [mbx, h.atStart_get (by decide)]
  · exact (mbx j).trans (mbxGet_mbxSet_ne _ _ hj)
  · exact setInts_mbx ..
  · exact (mbxDone_only ..).gen.trans (genEnd_gen ..)
  · have raised : v.ints.stat.getLsbD Cause.genFail = true := raise_getLsbD _ (by decide) _
    show (raiseMbx 0 _).ints.stat.getLsbD Cause.genFail = true
    rw [raiseMbx, setInts_stat]
    exact raised

theorem cancel_late {a : Armed} (armed : s.gen.armed = some a) (late : commitDue s a = true) :
    ∃ u, exec .commitCancel s = .next u ∧ Completes s u 0 rest Mc.estate [] [] := by
  refine ⟨_, ?_, h.completes (by decide) Mc.estate [] (.refl [] (atStart s 0 rest))⟩
  rw [cancel_checked h cancel rsv, armed]
  exact congrArg _ (if_pos late)

theorem cancel_unarmed (armed : s.gen.armed = none) : ∃ u, exec .commitCancel s = .next u ∧ Completes s u 0 rest Mc.estate [] [] := by
  refine ⟨_, ?_, h.completes (by decide) Mc.estate [] (.refl [] (atStart s 0 rest))⟩
  rw [cancel_checked h cancel rsv, armed]

end

end Sys2Proof.Machine

namespace Sys2Proof
open Machine

/-- Settles O47. -/
theorem getInfoCompletes : Obligations.GetInfoCompletes := fun _ _ _ h => getInfo_completes h

/-- Settles O49: the checks decide between arming, waiting and the first refusal, and the instant between a cancel in time and one too late. -/
theorem commitArms : Obligations.CommitArms :=
  ⟨fun _ _ h cancel rsv idle present => ⟨commit_arms h cancel rsv idle present, commit_waits h cancel rsv idle present,
      fun _ fails => commit_refused h cancel rsv idle present fails⟩,
    fun _ _ h cancel rsv => ⟨fun _ armed early => cancel_ends h cancel rsv armed early, fun _ armed late => cancel_late h cancel rsv armed late,
      cancel_unarmed h cancel rsv⟩⟩

end Sys2Proof
end

section
/-! SUPPORT. DRAIN and RESUME (O52, O53: R269, R273, R274). -/

namespace Sys2Proof.Machine

-- One declaration after the other: the threads of declarations that wait for one another exhaust the memory that a compile may take.
set_option Elab.async false

/-! ### DRAIN (R273) -/

section
variable {s : State} {mode : Nat} {rest : List Nat}

/-- The checks that every DRAIN shares pass, with those of its mode. -/
theorem drainChecks_pass (h : DrainCmd s mode rest) (hm : mode ≠ 3) {l : List (Bool × Nat)} (hl : firstOf l = none) :
    firstOf (drainChecks (atStart s 0 rest) 0 ++ l) = none := by
  obtain ⟨heads, mode_, rsv, idle, present, free⟩ := h
  have i : commitArmed (atStart s 0 rest) = false := idle
  have p : noDatapath (atStart s 0 rest) = false := congrArg not present
  have d : (atStart s 0 rest).srv.drain = none := free
  simp [drainChecks, firstOf, heads.atStart_argF, heads.atStart_argRsv, mode_, rsv, hm, i, p, d, hl]

/-- A DRAIN that has started has its work go on in the datapath. -/
theorem drainStart_goesOn (h : DrainCmd s mode rest) (m : DrainMode) (x : LiveSt) :
    GoesOn s (drainStart m 0 { atStart s 0 rest with srv := x }) 0 rest [.srv] :=
  h.heads.goesOn (by decide) ((srvOnly x _).trans (srvOnly ..))

theorem drainHalt_starts (h : DrainCmd s 0 rest) (free : s.srv.halt = false) :
    ∃ u, exec .drainHalt s = .next u ∧ GoesOn s u 0 rest [.srv] ∧ u.srv = { s.srv with halt := true, drain := some (newDrain .halt) } := by
  have own : firstOf [((atStart s 0 rest).srv.halt, Mc.estate)] = none := by
    rw [show (atStart s 0 rest).srv = s.srv from rfl, free]
    rfl
  have sub : (drainSub 0 s 0 || drainSub 3 s 0) = true := by simp [drainSub, h.mode]
  exact ⟨_, congrArg Host.Outcome.next ((cmdRun_heads h.heads sub).trans (checked_pass (drainChecks_pass h (by decide) own))), drainStart_goesOn h .halt _, rfl⟩

theorem drainClean_starts (h : DrainCmd s 1 rest) :
    ∃ u, exec .drainClean s = .next u ∧ GoesOn s u 0 rest [.srv] ∧ u.srv = { s.srv with drain := some (newDrain .clean) } := by
  have checks : firstOf (drainChecks (atStart s 0 rest) 0) = none := by
    have := drainChecks_pass h (by decide) (l := []) rfl
    rwa [List.append_nil] at this
  exact ⟨_, congrArg Host.Outcome.next ((cmdRun_heads h.heads (by simp [drainSub, h.mode])).trans (checked_pass checks)), drainStart_goesOn h .clean s.srv, rfl⟩

theorem drainEmpty_starts (h : DrainCmd s 2 rest) (free : s.srv.allocOff = false) :
    ∃ u, exec .drainEmpty s = .next u ∧ GoesOn s u 0 rest [.srv] ∧ u.srv = { s.srv with allocOff := true, drain := some (newDrain .empty) } := by
  have own : firstOf [((atStart s 0 rest).srv.allocOff, Mc.estate)] = none := by
    rw [show (atStart s 0 rest).srv = s.srv from rfl, free]
    rfl
  exact ⟨_, congrArg Host.Outcome.next ((cmdRun_heads h.heads (by simp [drainSub, h.mode])).trans (checked_pass (drainChecks_pass h (by decide) own))),
    drainStart_goesOn h .empty _, rfl⟩

/-- HALT has ended with every request that was presented before it passed. -/
theorem drainHaltDone_ends {d : Drain} (hd : s.srv.drain = some d) (hm : d.mode = .halt) (c : Canonical s) :
    ∃ u, exec .drainHaltDone s = .next u ∧ Ended s u d.mbx Mc.ok [0, 0] ∧ u.srv = { s.srv with drain := none } ∧ OnlyChanges [.srv, .mbx, .ints, .d0] s u := by
  let v : State := { s with srv := { s.srv with drain := none } }
  have run : exec .drainHaltDone s = .next (mbxDone d.mbx Mc.ok [0, 0] v) := by
    show execDrainHaltDone s = _
    rw [execDrainHaltDone, hd]
    exact congrArg _ (if_pos hm)
  exact ⟨_, run, (mbxDone_ended d.mbx Mc.ok [0, 0] v c.mbx).since rfl fun _ _ => rfl, (mbxDone_only ..).srv, ((srvOnly _ s).le _).then (mbxDone_only ..)⟩

end

/-! ### RESUME (R274) -/

section
variable {s : State} {rest : List Nat} (h : Heads s 0x63 0 rest)
include h

/-- RESUME is refused with the status of the check that fails first. -/
theorem resume_refused {c : Nat} (fails : firstOf [(decide ((0 : Nat) ≠ 0), Mc.eperm), (commitArmed s, Mc.eagain),
    (noDatapath s || (!s.srv.halt && !s.srv.allocOff), Mc.estate)] = some c) : ∃ u, exec .resume s = .next u ∧ Completes s u 0 rest c [] [] := by
  have run : exec .resume s = .next (mbxDone 0 c (if c = Mc.eperm ∨ c = Mc.zeroNop then [] else []) (atStart s 0 rest)) :=
    congrArg Host.Outcome.next ((cmdRun_heads h rfl).trans (checked_fail fails))
  rw [ite_self] at run
  exact ⟨_, run, h.completes (by decide) c [] (.refl [] (atStart s 0 rest))⟩

theorem resume_completes (idle : commitArmed s = false) (present : s.pins.present = true) (some_ : s.srv.halt = true ∨ s.srv.allocOff = true) :
    ∃ u, exec .resume s = .next u ∧ Completes s u 0 rest Mc.ok [] [.srv] ∧ u.srv = { s.srv with halt := false, allocOff := false } := by
  have i : commitArmed (atStart s 0 rest) = false := idle
  have p : noDatapath (atStart s 0 rest) = false := congrArg not present
  have e : (atStart s 0 rest).srv = s.srv := rfl
  have run : exec .resume s = .next (mbxDone 0 Mc.ok [] { atStart s 0 rest with srv := { s.srv with halt := false, allocOff := false } }) :=
    congrArg Host.Outcome.next ((cmdRun_heads h rfl).trans (checked_pass (by rcases some_ with x | x <;> simp [firstOf, i, p, ← atStart.eq_1, e, x])))
  exact ⟨_, run, h.completes (by decide) Mc.ok [] (srvOnly _ (atStart s 0 rest)), (mbxDone_only ..).srv⟩

end

end Sys2Proof.Machine

namespace Sys2Proof
open Machine

/-- Settles O52: each mode passes the checks that the DRAINs share and its own, and starts. -/
theorem drainStarts : Obligations.DrainStarts :=
  ⟨fun _ _ h free => drainHalt_starts h free, fun _ _ h => drainClean_starts h, fun _ _ h free => drainEmpty_starts h free,
    fun _ _ hd hm c => drainHaltDone_ends hd hm c⟩

/-- Settles O53: what RESUME ends is told by the first of its checks that fails. -/
theorem resumeEnds : Obligations.ResumeEnds := by
  refine fun s rest h => ⟨resume_completes h, fun idle halt alloc => resume_refused h ?_, fun armed => resume_refused h ?_⟩
  · simp [firstOf, idle, halt, alloc]
  · simp [firstOf, commitArmed, Option.isSome_iff_ne_none.mpr armed]

end Sys2Proof
end

section
/-! SUPPORT. Firmware (O50: R264, R281 to R285). -/

namespace Sys2Proof.Machine

-- One declaration after the other: the threads of declarations that wait for one another exhaust the memory that a compile may take.
set_option Elab.async false

theorem coreOnly (x : Core) (s : State) : OnlyChanges [.core] s { s with core := x } :=
  ⟨fun q hq => by cases q <;> first | rfl | exact absurd (by simp) hq⟩

theorem setInactive_eq (v : Bool) (s : State) :
    setInactive v s = { s with core := if s.core.slot then { s.core with vala := v } else { s.core with valb := v } } := by
  rw [setInactive]
  split <;> rfl

/-! ### FW_LOAD and FW_ACTIVATE (R281, R282) -/

section
variable {s : State} {rest : List Nat}

theorem atStart_others (s : State) (t : Nat) (rest : List Nat) {j : Nat} (hj : j ≠ t) : mbxGet (atStart s t rest) j = mbxGet s j :=
  mbxGet_mbxSet_ne _ _ hj

theorem atStart_otherRuns (s : State) (t : Nat) (rest : List Nat) : otherRuns (atStart s t rest) t = otherRuns s t := by
  refine congrArg (List.any (List.range 16)) (funext fun j => ?_)
  by_cases hj : j = t
  · simp [hj]
  · rw [atStart_others s t rest hj]

theorem atStart_runsOp (s : State) (t : Nat) (rest : List Nat) (op : Nat) : runsOp (atStart s t rest) t op = runsOp s t op := by
  refine congrArg (List.any (List.range 16)) (funext fun j => ?_)
  by_cases hj : j = t
  · simp [hj]
  · rw [atStart_others s t rest hj]

/-- The checks of a command read the state that it starts in. -/
theorem cmdRun_starts {op t : Nat} {sub : State → Nat → Bool} {f : Nat → State → State} (h : Heads s op t rest) (b : sub s t = true) :
    cmdRun op sub f s = f t (atStart s t rest) := cmdRun_heads h b

/-- The inactive slot is not valid any more, and the words of an image are awaited. -/
theorem fwLoad_awaits (h : Heads s 0x70 0 rest) (n : 1 ≤ argF s 0 0 0 15) (le : argF s 0 0 0 15 ≤ 24576) (rsv : argRsv s 0 [(0, 15, 17)] = false)
    (loads : runsOp s 0 0x70 = false) (activates : runsOp s 0 0x71 = false) (short : (mbxGet s 0).inF.length < argF s 0 0 0 15) :
    ∃ u, exec .fwLoad s = .next u ∧ AwaitsWords s u 0 (argF s 0 0 0 15) ∧ u.startQ = rest ∧
      u.core = (if s.core.slot then { s.core with vala := false } else { s.core with valb := false }) ∧ OnlyChanges [.mbx, .startQ, .core] s u := by
  let v := setInactive false (atStart s 0 rest)
  have fv : OnlyChanges [.core] (atStart s 0 rest) v := by
    rw [show v = _ from setInactive_eq false _]
    exact coreOnly ..
  have core : v.core = if s.core.slot then { s.core with vala := false } else { s.core with valb := false } :=
    congrArg State.core (setInactive_eq false (atStart s 0 rest))
  have runs : coreRuns v = true := by
    have : coreRuns v = coreRuns s := by rw [coreRuns, core]; split <;> rfl
    exact this.trans h.runs
  have getv (j : Nat) : mbxGet v j = mbxGet (atStart s 0 rest) j := mbxGet_congr (fv.same .mbx (by decide)) j
  have start : mbxGet v 0 = { mbxGet s 0 with outF := [] } := (getv 0).trans (h.atStart_get (by decide))
  have run : exec .fwLoad s = .next (mbxInput 0 (argF s 0 0 0 15) v) := by
    refine congrArg _ ((cmdRun_starts h rfl).trans ?_)
    rw [fwLoadCmd, h.atStart_argF (by decide), h.atStart_argRsv (by decide), atStart_runsOp, atStart_runsOp, rsv, loads, activates]
    exact checked_pass (by simp [firstOf, le, show argF s 0 0 0 15 ≠ 0 by omega])
  obtain ⟨u, ⟨get, others, frame⟩, e⟩ := mbxInput_takes runs 0 (argF s 0 0 0 15)
  rw [start] at get e
  rw [if_neg (Nat.not_le.mpr short)] at e
  refine ⟨u, run.trans (congrArg _ e), ⟨?_, ?_, ?_, ?_, fun j hj => ?_⟩, ?_, (frame.same .core (by decide)).trans core, ?_⟩
  · rw [get, takenWords]
  · rw [get]
    exact List.take_of_length_le short.le
  · rw [get]
    exact List.drop_of_length_le short.le
  · rw [get, takenWords]
  · exact (others j hj).trans ((getv j).trans (atStart_others s 0 rest hj))
  · exact (frame.same .startQ (by decide)).trans (fv.same .startQ (by decide))
  · exact (((atStart_only s 0 rest).le _).then fv).then frame

/-- The core restarts from the other slot, which FW_ACTIVATE selects. -/
theorem fwActivate_restarts (h : Heads s 0x71 0 rest) (rsv : argRsv s 0 [(0, 0, 32)] = false) (valid : inactiveValid s = true)
    (others : otherRuns s 0 = false) (idle : commitArmed s = false) :
    ∃ u, exec .fwActivate s = .next u ∧ GoesOn s u 0 rest [.core] ∧
      u.core = coreAfter s { s.core with slot := !s.core.slot, act := some { mbx := 0, at_ := s.clk.run, reverted := false } } := by
  have v : inactiveValid (atStart s 0 rest) = true := valid
  have i : commitArmed (atStart s 0 rest) = false := idle
  have run : exec .fwActivate s = .next { mbxWork 0 (atStart s 0 rest) with
      core := coreAfter s { s.core with slot := !s.core.slot, act := some { mbx := 0, at_ := s.clk.run, reverted := false } } } := by
    refine congrArg _ ((cmdRun_starts h rfl).trans ?_)
    rw [fwActivateCmd, h.atStart_argRsv (by decide), atStart_otherRuns, rsv, v, i, others]
    exact checked_pass rfl
  exact ⟨_, run, (h.goesOn (by decide) (.refl [] _)).then (coreOnly ..), rfl⟩

end

/-! ### Restarts (R264, R283, R284) -/

section
variable {s : State}

/-- An alert has its bit, its cause and its pin. -/
theorem raiseAlert_alerts (b : Nat) (s : State) : (raiseAlert b s).ints.alert = s.ints.alert ||| BitVec.ofNat 3 (2 ^ b) ∧
    (raiseAlert b s).ints.stat.getLsbD Cause.alert = true ∧ (raiseAlert b s).pins = { s.pins with alert := true } ∧
    (raiseAlert b s).ints.rst = s.ints.rst := by
  have keeps (i : Ints) (t : State) : (setInts i t).ints.alert = i.alert ∧ (setInts i t).ints.rst = i.rst := by
    unfold setInts sendIntr
    dsimp only
    split
    · split <;> exact ⟨rfl, rfl⟩
    · exact ⟨rfl, rfl⟩
  exact ⟨(keeps ..).1, raise_getLsbD _ (by decide) _, (raise_only ..).pins, (keeps ..).2⟩

theorem activating_iff {a : Act} (h : s.core.act = some a) (fresh : a.reverted = false) (sup : s.core.sup = false) : activating s = true := by
  simp [activating, h, fresh, sup]

/-- The activation is taken back, and the core restarts from the slot before. -/
theorem revert_reverts {a : Act} (h : s.core.act = some a) : (revert s).core = coreReverted s a ∧ (revert s).ints.alert = s.ints.alert ||| 4 ∧
    (revert s).ints.stat.getLsbD Cause.alert = true ∧ (revert s).pins = { s.pins with alert := true } ∧
    OnlyChanges [.core, .ints, .pins, .d0] s (revert s) := by
  let v : State := { s with core := coreReverted s a }
  have e : revert s = raiseAlert 2 v := by
    simp only [revert, setInactive_eq, coreReset, h, Option.map_some]
    rfl
  obtain ⟨alert, stat, pins, _⟩ := raiseAlert_alerts 2 v
  have f := raiseAlert_only 2 v
  rw [e]
  exact ⟨f.same .core (by decide), alert, stat, pins, ((coreOnly _ s).le _).then f⟩

theorem revert_runs {c : Instr} {a : Act} (h : s.core.act = some a) (fresh : a.reverted = false) (sup : s.core.sup = false)
    (hc : c = .activationRevert ∧ Config.activateTicks ≤ s.clk.run - a.at_ ∨ c = .stewardTrap ∧ s.core.run = true) :
    exec c s = .next (revert s) := by
  have act := activating_iff h fresh sup
  rcases hc with ⟨rfl, late⟩ | ⟨rfl, run⟩
  · show execActivationRevert s = _
    rw [execActivationRevert, h]
    exact congrArg _ (if_pos (by rw [act]; exact decide_eq_true late))
  · show execStewardTrap s = _
    rw [execStewardTrap, run, act]
    rfl

/-- The core restarts in its slot with an alert. -/
theorem coreAlert_restarts (b : Nat) (s : State) : (coreAlert b s).core = coreAfter s s.core ∧
    (coreAlert b s).startQ = (if coreRuns s then [] else s.startQ) ∧ (coreAlert b s).ints.alert = s.ints.alert ||| BitVec.ofNat 3 (2 ^ b) ∧
    (coreAlert b s).ints.rst = s.ints.rst + 1 ∧ (coreAlert b s).ints.stat.getLsbD Cause.alert = true ∧
    (coreAlert b s).pins = { s.pins with alert := true } ∧ OnlyChanges [.core, .startQ, .ints, .pins, .d0] s (coreAlert b s) := by
  let v := coreRestart { s with ints := { s.ints with rst := s.ints.rst + 1 } }
  have e : coreAlert b s = raiseAlert b v := rfl
  obtain ⟨alert, stat, pins, rst⟩ := raiseAlert_alerts b v
  have f := raiseAlert_only b v
  have fv : OnlyChanges [.core, .startQ, .ints] s v := ⟨fun q hq => by cases q <;> first | rfl | exact absurd (by simp) hq⟩
  rw [e]
  exact ⟨f.same .core (by decide), f.same .startQ (by decide), alert, rst, stat, pins, (fv.le _).then f⟩

theorem coreAlert_runs {c : Instr} {b : BitVec 3} (run : s.core.run = true)
    (hc : c = .watchdogExpiry ∧ 10000000 ≤ s.clk.run - s.core.wdAt ∧ b = 1 ∨ c = .stewardTrap ∧ activating s = false ∧ b = 2) :
    ∃ k, BitVec.ofNat 3 (2 ^ k) = b ∧ exec c s = .next (coreAlert k s) := by
  rcases hc with ⟨rfl, late, rfl⟩ | ⟨rfl, quiet, rfl⟩
  · exact ⟨0, rfl, congrArg _ (if_pos (by rw [run]; exact decide_eq_true late))⟩
  · refine ⟨1, rfl, ?_⟩
    show execStewardTrap s = _
    rw [execStewardTrap, run, quiet]
    rfl

theorem firmwareRestarts : FirmwareRestarts := by
  refine ⟨fun _ _ h n le rsv loads activates short => fwLoad_awaits h n le rsv loads activates short,
    fun _ _ h rsv valid others idle => fwActivate_restarts h rsv valid others idle,
    fun _ _ _ h fresh sup hc => ⟨_, revert_runs h fresh sup hc, revert_reverts h⟩, fun c b s run hc => ?_⟩
  obtain ⟨k, rfl, e⟩ := coreAlert_runs run hc
  exact ⟨_, e, coreAlert_restarts k s⟩

end

/-! ### The image reports ready (R264) -/

section
variable {s u v : State} {n t : Nat}

/-- The activation is of mailbox `t`'s command. -/
def actsFor (s : State) (t : Nat) : Bool := s.core.act.any fun a => a.mbx == t

/-- Mailbox `t` has no command that ends as the image reports ready. -/
def Stays (s : State) (t : Nat) : Prop := (mbxGet s t).busy = false ∨ t ∈ s.startQ ∨ actsFor s t = false ∧ inDatapath s t = true

/-- Mailbox `t` with its FIFOs empty. -/
def emptied (t : Nat) (s : State) : State := mbxSet t { mbxGet s t with inF := [], outF := [] } s

theorem readyLeaves_of_stays (h : Stays s t) : readyLeaves s u t ↔ mbxGet u t = { mbxGet s t with inF := [], outF := [] } :=
  iff_of_eq (if_pos h)

theorem readyLeaves_of_ends (h : ¬ Stays s t) : readyLeaves s u t ↔
    (mbxGet u t).busy = false ∧ (mbxGet u t).inF = [] ∧ (mbxGet u t).outF = [] ∧ u.ints.mbx.getLsbD t = true ∧
    (actsFor s t = true → (mbxGet u t).res = resWords [b2n s.core.slot, fwVer s] ∧
      (mbxGet u t).code = BitVec.ofNat 4 (if s.core.act.any Act.reverted then Mc.efault else Mc.ok)) ∧
    (actsFor s t = false → (mbxGet u t).code = BitVec.ofNat 4 Mc.estate) :=
  iff_of_eq (if_neg h)

/-- What a mailbox has been left as stays while the others change and causes are added. -/
theorem readyLeaves.keep (h : readyLeaves s v t) (get : mbxGet u t = mbxGet v t)
    (bit : v.ints.mbx.getLsbD t = true → u.ints.mbx.getLsbD t = true) : readyLeaves s u t := by
  by_cases c : Stays s t
  · rw [readyLeaves_of_stays c] at *
    exact get.trans h
  · rw [readyLeaves_of_ends c] at *
    rw [get]
    obtain ⟨busy, inF, outF, mbx, ends⟩ := h
    exact ⟨busy, inF, outF, bit mbx, ends⟩

theorem emptied_get (c : swf (fun _ => Mbx.reset) s.mbx = true) : mbxGet (emptied t s) t = { mbxGet s t with inF := [], outF := [] } :=
  mbxGet_mbxSet _ _ c

theorem emptied_inDatapath (c : swf (fun _ => Mbx.reset) s.mbx = true) : inDatapath (emptied t s) t = inDatapath s t := by
  rw [inDatapath, emptied_get c]
  rfl

theorem readyMbx_eq (c : swf (fun _ => Mbx.reset) s.mbx = true) (t : Nat) : readyMbx t s =
    if (mbxGet s t).busy = false ∨ t ∈ s.startQ then emptied t s
    else if actsFor s t then mbxDone t (if s.core.act.any Act.reverted then Mc.efault else Mc.ok) [b2n s.core.slot, fwVer s]
      { emptied t s with core := { s.core with act := none } }
    else if inDatapath s t then emptied t s else mbxDone t Mc.estate [] (emptied t s) := by
  have e : readyMbx t s = if (!(mbxGet s t).busy || s.startQ.contains t) = true then emptied t s
      else match s.core.act with
      | some a =>
        if a.mbx = t then mbxDone t (if a.reverted then Mc.efault else Mc.ok) [b2n s.core.slot, fwVer s]
          { emptied t s with core := { s.core with act := none } }
        else if inDatapath (emptied t s) t then emptied t s else mbxDone t Mc.estate [] (emptied t s)
      | none => if inDatapath (emptied t s) t then emptied t s else mbxDone t Mc.estate [] (emptied t s) := rfl
  rw [e, emptied_inDatapath c]
  refine if_congr (by simp) rfl ?_
  cases ha : s.core.act with
  | none => simp [actsFor, ha]
  | some a => simp [actsFor, ha]

/-- A mailbox whose command does not end has its FIFOs emptied. -/
theorem readyMbx_of_stays (c : swf (fun _ => Mbx.reset) s.mbx = true) (h : Stays s t) : readyMbx t s = emptied t s := by
  rw [readyMbx_eq c]
  rcases h with h | h | ⟨h, k⟩ <;> simp [*]

/-- The activation's command ends with its result, and the activation with it. -/
theorem readyMbx_of_acts (c : swf (fun _ => Mbx.reset) s.mbx = true) (h : ¬ Stays s t) (a : actsFor s t = true) :
    readyMbx t s = mbxDone t (if s.core.act.any Act.reverted then Mc.efault else Mc.ok) [b2n s.core.slot, fwVer s]
      { emptied t s with core := { s.core with act := none } } := by
  rw [readyMbx_eq c, if_neg fun k => h (by rcases k with k | k; exacts [.inl k, .inr (.inl k)]), if_pos a]

/-- Any other command that ends does so with ESTATE. -/
theorem readyMbx_of_ends (c : swf (fun _ => Mbx.reset) s.mbx = true) (h : ¬ Stays s t) (a : actsFor s t = false) :
    readyMbx t s = mbxDone t Mc.estate [] (emptied t s) := by
  rw [readyMbx_eq c, if_neg fun k => h (by rcases k with k | k; exacts [.inl k, .inr (.inl k)]), if_neg (by simp [a]),
    if_neg fun k => h (.inr (.inr ⟨a, k⟩))]

/-- One mailbox more is dealt with, the others are left alone. -/
structure Dealt (s u : State) (t : Nat) : Prop where
  frame : OnlyChanges [.core, .mbx, .ints, .d0] s u
  core : ∃ x, u.core = { s.core with act := x } ∧ (x = s.core.act ∨ x = none ∧ actsFor s t = true)
  canon : swf (fun _ => Mbx.reset) u.mbx = true
  leaves : readyLeaves s u t
  others : ∀ j, j ≠ t → mbxGet u j = mbxGet s j
  bits : ∀ j, s.ints.mbx.getLsbD j = true → u.ints.mbx.getLsbD j = true

/-- A mailbox emptied with its command ended, the activation's core left as `k`. -/
theorem emptied_ended (c : swf (fun _ => Mbx.reset) s.mbx = true) (t code : Nat) (res : List Nat) (k : Core) :
    Ended s (mbxDone t code res { emptied t s with core := k }) t code res ∧ (mbxGet (mbxDone t code res { emptied t s with core := k }) t).outF = [] ∧
      (mbxDone t code res { emptied t s with core := k }).core = k ∧
      OnlyChanges [.core, .mbx, .ints, .d0] s (mbxDone t code res { emptied t s with core := k }) ∧
      swf (fun _ => Mbx.reset) (mbxDone t code res { emptied t s with core := k }).mbx = true := by
  let w : State := { emptied t s with core := k }
  have cw : swf (fun _ => Mbx.reset) w.mbx = true := swf_sset _ _ _ _ c
  have fw : OnlyChanges [.core, .mbx] s w := ((mbxSet_only ..).le _).then (coreOnly k (emptied t s))
  have d := mbxDone_only t code res w
  refine ⟨(mbxDone_ended t code res w cw).since rfl fun j hj => mbxGet_mbxSet_ne _ _ hj, ?_, d.same .core (by decide), (fw.le _).then d, ?_⟩
  · rw [mbxDone, raiseMbx_get, mbxGet_mbxSet _ _ cw]
    exact congrArg Mbx.outF (emptied_get c)
  · rw [show (mbxDone t code res w).mbx = _ from (raiseMbx_only ..).same .mbx (by decide)]
    exact swf_sset _ _ _ _ cw

theorem Ended.bits {code : Nat} {res : List Nat} (h : Ended s u t code res) (j : Nat) (k : s.ints.mbx.getLsbD j = true) :
    u.ints.mbx.getLsbD j = true := by
  rw [h.bit, BitVec.getLsbD_or, k, Bool.true_or]

theorem Ended.own_bit {code : Nat} {res : List Nat} (h : Ended s u t code res) (lt : t < 16) : u.ints.mbx.getLsbD t = true := by
  rw [h.bit, BitVec.getLsbD_or, BitVec.getLsbD_ofNat, Nat.testBit_two_pow_self]
  simp [lt]

theorem readyMbx_deals (c : swf (fun _ => Mbx.reset) s.mbx = true) (lt : t < 16) : Dealt s (readyMbx t s) t := by
  by_cases h : Stays s t
  · rw [readyMbx_of_stays c h]
    exact ⟨(mbxSet_only ..).le _, ⟨s.core.act, rfl, .inl rfl⟩, swf_sset _ _ _ _ c, (readyLeaves_of_stays h).mpr (emptied_get c),
      fun j hj => mbxGet_mbxSet_ne _ _ hj, fun _ k => k⟩
  cases a : actsFor s t with
  | true =>
    rw [readyMbx_of_acts c h a]
    obtain ⟨e, out, core, frame, canon⟩ := emptied_ended c t (if s.core.act.any Act.reverted then Mc.efault else Mc.ok) [b2n s.core.slot, fwVer s]
      { s.core with act := none }
    exact ⟨frame, ⟨none, core, .inr ⟨rfl, a⟩⟩, canon, (readyLeaves_of_ends h).mpr ⟨e.busy, e.inF, out, e.own_bit lt, fun _ => ⟨e.res, e.code⟩, by simp [a]⟩,
      e.others, e.bits⟩
  | false =>
    rw [readyMbx_of_ends c h a]
    obtain ⟨e, out, core, frame, canon⟩ := emptied_ended c t Mc.estate [] s.core
    exact ⟨frame, ⟨s.core.act, core, .inl rfl⟩, canon, (readyLeaves_of_ends h).mpr ⟨e.busy, e.inF, out, e.own_bit lt, by simp [a], fun _ => e.code⟩, e.others, e.bits⟩

/-- The image has reported ready, and the mailboxes below `n` have been dealt with: the activation stands, or was of one of these. -/
structure ReadyTo (s v : State) (n : Nat) : Prop where
  frame : OnlyChanges [.core, .mbx, .ints, .d0] s v
  core : ∃ x, v.core = { s.core with sup := true, act := x } ∧ (x = s.core.act ∨ x = none ∧ ∀ t, n ≤ t → actsFor s t = false)
  canon : swf (fun _ => Mbx.reset) v.mbx = true
  below : ∀ t < n, readyLeaves s v t
  above : ∀ t, n ≤ t → mbxGet v t = mbxGet s t

theorem ReadyTo.start (c : swf (fun _ => Mbx.reset) s.mbx = true) : ReadyTo s { s with core := { s.core with sup := true } } 0 :=
  ⟨(coreOnly _ s).le _, ⟨s.core.act, rfl, .inl rfl⟩, c, fun _ h => absurd h (Nat.not_lt_zero _), fun _ _ => rfl⟩

/-- A mailbox that has not been dealt with yet is left as it would be left first. -/
theorem ReadyTo.leaves (r : ReadyTo s v n) (h : readyLeaves v u n) : readyLeaves s u n := by
  obtain ⟨frame, ⟨x, core, act⟩, canon, below, above⟩ := r
  have get := above n le_rfl
  have same : actsFor v n = actsFor s n ∧ (actsFor s n = true → v.core.act = s.core.act) := by
    rw [actsFor, core]
    rcases act with rfl | ⟨rfl, none_⟩
    · exact ⟨rfl, fun _ => rfl⟩
    · rw [none_ n le_rfl]
      exact ⟨rfl, nofun⟩
  have stays : Stays v n ↔ Stays s n := by
    rw [Stays, Stays, inDatapath, inDatapath, get, frame.same .startQ (by decide), frame.gen, same.1]
  by_cases k : Stays s n
  · rw [readyLeaves_of_stays (stays.mpr k), get] at h
    exact (readyLeaves_of_stays k).mpr h
  · rw [readyLeaves_of_ends fun j => k (stays.mp j), same.1] at h
    obtain ⟨busy, inF, outF, bit, acts, ends⟩ := h
    refine (readyLeaves_of_ends k).mpr ⟨busy, inF, outF, bit, fun a => ?_, ends⟩
    obtain ⟨res, code⟩ := acts a
    rw [same.2 a] at code
    refine ⟨res.trans ?_, code⟩
    rw [fwVer, core]
    rfl

theorem ReadyTo.step (r : ReadyTo s v n) (lt : n < 16) : ReadyTo s (readyMbx n v) (n + 1) := by
  have d := readyMbx_deals r.canon lt
  have own := r.leaves d.leaves
  obtain ⟨frame, ⟨x, core, act⟩, canon, below, above⟩ := r
  obtain ⟨fd, ⟨y, core_d, act_d⟩, canon_d, _, others, bits⟩ := d
  refine ⟨frame.trans fd, ⟨y, core_d.trans (by rw [core]), ?_⟩, canon_d, fun t ht => ?_, fun t ht => (others t (by omega)).trans (above t (by omega))⟩
  · rw [actsFor, core] at act_d
    rcases act_d with rfl | ⟨rfl, now⟩
    · exact act.imp_right fun ⟨e, h⟩ => ⟨e, fun t ht => h t (by omega)⟩
    · rcases act with rfl | ⟨rfl, -⟩
      · refine .inr ⟨rfl, fun t ht => ?_⟩
        cases ha : s.core.act with
        | none => rw [actsFor, ha, Option.any_none]
        | some a =>
          simp only [ha, Option.any_some, beq_iff_eq] at now
          simp only [actsFor, ha, Option.any_some, beq_eq_false_iff_ne]
          omega
      · cases now
  · rcases Nat.lt_succ_iff_lt_or_eq.mp ht with k | rfl
    · exact (below t k).keep (others t (by omega)) (bits t)
    · exact own

theorem readyMbx_fold (c : swf (fun _ => Mbx.reset) s.mbx = true) (h : n ≤ 16) :
    ReadyTo s ((List.range n).foldl (fun s t => readyMbx t s) { s with core := { s.core with sup := true } }) n := by
  induction n with
  | zero => exact .start c
  | succ n ih =>
    rw [List.range_succ, List.foldl_append]
    exact (ih (by omega)).step h

/-- With all mailboxes dealt with, the tables and INSPECT_LINE are left as R264 has it. -/
theorem ReadyTo.ends (r : ReadyTo s v 16) (u : State)
    (hu : u = { v with gen := { v.gen with shadow := v.gen.live, wait := none }, srv := { v.srv with insp := [] } }) :
    u.core.sup = true ∧ u.gen = { s.gen with shadow := s.gen.live, wait := none } ∧ u.srv = { s.srv with insp := [] } ∧
      (∀ t < 16, readyLeaves s u t) ∧ OnlyChanges [.core, .gen, .srv, .mbx, .ints, .d0] s u := by
  obtain ⟨frame, ⟨x, core, -⟩, -, below, -⟩ := r
  subst hu
  refine ⟨congrArg Core.sup core, by rw [frame.gen], by rw [frame.srv], fun t ht => (below t ht).keep rfl id, ?_⟩
  exact (frame.le _).then (l := [.gen, .srv]) ⟨fun q hq => by cases q <;> first | rfl | exact absurd (by simp) hq⟩

theorem fwReady_leaves : ImageReady := by
  intro s run sup bring c
  have e : exec .fwReady s = .next (imageReady s) := by
    show execFwReady s = _
    rw [execFwReady, if_pos (by simp [run, sup, bring])]
  exact ⟨_, e, (readyMbx_fold c.mbx le_rfl).ends _ (by rw [imageReady])⟩

end

end Sys2Proof.Machine

namespace Sys2Proof
open Machine

/-- Settles O50: the restarts of the core, and what an image that reports ready leaves, mailbox after mailbox. -/
theorem firmware : Obligations.Firmware := ⟨firmwareRestarts, fwReady_leaves⟩

end Sys2Proof
end

section
/-! SUPPORT. INSPECT_LINE while the steward core does not run (O54: R264, R275). -/

namespace Sys2Proof.Machine

-- One declaration after the other: the threads of declarations that wait for one another exhaust the memory that a compile may take.
set_option Elab.async false

/-- An INSPECT_LINE of mailbox 0 is in its output, and the core is in reset: no firmware moves its words (R261, R264). -/
def inspectingInReset : State :=
  { State.reset with
    pins := { State.reset.pins with present := true }
    srv := { State.reset.srv with insp := [{ mbx := 0, kind := 0, loc := 0, epoch := 0, count := 1, done := 0 }] }
    mbx := [(0, { Mbx.reset with busy := true, phase := .output, op := 0x61 })] }

theorem inspectingInReset_canonical : Canonical inspectingInReset := { canonical_reset with mbx := rfl }

theorem inspectingInReset_inspects : inspectingInReset.srv.insp.find? (fun x => (mbxGet inspectingInReset x.mbx).pend.isEmpty) =
    some { mbx := 0, kind := 0, loc := 0, epoch := 0, count := 1, done := 0 } ∧
    (mbxGet inspectingInReset 0).outF = [] ∧ (mbxGet inspectingInReset 0).phase = .output ∧ (mbxGet inspectingInReset 0).op = 0x61 := by decide +kernel

/-- The record is taken, and its words stay where they wait. -/
theorem inspectingInReset_record : (match exec .inspectLineRecord inspectingInReset with | .next u => (mbxGet u 0).outF | _ => [0]) = [] := by
  decide +kernel

theorem inspWords_ne_nil (s : State) (x : InspAt) : (inspWords s x).map (BitVec.ofNat 32) ≠ [] := by simp [inspWords]

end Sys2Proof.Machine

namespace Sys2Proof
open Machine

/-- Refutes O54: with the core in reset a record that INSPECT_LINE takes does not enter the output FIFO, for the firmware moves the words (R261, R264); the
statement has it there whether the core runs or not. -/
theorem not_stateShown : ¬ Obligations.StateShown := by
  intro ⟨⟨_, records⟩, _⟩
  obtain ⟨found, out, phase, op⟩ := inspectingInReset_inspects
  obtain ⟨u, run, outF, _⟩ := records inspectingInReset _ found rfl inspectingInReset_canonical (by rw [out]; decide) phase (by rw [op]; decide)
  have stays := inspectingInReset_record
  rw [run] at stays
  rw [out, List.nil_append] at outF
  exact inspWords_ne_nil _ _ (outF.symm.trans stays)

end Sys2Proof
end

section
/-! SUPPORT. CTR_CONFIG (O56: R287, R289, R297, R299). -/

namespace Sys2Proof.Machine

-- One declaration after the other: the threads of declarations that wait for one another exhaust the memory that a compile may take.
set_option Elab.async false

/-! ### Words that a command delivers and that end it (R261) -/

/-- Result words pass through the mailbox's words of 32 bits unchanged. -/
theorem resWords_words (l : List Nat) : resWords ((l.map (BitVec.ofNat 32)).map BitVec.toNat) = resWords l := by
  refine List.map_congr_left fun i _ => BitVec.eq_of_toNat_eq ?_
  simp only [List.getD_eq_getElem?_getD, List.getElem?_map, BitVec.toNat_ofNat]
  cases l[i]? <;> simp

/-- What has been delivered stays to be read as the command ends. -/
theorem mbxDone_outF {s : State} {t : Nat} (h : (mbxGet s t).op ≠ 0) (c : Nat) (r : List Nat) :
    (mbxGet (mbxDone t c r s) t).outF = (mbxGet s t).outF := by
  rw [mbxDone, raiseMbx_get]
  rw [mbxGet_mbxSet_self]
  exact fun z => h (congrArg Mbx.op z)

/-- A command whose output is not GET_TABLE's ends with its last word in the FIFO. -/
theorem mbxOut_ends {s : State} {t : Nat} (words res : List Nat) (runs : coreRuns s = true) (empty : (mbxGet s t).outF = []) (op : (mbxGet s t).op ≠ 0)
    (table : (mbxGet s t).op ≠ 3) (insp : ∀ x ∈ s.srv.insp, x.mbx ≠ t) : Delivers s (mbxOut t words res s) t (words.map (BitVec.ofNat 32)) res := by
  let ws := words.map (BitVec.ofNat 32)
  let m : Mbx := { mbxGet s t with phase := .output, pend := ws, got := res.map (BitVec.ofNat 32), wait := s.clk.run }
  let d := delivering (mbxGet s t) ws res s.clk.run
  let v := mbxSet t m s
  let w := mbxSet t d v
  have hv : MbxBecomes s v t m := .set t s fun e => by cases congrArg Mbx.phase e
  have hw : MbxBecomes s w t d := hv.trans (.set t v fun e => by cases congrArg Mbx.phase e)
  have fill : mbxFill t v = w := by
    rw [mbxFill, hv.get]
    simp [m, w, d, delivering, empty]
  have rv : coreRuns v = true := runs
  have e : mbxOut t words res s = if outEnded w t then mbxDone t Mc.ok ((mbxGet w t).got.map BitVec.toNat) w else w := by
    show mbxOutTry t v = _
    rw [mbxOutTry, rv, fill]
    rfl
  have none_ : w.srv.insp.any (·.mbx == t) = false := List.any_eq_false.mpr fun x hx => by simpa using insp x hx
  have ended : outEnded w t = decide (words.length ≤ 64) := by
    have nt : ((mbxGet s t).op != 3) = true := bne_iff_ne.mpr table
    have drop : (ws.drop 64).isEmpty = decide (words.length ≤ 64) := by
      rw [Bool.eq_iff_iff, List.isEmpty_iff, List.drop_eq_nil_iff, List.length_map, decide_eq_true_iff]
    rw [outEnded, hw.get, none_]
    dsimp only [d, delivering]
    rw [nt, drop]
    simp
  have opw : (mbxGet w t).op ≠ 0 := by rw [hw.get]; exact op
  rw [e, ended]
  by_cases short : words.length ≤ 64
  · simp only [short, decide_true, if_true]
    have k : Ended s (mbxDone t Mc.ok ((mbxGet w t).got.map BitVec.toNat) w) t Mc.ok ((mbxGet w t).got.map BitVec.toNat) :=
      (mbxDone_ended_op opw Mc.ok _).since (congrArg Ints.mbx hw.frame.ints) hw.others
    have out : (mbxGet (mbxDone t Mc.ok ((mbxGet w t).got.map BitVec.toNat) w) t).outF = ws.take 64 := by
      rw [mbxDone_outF opw, hw.get]
      rfl
    obtain ⟨code, res_, busy, phase, inF, bit, others⟩ := k
    exact ⟨out, fun _ => ⟨code, by rw [res_, hw.get]; exact resWords_words res, busy, phase, inF, bit, others⟩,
      fun long => absurd long (by simpa using short)⟩
  · simp only [short, decide_false, Bool.false_eq_true, if_false]
    exact ⟨by rw [hw.get]; rfl, fun k => absurd k (by simpa using short),
      fun _ => ⟨by rw [hw.get]; rfl, by rw [hw.get]; rfl, by rw [hw.get]; rfl, by rw [hw.get]; rfl, hw.others⟩⟩

/-! ### The counters of a range -/

section
variable {s u v : State} {l m : List Nat} {q r : List CRst} {g : Nat → Ctr → Ctr}

/-- From `s` to `u` each counter of `l` is changed by `g`, and the resets `r` are asked for. -/
structure CtrsChanged (s u : State) (l : List Nat) (g : Nat → Ctr → Ctr) (r : List CRst) : Prop where
  frame : OnlyChanges [.ctr] s u
  rest : ∃ x, u.ctr = { s.ctr with ctr := x, rst := s.ctr.rst ++ r }
  get : ∀ n, ctrGet u n = if n ∈ l then g n (ctrGet s n) else ctrGet s n
  canon : swf (fun _ => Ctr.reset) u.ctr.ctr = true

theorem CtrsChanged.trans (h : CtrsChanged s u l g q) (k : CtrsChanged u v m g r) (idem : ∀ n c, g n (g n c) = g n c) :
    CtrsChanged s v (l ++ m) g (q ++ r) := by
  obtain ⟨fh, ⟨x, eh⟩, gh, _⟩ := h
  obtain ⟨fk, ⟨y, ek⟩, gk, c⟩ := k
  refine ⟨fh.trans fk, ⟨y, by rw [ek, eh, List.append_assoc]⟩, fun n => ?_, c⟩
  rw [gk, gh]
  by_cases a : n ∈ l <;> by_cases b : n ∈ m <;> simp [a, b, idem]

/-- Counters are changed one after another. -/
theorem CtrsChanged.foldl {f : Nat → State → State} {r : Nat → List CRst} (idem : ∀ n c, g n (g n c) = g n c) (l : List Nat)
    (c : swf (fun _ => Ctr.reset) s.ctr.ctr = true)
    (one : ∀ v n, v.mbx = s.mbx → swf (fun _ => Ctr.reset) v.ctr.ctr = true → CtrsChanged v (f n v) [n] g (r n)) :
    CtrsChanged s (l.foldl (fun s n => f n s) s) l g (l.flatMap r) := by
  induction l generalizing s with
  | nil => exact ⟨.refl _ s, ⟨s.ctr.ctr, by simp⟩, fun n => by simp, c⟩
  | cons n l ih =>
    have h := one s n rfl c
    have k := h.trans (ih h.canon fun v n e w => one v n (e.trans (h.frame.same .mbx (by decide))) w) idem
    simpa using k

theorem ctrPut_changes (n : Nat) (c : Ctr) (hc : c = g n (ctrGet s n)) (w : swf (fun _ => Ctr.reset) s.ctr.ctr = true) :
    CtrsChanged s (ctrPut n c s) [n] g [] := by
  refine ⟨ctrPut_only .., ⟨_, by rw [List.append_nil]; rfl⟩, fun k => ?_, swf_sset _ _ _ _ w⟩
  by_cases e : k = n
  · subst e
    rw [if_pos (List.mem_singleton.mpr rfl), ← hc]
    exact sget_sset _ _ _ _ none w
  · rw [if_neg (by simpa using e)]
    exact sget_sset_ne _ _ _ e

end

/-! ### CTR_CONFIG -/

section
variable {s : State} {t op : Nat} {rest : List Nat}

theorem Heads.ctrRange_atStart (h : Heads s 0x40 t rest) : ctrRange (atStart s t rest) t = ctrRange s t := by
  simp only [ctrRange, h.atStart_argF (by decide)]

theorem Heads.loadVal_atStart (h : Heads s 0x40 t rest) (n : Nat) : loadVal (atStart s t rest) t n = loadVal s t n := by
  rw [loadVal, loadVal, h.atStart_argF (by decide), mArg, mArg, h.atStart_get (by decide)]

/-- The command of a CTR_CONFIG whose checks pass. -/
theorem CtrCmd.runs (h : CtrCmd s t op rest) (le : op < 5) {sub : State → Nat → Bool} (b : sub s t = true) (f : Nat → State → State) :
    cmdRun 0x40 sub (ctrCmd f) s = f t (atStart s t rest) := by
  obtain ⟨heads, does, perm, count, rsv, inside, on⟩ := h
  have p : (ctrRange s t).all (ctrPerm (atStart s t rest) t) = true := List.all_eq_true.mpr perm
  have c : noCounters (atStart s t rest) = false := congrArg not on
  refine (cmdRun_starts heads b).trans (checked_pass ?_)
  rw [ctrChecks, heads.ctrRange_atStart, p, c]
  simp only [heads.atStart_argF (by decide), heads.atStart_argRsv (by decide), does, rsv]
  split at inside <;> simp [firstOf, count] <;> omega

/-- A command on every counter of the range completes. -/
theorem CtrCmd.completes (h : CtrCmd s t op rest) {v : State} (k : OnlyChanges [.ctr] (atStart s t rest) v) :
    Completes s (mbxDone t Mc.ok (ftWords v.clk.ft) v) t rest Mc.ok (ftWords s.clk.ft) [.ctr] := by
  rw [show v.clk.ft = s.clk.ft from congrArg Clock.ft k.clk]
  exact h.heads.completes (by decide) Mc.ok _ k

theorem ctrRead_waits (h : CtrCmd s t 0 rest) :
    ∃ u, exec .ctrRead s = .next u ∧ GoesOn s u t rest [.ctr] ∧ u.ctr = { s.ctr with caps := s.ctr.caps ++ [.read t] } :=
  ⟨_, congrArg Host.Outcome.next (h.runs (by decide) (by simp [ctrSub, h.does]) _), (h.heads.goesOn (by decide) (.refl [] _)).then (ctrOnly ..), rfl⟩

/-- The captured words are those of the SCLK's end, before the captures that it asked for are dropped. -/
theorem readOut_delivers (caps : s.ctr.caps = [.read t]) (work : (mbxGet s t).phase = .work) (op : (mbxGet s t).op = 0x40)
    (empty : (mbxGet s t).outF = []) (runs : coreRuns s = true) (insp : ∀ x ∈ s.srv.insp, x.mbx ≠ t) :
    Delivers s (capTick s) t (((ctrRange s t).flatMap (ctrWords s)).map (BitVec.ofNat 32)) (ftWords s.clk.ft) ∧
      (capTick s).ctr = { s.ctr with caps := [] } ∧ OnlyChanges [.mbx, .ints, .d0, .ctr] s (capTick s) := by
  let v : State := { s with ctr := { s.ctr with caps := [] } }
  have e : capTick s = mbxOut t ((ctrRange s t).flatMap (ctrWords s)) (ftWords s.clk.ft) v := by
    rw [capTick, caps]
    exact if_pos (show ((mbxGet s t).phase == .work && (mbxGet s t).op == 0x40) = true by rw [work, op]; rfl)
  have d : Delivers v (mbxOut t ((ctrRange s t).flatMap (ctrWords s)) (ftWords s.clk.ft) v) t (((ctrRange s t).flatMap (ctrWords s)).map (BitVec.ofNat 32))
      (ftWords s.clk.ft) :=
    mbxOut_ends _ _ runs empty (show (mbxGet s t).op ≠ 0 by rw [op]; decide) (show (mbxGet s t).op ≠ 3 by rw [op]; decide) insp
  have f := mbxOut_only t ((ctrRange s t).flatMap (ctrWords s)) (ftWords s.clk.ft) v
  rw [e]
  obtain ⟨out, short, long⟩ := d
  exact ⟨⟨out, fun k => (short k).since rfl fun _ _ => rfl, long⟩, f.same .ctr (by decide), ((ctrOnly _ s).le _).then f⟩

/-- A command on every counter of the range completes with its FT value. -/
theorem ctrEach_completes (h : CtrCmd s t op rest) (c : Canonical s) {f : Nat → State → State} {g : Nat → Ctr → Ctr} {r : Nat → List CRst}
    (idem : ∀ n c, g n (g n c) = g n c)
    (one : ∀ v n, v.mbx = (atStart s t rest).mbx → swf (fun _ => Ctr.reset) v.ctr.ctr = true → CtrsChanged v (f n v) [n] g (r n)) :
    ∃ x, (ctrEach f t (atStart s t rest)).ctr = { s.ctr with ctr := x, rst := s.ctr.rst ++ (ctrRange s t).flatMap r } ∧
      (∀ n, ctrGet (ctrEach f t (atStart s t rest)) n = if n ∈ ctrRange s t then g n (ctrGet s n) else ctrGet s n) ∧
      Completes s (ctrEach f t (atStart s t rest)) t rest Mc.ok (ftWords s.clk.ft) [.ctr] := by
  let u := (ctrRange (atStart s t rest) t).foldl (fun s n => f n s) (atStart s t rest)
  have k : CtrsChanged (atStart s t rest) u (ctrRange s t) g ((ctrRange s t).flatMap r) := by
    rw [show u = (ctrRange s t).foldl (fun s n => f n s) (atStart s t rest) by rw [← h.heads.ctrRange_atStart]]
    exact .foldl idem _ c.ctr one
  obtain ⟨frame, ⟨x, ctr⟩, get, _⟩ := k
  have done : (mbxDone t Mc.ok (ftWords u.clk.ft) u).ctr = u.ctr := (mbxDone_only ..).same .ctr (by decide)
  have e : ctrEach f t (atStart s t rest) = mbxDone t Mc.ok (ftWords u.clk.ft) u := by
    rw [ctrEach, show u.clk = (atStart s t rest).clk from frame.clk]
  rw [e]
  exact ⟨x, done.trans ctr, fun n => (congrArg (sget (fun _ => Ctr.reset) · n) (congrArg CtrSt.ctr done)).trans (get n), h.completes frame⟩

/-- Each counter's value and load value are LOAD's, by its parity. -/
theorem ctrLoad_loads (h : CtrCmd s t 1 rest) (c : Canonical s) :
    ∃ u, exec .ctrLoad s = .next u ∧ Completes s u t rest Mc.ok (ftWords s.clk.ft) [.ctr] ∧
      u.ctr.rst = s.ctr.rst ++ (ctrRange s t).map (fun n => { n := n, val := loadVal s t n, zl := true, commit := false }) ∧
      (∀ n, ctrGet u n = if n ∈ ctrRange s t then { ctrGet s n with load := loadVal s t n } else ctrGet s n) ∧ u.ctr.occ = s.ctr.occ ∧
      u.ctr.samp = s.ctr.samp ∧ u.ctr.dump = s.ctr.dump := by
  let g : Nat → Ctr → Ctr := fun n c => { c with load := loadVal s t n }
  let r : Nat → List CRst := fun n => [{ n := n, val := loadVal s t n, zl := true, commit := false }]
  have one (v : State) (n : Nat) (e : v.mbx = (atStart s t rest).mbx) (w : swf (fun _ => Ctr.reset) v.ctr.ctr = true) :
      CtrsChanged v (ctrReset n (loadVal v t n) (ctrPut n { ctrGet v n with load := loadVal v t n } v)) [n] g (r n) := by
    have val : loadVal v t n = loadVal s t n := by
      rw [← h.heads.loadVal_atStart n, loadVal, loadVal, argF, argF, mArg, mArg, mArg, mArg, mbxGet_congr e]
    have k := ctrPut_changes (g := g) n { ctrGet v n with load := loadVal s t n } rfl w
    rw [val]
    exact k.trans ⟨ctrOnly .., ⟨_, rfl⟩, fun _ => rfl, k.canon⟩ fun _ _ => rfl
  obtain ⟨x, ctr, get, done⟩ := ctrEach_completes h c (g := g) (r := r) (fun _ _ => rfl) one
  refine ⟨_, congrArg Host.Outcome.next (h.runs (by decide) (by simp [ctrSub, h.does]) _), done, ?_, get, ?_, ?_, ?_⟩
  · rw [List.map_eq_flatMap]
    exact congrArg CtrSt.rst ctr
  · exact (congrArg CtrSt.occ ctr :)
  · exact (congrArg CtrSt.samp ctr :)
  · exact (congrArg CtrSt.dump ctr :)

theorem ctrRun_sets (b : Bool) (h : CtrCmd s t op rest) (c : Canonical s) :
    Completes s (ctrRunSet b t (atStart s t rest)) t rest Mc.ok (ftWords s.clk.ft) [.ctr] ∧
      (∀ n, ctrGet (ctrRunSet b t (atStart s t rest)) n = if n ∈ ctrRange s t then { ctrGet s n with run := b } else ctrGet s n) ∧
      (ctrRunSet b t (atStart s t rest)).ctr.occ = s.ctr.occ ∧ (ctrRunSet b t (atStart s t rest)).ctr.ovl = s.ctr.ovl ∧
      (ctrRunSet b t (atStart s t rest)).ctr.rst = s.ctr.rst := by
  obtain ⟨x, ctr, get, done⟩ := ctrEach_completes h c (g := fun _ c => { c with run := b }) (r := fun _ => []) (fun _ _ => rfl)
    fun v n _ w => ctrPut_changes n { ctrGet v n with run := b } rfl w
  exact ⟨done, get, (congrArg CtrSt.occ ctr :), (congrArg CtrSt.ovl ctr :), (congrArg CtrSt.rst ctr).trans (by simp)⟩

/-- ZERO asks for each counter's reset and changes nothing else. -/
theorem ctrReset_foldl (l : List Nat) (s : State) : l.foldl (fun s n => ctrReset n 0 s) s =
    { s with ctr := { s.ctr with rst := s.ctr.rst ++ l.map fun n => { n := n, val := 0, zl := true, commit := false } } } := by
  induction l generalizing s with
  | nil => rw [List.map_nil, List.append_nil]; rfl
  | cons n l ih =>
    rw [List.foldl_cons, ih, List.map_cons]
    simp only [ctrReset, List.append_assoc, List.singleton_append]

theorem ctrZero_zeroes (h : CtrCmd s t 2 rest) :
    ∃ u, exec .ctrZero s = .next u ∧ Completes s u t rest Mc.ok (ftWords s.clk.ft) [.ctr] ∧
      u.ctr = { s.ctr with rst := s.ctr.rst ++ (ctrRange s t).map (fun n => { n := n, val := 0, zl := true, commit := false }) } := by
  have e : ctrEach (fun n s => ctrReset n 0 s) t (atStart s t rest) = mbxDone t Mc.ok (ftWords s.clk.ft) { atStart s t rest with
      ctr := { s.ctr with rst := s.ctr.rst ++ (ctrRange s t).map fun n => { n := n, val := 0, zl := true, commit := false } } } := by
    rw [ctrEach, h.heads.ctrRange_atStart, ctrReset_foldl]
    rfl
  refine ⟨_, congrArg Host.Outcome.next ((h.runs (by decide) (by simp [ctrSub, h.does]) _).trans e), h.completes (ctrOnly _ (atStart s t rest)), ?_⟩
  exact (mbxDone_only ..).same .ctr (by decide)

end

end Sys2Proof.Machine

namespace Sys2Proof
open Machine

/-- Settles O56: the checks pass, and the range's counters are captured as the SCLK ends or changed one after another. -/
theorem countersConfigured : Obligations.CountersConfigured := by
  refine ⟨fun _ _ _ h => ctrRead_waits h, fun _ _ caps work op empty runs insp => readOut_delivers caps work op empty runs insp,
    fun _ _ _ h c => ctrLoad_loads h c, fun _ _ _ h => ctrZero_zeroes h, fun c b s t rest hc k => ?_⟩
  rcases hc with ⟨rfl, rfl, h⟩ | ⟨rfl, rfl, h⟩
  · exact ⟨_, congrArg Host.Outcome.next (h.runs (by decide) (by simp [ctrSub, h.does]) _), ctrRun_sets false h k⟩
  · exact ⟨_, congrArg Host.Outcome.next (h.runs (by decide) (by simp [ctrSub, h.does]) _), ctrRun_sets true h k⟩

end Sys2Proof
end

section
/-! SUPPORT. DUMP_CONFIG with a reserved bit of its argument set (O57: R11, R300). -/

namespace Sys2Proof.Machine

-- One declaration after the other: the threads of declarations that wait for one another exhaust the memory that a compile may take.
set_option Elab.async false

/-- Mailbox 0 asks for DUMP_NOW, with bit 4 of ARG0 set, which no argument uses; the core runs and PD76 is ON. -/
def dumpNowReserved : State :=
  { State.reset with
    core := { State.reset.core with run := true, sup := true }
    pw := { State.reset.pw with dom := [(76, .on)] }
    startQ := [0]
    mbx := [(0, { Mbx.reset with busy := true, op := 0x41, larg := [0x11] })] }

theorem dumpNowReserved_asks : Heads dumpNowReserved 0x41 0 [] ∧ argF dumpNowReserved 0 0 0 4 = 1 ∧ pdOn dumpNowReserved 76 = true :=
  ⟨⟨by decide +kernel, rfl, by decide +kernel⟩, by decide +kernel⟩

/-- The command ends with EINVAL, and no dump is asked for. -/
theorem dumpNowReserved_refused : (match exec .dumpNow dumpNowReserved with | .next u => ((mbxGet u 0).code, u.ctr.caps) | _ => (0, [])) =
    (BitVec.ofNat 4 Mc.einval, []) := by decide +kernel

end Sys2Proof.Machine

namespace Sys2Proof
open Machine

/-- Refutes O57: DUMP_NOW with a reserved bit of ARG0 set ends with EINVAL (R11), and the statement, which leaves these bits free, has it complete with OK. -/
theorem not_samplesAndDumps : ¬ Obligations.SamplesAndDumps := by
  intro ⟨_, now, _⟩
  obtain ⟨heads, op, on⟩ := dumpNowReserved_asks
  obtain ⟨u, run, done, _⟩ := now dumpNowReserved [] heads op on
  have refused := dumpNowReserved_refused
  rw [run] at refused
  exact absurd (done.ended.code.symm.trans (congrArg Prod.fst refused)) (by decide)

end Sys2Proof
end

section
/-! SUPPORT. WATCH_CONFIG and its SCAN (O60: R323). -/

namespace Sys2Proof.Machine

-- One declaration after the other: the threads of declarations that wait for one another exhaust the memory that a compile may take.
set_option Elab.async false

section
variable {s : State} {t op : Nat} {rest : List Nat}

theorem Heads.watWin_atStart (h : Heads s 0x51 t rest) : watWin (atStart s t rest) t = watWin s t := h.atStart_argF (by decide) ..

/-- The window's entry, as the checks of the command read it. -/
theorem Heads.watEntry_atStart (h : Heads s 0x51 t rest) : waE (atStart s t rest).t (watWin (atStart s t rest) t) = waE s.t (watWin s t) := by
  rw [h.watWin_atStart]
  rfl

/-- The command of a WATCH_CONFIG whose checks pass; a SCAN needs a copy to read. -/
theorem WatchCmd.runs (h : WatchCmd s t op rest) (le : op < 5) (copy : op = 4 → (scanCopy s (waE s.t (watWin s t)) (BitVec.ofNat 2 (argF s t 0 8 2))).isSome)
    {sub : State → Nat → Bool} (b : sub s t = true) (f : Nat → Nat → State → State) :
    cmdRun 0x51 sub (watchCmd f) s = f t (watWin s t) (atStart s t rest) := by
  obtain ⟨heads, does, perm, rsv, present, on, window, scan⟩ := h
  have p : noDatapath (atStart s t rest) = false := congrArg not present
  have o : pdOn (atStart s t rest) 75 = true := on
  have n : (atStart s t rest).peat.scan = s.peat.scan := rfl
  have c : scanCopy (atStart s t rest) = scanCopy s := rfl
  have owns : (decide (t ≠ 0) && waOwner (waE s.t (watWin s t)) != t) = false := by
    rcases perm with rfl | e
    · rfl
    · rw [bne_eq_false_iff_eq.mpr e, Bool.and_false]
  have pass : firstOf (watchChecks (atStart s t rest) t) = none := by
    rw [watchChecks, heads.watEntry_atStart]
    simp only [heads.atStart_argF (by decide), heads.atStart_argRsv (by decide), does, rsv, p, o, n, c, firstOf]
    rw [owns]
    by_cases four : op = 4
    · obtain ⟨asp, none_⟩ := scan four
      simp [four, asp, none_, window (.inr four), Option.isSome_iff_ne_none.mp (copy four)]
    · by_cases two : op = 2
      · simp [two, window (.inl two)]
      · simp [four, two, le]
  refine (cmdRun_starts heads b).trans ?_
  rw [watchCmd, heads.watWin_atStart]
  exact checked_pass pass

/-! ### READ, CLEAR, ARM and DISARM -/

theorem watch_reads (h : WatchCmd s t 0 rest) (insp : ∀ x ∈ s.srv.insp, x.mbx ≠ t) :
    ∃ u, exec .watchRead s = .next u ∧ Delivers s u t (((watRegs (watGet s (watWin s t))).flatMap fun r => [r % 2 ^ 32, r / 2 ^ 32]).map (BitVec.ofNat 32))
      (ftWords s.clk.ft) ∧ u.startQ = rest ∧ OnlyChanges mbxParts s u := by
  have start := h.heads.atStart_get (by decide)
  have op : (mbxGet (atStart s t rest) t).op = 0x51 := by
    rw [start]
    exact BitVec.eq_of_toNat_eq h.heads.opcode
  obtain ⟨outF, short, long⟩ := mbxOut_ends (s := atStart s t rest) (t := t) ((watRegs (watGet s (watWin s t))).flatMap fun r => [r % 2 ^ 32, r / 2 ^ 32])
    (ftWords s.clk.ft) h.heads.runs (by rw [start]) (by rw [op]; decide) (by rw [op]; decide) insp
  have f := mbxOut_only t ((watRegs (watGet s (watWin s t))).flatMap fun r => [r % 2 ^ 32, r / 2 ^ 32]) (ftWords s.clk.ft) (atStart s t rest)
  refine ⟨_, congrArg Host.Outcome.next (h.runs (by decide) nofun (by simp [watchSub, h.does]) _), ⟨outF, fun k => ?_, fun k => ?_⟩,
    f.same .startQ (by decide), ((atStart_only s t rest).le mbxParts).then f⟩
  · exact (short k).since rfl fun j hj => atStart_others s t rest hj
  · obtain ⟨phase, pend, busy, got, others⟩ := long k
    exact ⟨phase, pend, busy.trans (congrArg Mbx.busy start :), got, fun j hj => (others j hj).trans (atStart_others s t rest hj)⟩

/-- A command that leaves window `w` as `x` completes. -/
theorem watch_sets (h : WatchCmd s t op rest) (c : Canonical s) (x : Wat) {f : Nat → State → State}
    (hf : f (watWin s t) (atStart s t rest) = watSet (watWin s t) x (atStart s t rest)) :
    Completes s (watEnd f t (watWin s t) (atStart s t rest)) t rest Mc.ok (ftWords s.clk.ft) [.peat] ∧
      WatBut s (watEnd f t (watWin s t) (atStart s t rest)) (watWin s t) ∧ watGet (watEnd f t (watWin s t) (atStart s t rest)) (watWin s t) = x := by
  have peat : (watEnd f t (watWin s t) (atStart s t rest)).peat = (watSet (watWin s t) x (atStart s t rest)).peat := by
    rw [watEnd, hf]
    exact (mbxDone_only ..).same .peat (by decide)
  have get (j : Nat) : watGet (watEnd f t (watWin s t) (atStart s t rest)) j = watGet (watSet (watWin s t) x (atStart s t rest)) j :=
    by rw [watGet, watGet, peat]
  refine ⟨?_, fun j hj => (get j).trans (sget_sset_ne _ _ _ hj), (get _).trans (sget_sset _ _ _ _ none c.wat)⟩
  rw [watEnd, hf]
  exact h.heads.completes (by decide) Mc.ok _ (watSet_only ..)

/-! ### SCAN -/

theorem watch_scans {g : Seg} {c : Bool} (h : WatchCmd s t 4 rest)
    (copy : scanCopy s (waE s.t (watWin s t)) (BitVec.ofNat 2 (argF s t 0 8 2)) = some (g, c)) :
    ∃ u, exec .watchScan s = .next u ∧ GoesOn s u t rest [.peat] ∧ u.peat = { s.peat with scan := some (newScan s t g c) } := by
  have found : scanCopy (atStart s t rest) (waE (atStart s t rest).t (watWin s t)) (BitVec.ofNat 2 (argF (atStart s t rest) t 0 8 2)) = some (g, c) := by
    rw [h.heads.atStart_argF (by decide)]
    exact copy
  have run : exec .watchScan s = .next (mbxWork t { atStart s t rest with peat := { s.peat with scan := some (newScan s t g c) } }) := by
    refine congrArg Host.Outcome.next ((h.runs (by decide) (fun _ => by rw [copy]; rfl) (by simp [watchSub, h.does]) _).trans ?_)
    simp only [found]
    rfl
  exact ⟨_, run, h.heads.goesOn (by decide) (peatOnly _ (atStart s t rest)), rfl⟩

end

section
variable {s : State} {c : Scan} {g : Seg} {k : Nat} (hc : s.peat.scan = some c) (hg : segFind s c.seg = some g) (clean : s.bad = [])
  (hk : k = locKey (fenLoc g c.copyB (c.pos % 2 ^ 26))) (live : keyRetired s k = false) (whole : (tagGet s k).poi = false)
include hc hg clean hk live whole

/-- A line that is whole is added to the digest. -/
theorem scanStep_eq : exec .watchScanStep s = .next
    (if (waBase c.ent.toNat + waLength c.ent.toNat) * 8 ≤ c.pos + 128 then scanEnd (scanned c (dataGet s k)) Mc.ok (useSlot (k / 32) false none s)
    else { useSlot (k / 32) false none s with peat := { s.peat with scan := some (scanned c (dataGet s k)) } }) := by
  have read : frameRead none k (useSlot (k / 32) false none s) = ((dataGet s k, false), useSlot (k / 32) false none s) := by
    have b : (useSlot (k / 32) false none s).bad = [] := clean
    have l : keyRetired (useSlot (k / 32) false none s) k = false := live
    rw [frameRead_clean none k _ b l, show tagGet (useSlot (k / 32) false none s) k = tagGet s k from rfl, whole]
    rfl
  show execWatchScanStep s = _
  simp only [execWatchScanStep, hc, hg, ← hk, read]
  rfl

theorem scanStep_goesOn (more : c.pos + 128 < (waBase c.ent.toNat + waLength c.ent.toNat) * 8) :
    ∃ u, exec .watchScanStep s = .next u ∧ u.peat = { s.peat with scan := some (scanned c (dataGet s k)) } ∧ OnlyChanges [.peat, .ctr] s u := by
  refine ⟨_, (scanStep_eq hc hg clean hk live whole).trans (congrArg _ (if_neg (Nat.not_le.mpr more))), rfl, ?_⟩
  exact ((ctrOnly _ s).le [.peat, .ctr]).then (peatOnly _ (useSlot (k / 32) false none s))

theorem scanStep_ends (canon : Canonical s) (last : (waBase c.ent.toNat + waLength c.ent.toNat) * 8 ≤ c.pos + 128) :
    ∃ u, exec .watchScanStep s = .next u ∧ u.peat = { s.peat with scan := none } ∧
      Ended s u c.mbx Mc.ok (ftWords s.clk.ft ++ [(scanned c (dataGet s k)).dig.toNat % 2 ^ 32, (scanned c (dataGet s k)).dig.toNat / 2 ^ 32,
        c.lines + 1, c.pois]) ∧ OnlyChanges [.peat, .ctr, .mbx, .ints, .d0] s u := by
  let v : State := { useSlot (k / 32) false none s with peat := { s.peat with scan := none } }
  have fv : OnlyChanges [.peat, .ctr] s v := ((ctrOnly _ s).le [.peat, .ctr]).then (peatOnly _ (useSlot (k / 32) false none s))
  refine ⟨_, (scanStep_eq hc hg clean hk live whole).trans (congrArg _ (if_pos last)), (mbxDone_only ..).same .peat (by decide), ?_, ?_⟩
  · exact (mbxDone_ended c.mbx Mc.ok _ v canon.mbx).since rfl fun _ _ => rfl
  · exact (fv.le _).then (mbxDone_only ..)

end

end Sys2Proof.Machine

namespace Sys2Proof
open Machine

/-- Settles O60: the checks of WATCH_CONFIG pass and its window is read or set; a SCAN adds one line after another to its digest. -/
theorem watchConfigured : Obligations.WatchConfigured := by
  refine ⟨fun _ _ _ h insp => watch_reads h insp, fun s t rest k => ⟨fun h => ?_, fun h => ?_, fun h => ?_⟩, fun _ _ _ _ _ h copy => watch_scans h copy,
    fun _ _ _ _ hc hg clean hk live whole k =>
      ⟨scanStep_goesOn hc hg clean hk live whole, scanStep_ends hc hg clean hk live whole k⟩⟩
  · exact ⟨_, congrArg Host.Outcome.next (h.runs (by decide) nofun (by simp [watchSub, h.does]) _), watch_sets h k _ rfl⟩
  · exact ⟨_, congrArg Host.Outcome.next (h.runs (by decide) nofun (by simp [watchSub, h.does]) _), watch_sets h k _ rfl⟩
  · exact ⟨_, congrArg Host.Outcome.next (h.runs (by decide) nofun (by simp [watchSub, h.does]) _), watch_sets h k _ rfl⟩

end Sys2Proof
end

section
/-! SUPPORT. TRACE_CONFIG FLUSH over a store that is not canonical (O59: R314, R319). -/

namespace Sys2Proof.Machine

-- One declaration after the other: the threads of declarations that wait for one another exhaust the memory that a compile may take.
set_option Elab.async false

/-- A FLUSH of buffer 3, which is enabled, is at the head. The buffer, not started, holds one record; the store lists it twice, so that with the first
entry at its reset value, which a store does not keep, the second one shows. -/
def flushingTwice : State :=
  { State.reset with
    pins := { State.reset.pins with present := true }
    core := { State.reset.core with run := true, sup := true }
    pw := { State.reset.pw with dom := [(75, .on)] }
    gen := { State.reset.gen with live := tblSet State.reset.gen.live Tid.trace 3 (2 ^ 6) }
    peat := { State.reset.peat with bufs := [(3, { TBuf.reset with loc := [(0, 1)] }), (3, { TBuf.reset with seq := 7 })] }
    startQ := [0]
    mbx := [(0, { Mbx.reset with busy := true, op := 0x50, larg := [0x83] })] }

theorem flushingTwice_flushes : TraceCmd flushingTwice 3 [] where
  heads := ⟨by decide +kernel, rfl, by decide +kernel⟩
  does := by decide +kernel
  rsv := by decide +kernel
  present := rfl
  on := by decide +kernel

theorem flushingTwice_named : traceNamed flushingTwice 3 = true ∧ (bufGet flushingTwice 3).loc ≠ [] ∧ (bufGet flushingTwice 3).pend = none ∧
    (bufGet flushingTwice 3).seq = 0 := by decide +kernel

/-- Its record leaves, and the other entry is the buffer now. -/
theorem flushingTwice_flushed : (match exec .traceFlush flushingTwice with | .next u => (bufGet u 3).seq | _ => 0) = 7 := by decide +kernel

end Sys2Proof.Machine

namespace Sys2Proof
open Machine

/-- Refutes O59: the clauses of TRACE_CONFIG do not ask that the stores be canonical, and over a store that lists a buffer twice a FLUSH leaves the other entry
to be read. -/
theorem not_traceService : ¬ Obligations.TraceService := by
  intro ⟨_, _, _, flush, _⟩
  obtain ⟨named, some_, none_, seq⟩ := flushingTwice_named
  obtain ⟨u, run, _, left⟩ := flush flushingTwice [] flushingTwice_flushes
  obtain ⟨n, kept⟩ := ((left 3 (by decide)).2 named some_ none_).kept
  have flushed := flushingTwice_flushed
  rw [run] at flushed
  have stays : (bufGet u 3).seq = (bufGet flushingTwice 3).seq := by rw [kept]
  rw [seq] at stays
  exact absurd (stays.symm.trans flushed) (by decide)

end Sys2Proof
end

section
/-! SUPPORT. Trace buffers at the instant of a COMMIT (O58: R312). -/

namespace Sys2Proof.Machine

-- One declaration after the other: the threads of declarations that wait for one another exhaust the memory that a compile may take.
set_option Elab.async false

section
variable {s : State} {old : Tables} {b : Nat}

/-- Buffer `b` as the generation of `s` starts it. -/
def bufFresh (s : State) (b : Nat) : TBuf := { TBuf.reset with st := if tcEn (tcE s.t b) then 1 else 0, lastRun := s.clk.run }

/-- The buffers of `l` whose entries differ start anew, the others keep their records. -/
theorem bufStart_foldl (old : Tables) (l : List Nat) (s : State) (c : swf (fun _ => TBuf.reset) s.peat.bufs = true) (b : Nat) :
    bufGet (l.foldl (fun s b => if entDiff old s.t Tid.trace b then bufStart b s else s) s) b =
      if b ∈ l ∧ entDiff old s.t Tid.trace b = true then bufFresh s b else bufGet s b := by
  induction l generalizing s with
  | nil => simp
  | cons a l ih =>
    rw [List.foldl_cons]
    by_cases d : entDiff old s.t Tid.trace a = true
    · have started : bufGet (bufStart a s) b = if b = a then bufFresh s b else bufGet s b := by
        by_cases e : b = a
        · subst e
          rw [if_pos rfl]
          exact sget_sset _ _ _ _ none c
        · rw [if_neg e]
          exact sget_sset_ne _ _ _ e
      rw [if_pos d, ih (bufStart a s) (swf_sset _ _ _ _ c), started]
      show (if b ∈ l ∧ entDiff old s.t Tid.trace b = true then bufFresh s b else _) = _
      by_cases e : b = a
      · subst e
        simp [d]
      · simp [e]
    · rw [if_neg d, ih s c]
      by_cases e : b = a
      · subst e
        simp [d]
      · simp [e]

theorem watStart_foldl_bufs (old : Tables) (l : List Nat) (s : State) :
    (l.foldl (fun s w => if entDiff old s.t Tid.watch w then watStart w s else s) s).peat.bufs = s.peat.bufs := by
  induction l generalizing s with
  | nil => rfl
  | cons w l ih =>
    rw [List.foldl_cons, ih]
    split <;> rfl

theorem bufGet_congr {s u : State} (h : u.peat.bufs = s.peat.bufs) (b : Nat) : bufGet u b = bufGet s b := by rw [bufGet, bufGet, h]

theorem applyPeat_buf (c : swf (fun _ => TBuf.reset) s.peat.bufs = true) (hb : b < 4) :
    bufGet (applyPeat old s) b = if entDiff old s.t Tid.trace b = true then bufFresh s b else bufGet s b := by
  rw [applyPeat, bufGet_congr (watStart_foldl_bufs ..), bufStart_foldl old (List.range 4) s c]
  simp [hb]

/-! ### What the other pieces of a generation leave -/

theorem winEnd_bufs (c : Nat) (s : State) : (winEnd c s).peat.bufs = s.peat.bufs := by
  have t (v : TEv) (x : State) : (traceEv v x).peat.bufs = x.peat.bufs := by rw [traceEv]; split <;> rfl
  have g (i j k : Nat) (x : State) : (trigger i j k x).peat.bufs = x.peat.bufs := by rw [trigger]; split <;> rfl
  have n (m : Notice) (x : State) : (notice m x).peat = x.peat := (notice_only ..).same .peat (by decide)
  have w (c : Nat) (f : FT) (x : State) : (winStart c f x).peat = x.peat := (winStart_only ..).same .peat (by decide)
  have o (e i : Nat) (k : OccKind) (j : Subj) (x : State) : (occ e k j i x).peat = x.peat := (occ_only ..).same .peat (by decide)
  unfold winEnd
  dsimp only
  rw [w]
  split
  · rw [g, t, n, o]
  · rfl

theorem winEnds_bufs (l : List Nat) (s : State) : (l.foldl (fun s c => if winDue s c then winEnd c s else s) s).peat.bufs = s.peat.bufs := by
  induction l generalizing s with
  | nil => rfl
  | cons c l ih =>
    rw [List.foldl_cons, ih]
    split
    · exact winEnd_bufs ..
    · rfl

theorem applyHash_only (old : Tables) (s : State) : OnlyChanges [.gen] s (applyHash old s) := .ite (.refl _ _) (genOnly ..)

theorem applyPart_only (old : Tables) (s : State) : OnlyChanges [.gen, .srv, .arr] s (applyPart old s) := by
  have h : OnlyChanges [.gen, .srv, .arr] s
      (if partScrub old = partScrub s.t then s else { s with srv := { s.srv with scrubG := s.clk.ft, scrubK := 0 } }) := .ite (.refl _ _) ((srvOnly ..).le _)
  unfold applyPart
  exact .ite (h.then (genOnly ..)) (.ite (h.then (arrOnly ..)) h)

theorem applyClass_only (old : Tables) (s : State) : OnlyChanges [.regul] s (applyClass old s) :=
  .ite (winRestart_only s) (.ite (winNote_only s) (.refl _ _))

theorem applyCtr_only (old : Tables) (s : State) : OnlyChanges [.ctr] s (applyCtr old s) := by
  have f := foldl_only (l := [.ctr]) (f := fun s n =>
    if !entDiff old s.t Tid.ctr n then s
    else
      let s := { s with ctr := { s.ctr with rst := s.ctr.rst ++ [{ n := n, val := 0, zl := false, commit := true }] } }
      if ctPeriod (ctE old n) = ctPeriod (ctE s.t n) then s else ctrPut n { ctrGet s n with p0 := s.clk.ft, pk := 1 } s)
    (fun s n => .ite (.refl _ _) (.ite (ctrOnly _ s) ((ctrOnly _ s).trans (ctrPut_only ..)))) (List.range 64) s
  exact .ite f (f.trans (ctrOnly ..))

/-- Each buffer as the generation of `a` leaves it. -/
theorem genApply_buf (a : Armed) (c : swf (fun _ => TBuf.reset) s.peat.bufs = true) (hb : b < 4) :
    bufGet (genApply a s) b = if entDiff s.t a.cand Tid.trace b = true then
      { TBuf.reset with st := if tcEn (tcE a.cand b) then 1 else 0, lastRun := s.clk.run } else bufGet s b := by
  unfold genApply
  dsimp only
  have w := foldl_only (l := winParts) (f := fun s c => if winDue s c then winEnd c s else s) (fun s c => .ite (winEnd_only c s) (.refl _ _)) (List.range 16) s
  have wb := winEnds_bufs (List.range 16) s
  generalize (List.range 16).foldl (fun s c => if winDue s c then winEnd c s else s) s = t at w wb ⊢
  let v : State := { t with gen := { t.gen with live := a.cand, shadow := a.cand, gen := a.gen }, srv := { t.srv with allocOff := false } }
  have live : t.t = s.t := congrArg GenSt.live w.gen
  have p := ((applyHash_applies t.t v).trans (applyPart_applies t.t _)).trans ((applyClass_applies t.t _).trans (applyCtr_applies t.t _))
  have k := (((applyHash_only t.t v).le [.gen, .srv, .arr, .regul, .ctr]).then (applyPart_only t.t _)).trans
    (((applyClass_only t.t _).le [.gen, .srv, .arr, .regul, .ctr]).then (applyCtr_only t.t _))
  show bufGet (genEnd 0 noRefusal (applyPeat t.t (applyCtr t.t (applyClass t.t (applyPart t.t (applyHash t.t v)))))) b = _
  generalize applyCtr t.t (applyClass t.t (applyPart t.t (applyHash t.t v))) = x at p k ⊢
  have bufs : x.peat.bufs = s.peat.bufs := (congrArg PeatSt.bufs (k.same .peat (by decide))).trans wb
  have tabs : x.t = a.cand := p.live
  have run : x.clk.run = s.clk.run := (congrArg Clock.run k.clk).trans (congrArg Clock.run w.clk)
  rw [bufGet_congr (congrArg PeatSt.bufs ((genEnd_only ..).same .peat (by decide))), applyPeat_buf (bufs.symm ▸ c) hb, bufFresh, tabs, live, run,
    bufGet_congr bufs]

end

theorem portTick_only (s : State) : OnlyChanges [.d0, .d1, .pins] s (portTick s) :=
  .ite (.refl _ _) ⟨fun q hq => by cases q <;> first | rfl | exact absurd (by simp) hq⟩

/-- With the instant come, the buffers of the SCLK before start anew under the candidate or run on. -/
theorem commitApply_buffers {s : State} {a : Armed} (ha : s.gen.armed = some a) (due : commitDue s a = true) (porst : s.pins.porstN = true)
    (ft : s.clk.ft.toNat + 2 < 2 ^ 64) (pass : firstRefused [bindBad s a.cand, hashBad s a.cand] = none) (c : Canonical s) :
    ∃ u, exec .commitApply s = .next u ∧ ∀ b < 4, bufGet u b = if entDiff s.t a.cand Tid.trace b = true then
      { TBuf.reset with st := if tcEn (tcE a.cand b) then 1 else 0, lastRun := (timeTick (endOf s)).clk.run } else bufGet (sclkMade s) b := by
  have r := timeTick_reaches due ft
  have e := exec_commitApply_due ha porst due ft
  rw [genInstant, r.refused, pass] at e
  dsimp only at e
  refine ⟨_, e, fun b hb => ?_⟩
  have canon : Canonical (endOf s) := by
    rw [endOf]
    exact c.sTick.rptTick.tallyTick.ctrTick.peatEnd.portTick
  have made : (timeTick (endOf s)).peat = (sclkMade s).peat := by
    rw [(timeTick_only (endOf s)).same .peat (by decide), endOf, sclkMade]
    exact (portTick_only _).same .peat (by decide)
  rw [bufGet_congr (congrArg PeatSt.bufs ((laterTick_later _).frame.same .peat (by decide))), genApply_buf a canon.timeTick.bufs hb,
    show (timeTick (endOf s)).t = s.t from congrArg GenSt.live r.gen, bufGet_congr (congrArg PeatSt.bufs made)]

end Sys2Proof.Machine

namespace Sys2Proof
open Machine

/-- Settles O58: nothing of the SCLK's end after its trace records, and nothing of the generation but its trace entries, reaches a buffer. -/
theorem traceBuffersRestart : Obligations.TraceBuffersRestart := by
  intro s a ha due porst ft pass c
  obtain ⟨u, run, bufs⟩ := commitApply_buffers ha due porst ft pass c
  refine ⟨u, run, fun b hb => ?_⟩
  have e := bufs b hb
  split
  next d =>
    rw [if_pos d] at e
    rw [e]
    exact ⟨rfl, rfl, rfl, rfl, rfl, rfl, rfl⟩
  next d => rwa [if_neg d] at e

end Sys2Proof
end

section
/-! SUPPORT. The header that leaves a D port (O44: R333, R365, Table 8.3). -/

namespace Sys2Proof.Machine

-- One declaration after the other: the threads of declarations that wait for one another exhaust the memory that a compile may take.
set_option Elab.async false

/-! ### What follows a message that has left -/

/-- What may change once a message has left its port. -/
def leftParts : List Part := [.d0, .d1, .sout, .home, .mace, .ctr]

/-- From `s` to `u` a message's leaving has had its effects: the D ports are as they were but for messages queued behind the others. -/
structure Onward (s u : State) : Prop where
  frame : OnlyChanges leftParts s u
  ports : ∀ q, ∃ l, portGet u q = { portGet s q with out := (portGet s q).out ++ l }

section
variable {s t u : State}

theorem Onward.refl (s : State) : Onward s s := ⟨.refl _ s, fun q => ⟨[], by rw [List.append_nil]⟩⟩

theorem Onward.trans (h : Onward s t) (k : Onward t u) : Onward s u := by
  refine ⟨h.frame.trans k.frame, fun q => ?_⟩
  obtain ⟨l, hl⟩ := h.ports q
  obtain ⟨m, hm⟩ := k.ports q
  exact ⟨l ++ m, by rw [hm, hl, List.append_assoc]⟩

theorem Onward.ite {c : Prop} [Decidable c] (h : Onward s t) (k : Onward s u) : Onward s (if c then t else u) := by split <;> assumption

theorem Onward.foldl {α : Type} {f : State → α → State} (h : ∀ s a, Onward s (f s a)) (l : List α) (s : State) : Onward s (l.foldl f s) := by
  induction l generalizing s with
  | nil => exact .refl s
  | cons a l ih => exact (h s a).trans (ih _)

theorem OnlyChanges.onward {l : List Part} (h : OnlyChanges l s u) (k : l ⊆ [.home, .mace, .ctr] := by decide) : Onward s u := by
  refine ⟨h.mono fun _ x => (by decide : [Part.home, .mace, .ctr] ⊆ leftParts) (k x), fun q => ⟨[], ?_⟩⟩
  rw [List.append_nil, h.port q fun x => absurd (k x) (by cases q <;> decide)]

theorem emit_onward (p : Port) (o : Out) (s : State) : Onward s (emit p o s) := by
  refine ⟨(emit_only p o s).mono (by cases p <;> decide), fun q => ?_⟩
  cases p <;> cases q <;> first | exact ⟨[o], rfl⟩ | exact ⟨[], by rw [List.append_nil]; rfl⟩

theorem respond_onward (p : Port) (m : Msg) (j : Subj) (x : Rsp) (s : State) : Onward s (respond p m j x s) := emit_onward ..

theorem hteMod_onward (i : Nat) (f : Hte → Hte) (s : State) : Onward s (hteMod i f s) := (homeOnly _ s).onward

theorem hteClose_onward (id : Nat) (s : State) : Onward s (hteClose id s) := by
  refine Onward.trans (homeOnly _ s).onward (.foldl (fun s h => ?_) _ _)
  exact .ite (.ite (.ite ((hteMod_onward ..).trans (respond_onward ..)) ((hteMod_onward ..).trans (respond_onward ..))) (hteMod_onward ..)) (.refl s)

theorem rowFault_only (slot k kind stat : Nat) (s : State) : OnlyChanges [.mace, .ctr] s (rowFault slot k kind stat s) := by
  unfold rowFault
  split
  · exact .refl _ s
  · exact .ite (.refl _ s) (((descMod_only ..).le [.mace, .ctr]).then (occR_only ..))

theorem tidy_only (slot : Nat) (s : State) : OnlyChanges [.mace, .ctr] s (tidy slot s) := by
  have f : OnlyChanges [.mace, .ctr] s (elemFaults slot s) := by
    unfold elemFaults
    split
    · exact .refl _ s
    · refine foldl_only (fun s e => ?_) _ s
      have a : OnlyChanges [.mace, .ctr] s (match e.fail with | some (kd, st) => rowFault slot e.k kd.toNat st.toNat s | none => s) := by
        split
        · exact rowFault_only ..
        · exact .refl _ s
      exact .ite (a.trans (rowFault_only ..)) a
  exact f.then (descMod_only ..)

theorem maceDataLeft_only (slot k line : Nat) (s : State) : OnlyChanges [.mace, .ctr] s (maceDataLeft slot k line s) :=
  ((descMod_only ..).le [.mace, .ctr]).trans (tidy_only ..)

/-- The counts of a message that leaves come first, then the home, then Mace. -/
theorem outLeft_parts (p : Port) (o : Out) (s : State) : ∃ t, OnlyChanges [.ctr] s t ∧ OnlyChanges [.mace, .ctr] (hteLeft o.msg t) (outLeft p o s) := by
  let v : State := match o.subj with
    | some j => if hStatus (asSent s o) == St.poison then occP p 0xC2 j 1 s else s
    | none => s
  have fv : OnlyChanges [.ctr] s v := by
    cases h : o.subj with
    | none => simp only [v, h]; exact .refl _ s
    | some j => simp only [v, h]; exact .ite (occP_only ..) (.refl _ s)
  refine ⟨fctr 6 (64 * o.msg.beats.length) v, fv.trans (fctr_only ..), ?_⟩
  unfold outLeft
  dsimp only
  generalize hteLeft o.msg (fctr 6 (64 * o.msg.beats.length) v) = t
  cases o.post with
  | none => exact .refl _ t
  | maceData slot k line => exact .ite (.refl _ t) (maceDataLeft_only ..)
  | reed at_ bound =>
    dsimp only
    cases o.subj with
    | none => exact .refl _ t
    | some j => exact .ite ((occP_only ..).le _) (.refl _ t)

end

/-! ### The HTE that waited -/

/-- No HTE has number `id`. -/
def Closed (id : Nat) (s : State) : Prop := ∀ x ∈ s.home.htes, x.id ≠ id

section
variable {s : State} {id : Nat}

theorem Closed.mod (h : Closed id s) {i : Nat} {f : Hte → Hte} (hf : ∀ x, (f x).id = x.id) : Closed id (hteMod i f s) := by
  intro x hx
  obtain ⟨y, hy, rfl⟩ := List.mem_map.mp hx
  split
  · rw [hf]
    exact h y hy
  · exact h y hy

theorem Closed.respond (h : Closed id s) (p : Port) (m : Msg) (j : Subj) (x : Rsp) : Closed id (respond p m j x s) := by
  have e : (Machine.respond p m j x s).home = s.home := (respond_any ..).home
  rwa [Closed, e]

/-- An HTE that closes is gone. -/
theorem hteClose_closed (id : Nat) (s : State) : Closed id (hteClose id s) := by
  have start : Closed id (hteDrop id s) := fun x hx => by simpa using (List.mem_filter.mp hx).2
  unfold hteClose
  dsimp only
  generalize (hteDrop id s).home.htes = l
  generalize hteDrop id s = t at start ⊢
  induction l generalizing t with
  | nil => exact start
  | cons h l ih =>
    rw [List.foldl_cons]
    refine ih _ ?_
    split
    · split
      · split
        · refine Closed.respond (Closed.mod start ?_) _ _ _ _
          exact fun _ => rfl
        · refine Closed.respond (Closed.mod start ?_) _ _ _ _
          exact fun _ => rfl
      · exact start.mod (fun _ => rfl)
    · exact start

theorem hteLeft_idle (m : Msg) (h : s.home.htes.all (fun h => !h.done) = true) : hteLeft m s = s := by
  have none_ : s.home.htes.find? (fun h => h.done && ofOpener h m && hSrc h.req.msg == hDst m) = none := by
    refine List.find?_eq_none.mpr fun x hx => ?_
    have d : x.done = false := by simpa using List.all_eq_true.mp h x hx
    simp [d]
  rw [hteLeft, none_]
  exact ite_self s

theorem hteLeft_closes {m : Msg} {h : Hte} (op : hOpcode m = Op.comp ∨ hOpcode m = Op.data)
    (found : s.home.htes.find? (fun h => h.done && ofOpener h m && hSrc h.req.msg == hDst m) = some h) : hteLeft m s = hteClose h.id s := by
  rw [hteLeft, if_pos op, found]

theorem hteLeft_onward (m : Msg) (s : State) : Onward s (hteLeft m s) := by
  unfold hteLeft
  refine .ite ?_ (.refl s)
  split
  · exact hteClose_onward ..
  · exact .refl s

end

/-! ### The message as it leaves (R365) -/

section
variable {s : State} {o : Out}

theorem asSent_kept (h : s.log.fatalEff = false ∨ o.subj = none) : asSent s o = o.msg := by
  rcases h with h | h <;> simp [asSent, h]

theorem fld_or (x y lo w : Nat) : fld (x ||| y) lo w = fld x lo w ||| fld y lo w := by
  rw [fld, fld, fld, Nat.shiftRight_or_distrib, Nat.or_mod_two_pow]

theorem asSent_poisoned (eff : s.log.fatalEff = true) (subj : o.subj ≠ none) (ok : hStatus o.msg = St.ok) :
    hStatus (asSent s o) = St.poison ∧ hTxid (asSent s o) = hTxid o.msg := by
  have e : asSent s o = { o.msg with hdr := o.msg.hdr ||| BitVec.ofNat 256 (St.poison * 2 ^ 162) } :=
    if_pos (by rw [eff, ok, Option.isSome_iff_ne_none.mpr subj]; rfl)
  have p : (BitVec.ofNat 256 (St.poison * 2 ^ 162)).toNat = St.poison * 2 ^ 162 := by decide
  rw [e]
  constructor
  · show fld (o.msg.hdr ||| BitVec.ofNat 256 (St.poison * 2 ^ 162)).toNat 162 3 = _
    rw [BitVec.toNat_or, fld_or, p, show fld o.msg.hdr.toNat 162 3 = St.ok from ok]
    decide
  · show fld (o.msg.hdr ||| BitVec.ofNat 256 (St.poison * 2 ^ 162)).toNat 185 16 = fld o.msg.hdr.toNat 185 16
    rw [BitVec.toNat_or, fld_or, p, show fld (St.poison * 2 ^ 162) 185 16 = 0 by decide, Nat.or_zero]

end

/-! ### EGRESS_HEADER_TRANSFER -/

section
variable {s : State} {p : DPort} {rdy : BitVec 5} {i : Nat} {o : Out}

/-- The header on port `p`'s lane, and out of its queue. -/
def onLane (s : State) (p : DPort) (i : Nat) (o : Out) : State :=
  setOh p (asSent s o) (portSet p { portGet s p with out := (portGet s p).out.eraseIdx i } s)

theorem onLane_only (s : State) (p : DPort) (i : Nat) (o : Out) : OnlyChanges [.d0, .d1, .pins] s (onLane s p i o) :=
  ⟨fun q hq => by cases p <;> cases q <;> first | rfl | exact absurd (by simp) hq⟩

theorem onLane_port (s : State) (p : DPort) (i : Nat) (o : Out) (q : DPort) :
    portGet (onLane s p i o) q = if q = p then { portGet s p with out := (portGet s p).out.eraseIdx i } else portGet s q := by
  cases p <;> cases q <;> rfl

theorem onLane_lane (s : State) (p : DPort) (i : Nat) (o : Out) : laneOf (onLane s p i o) p = some (asSent s o) := by cases p <;> rfl

theorem egress_leaves (at_ : (portGet s p).out[i]? = some o) (takes : nbit rdy.toNat (hVc o.msg) = true)
    (first : ∀ j < i, ∀ x, (portGet s p).out[j]? = some x → nbit rdy.toNat (hVc x.msg) = false) :
    exec (.egressHeaderTransfer p rdy) s = .next (outLeft (dport p) o (onLane s p i o)) := by
  obtain ⟨lt, get⟩ := List.getElem?_eq_some_iff.mp at_
  have idx : (portGet s p).out.findIdx (fun o => nbit rdy.toNat (hVc o.msg)) = i :=
    (List.findIdx_eq lt).mpr ⟨by rw [get]; exact takes, fun j hj => first j hj _ (List.getElem?_eq_getElem (hj.trans lt))⟩
  show execEgressHeaderTransfer p rdy s = _
  simp only [execEgressHeaderTransfer, idx, at_]
  rfl

end

end Sys2Proof.Machine

namespace Sys2Proof
open Machine

/-- Settles O44: the message is put on its lane, and what follows its leaving queues messages behind the others and closes the HTE that waited for it. -/
theorem headerLeaves : Obligations.HeaderLeaves := by
  intro p rdy s i o at_ takes first
  obtain ⟨t, counts, after⟩ := outLeft_parts (dport p) o (onLane s p i o)
  have home : t.home = s.home := counts.home.trans (onLane_only s p i o).home
  have on : Onward (onLane s p i o) (outLeft (dport p) o (onLane s p i o)) := (counts.onward.trans (hteLeft_onward o.msg t)).trans after.onward
  obtain ⟨l, hl⟩ := on.ports p
  rw [onLane_port, if_pos rfl] at hl
  refine ⟨_, if s.home.htes.all (fun h => !h.done) then [] else l, egress_leaves at_ takes first, ?_, fun idle => ⟨if_pos idle, ?_⟩, ?_, asSent_kept,
    asSent_poisoned, fun h op found => ?_, fun q => ?_, ((onLane_only s p i o).mono (by decide)).trans (on.frame.mono (by decide))⟩
  · split
    next idle =>
      rw [← home] at idle
      rw [hteLeft_idle o.msg idle] at after
      rw [((counts.le [.mace, .ctr]).trans after).port p (by cases p <;> decide), onLane_port, if_pos rfl, List.append_nil]
    next => rw [hl]
  · rw [← home] at idle
    rw [hteLeft_idle o.msg idle] at after
    exact after.home.trans home
  · have e : (outLeft (dport p) o (onLane s p i o)).pins = (onLane s p i o).pins := on.frame.pins
    rw [← onLane_lane s p i o]
    cases p <;> simp only [laneOf, e]
  · rw [← home] at found
    have closed := hteClose_closed h.id t
    rw [← hteLeft_closes op found] at closed
    rw [after.home]
    exact closed
  · obtain ⟨m, hm⟩ := on.ports q
    rw [hm, onLane_port]
    split
    next e => rw [e]; exact ⟨rfl, rfl⟩
    next => exact ⟨rfl, rfl⟩

end Sys2Proof
end

section
/-! SUPPORT. The resets and the loss of VDD_CORE (O42: R343, R344, R346, R349, Table 16.10). -/

namespace Sys2Proof.Machine

-- One declaration after the other: the threads of declarations that wait for one another exhaust the memory that a compile may take.
set_option Elab.async false

/-! ### Entries kept in part -/

theorem sget_absent {α : Type} {d : Nat → α} {st : Store α} {k : Nat} (h : ∀ x ∈ st, x.1 ≠ k) : sget d st k = d k := by
  induction st with
  | nil => rfl
  | cons y r ih =>
    rw [sget, if_neg fun e => h y (by simp) e.symm]
    exact ih fun x hx => h x (List.mem_cons_of_mem _ hx)

section
variable {α : Type} [DecidableEq α] {d : Nat → α}

theorem swfFrom_lt {st : Store α} {lo : Nat} (h : swfFrom d (some lo) st = true) {x : Nat × α} (hx : x ∈ st) : lo < x.1 := by
  induction st generalizing lo with
  | nil => cases hx
  | cons y r ih =>
    obtain ⟨k, v⟩ := y
    simp only [swfFrom, Bool.and_eq_true, decide_eq_true_eq] at h
    obtain ⟨⟨lt, _⟩, rest⟩ := h
    rcases List.mem_cons.mp hx with rfl | hx
    · exact lt
    · exact lt.trans (ih rest hx)

/-- Every entry of a canonical store passes through `f` as it is copied. -/
theorem sget_foldl_map (f : α → α) (st : Store α) (lo : Option Nat) (h : swfFrom d lo st = true) (acc : Store α) (ha : swf d acc = true) (k : Nat) :
    sget d (st.foldl (fun a x => sset d a x.1 (f x.2)) acc) k = if ∃ x ∈ st, x.1 = k then f (sget d st k) else sget d acc k := by
  induction st generalizing lo acc with
  | nil => simp
  | cons y r ih =>
    obtain ⟨j, w⟩ := y
    obtain ⟨_, rest⟩ : (_ ∧ swfFrom d (some j) r = true) := by simpa only [swfFrom, Bool.and_eq_true] using h
    rw [List.foldl_cons, ih (some j) rest _ (swf_sset _ _ _ _ ha)]
    by_cases e : k = j
    · subst e
      have none_ : ¬ ∃ x ∈ r, x.1 = k := fun ⟨x, hx, e⟩ => absurd (swfFrom_lt rest hx) (by omega)
      rw [if_neg none_, sget_sset _ _ _ _ none ha, if_pos ⟨(k, w), by simp, rfl⟩, sget, if_pos rfl]
    · have iff_ : (∃ x ∈ (j, w) :: r, x.1 = k) ↔ ∃ x ∈ r, x.1 = k := by
        constructor
        · rintro ⟨x, hx, ex⟩
          rcases List.mem_cons.mp hx with rfl | hx
          · exact absurd ex.symm e
          · exact ⟨x, hx, ex⟩
        · exact fun ⟨x, hx, ex⟩ => ⟨x, List.mem_cons_of_mem _ hx, ex⟩
      rw [sget_sset_ne _ _ _ e, sget, if_neg e]
      simp only [iff_]

theorem sget_kept (f : α → α) (hf : ∀ k, f (d k) = d k) {st : Store α} (h : swf d st = true) (k : Nat) :
    sget d (st.foldl (fun a x => sset d a x.1 (f x.2)) []) k = f (sget d st k) := by
  rw [sget_foldl_map f st none h [] (swf_nil d) k]
  split
  next => rfl
  next absent =>
    rw [sget_absent (st := st) fun x hx e => absent ⟨x, hx, e⟩, hf]
    rfl

end

/-! ### Commands that end with the datapath (Table 1.7) -/

section
variable {s v : State} {n t : Nat}

theorem setInts_keeps (i : Ints) (s : State) : (setInts i s).ints.en = i.en ∧ (setInts i s).ints.alert = i.alert := by
  unfold setInts sendIntr
  dsimp only
  split
  · split <;> exact ⟨rfl, rfl⟩
  · exact ⟨rfl, rfl⟩

/-- The causes, their masks and the alerts are those of before. -/
def SameCauses (s u : State) : Prop := u.ints.stat = s.ints.stat ∧ u.ints.en = s.ints.en ∧ u.ints.alert = s.ints.alert

theorem mbxDone_causes (t c : Nat) (r : List Nat) (s : State) : SameCauses s (mbxDone t c r s) :=
  ⟨mbxDone_stat .., (setInts_keeps ..).1, (setInts_keeps ..).2⟩

/-- Mailbox `t` after the loss of the datapath. -/
def lossLeaves (s u : State) (t : Nat) : Prop :=
  if needsDatapath s t then (mbxGet u t).busy = false ∧ (mbxGet u t).code = BitVec.ofNat 4 Mc.estate ∧ u.ints.mbx.getLsbD t = true
  else mbxGet u t = mbxGet s t

theorem lossLeaves.keep {u : State} (h : lossLeaves s v t) (get : mbxGet u t = mbxGet v t)
    (bit : v.ints.mbx.getLsbD t = true → u.ints.mbx.getLsbD t = true) : lossLeaves s u t := by
  unfold lossLeaves at *
  rw [get]
  split
  next k =>
    rw [if_pos k] at h
    obtain ⟨busy, code, b⟩ := h
    exact ⟨busy, code, bit b⟩
  next k => rwa [if_neg k] at h

/-- The commands of the mailboxes below `n` have ended where they needed the datapath. -/
structure EndedTo (s v : State) (n : Nat) : Prop where
  frame : OnlyChanges [.mbx, .ints, .d0] s v
  canon : swf (fun _ => Mbx.reset) v.mbx = true
  causes : SameCauses s v
  below : ∀ t < n, lossLeaves s v t
  above : ∀ t, n ≤ t → mbxGet v t = mbxGet s t

/-- Mailbox `t`'s command ends if it needs the datapath. -/
def endsWith (v : State) (t : Nat) : State :=
  if needsDatapath v t then mbxDone t Mc.estate ((mbxGet v t).got.map BitVec.toNat) v else v

theorem EndedTo.step (r : EndedTo s v n) (lt : n < 16) : EndedTo s (endsWith v n) (n + 1) := by
  obtain ⟨frame, canon, ⟨stat, en, alert⟩, below, above⟩ := r
  have get := above n le_rfl
  have needs : needsDatapath v n = needsDatapath s n := by
    rw [needsDatapath, needsDatapath, get, show v.srv = s.srv from frame.srv]
  unfold endsWith
  rw [needs]
  split
  next k =>
    have e := mbxDone_ended n Mc.estate ((mbxGet v n).got.map BitVec.toNat) v canon
    have d := mbxDone_only n Mc.estate ((mbxGet v n).got.map BitVec.toNat) v
    obtain ⟨stat_d, en_d, alert_d⟩ := mbxDone_causes n Mc.estate ((mbxGet v n).got.map BitVec.toNat) v
    refine ⟨frame.trans d, ?_, ⟨stat_d.trans stat, en_d.trans en, alert_d.trans alert⟩, fun t ht => ?_, fun t ht =>
      (e.others t (by omega)).trans (above t (by omega))⟩
    · rw [show (mbxDone n Mc.estate ((mbxGet v n).got.map BitVec.toNat) v).mbx = _ from (raiseMbx_only ..).same .mbx (by decide)]
      exact swf_sset _ _ _ _ canon
    · rcases Nat.lt_succ_iff_lt_or_eq.mp ht with lt' | rfl
      · exact (below t lt').keep (e.others t (by omega)) (e.bits t)
      · rw [lossLeaves, if_pos k]
        exact ⟨e.busy, e.code, e.own_bit lt⟩
  next k =>
    refine ⟨frame, canon, ⟨stat, en, alert⟩, fun t ht => ?_, fun t ht => above t (by omega)⟩
    rcases Nat.lt_succ_iff_lt_or_eq.mp ht with lt' | rfl
    · exact below t lt'
    · rw [lossLeaves, if_neg k, get]

theorem endDatapath_ended (c : swf (fun _ => Mbx.reset) s.mbx = true) (h : n ≤ 16) : EndedTo s ((List.range n).foldl endsWith s) n := by
  induction n with
  | zero => exact ⟨.refl _ s, c, ⟨rfl, rfl, rfl⟩, fun _ h => absurd h (Nat.not_lt_zero _), fun _ _ => rfl⟩
  | succ n ih =>
    rw [List.range_succ, List.foldl_append, List.foldl_cons, List.foldl_nil]
    exact (ih (by omega)).step h

theorem endDatapath_eq (s : State) : endDatapath s = (List.range 16).foldl endsWith s := rfl

end

/-! ### The datapath half is lost (Table 16.10) -/

section
variable {s v : State}

/-- What stays of the steward half and of the domains when the datapath half has been reset. -/
theorem datapathReset_lost (c : Canonical s) (r : EndedTo (presentFall s) v 16) : DatapathLost s (datapathReset v) := by
  obtain ⟨frame, canon, ⟨stat, en, alert⟩, below, above⟩ := r
  have pins : v.pins = (presentFall s).pins := frame.pins
  have log : v.log = s.log := frame.log
  have gen : v.gen = s.gen := frame.gen
  exact {
    absent := congrArg Pins.present pins
    away := congrArg Pins.downAt pins
    arr := rfl
    mp := rfl
    home := rfl
    fen := rfl
    tal := rfl
    mace := rfl
    keys := rfl
    ctr := rfl
    peat := rfl
    srv := rfl
    ports := ⟨rfl, rfl, rfl, rfl, rfl⟩
    tables := ⟨rfl, rfl, rfl, rfl⟩
    recorded := ⟨(congrArg GenSt.gen gen :), (congrArg GenSt.last gen :), (congrArg GenSt.gft gen :)⟩
    time := congrArg (fun c : Clock => { c with seen := false }) frame.clk
    domains := (congrArg PowerSt.dom (show v.pw = s.pw from frame.same .pw (by decide)) :)
    core := ⟨frame.same .core (by decide), frame.same .startQ (by decide)⟩
    log := ⟨(congrArg LogSt.errs log :), (congrArg LogSt.evq log :), (congrArg LogSt.fatal log :)⟩
    ints := ⟨stat, en, alert⟩
    commands := fun t ht => below t ht
    banks := fun b => by
      have e : v.banks = s.banks := frame.same .banks (by decide)
      show sget _ (v.banks.foldl _ []) b = _
      rw [e]
      exact sget_kept keptBank (fun _ => rfl) c.banks b }

theorem datapathLost_lost (c : Canonical s) : DatapathLost s (datapathLost s) :=
  datapathReset_lost c (endDatapath_eq (presentFall s) ▸ endDatapath_ended c.mbx le_rfl)

end

/-! ### The resets -/

theorem sliceResets : SliceResets := by
  refine ⟨fun s h => ?_, fun chip id s h => ?_⟩
  · have run : exec .porstAssert s = .next (sliceReset s) := congrArg Host.Outcome.next (if_pos h)
    exact ⟨_, run, ⟨fun q hq => by cases q <;> first | rfl | exact absurd (by simp) hq⟩, rfl, rfl, rfl, rfl, rfl, rfl, rfl, rfl, rfl⟩
  · have run : exec (.porstRelease chip id) s = .next { s with
        core := { s.core with boot := some [] }
        pins := { s.pins with porstN := true, vddCore := true, chipId := chip, sreqid := id, bootReq := true, bootAddr := 0 } } :=
      congrArg Host.Outcome.next (if_neg (by rw [h]; exact Bool.false_ne_true))
    exact ⟨_, run, rfl, rfl, rfl, rfl, rfl, rfl, rfl, ⟨fun q hq => by cases q <;> first | rfl | exact absurd (by simp) hq⟩⟩

/-- What the pins that the integrator drives read as after a loss. -/
theorem datapathLost_pins (s : State) : (datapathLost s).pins.drstN = s.pins.drstN ∧ (datapathLost s).pins.porstN = s.pins.porstN ∧
    (datapathLost s).pins.vddCore = s.pins.vddCore ∧ (datapathLost s).pending = s.pending := by
  have f : OnlyChanges [.mbx, .ints, .d0] (presentFall s) (endDatapath (presentFall s)) :=
    foldl_only (f := endsWith) (fun _ _ => .ite (mbxDone_only ..) (.refl _ _)) (List.range 16) _
  have pins : (endDatapath (presentFall s)).pins = (presentFall s).pins := f.pins
  have pending : (endDatapath (presentFall s)).pending = (presentFall s).pending := f.same .pending (by decide)
  rw [datapathLost]
  generalize endDatapath (presentFall s) = v at pins pending
  exact ⟨(congrArg Pins.drstN pins :), (congrArg Pins.porstN pins :), (congrArg Pins.vddCore pins :), pending⟩

/-- A loss seen from before the pin that brought it fell, which the loss does not read. -/
theorem datapathLost_of_pins (s : State) (x : Pins) (present : x.present = s.pins.present) (away : x.downAt = s.pins.downAt) (c : Canonical s) :
    DatapathLost s (datapathLost { s with pins := x }) := by
  have h := datapathLost_lost (s := { s with pins := x }) c.withPins
  refine { h with away := h.away.trans ?_ }
  show (if x.present then s.clk.sclk + 4096 else x.downAt) = _
  rw [present, away]

theorem datapathResets : DatapathResets := by
  refine ⟨fun s h c => ?_, fun s porst vdd c => ?_, fun s h => ?_⟩
  · have run : exec .drstAssert s = .next (datapathLost { s with pins := { s.pins with drstN := false } }) := congrArg Host.Outcome.next (if_pos h)
    obtain ⟨drst, porst, vdd, pending⟩ := datapathLost_pins { s with pins := { s.pins with drstN := false } }
    exact ⟨_, run, drst, porst, vdd, datapathLost_of_pins s _ rfl rfl c, pending⟩
  · have run : exec .supplyFail s = .next (datapathLost { s with pins := { s.pins with vddCore := false } }) :=
      congrArg Host.Outcome.next (if_pos (by rw [porst, vdd]; rfl))
    obtain ⟨drst, porst_, vdd_, pending⟩ := datapathLost_pins { s with pins := { s.pins with vddCore := false } }
    exact ⟨_, run, vdd_, porst_.trans porst, drst, datapathLost_of_pins s _ rfl rfl c, pending⟩
  · have run : exec .drstRelease s = .next (if s.core.run then startBring { s with pins := { s.pins with drstN := true } }
        else { s with pins := { s.pins with drstN := true } }) := congrArg Host.Outcome.next (if_neg (by rw [h]; exact Bool.false_ne_true))
    have pinsOnly : OnlyChanges [.pins, .life, .pw] s { s with pins := { s.pins with drstN := true } } :=
      ⟨fun q hq => by cases q <;> first | rfl | exact absurd (by simp) hq⟩
    cases r : s.core.run with
    | true =>
      rw [r] at run
      refine ⟨_, run, rfl, nofun, fun _ => ⟨rfl, rfl, rfl⟩, pinsOnly.trans ?_⟩
      exact ⟨fun q hq => by cases q <;> first | rfl | exact absurd (by simp) hq⟩
    | false =>
      rw [r] at run
      exact ⟨_, run, rfl, fun _ => rfl, nofun, pinsOnly⟩

end Sys2Proof.Machine

namespace Sys2Proof
open Machine

/-- Settles O42: the slice's reset state is written out, and with the datapath half each command that needed it ends, mailbox after mailbox. -/
theorem resetsTake : Obligations.ResetsTake := ⟨sliceResets, datapathResets⟩

end Sys2Proof
end

section
/-! SUPPORT. Power transitions, PRESENT and the boot loader (O43: R281, R342, R344, R346, R347). -/

namespace Sys2Proof.Machine

-- One declaration after the other: the threads of declarations that wait for one another exhaust the memory that a compile may take.
set_option Elab.async false

/-! ### What a domain's arrival changes -/

/-- What the arrival of a domain in a state may change beside the domain itself. -/
def movedParts : List Part := [.banks, .arr, .bad, .mbx, .ints, .d0, .home, .peat, .ctr, .keys]

section
variable {s : State}

theorem bankDone_only (b c : Nat) (r : List Nat) (s : State) : OnlyChanges [.banks, .mbx, .ints, .d0] s (bankDone b c r s) := by
  unfold bankDone
  dsimp only
  split
  · exact ((bankSet_only ..).le _).then (mbxDone_only ..)
  · exact .refl _ s

theorem bankMoved_only (b : Nat) (p : Power) (s : State) : OnlyChanges movedParts s (bankMoved b p s) := by
  have service : OnlyChanges movedParts s (bankService b s) := by
    unfold Machine.bankService
    split
    · split
      · exact (((bankSet_only ..).le movedParts).then (clearBank_only ..)).then (bankDone_only ..)
      · exact .refl _ s
    · exact .refl _ s
  unfold bankMoved
  split
  · split
    · exact .ite service (.refl _ s)
    · exact .ite ((bankDone_only ..).le _) (.refl _ s)
    · exact .refl _ s
  · exact .refl _ s

theorem eraseKeys_only (l : List Nat) (s : State) : OnlyChanges [.keys] s (l.foldl (fun s t => eraseKey t s) s) :=
  foldl_only (f := fun s t => eraseKey t s) (fun _ _ => eraseKey_only ..) l s

theorem domainMoved_only (pd : Nat) (p : Power) (s : State) : OnlyChanges movedParts s (domainMoved pd p s) := by
  have peat : OnlyChanges [.peat] s ((List.range 16).foldl (fun s w => watStart w s) ((List.range 4).foldl (fun s b => bufStart b s) s)) :=
    (foldl_only (f := fun s b => bufStart b s) (fun _ _ => bufStart_only ..) (List.range 4) s).trans
      (foldl_only (f := fun s w => watStart w s) (fun _ _ => watStart_only ..) (List.range 16) _)
  have clear : OnlyChanges movedParts s (if p = .on then clearBank pd s else s) := .ite ((clearBank_only ..).le _) (.refl _ s)
  unfold domainMoved
  refine .ite (clear.trans (bankMoved_only ..)) (.ite (.ite ((homeOnly ..).le _) (.refl _ s)) (.ite (.ite (peat.le _) ((peatOnly ..).le _)) (.ite
    (.ite ((ctrOnly ..).le _) (.refl _ s)) (.ite (.ite (.refl _ s) ((eraseKeys_only ..).le _)) (.refl _ s)))))

theorem armTry_only (s : State) : OnlyChanges [.gen, .mbx, .ints, .d0] s (armTry s) := by
  unfold armTry
  split
  · exact .ite (((genOnly ..).le [.gen, .mbx, .ints, .d0]).then (mbxDone_only ..)) (.refl _ s)
  · exact .refl _ s

/-! ### Keys that lose their supply -/

theorem eraseKey_unloads {j : Nat} (c : Canonical s) (t : Nat) (h : j = t ∨ (keyGet s j).loaded = false) : (keyGet (eraseKey t s) j).loaded = false := by
  by_cases e : j = t
  · rw [e, keyGet_eraseKey c]
    rfl
  · rw [eraseKey, keyGet_keySet_ne _ _ e]
    exact h.resolve_left e

theorem eraseKeys_unload {j : Nat} (l : List Nat) (c : Canonical s) (h : j ∈ l ∨ (keyGet s j).loaded = false) :
    (keyGet (l.foldl (fun s t => eraseKey t s) s) j).loaded = false := by
  induction l generalizing s with
  | nil => exact h.resolve_left (List.not_mem_nil)
  | cons t l ih =>
    refine ih c.eraseKey ?_
    rcases h with h | h
    · rcases List.mem_cons.mp h with rfl | h
      · exact .inr (eraseKey_unloads c _ (.inl rfl))
      · exact .inl h
    · exact .inr (eraseKey_unloads c _ (.inr h))

/-! ### PRESENT rises (R345 to R347) -/

/-- What the rise of PRESENT may change. -/
def riseParts : List Part := [.clk, .pins, .life, .pw, .d0, .d1, .ctr, .ints, .regul, .srv]

theorem risen_only (s : State) : OnlyChanges riseParts s (risen s) :=
  ⟨fun q hq => by cases q <;> first | exact absurd (by decide) hq | rfl⟩

/-- From the first LIVE on, `s` is the state with PRESENT at 1. -/
structure Rose (s u : State) : Prop where
  frame : OnlyChanges riseParts s u
  pins : u.pins = (risen s).pins
  dom : u.pw.dom = s.pw.dom
  live0 : ∃ o ∈ u.d0.out, hOpcode o.msg = Op.live ∧ hResult o.msg = 0
  live1 : ∃ o ∈ u.d1.out, hOpcode o.msg = Op.live ∧ hResult o.msg = 0

theorem sendIntr_appends (s : State) : ∃ l, (sendIntr s).d0.out = s.d0.out ++ l := by
  unfold sendIntr
  split
  · exact ⟨_, rfl⟩
  · exact ⟨[], by rw [List.append_nil]⟩

theorem liveSend_rose (s : State) : Rose s (liveSend 0 (risen s)) := by
  have f := liveSend_only 0 (risen s)
  obtain ⟨op, -, result, -⟩ := liveMsg_fields 0 (risen s)
  refine ⟨(risen_only s).then f, f.pins, (congrArg PowerSt.dom (f.same .pw (by decide)) :), ?_, ?_⟩
  · exact ⟨{ msg := liveMsg 0 (risen s), subj := none, post := .none }, List.mem_append_right _ (List.mem_singleton.mpr rfl), op, result⟩
  · exact ⟨{ msg := liveMsg 0 (risen s), subj := none, post := .none }, List.mem_append_right _ (List.mem_singleton.mpr rfl), op, result⟩

theorem Rose.intr {u : State} (h : Rose s u) : Rose s (riseIntr u) := by
  unfold riseIntr
  split
  · have f := sendIntr_only u
    obtain ⟨l, out⟩ := sendIntr_appends u
    obtain ⟨o, ho, k⟩ := h.live0
    refine ⟨h.frame.then f, f.pins.trans h.pins, (congrArg PowerSt.dom (f.same .pw (by decide))).trans h.dom, ⟨o, ?_, k⟩, ?_⟩
    · exact out ▸ List.mem_append_left l ho
    · rw [show (sendIntr u).d1 = u.d1 from f.same .d1 (by decide)]
      exact h.live1
  · exact h

theorem Rose.first {u : State} (h : Rose s u) : Rose s (ftFirst u) := by
  have f : OnlyChanges [.clk, .srv, .regul] u (ftFirst u) := by
    refine OnlyChanges.then ⟨fun q hq => ?_⟩ (winRestart_only _)
    cases q <;> first | rfl | exact absurd (by simp) hq
  refine ⟨h.frame.then f, f.pins.trans h.pins, (congrArg PowerSt.dom (f.same .pw (by decide))).trans h.dom, ?_, ?_⟩
  · rw [show (ftFirst u).d0 = u.d0 from f.same .d0 (by decide)]
    exact h.live0
  · rw [show (ftFirst u).d1 = u.d1 from f.same .d1 (by decide)]
    exact h.live1

theorem presentRise_rose (s : State) : Rose s (presentRise s) := by
  rw [presentRise_eq]
  split
  · exact (liveSend_rose s).intr.first
  · exact (liveSend_rose s).intr

end

/-! ### A transition ends (R342) -/

section
variable {s v : State}

/-- The domain as it arrives, with PM_REQ at 0. -/
def pdArrived (s : State) : State := setPd s.pins.pmPd (codePow s.pins.pmTo) { s with pins := { s.pins with pmReq := false } }

theorem pdArrived_pdState (c : Canonical s) (lt : s.pins.pmPd < 78) (n : Nat) :
    pdState (pdArrived s) n = if n = s.pins.pmPd then codePow s.pins.pmTo else pdState s n := by
  unfold pdState
  split
  next ge => rw [if_neg (by omega)]
  next =>
    show sget _ (sset _ s.pw.dom s.pins.pmPd (codePow s.pins.pmTo)) n = _
    split
    next e => rw [e, sget_sset _ _ _ _ none c.dom]
    next e => rw [sget_sset_ne _ _ _ e]

theorem pdArrived_only (s : State) : OnlyChanges [.pins, .life, .pw, .dom] s (pdArrived s) :=
  ⟨fun q hq => by cases q <;> first | rfl | exact absurd (by simp) hq⟩

theorem pdState_congr (h : v.pw.dom = s.pw.dom) (n : Nat) : pdState v n = pdState s n := by rw [pdState, pdState, h]

/-- The state with the domain arrived and what follows from that done, before PRESENT may rise. -/
def pdSettled (s : State) : State := armTry (domainMoved s.pins.pmPd (codePow s.pins.pmTo) (pdArrived s))

theorem pdSettled_only (s : State) : OnlyChanges (.gen :: movedParts) (pdArrived s) (pdSettled s) :=
  ((domainMoved_only ..).le _).then (armTry_only _)

theorem pdSettled_keys (c : Canonical s) (pd : s.pins.pmPd = 77) (off : codePow s.pins.pmTo ≠ .on) {t : Nat} (ht : t < 16) :
    (keyGet (pdSettled s) t).loaded = false := by
  have moved : domainMoved s.pins.pmPd (codePow s.pins.pmTo) (pdArrived s) = (List.range 16).foldl (fun s t => eraseKey t s) (pdArrived s) := by
    rw [pd]
    exact if_neg off
  rw [pdSettled, keyGet_congr ((armTry_only _).same .keys (by decide)), moved]
  exact eraseKeys_unload _ (c.withPins.setPd) (.inl (List.mem_range.mpr ht))

/-- PRESENT may rise as the supplies, the core, the bring-up's domains and the time of absence have it (R346). -/
theorem pdSettled_ready (s : State) : presentReady (pdSettled s) =
    (s.pw.bring && s.core.run && powered s && bringOrder.all (pdOn (pdSettled s)) && decide (s.pins.downAt ≤ s.clk.sclk)) := by
  have f := pdSettled_only s
  have pins : (pdSettled s).pins = { s.pins with pmReq := false } := f.pins
  have core : (pdSettled s).core = s.core := f.same .core (by decide)
  have clk : (pdSettled s).clk = s.clk := f.clk
  have bring : (pdSettled s).pw.bring = s.pw.bring := (congrArg PowerSt.bring (show (pdSettled s).pw = (pdArrived s).pw from f.same .pw (by decide)) :)
  have held : pdHeld (pdSettled s) = pdOn (pdSettled s) := by
    funext n
    rw [pdHeld, moving, pins, Bool.false_and, Bool.not_false, Bool.and_true]
  rw [presentReady, powered, powered, held, pins, core, clk, bring]

theorem pdSettled_pdState (c : Canonical s) (lt : s.pins.pmPd < 78) (n : Nat) :
    pdState (pdSettled s) n = if n = s.pins.pmPd then codePow s.pins.pmTo else pdState s n :=
  (pdState_congr (congrArg PowerSt.dom ((pdSettled_only s).same .pw (by decide))) n).trans (pdArrived_pdState c lt n)

theorem powerDone_eq (s : State) : powerDone s = presentTry (pdSettled s) := rfl

/-- What stays the same whether PRESENT rises or not. -/
theorem presentTry_keeps (s : State) : (presentTry s).pw.dom = s.pw.dom ∧ (presentTry s).keys = s.keys ∧
    (presentTry s).pins = (if presentReady s then (risen s).pins else s.pins) ∧ OnlyChanges riseParts s (presentTry s) := by
  have rose := presentRise_rose s
  unfold presentTry
  split
  next => exact ⟨rose.dom, rose.frame.same .keys (by decide), rose.pins, rose.frame⟩
  next => exact ⟨rfl, rfl, rfl, .refl _ s⟩

theorem powerDone_moves (c : Canonical s) (lt : s.pins.pmPd < 78) (gnt : s.pins.pmGnt = true) :
    pdState (powerDone s) s.pins.pmPd = codePow s.pins.pmTo ∧ (∀ n, n ≠ s.pins.pmPd → pdState (powerDone s) n = pdState s n) ∧
      (powerDone s).pins.pmReq = false ∧ (powerDone s).pins.pmGnt = true ∧
      (powerDone s).pins.present = (s.pins.present ||
        (s.pw.bring && s.core.run && powered s && bringOrder.all (pdOn (powerDone s)) && decide (s.pins.downAt ≤ s.clk.sclk))) ∧
      (s.pins.present = false → (powerDone s).pins.present = true →
        (powerDone s).pins.liveAt = s.clk.sclk ∧ (powerDone s).pins.liveCnt = 1 ∧ (powerDone s).pins.irdy0 = true ∧ (powerDone s).pins.irdy1 = true ∧
        (∃ o ∈ (powerDone s).d0.out, hOpcode o.msg = Op.live ∧ hResult o.msg = 0) ∧
        ∃ o ∈ (powerDone s).d1.out, hOpcode o.msg = Op.live ∧ hResult o.msg = 0) ∧
      (s.pins.pmPd = 77 → codePow s.pins.pmTo ≠ .on → ∀ t < 16, (keyGet (powerDone s) t).loaded = false) ∧
      OnlyChanges [.clk, .pins, .life, .pw, .dom, .banks, .gen, .arr, .d0, .d1, .home, .regul, .keys, .ctr, .peat, .mbx, .ints, .srv, .bad] s
        (powerDone s) := by
  have f := pdSettled_only s
  have pins : (pdSettled s).pins = { s.pins with pmReq := false } := f.pins
  have clk : (pdSettled s).clk = s.clk := f.clk
  have ready := pdSettled_ready s
  obtain ⟨dom, keys, pins_u, frame⟩ := presentTry_keeps (pdSettled s)
  have on : pdOn (presentTry (pdSettled s)) = pdOn (pdSettled s) := by
    funext n
    rw [pdOn, pdOn, pdState_congr dom]
  rw [powerDone_eq]
  refine ⟨?_, fun n hn => ?_, ?_, ?_, ?_, fun down up => ?_, fun pd off t ht => ?_, ?_⟩
  · rw [pdState_congr dom, pdSettled_pdState c lt, if_pos rfl]
  · rw [pdState_congr dom, pdSettled_pdState c lt, if_neg hn]
  · rw [pins_u, apply_ite Pins.pmReq]
    cases presentReady (pdSettled s) <;> exact (congrArg Pins.pmReq pins :)
  · rw [pins_u, apply_ite Pins.pmGnt]
    cases presentReady (pdSettled s) <;> exact (congrArg Pins.pmGnt pins :).trans gnt
  · rw [on, ← ready, pins_u, apply_ite Pins.present]
    cases presentReady (pdSettled s) with
    | true => exact (Bool.or_true _).symm
    | false => exact (congrArg Pins.present pins).trans (Bool.or_false _).symm
  · have rises : presentReady (pdSettled s) = true := by
      cases r : presentReady (pdSettled s) with
      | true => rfl
      | false =>
        rw [pins_u, r] at up
        exact absurd (down.symm.trans ((congrArg Pins.present pins).symm.trans up)) Bool.false_ne_true
    have rose := presentRise_rose (pdSettled s)
    rw [presentTry, if_pos rises]
    refine ⟨?_, ?_, ?_, ?_, rose.live0, rose.live1⟩
    · rw [rose.pins]
      exact congrArg Clock.sclk clk
    all_goals rw [rose.pins]; rfl
  · rw [keyGet_congr keys]
    exact pdSettled_keys c pd off ht
  · exact (((pdArrived_only s).mono (by decide)).trans (f.mono (by decide))).trans (frame.mono (by decide))

end

theorem powerMoves : PowerMoves := by
  refine ⟨fun s req => congrArg Host.Outcome.next (if_pos req), fun s req gnt lt c => ⟨powerDone s, ?_, powerDone_moves c lt gnt⟩⟩
  exact congrArg Host.Outcome.next (if_pos (by rw [req, gnt]; rfl))

/-! ### The boot loader (R344, R281) -/

section
variable {s : State} {l : List (BitVec 32)} {w : BitVec 32}

theorem bootWord_takes (boot : s.core.boot = some l) (req : s.pins.bootReq = true) : exec (.bootWord w) s = .next (bootTake w l s) := by
  show execBootWord w s = _
  rw [execBootWord, boot]
  exact congrArg _ (if_pos req)

theorem bootTake_next (h : l.length + 1 < 8 ∨ fwWord (l ++ [w]) 3 ≤ 24576 ∧ l.length < fwWord (l ++ [w]) 3) :
    bootTake w l s = bootNext (l ++ [w]) s := by
  have len : (l ++ [w]).length = l.length + 1 := by simp
  unfold bootTake
  dsimp only
  rw [len]
  split
  · rfl
  next ge => rw [if_neg (by omega), if_pos (by omega)]

theorem bootTake_long (ge : 8 ≤ l.length + 1) (long : 24576 < fwWord (l ++ [w]) 3) : bootTake w l s = bootEnd false (l ++ [w]) s := by
  have len : (l ++ [w]).length = l.length + 1 := by simp
  unfold bootTake
  dsimp only
  rw [len, if_neg (by omega), if_pos long]

theorem bootTake_whole {n : Nat} (ge : 8 ≤ l.length + 1) (hn : n = fwWord (l ++ [w]) 3) (le : n ≤ 24576) (whole : n ≤ l.length) :
    bootTake w l s = bootEnd (imageStatus ((l ++ [w]).take n) n (fwWord (l ++ [w]) n) == Mc.ok) ((l ++ [w]).take n) s := by
  have len : (l ++ [w]).length = l.length + 1 := by simp
  unfold bootTake
  dsimp only
  rw [len, ← hn, if_neg (by omega), if_neg (by omega), if_neg (by omega)]

theorem bootEnd_bad (img : List (BitVec 32)) (s : State) : bootEnd false img s =
    { s with core := { s.core with boot := none, fwA := img, vala := false }, pins := { s.pins with bootReq := false } } := rfl

theorem bootEnd_ok (img : List (BitVec 32)) (s : State) : bootEnd true img s =
    startBring { s with core := { s.core with boot := none, fwA := img, vala := true, sup := false, run := true, wdAt := s.clk.run },
                        pins := { s.pins with bootReq := false } } := rfl

theorem bootEnd_only (ok : Bool) (img : List (BitVec 32)) (s : State) : OnlyChanges [.core, .pins, .pw] s (bootEnd ok img s) := by
  cases ok <;> exact ⟨fun q hq => by cases q <;> first | rfl | exact absurd (by simp) hq⟩

theorem bootLoads : BootLoads := by
  refine fun w s l boot req => ⟨fun h => ?_, fun ge long => ?_, fun n ge hn le whole => ?_⟩
  · rw [bootWord_takes boot req, bootTake_next h]
  · refine ⟨_, bootWord_takes boot req, ?_⟩
    rw [bootTake_long ge long, bootEnd_bad]
    exact ⟨rfl, rfl, ⟨fun q hq => by cases q <;> first | rfl | exact absurd (by simp) hq⟩⟩
  · refine ⟨_, bootWord_takes boot req, ?_⟩
    rw [bootTake_whole ge hn le whole]
    have f := bootEnd_only (imageStatus ((l ++ [w]).take n) n (fwWord (l ++ [w]) n) == Mc.ok) ((l ++ [w]).take n) s
    by_cases ok : imageStatus ((l ++ [w]).take n) n (fwWord (l ++ [w]) n) = Mc.ok
    · rw [beq_iff_eq.mpr ok] at f ⊢
      rw [bootEnd_ok] at f ⊢
      exact ⟨rfl, rfl, rfl, fun _ => ⟨rfl, rfl⟩, fun bad => absurd ok bad, f⟩
    · rw [beq_eq_false_iff_ne.mpr ok] at f ⊢
      rw [bootEnd_bad] at f ⊢
      exact ⟨rfl, rfl, rfl, fun good => absurd good ok, fun _ => ⟨rfl, rfl, rfl⟩, f⟩

end

end Sys2Proof.Machine

namespace Sys2Proof
open Machine

/-- Settles O43: a domain's arrival leaves the other domains and the pins, so that PRESENT rises by R346 alone; the loader's cases are those of its length. -/
theorem powerAndBoot : Obligations.PowerAndBoot := ⟨powerMoves, bootLoads⟩

end Sys2Proof
end

section
/-! SUPPORT. Steps 1 to 4 of Table 2.9 on a D port and on S (O6). -/

namespace Sys2Proof.Machine

-- One declaration after the other: the threads of declarations that wait for one another exhaust the memory that a compile may take.
set_option Elab.async false

/-! ### An answer at decode takes no entry -/

section
variable {s t : State} {p : DPort} {m : Msg} {st : Nat}

@[simp] theorem creditBack_skid (g : Tables) (c : Nat) (x : PortSt) : (creditBack g c x).skid = x.skid := by
  unfold creditBack
  dsimp only
  split <;> rfl

/-- A credit that passes at decode leaves the port's entries and messages. -/
theorem creditPass_keeps (p : DPort) (m : Msg) (c : Nat) (s : State) : (portGet (creditPass p m c s) p).ing = (portGet s p).ing ∧
    (portGet (creditPass p m c s) p).skid = (portGet s p).skid ∧ (portGet (creditPass p m c s) p).out = (portGet s p).out := by
  unfold creditPass
  dsimp only
  split
  · simp
  · rw [(occP_only ..).port p (by cases p <;> decide)]
    exact ⟨rfl, rfl, rfl⟩

theorem creditPass_sameLast (p : DPort) (m : Msg) (c : Nat) (s : State) : SameLast s (creditPass p m c s) := by
  have f := creditPass_only p m c s
  refine .of_out (f.pins (by cases p <;> decide)) fun q => ?_
  unfold creditPass
  dsimp only
  split
  · exact portSet_out (creditBack_out ..) q
  · exact (occP_only ..).out q (by cases q <;> decide)

theorem compTo_keeps (p : DPort) (m : Msg) (j : Subj) (st n : Nat) (s : State) : (portGet (compTo (dport p) m j st n s) p).ing = (portGet s p).ing ∧
    (portGet (compTo (dport p) m j st n s) p).skid = (portGet s p).skid := by cases p <;> exact ⟨rfl, rfl⟩

/-- The state answers message `m` with a COMP of a status alone, and its entries are as before. -/
structure DecodeAnswer (s u : State) (p : DPort) (m : Msg) (st : Nat) : Prop where
  answer : ∃ o, Answers u (dport p) m Op.comp st o ∧ hResult o.msg = 0 ∧ o.msg.beats = []
  ing : (portGet u p).ing = (portGet s p).ing
  skid : (portGet u p).skid = (portGet s p).skid
  frame : OnlyChanges [portPart p, .ctr] s u

/-- After counts alone, a COMP is such an answer. -/
theorem compTo_decodes (h : OnlyChanges [.ctr] s t) (j : Subj) (lt : st < 8) : DecodeAnswer s (compTo (dport p) m j st 0 t) p m st := by
  obtain ⟨o, answer, result, beats⟩ := compTo_answers (dport p) m j st 0 t lt
  obtain ⟨ing, skid⟩ := compTo_keeps p m j st 0 t
  have port := h.port p (by cases p <;> decide)
  refine ⟨⟨o, answer, result, beats⟩, by rw [ing, port], by rw [skid, port], (h.mono (by simp)).trans ((compTo_only ..).mono ?_)⟩
  cases p <;> decide

/-- The credit of the request returns, and the answer stands. -/
theorem DecodeAnswer.credit {u : State} (h : DecodeAnswer s u p m st) (c : Nat) : DecodeAnswer s (creditPass p m c u) p m st := by
  obtain ⟨o, answer, result, beats⟩ := h.answer
  obtain ⟨o', answer', same⟩ := answer.carry (creditPass_sameLast p m c u)
  obtain ⟨ing, skid, -⟩ := creditPass_keeps p m c u
  exact ⟨⟨o', answer', same ▸ result, same ▸ beats⟩, ing.trans h.ing, skid.trans h.skid, h.frame.trans (creditPass_only ..)⟩

theorem refuseMsg_decodes (h : OnlyChanges [.ctr] s t) (lt : st < 8) : DecodeAnswer s (refuseMsg (dport p) m st t) p m st :=
  compTo_decodes (h.trans (occP_only ..)) _ lt

theorem zeroMsg_decodes (h : OnlyChanges [.ctr] s t) : DecodeAnswer s (zeroMsg (dport p) m t) p m St.ok :=
  compTo_decodes (h.trans (passes_only ..)) _ (by decide)

theorem DecodeAnswer.refused {f : BitVec 4 → State} (h : ∀ qc, DecodeAnswer s (f qc) p m st) (run : ∀ qc, exec (.requestIngress p m qc) s = .next (f qc)) :
    RefusedWith s p m st := fun qc => by
  obtain ⟨⟨o, answer, result, beats⟩, ing, skid, frame⟩ := h qc
  exact ⟨f qc, o, run qc, answer, result, beats, ing, skid, frame⟩

/-! ### The statuses of steps 1 to 3 -/

/-- Steps 1 to 3 refuse with the statuses of Table 2.4. -/
theorem classify_status (q : Port) (h : classify s q m = .refuse st) : st < 8 := by
  unfold classify at h
  dsimp only at h
  have one : ∀ x, Cls.refuse x = Cls.refuse st → x < 8 → st < 8 := by rintro x ⟨⟩ lt; exact lt
  repeat' split at h
  all_goals first | exact one _ h (by decide) | exact absurd h nofun

theorem refusedWith_of_refuse (hv : hVc m = Vc.req) (ht : takesReq s p = true) (h : classify s (dport p) m = .refuse st) : RefusedWith s p m st :=
  DecodeAnswer.refused (fun qc => (refuseMsg_decodes (arrived_only p m qc s) (classify_status _ h)).credit qc.toNat)
    fun qc => by rw [execRequestIngress_taken qc hv ht, h]

theorem refusedWith_of_zero (hv : hVc m = Vc.req) (ht : takesReq s p = true) (h : classify s (dport p) m = .zero) : RefusedWith s p m St.ok :=
  DecodeAnswer.refused (fun qc => (zeroMsg_decodes (arrived_only p m qc s)).credit qc.toNat)
    fun qc => by rw [execRequestIngress_taken qc hv ht, h]

/-! ### The same on S (R96) -/

theorem reedMark_only (t : Nat) (m : Msg) (n : Nat) (s : State) : OnlyChanges [.sout] s (reedMark t m n s) :=
  ⟨fun q hq => by cases q <;> first | rfl | exact absurd (by simp) hq⟩

/-- After counts alone, a COMP on S is an answer. -/
theorem compTo_s_answers (h : OnlyChanges [.ctr] s t) (j : Subj) (lt : st < 8) (k : Nat) : ∃ o,
    Answers (reedMark k m s.sout.length (compTo .s m j st 0 t)) .s m Op.comp st o ∧ o.msg.beats = [] ∧
      OnlyChanges [.sout, .ctr] s (reedMark k m s.sout.length (compTo .s m j st 0 t)) := by
  obtain ⟨o, answer, -, beats⟩ := compTo_answers .s m j st 0 t lt
  obtain ⟨o', answer', same⟩ := answer.carry (reedMark_sameLast k m s.sout.length _)
  exact ⟨o', answer', same ▸ beats, ((h.mono (by decide)).trans ((compTo_only .s m j st 0 t).mono (by decide))).trans ((reedMark_only ..).mono (by decide))⟩

theorem refusalAnswered : RefusalAnswered := by
  refine ⟨fun p m qc s st hv ht h => ?_, fun m s st present h => ?_⟩
  · rcases h with h | ⟨h, rfl⟩
    · exact refusedWith_of_refuse hv ht h qc
    · exact refusedWith_of_zero hv ht h qc
  · have a := recvBeats_only m s
    have sout : (recvBeats m s).sout = s.sout := a.same .sout (by decide)
    have run : exec (.sPortRequest m) s = .next (ingressS m s) := congrArg Host.Outcome.next (if_pos present)
    rw [run]
    unfold ingressS
    dsimp only
    rw [classify_counted a, sout]
    rcases h with h | ⟨h, rfl⟩
    · rw [h]
      obtain ⟨o, answer, beats, frame⟩ := compTo_s_answers (a.trans (occP_only ..)) (subjMsg (recvBeats m s) m) (classify_status _ h) (recvBeats m s).clk.sclk
      exact ⟨_, o, rfl, answer, beats, frame⟩
    · rw [h]
      obtain ⟨o, answer, beats, frame⟩ := compTo_s_answers (st := St.ok) (a.trans (passes_only ..)) (subjMsg (recvBeats m s) m) (by decide) (recvBeats m s).clk.sclk
      exact ⟨_, o, rfl, answer, beats, frame⟩

end

/-! ### Step 1 (R11, R15, R17, R29 to R31, R36, R39 to R44, R147) -/

section
variable {s : State} {p : DPort} {m : Msg}

/-- The opcodes and spaces of Table 2.7 on a D port. -/
structure DSpace (m : Msg) : Prop where
  opcode : isReqOp (hOpcode m) = true
  chain : hOpcode m ≠ Op.chainRd
  le : hAspace m ≤ 2
  reg : hAspace m = 2 → hOpcode m = Op.rd ∨ hOpcode m = Op.wr
  fen : hAspace m = 1 → hOpcode m = Op.rd ∨ hOpcode m = Op.wr ∨ hOpcode m = Op.red ∨ hOpcode m = Op.atom

theorem spaceOk_dport (h : spaceOk (dport p) m = true) : DSpace m := by
  have shown : (if hOpcode m == Op.rd || hOpcode m == Op.wr then decide (hAspace m ≤ 2)
      else if hOpcode m == Op.red || hOpcode m == Op.atom then decide (hAspace m ≤ 1)
      else hOpcode m != Op.chainRd && isReqOp (hOpcode m) && hAspace m == 0) = true := by cases p <;> exact h
  by_cases e : hOpcode m = Op.rd ∨ hOpcode m = Op.wr
  · rw [if_pos (by simpa using e)] at shown
    refine ⟨?_, ?_, of_decide_eq_true shown, fun _ => e, fun _ => e.elim .inl fun w => .inr (.inl w)⟩
    all_goals rcases e with e | e <;> rw [e] <;> decide
  · rw [if_neg (by simpa using e)] at shown
    by_cases e' : hOpcode m = Op.red ∨ hOpcode m = Op.atom
    · rw [if_pos (by simpa using e')] at shown
      have le := of_decide_eq_true shown
      refine ⟨?_, ?_, by omega, fun two => by omega, fun _ => .inr (.inr e')⟩
      all_goals rcases e' with e' | e' <;> rw [e'] <;> decide
    · rw [if_neg (by simpa using e')] at shown
      simp only [Bool.and_eq_true, bne_iff_ne, beq_iff_eq] at shown
      obtain ⟨⟨chain, opcode⟩, zero⟩ := shown
      exact ⟨opcode, chain, by omega, fun two => by omega, fun one => by omega⟩

/-- What step 1 asks of a request that a D port accepts. -/
structure Accepted (s : State) (m : Msg) : Prop where
  rsv : hRsv m = 0
  space : DSpace m
  shape : shapeOk m = true
  beats : m.beats.length = beatsWanted m
  payload : payloadOk m = true
  dst : hDst m = chipN s
  coh : isCohOp (hOpcode m) = true → hSrc m = chipN s ∧ pdOn s 68 = true
  mace : hOpcode m = Op.maceSub → pdOn s 70 = true ∧ descOk (msgDesc m) = true

theorem ingressOk_dport (h : ingressOk s (dport p) m = true) : Accepted s m := by
  simp only [ingressOk, step1Ok, Bool.and_eq_true, Bool.or_eq_true, beq_iff_eq, bne_iff_ne, Bool.not_eq_true'] at h
  obtain ⟨⟨⟨⟨⟨⟨⟨⟨rsv, space⟩, -⟩, shape⟩, beats⟩, payload⟩, dst⟩, coh⟩, mace⟩ := h
  exact ⟨rsv, spaceOk_dport space, shape, beats, payload, dst, fun is => coh.resolve_left (by rw [is]; exact Bool.noConfusion),
    fun is => mace.resolve_left fun n => n is⟩

/-- What R17 and R39 to R44 ask of the span and the combination. -/
structure Shaped (m : Msg) : Prop where
  fen : hAspace m = 1 → hAddr m < 2 ^ 32
  reg : hAspace m = 2 → (hLen m = 4 ∨ hLen m = 8) ∧ hAddr m % hLen m = 0 ∧ hAddr m < 2 ^ 16
  span : hAspace m ≠ 2 → hOpcode m = Op.rd ∨ hOpcode m = Op.wr ∨ hOpcode m = Op.red ∨ hOpcode m = Op.rdOnce → hOff m + hLen m ≤ 128
  red : hAspace m ≠ 2 → hOpcode m = Op.red → redComboOk (hFmt m) (hOp m) = true ∧ redShapeOk m = true
  atom : hAspace m ≠ 2 → hOpcode m = Op.atom ∨ hOpcode m = Op.atomC → atomComboOk (hFmt m) (hOp m) = true ∧ hAddr m % atomSize (hFmt m) = 0

theorem shapeOk_shaped (h : shapeOk m = true) : Shaped m := by
  simp only [shapeOk, Bool.and_eq_true, Bool.or_eq_true, bne_iff_ne, decide_eq_true_eq] at h
  obtain ⟨fen, rest⟩ := h
  by_cases two : hAspace m = 2
  · rw [if_pos (beq_iff_eq.mpr two)] at rest
    simp only [Bool.and_eq_true, Bool.or_eq_true, beq_iff_eq, decide_eq_true_eq] at rest
    obtain ⟨⟨⟨len, align⟩, low⟩, -⟩ := rest
    exact ⟨fun one => by omega, fun _ => ⟨len, align, low⟩, fun n => absurd two n, fun n => absurd two n, fun n => absurd two n⟩
  · rw [if_neg (by simpa using two)] at rest
    refine ⟨fun one => fen.resolve_left fun n => n one, fun e => absurd e two, fun _ o => ?_, fun _ o => ?_, fun _ o => ?_⟩
    · rcases o with o | o | o | o <;> simp [o, Op.rd, Op.wr, Op.red, Op.rdOnce] at rest <;> omega
    · simp [o, Op.rd, Op.wr, Op.red, Op.rdOnce] at rest
      exact ⟨rest.1.2, rest.2⟩
    · rcases o with o | o <;> simpa [o, Op.rd, Op.wr, Op.red, Op.rdOnce, Op.atom, Op.atomC] using rest

theorem refusedWith_of_unaccepted (hv : hVc m = Vc.req) (ht : takesReq s p = true) (h : ¬ Accepted s m) : RefusedWith s p m St.unsupported := by
  have no : ingressOk s (dport p) m = false := by
    by_contra yes
    exact h (ingressOk_dport (by simpa using yes))
  exact refusedWith_of_refuse hv ht (by simp [classify, no])

theorem ingressRefuses : IngressRefuses := by
  refine ⟨fun p m s hv present op => ?_, fun p m s hv ht bad => refusedWith_of_unaccepted hv ht fun ok => ?_⟩
  · refine DecodeAnswer.refused (fun qc => refuseMsg_decodes (recvBeats_only m s) (by decide)) fun qc => ?_
    show execRequestIngress p m qc s = _
    rw [execRequestIngress, if_neg hv, present, op]
    rfl
  · obtain ⟨rsv, space, shape, beats, payload, dst, coh, mace⟩ := ok
    obtain ⟨opcode, chain, le, inReg, inFen⟩ := space
    obtain ⟨fen, reg, span, red, atom⟩ := shapeOk_shaped shape
    have notReg : hOpcode m = Op.red ∨ hOpcode m = Op.atom ∨ hOpcode m = Op.atomC → hAspace m ≠ 2 := fun o two => by
      rcases inReg two with e | e <;> rw [e] at o <;> revert o <;> decide
    rcases bad with b | b | b | b | b | b | b | ⟨b, c, d⟩ | ⟨b, c⟩ | ⟨b, c⟩ | ⟨b, c, d⟩ | ⟨b, c⟩ | ⟨b, c⟩ | ⟨b, c⟩ | ⟨b, c⟩
    · exact b rsv
    · rw [payload] at b; cases b
    · rw [opcode] at b; cases b
    · exact chain b
    · exact b dst
    · exact b beats
    · omega
    · exact (inReg b).elim c d
    · rcases c with c | ⟨c1, c2, c3, c4⟩
      · exact absurd (fen b) (by omega)
      · rcases inFen b with e | e | e | e
        exacts [c1 e, c2 e, c3 e, c4 e]
    · obtain ⟨len, align, low⟩ := reg b
      rcases c with ⟨c1, c2⟩ | c | c
      · exact len.elim c1 c2
      · exact c align
      · omega
    · exact absurd (span b c) (by omega)
    · obtain ⟨combo, shape⟩ := red (notReg (.inl b)) b
      rcases c with c | c
      · rw [combo] at c; cases c
      · rw [shape] at c; cases c
    · obtain ⟨combo, align⟩ := atom (notReg (.inr b)) b
      rcases c with c | c
      · rw [combo] at c; cases c
      · exact c align
    · obtain ⟨src, on⟩ := coh b
      rcases c with c | c
      · exact c src
      · rw [on] at c; cases c
    · obtain ⟨on, desc⟩ := mace b
      rcases c with c | c
      · rw [on] at c; cases c
      · rw [desc] at c; cases c

end

/-! ### Steps 2 and 3 (R17, R19, R32, R71, R85, R91, R131, R132, R157, R247) -/

section
variable {s : State} {p : DPort} {m : Msg} {g : Seg}

theorem refusedWith_of_unknown (hv : hVc m = Vc.req) (ht : takesReq s p = true) (ok : ingressOk s (dport p) m = true)
    (h : rmV s.t (hReqid m) = false ∨ hTc m ≠ rmTc s.t (hReqid m)) : RefusedWith s p m St.denied := by
  refine refusedWith_of_refuse hv ht ?_
  have no : (!rmV s.t (hReqid m) || hTc m != rmTc s.t (hReqid m)) = true := by simpa using h
  rw [classify, ok, Bool.not_true, if_neg Bool.false_ne_true, if_pos no]

/-- What steps 1 to 4 make of a Fen request with an outcome in its segment. -/
def fenOutcome (s : State) (p : DPort) (m : Msg) : FenCls → Cls
  | .deny => .refuse St.denied
  | .stale => .refuse St.stale
  | .unsup => .refuse St.unsupported
  | .ok l x => if isZeroLen m then .zero else .req (mkReq s (dport p) .port m (some l) x)

namespace Known

theorem refused {st : Nat} (k : Known s p m) (h : classify s (dport p) m = .refuse st) : RefusedWith s p m st := refusedWith_of_refuse k.cls k.taken h

theorem classify_reg (k : Known s p m) (two : hAspace m = 2) : classify s (dport p) m =
    if regPermits (hTc m) (hAddr m) (hOpcode m == Op.wr) then .reg (BitVec.ofNat 4 (hTc m)) else .refuse St.denied := by
  simp [classify, k.shape, k.valid, ← k.tc, two]

theorem classify_mem (k : Known s p m) (mem : hAspace m = 0) (h1 : hOpcode m ≠ Op.twait) (h2 : hOpcode m ≠ Op.tread) (h3 : hOpcode m ≠ Op.maceSub) :
    classify s (dport p) m =
      if isCohOp (hOpcode m) && !(rmCv s.t (hReqid m) && rmCagent s.t (hReqid m) == hCagent m) then .refuse St.denied
      else if !memPermits s (hAddr m) (hTc m) (opWrites (hOpcode m)) then .refuse St.denied
      else if isZeroLen m then .zero else .req (mkReq s (dport p) .port m none none) := by
  simp [classify, k.shape, k.valid, ← k.tc, mem, isTallyOp, maceZero, h1, h2, h3]

/-- A Fen request is one that its space has (Table 2.7), so that the outcome in the segment decides. -/
theorem classify_fen {c : FenCls} (k : Known s p m) (fen : hAspace m = 1)
    (h : fenClass s (hAddr m) (hTc m) (BitVec.ofNat 2 (hEpoch m)) (msgAsk m) = c) : classify s (dport p) m = fenOutcome s p m c := by
  have op := (ingressOk_dport k.shape).space.fen fen
  have plain : isTallyOp (hOpcode m) = false ∧ (hOpcode m == Op.maceSub) = false := by
    rcases op with e | e | e | e <;> rw [e] <;> decide
  obtain ⟨tally, mace⟩ := plain
  simp only [classify, k.shape, k.valid, ← k.tc, fen, tally, mace, maceZero, h]
  cases c <;> simp [fenOutcome]

end Known
/-- The outcome in a Fen segment, by the conditions of chapters 4 and 6. -/
theorem fenClass_none {a tc : Nat} {ep : BitVec 2} {ask : FenAsk} (h : segFind s (a / 2 ^ 26) = none) : fenClass s a tc ep ask = .deny := by
  rw [fenClass, h]

theorem fenClass_closed {a tc : Nat} {ep : BitVec 2} {ask : FenAsk} (h : segFind s (a / 2 ^ 26) = some g)
    (bad : (g.owner.toNat ≠ tc ∧ nbit g.tcmask.toNat tc = false) ∨ g.gran * 65536 ≤ a % 2 ^ 26) : fenClass s a tc ep ask = .deny := by
  have no : (!(g.owner.toNat == tc || nbit g.tcmask.toNat tc) || decide (g.gran * 65536 ≤ a % 2 ^ 26)) = true := by simpa using bad
  rw [fenClass, h]
  dsimp only
  rw [if_pos no]

/-- Segment `g` holds the address and is open to the context. -/
structure SegOpen (s : State) (g : Seg) (a tc : Nat) : Prop where
  found : segFind s (a / 2 ^ 26) = some g
  permits : g.owner.toNat = tc ∨ nbit g.tcmask.toNat tc = true
  inside : a % 2 ^ 26 < g.gran * 65536

namespace SegOpen
variable {a tc : Nat} {ep : BitVec 2} {ask : FenAsk} {r : Region} {el : Nat → List Nat}

theorem passes (h : SegOpen s g a tc) : (!(g.owner.toNat == tc || nbit g.tcmask.toNat tc) || decide (g.gran * 65536 ≤ a % 2 ^ 26)) = false := by
  have p : (g.owner.toNat == tc || nbit g.tcmask.toNat tc) = true := by simpa using h.permits
  rw [p, decide_eq_false (Nat.not_le.mpr h.inside)]
  rfl

/-- With no region in the way, the epoch decides. -/
theorem fenClass_free (h : SegOpen s g a tc) (free : ask = .plain ∨ regionAt s g.id (a % 2 ^ 26) = none) :
    fenClass s a tc ep ask = match copyOf s g ep with | none => .stale | some c => .ok (fenLoc g c (a % 2 ^ 26)) none := by
  rw [fenClass, h.found]
  dsimp only
  rw [h.passes, if_neg Bool.false_ne_true]
  rcases free with rfl | none
  · cases copyOf s g ep <;> rfl
  · rw [none]
    cases ask <;> cases copyOf s g ep <;> rfl

theorem fenClass_past (h : SegOpen s g a tc) (at_ : regionAt s g.id (a % 2 ^ 26) = some r)
    (out : (el ((a % 2 ^ 26 - r.rbase) / 128)).any (fun n => r.n ≤ n) = true) : fenClass s a tc ep (.arith true el) = .deny := by
  rw [fenClass, h.found]
  dsimp only
  rw [h.passes, if_neg Bool.false_ne_true, at_]
  exact if_pos out

theorem fenClass_other {c : Bool} (h : SegOpen s g a tc) (at_ : regionAt s g.id (a % 2 ^ 26) = some r) (held : copyOf s g ep = some c) :
    fenClass s a tc ep (.arith false el) = .unsup := by
  rw [fenClass, h.found]
  dsimp only
  rw [h.passes, if_neg Bool.false_ne_true, at_, held]
  rfl

end SegOpen

theorem memPermits_false {a tc : Nat} {w : Bool} (h : ratPermits s.t a tc = false ∨ ((ratAttr s.t a).ro = true ∧ w = true) ∨
    ((ratAttr s.t a).sealed = true ∧ (tenMacsize s.t tc = 0 ∨ (keyGet s tc).loaded = false))) : memPermits s a tc w = false := by
  have e : memPermits s a tc w = (ratPermits s.t a tc && !((ratAttr s.t a).ro && w) &&
    (!(ratAttr s.t a).sealed || (tenMacsize s.t tc != 0 && (keyGet s tc).loaded))) := rfl
  rw [e]
  rcases h with h | ⟨ro, writes⟩ | ⟨sealed, none⟩
  · simp [h]
  · simp [ro, writes]
  · rcases none with none | none <;> simp [sealed, none]

theorem msgAsk_plain (h : hOpcode m = Op.rd ∨ hOpcode m = Op.wr) : msgAsk m = .plain := by
  rcases h with h | h <;> simp [msgAsk, h, Op.rd, Op.wr, Op.red, Op.atom]

theorem Known.mem_refused (k : Known s p m) (mem : hAspace m = 0) (h1 : hOpcode m ≠ Op.twait) (h2 : hOpcode m ≠ Op.tread) (h3 : hOpcode m ≠ Op.maceSub)
    (bad : (isCohOp (hOpcode m) = true ∧ (rmCv s.t (hReqid m) = false ∨ rmCagent s.t (hReqid m) ≠ hCagent m)) ∨
      memPermits s (hAddr m) (hTc m) (opWrites (hOpcode m)) = false) : RefusedWith s p m St.denied := by
  refine k.refused ?_
  rw [k.classify_mem mem h1 h2 h3]
  rcases bad with ⟨coh, bind⟩ | no
  · have unbound : (isCohOp (hOpcode m) && !(rmCv s.t (hReqid m) && rmCagent s.t (hReqid m) == hCagent m)) = true := by
      rcases bind with b | b <;> simp [coh, b]
    rw [if_pos unbound]
  · rw [no, Bool.not_false, if_pos rfl, ite_self]

theorem classificationRefuses : ClassificationRefuses := by
  refine ⟨fun p m s hv ht ok h => refusedWith_of_unknown hv ht ok h, fun p m s k => ⟨fun two no => ?_, fun mem h1 h2 h3 bad => ?_, fun fen none => ?_,
    fun g fen found => ⟨fun bad => ?_, fun permits inside => ⟨fun stale free => ?_, fun r el b ask at_ => ⟨fun ok out => ?_, fun held not => ?_⟩⟩⟩⟩⟩
  · exact k.refused (by rw [k.classify_reg two, no, if_neg Bool.false_ne_true])
  · exact k.mem_refused mem h1 h2 h3 (bad.imp id memPermits_false)
  · exact k.refused (k.classify_fen fen (fenClass_none none))
  · exact k.refused (k.classify_fen fen (fenClass_closed found bad))
  · have seg : SegOpen s g (hAddr m) (hTc m) := ⟨found, permits, inside⟩
    have free' : msgAsk m = .plain ∨ regionAt s g.id (hAddr m % 2 ^ 26) = none := by
      rcases free with o | o | o
      exacts [.inl (msgAsk_plain (.inl o)), .inl (msgAsk_plain (.inr o)), .inr o]
    exact k.refused (k.classify_fen (c := .stale) fen (by rw [seg.fenClass_free free', stale]))
  · have seg : SegOpen s g (hAddr m) (hTc m) := ⟨found, permits, inside⟩
    rw [ok] at ask
    exact k.refused (k.classify_fen (c := .deny) fen (by rw [ask, seg.fenClass_past at_ out]))
  · have seg : SegOpen s g (hAddr m) (hTc m) := ⟨found, permits, inside⟩
    obtain ⟨c, held⟩ := Option.ne_none_iff_exists'.mp held
    rw [not] at ask
    exact k.refused (k.classify_fen (c := .unsup) fen (by rw [ask, seg.fenClass_other at_ held]))

/-! ### Step 4 and what a classification fixes (R25, R91, Table 2.9) -/

/-- A sum of distinct powers of two below `2 ^ n` is below it. -/
theorem foldl_bits_lt (f : Nat → Bool) (n : Nat) : (List.range n).foldl (fun a i => a + if f i then 2 ^ i else 0) 0 < 2 ^ n := by
  induction n with
  | zero => exact Nat.one_pos
  | succ n ih =>
    rw [List.range_succ, List.foldl_append]
    have le : (if f n then 2 ^ n else 0) ≤ 2 ^ n := by split <;> simp
    exact Nat.pow_succ' ▸ Nat.two_mul (2 ^ n) ▸ Nat.add_lt_add_of_lt_of_le ih le

theorem liveSet_lt (s : State) (l : LAddr) : liveSet s l < 2 ^ 14 :=
  foldl_bits_lt (fun i => xor (l.getLsbD i) (parity ((hashRows s.t).getD i 0 &&& l.extractLsb' 14 23))) 14

theorem mkReq_qc (q : Port) (src : Src) (fl : Option FenLoc) (ex : Option Nat) : (mkReq s q src m fl ex).qc.toNat = rmQc s.t (hReqid m) :=
  Nat.mod_eq_of_lt (fld_lt ..)

theorem Known.mkReq_tc (k : Known s p m) (q : Port) (src : Src) (fl : Option FenLoc) (ex : Option Nat) : (mkReq s q src m fl ex).tc.toNat = hTc m :=
  (Nat.mod_eq_of_lt (fld_lt ..)).trans k.tc.symm

theorem Known.classify_permitted (k : Known s p m) (mem : hAspace m = 0) (h1 : hOpcode m ≠ Op.twait) (h2 : hOpcode m ≠ Op.tread)
    (h3 : hOpcode m ≠ Op.maceSub) (bound : isCohOp (hOpcode m) = true → rmCv s.t (hReqid m) = true ∧ rmCagent s.t (hReqid m) = hCagent m)
    (permits : memPermits s (hAddr m) (hTc m) (opWrites (hOpcode m)) = true) :
    classify s (dport p) m = if isZeroLen m then .zero else .req (mkReq s (dport p) .port m none none) := by
  have held : (isCohOp (hOpcode m) && !(rmCv s.t (hReqid m) && rmCagent s.t (hReqid m) == hCagent m)) = false := by
    cases coh : isCohOp (hOpcode m) with
    | false => rfl
    | true => simp [bound coh]
  rw [k.classify_mem mem h1 h2 h3, held, permits, if_neg Bool.false_ne_true, Bool.not_true, if_neg Bool.false_ne_true]

theorem classificationFixes : ClassificationFixes := by
  refine fun p m s k => ⟨fun mem h1 h2 h3 bound permits => ⟨fun zero => ?_, fun some qc => ?_⟩, fun g b fen op some found permits inside held qc => ?_⟩
  · refine refusedWith_of_zero k.cls k.taken ?_
    rw [k.classify_permitted mem h1 h2 h3 bound permits, if_pos zero]
  · obtain ⟨u, run, placed, -, -⟩ := requestPlaced_entry p m qc s (mkReq s (dport p) .port m none none) k.cls k.taken
      (by rw [k.classify_permitted mem h1 h2 h3 bound permits, some, if_neg Bool.false_ne_true])
    refine ⟨u, _, run, placed, rfl, rfl, rfl, rfl, rfl, mkReq_qc .., k.mkReq_tc .., ?_, Nat.mod_eq_of_lt (liveSet_lt ..), rfl, rfl⟩
    exact if_pos (beq_iff_eq.mpr mem)
  · have seg : SegOpen s g (hAddr m) (hTc m) := ⟨found, permits, inside⟩
    have ok : fenClass s (hAddr m) (hTc m) (BitVec.ofNat 2 (hEpoch m)) (msgAsk m) = .ok (fenLoc g b (hAddr m % 2 ^ 26)) none := by
      rw [seg.fenClass_free (.inl (msgAsk_plain op)), held]
    obtain ⟨u, run, placed, -, -⟩ := requestPlaced_entry p m qc s (mkReq s (dport p) .port m (Option.some (fenLoc g b (hAddr m % 2 ^ 26))) none) k.cls k.taken
      ((k.classify_fen fen ok).trans (if_neg (by rw [some]; exact Bool.false_ne_true)))
    exact ⟨u, _, run, placed, rfl, rfl, rfl, mkReq_qc .., k.mkReq_tc ..⟩

end

end Sys2Proof.Machine

namespace Sys2Proof
open Machine

/-- Settles O6: what step 1 accepts, and the outcome of the later steps in each address space, are each found once; an answer at decode takes no entry. -/
theorem refusedAnswered : Obligations.RefusedAnswered := ⟨refusalAnswered, ingressRefuses, classificationRefuses, classificationFixes⟩

end Sys2Proof
end

section
/-! SUPPORT. What the work of an SCLK leaves: notices, the entries of the ports, the straps and the counters (O2). -/

namespace Sys2Proof.Machine

-- One declaration after the other: the threads of declarations that wait for one another exhaust the memory that a compile may take.
set_option Elab.async false

/-! ### Two relations -/

/-- A port but for its messages. -/
def bare (x : PortSt) : PortSt := { x with out := [] }

/-- The lanes of the credits and of REQ-class ready, and the straps. -/
def lanes (p : Pins) : (Bool × Bool × BitVec 16 × BitVec 16) × BitVec 12 × BitVec 14 := ((p.irdy0, p.irdy1, p.cgnt0, p.cgnt1), p.sreqid, p.chipId)

/-- The counters with what resets them, F0, and the occurrences of event SCLK. -/
def sclkCounts (c : CtrSt) : (Store Ctr × BitVec 64 × List Occ) × List CRst × List (Nat × Subj) :=
  ((c.ctr, sget (fun _ => 0) c.f 0, c.occ.filter (·.ev == 1)), c.rst, c.cls)

/-- From `s` to `u` no notice has gone, and of the ports and pins no more than messages and what a fatal error drives has changed. -/
structure Easy (s u : State) : Prop where
  notices : s.log.notices ⊆ u.log.notices
  d0 : bare u.d0 = bare s.d0
  d1 : bare u.d1 = bare s.d1
  lanes : lanes u.pins = lanes s.pins

/-- Besides, no counter and not F0 has changed, and event SCLK has not occurred. -/
structure Calm (s u : State) : Prop extends Easy s u where
  counts : sclkCounts u.ctr = sclkCounts s.ctr

section
variable {s t u : State}

theorem Easy.refl (s : State) : Easy s s := ⟨List.Subset.refl _, rfl, rfl, rfl⟩
theorem Easy.trans (h : Easy s t) (k : Easy t u) : Easy s u :=
  ⟨List.Subset.trans h.notices k.notices, k.d0.trans h.d0, k.d1.trans h.d1, k.lanes.trans h.lanes⟩

theorem Calm.refl (s : State) : Calm s s := ⟨.refl s, rfl⟩
theorem Calm.trans (h : Calm s t) (k : Calm t u) : Calm s u := ⟨h.toEasy.trans k.toEasy, k.counts.trans h.counts⟩
/-- The last operation names the state before it. -/
theorem Calm.after (k : Calm t u) (h : Calm s t) : Calm s u := h.trans k
theorem Calm.ite {c : Prop} [Decidable c] (h : Calm s t) (k : Calm s u) : Calm s (if c then t else u) := by split <;> assumption

theorem Calm.foldl {α : Type} {f : State → α → State} (h : ∀ s a, Calm s (f s a)) (l : List α) (s : State) : Calm s (l.foldl f s) := by
  induction l generalizing s with
  | nil => exact .refl _
  | cons x l ih => exact (h s x).trans (ih _)

/-- A frame that leaves the ports, the pins and the notices. -/
theorem OnlyChanges.easy {l : List Part} (h : OnlyChanges l s u) (k : ∀ p ∈ [Part.log, .d0, .d1, .pins], p ∉ l := by decide) : Easy s u :=
  ⟨(congrArg LogSt.notices (show u.log = s.log from h.same .log (k _ (by simp)))) ▸ List.Subset.refl _, congrArg bare (h.same .d0 (k _ (by simp))),
    congrArg bare (h.same .d1 (k _ (by simp))), congrArg Machine.lanes (h.same .pins (k _ (by simp)))⟩

/-- A frame that leaves the counters too. -/
theorem OnlyChanges.calm {l : List Part} (h : OnlyChanges l s u) (k : ∀ p ∈ [Part.log, .d0, .d1, .pins, .ctr], p ∉ l := by decide) : Calm s u :=
  ⟨h.easy fun p hp => k p (by simp only [List.mem_cons] at hp ⊢; tauto), congrArg sclkCounts (h.same .ctr (k _ (by simp)))⟩

theorem Easy.port (h : Easy s u) (p : DPort) : bare (portGet u p) = bare (portGet s p) := by
  cases p
  · exact h.d0
  · exact h.d1

end

/-! ### Messages, causes, notices, counts -/

section
variable (s : State)

theorem emit_calm (p : Port) (o : Out) : Calm s (emit p o s) := by cases p <;> exact ⟨⟨List.Subset.refl _, rfl, rfl, rfl⟩, rfl⟩

theorem respond_calm (p : Port) (m : Msg) (j : Subj) (x : Rsp) : Calm s (respond p m j x s) := emit_calm ..

theorem ints_calm (x : Ints) : Calm s { s with ints := x } := ⟨⟨List.Subset.refl _, rfl, rfl, rfl⟩, rfl⟩

theorem sendIntr_calm : Calm s (sendIntr s) := .ite ((emit_calm ..).after (ints_calm ..)) (.refl s)
theorem setInts_calm (x : Ints) : Calm s (setInts x s) := .ite ((sendIntr_calm _).after (ints_calm ..)) (ints_calm ..)
theorem raise_calm (c : Nat) : Calm s (raise c s) := setInts_calm ..
theorem raiseMbx_calm (t : Nat) : Calm s (raiseMbx t s) := setInts_calm ..

/-- A log with no fewer notices. -/
theorem log_calm (x : LogSt) (h : s.log.notices ⊆ x.notices) : Calm s { s with log := x } := ⟨⟨h, rfl, rfl, rfl⟩, rfl⟩

theorem eventLost_calm : Calm s (eventLost s) := (raise_calm ..).after (log_calm s _ (List.Subset.refl _))
theorem evqPush_calm (k : Nat) (r : Rec) : Calm s (evqPush k r s) := .ite (log_calm s _ (List.Subset.refl _)) (eventLost_calm s)
theorem notice_calm (n : Notice) : Calm s (notice n s) := .ite (log_calm s _ (List.subset_append_left _ _)) (eventLost_calm s)

theorem errArrive_calm (r : Rec) : Calm s (errArrive r s) := by
  have keep : ∀ x : LogSt, x.notices = s.log.notices → Calm s { s with log := x } := fun x e => log_calm s x (e ▸ List.Subset.refl _)
  unfold errArrive
  dsimp only
  split
  · refine .ite ((raise_calm ..).after (keep _ rfl)) (.ite ((raise_calm ..).after ((evqPush_calm ..).after (keep _ rfl))) ?_)
    exact (raise_calm ..).after (keep _ rfl)
  · exact (raise_calm ..).after ((evqPush_calm ..).after (keep _ rfl))

theorem fatalErr_calm (i : ErrInfo) : Calm s (fatalErr i s) :=
  .ite (notice_calm ..) ((errArrive_calm ..).after ((raise_calm ..).after ⟨⟨List.Subset.refl _, rfl, rfl, rfl⟩, rfl⟩))

theorem ctlUse_calm (x : Site) (j : Option Subj) : Calm s (ctlUse x j s) := .ite ((fatalErr_calm ..).after (badOnly ..).calm) (.refl s)

theorem ctr_calm (x : CtrSt) (h : sclkCounts x = sclkCounts s.ctr) : Calm s { s with ctr := x } := ⟨⟨List.Subset.refl _, rfl, rfl, rfl⟩, h⟩

/-- The occurrence of another event. -/
theorem occAt_calm (o e : Nat) (k : OccKind) (j : Subj) (n : Nat) (h : BitVec.ofNat 8 e ≠ 1) : Calm s (occAt o e k j n s) := by
  refine .ite (.refl s) (ctr_calm s _ ?_)
  have none : [({ ev := BitVec.ofNat 8 e, kind := k, subj := j, n := n, ord := o } : Occ)].filter (·.ev == 1) = [] :=
    List.filter_eq_nil_iff.mpr fun x hx => by rw [List.mem_singleton.mp hx, beq_eq_false_iff_ne.mpr h]; exact Bool.false_ne_true
  rw [sclkCounts, List.filter_append, none, List.append_nil]
  rfl

theorem occ_calm (e : Nat) (k : OccKind) (j : Subj) (n : Nat) (h : BitVec.ofNat 8 e ≠ 1 := by decide) : Calm s (occ e k j n s) := occAt_calm s _ _ _ _ _ h
theorem occU_calm (e n : Nat) (h : BitVec.ofNat 8 e ≠ 1 := by decide) : Calm s (occU e n s) := occAt_calm s _ _ _ _ _ h
theorem occP_calm (p : Port) (e : Nat) (j : Subj) (n : Nat) (h : BitVec.ofNat 8 e ≠ 1 := by decide) : Calm s (occP p e j n s) := occAt_calm s _ _ _ _ _ h
theorem occR_calm (e : Nat) (r : Req) (n : Nat) (h : BitVec.ofNat 8 e ≠ 1 := by decide) : Calm s (occR e r n s) :=
  .ite (occ_calm s _ _ _ _ h) (occAt_calm s _ _ _ _ _ h)

/-- A fixed counter other than F0 counts. -/
theorem fctr_calm (k n : Nat) (h : 0 ≠ k := by decide) : Calm s (fctr k n s) := by
  refine .ite (.refl s) (ctr_calm s _ ?_)
  simp [sclkCounts, sget_sset_ne _ _ _ h]

end

/-! ### The S port and the temperature reports -/

section
variable (s : State)

theorem hteClose_calm (id : Nat) : Calm s (hteClose id s) := by
  have home : ∀ (t : State) (x : HomeSt), Calm t { t with home := x } := fun t x => (homeOnly x t).calm
  refine (home s _).trans (.foldl (fun s h => ?_) _ _)
  exact .ite (.ite (.ite ((home ..).trans (respond_calm ..)) ((home ..).trans (respond_calm ..))) (home ..)) (.refl _)

theorem hteLeft_calm (m : Msg) : Calm s (hteLeft m s) := by
  unfold hteLeft
  refine .ite ?_ (.refl _)
  split
  · exact hteClose_calm ..
  · exact .refl _

theorem outLeft_s_calm (o : Out) : Calm s (outLeft .s o s) := by
  have left : ∀ t, Calm s t → Calm s (hteLeft o.msg (fctr 6 (64 * o.msg.beats.length) t)) := fun t h =>
    (h.trans (fctr_calm t 6 _)).trans (hteLeft_calm ..)
  unfold outLeft
  cases o.subj with
  | none => cases o.post <;> exact left s (.refl s)
  | some j =>
    have h := left _ (.ite (c := hStatus (asSent s o) == St.poison) (occP_calm s .s 0xC2 j 1) (.refl s))
    cases o.post with
    | none => exact h
    | maceData slot k line => exact h
    | reed at_ bound => exact .ite (h.trans (occP_calm _ .s 0x53 j 1)) h

theorem sTick_calm : Calm s (sTick s) := by
  unfold sTick
  split
  · exact ⟨⟨List.Subset.refl _, rfl, rfl, rfl⟩, rfl⟩
  · next o rest _ =>
    have left : Calm s { s with sout := rest, pins := { s.pins with ohS := some (asSent s o) } } := ⟨⟨List.Subset.refl _, rfl, rfl, rfl⟩, rfl⟩
    exact left.trans (outLeft_s_calm ..)

theorem tempReport_calm (m : Msg) (o : Nat) : Calm s (tempReport m o s) := by
  unfold tempReport
  dsimp only
  have r := (regulOnly { s.regul with levels := sset (fun _ => 0) s.regul.levels (fld (hResult m) 0 6) (BitVec.ofNat 3 (fld (hResult m) 16 3)) } s).calm
  refine .ite r (Calm.trans ?_ (trigger_only ..).calm)
  refine Calm.trans ?_ (traceEv_only ..).calm
  refine Calm.trans ?_ (notice_calm ..)
  exact (r.trans (winNote_only _).calm).trans (occU_calm _ 0x43 1)

theorem rptTick_calm : Calm s (rptTick s) := (regulOnly { s.regul with rpts := [] } s).calm.trans (.foldl (fun _ _ => tempReport_calm ..) _ _)

/-! ### Tallies -/

theorem twaitDeadlineAt_calm (k : Nat) : Calm s (twaitDeadlineAt k s) := by
  unfold twaitDeadlineAt
  split
  · exact .refl _
  · split
    · exact .refl _
    · exact ((((ctlUse_calm ..).trans (talOnly ..).calm).trans (occU_calm _ 0x95 1)).trans (notice_calm ..)).trans (traceEv_only ..).calm

theorem resolveDeadlineAt_calm (i : Nat) : Calm s (resolveDeadlineAt i s) := by
  unfold resolveDeadlineAt
  split
  · exact .refl _
  · split
    · exact .refl _
    · split
      · exact .refl _
      · exact (((regionMod_only ..).calm.trans (occU_calm _ 0x95 1)).trans (notice_calm ..)).trans (traceEv_only ..).calm

theorem releaseAt_calm (k : Nat) : Calm s (releaseAt k s) := by
  unfold releaseAt
  split
  · exact .refl _
  · refine .ite (.refl _) ?_
    refine Calm.trans ?_ (respond_calm ..)
    refine Calm.trans ?_ (traceEv_only ..).calm
    refine Calm.trans ?_ (occR_calm _ 0x93 _ 1)
    exact ((twaitDeadlineAt_calm ..).trans (ctlUse_calm ..)).trans (talOnly ..).calm

theorem releaseAll_calm (n : Nat) : Calm s (releaseAll n s) := by
  induction n generalizing s with
  | zero => exact .refl _
  | succ n ih =>
    unfold releaseAll
    split
    · exact (releaseAt_calm ..).trans (ih _)
    · exact .refl _

theorem reportAll_calm : Calm s (reportAll s) :=
  (Calm.foldl (f := fun s k => twaitDeadlineAt k s) (fun s k => twaitDeadlineAt_calm s k) (List.range s.tal.parked.length) s).trans
    (.foldl (f := fun s i => resolveDeadlineAt i s) (fun s i => resolveDeadlineAt_calm s i) (List.range 16) _)

theorem tallyTick_calm : Calm s (tallyTick s) := by
  have r := (reportAll_calm s).trans (releaseAll_calm (reportAll s) 256)
  unfold tallyTick
  generalize releaseAll 256 (reportAll s) = t at r ⊢
  exact ⟨⟨r.notices, r.d0, r.d1, r.lanes⟩, r.counts⟩

/-! ### Counters and captures -/

theorem pipeTick_calm (p : Nat) : Calm s (pipeTick s p) := by
  have slots : ∀ l, Calm s { s with ctr := { s.ctr with slots := l } } := fun l => ctr_calm s _ rfl
  unfold pipeTick
  split
  · next x _ =>
    dsimp only
    cases x.retired
    · split
      · exact ((slots _).trans (fctr_calm _ 2 1)).trans (occAt_calm _ _ _ _ _ _ (by decide))
      · exact ((slots _).trans (fctr_calm _ 2 1)).trans (occAt_calm _ _ _ _ _ _ (by decide))
    · split
      · exact ((slots _).trans (fctr_calm _ 1 1)).trans (occAt_calm _ _ _ _ _ _ (by decide))
      · exact ((slots _).trans (fctr_calm _ 1 1)).trans (occAt_calm _ _ _ _ _ _ (by decide))
  · split
    · exact (fctr_calm s 4 1).trans (occAt_calm _ _ _ _ _ _ (by decide))
    · exact (fctr_calm s 3 1).trans (occAt_calm _ _ _ _ _ _ (by decide))

/-- After F0 has counted, the lookup slots leave the counters. -/
theorem slotTick_calm (h : pdOn s 76 = true) : Calm (fctr 0 1 s) (slotTick s) := by
  rw [slotTick, if_pos h]
  exact .foldl pipeTick_calm [0, 1, 2, 3] _

/-- After event SCLK has occurred, no other does so. -/
theorem levelTick_calm : Calm (occU 0x01 1 s) (levelTick s) :=
  ((((occU_calm _ 0x2B _).trans (occU_calm _ 0x2C _)).trans (occU_calm _ 0x2D _)).trans (occU_calm _ 0x42 _)).trans (occU_calm _ 0x94 _)

theorem ovfSample_calm (x : Nat × Option (Subj × Nat)) : Calm s (ovfSample s x) := by
  unfold ovfSample
  dsimp only
  refine .ite (ctr_calm s _ rfl) (.ite ?_ (.refl _))
  split
  · exact ctr_calm s _ rfl
  · exact .refl _

theorem ovfTick_calm : Calm s (ovfTick s) := by
  have f := Calm.foldl ovfSample_calm s.ctr.ovl s
  unfold ovfTick
  dsimp only
  refine .ite f (Calm.trans ?_ (trigger_only ..).calm)
  exact (f.trans (raise_calm ..)).trans (notice_calm ..)

theorem segTick_calm : Calm s (segTick s) := .foldl (fun s n => .ite (ctr_calm s { s.ctr with snew := s.ctr.snew ++ [(n, 0, some (segRec s n))] } rfl) (.refl _)) _ _

theorem sampPush_calm (r : Rec) : Calm s (sampPush r s) := .ite (.refl _) (.ite (ctr_calm s _ rfl) (ctr_calm s _ rfl))

theorem sampTick_calm : Calm s (sampTick s) := .ite (.refl _) (.foldl (fun s _ => sampPush_calm s _) _ _)

theorem ownSend_calm (op a n : Nat) (b : List (BitVec 512)) (e : List (BitVec 64)) (k : OwnKind) : Calm s (ownSend op a n b e k s) := by
  unfold ownSend
  exact (emit_calm ..).after (srvOnly _ s).calm

theorem dumpPump_calm (n : Nat) : Calm s (dumpPump n s) := by
  induction n generalizing s with
  | zero => exact .refl _
  | succ n ih =>
    unfold dumpPump
    split
    · exact .refl _
    · exact .ite (.refl _) ((ih _).after ((ownSend_calm ..).after (ctr_calm s _ rfl)))

theorem mbxDone_calm (t c : Nat) (r : List Nat) : Calm s (mbxDone t c r s) := (mbxSet_only ..).calm.trans (raiseMbx_calm ..)

theorem mbxOut_calm (t : Nat) (w r : List Nat) : Calm s (mbxOut t w r s) := by
  have fill : ∀ u, Calm u (mbxFill t u) := fun u => (show OnlyChanges [.mbx] u (mbxFill t u) from mbxSet_only ..).calm
  have out : ∀ u, Calm u (mbxOutTry t u) := fun u => .ite (.refl _) (.ite ((fill _).trans (mbxDone_calm ..)) (fill _))
  exact (out _).after (mbxSet_only ..).calm

theorem regAnswer_calm (r : RegReq) (l : List Nat) : Calm s (regAnswer r l s) := (occP_calm s _ 0x16 _ _).trans (respond_calm ..)

theorem capDo_calm (c : CapReq) : Calm s (capDo c s) := by
  cases c with
  | read t => exact .ite (mbxOut_calm ..) (.refl _)
  | dump => exact (dumpPump_calm _ 8).after (ctr_calm s _ rfl)
  | win r => exact regAnswer_calm ..

theorem capTick_calm : Calm s (capTick s) := (ctr_calm s { s.ctr with caps := [] } rfl).trans (.foldl (fun s c => capDo_calm s c) s.ctr.caps _)

/-- The end of an SCLK for the counters, from their occurrences on. -/
theorem ctrTick_easy : Easy s (ctrTick s) := by
  have a := ((slotTick_only s).trans (levelTick_only (slotTick s))).trans (settle_only (levelTick (slotTick s)))
  have b := (ovfTick_calm (settle (levelTick (slotTick s)))).trans (segTick_calm _)
  have c := b.trans (sampTick_calm (segTick (ovfTick (settle (levelTick (slotTick s))))))
  have d := c.trans (capTick_calm (sampTick (segTick (ovfTick (settle (levelTick (slotTick s)))))))
  exact (a.easy.trans d.toEasy).trans (resetTick_only (capTick (sampTick (segTick (ovfTick (settle (levelTick (slotTick s)))))))).easy

/-! ### Trace buffers, the next SCLK's start -/

theorem bufSettle_calm (b : Nat) : Calm s (bufSettle b s) := .ite (peatOnly ..).calm (.refl _)

theorem bufStop_calm (b : Nat) : Calm s (bufStop b s) := by
  unfold bufStop
  refine .ite (.refl _) (Calm.trans ?_ (bufSettle_calm ..))
  exact .ite (((peatOnly ..).calm.trans (notice_calm ..)).trans (raise_calm ..)) (peatOnly ..).calm

theorem bufPut_calm (b ty : Nat) (body : BitVec 152) : Calm s (bufPut b ty body s) :=
  .ite ((peatOnly ..).calm.trans (bufStop_calm ..)) (peatOnly ..).calm

theorem dropTry_calm (b : Nat) : Calm s (dropTry b s) := by
  unfold dropTry
  dsimp only
  split
  · exact .refl _
  · exact .ite ((peatOnly ..).calm.trans (bufPut_calm ..)) (.refl _)

theorem bufOffer_calm (b ty : Nat) (body : BitVec 152) : Calm s (bufOffer b ty body s) := by
  have d := dropTry_calm s b
  unfold bufOffer
  exact .ite d (.ite d (.ite (d.trans (bufPut_calm ..)) (d.trans (peatOnly ..).calm)))

theorem bufTrigger_calm (b src win : Nat) : Calm s (bufTrigger b src win s) := by
  have h : Calm s (if tcHalttrig (tcE s.t b) then { s with srv := { s.srv with halt := true } } else s) := .ite (srvOnly ..).calm (.refl _)
  unfold bufTrigger
  refine .ite (.refl _) (.ite ?_ (h.trans (bufOffer_calm ..)))
  exact ((h.trans (dropTry_calm ..)).trans (peatOnly ..).calm).trans (bufOffer_calm ..)

theorem bufScan_calm (b : Nat) : Calm s (bufScan b s) := by
  unfold bufScan
  dsimp only
  have f := (dropTry_calm s b).trans (Calm.foldl (f := fun t v => if tevPasses (tcE s.t b) v then bufOffer b v.type.toNat v.body t else t)
    (fun _ _ => .ite (bufOffer_calm ..) (.refl _)) (tevOrder (dropTry b s)) (dropTry b s))
  split
  · exact f.trans (bufTrigger_calm ..)
  · exact f

theorem peatEnd_calm : Calm s (peatEnd s) := by
  have scan : Calm s (if pdOn s 75 then (List.range 4).foldl (fun s b => if (bufGet s b).st == 0 then s else bufScan b s) s else s) :=
    .ite (.foldl (f := fun s b => if (bufGet s b).st == 0 then s else bufScan b s) (fun _ _ => .ite (.refl _) (bufScan_calm ..)) _ _) (.refl _)
  exact .ite (.refl _) (scan.trans (peatOnly ..).calm)

theorem timeTick_calm : Calm s (timeTick s) := ⟨⟨List.Subset.refl _, rfl, rfl, rfl⟩, rfl⟩

theorem tableTick_calm : Calm s (tableTick s) := by
  unfold tableTick
  exact .ite (.refl _) (.foldl (fun _ _ => ctlUse_calm ..) _ _)

end

end Sys2Proof.Machine
end

section
/-! SUPPORT. One SCLK: time, the temperature reports and what follows (O2: R14, R26, R238, R240). -/

namespace Sys2Proof.Machine

-- One declaration after the other: the threads of declarations that wait for one another exhaust the memory that a compile may take.
set_option Elab.async false

/-! ### The pieces of a tick -/

section
variable {s t u : State}

theorem step_empty (h : s.pending = []) : step s = .next (tick s) := by rw [step, h]

/-- What a message that leaves on S may change. -/
theorem sTick_only (s : State) : OnlyChanges [.pins, .sout, .home, .mace, .ctr, .d0, .d1] s (sTick s) := by
  have pinned : ∀ (l : List Out) (m : Option Msg), OnlyChanges [.pins, .sout] s { s with sout := l, pins := { s.pins with ohS := m } } := fun l m =>
    ⟨fun q hq => by cases q <;> first | rfl | exact absurd (by simp) hq⟩
  unfold sTick
  split
  · next e => exact ⟨fun q hq => by cases q <;> first | rfl | exact absurd (by simp) hq⟩
  · next o rest _ =>
    obtain ⟨t, before, after⟩ := outLeft_parts .s o { s with sout := rest, pins := { s.pins with ohS := some (asSent s o) } }
    exact ((((pinned rest _).le [.pins, .sout, .home, .mace, .ctr, .d0, .d1]).then before).trans ((hteLeft_onward o.msg t).frame.mono (by decide))).then after

theorem tallyTick_only (s : State) : OnlyChanges waitParts s (tallyTick s) := by
  have r := (reportAll_only s).trans (releaseAll_only 256 (reportAll s))
  unfold tallyTick
  generalize releaseAll 256 (reportAll s) = t at r ⊢
  refine r.trans (OnlyChanges.mono (l := [.tal, .fen]) ⟨fun q hq => ?_⟩ (by decide))
  cases q <;> first | rfl | exact absurd (by simp) hq

/-- What the counters and their captures may change at the end of an SCLK. -/
def countParts : List Part := [.ctr, .log, .ints, .d0, .d1, .peat, .mbx, .srv]

theorem ctrTick_only (s : State) : OnlyChanges countParts s (ctrTick s) := by
  have a := ((slotTick_only s).trans (levelTick_only (slotTick s))).trans (settle_only (levelTick (slotTick s)))
  have b := (a.le countParts).then (ovfTick_only (settle (levelTick (slotTick s))))
  have c := (b.then (segTick_only (ovfTick (settle (levelTick (slotTick s)))))).then (sampTick_only _)
  exact (c.trans ((capTick_only _).mono (by decide))).then (resetTick_only _)

theorem peatEnd_only (s : State) : OnlyChanges bufParts s (peatEnd s) := by
  have scan : OnlyChanges bufParts s
      (if pdOn s 75 then (List.range 4).foldl (fun s b => if (bufGet s b).st == 0 then s else bufScan b s) s else s) :=
    .ite (foldl_only (f := fun s b => if (bufGet s b).st == 0 then s else bufScan b s) (fun _ _ => .ite (.refl _ _) (bufScan_only ..)) _ _) (.refl _ _)
  exact .ite (.refl _ _) (scan.trans ((peatOnly ..).le _))

/-- The end of an SCLK from the tallies on. -/
def endRest (s : State) : State := portTick (peatEnd (ctrTick (tallyTick s)))

/-- What it may change. -/
def restParts : List Part := [.fen, .tal, .bad, .pins, .log, .ints, .d0, .d1, .sout, .ctr, .peat, .mbx, .srv]

theorem endRest_only (s : State) : OnlyChanges restParts s (endRest s) :=
  ((((tallyTick_only s).mono (by decide)).trans ((ctrTick_only (tallyTick s)).mono (by decide))).trans ((peatEnd_only _).mono (by decide))).trans
    ((portTick_only _).mono (by decide))

/-- What the start of an SCLK with a generation may change. -/
def commitParts : List Part := [.gen, .arr, .srv, .regul, .ctr, .peat, .log, .ints, .d0]

theorem commitTick_only (s : State) : OnlyChanges commitParts s (commitTick s) := by
  unfold commitTick
  split
  · next a _ =>
    refine .ite ?_ (.refl _ s)
    unfold genInstant
    split
    · exact (genEnd_only ..).le _
    · exact (genApply_applied a s).frame.mono (by decide)
  · exact .refl _ s

theorem tableTick_only (s : State) : OnlyChanges [.bad, .pins, .log, .ints, .d0] s (tableTick s) := by
  unfold tableTick
  exact .ite (.refl _ s) (foldl_only (fun _ _ => ctlUse_only ..) _ _)

theorem wantOffs_only (s : State) : OnlyChanges [.pw] s (wantOffs s) :=
  foldl_only (f := fun s n => if pdState s n != .off && !moving s n && offNeeded s n then want n .off s else s)
    (fun _ _ => .ite (want_only ..) (.refl _ _)) _ _

theorem pmRequest_only (s : State) : OnlyChanges [.pw, .pins, .life] s (pmRequest s) := by
  unfold pmRequest
  split <;> exact ⟨fun q hq => by cases q <;> first | rfl | exact absurd (by simp) hq⟩

theorem pmTick_only (s : State) : OnlyChanges [.pw, .pins, .life] s (pmTick s) := by
  refine .ite (.refl _ s) (.ite ⟨fun q hq => ?_⟩ (((wantOffs_only s).mono (by decide)).trans (pmRequest_only _)))
  cases q <;> first | rfl | exact absurd (by simp) hq

theorem presentTry_only (s : State) : OnlyChanges riseParts s (presentTry s) := (presentTry_keeps s).2.2.2

/-! ### Time (R26) -/

/-- The SCLK's number and the values of FT. -/
def timeOf (c : Clock) : Nat × FT × Bool × FT := (c.sclk, c.ft, c.ftv, c.bus)

theorem OnlyChanges.time {l : List Part} (h : OnlyChanges l s u) (k : .clk ∉ l := by decide) : timeOf u.clk = timeOf s.clk := congrArg timeOf (h.clk k)

theorem presentRise_time (s : State) : timeOf (presentRise s).clk = timeOf s.clk := by
  have live : timeOf (liveSend 0 (risen s)).clk = timeOf s.clk := (liveSend_only 0 (risen s)).time
  have intr : timeOf (riseIntr (liveSend 0 (risen s))).clk = timeOf s.clk := by
    unfold riseIntr
    split
    · exact (sendIntr_only _).time.trans live
    · exact live
  have first : ∀ v, timeOf (ftFirst v).clk = timeOf v.clk := fun v => (winRestart_only _).time
  rw [presentRise_eq]
  split
  · exact (first _).trans intr
  · exact intr

theorem presentTry_time (s : State) : timeOf (presentTry s).clk = timeOf s.clk := by
  unfold presentTry
  split
  · exact presentRise_time s
  · rfl

theorem tick_time (s : State) : timeOf (tick s).clk = timeOf (clockTick s.clk) := by
  by_cases h : s.pins.porstN = true
  · rw [tick_eq h]
    have same : (endOf s).clk = s.clk := (endOf_ends s).frame.clk
    calc _ = _ := presentTry_time _
      _ = _ := (pmTick_only _).time
      _ = _ := (tableTick_only _).time
      _ = _ := (commitTick_only _).time
      _ = timeOf (clockTick s.clk) := by rw [← same]; rfl
  · rw [tick, Bool.eq_false_iff.mpr h]
    rfl

theorem clockTick_ftv (c : Clock) : (clockTick c).ftv = c.ftv := by unfold clockTick; split <;> rfl

theorem clockTick_held {c : Clock} (h : c.ftv = false) : (clockTick c).ft = c.ft := by rw [clockTick, h]; rfl

/-- The datapath FT value follows the bus to within 2 ticks, while neither wraps. -/
theorem clockTick_follows {c : Clock} (v : c.ftv = true) (room : c.bus.toNat + 4 < 2 ^ 64) (h1 : c.ft.toNat ≤ c.bus.toNat + 2)
    (h2 : c.bus.toNat ≤ c.ft.toNat + 2) : c.ft ≤ (clockTick c).ft ∧ (clockTick c).ft.toNat ≤ c.ft.toNat + 2 ∧
      (clockTick c).ft.toNat ≤ (clockTick c).bus.toNat + 2 ∧ (clockTick c).bus.toNat ≤ (clockTick c).ft.toNat + 2 := by
  have fs := (Config.ftStep c.sclk).isLt
  have bs := (Config.busStep c.sclk).isLt
  rw [clockTick, if_pos v]
  dsimp only
  generalize (Config.ftStep c.sclk).val = f at fs ⊢
  generalize (Config.busStep c.sclk).val = b at bs ⊢
  generalize hn : min 2 (min (max f (c.bus.toNat + b - 2 - c.ft.toNat)) (c.bus.toNat + b + 2 - c.ft.toNat)) = n
  have ft : (c.ft + BitVec.ofNat 64 n).toNat = c.ft.toNat + n := by
    rw [BitVec.toNat_add, BitVec.toNat_ofNat, Nat.mod_eq_of_lt (show n < 2 ^ 64 by omega), Nat.mod_eq_of_lt (by omega)]
  have bus : (BitVec.ofNat 64 (c.bus.toNat + b)).toNat = c.bus.toNat + b := by rw [BitVec.toNat_ofNat, Nat.mod_eq_of_lt (by omega)]
  rw [BitVec.le_def, ft, bus]
  omega

/-- What one SCLK may change. -/
def tickParts : List Part := [.clk, .pins, .life, .pw, .gen, .arr, .d0, .d1, .sout, .fen, .tal, .home, .regul, .mace, .ctr, .peat, .mbx, .ints, .log, .srv, .bad]

theorem tick_only (s : State) : OnlyChanges tickParts s (tick s) := by
  by_cases h : s.pins.porstN = true
  · rw [tick_eq h]
    have e := (endOf_ends s).frame.mono (m := tickParts) (by decide)
    have a := (e.trans ((timeTick_only _).mono (by decide))).trans ((commitTick_only _).mono (by decide))
    exact ((a.trans ((tableTick_only _).mono (by decide))).trans ((pmTick_only _).mono (by decide))).trans ((presentTry_only _).mono (by decide))
  · rw [tick, Bool.eq_false_iff.mpr h]
    exact (timeTick_only s).mono (by decide)

theorem tickTime : TickTime := by
  intro s empty
  have time := tick_time s
  have ft : (tick s).clk.ft = (clockTick s.clk).ft := congrArg (fun x => x.2.1) time
  have bus : (tick s).clk.bus = (clockTick s.clk).bus := congrArg (fun x => x.2.2.2) time
  refine ⟨tick s, step_empty empty, ((tick_only s).same .pending (by decide)).trans empty, (congrArg Prod.fst time).trans (clockTick_sclk _),
    (congrArg (fun x => x.2.2.1) time).trans (clockTick_ftv _), fun held => ft.trans (clockTick_held held), fun v room h1 h2 => ?_, tick_only s⟩
  rw [ft, bus]
  exact clockTick_follows v room h1 h2

end

/-! ### Temperature reports (R14, R238, R240) -/

section
variable {s t u : State}

/-- The derate levels, and the reports that wait. -/
def reportsOf (x : RegulSt) : Store (BitVec 3) × List (DPort × Msg) := (x.levels, x.rpts)

theorem OnlyChanges.reports {l : List Part} (h : OnlyChanges l s u) (k : .regul ∉ l := by decide) : reportsOf u.regul = reportsOf s.regul :=
  congrArg reportsOf (h.same .regul k)

/-- Windows are no part of the reports. -/
theorem winSets_reports {α : Type} {f : State → α → State} (h : ∀ s a, reportsOf (f s a).regul = reportsOf s.regul) (l : List α) (s : State) :
    reportsOf (l.foldl f s).regul = reportsOf s.regul := by
  induction l generalizing s with
  | nil => rfl
  | cons a l ih => exact (ih _).trans (h s a)

theorem winSet_reports (c : Nat) (w : Win) (s : State) : reportsOf (winSet c w s).regul = reportsOf s.regul := rfl

theorem winNote_reports (s : State) : reportsOf (winNote s).regul = reportsOf s.regul := winSets_reports (fun _ _ => winSet_reports ..) _ s

theorem winRestart_reports (s : State) : reportsOf (winRestart s).regul = reportsOf s.regul :=
  winSets_reports (f := fun s c => winStart c s.clk.ft s) (fun _ _ => winSet_reports ..) (List.range 16) { s with regul := { s.regul with on := true } }

theorem winEnd_reports (c : Nat) (s : State) : reportsOf (winEnd c s).regul = reportsOf s.regul := by
  unfold winEnd
  dsimp only
  show reportsOf (State.regul (ite _ _ _)) = _
  split
  · exact (trigger_only ..).reports.trans ((traceEv_only ..).reports.trans ((notice_only ..).reports.trans (occ_only ..).reports))
  · rfl

theorem applyClass_reports (old : Tables) (s : State) : reportsOf (applyClass old s).regul = reportsOf s.regul := by
  unfold applyClass
  split
  · exact winRestart_reports s
  · split
    · exact winNote_reports s
    · rfl

theorem applyPeat_only (old : Tables) (s : State) : OnlyChanges [.peat] s (applyPeat old s) :=
  (foldl_only (f := fun s b => if entDiff old s.t Tid.trace b then bufStart b s else s) (fun _ _ => .ite (bufStart_only ..) (.refl _ _)) (List.range 4) s).trans
    (foldl_only (f := fun s w => if entDiff old s.t Tid.watch w then watStart w s else s) (fun _ _ => .ite (watStart_only ..) (.refl _ _)) (List.range 16) _)

theorem genApply_reports (a : Armed) (s : State) : reportsOf (genApply a s).regul = reportsOf s.regul := by
  unfold genApply
  dsimp only
  have ends : reportsOf ((List.range 16).foldl (fun s c => if winDue s c then winEnd c s else s) s).regul = reportsOf s.regul :=
    winSets_reports (fun s c => by split; exacts [winEnd_reports c s, rfl]) _ s
  generalize (List.range 16).foldl (fun s c => if winDue s c then winEnd c s else s) s = t at ends ⊢
  let v : State := { t with gen := { t.gen with live := a.cand, shadow := a.cand, gen := a.gen }, srv := { t.srv with allocOff := false } }
  have hash : reportsOf (applyHash t.t v).regul = reportsOf s.regul := (applyHash_only ..).reports.trans ends
  have class_ := (applyClass_reports t.t _).trans ((applyPart_only t.t (applyHash t.t v)).reports.trans hash)
  have peat := (applyPeat_only t.t _).reports.trans ((applyCtr_only t.t _).reports.trans class_)
  exact (genEnd_only 0 noRefusal _).reports.trans peat

theorem commitTick_reports (s : State) : reportsOf (commitTick s).regul = reportsOf s.regul := by
  unfold commitTick
  split
  · split
    · unfold genInstant
      split
      · exact (genEnd_only ..).reports
      · exact genApply_reports ..
    · rfl
  · rfl

theorem presentTry_reports (s : State) : reportsOf (presentTry s).regul = reportsOf s.regul := by
  have live : reportsOf (liveSend 0 (risen s)).regul = reportsOf s.regul := (liveSend_only 0 (risen s)).reports
  have intr : reportsOf (riseIntr (liveSend 0 (risen s))).regul = reportsOf s.regul := by
    unfold riseIntr
    split
    · exact (sendIntr_only _).reports.trans live
    · exact live
  unfold presentTry
  split
  · rw [presentRise_eq]
    split
    · exact (winRestart_reports _).trans intr
    · exact intr
  · rfl

/-- The level that a report gives its stack. -/
def reportLevel (a : Store (BitVec 3)) (m : Msg) : Store (BitVec 3) := sset (fun _ => 0) a (fld (hResult m) 0 6) (BitVec.ofNat 3 (fld (hResult m) 16 3))

/-- The state with the level set. -/
def levelled (m : Msg) (s : State) : State := { s with regul := { s.regul with levels := reportLevel s.regul.levels m } }

/-- The event of a level that changes, with the memory rate that follows (R240). -/
def derateRec (m : Msg) (s : State) : Rec :=
  pack 256 [(192, 64, ftN s), (184, 8, fld (hResult m) 8 8), (181, 3, fld (hResult m) 16 3), (178, 3, levelOf s (fld (hResult m) 0 6)),
    (172, 6, fld (hResult m) 0 6), (159, 13, meff16 (levelled m s))]

theorem meff16_congr (g : u.gen = s.gen) (l : u.regul.levels = s.regul.levels) : meff16 u = meff16 s := by
  have t : u.t = s.t := congrArg GenSt.live g
  have level : levelOf u = levelOf s := by
    funext k
    rw [levelOf, levelOf, l]
  rw [meff16, meff16, fracSum, fracSum, counted, counted, t, level]

/-- A report that changes a level: the level, the windows' note, the event, and what may follow it. -/
theorem tempReport_event (m : Msg) (o : Nat) (h : levelOf s (fld (hResult m) 0 6) ≠ fld (hResult m) 16 3) :
    ∃ v b, tempReport m o s = trigger 4 0 b (traceEv v (notice (.event 3 (pack 256 [(192, 64, ftN (winNote (levelled m s))),
      (184, 8, fld (hResult m) 8 8), (181, 3, fld (hResult m) 16 3), (178, 3, levelOf s (fld (hResult m) 0 6)), (172, 6, fld (hResult m) 0 6),
      (159, 13, meff16 (winNote (levelled m s)))])) (occU 0x43 1 (winNote (levelled m s))))) := by
  unfold tempReport
  exact ⟨_, _, if_neg (Ne.symm h)⟩

theorem winNote_ftN (s : State) : ftN (winNote s) = ftN s := by rw [ftN, ftN, (winNote_only s).clk]

theorem winNote_meff16 (s : State) : meff16 (winNote s) = meff16 s := meff16_congr (winNote_only s).gen (congrArg Prod.fst (winNote_reports s))

theorem tempReport_changed (m : Msg) (o : Nat) (h : levelOf s (fld (hResult m) 0 6) ≠ fld (hResult m) 16 3) :
    OnlyChanges [.peat] (notice (.event 3 (derateRec m s)) (occU 0x43 1 (winNote (levelled m s)))) (tempReport m o s) := by
  obtain ⟨v, b, event⟩ := tempReport_event m o h
  rw [winNote_ftN, winNote_meff16] at event
  rw [event]
  exact (traceEv_only v _).trans (trigger_only 4 0 b _)

/-- A report sets its level, and leaves the reports that wait. -/
theorem tempReport_reports (m : Msg) (o : Nat) : reportsOf (tempReport m o s).regul = (reportLevel s.regul.levels m, s.regul.rpts) := by
  by_cases h : levelOf s (fld (hResult m) 0 6) = fld (hResult m) 16 3
  · unfold tempReport
    dsimp only
    rw [if_pos h.symm]
    rfl
  · calc _ = _ := (tempReport_changed m o h).reports
      _ = _ := (notice_only ..).reports
      _ = _ := (occU_only ..).reports
      _ = _ := winNote_reports _
      _ = _ := rfl

theorem tempReports_reports (l : List (DPort × Msg)) (s : State) :
    reportsOf (l.foldl (fun s x => tempReport x.2 (portOrd (dport x.1)) s) s).regul = (l.foldl (fun a x => reportLevel a x.2) s.regul.levels, s.regul.rpts) := by
  induction l generalizing s with
  | nil => rfl
  | cons x l ih =>
    have one := tempReport_reports (s := s) x.2 (portOrd (dport x.1))
    have levels : (tempReport x.2 (portOrd (dport x.1)) s).regul.levels = reportLevel s.regul.levels x.2 := congrArg Prod.fst one
    have rpts : (tempReport x.2 (portOrd (dport x.1)) s).regul.rpts = s.regul.rpts := congrArg Prod.snd one
    rw [List.foldl_cons, ih, List.foldl_cons, levels, rpts]

theorem rptTick_reports (s : State) : reportsOf (rptTick s).regul = (reported s, []) := tempReports_reports _ _

/-- The reports of an SCLK stand as it ends. -/
theorem tick_reports (h : s.pins.porstN = true) : reportsOf (tick s).regul = (reported s, []) := by
  rw [tick_eq h]
  have same : (sTick s).regul = s.regul := (sTick_only s).same .regul (by decide)
  calc _ = _ := presentTry_reports _
    _ = _ := (pmTick_only _).reports
    _ = _ := (tableTick_only _).reports
    _ = _ := commitTick_reports _
    _ = _ := (timeTick_only _).reports
    _ = _ := (endRest_only (rptTick (sTick s))).reports
    _ = _ := rptTick_reports _
    _ = _ := by rw [reported, same, ← reported]

/-! ### The notice of a level that changes -/

theorem endRest_easy (s : State) : Easy (tallyTick s) (peatEnd (ctrTick (tallyTick s))) := (ctrTick_easy _).trans (peatEnd_calm _).toEasy

theorem OnlyChanges.notices {l : List Part} (h : OnlyChanges l s u) (k : .log ∉ l := by decide) : s.log.notices ⊆ u.log.notices := by
  have same : u.log = s.log := h.same .log k
  rw [same]
  exact List.Subset.refl _

theorem winEnd_calm (c : Nat) (s : State) : Calm s (winEnd c s) := by
  unfold winEnd
  dsimp only
  refine Calm.after (winStart_only ..).calm ?_
  refine .ite ?_ (.refl _)
  refine Calm.trans ?_ (trigger_only ..).calm
  refine Calm.trans ?_ (traceEv_only ..).calm
  exact (notice_calm ..).after (occ_calm s 0xA1 _ _ _)

theorem genApply_notices (a : Armed) (s : State) : s.log.notices ⊆ (genApply a s).log.notices := by
  have ends : Calm s ((List.range 16).foldl (fun s c => if winDue s c then winEnd c s else s) s) :=
    .foldl (f := fun s c => if winDue s c then winEnd c s else s) (fun s c => .ite (winEnd_calm c s) (.refl s)) (List.range 16) s
  unfold genApply
  dsimp only
  generalize (List.range 16).foldl (fun s c => if winDue s c then winEnd c s else s) s = t at ends ⊢
  let v : State := { t with gen := { t.gen with live := a.cand, shadow := a.cand, gen := a.gen }, srv := { t.srv with allocOff := false } }
  have pieces : Applies v (applyPeat t.t (applyCtr t.t (applyClass t.t (applyPart t.t (applyHash t.t v))))) :=
    (((applyHash_applies t.t v).trans (applyPart_applies t.t _)).trans (applyClass_applies t.t _)).trans
      ((applyCtr_applies t.t _).trans (applyPeat_applies t.t _))
  exact List.Subset.trans ends.notices (List.Subset.trans pieces.frame.notices (genEnd_only 0 noRefusal _).notices)

theorem commitTick_notices (s : State) : s.log.notices ⊆ (commitTick s).log.notices := by
  unfold commitTick
  split
  · split
    · unfold genInstant
      split
      · exact (genEnd_only ..).notices
      · exact genApply_notices ..
    · exact List.Subset.refl _
  · exact List.Subset.refl _

/-- A notice that an SCLK's reports have left stays in the SCLK after. -/
theorem tick_notices (h : s.pins.porstN = true) : (rptTick (sTick s)).log.notices ⊆ (tick s).log.notices := by
  rw [tick_eq h]
  let e := peatEnd (ctrTick (tallyTick (rptTick (sTick s))))
  have a : (rptTick (sTick s)).log.notices ⊆ e.log.notices := ((tallyTick_calm _).toEasy.trans (endRest_easy _)).notices
  have b : e.log.notices ⊆ (timeTick (endOf s)).log.notices := (portTick_only e).notices
  have c := List.Subset.trans (commitTick_notices (timeTick (endOf s))) (tableTick_calm _).notices
  have d := List.Subset.trans c (List.Subset.trans (pmTick_only _).notices (presentTry_only _).notices)
  exact List.Subset.trans a (List.Subset.trans b d)

/-- A single report of another level leaves its event, while the notices have room. -/
theorem rptTick_event {p : DPort} {m : Msg} (one : s.regul.rpts = [(p, m)]) (h : levelOf s (fld (hResult m) 0 6) ≠ fld (hResult m) 16 3)
    (room : s.log.notices.length < 64) : .event 3 (derateRec m s) ∈ (rptTick s).log.notices := by
  let v : State := { s with regul := { s.regul with rpts := [] } }
  have run : rptTick s = tempReport m (portOrd (dport p)) v := by
    rw [rptTick, one]
    cases p <;> rfl
  have noted : (occU 0x43 1 (winNote (levelled m v))).log = s.log :=
    ((occU_only ..).same .log (by decide)).trans ((winNote_only (levelled m v)).same .log (by decide))
  have after := (tempReport_changed (s := v) m (portOrd (dport p)) h).notices
  rw [run]
  refine after ?_
  rw [notice_room _ _ (by rw [noted]; exact room)]
  exact List.mem_append_right _ (List.mem_singleton_self _)

theorem reportsApplied : ReportsApplied := by
  refine fun s empty porst => ⟨⟨tick s, step_empty empty, congrArg Prod.fst (tick_reports porst), congrArg Prod.snd (tick_reports porst)⟩,
    fun p m one h room => ⟨tick s, step_empty empty, ?_⟩⟩
  have left := sTick_only s
  have regul : (sTick s).regul = s.regul := left.same .regul (by decide)
  have log : (sTick s).log = s.log := left.same .log (by decide)
  have level : levelOf (sTick s) (fld (hResult m) 0 6) = levelOf s (fld (hResult m) 0 6) := by rw [levelOf, levelOf, regul]
  have event := rptTick_event (s := sTick s) (regul ▸ one) (level ▸ h) (log ▸ room)
  have levels : reportLevel s.regul.levels m = reported s := by
    rw [reported, one]
    cases p <;> rfl
  have meff : meff16 (levelled m (sTick s)) = meff16 { s with regul := { s.regul with levels := reported s } } := by
    refine meff16_congr left.gen ?_
    rw [← levels, ← regul]
    rfl
  rw [derateRec, level, meff, ftN, left.clk] at event
  exact tick_notices porst event

end

end Sys2Proof.Machine
end

section
/-! SUPPORT. One SCLK: waits, counts and credits (O2: R208, R210, R227, R287, R292, R331, R332). -/

namespace Sys2Proof.Machine

-- One declaration after the other: the threads of declarations that wait for one another exhaust the memory that a compile may take.
set_option Elab.async false

/-! ### Waits (R208, R210, R211) -/

section
variable {s t : State}

theorem rptTick_only (s : State) : OnlyChanges [.regul, .ctr, .log, .ints, .d0, .peat] s (rptTick s) :=
  ((regulOnly { s.regul with rpts := [] } s).le _).trans (foldl_only (fun _ _ => tempReport_only ..) _ _)

theorem tick_tal (h : s.pins.porstN = true) : (tick s).tal = (tallyTick (rptTick (sTick s))).tal := by
  rw [tick_eq h]
  have counts : (ctrTick (tallyTick (rptTick (sTick s)))).tal = (tallyTick (rptTick (sTick s))).tal := (ctrTick_only _).tal
  calc _ = _ := (presentTry_only _).tal
    _ = _ := (pmTick_only _).tal
    _ = _ := (tableTick_only _).tal
    _ = _ := (commitTick_only _).tal
    _ = _ := (timeTick_only _).tal
    _ = _ := (portTick_only _).tal
    _ = _ := (peatEnd_only _).tal
    _ = _ := counts

theorem twaitDeadlineAt_still (none : ∀ w ∈ s.tal.parked, w.due = none) (k : Nat) : twaitDeadlineAt k s = s := by
  unfold twaitDeadlineAt
  split
  · rfl
  · next w at_ => rw [none w (List.mem_of_getElem? at_)]

theorem resolveDeadlineAt_kept (i : Nat) (s : State) : OnlyChanges [.fen, .ctr, .log, .ints, .d0, .peat] s (resolveDeadlineAt i s) := by
  unfold resolveDeadlineAt
  split
  · exact .refl _ _
  · split
    · exact .refl _ _
    · split
      · exact .refl _ _
      · exact ((((regionMod_only ..).le _).then (occU_only ..)).then (notice_only ..)).then (traceEv_only ..)

theorem reportAll_kept (none : ∀ w ∈ s.tal.parked, w.due = none) : OnlyChanges [.fen, .ctr, .log, .ints, .d0, .peat] s (reportAll s) := by
  have idle : ∀ l : List Nat, l.foldl (fun s k => twaitDeadlineAt k s) s = s := fun l => by
    induction l with
    | nil => rfl
    | cons k l ih => rw [List.foldl_cons, twaitDeadlineAt_still none, ih]
  rw [reportAll, idle]
  exact foldl_only (f := fun s i => resolveDeadlineAt i s) (fun s i => resolveDeadlineAt_kept i s) _ _

theorem releaseAll_idle (waits : ∀ w ∈ s.tal.parked, w.by_ = none) (n : Nat) : releaseAll n s = s := by
  have no : s.tal.parked.findIdx? (releasable s) = none :=
    List.findIdx?_eq_none_iff.mpr fun w hw => by rw [releasable, waits w hw]; rfl
  cases n with
  | zero => rfl
  | succ n => rw [releaseAll, no]

/-- The waits after an SCLK's look at them. -/
def looked (s : State) (x : TallySt) : TallySt := { x with parked := x.parked.map (waitEnd s), adds := [] }

/-- The look at the waits and the resolves as an SCLK ends. -/
def waitsEnd (t : State) : State :=
  { t with tal := { t.tal with parked := t.tal.parked.map (waitEnd t), adds := [] },
           fen := { t.fen with regions := t.fen.regions.map fun r => { r with res := r.res.map (resolveWaitEnd t r) } } }

theorem waitsEnd_tal (t : State) : (waitsEnd t).tal = looked t t.tal := rfl

theorem tallyTick_eq (s : State) : tallyTick s = waitsEnd (releaseAll 256 (reportAll s)) := by
  unfold tallyTick
  rfl

/-- The clock, the tallies and the straps decide what a wait's look finds. -/
theorem waitEnd_congr (clk : t.clk = s.clk) (tal : t.tal = s.tal) (straps : lanes t.pins = lanes s.pins) : waitEnd t = waitEnd s := by
  have sreqid : t.pins.sreqid = s.pins.sreqid := congrArg (fun x => x.2.1) straps
  have chip : t.pins.chipId = s.pins.chipId := congrArg (fun x => x.2.2) straps
  funext w
  unfold waitEnd
  rw [tallyVal, tallyVal, tal, clk, sreqid, chip]

/-- With nothing to report and nothing to release, the end of the SCLK looks at the waits alone. -/
theorem tallyTick_tal (still : ∀ w ∈ s.tal.parked, w.by_ = none ∧ w.due = none) : (tallyTick s).tal = looked s s.tal := by
  have kept := reportAll_kept fun w hw => (still w hw).2
  have idle : releaseAll 256 (reportAll s) = reportAll s := releaseAll_idle (fun w hw => (still w ((congrArg (fun x : TallySt => w ∈ x.parked) kept.tal).mp hw)).1) 256
  have same : waitEnd (reportAll s) = waitEnd s := waitEnd_congr kept.clk kept.tal (congrArg lanes kept.pins)
  calc (tallyTick s).tal = (waitsEnd (releaseAll 256 (reportAll s))).tal := congrArg State.tal (tallyTick_eq s)
    _ = (waitsEnd (reportAll s)).tal := congrArg (fun t => (waitsEnd t).tal) idle
    _ = looked (reportAll s) (reportAll s).tal := waitsEnd_tal _
    _ = looked (reportAll s) s.tal := congrArg _ kept.tal
    _ = looked s s.tal := congrArg (fun f => { s.tal with parked := s.tal.parked.map f, adds := [] }) same

theorem waitEnd_passed {w : Parked} (waits : w.by_ = none) (p : passed (tallyVal s w.tally.toNat) w.thresh.toNat = true) :
    waitEnd s w = { w with by_ := some ((adderOf s.tal.adds w.tally.toNat).getD (s.pins.sreqid, s.pins.chipId)),
                           val := BitVec.ofNat 48 (tallyVal s w.tally.toNat) } := by
  rw [waitEnd, waits]
  dsimp only [Option.isSome]
  rw [if_neg Bool.false_ne_true, if_pos p]

theorem waitEnd_waits {w : Parked} (waits : w.by_ = none) (quiet : w.due = none) (p : passed (tallyVal s w.tally.toNat) w.thresh.toNat = false) :
    waitEnd s w = { w with due := if w.deadline ≠ 0 ∧ w.reported = false ∧ s.clk.ftv = true ∧ w.deadline ≤ s.clk.ft
                                  then some (s.clk.ft, BitVec.ofNat 48 (tallyVal s w.tally.toNat)) else none } := by
  unfold waitEnd
  dsimp only
  rw [waits, quiet, p]
  simp [and_assoc]

theorem waitsMarked : WaitsMarked := by
  intro s empty porst still
  let v := rptTick (sTick s)
  have tal : v.tal = s.tal := ((rptTick_only (sTick s)).tal).trans (sTick_only s).tal
  have clk : v.clk = s.clk := ((rptTick_only (sTick s)).clk).trans (sTick_only s).clk
  have look : waitEnd v = waitEnd s := waitEnd_congr clk tal ((sTick_calm s).trans (rptTick_calm _)).lanes
  have still' : ∀ w ∈ v.tal.parked, w.by_ = none ∧ w.due = none := fun w hw => still w ((congrArg (fun x : TallySt => w ∈ x.parked) tal).mp hw)
  have after : (tick s).tal = looked s s.tal := by
    calc (tick s).tal = (tallyTick v).tal := tick_tal porst
      _ = looked v v.tal := tallyTick_tal still'
      _ = looked v s.tal := congrArg _ tal
      _ = looked s s.tal := congrArg (fun f => { s.tal with parked := s.tal.parked.map f, adds := [] }) look
  have parked : (tick s).tal.parked = s.tal.parked.map (waitEnd s) := congrArg TallySt.parked after
  refine ⟨tick s, step_empty empty, (congrArg TallySt.val after :), (congrArg TallySt.adds after :), (congrArg List.length parked).trans (List.length_map ..),
    fun i w x hw hx => ?_⟩
  obtain ⟨waits, quiet⟩ := still w (List.mem_of_getElem? hw)
  have x_eq : x = waitEnd s w := by
    have found : some x = (s.tal.parked.map (waitEnd s))[i]? := hx.symm.trans (congrArg (·[i]?) parked)
    rw [List.getElem?_map, hw] at found
    exact Option.some.inj found
  subst x_eq
  exact ⟨waitEnd_passed waits, waitEnd_waits waits quiet⟩

end

/-! ### An SCLK in which no generation starts and PRESENT stays -/

section
variable {s t : State}

theorem want_bring (n : Nat) (p : Power) (s : State) : (want n p s).pw.bring = s.pw.bring := by
  unfold want
  split <;> rfl

theorem wantOffs_bring (s : State) : (wantOffs s).pw.bring = s.pw.bring := by
  unfold wantOffs
  generalize List.range 78 = l
  induction l generalizing s with
  | nil => rfl
  | cons n l ih =>
    rw [List.foldl_cons, ih]
    split
    · exact want_bring ..
    · rfl

theorem pmTick_bring (s : State) : (pmTick s).pw.bring = s.pw.bring := by
  have request : ∀ t, (pmRequest t).pw.bring = t.pw.bring := fun t => by unfold pmRequest; split <;> rfl
  unfold pmTick
  split
  · rfl
  · split
    · rfl
    · exact (request _).trans (wantOffs_bring s)

theorem presentTry_still (h : s.pw.bring = false) : presentTry s = s := by
  rw [presentTry, presentReady, h]
  rfl

theorem commitTick_none (h : s.gen.armed = none) : commitTick s = s := by rw [commitTick, h]

/-- The state as time has passed, with the errors of the tables found. -/
def passedOn (s : State) : State := pmTick (tableTick (timeTick s))

theorem tick_still (porst : s.pins.porstN = true) (bring : s.pw.bring = false) (armed : s.gen.armed = none) : tick s = passedOn (endOf s) := by
  have f := (endOf_ends s).frame.mono (m := .clk :: .home :: endParts) (by decide) |>.trans ((timeTick_only (endOf s)).mono (by decide))
  have none : commitTick (timeTick (endOf s)) = timeTick (endOf s) := commitTick_none ((congrArg GenSt.armed f.gen).trans armed)
  have pw : (tableTick (timeTick (endOf s))).pw = s.pw := ((tableTick_only _).same .pw (by decide)).trans (f.same .pw (by decide))
  have down : (passedOn (endOf s)).pw.bring = false := (pmTick_bring _).trans ((congrArg PowerSt.bring pw).trans bring)
  rw [tick_eq porst, none]
  exact presentTry_still down

theorem passedOn_ctr (s : State) : (passedOn s).ctr = s.ctr := by
  have table : (tableTick (timeTick s)).ctr = (timeTick s).ctr := (tableTick_only _).same .ctr (by decide)
  exact ((pmTick_only _).same .ctr (by decide)).trans table

theorem pmTick_lanes (s : State) : lanes (pmTick s).pins = lanes s.pins := by
  have request : ∀ t, lanes (pmRequest t).pins = lanes t.pins := fun t => by unfold pmRequest; split <;> rfl
  unfold pmTick
  split
  · rfl
  · split
    · rfl
    · exact (request _).trans (congrArg lanes ((wantOffs_only s).same .pins (by decide)))

theorem passedOn_easy (s : State) : Easy s (passedOn s) := by
  have f := pmTick_only (tableTick (timeTick s))
  have last : Easy (tableTick (timeTick s)) (passedOn s) :=
    ⟨f.notices, congrArg bare (f.same .d0 (by decide)), congrArg bare (f.same .d1 (by decide)), pmTick_lanes _⟩
  exact ((timeTick_calm s).trans (tableTick_calm _)).toEasy.trans last

end

/-! ### Counts (R287, R288, R292, Tables 14.3, 14.4) -/

section
variable {s t : State}

/-- A store in which the entries of a list of different keys are written. -/
theorem sget_foldl_sset {α : Type} [DecidableEq α] {d : Nat → α} (f : Nat → α) (l : List Nat) (nodup : l.Nodup) {st : Store α} (c : swf d st = true) {n : Nat}
    (h : n ∈ l) : sget d (l.foldl (fun a k => sset d a k (f k)) st) n = f n := by
  have other : ∀ (l : List Nat) (st : Store α), n ∉ l → sget d (l.foldl (fun a k => sset d a k (f k)) st) n = sget d st n := fun l => by
    induction l with
    | nil => intros; rfl
    | cons k l ih =>
      intro st h
      rw [List.foldl_cons, ih _ fun x => h (List.mem_cons_of_mem k x), sget_sset_ne _ _ _ fun e => h (List.mem_cons.mpr (.inl e))]
  induction l generalizing st with
  | nil => exact absurd h List.not_mem_nil
  | cons k l ih =>
    obtain ⟨fresh, nodup⟩ := List.nodup_cons.mp nodup
    rw [List.foldl_cons]
    rcases List.mem_cons.mp h with rfl | h
    · rw [other l _ fresh, sget_sset _ _ _ _ none c]
    · exact ih nodup (swf_sset _ _ _ _ c) h

/-- The counter after the SCLK's occurrences. -/
theorem settle_get (c : swf (fun _ => Ctr.reset) s.ctr.ctr = true) (some : s.ctr.occ.isEmpty = false) {n : Nat} (h : n < 64) :
    ctrGet (settle s) n = (ctNext s n).1 := by
  have ctr : (settle s).ctr.ctr = (List.range 64).foldl (fun a k => sset (fun _ => Ctr.reset) a k (ctNext s k).1) s.ctr.ctr := by
    unfold settle
    rw [some, if_neg Bool.false_ne_true]
    dsimp only
    rw [List.foldl_map]
  rw [ctrGet, ctr]
  exact sget_foldl_sset (fun k => (ctNext s k).1) _ List.nodup_range c (List.mem_range.mpr h)

/-- An occurrence of event SCLK. -/
def sclkOcc : Occ := { ev := 1, kind := .u, subj := subjNone, n := 1, ord := 7 }

/-- A counter of event SCLK counts the one occurrence of an SCLK. -/
theorem ctOccs_sclk {e : Nat} {c : Ctr} (one : s.ctr.occ.filter (·.ev == 1) = [sclkOcc]) (ev : ctEvent e = 1) (en : ctEn e = true) (run : c.run = true)
    (pass : ctPasses e .u subjNone = true) : ctOccs s e c = [sclkOcc] := by
  have same : (fun o : Occ => o.n != 0 && o.ev.toNat == 1 && ctPasses e o.kind o.subj) =
      fun o => (o.n != 0 && ctPasses e o.kind o.subj) && (o.ev == 1) := by
    funext o
    have key : (o.ev.toNat == 1) = (o.ev == 1) := by
      rw [Bool.eq_iff_iff, beq_iff_eq, beq_iff_eq, ← BitVec.toNat_inj]
      rfl
    rw [key, Bool.and_right_comm]
  have kept : s.ctr.occ.filter (fun o => o.n != 0 && o.ev.toNat == 1 && ctPasses e o.kind o.subj) = [sclkOcc] := by
    rw [same, ← List.filter_filter, one, List.filter_cons]
    simp [sclkOcc, pass]
  rw [ctOccs, en, run, ev]
  simp only [kept]
  simp [isGauge, sclkOcc, List.range_succ]

/-- An own event that occurs once, and does not carry. -/
theorem ctNext_sclk {n : Nat} (one : s.ctr.occ.filter (·.ev == 1) = [sclkOcc]) (ev : ctEvent (ctE s.t n) = 1) (en : ctEn (ctE s.t n) = true)
    (run : (ctrGet s n).run = true) (pass : ctPasses (ctE s.t n) .u subjNone = true) (own : chained s n = false) (room : (ctrGet s n).val.toNat + 1 < 2 ^ 48) :
    (ctNext s n).1 = { ctrGet s n with val := (ctrGet s n).val + 1 } := by
  have occs := ctOccs_sclk one ev en run pass
  have next : BitVec.ofNat 48 ((ctrGet s n).val.toNat + 1) = (ctrGet s n).val + 1 := by
    rw [BitVec.ofNat_add, BitVec.ofNat_toNat, BitVec.setWidth_eq]
    rfl
  have add : ctAdd (ctE s.t n) (ctrGet s n) 1 = ((ctrGet s n).val + 1, false) := by
    rw [ctAdd, if_neg (by omega), next]
  have result : ctOwn s n = ({ ctrGet s n with val := (ctrGet s n).val + 1 }, false, none) := by
    rw [ctOwn]
    simp only [occs]
    simp [sclkOcc, add]
  rw [ctNext, own, if_neg Bool.false_ne_true, result]
  rfl

theorem pdOn_congr (h : t.pw.dom = s.pw.dom) (n : Nat) : pdOn t n = pdOn s n := by rw [pdOn, pdOn, pdState_congr h]

/-- F0 counts one. -/
theorem fctr_zero (c : Canonical s) (on : pdOn s 76 = true) : sclkCounts (fctr 0 1 s).ctr =
    ((s.ctr.ctr, sget (fun _ => 0) s.ctr.f 0 + 1, s.ctr.occ.filter (·.ev == 1)), s.ctr.rst, s.ctr.cls) := by
  rw [fctr, on, sclkCounts]
  show ((s.ctr.ctr, sget _ (sset (fun _ => 0) s.ctr.f 0 _) 0, _), _, _) = _
  rw [sget_sset _ _ _ _ none c.f]
  rfl

theorem occU_sclk (on : pdOn s 76 = true) : sclkCounts (occU 0x01 1 s).ctr =
    ((s.ctr.ctr, sget (fun _ => 0) s.ctr.f 0, s.ctr.occ.filter (·.ev == 1) ++ [sclkOcc]), s.ctr.rst, s.ctr.cls) := by
  have one : occU 0x01 1 s = { s with ctr := { s.ctr with occ := s.ctr.occ ++ [sclkOcc] } } := by
    rw [occU, occ, occAt, on]
    rfl
  rw [one, sclkCounts, List.filter_append]
  rfl

/-- The counts of an SCLK as they are added: F0 has counted, and event SCLK has occurred once more. -/
theorem levelTick_counts (c : Canonical s) (on : pdOn s 76 = true) : sclkCounts (levelTick (slotTick s)).ctr =
    ((s.ctr.ctr, sget (fun _ => 0) s.ctr.f 0 + 1, s.ctr.occ.filter (·.ev == 1) ++ [sclkOcc]), s.ctr.rst, s.ctr.cls) := by
  have slots := (slotTick_calm s on).counts.trans (fctr_zero c on)
  have on' : pdOn (slotTick s) 76 = true := (pdOn_congr ((slotTick_only s).same .dom (by decide)) 76).trans on
  have level := (levelTick_calm (slotTick s)).counts.trans (occU_sclk on')
  simp only [sclkCounts, Prod.mk.injEq] at slots
  obtain ⟨⟨ctr, f, occ⟩, rst, cls⟩ := slots
  rw [level, ctr, f, occ, rst, cls]

theorem settle_marks (s : State) : (settle s).ctr.rst = s.ctr.rst ∧ (settle s).ctr.cls = s.ctr.cls ∧ (settle s).ctr.f = s.ctr.f := by
  unfold settle
  split
  · exact ⟨rfl, rfl, rfl⟩
  · exact ⟨rfl, rfl, rfl⟩

/-- Counter `n` counts event SCLK alone (R287, R288, R292, Table 14.4). -/
structure CountsSclk (s : State) (n : Nat) : Prop where
  lt : n < 64
  event : ctEvent (ctE s.t n) = 1
  enabled : ctEn (ctE s.t n) = true
  runs : (ctrGet s n).run = true
  passes : ctPasses (ctE s.t n) .u subjNone = true
  own : chained s n = false
  room : (ctrGet s n).val.toNat + 1 < 2 ^ 48

/-- The tables and the counter decide. -/
theorem CountsSclk.congr {n : Nat} (h : CountsSclk s n) (gen : t.gen = s.gen) (get : ctrGet t n = ctrGet s n) : CountsSclk t n := by
  have entry : t.t = s.t := congrArg GenSt.live gen
  refine ⟨h.lt, ?_, ?_, ?_, ?_, ?_, ?_⟩
  · rw [entry]; exact h.event
  · rw [entry]; exact h.enabled
  · rw [get]; exact h.runs
  · rw [entry]; exact h.passes
  · rw [chained, entry]; exact h.own
  · rw [get]; exact h.room

theorem settle_sclk {n : Nat} (h : CountsSclk s n) (c : swf (fun _ => Ctr.reset) s.ctr.ctr = true) (one : s.ctr.occ.filter (·.ev == 1) = [sclkOcc]) :
    ctrGet (settle s) n = { ctrGet s n with val := (ctrGet s n).val + 1 } := by
  have some : s.ctr.occ.isEmpty = false := by
    cases e : s.ctr.occ with
    | nil => rw [e] at one; cases one
    | cons o l => rfl
  exact (settle_get c some h.lt).trans (ctNext_sclk one h.event h.enabled h.runs h.passes h.own h.room)

theorem ctrTick_eq (s : State) : ctrTick s = resetTick (capTick (sampTick (segTick (ovfTick (settle (levelTick (slotTick s))))))) := rfl

theorem resetTick_none (rst : s.ctr.rst = []) (cls : s.ctr.cls = []) : (resetTick s).ctr.ctr = s.ctr.ctr ∧ (resetTick s).ctr.f = s.ctr.f := by
  have none : (s.ctr.rst.isEmpty && s.ctr.cls.isEmpty) = true := by rw [rst, cls]; rfl
  exact ⟨if_pos none, rfl⟩

/-- What follows the settling of the counters leaves them, without a reset and a classified request. -/
theorem afterSettle_keeps (rst : s.ctr.rst = []) (cls : s.ctr.cls = []) :
    (resetTick (capTick (sampTick (segTick (ovfTick s))))).ctr.ctr = s.ctr.ctr ∧
      sget (fun _ => 0) (resetTick (capTick (sampTick (segTick (ovfTick s))))).ctr.f 0 = sget (fun _ => 0) s.ctr.f 0 := by
  have calm : Calm s (capTick (sampTick (segTick (ovfTick s)))) :=
    (((ovfTick_calm s).trans (segTick_calm _)).trans (sampTick_calm _)).trans (capTick_calm _)
  generalize capTick (sampTick (segTick (ovfTick s))) = v at calm ⊢
  have counts := calm.counts
  simp only [sclkCounts, Prod.mk.injEq] at counts
  obtain ⟨⟨ctr, f, -⟩, vrst, vcls⟩ := counts
  obtain ⟨kept, keptF⟩ := resetTick_none (vrst.trans rst) (vcls.trans cls)
  exact ⟨kept.trans ctr, (congrArg (fun x => sget (fun _ => 0) x 0) keptF).trans f⟩

theorem ctrTick_counts {n : Nat} (h : CountsSclk s n) (c : Canonical s) (on : pdOn s 76 = true) (occ : s.ctr.occ.filter (·.ev == 1) = [])
    (rst : s.ctr.rst = []) (cls : s.ctr.cls = []) : ctrGet (ctrTick s) n = { ctrGet s n with val := (ctrGet s n).val + 1 } ∧
      sget (fun _ => 0) (ctrTick s).ctr.f 0 = sget (fun _ => 0) s.ctr.f 0 + 1 := by
  have counts := levelTick_counts c on
  have cz : Canonical (levelTick (slotTick s)) := c.slotTick.levelTick
  have gen : (levelTick (slotTick s)).gen = s.gen := ((levelTick_only _).gen).trans (slotTick_only s).gen
  rw [ctrTick_eq]
  generalize levelTick (slotTick s) = z at counts cz gen ⊢
  rw [occ, rst, cls] at counts
  simp only [sclkCounts, Prod.mk.injEq] at counts
  obtain ⟨⟨zctr, zf, zocc⟩, zrst, zcls⟩ := counts
  have get : ctrGet z n = ctrGet s n := congrArg (fun a => sget (fun _ => Ctr.reset) a n) zctr
  obtain ⟨wrst, wcls, wf⟩ := settle_marks z
  obtain ⟨ctr, f⟩ := afterSettle_keeps (wrst.trans zrst) (wcls.trans zcls)
  refine ⟨?_, f.trans ((congrArg (fun x => sget (fun _ => 0) x 0) wf).trans zf)⟩
  calc _ = ctrGet (settle z) n := congrArg (fun a => sget (fun _ => Ctr.reset) a n) ctr
    _ = { ctrGet z n with val := (ctrGet z n).val + 1 } := settle_sclk (h.congr gen get) cz.ctr zocc
    _ = _ := by rw [get]

theorem sclkCounted : SclkCounted := by
  intro s n empty porst on bring armed c occ rst cls lt ev en run pass own room
  have ends := ((sTick_ends s).trans (rptTick_ends _)).trans (tallyTick_ends (rptTick (sTick s)))
  have cx : Canonical (tallyTick (rptTick (sTick s))) := c.sTick.rptTick.tallyTick
  have calm : Calm s (tallyTick (rptTick (sTick s))) := ((sTick_calm s).trans (rptTick_calm _)).trans (tallyTick_calm _)
  have last : (tick s).ctr = (ctrTick (tallyTick (rptTick (sTick s)))).ctr := by
    rw [tick_still porst bring armed]
    exact (passedOn_ctr _).trans (((portTick_only _).same .ctr (by decide)).trans ((peatEnd_only _).same .ctr (by decide)))
  generalize tallyTick (rptTick (sTick s)) = x at ends cx calm last
  have onx : pdOn x 76 = true := (pdOn_congr (ends.frame.same .dom (by decide)) 76).trans on
  have start := calm.counts
  simp only [sclkCounts, Prod.mk.injEq] at start
  obtain ⟨⟨xctr, xf, xocc⟩, xrst, xcls⟩ := start
  have get : ctrGet x n = ctrGet s n := congrArg (fun a => sget (fun _ => Ctr.reset) a n) xctr
  have counts : CountsSclk s n := ⟨lt, ev, en, run, pass, own, room⟩
  obtain ⟨value, f0⟩ := ctrTick_counts (counts.congr ends.frame.gen get) cx onx (by rw [xocc, occ]; rfl) (xrst.trans rst) (xcls.trans cls)
  refine ⟨tick s, step_empty empty, ?_, ?_⟩
  · exact (congrArg (fun y : CtrSt => sget (fun _ => Ctr.reset) y.ctr n) last).trans (value.trans (by rw [get]))
  · have sum : sget (fun _ => 0) (tick s).ctr.f 0 = sget (fun _ => 0) s.ctr.f 0 + 1 := by rw [last, f0, xf]
    rw [fctrGet, sum, BitVec.toNat_add]
    rfl

end

/-! ### Credits (R227, R331, R332) -/

section
variable {g : Tables} {x y : PortSt} {c : Nat}

/-- The credits of a class that are out, and those owed to it. -/
def credit (x : PortSt) (c : Nat) : Nat × Nat := (qGet x c, owedGet x c)

/-- What waits at a port. -/
def entries (x : PortSt) : List Ing × Option Ing := (x.ing, x.skid)

/-- A class below QRES is raised to it. -/
def topUp (g : Tables) (x : PortSt) (c : Nat) : PortSt :=
  if qGet x c < clsQres g c then owedSet c (owedGet x c + (clsQres g c - qGet x c)) (qSet c (clsQres g c) x) else x

/-- The lane sends a class one credit. -/
def sendOne (x : PortSt) (c : Nat) : PortSt := owedSet c (owedGet x c - 1) x

theorem owedSet_other (x : PortSt) (n : Nat) {k : Nat} (h : c ≠ k) : credit (owedSet k n x) c = credit x c :=
  Prod.ext rfl (sget_sset_ne _ _ _ h)

theorem qSet_other (x : PortSt) (n : Nat) {k : Nat} (h : c ≠ k) : credit (qSet k n x) c = credit x c := Prod.ext (sget_sset_ne _ _ _ h) rfl

theorem owedSet_own (h : PortCanonical x) (n : Nat) : credit (owedSet c n x) c = (qGet x c, n) := Prod.ext rfl (sget_sset _ _ _ _ none h.owed)

theorem qSet_own (h : PortCanonical x) (n : Nat) : credit (qSet c n x) c = (n, owedGet x c) := Prod.ext (sget_sset _ _ _ _ none h.q) rfl

theorem topUp_other (x : PortSt) {k : Nat} (h : c ≠ k) : credit (topUp g x k) c = credit x c := by
  unfold topUp
  split
  · rw [owedSet_other _ _ h, qSet_other _ _ h]
  · rfl

theorem topUp_own (h : PortCanonical x) : credit (topUp g x c) c = (max (qGet x c) (clsQres g c), owedGet x c + (clsQres g c - qGet x c)) := by
  unfold topUp
  split
  next lt =>
    rw [owedSet_own h.qSet, show qGet (qSet c (clsQres g c) x) c = _ from congrArg Prod.fst (qSet_own h _), Nat.max_eq_right (Nat.le_of_lt lt)]
  next ge => rw [Nat.max_eq_left (by omega), Nat.sub_eq_zero_of_le (by omega)]; rfl

theorem topUp_canonical (h : PortCanonical x) (k : Nat) : PortCanonical (topUp g x k) := by
  unfold topUp
  split
  · exact h.qSet.owedSet
  · exact h

/-- Each class of a list changes by its own step alone. -/
theorem credit_foldl {f : PortSt → Nat → PortSt} {φ : Nat → Nat × Nat → Nat × Nat} (other : ∀ x {k c}, c ≠ k → credit (f x k) c = credit x c)
    (own : ∀ {x} k, PortCanonical x → credit (f x k) k = φ k (credit x k)) (keep : ∀ {x} k, PortCanonical x → PortCanonical (f x k))
    (l : List Nat) (nodup : l.Nodup) (h : PortCanonical x) (hc : c ∈ l) : credit (l.foldl f x) c = φ c (credit x c) := by
  have rest : ∀ (l : List Nat) (x : PortSt), c ∉ l → credit (l.foldl f x) c = credit x c := fun l => by
    induction l with
    | nil => intros; rfl
    | cons k l ih =>
      intro x h
      rw [List.foldl_cons, ih _ fun y => h (List.mem_cons_of_mem k y), other _ fun e => h (List.mem_cons.mpr (.inl e))]
  induction l generalizing x with
  | nil => exact absurd hc List.not_mem_nil
  | cons k l ih =>
    obtain ⟨fresh, nodup⟩ := List.nodup_cons.mp nodup
    rw [List.foldl_cons]
    rcases List.mem_cons.mp hc with rfl | hc
    · rw [rest l _ fresh, own _ h]
    · have apart : c ≠ k := fun e => fresh (e ▸ hc)
      rw [ih nodup (keep k h) hc, other _ apart]

theorem entries_foldl {f : PortSt → Nat → PortSt} (one : ∀ x k, entries (f x k) = entries x) (l : List Nat) (x : PortSt) :
    entries (l.foldl f x) = entries x := by
  induction l generalizing x with
  | nil => rfl
  | cons k l ih => exact (ih _).trans (one x k)

/-- The reservations, and the credits that stand above them (R227). -/
def reserved (g : Tables) (x : PortSt) : Nat := (List.range 16).foldl (fun a k => a + max (qGet x k) (clsQres g k)) 0

theorem portTop_eq (g : Tables) (x : PortSt) : portTop g x = if 128 < reserved g x then x else (List.range 16).foldl (topUp g) x := by
  unfold portTop reserved topUp
  rfl

theorem grantSent_eq (x : PortSt) : grantSent x = (List.range 16).foldl sendOne x := by
  unfold grantSent sendOne
  rfl

theorem topUp_entries (x : PortSt) (k : Nat) : entries (topUp g x k) = entries x := by unfold topUp; split <;> rfl

theorem sendOne_entries (x : PortSt) (k : Nat) : entries (sendOne x k) = entries x := rfl

theorem portTop_entries (g : Tables) (x : PortSt) : entries (portTop g x) = entries x := by
  rw [portTop_eq]
  split
  · rfl
  · exact entries_foldl (f := topUp g) topUp_entries _ x

theorem grantSent_entries (x : PortSt) : entries (grantSent x) = entries x := by
  rw [grantSent_eq]
  exact entries_foldl (f := sendOne) sendOne_entries _ x

theorem portTop_fits (h : PortCanonical x) (hc : c < 16) (fits : reserved g x ≤ 128) :
    credit (portTop g x) c = (max (qGet x c) (clsQres g c), owedGet x c + (clsQres g c - qGet x c)) := by
  rw [portTop_eq, if_neg (Nat.not_lt.mpr fits)]
  exact credit_foldl (f := topUp g) (φ := fun k v => (max v.1 (clsQres g k), v.2 + (clsQres g k - v.1))) (fun x => topUp_other x) (fun _ h => topUp_own h)
    (fun k h => topUp_canonical h k) _ List.nodup_range h (List.mem_range.mpr hc)

theorem portTop_full (full : 128 < reserved g x) : portTop g x = x := by rw [portTop_eq, if_pos full]

theorem portTop_canonical (h : PortCanonical x) : PortCanonical (portTop g x) := by
  rw [portTop_eq]
  split
  · exact h
  · exact PortCanonical.foldl (f := topUp g) h (fun h => topUp_canonical h _)

theorem grantSent_credit (h : PortCanonical x) (hc : c < 16) : credit (grantSent x) c = (qGet x c, owedGet x c - 1) := by
  rw [grantSent_eq]
  exact credit_foldl (f := sendOne) (φ := fun _ v => (v.1, v.2 - 1)) (fun x => owedSet_other x _) (fun _ h => owedSet_own h _) (fun _ h => h.owedSet) _ List.nodup_range h
    (List.mem_range.mpr hc)

/-- The bits of the classes that a predicate picks. -/
theorem testBit_foldl_bits (f : Nat → Bool) {n c : Nat} (h : c < n) :
    ((List.range n).foldl (fun a i => a + if f i then 2 ^ i else 0) 0).testBit c = f c := by
  induction n with
  | zero => omega
  | succ n ih =>
    have lt := foldl_bits_lt f n
    rw [List.range_succ, List.foldl_append]
    show ((List.range n).foldl (fun a i => a + if f i then 2 ^ i else 0) 0 + if f n then 2 ^ n else 0).testBit c = f c
    generalize (List.range n).foldl (fun a i => a + if f i then 2 ^ i else 0) 0 = a at ih lt ⊢
    rcases Nat.lt_succ_iff_lt_or_eq.mp h with h | rfl
    · cases f n with
      | false => exact ih h
      | true => rw [if_pos rfl, Nat.add_comm, Nat.testBit_two_pow_add_gt h, ih h]
    · cases f c with
      | false => exact Nat.testBit_lt_two_pow lt
      | true => rw [if_pos rfl, Nat.add_comm, Nat.testBit_two_pow_add_eq, Nat.testBit_lt_two_pow lt]; rfl

/-- The lane serves the classes that are owed a credit. -/
theorem grantBits_bit (x : PortSt) (hc : c < 16) : (grantBits x).getLsbD c = decide (0 < owedGet x c) := by
  have bits : (List.range 16).foldl (fun a c => if owedGet x c = 0 then a else a + 2 ^ c) 0 =
      (List.range 16).foldl (fun a i => a + if decide (0 < owedGet x i) then 2 ^ i else 0) 0 := by
    congr 1
    funext a i
    by_cases z : owedGet x i = 0
    · simp [z]
    · simp [z, Nat.pos_of_ne_zero z]
  rw [grantBits, bits, BitVec.getLsbD_ofNat, testBit_foldl_bits (fun i => decide (0 < owedGet x i)) hc, decide_eq_true hc, Bool.true_and]

end

section
variable {s t : State} {p : DPort} {c : Nat}

/-- The credits that the lane of a port sends. -/
def laneBits (x : Pins) : DPort → BitVec 16
  | .d0 => x.cgnt0
  | .d1 => x.cgnt1

theorem lanes_bits {x y : Pins} (h : lanes x = lanes y) (p : DPort) : laneBits x p = laneBits y p := by
  cases p
  · exact congrArg (fun l => l.1.2.2.1) h
  · exact congrArg (fun l => l.1.2.2.2) h

theorem lanes_irdy (h : lanes t.pins = lanes s.pins) (p : DPort) : irdy t p = irdy s p := by
  cases p
  · exact congrArg (fun l => l.1.1) h
  · exact congrArg (fun l => l.1.2.1) h

/-- The ports at the end of an SCLK while the datapath is present. -/
theorem portTick_present (h : s.pins.present = true) (p : DPort) : portGet (portTick s) p = grantSent (portTop s.t (portGet s p)) ∧
    irdy (portTick s) p = (portTop s.t (portGet s p)).skid.isNone ∧ laneBits (portTick s).pins p = grantBits (portTop s.t (portGet s p)) := by
  rw [portTick, h]
  cases p <;> exact ⟨rfl, rfl, rfl⟩

/-- The state as the ports' credits are granted. -/
def portsEnd (s : State) : State := peatEnd (ctrTick (tallyTick (rptTick (sTick s))))

theorem endOf_ports (s : State) : endOf s = portTick (portsEnd s) := rfl

theorem portsEnd_easy (s : State) : Easy s (portsEnd s) :=
  (((sTick_calm s).trans (rptTick_calm _)).trans (tallyTick_calm _)).toEasy.trans (endRest_easy _)

theorem portsEnd_ends (s : State) : Ends s (portsEnd s) :=
  ((((sTick_ends s).trans (rptTick_ends _)).trans (tallyTick_ends _)).trans (ctrTick_ends _)).trans (peatEnd_ends _)

/-- What an SCLK leaves of a port: what waits there, the credits after the grants, and what its lane sends. -/
structure PortGranted (s u : State) (p : DPort) (x : PortSt) : Prop where
  same : bare x = bare (portGet s p)
  port : bare (portGet u p) = bare (grantSent (portTop s.t x))
  irdy : irdy u p = (portTop s.t x).skid.isNone
  bits : laneBits u.pins p = grantBits (portTop s.t x)

theorem tick_granted (porst : s.pins.porstN = true) (present : s.pins.present = true) (bring : s.pw.bring = false) (armed : s.gen.armed = none)
    (p : DPort) : ∃ x, PortGranted s (tick s) p x := by
  have ends := portsEnd_ends s
  have up : (portsEnd s).pins.present = true := (congrArg Prod.fst (ends.frame.same .life (by decide))).trans present
  have tables : (portsEnd s).t = s.t := congrArg GenSt.live ends.frame.gen
  obtain ⟨port, ready, bits⟩ := portTick_present up p
  have after := passedOn_easy (portTick (portsEnd s))
  rw [tick_still porst bring armed, endOf_ports]
  rw [tables] at port ready bits
  exact ⟨portGet (portsEnd s) p, (portsEnd_easy s).port p, (after.port p).trans (congrArg bare port), (lanes_irdy after.lanes p).trans ready,
    (lanes_bits after.lanes p).trans bits⟩

/-- Ports alike but for messages hold the same credits and entries. -/
theorem bare_credit {x y : PortSt} (h : bare x = bare y) (c : Nat) : credit x c = credit y c := (congrArg (credit · c) h :)
theorem bare_entries {x y : PortSt} (h : bare x = bare y) : entries x = entries y := (congrArg entries h :)
theorem bare_reserved {x y : PortSt} (h : bare x = bare y) (g : Tables) : reserved g x = reserved g y := (congrArg (reserved g) h :)
theorem bare_canonical {x y : PortSt} (h : bare x = bare y) (k : PortCanonical y) : PortCanonical x :=
  by
  have q : x.q = y.q := (congrArg PortSt.q h :)
  have owed : x.owed = y.owed := (congrArg PortSt.owed h :)
  exact ⟨q ▸ k.q, owed ▸ k.owed⟩

theorem Canonical.port_canonical (h : Canonical s) (p : DPort) : PortCanonical (portGet s p) := by
  cases p
  · exact ⟨h.q0, h.owed0⟩
  · exact ⟨h.q1, h.owed1⟩

/-- With the credits of a class before the lane serves it, what the SCLK leaves of them. -/
theorem PortGranted.class {u : State} {x : PortSt} {q o : Nat} (h : PortGranted s u p x) (k : PortCanonical (portGet s p)) (hc : c < 16)
    (top : credit (portTop s.t x) c = (q, o)) :
    qGet (portGet u p) c = q ∧ owedGet (portGet u p) c = o - 1 ∧ (laneBits u.pins p).getLsbD c = decide (0 < o) := by
  have canon : PortCanonical (portTop s.t x) := portTop_canonical (bare_canonical h.same k)
  have owed : owedGet (portTop s.t x) c = o := congrArg Prod.snd top
  have sent := (bare_credit h.port c).trans (grantSent_credit canon hc)
  rw [owed, show qGet (portTop s.t x) c = q from congrArg Prod.fst top] at sent
  refine ⟨congrArg Prod.fst sent, congrArg Prod.snd sent, ?_⟩
  rw [h.bits, grantBits_bit _ hc, owed]

theorem creditsGranted : CreditsGranted := by
  intro s p c empty porst present bring armed canon hc
  obtain ⟨x, g⟩ := tick_granted porst present bring armed p
  have k := canon.port_canonical p
  have before : credit x c = (qGet (portGet s p) c, owedGet (portGet s p) c) := bare_credit g.same c
  have q : qGet x c = qGet (portGet s p) c := congrArg Prod.fst before
  have o : owedGet x c = owedGet (portGet s p) c := congrArg Prod.snd before
  have kept : entries (portGet (tick s) p) = entries (portGet s p) :=
    (bare_entries g.port).trans ((grantSent_entries _).trans ((portTop_entries ..).trans (bare_entries g.same)))
  have skid : (portTop s.t x).skid = (portGet s p).skid := congrArg Prod.snd ((portTop_entries s.t x).trans (bare_entries g.same))
  have sum : reserved s.t x = reserved s.t (portGet s p) := bare_reserved g.same s.t
  refine ⟨tick s, step_empty empty, g.irdy.trans (congrArg Option.isNone skid), congrArg Prod.fst kept, fun fits => ?_, fun full => ?_⟩
  · have top := portTop_fits (bare_canonical g.same k) hc (sum.trans_le fits)
    rw [q, o] at top
    obtain ⟨q', o', bit⟩ := g.class k hc top
    exact ⟨q', o', by cases p <;> exact bit⟩
  · have top : credit (portTop s.t x) c = (qGet (portGet s p) c, owedGet (portGet s p) c) := by
      rw [portTop_full (full.trans_eq sum.symm), before]
    obtain ⟨q', o', bit⟩ := g.class k hc top
    exact ⟨q', o', by cases p <;> exact bit⟩

end

end Sys2Proof.Machine

namespace Sys2Proof
open Machine

/-- Settles O2: each piece of an SCLK keeps what the others are about, so that time, reports, credits, counts and waits are found one by one. -/
theorem tickAdvancesTime : Obligations.TickAdvancesTime := ⟨tickTime, reportsApplied, creditsGranted, sclkCounted, waitsMarked⟩

end Sys2Proof
end
